-- ==== Sys2Proof/Word.lean ====
section
/-!
DEFINITION. The word types of the Trirdayth and their plainest arithmetic (R5, R6).
-/

namespace Sys2Proof

/-- A byte of host memory, HBM, a Yard, a Deck or the NOR flash. -/
abbrev Byte := BitVec 8

/-- A register word (R520). -/
abbrev Word := BitVec 32

/-- A descriptor: 128 bytes, little-endian (R6, R46). -/
abbrev Desc := BitVec 1024

/-- Bits `[hi:lo]` of a natural number (R5). -/
def bits (x hi lo : Nat) : Nat := (x >>> lo) % 2 ^ (hi + 1 - lo)

/-- Whether bit `i` of a natural number is set. -/
def bit (x i : Nat) : Bool := (x >>> i) % 2 == 1

/-- A truth value as 0 or 1. -/
def nat01 (b : Bool) : Nat := if b then 1 else 0

/-- An unsigned saturating sum. -/
def satAdd (top a b : Nat) : Nat := min top (a + b)

/-- `ceil (a / b)`. -/
def ceilDiv (a b : Nat) : Nat := (a + b - 1) / b

/-- A two's-complement reading of the low `w` bits. -/
def toSigned (w x : Nat) : Int :=
  if x % 2 ^ w < 2 ^ (w - 1) then (x % 2 ^ w : Nat) else ((x % 2 ^ w : Nat) : Int) - (2 ^ w : Nat)

/-- The low `w` bits of the two's complement of an integer. -/
def ofSigned (w : Nat) (i : Int) : Nat := (i % ((2 ^ w : Nat) : Int)).toNat

end Sys2Proof
end

