-- ==== Sys2Proof/Machine/Types.lean ====
section
/-!
DEFINITION. The plain data that the State and the commands are made of, unit by unit.
-/

namespace Sys2Proof.Machine

/-- What ECC found in the HBM accesses of one command (R24, R25). -/
inductive Ecc where
  | ok
  | corrected (off : Nat)
  | uncorrectable (off : Nat)
  deriving DecidableEq, Repr

/-! ### Frames and what they carry -/

/-- A Chain frame (R403). -/
inductive ChainFrame where
  | empty
  | contrib (op chan gen index value : Nat)
  | result (op chan gen index value : Nat)
  | fault (chip link cause : Nat)
  | time (kind seq stamp : Nat)
  | announce (rank state hopsLead hops0 chip active parent : Nat)
  deriving DecidableEq, Repr

/-- A rectangle of one role of a parameter, as a piece of a plan names it (R328). -/
structure PieceKey where
  param : Nat
  role : Nat
  row0 : Nat
  nrows : Nat
  col0 : Nat
  ncols : Nat
  deriving DecidableEq, Repr

/-- A piece on its way (R330): its sender, rectangle, values packed row-major and the digest that the sender formed. -/
structure PieceMsg where
  src : Nat
  key : PieceKey
  values : List Byte
  digest : Nat
  deriving DecidableEq, Repr

/-- A rectangle of memory: rows of `len` bytes from `off` on, `pitch` bytes apart. -/
structure Region where
  off : Nat
  pitch : Nat
  rows : Nat
  len : Nat
  deriving DecidableEq, Repr

/-- What a message does on the chip that it reaches.  The spec gives the payloads of CLASS 1 to 7 no layout (R399),
so the model keeps what each means beside its bytes.  A write names the step of its descriptor (R155, R254); `writeCheck`
and `groupCheck` ask the target for the faults that it alone can see, which `verdict` answers, 0 for none; `ackSkip`
acknowledges a write whose training-state bytes the step's decision has skipped.  The data of a collective names the slot id
of its descriptor (R361, R419), 0 for other data. -/
inductive MsgBody where
  | data (cls slot : Nat) (bytes : List Byte)
  | replica (tag : Nat) (value : List Byte)
  | piece (p : PieceMsg)
  | pieceAns (k : PieceKey) (ok : Bool)
  | write (off : Nat) (data : List Byte) (step : Nat)
  | writeCheck (r : Region) (eval : Bool)
  | semAdd (id value : Nat)
  | adder (group index line : Nat) (data : List Byte)
  | groupCheck (group index lines : Nat)
  | verdict (code off : Nat)
  | ack
  | ackSkip
  | refused (group index line : Nat)
  | sideDown
  deriving DecidableEq, Repr

/-- A message with its source chip and the context and submission index of the operation that it answers to. -/
structure Msg where
  src : Nat
  ctx : Nat
  idx : Nat
  body : MsgBody
  deriving DecidableEq, Repr

/-- A message that waits for a frame slot: its CLASS, destination, Far session (R395), slot id (R361), payload and
meaning. -/
structure TxMsg where
  cls : Nat
  chip : Nat
  stand : Nat
  far : Option Nat
  slot : Nat
  payload : List Byte
  msg : Msg
  deriving DecidableEq, Repr

/-- A data frame kept for sending again or for delivery in order (R374, R375): its SEQ, its 544 bytes, its
re-sends, its source message. -/
structure KeptFrame where
  seq : Nat
  bytes : List Byte
  resends : Nat
  msg : Msg
  deriving DecidableEq, Repr

/-- One direction pair of a numbering: a Near link's or a Far session's (R374 to R377); with the times from which R377 counts:
since an ACK advanced, or the oldest frame went, and since A advanced, or a frame was held. -/
structure SeqState where
  nextSeq : Nat
  retry : List KeptFrame
  ack : Nat
  held : List KeptFrame
  nak : Bool
  holdOut : Bool
  peerHold : Bool
  resendq : List Nat
  sentAt : Nat
  tookAt : Nat
  deriving DecidableEq, Repr

/-- The runtime of one link beside its registers (R369 to R392), with the time at which it last accepted a frame (R388). -/
structure LinkRt where
  num : SeqState
  chainq : List ChainFrame
  heard : Nat
  deriving DecidableEq, Repr

/-- The runtime of one Far session beside its registers (R381 to R383, R440, R447): the SEQ that failed its tag last
and how often in a row, the SEQ of the first frame under CUR, the encrypted frames that wait while the engines
stall (R426), with the links they came on, when a frame of the session last arrived on its active route or the route was
taken, when the primary route last came up or was lost (R382), and when it last rolled (R447). -/
structure FarRt where
  num : SeqState
  authSeq : Nat
  authCount : Nat
  firstCur : Option Nat
  stalled : List (Nat × List Byte × Msg)
  heard : Nat
  since : Nat
  rolled : Nat
  deriving DecidableEq, Repr

/-- A loaded slot of the key store (R427); the CMAC subkeys follow from `kMac`. -/
structure KeySlot where
  kEnc : List Nat
  kMac : List Nat
  session : Nat
  epoch : Nat
  nonce : Nat
  deriving DecidableEq, Repr

/-! ### The ordered adder (R177 to R182) -/

/-- An early contribution in a line's reorder window: index, values, arrival, and the operation that sent it. -/
structure Early where
  index : Nat
  data : List Byte
  at_ : Nat
  src : Nat
  ctx : Nat
  idx : Nat
  deriving DecidableEq, Repr

/-- A line of a group once it has been touched: the index it adds next, its early contributions, and the index
counted as overdue. -/
structure SumLine where
  line : Nat
  next : Nat
  early : List Early
  overdue : Option Nat
  deriving DecidableEq, Repr

/-- An open group: id, the SUM_OPEN's context and index, target, lines, integer or FP32, contributors, INIT, the lines
touched, and the contributor indices named by a CONTRIBUTE. -/
structure SumGroup where
  id : Nat
  ctx : Nat
  idx : Nat
  target : Nat
  lines : Nat
  int : Bool
  p : Nat
  init : Bool
  touched : List SumLine
  used : List Nat
  deriving DecidableEq, Repr

/-- A refused contribution that its sender will send again 1 µs after the TAI time `at_` (R179). -/
structure Resend where
  group : Nat
  index : Nat
  line : Nat
  chip : Nat
  data : List Byte
  ctx : Nat
  idx : Nat
  at_ : Nat
  deriving DecidableEq, Repr

/-! ### Contexts -/

/-- A descriptor fetched and not begun (R45), with its submission index. -/
structure Held where
  idx : Nat
  d : Desc
  deriving DecidableEq, Repr

/-- A context (R33 to R45, R598).  `spilling` is 0 while none, 1 toward untracked, 2 toward the overflow queue;
`tails` are the doorbells that wait for the load to end. -/
structure Ctx where
  num : Nat
  sqBase : Nat
  cqBase : Nat
  sqOrder : Nat
  cqOrder : Nat
  vector : Nat
  counterRead : Bool
  sqHead : Nat
  sqTail : Nat
  cqTail : Nat
  cqHead : Nat
  halted : Bool
  loading : Bool
  tails : List Nat
  spilling : Nat
  held : List Held
  reserved : Nat
  lastUse : Nat
  deriving DecidableEq, Repr

/-- An entry of the overflow queue (R67 to R69): a doorbell entry, or a wait entry of a spilled context, and the last use
of its context. -/
structure OvqEntry where
  ctx : Nat
  wait : Bool
  tail : Nat
  use : Nat
  deriving DecidableEq, Repr

/-- The ring engine's state beside its registers.  `idled` are the contexts that became idle while an entry of the
overflow queue was ready, in that order (R69). -/
structure Rings where
  ctxs : List Ctx
  ovq : List OvqEntry
  idled : List Nat
  saved : List Ctx
  refused : List Nat
  useClock : Nat
  lastMsg : List (Nat × Nat)
  merged : List Nat
  msix : List Nat
  deriving DecidableEq, Repr

/-- A completion status (R62). -/
inductive Status where
  | done | doneRecomputed | doneSkipped | parked | tickOverrun | notPositive | illConditioned | infeasible
  | notConverged | streamOverrun | streamUnderrun | authFail | staleRejected | tableFull | checkFail
  | digestMismatch | ctxFault | deviceFault
  deriving DecidableEq, Repr

/-- How an operation ends (R62): the status and its DETAIL. -/
structure OpEnd where
  status : Status
  detail : Nat
  deriving DecidableEq, Repr

/-! ### HBM -/

/-- An access that waits for a granule's copy to end (R27): a host read with what ECC will find, a host write, or a write
that another chip sent. -/
inductive HbmWait where
  | read (off len : Nat) (ecc : Ecc)
  | write (off : Nat) (data : List Byte)
  | remote (m : Msg)
  deriving DecidableEq, Repr

/-- Training-state bytes that another chip's COPY has brought and that wait for the decision of its step (R155): the message
to acknowledge, the step, and the bytes. -/
structure HeldWrite where
  msg : Msg
  step : Nat
  writes : List Host.Cell
  deriving DecidableEq, Repr

/-- ECC and page retirement (R24 to R29) beside their registers: poisoned 64-byte lines, corrected errors by
granule, the retired slots of each stack, the spare slots that failed the test, the granules whose copy runs, and the
accesses that wait. -/
structure Hbm where
  poison : List Nat
  corrected : List (Nat × Nat)
  retired : List (Nat × Nat)
  badSpares : List (Nat × Nat)
  copying : List Nat
  waiting : List HbmWait
  deriving DecidableEq, Repr

/-! ### The Scaler's binding of one operation -/

/-- An operation's binding to a Scaler entry (R139): entry, e, e_in, and the units written with their bump and
whether each fell back. -/
structure Bind where
  entry : Nat
  e : Int
  ein : Int
  units : List (Nat × Nat × Bool)
  deriving DecidableEq, Repr

/-! ### Matrix work -/

/-- Where a tile's run stands: being filled, waiting to be run again, in its sum check, in a comparison of a
duplicate check, or draining. -/
inductive TileStage where
  | filling | waiting | sumCheck | dupCheck | draining
  deriving DecidableEq, Repr

/-- What one run of a tile leaves in a bank: accumulator codes, error codes of a pair, SAT, and whether an infinity or
a NaN arose. -/
structure TileRun where
  outs : List Nat
  errs : List Nat
  sat : Bool
  nf : Bool
  deriving DecidableEq, Repr

/-- A tile that has begun and not drained: its number, its Cell, its bank, the stage of its current run, which run of
a duplicate check this is, runs made, failed sum checks, whether the operation has offered its next tile since, and
the results of the current, the first and the second run. -/
structure Tile where
  t : Nat
  cell : Nat
  bank : Nat
  stage : TileStage
  dup : Nat
  runs : Nat
  fails : Nat
  offered : Bool
  cur : TileRun
  first : TileRun
  second : TileRun
  deriving DecidableEq, Repr

/-- A matrix operation's progress: tiles begun and not drained, tiles drained, how it fails, and the Scaler binding. -/
structure MatWork where
  tiles : List Tile
  drained : List Nat
  failed : Option OpEnd
  bind : Option Bind
  deriving DecidableEq, Repr

/-- A decoded panel in a panel buffer (R303): context, index, panel number, symbols and scale bytes. -/
structure PanelBuf where
  ctx : Nat
  idx : Nat
  tj : Nat
  syms : List Nat
  scales : List Nat
  deriving DecidableEq, Repr

/-- A Cell's array (R109, R110, R601) and flags: the tile filling as (context, index, tile), the bank filled last, the
tiles queued to run again, the operations that have offered a tile, the non-finite flag (R92), whether ACLK is stopped
(R339), and the decoded panel buffers (R303), newest last. -/
structure CellRt where
  filling : Option (Nat × Nat × Nat)
  lastBank : Nat
  reruns : List (Nat × Nat × Nat)
  offers : List (Nat × Nat)
  nf : Bool
  stopped : Bool
  panels : List PanelBuf
  deriving DecidableEq, Repr

/-- The Scaler's counts of one destination format in a step (R149). -/
structure FmtCounts where
  all : Nat
  ovf : Nat
  ftz : Nat
  sub : Nat
  nf : Nat
  deriving DecidableEq, Repr

/-- What one run of a level-2 operation gives beside its outputs (R49): conversions by format, the counts of Scaler entries
by entry × 128 + byte offset, the Cells whose non-finite flag it sets, and the binding whose bumps it leaves. -/
structure RunSide where
  fmt : List (Nat × FmtCounts)
  ents : List (Nat × Nat)
  flags : List Nat
  bind : Option Bind
  deriving DecidableEq, Repr

/-- A standing factor as a reader read it at its beginning (R198): record, SEL, GEN and KIND. -/
structure FacRead where
  num : Nat
  sel : Nat
  gen : Nat
  kind : Nat
  deriving DecidableEq, Repr

/-- A vector operation's progress: units done, units that run, and the Scaler binding. -/
structure VecWork where
  doneUnits : List Nat
  running : List Nat
  bind : Option Bind
  deriving DecidableEq, Repr

-- FAMILIES

/-! ### Time (R343 to R355) -/

/-- The GNSS side of a Lead (R345, R346): the second that the last good message names, whether a good message waits
for its edge, good seconds in a row, missing edges and bad messages in a row. -/
structure Gnss where
  lastSec : Nat
  armed : Bool
  good : Nat
  missedPps : Nat
  missedTod : Nat
  deriving DecidableEq, Repr

/-- A Lead as announcements show it (R344): chip, rank, its TIME_STATUS.STATE, or 3 where only others name it, when last heard. -/
structure LeadSeen where
  chip : Nat
  rank : Nat
  state : Nat
  heard : Nat
  deriving DecidableEq, Repr

/-- A two-way time exchange under way (R347): link, SEQ, t1, and t2, t4 once known. -/
structure TimeExch where
  link : Nat
  seq : Nat
  t1 : Nat
  t2 : Nat
  t4 : Nat
  stage : Nat
  deriving DecidableEq, Repr

/-- The time unit beside its registers: the TAI count, whether it runs, the number of ticks taken, the next tick to
take, GNSS, the Leads seen, the exchange under way and the last SEQ used, the offset still to slew and the cycles since
its last nanosecond, when a time frame of the active Lead last arrived (R349), until when PPS_OUT is high, the last TOD_OUT message, the windows that are open, when holdover
began, and whether the tick path has failed (R31). -/
structure TimeRt where
  tai : Nat
  running : Bool
  ticksTaken : Nat
  nextTick : Nat
  gnss : Gnss
  leads : List LeadSeen
  exch : Option TimeExch
  exchSeq : Nat
  slew : Int
  slewClock : Nat
  leadFrame : Nat
  ppsUntil : Nat
  todOut : List Byte
  windows : List Nat
  holdFrom : Nat
  tickDead : Bool
  deriving DecidableEq, Repr

/-- The crossings of clock domains (R336 to R341): the merge-class events that each block, by its address, has yet to take
(R338), and the parts of an FCLK and an ACLK cycle that the last TCLK cycle left, in tenths and thousandths. -/
structure CrossRt where
  notices : List (Nat × Nat)
  fclk : Nat
  aclk : Nat
  deriving DecidableEq, Repr

/-! ### The Chain network (R403 to R408) -/

/-- A neighbour as its announcements show it (R404). -/
structure Neigh where
  link : Nat
  chip : Nat
  hops0 : Nat
  hopsLead : Nat
  parent : Nat
  deriving DecidableEq, Repr

/-- A reduction instance (R405 to R407): what this chip holds of it, and when it last contributed. -/
structure ChainInst where
  chan : Nat
  gen : Nat
  index : Nat
  op : Nat
  own : Option Nat
  kids : List (Nat × Nat)
  sent : Bool
  result : Option Nat
  sentAt : Nat
  deriving DecidableEq, Repr

/-- The Chain router beside its registers: neighbours, instances, when the tree last changed, whether a stand fault
has been seen. -/
structure ChainRt where
  neigh : List Neigh
  insts : List ChainInst
  changedAt : Nat
  faultSeen : Bool
  deriving DecidableEq, Repr

/-- A barrier unit (R410). -/
structure BarrierRt where
  axes : Nat
  valid : Bool
  gen : Nat
  arrived : Bool
  deriving DecidableEq, Repr

/-! ### Pannier channels (R320 to R325) -/

/-- A transfer of a Pannier channel under way: its place in HBM, its block in the slow tier, its length, its entry of the digest
array, the semaphore that its end raises, and whether ENABLE has been written to 1 since it began (R325). -/
structure PanMove where
  hbm : Nat
  slow : Nat
  len : Nat
  dig : Nat
  sem : Nat
  stale : Bool
  deriving DecidableEq, Repr

/-- A Pannier channel beside its registers: the bases of its request semaphores, spills and fills ended, the spill and the fill
under way, and the fetches that differed in the running fill. -/
structure PanRt where
  bo : Nat
  bi : Nat
  spills : Nat
  fills : Nat
  spilling : Option PanMove
  filling : Option PanMove
  differed : Nat
  deriving DecidableEq, Repr

/-! ### Parameters, the skid buffer, replicas (R250 to R280) -/

/-- A request for a skid entry that waits for its grant (R263, R264). -/
structure SkidReq where
  ctx : Nat
  idx : Nat
  param : Nat
  need : Nat
  deriving DecidableEq, Repr

/-- A skid entry: the UPDATE and parameter it serves, its pages, and whether the gradient's copy has ended. -/
structure SkidEntry where
  ctx : Nat
  idx : Nat
  param : Nat
  pages : List Nat
  copied : Bool
  deriving DecidableEq, Repr

/-- An UPDATE's progress: parameters whose gradient has been gathered, whether a skid request for the next one is
under way, gradients read, parameters whose gradient is read only for computation, parameters applied, whether
the next one's gradient has been formed and how many of its units are done (R268), whether REL_SEM has been raised, whether the
audits have run. -/
structure UpdWork where
  gathered : Nat
  asked : Bool
  grads : List (Nat × List Byte)
  late : List Nat
  applied : Nat
  formed : Bool
  unit : Nat
  rel : Bool
  audited : Bool
  deriving DecidableEq, Repr

/-- A replica digest received from a peer under a TAG (R269). -/
structure Replica where
  tag : Nat
  chip : Nat
  value : List Byte
  deriving DecidableEq, Repr

/-! ### The Derailleur (R328 to R333) -/

/-- A RESHARD's progress: its group, whether the group's checks have passed, its round, the pieces sent and not
acknowledged, landed, failed and asked for again, whether this chip has voted, and the groups switched. -/
structure DrlWork where
  group : Nat
  started : Bool
  round : Nat
  sending : List Nat
  landed : List Nat
  failed : List Nat
  again : List Nat
  voted : Bool
  switched : Nat
  deriving DecidableEq, Repr

/-! ### Jointed bodies (R225 to R249) -/

/-- A step of an environment that did not end with DONE (R241): its status, environment and DETAIL. -/
structure JbFail where
  status : Status
  env : Nat
  detail : Nat
  deriving DecidableEq, Repr

/-- A jointed-body operation's progress: the steps that each batch has done, the batches that run, batch steps
completed, the failures, and of a loop: its step k, whether the step runs, the ticks taken at its start, the ticks
overrun, and the ticks that its present step's item 2 has crossed. -/
structure JbWork where
  doneOf : List (Nat × Nat)
  running : List Nat
  completed : Nat
  fails : List JbFail
  k : Nat
  active : Bool
  from_ : Nat
  overrun : Nat
  late : Nat
  deriving DecidableEq, Repr

/-! ### Rotations (R452 to R486) -/

/-- Decoded FP32 codes of rows of an entry of the rotation table, from shard row `row0` on. -/
structure RotSeg where
  entry : Nat
  row0 : Nat
  rows : List (List Nat)
  deriving DecidableEq, Repr

/-- A bundle that is held: its sending stand, rotation, the roster of that rotation, decoded segments and staging pages (R459). -/
structure RotBundle where
  stand : Nat
  rotation : Nat
  roster : List Nat
  segs : List RotSeg
  pages : Nat
  deriving DecidableEq, Repr

/-- A merge set (R460): rotation, USED by stand (0xFE not used, 0xFF not in the roster), and the least LAST_ROT, which
is the seal plus one (R472). -/
structure MergeSet where
  rotation : Nat
  used : List Nat
  sealed : Nat
  deriving DecidableEq, Repr

/-- A ledger entry that waits to be written (R468): kind, rotation, AUX, roster, cutoff, USED, and this chip's digest
where it is fixed already. -/
structure LedgerItem where
  kind : Nat
  rotation : Nat
  aux : Nat
  roster : Nat
  cutoff : Nat
  used : List Nat
  digest : Option (List Byte)
  deriving DecidableEq, Repr

/-- The rotation unit beside its registers: contributions and merged results held; the last rotation whose mask was
sent; on the reporting chip the masks and chip digests by rotation and chip, and a merge set that waits for the ring;
the merge set received; the least LAST_ROT received last; rotations applied to the anchor; ETA and MU by applied
rotation; the last rotation applied; whether FORM may follow a split or graft; the rotation of the last BASIS and
whether one ran since the last join or split; the roster of the last MERGE; ledger entries to write, and whether the
wait of the first has been counted; COMMON_DIGEST by rotation and stand; the next entry number; the hash of the last
entry; the fault record of a digest that differs. -/
structure RotRt where
  contribs : List RotBundle
  merged : List RotBundle
  masked : Option Nat
  masks : List (Nat × Nat × List Nat)
  digests : List (Nat × Nat × List Byte)
  ready : Option MergeSet
  set : Option MergeSet
  sealed : Nat
  anchored : Nat
  rates : List (Nat × Nat × Nat)
  applied : Option Nat
  afterSplit : Bool
  basisRot : Nat
  basisRun : Bool
  roster : Option Nat
  ledger : List LedgerItem
  waited : Bool
  common : List (Nat × Nat × List Byte)
  entryNo : Nat
  prevHash : List Byte
  mismatch : Option Nat
  deriving DecidableEq, Repr

/-! ### Tally records (R490 to R497) -/

/-- An open tally record: tag, step, whether a TALLY_CLOSE closes it, and the fields that descriptors add to: CHECKS, RERUNS,
BRAKE, OVERRUNS, CHECK_FAILS, OUT_COUNT, OUT_SUM and the generation section. -/
structure Tally where
  tag : Nat
  step : Nat
  closing : Bool
  checks : Nat
  reruns : Nat
  brakes : Nat
  overruns : Nat
  checkFails : Nat
  outCount : Nat
  outSum : Nat
  gens : List (Nat × Nat × Nat)
  deriving DecidableEq, Repr

/-- The tally engine beside its registers: open records, the hash of the last record of the chain, the signatures that
are due as step and slot, the first of which is being made, and the register words that hold a split field with the
index of the fault record of each (R505). -/
structure TallyRt where
  recs : List Tally
  prevHash : List Byte
  signing : List (Nat × Nat)
  splits : List (Nat × Nat)
  deriving DecidableEq, Repr

/-- A TALLY_CLOSE's progress (R151, R495): whether a record is written, whether the flags have been taken, this chip's
flag, the stand flag once the step has closed, whether the step is skipped, the items of the Scaler section, and the
parameters covered with the combination of their digests once the masters have been read. -/
structure CloseWork where
  kept : Bool
  asked : Bool
  local_ : Bool
  nf : Option Bool
  skipped : Bool
  items : Nat
  masters : Option (Nat × List Byte)
  deriving DecidableEq, Repr

/-! ### Operations -/

/-- An upset of a run of a product's tile (R189): the tile by its place among the product tiles that the operation issues, the
run, 1 to 3, and the bits of its results that are flipped, as output and mask. -/
structure TileUpset where
  tile : Nat
  run : Nat
  flips : List (Nat × Nat)
  deriving DecidableEq, Repr

/-- The progress of an operation, by kind of work.  `asking` waits for another chip's verdict; `remote` has so many
acknowledgements outstanding, and `skip` where a training-state write was skipped (R155); `imported` is a parameter whose
working copy is re-derived at the end (R271), `stamp` what a TIME_STAMP writes (R362), `coll` the binding of a collective
(R139). -/
inductive Work where
  | none
  | mat (w : MatWork)
  | vec (w : VecWork)
  | asking
  | remote (left : Nat) (skip : Bool)
  | barrier (arrived : Bool)
  | upd (w : UpdWork)
  | yard (next : Nat) (moving : Bool)
  | replica (value : List Byte)
  | imported (param : Nat)
  | stamp (bytes : List Byte)
  | coll (bind : Option Bind)
  | drl (w : DrlWork)
  | jb (w : JbWork)
  | rot (stage : Nat) (rejected : Option Nat)
  | close (w : CloseWork)
  deriving DecidableEq, Repr

/-- An operation: a descriptor that has begun and not ended (R54 to R57).  `seq` orders beginnings; `began` and
`slot` are the counts of ticks taken at its beginning and at its beginning or resumption, `tick` the TICK_NOW of its
beginning; `away` are the Cells on which it is still parked after it has resumed on others (R358); `ended` is set once its
work is complete; `run`, `digests` and `side` are those of a level-2 operation (R49): the run under way, the digests formed, and what the run
that stands gives beside its outputs; `writes` are training-state writes
that wait for the decision of `step`, the step id of its beginning (R155, R254); `facs` are the standing factors it
reads (R198); `extent` are the regions that it reads and writes, as its body and the tables gave them at its beginning
(R27); `prods` is the number of product tiles that it has issued (R189), and `upsets`, the model's own, the upsets that the
command under way names. -/
structure Op where
  ctx : Nat
  idx : Nat
  seq : Nat
  d : Desc
  began : Nat
  tick : Nat
  slot : Nat
  ended : Option OpEnd
  parked : Bool
  away : List Nat
  everParked : Bool
  parkNo : Nat
  reruns : Nat
  checks : Nat
  brakes : Nat
  run : Nat
  digests : List Nat
  side : RunSide
  writes : List Host.Cell
  step : Nat
  facs : List FacRead
  extent : List Region
  prods : Nat
  upsets : List TileUpset
  work : Work
  deriving DecidableEq, Repr

/-! ### Bring-up and the part record (R551 to R574) -/

/-- What bring-up's checks of a part record copy found beyond its bytes (R555): whether it can be read, whether the MFG
chain and MFG_SIG verify, whether SIGNATURE verifies. -/
structure CopySeen where
  readable : Bool
  mfgOk : Bool
  sigOk : Bool
  deriving DecidableEq, Repr

/-- What the checks of a firmware copy found beyond its bytes (R559): whether it can be read, whether its chain and
signature verify. -/
structure FwSeen where
  readable : Bool
  sigOk : Bool
  deriving DecidableEq, Repr

/-- How a stage of bring-up went (R561, R563): rails not good and the ROM's self-check; the part record copies; the
firmware copies; the PLL that did not lock; the Mills that did not wake; the stacks whose sweep failed, whose training
failed, their densities in GiB and the training data of each; the slots, as stack and slot, that failed the test; the end
of link training; the end of time acquisition. -/
inductive StageEnd where
  | supply (notGood : Nat) (selfCheck : Bool)
  | part (c0 c1 : CopySeen)
  | firmware (a b : FwSeen)
  | clocks (pll : Option Nat)
  | mills (asleep : Nat)
  | training (sweepBad trainBad : Nat) (density : List Nat) (data : List (Nat × List Byte))
  | test (bad : List (Nat × Nat))
  | links
  | time
  deriving DecidableEq, Repr

/-- A report of the boot log (R572). -/
structure BootReport where
  ns : Nat
  stage : Nat
  code : Nat
  detail : Nat
  deriving DecidableEq, Repr

/-- Bring-up beside its registers: whether PERST_N is asserted, whether a rail fell below reset, whether the thermal trip
holds the device; the stage that runs (0 in reset, 10 at ready) and whether bring-up halted; the log and LOST; the part
record copy in use and the causes of both; the firmware copy that runs, the causes of both, and the copies with cause 7;
the changes to the part record that are not written yet, when it was written last, and whether a failed write waits for
the next change; the repair map in force, the disabled physical Cell of each Mill (R10); and whether VAUX or VDD_LAND was lost, without which
the management and test ports do not work (R586). -/
structure BootRt where
  perst : Bool
  railLow : Bool
  trip : Bool
  stage : Nat
  halted : Bool
  log : List BootReport
  lost : Bool
  part : Option Nat
  partCause : Nat × Nat
  fw : Option Nat
  fwCause : Nat × Nat
  fwDead : List Nat
  draft : List Host.Cell
  wroteAt : Option Nat
  heldBack : Bool
  repair : List Nat
  portsOff : Bool
  deriving DecidableEq, Repr

/-- The return codes of the mailbox that R571 names, one for a firmware copy that failed its check, for which it names
none, and none before the first command. -/
inductive MboxCode where
  | none | success | unsupported | invalidInput | copyInvalid
  deriving DecidableEq, Repr

/-- What a mailbox command returned: its code; the running slot and the revision of each slot; the boot log; of each part
record copy SEQ, cause and in-use flag. -/
structure MboxOut where
  code : MboxCode
  running : Nat
  revisions : List (List Byte)
  payload : List Byte
  copies : List (Nat × Nat × Bool)
  deriving DecidableEq, Repr

/-! ### Power and the test port (R584 to R594) -/

/-- Power beside its registers: the governor's step, the old and new step of a voltage request under way, the sensors'
last temperatures, and whether the refresh rate is doubled and THERM_ALERT_N is driven low. -/
structure PowerRt where
  k : Nat
  avs : Option (Nat × Nat)
  tj : Nat
  hbm : Nat
  refresh : Bool
  alert : Bool
  deriving DecidableEq, Repr

/-- The instructions of the test port (R585). -/
inductive JtagInstr where
  | bypass | idcode | samplePreload | extest | clamp | highz
  deriving DecidableEq, Repr

/-- The test port: the instruction in force, the boundary-scan register (bit i: the signal at land (47 + i, 93)), and what
the selected data register captured. -/
structure JtagRt where
  instr : JtagInstr
  boundary : Nat
  captured : Nat
  deriving DecidableEq, Repr

/-! ### Outputs -/

/-- What the block last answered on a read: bytes, or poison (R19, R25). -/
structure ReadOut where
  data : List Byte
  poison : Bool
  deriving DecidableEq, Repr

/-- A posted write that its domain has not taken (R525): the local address and the data. -/
structure Posted where
  addr : Nat
  data : Nat
  deriving DecidableEq, Repr

end Sys2Proof.Machine
end

