-- ==== Sys2Proof/Syntax.lean ====
section
/-!
DEFINITION. The commands: one constructor per row of the table of operations and events, in its order.  The
operands of a row that is an operation's opcode are the context and submission index of a descriptor that has
begun; the operands of an event are what the world outside the block decides about it.
-/

namespace Sys2Proof

open Sys2Proof.Machine

/-- A command to the block. -/
inductive Instr where
  /-- SQ_DOORBELL (R41). A write to a context's submission doorbell announces a new submission tail; an
  untracked context is loaded, spilled into or queued under R67. -/
  | sqDoorbell (ctx tail : Nat) (host : List (Nat × List Byte))
  /-- CONTEXT_LOAD_DONE (R67). The load of a context into a tracking place completes, and its fetching may
  proceed. -/
  | contextLoadDone (ctx : Nat)
  /-- CONTEXT_SPILL_DONE (R598). The spill of a tracked context to its save area ends, and its STATE changes to
  untracked or queued. -/
  | contextSpillDone (ctx : Nat)
  /-- OVERFLOW_ENTRY_LOAD (R69). When a tracked context becomes idle, the device spills it and loads the oldest
  ready overflow-queue entry. -/
  | overflowEntryLoad
  /-- CQ_DOORBELL (R43). A write to a context's completion doorbell accepts a new completion head, or is ignored
  and counted if it is not valid. -/
  | cqDoorbell (ctx head : Nat) (host : List (Nat × List Byte))
  /-- DESCRIPTOR_FETCH (R45). The whole copy of a descriptor read from host memory completes, SQ_HEAD advances
  past it, and its fetch checks run. -/
  | descriptorFetch (ctx : Nat)
  /-- DESCRIPTOR_BEGIN (R54). A fetched descriptor begins once its predecessor has begun and its tick, wait,
  fence and completion-room conditions all hold. -/
  | descriptorBegin (ctx : Nat)
  /-- DESCRIPTOR_END (R57). An operation ends: its writes become visible, its semaphore is signalled, the final
  completion entry is written and notification follows. -/
  | descriptorEnd (ctx idx : Nat) (ecc : Ecc)
  /-- MSIX_GAP_EXPIRE (R66). When the MSIX_GAP interval ends, the merged notification requests of a vector are
  sent as one message. -/
  | msixGapExpire (vector : Nat)
  /-- CTX_RESUME (R74). CTX_CTRL action 1 clears a context's halt, and its held descriptors begin in index
  order. -/
  | ctxResume (ctx : Nat)
  /-- CTX_RESUME_AT_HEAD (R74). CTX_CTRL action 2 discards held descriptors, sets SQ_HEAD to CTX_NEW_HEAD and
  clears the halt. -/
  | ctxResumeAtHead (ctx : Nat)
  /-- CTX_RESET (R74). CTX_CTRL action 3 waits for running descriptors, discards held ones, zeroes the device
  bytes of the save area and untracks the context. -/
  | ctxReset (ctx : Nat)
  /-- RING_DISABLE (R73). Clearing RING_CTRL.ENABLE stops fetching, sets DRAINING and starts the spill and
  write-back of every context. -/
  | ringDisable
  /-- RING_DRAIN_END (R73). The last spill and the last overflow-queue write-back end, and DRAINING clears. -/
  | ringDrainEnd
  /-- NOP (R53). Opcode 0x0F00 waits, fences and signals like any descriptor, does nothing else, and ends with
  DONE. -/
  | nop (ctx idx : Nat)
  /-- CXL_MEM_READ (R19). A host CXL.mem read of HBM returns data, or poisoned data for an unmapped or
  uncorrectable offset. -/
  | cxlMemRead (off len : Nat) (ecc : Ecc)
  /-- CXL_MEM_WRITE (R19). A host CXL.mem write stores data into HBM, or is dropped and counted for an unmapped
  offset. -/
  | cxlMemWrite (off : Nat) (data : List Byte)
  /-- RETIREMENT_COPY_DONE (R27). The copy of a retired granule ends, and the accesses that waited are served
  from the spare slot. -/
  | retirementCopyDone (granule : Nat)
  /-- TICK_PATH_FAIL (R31). A failure of Landing A's tick path ends every operation in flight with DEVICE_FAULT.
  -/
  | tickPathFail
  /-- JOB_SEED_HIGH_WRITE (R104). A write of the high word of JOB_SEED applies the held low word and the new
  high word, and disturbs the tile runs of every Cell. -/
  | jobSeedHighWrite (data : Nat)
  /-- MATMUL (R112). Opcode 0x0100 computes D := A × B or C + A × B as checked tiles spread over the Cells in
  scope. -/
  | matmul (ctx idx : Nat)
  /-- MATMUL_PAIR (R118). Opcode 0x0101 runs the OQ-1 compensated pair and writes the running sum to D and the
  error term to E. -/
  | matmulPair (ctx idx : Nat)
  /-- TILE_FILL_BEGIN (R109). A tile's fill begins in a free bank once the previous fill has ended, the bank's
  drain has ended and any Expander panel is ready. -/
  | tileFillBegin (cell : Nat)
  /-- TILE_FILL_END (R109). A tile run's fill of its bank ends after F ACLK, and its check begins. -/
  | tileFillEnd (cell : Nat) (flips : List (Nat × Nat))
  /-- TILE_SUM_CHECK_DONE (R123). The sum check of a tile run completes 24 ACLK after its fill; the tile drains,
  or it is run again or fails. -/
  | tileSumCheckDone (cell : Nat)
  /-- TILE_DUP_COMPARE_DONE (R124). A duplicate-check comparison completes; the tile passes, is run a third
  time, or fails. -/
  | tileDupCompareDone (cell : Nat)
  /-- TILE_DRAIN_END (R109). A bank's drain of converted outputs to D ends, and the bank becomes free. -/
  | tileDrainEnd (cell bank : Nat)
  /-- LEVEL2_RUN_END (R49). A run of a level-2 operation ends with its digest; the next run begins, or the
  outputs stand, or CHECK_FAIL follows. -/
  | level2RunEnd (ctx idx : Nat) (alt : List (Nat × Byte))
  /-- OPERATION_PARK (R358). ELASTIC work reaches its park point after the tick that ends its slot, parks, and
  writes PARKED the first time. -/
  | operationPark (ctx idx progress : Nat)
  /-- OPERATION_RESUME (R358). A parked operation resumes on its unit once no STRICT work of that unit runs or
  is eligible. -/
  | operationResume (ctx idx : Nat)
  /-- SCALER_ENABLE (R138). A write of SCL_CTRL.ENABLE = 1 reads and checks every Scaler entry, and enables the
  table or sets ERR. -/
  | scalerEnable (data : Nat)
  /-- CHAIN (R165). Opcode 0x0200 runs an element-wise chain of up to eight steps, with an optional row
  reduction. -/
  | chain (ctx idx : Nat)
  /-- REDUCE_TREE (R176). Opcode 0x0210 reduces P FP32 partials per element in fixed tree order and converts the
  result to FMT_Y. -/
  | reduceTree (ctx idx : Nat)
  /-- SUM_OPEN (R181). Opcode 0x0220 opens an ordered-adder group and ends when every line has added all P
  contributions. -/
  | sumOpen (ctx idx : Nat)
  /-- CONTRIBUTE (R182). Opcode 0x0221 sends lines to a group under a contributor index and ends when the adder
  has added them all. -/
  | contribute (ctx idx : Nat)
  /-- VECTOR_UNIT_DONE (R172). A Cell finishes a vector unit of 8,192 outputs and begins its next unit. -/
  | vectorUnitDone (cell ctx idx : Nat)
  /-- OMA_CONTRIBUTION (R178). A contribution line reaches the ordered adder, which adds it in index order,
  holds it early, or refuses it. -/
  | omaContribution (group index line : Nat) (data : List Byte) (src ctx idx : Nat)
  /-- OMA_RESEND_TIMER (R179). One microsecond after a refusal, the sender sends the refused contribution again.
  -/
  | omaResendTimer (group index line : Nat)
  /-- OMA_OVERDUE (R180). A line whose next contribution has not arrived within OVERDUE_US is counted as overdue
  and keeps waiting. -/
  | omaOverdue (group line : Nat)
  /-- STAT_FOLD (R201). Opcode 0x0300 folds sample rows into a factor record's statistic F and increments FOLDS.
  -/
  | statFold (ctx idx : Nat) (upsets : List Machine.TileUpset)
  /-- CHOLESKY (R202). Opcode 0x0310 factors F + λI into the candidate buffer, with pivot tests, retries,
  residual and promotion. -/
  | cholesky (ctx idx : Nat) (upsets : List Machine.TileUpset) (upset : Bool)
  /-- LDLT (R203). Opcode 0x0311 computes an LDLᵀ factor into the candidate buffer and promotes it on success.
  -/
  | ldlt (ctx idx : Nat) (upsets : List Machine.TileUpset) (upset : Bool)
  /-- TRSOLVE (R208). Opcode 0x0320 solves with the standing Cholesky or LDLᵀ factor of a record. -/
  | trsolve (ctx idx : Nat) (upsets : List Machine.TileUpset)
  /-- EIG (R209). Opcode 0x0330 computes an eigenbasis by block Jacobi, sorts it, checks it and promotes it. -/
  | eig (ctx idx : Nat) (upsets : List Machine.TileUpset) (upset : Bool)
  /-- INVROOT (R211). Opcode 0x0340 computes an inverse square or fourth root by eigendecomposition or by
  Newton–Schulz. -/
  | invroot (ctx idx : Nat) (upsets : List Machine.TileUpset) (upset : Bool)
  /-- TRUING_WAIT_PROCEED (R199). A writer or fold that waited on its record proceeds, in order of beginning,
  once no conflicting reader or writer holds the record. -/
  | truingWaitProceed (ctx idx : Nat) (upsets : List Machine.TileUpset) (upset : Bool)
  /-- INVROOT_DEADLINE (R216). The tick DEADLINE_TICK ends Newton–Schulz iteration; the last completed iterate
  is checked and promoted or refused. -/
  | invrootDeadline (ctx idx iters : Nat)
  /-- ENV_STEP (R231). Opcode 0x0400 steps a range of jointed-body environments by SUBSTEPS steps. -/
  | envStep (ctx idx : Nat)
  /-- INV_DYN (R245). Opcode 0x0410 computes inverse-dynamics joint efforts for a range of environments. -/
  | invDyn (ctx idx : Nat)
  /-- MASS (R245). Opcode 0x0420 writes the mass matrix with armature for a range of environments. -/
  | mass (ctx idx : Nat)
  /-- ENV_LOOP (R242). Opcode 0x0430 runs NSTEP loop steps that are paced by an action semaphore and an optional
  tick. -/
  | envLoop (ctx idx : Nat)
  /-- JB_BATCH_DONE (R238). A batch of 256 environments finishes a step and writes its environment records. -/
  | jbBatchDone (cell ctx idx : Nat)
  /-- ENV_LOOP_STEP_BEGIN (R243). A loop step begins when its action semaphore and tick conditions hold; it
  resets requested environments and runs the substeps. -/
  | envLoopStepBegin (ctx idx : Nat)
  /-- ENV_LOOP_STEP_END (R243). A loop step's substeps end; observation records are written and OBS_SEM is
  raised. -/
  | envLoopStepEnd (ctx idx : Nat)
  /-- COPY (R274). Opcode 0x0500 moves rows with a Cell's Skidder to a target chip of the stand. -/
  | copy (ctx idx : Nat)
  /-- PREFETCH (R259). Opcode 0x0510 brings away optimiser state from the slow tier into HBM and checks its
  digest. -/
  | prefetch (ctx idx : Nat)
  /-- EVICT (R260). Opcode 0x0511 writes present optimiser state to the slow tier and stores its digest. -/
  | evict (ctx idx : Nat)
  /-- YARDER_TRANSFER_DONE (R261). A Yarder transfer of one parameter's state ends, and its digest decides
  PRESENT. -/
  | yarderTransferDone (ctx idx : Nat) (alt : List (Nat × Byte))
  /-- UPDATE (R255). Opcode 0x0900 applies one optimiser step to the shards of consecutive parameters and
  re-derives their working copies. -/
  | update (ctx idx : Nat) (upsets : List Machine.TileUpset)
  /-- SKID_GRANT (R263). A waiting skid request is granted, in order, once enough pages and an entry are free,
  and its gradient copy starts. -/
  | skidGrant
  /-- UPDATE_SKID_APPLY (R266). A waiting update applies its skidded gradient once the parameter's state is
  present and earlier steps have ended. -/
  | updateSkidApply (ctx idx : Nat)
  /-- REPLICA_CMP (R269). Opcode 0x0910 digests masters, exchanges the result with its peers and compares the
  values. -/
  | replicaCmp (ctx idx : Nat)
  /-- REPLICA_DIGEST_RECEIVE (R269). A peer's 512-bit replica digest arrives and is held for the comparison. -/
  | replicaDigestReceive (tag chip : Nat) (value : List Byte)
  /-- EXPORT (R270). Opcode 0x0920 writes shard records of the chosen roles with headers and digests. -/
  | exportOp (ctx idx : Nat)
  /-- IMPORT (R271). Opcode 0x0921 checks a shard record and writes its intersection with the local shard. -/
  | importOp (ctx idx : Nat)
  /-- COMPRESS (R284). Opcode 0x0600 quantises or packs a rectangle and entropy-codes it into a segment;
  `upsets` are the runs of product tiles that an upset changes (R189). -/
  | compress (ctx idx : Nat) (upsets : List Machine.TileUpset)
  /-- DECOMPRESS (R309). Opcode 0x0610 checks and decodes segments into a destination on the Cells in scope;
  `upsets` are the runs of product tiles that an upset changes (R189). -/
  | decompress (ctx idx : Nat) (upsets : List Machine.TileUpset)
  /-- PANEL_DECODE_DONE (R303). The Expander finishes decoding and checking a B panel into a panel buffer, or
  refuses it. -/
  | panelDecodeDone (cell ctx idx stall : Nat)
  /-- AXIS_ENABLE (R317). A write of AXIS_CTRL.ENABLE = 1 checks the axis table, and puts it in force or sets
  ERR. -/
  | axisEnable
  /-- PANNIER_ENABLE (R321). A write of a Pannier channel's ENABLE = 1 clears its counts and records its
  semaphore bases. -/
  | pannierEnable (channel data : Nat)
  /-- PANNIER_DISABLE (R325). A write of ENABLE = 0 lets the current transfer end and then stops the channel. -/
  | pannierDisable (channel data : Nat)
  /-- PANNIER_SPILL_BEGIN (R321). A spill begins when its request semaphore holds and the previous spill, and
  any fill of the block, have ended. -/
  | pannierSpillBegin (channel : Nat)
  /-- PANNIER_SPILL_DONE (R321). A spill's copy to the slow tier ends; its digest is written and OUT_DONE is
  raised. -/
  | pannierSpillDone (channel : Nat)
  /-- PANNIER_FILL_BEGIN (R322). A fill begins when its request semaphore holds, the previous fill has ended and
  its spill is complete. -/
  | pannierFillBegin (channel : Nat)
  /-- PANNIER_FILL_DONE (R322). A fill's copy ends and its digest is checked; IN_DONE is raised, or the block is
  fetched again. -/
  | pannierFillDone (channel : Nat) (alt : List (Nat × Byte))
  /-- RESHARD (R330). Opcode 0x0710 runs the groups of a Derailleur plan, round by round, with a vote and a
  switch per group. -/
  | reshard (ctx idx : Nat) (peers : List (Nat × Nat × Nat))
  /-- DERAILLEUR_PIECE_RECEIVE (R330). A piece lands in its target region; its digest is checked, and it is
  acknowledged or asked for again. -/
  | derailleurPieceReceive (piece : PieceMsg)
  /-- DERAILLEUR_ROUND_BEGIN (R330). A chip begins its next round once all sends of the current round are
  acknowledged and all receives have landed or failed. -/
  | derailleurRoundBegin (ctx idx : Nat)
  /-- TICK (R355). A unit takes the next cadence tick id when its time unit reaches the tick boundary. -/
  | tick
  /-- TICK_RUN_WRITE (R354). A write of TICK_CTRL.RUN starts or stops the taking of ticks, with the first tick
  taken at the next boundary. -/
  | tickRunWrite (data : Nat)
  /-- TICK_WAIT (R362). Opcode 0x0F10 ends when its Landing takes an absolute or relative tick. -/
  | tickWait (ctx idx : Nat)
  /-- TIME_STAMP (R362). Opcode 0x0F11 writes the TAI time, the last tick id and the time status to DST. -/
  | timeStamp (ctx idx : Nat)
  /-- GNSS_PPS_EDGE (R346). A rising PPS edge on a Lead is measured against the time unit, toward lock or loss
  of lock. -/
  | gnssPpsEdge
  /-- GNSS_TOD_MESSAGE (R345). A 12-byte time-of-day message is received and checked on a Lead. -/
  | gnssTodMessage (message : List Byte)
  /-- GNSS_PPS_TIMEOUT (R346). An expected PPS edge or message fails to arrive, counts as an error, and may end
  the Lead's lock. -/
  | gnssPpsTimeout (edge : Bool)
  /-- TIME_EXCHANGE_TIMER (R347). Every 1 ms a follower sends a timed request to its parent. -/
  | timeExchangeTimer
  /-- TIME_FRAME (R347). A Chain time frame arrives; the parent stamps and replies, or the follower slews or
  steps by the computed offset. -/
  | timeFrame (link kind seq stamp : Nat)
  /-- LEAD_FAILOVER (R349). When the active Lead loses lock or its time frames stop for 3 ms, the next locked
  Lead becomes active. -/
  | leadFailover
  /-- PPS_OUT_SECOND (R351). At the start of each TAI second, PPS_OUT is driven high and a TOD_OUT message is
  sent for the next edge. -/
  | ppsOutSecond
  /-- TIME_SET (R352). A write of TIME_SET's high word steps the time count once, if the chip's state allows, or
  sets SET_REFUSED. -/
  | timeSet (data : Nat)
  /-- SLOT_ENABLE (R360). A write of SLOT_CTRL.ENABLE = 1 checks the slot table, and puts it in force or sets
  ERR. -/
  | slotEnable (data : Nat)
  /-- SLOT_WINDOW_OPEN (R361). At START_NS within a tick, a window gives its collectives precedence on its
  groups, or is counted idle. -/
  | slotWindowOpen (entry : Nat)
  /-- SLOT_WINDOW_CLOSE (R361). At the end of a window, queued frames continue under plain arbitration, and the
  window is counted spilled if any remain. -/
  | slotWindowClose (entry : Nat)
  /-- CELL_WAKE (R339). An asynchronous wake request starts a stopped Cell's ACLK. -/
  | cellWake (cell : Nat)
  /-- FRAME_SLOT (R369). In each frame slot, a sender builds and sends a frame: a re-send, new data, or idle. -/
  | frameSlot (link session : Nat)
  /-- FRAME_RECEIVE (R371). A Worane frame is received: checked, acknowledged, sequenced, decrypted or
  forwarded, or discarded. -/
  | frameReceive (link corrected lost : Nat) (hit : Bool) (bytes : List Byte) (msg : Msg)
  /-- RETRANSMIT_TIMEOUT (R377). With no ACK advance for the retransmit time, the sender re-sends its oldest
  unacknowledged frame. -/
  | retransmitTimeout (far : Bool) (n : Nat)
  /-- FAR_ROUTE_LOST (R382). A Far route is lost, and the session moves to its secondary route or goes down. -/
  | farRouteLost (session : Nat)
  /-- FAR_ROUTE_RETURN (R382). After the primary route has been UP for 1 s, the session returns to it. -/
  | farRouteReturn (session : Nat)
  /-- LINK_TRAINING_DONE (R384). A link's training and identity exchange end, and the link goes UP, MISWIRED or
  FAILED. -/
  | linkTrainingDone (link : Nat) (ok fast : Bool) (peerChip peerLink peerStand peerMode rtt : Nat)
  /-- LINK_SIGNAL_LOSS (R388). Loss of signal, clock or FEC lock for 10 µs makes a link FAILED with cause 1. -/
  | linkSignalLoss (link : Nat)
  /-- LINK_RX_TIMEOUT (R388). No frame accepted for 100 µs makes a link FAILED with cause 3. -/
  | linkRxTimeout (link : Nat)
  /-- LINK_ENABLE_WRITE (R392). A posted write of LINK_CTRL.ENABLE starts a link's training or disables it with
  cause 7. -/
  | linkEnableWrite (link data : Nat)
  /-- GROUP_RETRAIN (R393). A write of GROUP_CTRL.RETRAIN = 1 retrains every enabled link of the group and
  clears TOPO_DONE. -/
  | groupRetrain (group data : Nat)
  /-- GROUP_MODE_WRITE (R380). A write of GROUP_CTRL.MODE sets Near or Far mode, or is refused and sets
  FAR_REFUSED. -/
  | groupModeWrite (group data : Nat)
  /-- STAND_ARM (R391). A write of STAND_CTRL.ARMED = 1 arms the stand fault and clears FAULT, if all links are
  ready. -/
  | standArm (data : Nat)
  /-- FAR_SESSION_VALID_WRITE (R395). A write of a Far session's VALID starts the session after its checks, or
  discards its frames and numbering. -/
  | farSessionValidWrite (session data : Nat)
  /-- ROUTE_ENABLE (R423). A write of ROUTE_CTRL.ENABLE = 1 checks the routing entries, and puts routing in
  force or sets ERR. -/
  | routeEnable (data : Nat)
  /-- SEMAPHORE_ADD (R400). An aligned 8-byte write, or a remote add, adds its value to a semaphore atomically
  and re-evaluates its waiters. -/
  | semaphoreAdd (off size data : Nat)
  /-- SEM_ADD (R402). Opcode 0x0F20 adds a value to a semaphore of a chip in the stand and ends when the add is
  acknowledged. -/
  | semAdd (ctx idx : Nat)
  /-- SEM_SET (R402). Opcode 0x0F21 sets a semaphore of its own chip to a value. -/
  | semSet (ctx idx : Nat)
  /-- BARRIER (R411). Opcode 0x0F30 arrives at a barrier unit's next generation and ends on the AND result. -/
  | barrier (ctx idx : Nat)
  /-- BARRIER_UNIT_WRITE (R410). A write to a barrier unit sets its AXES and VALID and resets GEN, unless an
  arrival is pending. -/
  | barrierUnitWrite (unit data : Nat)
  /-- CHAIN_CONTRIBUTION (R406). A Chain contribution arrives; the chip combines it and passes it toward the
  root, or answers with a held result. -/
  | chainContribution (link op chan gen index value : Nat)
  /-- CHAIN_RESULT (R406). A Chain result arrives, is taken by the chip and is passed on to its children. -/
  | chainResult (link op chan gen index value : Nat)
  /-- CHAIN_REPEAT_TIMER (R407). Every 2 µs an unanswered Chain contribution is sent again and counted. -/
  | chainRepeatTimer
  /-- CHAIN_ANNOUNCE_TIMER (R404). Every 100 µs a chip sends its announcement on every UP Near link. -/
  | chainAnnounceTimer
  /-- CHAIN_ANNOUNCE (R404). A neighbour's announcement arrives and updates the hop counts, the tree parent and
  the Lead choice. -/
  | chainAnnounce (link rank state hopsLead hops0 chip active parent : Nat)
  /-- CHAIN_SETTLE (R404). When HOPS0 and PARENT have not changed for 1 ms, SETTLED becomes 1. -/
  | chainSettle
  /-- STAND_FAULT_FRAME (R389). A Chain stand-fault frame arrives; it is forwarded once and the stand fault is
  taken. -/
  | standFaultFrame (link chip faultLink cause : Nat)
  /-- ALL_REDUCE (R415). Opcode 0x0700 reduce-scatters and then all-gathers along the chosen axes. -/
  | allReduce (ctx idx : Nat) (peers : List (Nat × Desc × List Byte × List Byte))
  /-- REDUCE_SCATTER (R415). Opcode 0x0701 reduces along the axes and writes only the owned piece. -/
  | reduceScatter (ctx idx : Nat) (peers : List (Nat × Desc × List Byte))
  /-- ALL_GATHER (R415). Opcode 0x0702 gathers every member's piece into DST on every member. -/
  | allGather (ctx idx : Nat) (peers : List (Nat × Desc × List Byte))
  /-- PERMUTE (R415). Opcode 0x0703 shifts N elements along one axis by SHIFT positions. -/
  | permute (ctx idx : Nat) (peers : List (Nat × Desc × List Byte))
  /-- KEY_IMPORT (R428). A write of KEY_IMPORT with GO = 1 starts the unwrap of a wrapped key from host memory.
  -/
  | keyImport (data : Nat)
  /-- KEY_IMPORT_DONE (R430). A key import ends: the slot is loaded or refused with RESULT, and the message is
  zeroed. -/
  | keyImportDone (readOk oaepOk : Bool) (message : List Byte)
  /-- KEY_CLEAR (R431). A write of KEY_CLEAR empties and zeroes a slot, unless a session uses it. -/
  | keyClear (data : Nat)
  /-- ENTROPY_HEALTH_FAIL (R426). An entropy health test or a reseed fails; the DRBG enters its error state and
  the engines stall. -/
  | entropyHealthFail
  /-- RNG_RESTART (R426). A write of KERF_CTRL.RNG_RESTART = 1 reruns the start-up tests and instantiates the
  DRBG anew. -/
  | rngRestart (data : Nat) (pass : Bool)
  /-- KERF_STAGE_KEY (R443). A write of NEXT_SLOT stages a loaded slot as the session's NEXT, or sets ERR. -/
  | kerfStageKey (session slot : Nat)
  /-- KERF_ROLL (R443). A write of ROLL = 1 moves CUR to PREV and NEXT to CUR, or leaves the roll pending while
  PREV is live. -/
  | kerfRoll (session slot : Nat)
  /-- KERF_GRACE_EXPIRE (R447). GRACE_MS after a roll, PREV is retired. -/
  | kerfGraceExpire (session : Nat)
  /-- KERF_AUTH_HALT_CLEAR (R440). Writing 1 to AUTH_HALT clears it, and the session resumes. -/
  | kerfAuthHaltClear (session slot : Nat)
  /-- FORM (R456). Opcode 0x0800 forms each entry's delta, compresses its slices, sends them to their owners and
  advances ROT_ID. -/
  | form (ctx idx : Nat)
  /-- MERGE (R460). Opcode 0x0810 chooses the merge set, averages the contributions and sends the merged
  bundles. -/
  | merge (ctx idx : Nat)
  /-- MERGE_CUTOFF (R460). The cutoff tick ends MERGE's wait for contributions. -/
  | mergeCutoff (ctx idx : Nat)
  /-- ROTATION_BUNDLE_RECEIVE (R459). A contribution or merged bundle arrives; it is checked and decoded, then
  held or refused. -/
  | rotationBundleReceive (bundle : List Byte) (again : List (List (List Byte)))
  /-- MERGE_MASK_RECEIVE (R460). The reporting chip receives a chip's held-contribution mask and forms the merge
  set once it holds them all. -/
  | mergeMaskReceive (rotation chip : Nat) (masks : List Nat) (digest : List Byte)
  /-- MERGE_SET_RECEIVE (R460). A chip receives the merge set and the seal from its reporting chip. -/
  | mergeSetReceive (rotation sealed : Nat) (used : List Nat)
  /-- APPLY (R465). Opcode 0x0820 applies the merged result by a Nesterov outer step and advances the anchor. -/
  | apply (ctx idx : Nat)
  /-- BASIS (R467). Opcode 0x0830 distributes the basis stand's eigenbases and promotes them on every chip. -/
  | basis (ctx idx : Nat) (factors : List (Nat × List Byte))
  /-- LEDGER_ENTRY_WRITE (R468). The reporting chip writes and signs a ledger entry once it holds what the entry
  needs and the ring has room. -/
  | ledgerEntryWrite (digests : List (Nat × List Byte))
  /-- LEDGER_ENTRY_RECEIVE (R471). Another stand's rotation entry arrives; LAST_ROT is updated and COMMON_DIGEST
  is compared. -/
  | ledgerEntryReceive (entry : List Byte)
  /-- PARTNER_JOIN (R473). PARTNER with ACTION 0 enters a stand as a member from a given rotation, or ends
  TABLE_FULL. -/
  | partnerJoin (ctx idx : Nat)
  /-- PARTNER_SPLIT (R477). PARTNER with ACTION 1 splits the tract into this chip's branch and resets the state
  to the anchor. -/
  | partnerSplit (ctx idx highest : Nat)
  /-- PARTNER_DROP (R473). PARTNER with ACTION 2 empties the partner entry of a lost stand. -/
  | partnerDrop (ctx idx : Nat)
  /-- HEAL (R478). Opcode 0x0850 rejoins the branches by graft, or keeps the largest branch. -/
  | heal (ctx idx : Nat) (anchors : List (Nat × Nat)) (digests : List (Nat × List Byte)) (shards : List (Nat × Nat × List Byte))
  /-- JOIN_CHECK (R476). Opcode 0x0860 verifies a ledger entry's signature and recomputes its COMMON_DIGEST from
  a log stock. -/
  | joinCheck (ctx idx : Nat) (digests : List (Nat × List Byte))
  /-- TALLY_OPEN (R491). Opcode 0x0A00 zeroes a tally slot, writes its header and opens the record. -/
  | tallyOpen (ctx idx : Nat)
  /-- TALLY_CLOSE (R495). Opcode 0x0A10 closes a step, digests the masters, freezes the record and writes it. -/
  | tallyClose (ctx idx : Nat)
  /-- DIGEST (R487). Opcode 0x0A20 writes the ring digest of a region to DST. -/
  | digest (ctx idx : Nat)
  /-- ATTEST (R501). Opcode 0x0A30 writes a signed attestation report and, optionally, the certificate chain. -/
  | attest (ctx idx : Nat)
  /-- TALLY_SIGN_DONE (R494). Hub firmware finishes signing a tally record and sets SIGNED. -/
  | tallySignDone
  /-- VOTE_SCRUB (R504). At least once every 1 ms a block re-reads its voted fields and rewrites any copy that
  differs. -/
  | voteScrub (a : Nat) (upsets : List (Nat × Nat × Nat))
  /-- REGISTER_WRITE (R524). A plain write to a register that has no row of its own takes effect, and as a
  configuration write it disturbs running work. -/
  | registerWrite (bar off size data : Nat)
  /-- ALIAS_WRITE (R521). A write to a set, clear or toggle alias updates the word's writable fields atomically,
  or is ignored if nothing changes. -/
  | aliasWrite (bar off size data : Nat)
  /-- EVENT_DUMP (R546). At every EVERY-th tick, all counters are sampled and a dump record is written to HBM.
  -/
  | eventDump
  /-- PERST_RELEASE (R561). The release of PERST_N starts bring-up at stage 1. -/
  | perstRelease
  /-- PERST_ASSERT (R565). Assertion of PERST_N resets the device and records the reset cause. -/
  | perstAssert
  /-- CXL_HOT_RESET (R565). A CXL Hot Reset or secondary bus reset restarts bring-up at stage 1. -/
  | cxlHotReset
  /-- BOOT_STAGE_END (R561). A bring-up stage ends and reports its code; the next stage begins, or bring-up
  halts. -/
  | bootStageEnd (ns : Nat) (outcome : StageEnd)
  /-- FW_START_TIMEOUT (R560). Started firmware that does not reach stage 4 within 2 s is stopped and marked,
  and the other copy is started. -/
  | fwStartTimeout (ns : Nat) (a b : FwSeen)
  /-- PART_RECORD_WRITE (R557). Gathered changes are written, at most every 60 s, into the part record copy that
  is not in use, then signed and verified. -/
  | partRecordWrite (first second : List (Nat × Byte))
  /-- GET_FW_INFO (R571). Mailbox opcode 0x0200 returns the firmware slots and their SEQ values. -/
  | getFwInfo
  /-- TRANSFER_FW (R571). Mailbox opcode 0x0201 writes the firmware copy that is not running, and checks it
  after its last part. -/
  | transferFw (slot off : Nat) (data : List Byte) (last : Bool) (found : FwSeen)
  /-- ACTIVATE_FW (R571). Mailbox opcode 0x0202 answers offline activation according to whether the slot holds a
  valid copy. -/
  | activateFw (online : Bool) (slot : Nat) (found : FwSeen)
  /-- READ_BOOT_LOG (R572). Mailbox opcode 0xC000 returns the boot log. -/
  | readBootLog
  /-- READ_PART_INFO (R571). Mailbox opcode 0xC001 returns each part record copy's SEQ, cause and in-use flag.
  -/
  | readPartInfo
  /-- WRITE_SETTING (R573). Mailbox opcode 0xC002 changes a saved setting for the next bring-up. -/
  | writeSetting (item value : Nat)
  /-- MAILBOX_UNSUPPORTED (R571). A mailbox command with any other opcode completes with the return code
  Unsupported. -/
  | mailboxUnsupported (opcode : Nat)
  /-- GOVERNOR_WINDOW (R587). At the end of each 100 µs window, the governor steps ACLK down or up, or sets
  CAP_MISS. -/
  | governorWindow (watts tj : Nat)
  /-- AVS_COMPLETE (R588). The regulator reports that a voltage request is complete, and ACLK is raised 5 µs
  later. -/
  | avsComplete
  /-- BRAKE_BEGIN (R591). A rail below its warning threshold starts a Brake: tile runs are dropped, ACLK is
  stepped down and BRAKE is recorded. -/
  | brakeBegin (uv : List Nat)
  /-- BRAKE_END (R591). After every rail has stayed above warning plus 1 % for 20 µs, the Brake ends and dropped
  runs are run again. -/
  | brakeEnd (uv : List Nat)
  /-- RAIL_RESET (R593). A rail below its reset threshold resets the device with cause 3. -/
  | railReset (uv : List Nat)
  /-- TEMPERATURE_CROSSING (R590). A die or HBM temperature crosses a threshold, changing refresh, the thermal
  alert, the hold or the trip. -/
  | temperatureCrossing (tj hbm : Nat)
  /-- I3C_PRIVATE_READ (R584). An I3C private read returns the BOOT_STATUS, PWR_STATUS, TEMP and BRAKE words. -/
  | i3cPrivateRead
  /-- I3C_PRIVATE_WRITE (R584). An I3C private write is acknowledged and ignored. -/
  | i3cPrivateWrite (data : List Byte)
  /-- BYPASS (R585). The JTAG BYPASS instruction selects the bypass register. -/
  | bypass
  /-- IDCODE (R585). The JTAG IDCODE instruction returns 0x1A7C_E0FF. -/
  | idcode
  /-- SAMPLE_PRELOAD (R585). The JTAG SAMPLE/PRELOAD instruction samples or preloads the boundary-scan register.
  -/
  | samplePreload (pins preload : Nat)
  /-- EXTEST (R585). The JTAG EXTEST instruction drives the single-ended pins from the boundary-scan register.
  -/
  | extest (pins : Nat)
  /-- CLAMP (R585). The JTAG CLAMP instruction holds the pins from the boundary-scan register with bypass
  selected. -/
  | clamp
  /-- HIGHZ (R585). The JTAG HIGHZ instruction places the single-ended outputs in high impedance. -/
  | highz
  /-- RAILS_IN_BAND (R593). After a reset caused by a rail below its reset threshold, every rail returns within
  its band and, with PERST_N released, bring-up restarts at stage 1. -/
  | railsInBand (uv : List Nat)
  /-- REGISTER_READ (R517). A host read over BAR 0 or BAR 2 returns the register or semaphore value, or a fixed
  value for an unmapped, not-ready or badly sized access, which is counted in ACCESS_ERR, BLOCK_ERR or
  SEM_BAD_WR. -/
  | registerRead (bar off size : Nat)
  /-- SKID_COPY_DONE (R263). The Landing A copy engine finishes copying a granted gradient into its skid entry,
  the request ends and the gradient counts as released toward REL_SEM. -/
  | skidCopyDone
  deriving DecidableEq, Repr

end Sys2Proof
end

