-- ==== Sys2Proof/Decode.lean ====
section
/-!
DEFINITION. The command that a word spells by the bits of the table of operations and events: no row of the table
has bits, so no word spells a command.
-/

namespace Sys2Proof

/-- The command that an `nbits`-bit word spells: none, for no row of the table gives bits. -/
def decodeTableWord (_nbits _w : Nat) : Option Instr := none

end Sys2Proof
end

