-- ==== Sys2Proof/Config.lean ====
section
/-!
DEFINITION. What an implementation fixes and the free values: constants without a body, so that a claim about them
holds whatever they are.
-/

namespace Sys2Proof

/-- A fresh free value: the model applies it to a counter of the State that only rises (log entry 1). -/
opaque Config.freeValue : Nat → Nat

/-- Save-area bytes 0x054 to 0x1F7 of a context with held descriptors: each part's own form (R599). -/
opaque Config.saveState : List (Nat × Desc) → Nat → Byte

/-- The payload bytes of a message of CLASS 1 to 7, to which the spec gives no layout (R399). -/
opaque Config.payload : Nat → Machine.Msg → Nat → Byte

/-- The valid length of such a payload (R370, R399). -/
opaque Config.payloadLen : Nat → Machine.Msg → Nat

/-- The rounding error, as an FP32 code, of a sphere centre or of an element of a contact's Jacobian: R234 names these
quantities and no order of evaluation.  It is a function of the environment's inputs (R238). -/
opaque Config.jbError : List Nat → Nat

/-- The signature, byte by byte, that the device identity key makes over some bytes.  RSASSA-PKCS1-v1_5 is a function of
the key and the bytes, and the private half never leaves the device (R494, R498). -/
opaque Config.identitySign : List Byte → Nat → Byte

/-- The SHA-512 of the Lysdon root's public key that mask ROM holds (R498), byte by byte. -/
opaque Config.rootHash : Nat → Byte

/-- The modulus of the transport key (R428, R498), byte by byte. -/
opaque Config.transportModulus : Nat → Byte

end Sys2Proof
end

