-- ==== Sys2Proof/Machine/Memory.lean ====
section
/-!
DEFINITION. Sparse data by address in one canonical form, and byte memories built on it: little-endian
reads and writes (R6) and packed elements (R81).
-/

namespace Sys2Proof.Machine

/-- The value a sparse list holds at `k`, or `d` where it lists none.  The list is sorted by key. -/
def sparseGet {α : Type} (d : α) (k : Nat) : List (Nat × α) → α
  | [] => d
  | (j, v) :: r => if j = k then v else if k < j then d else sparseGet d k r

/-- The sparse list with `v` at `k`, where `d` is what an unlisted `k` reads as: canonical form is kept. -/
def sparseSet {α : Type} [DecidableEq α] (d : α) (k : Nat) (v : α) : List (Nat × α) → List (Nat × α)
  | [] => if v = d then [] else [(k, v)]
  | (j, w) :: r =>
    if j = k then (if v = d then r else (k, v) :: r)
    else if k < j then (if v = d then (j, w) :: r else (k, v) :: (j, w) :: r)
    else (j, w) :: sparseSet d k v r

/-- The canonical form from a lower bound on: keys strictly rising and no entry equal to its default. -/
def sparseWfFrom {α : Type} [DecidableEq α] (dflt : Nat → α) (lo : Nat) : List (Nat × α) → Bool
  | [] => true
  | (j, v) :: r => decide (lo ≤ j) && decide (v ≠ dflt j) && sparseWfFrom dflt (j + 1) r

/-- The canonical form of a sparse list. -/
def sparseWf {α : Type} [DecidableEq α] (dflt : Nat → α) (m : List (Nat × α)) : Bool := sparseWfFrom dflt 0 m

/-- The byte an unlisted address reads as: 0 (R561 stage 8 fills HBM and the SRAMs with zero; log entry 4). -/
def memDefault : Byte := 0

/-- One byte read. -/
def memRead (m : List Host.Cell) (a : Nat) : Byte := sparseGet memDefault a m

/-- One byte written. -/
def memWrite (m : List Host.Cell) (a : Nat) (b : Byte) : List Host.Cell := sparseSet memDefault a b m

/-- The canonical form of a byte memory. -/
def memWf (m : List Host.Cell) : Bool := sparseWf (fun _ => memDefault) m

/-- `n` bytes from address `a` on. -/
def memBytes (m : List Host.Cell) (a n : Nat) : List Byte := (List.range n).map (fun i => memRead m (a + i))

/-- Bytes written at consecutive addresses from `a` on. -/
def memWriteBytes (m : List Host.Cell) (a : Nat) : List Byte → List Host.Cell
  | [] => m
  | b :: r => memWriteBytes (memWrite m a b) (a + 1) r

/-- A list of single-byte writes, in order. -/
def memWriteAll (m : List Host.Cell) : List Host.Cell → List Host.Cell
  | [] => m
  | w :: r => memWriteAll (memWrite m w.1 w.2) r

/-- R6: the little-endian value of a list of bytes. -/
def leNat : List Byte → Nat
  | [] => 0
  | b :: r => b.toNat + 256 * leNat r

/-- R6: a value as `n` little-endian bytes. -/
def leBytes : Nat → Nat → List Byte
  | 0, _ => []
  | n + 1, x => BitVec.ofNat 8 x :: leBytes n (x / 256)

/-- An `n`-byte little-endian value at address `a`. -/
def memNat (m : List Host.Cell) (a n : Nat) : Nat := leNat (memBytes m a n)

/-- An `n`-byte little-endian value as single-byte writes. -/
def natWrites (a n x : Nat) : List Host.Cell :=
  ((List.range n).zip (leBytes n x)).map (fun p => (a + p.1, p.2))

/-- A byte list as single-byte writes from `a` on. -/
def bytesWrites (a : Nat) (bs : List Byte) : List Host.Cell :=
  ((List.range bs.length).zip bs).map (fun p => (a + p.1, p.2))

/-- R81: the code of element `k` of width `w` bits in packed bytes read by `rd`. -/
def packedGet (rd : Nat → Byte) (w k : Nat) : Nat :=
  if w = 4 then bits (rd (k / 2)).toNat (4 * (k % 2) + 3) (4 * (k % 2))
  else if w = 6 then
    let b := 3 * (k / 4)
    let g := (rd b).toNat + 256 * (rd (b + 1)).toNat + 65536 * (rd (b + 2)).toNat
    bits g (6 * (k % 4) + 5) (6 * (k % 4))
  else leNat ((List.range (w / 8)).map (fun i => rd (k * (w / 8) + i)))

/-- The number of bytes that `n` packed elements of `w` bits fill, the last byte or group padded (R81, R82). -/
def packedLen (w n : Nat) : Nat :=
  if w = 4 then (n + 1) / 2 else if w = 6 then 3 * ((n + 3) / 4) else n * (w / 8)

/-- R81, R82: a row of codes packed into bytes, padding zero. -/
def packRow (w : Nat) : List Nat → List Byte :=
  fun cs =>
    let total := ((List.range cs.length).zip cs).foldl (fun acc p => acc + p.2 * 2 ^ (w * p.1)) 0
    leBytes (packedLen w cs.length) total

end Sys2Proof.Machine
end

