-- ==== Sys2Proof/Machine/Digest.lean ====
section
/-!
DEFINITION. CRC-32 (R35, R371), CRC-16 (R345, R370), SHA-512 (R489) and the ring digest (R487).
-/

namespace Sys2Proof.Machine

/-- Bitwise steps of a reflected CRC. -/
def crcReflBits (poly : Nat) : Nat → Nat → Nat
  | 0, c => c
  | n + 1, c => crcReflBits poly n (if c % 2 = 1 then (c / 2) ^^^ poly else c / 2)

/-- CRC-32 of IEEE 802.3: reflected, initial value and final complement all ones. -/
def crc32 (bs : List Byte) : Nat :=
  (bs.foldl (fun c b => crcReflBits 0xEDB88320 8 (c ^^^ b.toNat)) 0xFFFFFFFF) ^^^ 0xFFFFFFFF

/-- Bitwise steps of a CRC-16 with its top bit first. -/
def crc16Bits : Nat → Nat → Nat
  | 0, c => c
  | n + 1, c => crc16Bits n (if 0x8000 ≤ c then ((2 * c) ^^^ 0x1021) % 65536 else 2 * c)

/-- R345, R370: CRC-16 of polynomial 0x1021, initial value 0xFFFF, no reflection. -/
def crc16 (bs : List Byte) : Nat := bs.foldl (fun c b => crc16Bits 8 (c ^^^ (b.toNat * 256))) 0xFFFF

/-! ### SHA-512 (FIPS 180-4), the hash that R489 names -/

/-- The fractional parts of the cube roots of the first eighty primes, 64 bits of each, five to a number; FIPS 180-4 defines
the round constants so, and `shaRoots_cube` checks each one against its prime. -/
def shaRoots : List Nat := [
  0x428a2f98d728ae227137449123ef65cdb5c0fbcfec4d3b2fe9b5dba58189dbbc3956c25bf348b538,
  0x59f111f1b605d019923f82a4af194f9bab1c5ed5da6d8118d807aa98a303024212835b0145706fbe,
  0x243185be4ee4b28c550c7dc3d5ffb4e272be5d74f27b896f80deb1fe3b1696b19bdc06a725c71235,
  0xc19bf174cf692694e49b69c19ef14ad2efbe4786384f25e30fc19dc68b8cd5b5240ca1cc77ac9c65,
  0x2de92c6f592b02754a7484aa6ea6e4835cb0a9dcbd41fbd476f988da831153b5983e5152ee66dfab,
  0xa831c66d2db43210b00327c898fb213fbf597fc7beef0ee4c6e00bf33da88fc2d5a79147930aa725,
  0x06ca6351e003826f142929670a0e6e7027b70a8546d22ffc2e1b21385c26c9264d2c6dfc5ac42aed,
  0x53380d139d95b3df650a73548baf63de766a0abb3c77b2a881c2c92e47edaee692722c851482353b,
  0xa2bfe8a14cf10364a81a664bbc423001c24b8b70d0f89791c76c51a30654be30d192e819d6ef5218,
  0xd69906245565a910f40e35855771202a106aa07032bbd1b819a4c116b8d2d0c81e376c085141ab53,
  0x2748774cdf8eeb9934b0bcb5e19b48a8391c0cb3c5c95a634ed8aa4ae3418acb5b9cca4f7763e373,
  0x682e6ff3d6b2b8a3748f82ee5defb2fc78a5636f43172f6084c87814a1f0ab728cc702081a6439ec,
  0x90befffa23631e28a4506cebde82bde9bef9a3f7b2c67915c67178f2e372532bca273eceea26619c,
  0xd186b8c721c0c207eada7dd6cde0eb1ef57d4f7fee6ed17806f067aa72176fba0a637dc5a2c898a6,
  0x113f9804bef90dae1b710b35131c471b28db77f523047d8432caab7b40c724933c9ebe0a15c9bebc,
  0x431d67c49c100d4c4cc5d4becb3e42b6597f299cfc657e2a5fcb6fab3ad6faec6c44198c4a475817
  ]

/-- The five 64-bit digits of a number, the highest first. -/
def fiveDigits (r : Nat) : List Nat := [4, 3, 2, 1, 0].map (fun i => (r >>> (64 * i)) % 2 ^ 64)

/-- The round constants in order. -/
def shaConstants : List Nat := shaRoots.flatMap fiveDigits

/-- The eight chaining words. -/
structure ShaState where
  a : Nat
  b : Nat
  c : Nat
  d : Nat
  e : Nat
  f : Nat
  g : Nat
  h : Nat
  deriving DecidableEq, Repr

/-- The fractional parts of the square roots of the first eight primes, 64 bits of each: the initial chaining words. -/
def shaStart : Nat :=
  0x6a09e667f3bcc908bb67ae8584caa73b3c6ef372fe94f82ba54ff53a5f1d36f1
    <<< 256 ||| 0x510e527fade682d19b05688c2b3e6c1f1f83d9abfb41bd6b5be0cd19137e2179

/-- The initial chaining words. -/
def shaInit : ShaState :=
  let w := fun (i : Nat) => (shaStart >>> (64 * (7 - i))) % 2 ^ 64
  ⟨w 0, w 1, w 2, w 3, w 4, w 5, w 6, w 7⟩

/-- 64-bit rotate right. -/
def rotr64 (n x : Nat) : Nat := (x >>> n) ||| ((x <<< (64 - n)) % 2 ^ 64)

/-- One round. -/
def shaRound (s : ShaState) (k w : Nat) : ShaState :=
  let s1 := rotr64 14 s.e ^^^ rotr64 18 s.e ^^^ rotr64 41 s.e
  let ch := (s.e &&& s.f) ^^^ ((2 ^ 64 - 1 - s.e) &&& s.g)
  let t1 := s.h + s1 + ch + k + w
  let s0 := rotr64 28 s.a ^^^ rotr64 34 s.a ^^^ rotr64 39 s.a
  let mj := (s.a &&& s.b) ^^^ (s.a &&& s.c) ^^^ (s.b &&& s.c)
  ⟨(t1 + s0 + mj) % 2 ^ 64, s.a, s.b, s.c, (s.d + t1) % 2 ^ 64, s.e, s.f, s.g⟩

/-- The next message word from the last sixteen. -/
def shaNextW (w : List Nat) : Nat :=
  let x15 := w.getD 1 0
  let x2 := w.getD 14 0
  let s0 := rotr64 1 x15 ^^^ rotr64 8 x15 ^^^ (x15 >>> 7)
  let s1 := rotr64 19 x2 ^^^ rotr64 61 x2 ^^^ (x2 >>> 6)
  (w.getD 0 0 + s0 + w.getD 9 0 + s1) % 2 ^ 64

/-- The rounds over a list of constants, with a sliding window of sixteen message words. -/
def shaRounds : List Nat → List Nat → ShaState → ShaState
  | [], _, s => s
  | k :: ks, w, s => shaRounds ks (w.drop 1 ++ [shaNextW w]) (shaRound s k (w.getD 0 0))

/-- One 128-byte block as sixteen big-endian words. -/
def shaWords (blk : List Byte) : List Nat :=
  (List.range 16).map (fun i => leNat ((blk.drop (8 * i)).take 8).reverse)

/-- One block of compression. -/
def shaBlock (s : ShaState) (blk : List Byte) : ShaState :=
  let t := shaRounds shaConstants (shaWords blk) s
  ⟨(s.a + t.a) % 2 ^ 64, (s.b + t.b) % 2 ^ 64, (s.c + t.c) % 2 ^ 64, (s.d + t.d) % 2 ^ 64,
   (s.e + t.e) % 2 ^ 64, (s.f + t.f) % 2 ^ 64, (s.g + t.g) % 2 ^ 64, (s.h + t.h) % 2 ^ 64⟩

/-- The blocks of a padded message. -/
def shaBlocks : Nat → List Byte → ShaState → ShaState
  | 0, _, s => s
  | n + 1, bs, s => shaBlocks n (bs.drop 128) (shaBlock s (bs.take 128))

/-- The padding: a one bit, zeros, and the length in bits as 16 big-endian bytes. -/
def shaPad (bs : List Byte) : List Byte :=
  let z := (240 - (bs.length + 1) % 128) % 128
  bs ++ [0x80] ++ List.replicate z 0 ++ (leBytes 16 (8 * bs.length)).reverse

/-- SHA-512 of a byte string: 64 bytes. -/
def sha512 (bs : List Byte) : List Byte :=
  let p := shaPad bs
  let s := shaBlocks (p.length / 128) p shaInit
  [s.a, s.b, s.c, s.d, s.e, s.f, s.g, s.h].flatMap (fun x => (leBytes 8 x).reverse)

/-- SHA-512 as a number whose stored form is the 64 bytes in order. -/
def sha512Nat (bs : List Byte) : Nat := leNat (sha512 bs)

/-! ### The ring digest -/

/-- R487: the modulus 2¹²⁷ − 1. -/
def ringP : Nat := 2 ^ 127 - 1

/-- R487: X. -/
def ringX : Nat := 0x5D3F8A21C7E94B062F91D8C36A5EB417

/-- R487: C0. -/
def ringC0 : Nat := 0x2C947E13B06AD5F8913E4C278B5D0A6F

/-- R487: the words taken in order. -/
def ringWords : Nat → List Byte → Nat → Nat
  | 0, _, h => h
  | n + 1, bs, h => ringWords n (bs.drop 8) ((h * ringX + leNat (bs.take 8)) % ringP)

/-- R487: the ring digest of a byte string. -/
def ringDigest (bs : List Byte) : Nat :=
  (ringWords ((bs.length + 7) / 8) bs ringC0 * ringX + bs.length) % ringP

end Sys2Proof.Machine
end

