-- ==== Sys2Proof/Machine/Numbers.lean ====
section
/-!
DEFINITION. The eleven number formats and INT32 (R75 to R81), exact values, the one rounding of an
exact value into a format (R89 to R94, R103), and block scales (R83 to R86, R95 to R97).
-/

namespace Sys2Proof.Machine

/-- A number format (R75). -/
inductive Fmt where
  | fp4 | fp6e3 | fp6e2 | e4m3 | e5m2 | int4 | int8 | fp16 | bf16 | fp32 | fp64 | int32
  deriving DecidableEq, Repr

/-- An exact value: a NaN with its sign, an infinity, or `± m × 2 ^ e`. -/
inductive FVal where
  | nan (neg : Bool)
  | inf (neg : Bool)
  | fin (neg : Bool) (m : Nat) (e : Int)
  deriving DecidableEq, Repr

/-- A rounding mode with, for SR, its 32-bit random word (R87, R103). -/
inductive Rnd where
  | rne | rz
  | sr (r : Nat)
  deriving DecidableEq, Repr

/-- The class of a conversion (R94). -/
inductive Cls where
  | nonfinite | ovf | ftz | sub | normal
  deriving DecidableEq, Repr

/-- R75: the format of a 4-bit code. -/
def fmtOfCode : Nat → Option Fmt
  | 0 => some .fp4 | 1 => some .fp6e3 | 2 => some .fp6e2 | 3 => some .e4m3 | 4 => some .e5m2
  | 5 => some .int4 | 6 => some .int8 | 7 => some .fp16 | 8 => some .bf16 | 9 => some .fp32
  | 10 => some .fp64 | 11 => some .int32 | _ => none

/-- R75: the code of a format. -/
def fmtCode : Fmt → Nat
  | .fp4 => 0 | .fp6e3 => 1 | .fp6e2 => 2 | .e4m3 => 3 | .e5m2 => 4 | .int4 => 5 | .int8 => 6
  | .fp16 => 7 | .bf16 => 8 | .fp32 => 9 | .fp64 => 10 | .int32 => 11

/-- R75: width in bits. -/
def fmtWidth : Fmt → Nat
  | .fp4 => 4 | .fp6e3 => 6 | .fp6e2 => 6 | .e4m3 => 8 | .e5m2 => 8 | .int4 => 4 | .int8 => 8
  | .fp16 => 16 | .bf16 => 16 | .fp32 => 32 | .fp64 => 64 | .int32 => 32

/-- R75: whether a format may carry block scales. -/
def fmtMxOk : Fmt → Bool
  | .fp4 | .fp6e3 | .fp6e2 | .e4m3 | .e5m2 | .int8 => true
  | _ => false

/-- R80: whether a format is an integer format. -/
def fmtIsInt : Fmt → Bool
  | .int4 | .int8 | .int32 => true
  | _ => false

/-- R77: mantissa bits of a float format. -/
def fmtMant : Fmt → Nat
  | .fp4 => 1 | .fp6e3 => 2 | .fp6e2 => 3 | .e4m3 => 3 | .e5m2 => 2
  | .fp16 => 10 | .bf16 => 7 | .fp32 => 23 | .fp64 => 52 | _ => 0

/-- R77: exponent bias of a float format. -/
def fmtBias : Fmt → Int
  | .fp4 => 1 | .fp6e3 => 3 | .fp6e2 => 1 | .e4m3 => 7 | .e5m2 => 15
  | .fp16 => 15 | .bf16 => 127 | .fp32 => 127 | .fp64 => 1023 | _ => 0

/-- R77: the code of the largest finite value, sign clear. -/
def fmtMaxCode : Fmt → Nat
  | .fp4 => 0x7 | .fp6e3 => 0x1F | .fp6e2 => 0x1F | .e4m3 => 0x7E | .e5m2 => 0x7B
  | .fp16 => 0x7BFF | .bf16 => 0x7F7F | .fp32 => 0x7F7FFFFF | .fp64 => 0x7FEFFFFFFFFFFFFF
  | .int4 => 7 | .int8 => 127 | .int32 => 2147483647

/-- R78: the code of infinity, sign clear. -/
def fmtInf : Fmt → Option Nat
  | .e5m2 => some 0x7C | .fp16 => some 0x7C00 | .bf16 => some 0x7F80 | .fp32 => some 0x7F800000
  | .fp64 => some 0x7FF0000000000000 | _ => none

/-- R78: the canonical NaN, sign clear. -/
def fmtNan : Fmt → Option Nat
  | .e4m3 => some 0x7F | .e5m2 => some 0x7E | .fp16 => some 0x7E00 | .bf16 => some 0x7FC0
  | .fp32 => some 0x7FC00000 | .fp64 => some 0x7FF8000000000000 | _ => none

/-- R90: whether RNE and SR overflow to infinity in this destination. -/
def fmtOvfInf : Fmt → Bool
  | .fp16 | .bf16 | .fp32 | .fp64 => true
  | _ => false

/-- The exact value of a code (R76 to R80). -/
def decodeCode (f : Fmt) (code : Nat) : FVal :=
  if fmtIsInt f then
    let i := toSigned (fmtWidth f) code
    .fin (i < 0) i.natAbs 0
  else
    let m := fmtMant f
    let neg := bit code (fmtWidth f - 1)
    let mag := code % 2 ^ (fmtWidth f - 1)
    if fmtInf f = some mag then .inf neg
    else if fmtMaxCode f < mag then .nan neg
    else
      let e := mag >>> m
      let fr := mag % 2 ^ m
      if e = 0 then .fin neg fr (1 - fmtBias f - m)
      else .fin neg (2 ^ m + fr) (e - fmtBias f - m)

/-- Whether a value is an infinity or a NaN. -/
def fvNonFinite : FVal → Bool
  | .fin .. => false
  | _ => true

/-- Whether a value is a NaN. -/
def fvIsNan : FVal → Bool
  | .nan _ => true
  | _ => false

/-- The sign bit of a value. -/
def fvNeg : FVal → Bool
  | .nan s => s
  | .inf s => s
  | .fin s _ _ => s

/-- Whether a value is a zero of either sign. -/
def fvIsZero : FVal → Bool
  | .fin _ m _ => m == 0
  | _ => false

/-- Positive zero. -/
def fvZero : FVal := .fin false 0 0

/-- A natural number as a value. -/
def fvOfNat (n : Nat) : FVal := .fin false n 0

/-- An integer as a value. -/
def fvOfInt (i : Int) : FVal := .fin (i < 0) i.natAbs 0

/-- The value with its sign flipped. -/
def fvNegate : FVal → FVal
  | .nan s => .nan (!s)
  | .inf s => .inf (!s)
  | .fin s m e => .fin (!s) m e

/-- The magnitude of a value. -/
def fvAbs : FVal → FVal
  | .nan _ => .nan false
  | .inf _ => .inf false
  | .fin _ m e => .fin false m e

/-- The value times `2 ^ k`. -/
def fvScale (k : Int) : FVal → FVal
  | .fin s m e => .fin s m (e + k)
  | v => v

/-- `m × 2 ^ e` as a numerator and a denominator. -/
def dyadicQ (m : Nat) (e : Int) : Nat × Nat :=
  if 0 ≤ e then (m * 2 ^ e.toNat, 1) else (m, 2 ^ (-e).toNat)

/-- A finite value as a signed integer at exponent `e0`, where `e0 ≤ e`. -/
def fvAt (e0 : Int) (s : Bool) (m : Nat) (e : Int) : Int :=
  let a : Int := (m * 2 ^ (e - e0).toNat : Nat)
  if s then -a else a

/-- The exact sum.  The sign of a NaN is that of the first NaN source (R79); an exact zero sum of two
terms is negative only when both terms are. -/
def fvAdd : FVal → FVal → FVal
  | .nan s, _ => .nan s
  | _, .nan s => .nan s
  | .inf s, .inf t => if s = t then .inf s else .nan false
  | .inf s, _ => .inf s
  | _, .inf t => .inf t
  | .fin s m e, .fin t n f =>
    let e0 := min e f
    let x := fvAt e0 s m e + fvAt e0 t n f
    if x = 0 then .fin (s && t) 0 0 else .fin (x < 0) x.natAbs e0

/-- The exact product (R79). -/
def fvMul : FVal → FVal → FVal
  | .nan s, _ => .nan s
  | _, .nan s => .nan s
  | .inf s, .inf t => .inf (s != t)
  | .inf s, .fin t n _ => if n = 0 then .nan false else .inf (s != t)
  | .fin s m _, .inf t => if m = 0 then .nan false else .inf (s != t)
  | .fin s m e, .fin t n f => .fin (s != t) (m * n) (e + f)

/-- The exact fused `a × b + c`; NaN sources rank a, then b, then c, and a product that is a NaN of its own has the sign of
a NaN `c` (R79). -/
def fvFma (a b c : FVal) : FVal :=
  match c with
  | .nan s => if fvIsNan a || fvIsNan b then fvMul a b else .nan s
  | _ => fvAdd (fvMul a b) c

/-- The exact difference. -/
def fvSub (a b : FVal) : FVal :=
  match a, b with
  | .nan s, _ => .nan s
  | _, .nan s => .nan s
  | _, _ => fvAdd a (fvNegate b)

/-- Order of two values, NaN apart: `a < b`. -/
def fvLt : FVal → FVal → Bool
  | .nan _, _ => false
  | _, .nan _ => false
  | .inf s, .inf t => s && !t
  | .inf s, _ => s
  | _, .inf t => !t
  | .fin s m e, .fin t n f =>
    let e0 := min e f
    decide (fvAt e0 s m e < fvAt e0 t n f)

/-- Equality of two values, NaN apart; zeros of either sign are equal. -/
def fvEq : FVal → FVal → Bool
  | .nan _, _ => false
  | _, .nan _ => false
  | a, b => !fvLt a b && !fvLt b a

/-- `a ≤ b`, false on a NaN. -/
def fvLe (a b : FVal) : Bool := fvLt a b || fvEq a b

/-- `floor (log2 (num / den))` of a positive fraction. -/
def floorLog2Q (num den : Nat) : Int :=
  let k : Int := (Nat.log2 num : Int) - (Nat.log2 den : Int)
  let ge : Bool := if 0 ≤ k then decide (den * 2 ^ k.toNat ≤ num) else decide (den ≤ num * 2 ^ (-k).toNat)
  if ge then k else k - 1

/-- The integer part and remainder of `(num / den) / 2 ^ u`, the remainder over its divisor. -/
def scaledQ (num den : Nat) (u : Int) : Nat × Nat × Nat :=
  let n := if 0 ≤ u then num else num * 2 ^ (-u).toNat
  let d := if 0 ≤ u then den * 2 ^ u.toNat else den
  (n / d, n % d, d)

/-- The integer that `n + rem / d` rounds to (R89, R103). -/
def roundUnit (r : Rnd) (n rem d : Nat) : Nat :=
  match r with
  | .rz => n
  | .rne => if d < 2 * rem then n + 1 else if 2 * rem = d then n + n % 2 else n
  | .sr w => if w < rem * 2 ^ 32 / d then n + 1 else n

/-- R89 and R90 on a positive exact magnitude `num / den` into a float format: the magnitude code and whether
R90 applied. -/
def roundMagFloat (f : Fmt) (r : Rnd) (num den : Nat) : Nat × Bool :=
  let m := fmtMant f
  let emin : Int := 1 - fmtBias f
  let u : Int := max (floorLog2Q num den) emin - m
  let q := scaledQ num den u
  let n := roundUnit r q.1 q.2.1 q.2.2
  let code := ((u - emin + m).toNat) * 2 ^ m + n
  if fmtMaxCode f < code then
    (match r with
     | .rz => (fmtMaxCode f, true)
     | _ => (if fmtOvfInf f then (fmtInf f).getD (fmtMaxCode f) else fmtMaxCode f, true))
  else (code, false)

/-- The smallest normal magnitude of a float format is `2 ^ (1 - bias)`: whether `num / den` lies below it. -/
def belowNormal (f : Fmt) (num den : Nat) : Bool := decide (floorLog2Q num den < 1 - fmtBias f)

/-- A magnitude code with a sign, in the format's own width. -/
def withSign (f : Fmt) (neg : Bool) (mag : Nat) : Nat := if neg then 2 ^ (fmtWidth f - 1) + mag else mag

/-- R89 to R94 on an exact fraction `± num / den`: the code and the class. -/
def convertQ (f : Fmt) (r : Rnd) (neg : Bool) (num den : Nat) : Nat × Cls :=
  if num = 0 then (if fmtIsInt f then 0 else withSign f neg 0, .normal)
  else if fmtIsInt f then
    let n := roundUnit r (num / den) (num % den) den
    let top := if neg then fmtMaxCode f + 1 else fmtMaxCode f
    if top < n then (ofSigned (fmtWidth f) (if neg then -(top : Int) else (top : Int)), .ovf)
    else (ofSigned (fmtWidth f) (if neg then -(n : Int) else (n : Int)), if n = 0 then .ftz else .normal)
  else
    let c := roundMagFloat f r num den
    (withSign f neg c.1,
      if c.2 then .ovf else if c.1 = 0 then .ftz else if belowNormal f num den then .sub else .normal)

/-- R89 to R94: a conversion of an exact value into a format, with its class. -/
def convert (f : Fmt) (r : Rnd) (v : FVal) : Nat × Cls :=
  match v with
  | .nan s => (match fmtNan f with
      | some c => withSign f s c
      | none => 0, .nonfinite)
  | .inf s =>
    (if fmtIsInt f then ofSigned (fmtWidth f) (if s then -(fmtMaxCode f : Int) - 1 else fmtMaxCode f)
     else match fmtInf f, fmtNan f with
      | some c, _ => withSign f s c
      | none, some c => withSign f s c
      | none, none => withSign f s (fmtMaxCode f), .nonfinite)
  | .fin s m e => let q := dyadicQ m e; convertQ f r s q.1 q.2

/-- R92: whether a conversion sets the non-finite flag: its source or its result is an infinity or a NaN. -/
def convertFlags (f : Fmt) (src : FVal) (code : Nat) : Bool := fvNonFinite src || fvNonFinite (decodeCode f code)

/-- An exact value rounded to a format and read back. -/
def roundTo (f : Fmt) (r : Rnd) (v : FVal) : FVal := decodeCode f (convert f r v).1

/-- An exact value rounded once to FP32 under RNE. -/
def r32 (v : FVal) : FVal := roundTo .fp32 .rne v

/-- An exact value rounded once to FP64 under RNE. -/
def r64 (v : FVal) : FVal := roundTo .fp64 .rne v

/-- An exact fraction rounded once to a format under RNE and read back. -/
def roundQ (f : Fmt) (neg : Bool) (num den : Nat) : FVal := decodeCode f (convertQ f .rne neg num den).1

/-- The exact quotient of two values, rounded once to `f` under RNE; `x / 0` is an infinity and `0 / 0` a NaN. -/
def divTo (f : Fmt) (a b : FVal) : FVal :=
  match a, b with
  | .nan s, _ => .nan s
  | _, .nan s => .nan s
  | .inf _, .inf _ => .nan false
  | .inf s, .fin t _ _ => .inf (s != t)
  | .fin s _ _, .inf t => .fin (s != t) 0 0
  | .fin s m e, .fin t n g =>
    if n = 0 then (if m = 0 then .nan false else .inf (s != t))
    else
      let p := dyadicQ m (e - g)
      roundQ f (s != t) p.1 (p.2 * n)

/-- One Newton step of the integer square root. -/
def isqrtStep (n x : Nat) : Nat := (x + n / x) / 2

/-- The integer square root by Newton's method with fuel. -/
def isqrtLoop (n : Nat) : Nat → Nat → Nat
  | 0, x => x
  | k + 1, x =>
    let y := isqrtStep n x
    if y < x then isqrtLoop n k y else x

/-- `floor (sqrt n)`. -/
def isqrt (n : Nat) : Nat :=
  if n = 0 then 0 else isqrtLoop n (Nat.log2 n + 8) (2 ^ (Nat.log2 n / 2 + 1))

/-- `sqrt (num / den)` as a numerator and denominator that round as the exact root does: 160 bits below the
leading one, with a sticky bit where the root is not exact. -/
def sqrtQ (num den : Nat) : Nat × Nat :=
  let k := 320 + 2 * (Nat.log2 den + 1)
  let x := num * 2 ^ k / den
  let r := isqrt x
  let exact : Bool := r * r == x && x * den == num * 2 ^ k
  (2 * r + (if exact then 0 else 1), 2 ^ (k / 2 + 1))

/-- The square root of a value rounded once to `f` under RNE: a negative value gives a NaN of sign 0 and
a zero keeps its sign. -/
def sqrtTo (f : Fmt) (v : FVal) : FVal :=
  match v with
  | .nan s => .nan s
  | .inf s => if s then .nan false else .inf false
  | .fin s m e =>
    if m = 0 then .fin s 0 0
    else if s then .nan false
    else
      let q := dyadicQ m e
      let r := sqrtQ q.1 q.2
      roundQ f false r.1 r.2

/-- The reciprocal square root of a value rounded once to `f` under RNE. -/
def rsqrtTo (f : Fmt) (v : FVal) : FVal :=
  match v with
  | .nan s => .nan s
  | .inf s => if s then .nan false else .fin false 0 0
  | .fin s m e =>
    if m = 0 then .inf s
    else if s then .nan false
    else
      let q := dyadicQ m e
      let r := sqrtQ q.2 q.1
      roundQ f false r.1 r.2

/-! ### Block scales -/

/-- R84: the exponent of an E8M0 byte, or none for NaN. -/
def e8m0 (x : Nat) : Option Int := if x = 0xFF then none else some ((x : Int) - 127)

/-- R85, R282: the binary places of an integer element under a scale. -/
def mxShift : Fmt → Int
  | .int8 => 6
  | .int4 => 2
  | _ => 0

/-- R85, R86, R282: the value of an element code under a scale byte.  DESIGN CHOICE: the NaN that scale byte 0xFF gives has
sign 0, whatever the element's own code (log entry 67). -/
def decodeScaled (f : Fmt) (scale code : Nat) : FVal :=
  match e8m0 scale with
  | none => .nan false
  | some e => fvScale (e - mxShift f) (decodeCode f code)

/-- R95: emax of the OCP rule. -/
def mxEmax : Fmt → Int
  | .fp4 => 2 | .fp6e3 => 4 | .fp6e2 => 2 | .e4m3 => 8 | .e5m2 => 15 | _ => 0

/-- R95, R282: the largest element magnitude of a scaled format. -/
def mxLargest (f : Fmt) : FVal := fvScale (- mxShift f) (decodeCode f (fmtMaxCode f))

/-- The largest magnitude among values (infinities and NaNs apart). -/
def fvAmax (vs : List FVal) : FVal := vs.foldl (fun a v => if fvLt a (fvAbs v) then fvAbs v else a) fvZero

/-- `floor (log2 v)` of a positive finite value. -/
def fvLog2 : FVal → Int
  | .fin _ m e => (Nat.log2 m : Int) + e
  | _ => 0

/-- R95: the unclamped exponent for a positive amax. -/
def mxExponent (f : Fmt) (noClip : Bool) (amax : FVal) : Int :=
  if noClip then
    let e0 := fvLog2 amax - fvLog2 (mxLargest f)
    if fvLe amax (fvScale e0 (mxLargest f)) then e0 else e0 + 1
  else fvLog2 amax - mxEmax f

/-- R95, R96: the scale byte of a finite block. -/
def mxScaleByte (f : Fmt) (noClip : Bool) (amax : FVal) : Nat :=
  if fvIsZero amax then 0
  else
    let e := mxExponent f noClip amax
    (max (-127) (min 127 e) + 127).toNat

/-- R93 to R97: one block written scaled: the scale byte, then each element's code and class, each value with its
rounding.  The zeros of a block whose amax is 0 keep their signs. -/
def convertBlock (f : Fmt) (noClip : Bool) (vs : List (FVal × Rnd)) : Nat × List (Nat × Cls) :=
  if vs.any (fun v => fvNonFinite v.1) then (0xFF, vs.map (fun _ => (0, Cls.nonfinite)))
  else
    let b := mxScaleByte f noClip (fvAmax (vs.map Prod.fst))
    let k : Int := mxShift f - ((b : Int) - 127)
    (b, vs.map (fun v => convert f v.2 (fvScale k v.1)))

end Sys2Proof.Machine
end

