-- ==== Sys2Proof/Machine/Philox.lean ====
section
/-!
DEFINITION. Philox-4×32-10 and the draw of one element (R98 to R102).
-/

namespace Sys2Proof.Machine

/-- The four words of a Philox counter or output. -/
structure Quad where
  x0 : Nat
  x1 : Nat
  x2 : Nat
  x3 : Nat
  deriving DecidableEq, Repr

/-- One round of R98. -/
def philoxRound (c : Quad) (k0 k1 : Nat) : Quad :=
  let p := 0xD2511F53 * c.x0
  let q := 0xCD9E8D57 * c.x2
  { x0 := ((q >>> 32) ^^^ c.x1 ^^^ k0) % 2 ^ 32
    x1 := q % 2 ^ 32
    x2 := ((p >>> 32) ^^^ c.x3 ^^^ k1) % 2 ^ 32
    x3 := p % 2 ^ 32 }

/-- `n` rounds with the key schedule of R98. -/
def philoxRounds : Nat → Quad → Nat → Nat → Quad
  | 0, c, _, _ => c
  | n + 1, c, k0, k1 =>
    philoxRounds n (philoxRound c k0 k1) ((k0 + 0x9E3779B9) % 2 ^ 32) ((k1 + 0xBB67AE85) % 2 ^ 32)

/-- R98: Philox-4×32-10. -/
def philox (c : Quad) (k0 k1 : Nat) : Quad := philoxRounds 10 c k0 k1

/-- Word `i` of four. -/
def quadAt (q : Quad) (i : Nat) : Nat :=
  if i % 4 = 0 then q.x0 else if i % 4 = 1 then q.x1 else if i % 4 = 2 then q.x2 else q.x3

/-- R99, R102: the 32-bit word of element `i` in a stream at a step, under a job seed. -/
def philoxDraw (seed stream step i : Nat) : Nat :=
  let g := i / 4
  quadAt (philox ⟨g % 2 ^ 32, (g / 2 ^ 32) % 2 ^ 32, step % 2 ^ 32, stream % 2 ^ 32⟩
    (seed % 2 ^ 32) ((seed / 2 ^ 32) % 2 ^ 32)) i

/-- R100: a stream id. -/
def streamId (purpose tensor : Nat) : Nat := (purpose % 16) * 2 ^ 28 + tensor % 2 ^ 28

/-- R157, R170: the PURPOSE of an output's stream: 0 where OUT_PURPOSE is 0 or the source is named as a tensor of gradient
kind (role 2), else 3. -/
def outPurpose (bitv : Nat) (named : Bool) (tensor : Nat) : Nat := if bitv = 0 ∨ (named ∧ tensor % 8 = 2) then 0 else 3

end Sys2Proof.Machine
end

