-- ==== Sys2Proof/Machine/RegTable.lean ====
section
/-!
DEFINITION. The register fields of every block, one definition per field of the spec's register tables (R30, R71,
R104, R132, R162, R184, R185, R223, R224, R249, R280, R312 to R314, R320, R335, R365, R366, R392 to R395, R423,
R449 to R451, R485, R486, R513, R514, R535, R536, R549, R550, R595), and the lists of them by kind of block.
-/

namespace Sys2Proof.Machine

/-- The access codes of R8; `cnt` is an RW count that any plain write sets to 0 (R522). -/
inductive Acc where
  | ro | rw | wo | w1c | rwv | rwp | cnt
  deriving DecidableEq, Repr

/-- A register field: its block offset, the stride and number of its copies, its bits, access and reset value. -/
structure Fld where
  off : Nat
  stride : Nat
  copies : Nat
  hi : Nat
  lo : Nat
  acc : Acc
  rst : Nat
  deriving DecidableEq, Repr

namespace Reg

/-- R30, `HBM_CE.COUNT`. -/
def hbmCe_count : Fld := ⟨0x0400, 0x0, 1, 31, 0, .cnt, 0⟩
/-- R30, `HBM_UE.COUNT`. -/
def hbmUe_count : Fld := ⟨0x0404, 0x0, 1, 15, 0, .cnt, 0⟩
/-- R30, `HBM_UE.UNMAPPED_WR`. -/
def hbmUe_unmappedWr : Fld := ⟨0x0404, 0x0, 1, 23, 16, .rw, 0⟩
/-- R30, `HBM_RETIRE.USED0` (reset: from part record). -/
def hbmRetire_used0 : Fld := ⟨0x0408, 0x0, 1, 10, 0, .ro, 0⟩
/-- R30, `HBM_RETIRE.USED1` (reset: from part record). -/
def hbmRetire_used1 : Fld := ⟨0x0408, 0x0, 1, 26, 16, .ro, 0⟩
/-- R30, `HBM_RETIRE.FULL`. -/
def hbmRetire_full : Fld := ⟨0x0408, 0x0, 1, 31, 31, .w1c, 0⟩
/-- R30, `HBM_LAST_UE.OFFSET_LO`. -/
def hbmLastUe_offsetLo : Fld := ⟨0x0410, 0x0, 1, 31, 0, .ro, 0⟩
/-- R30, `HBM_LAST_UE.OFFSET_HI`. -/
def hbmLastUe_offsetHi : Fld := ⟨0x0414, 0x0, 1, 9, 0, .ro, 0⟩
/-- R30, `HBM_LAST_UE.VALID`. -/
def hbmLastUe_valid : Fld := ⟨0x0414, 0x0, 1, 31, 31, .w1c, 0⟩
/-- R71, `CTX_BASE.BASE_LO`. -/
def ctxBase_baseLo : Fld := ⟨0x1000, 0x0, 1, 31, 12, .rwv, 0⟩
/-- R71, `CTX_BASE.BASE_HI`. -/
def ctxBase_baseHi : Fld := ⟨0x1004, 0x0, 1, 31, 0, .rwv, 0⟩
/-- R71, `CTX_COUNT.COUNT`. -/
def ctxCount_count : Fld := ⟨0x1008, 0x0, 1, 12, 0, .rwv, 0⟩
/-- R71, `RING_CTRL.ENABLE`. -/
def ringCtrl_enable : Fld := ⟨0x100C, 0x0, 1, 0, 0, .rwv, 0⟩
/-- R71, `RING_CTRL.DRAINING`. -/
def ringCtrl_draining : Fld := ⟨0x100C, 0x0, 1, 1, 1, .ro, 0⟩
/-- R71, `CTX_CTRL.CONTEXT`. -/
def ctxCtrl_context : Fld := ⟨0x1010, 0x0, 1, 12, 0, .rwp, 0⟩
/-- R71, `CTX_CTRL.ACTION`. -/
def ctxCtrl_action : Fld := ⟨0x1010, 0x0, 1, 14, 13, .rwp, 0⟩
/-- R71, `CTX_CTRL.BUSY`. -/
def ctxCtrl_busy : Fld := ⟨0x1010, 0x0, 1, 31, 31, .ro, 0⟩
/-- R71, `CTX_NEW_HEAD.HEAD`. -/
def ctxNewHead_head : Fld := ⟨0x1014, 0x0, 1, 31, 0, .rwp, 0⟩
/-- R71, `MSIX_GAP.US`. -/
def msixGap_us : Fld := ⟨0x1018, 0x0, 1, 7, 0, .rw, 0⟩
/-- R71, `CTX_OVERFLOW.COUNT`. -/
def ctxOverflow_count : Fld := ⟨0x1020, 0x0, 1, 31, 0, .cnt, 0⟩
/-- R71, `CTX_SPILLS.COUNT`. -/
def ctxSpills_count : Fld := ⟨0x1024, 0x0, 1, 31, 0, .cnt, 0⟩
/-- R71, `DB_IGNORED.COUNT`. -/
def dbIgnored_count : Fld := ⟨0x1028, 0x0, 1, 31, 0, .cnt, 0⟩
/-- R71, `OVQ.DEPTH`. -/
def ovq_depth : Fld := ⟨0x102C, 0x0, 1, 12, 0, .ro, 0⟩
/-- R71, `OVQ.PEAK`. -/
def ovq_peak : Fld := ⟨0x102C, 0x0, 1, 28, 16, .ro, 0⟩
/-- R104, `JOB_SEED.SEED_LO`. -/
def jobSeed_seedLo : Fld := ⟨0x1100, 0x0, 1, 31, 0, .rwv, 0⟩
/-- R104, `JOB_SEED.SEED_HI`. -/
def jobSeed_seedHi : Fld := ⟨0x1104, 0x0, 1, 31, 0, .rwv, 0⟩
/-- R132, `MAT_CHECKS.COUNT`. -/
def matChecks_count : Fld := ⟨0x0200, 0x0, 1, 31, 0, .cnt, 0⟩
/-- R132, `MAT_MISMATCH.COUNT`. -/
def matMismatch_count : Fld := ⟨0x0204, 0x0, 1, 15, 0, .cnt, 0⟩
/-- R132, `MAT_MISMATCH.FAILS`. -/
def matMismatch_fails : Fld := ⟨0x0204, 0x0, 1, 31, 16, .cnt, 0⟩
/-- R132, `MAT_DROPPED.DISTURBED`. -/
def matDropped_disturbed : Fld := ⟨0x0208, 0x0, 1, 15, 0, .cnt, 0⟩
/-- R132, `MAT_DROPPED.BRAKE`. -/
def matDropped_brake : Fld := ⟨0x0208, 0x0, 1, 31, 16, .cnt, 0⟩
/-- R132, `MAT_SAT.COUNT`. -/
def matSat_count : Fld := ⟨0x020C, 0x0, 1, 15, 0, .cnt, 0⟩
/-- R132, `MAT_SAT.STICKY`. -/
def matSat_sticky : Fld := ⟨0x020C, 0x0, 1, 31, 31, .w1c, 0⟩
/-- R132, `MAT_SAT_LAST.TILE`. -/
def matSatLast_tile : Fld := ⟨0x0210, 0x0, 1, 23, 0, .ro, 0⟩
/-- R132, `MAT_SAT_LAST.DESC_INDEX`. -/
def matSatLast_descIndex : Fld := ⟨0x0214, 0x0, 1, 31, 0, .ro, 0⟩
/-- R132, `MAT_SAT_LAST.CONTEXT`. -/
def matSatLast_context : Fld := ⟨0x0218, 0x0, 1, 15, 0, .ro, 0⟩
/-- R132, `MAT_SAT_LAST.VALID`. -/
def matSatLast_valid : Fld := ⟨0x0218, 0x0, 1, 31, 31, .w1c, 0⟩
/-- R162, `SCL_BASE.BASE_LO`. -/
def sclBase_baseLo : Fld := ⟨0x1200, 0x0, 1, 31, 7, .rwv, 0⟩
/-- R162, `SCL_BASE.BASE_HI`. -/
def sclBase_baseHi : Fld := ⟨0x1204, 0x0, 1, 9, 0, .rwv, 0⟩
/-- R162, `SCL_CTRL.COUNT`. -/
def sclCtrl_count : Fld := ⟨0x1208, 0x0, 1, 9, 0, .rwv, 0⟩
/-- R162, `SCL_CTRL.ERR_ENTRY`. -/
def sclCtrl_errEntry : Fld := ⟨0x1208, 0x0, 1, 19, 10, .ro, 0⟩
/-- R162, `SCL_CTRL.ERR`. -/
def sclCtrl_err : Fld := ⟨0x1208, 0x0, 1, 30, 30, .ro, 0⟩
/-- R162, `SCL_CTRL.ENABLE`. -/
def sclCtrl_enable : Fld := ⟨0x1208, 0x0, 1, 31, 31, .rwv, 0⟩
/-- R162, `NF_CTRL.POLICY`. -/
def nfCtrl_policy : Fld := ⟨0x120C, 0x0, 1, 0, 0, .rwv, 0⟩
/-- R162, `NF_STATUS.FLAG`. -/
def nfStatus_flag : Fld := ⟨0x1210, 0x0, 1, 0, 0, .ro, 0⟩
/-- R162, `NF_STATUS.LOCAL`. -/
def nfStatus_local : Fld := ⟨0x1210, 0x0, 1, 1, 1, .ro, 0⟩
/-- R162, `NF_STATUS.SKIPPED`. -/
def nfStatus_skipped : Fld := ⟨0x1210, 0x0, 1, 31, 16, .cnt, 0⟩
/-- R162, `AUDIT.INTERVAL`. -/
def audit_interval : Fld := ⟨0x1214, 0x0, 1, 15, 0, .rwv, 0⟩
/-- R162, `AUDIT_COUNT.COUNT`. -/
def auditCount_count : Fld := ⟨0x1218, 0x0, 1, 31, 0, .cnt, 0⟩
/-- R184, `OMA_HELD.DEPTH0`. -/
def omaHeld_depth0 : Fld := ⟨0x0500, 0x0, 1, 11, 0, .ro, 0⟩
/-- R184, `OMA_HELD.DEPTH1`. -/
def omaHeld_depth1 : Fld := ⟨0x0500, 0x0, 1, 27, 16, .ro, 0⟩
/-- R184, `OMA_REFUSED.COUNT`. -/
def omaRefused_count : Fld := ⟨0x0504, 0x0, 1, 31, 0, .cnt, 0⟩
/-- R184, `OMA_OVERDUE.COUNT`. -/
def omaOverdue_count : Fld := ⟨0x0508, 0x0, 1, 31, 0, .cnt, 0⟩
/-- R184, `OMA_SAT.COUNT`. -/
def omaSat_count : Fld := ⟨0x050C, 0x0, 1, 15, 0, .cnt, 0⟩
/-- R184, `OMA_SAT.STICKY`. -/
def omaSat_sticky : Fld := ⟨0x050C, 0x0, 1, 31, 31, .w1c, 0⟩
/-- R185, `OMA_CTRL.OVERDUE_US`. -/
def omaCtrl_overdueUs : Fld := ⟨0x1300, 0x0, 1, 15, 0, .rwv, 100⟩
/-- R185, `OMA_GROUPS.OPEN`. -/
def omaGroups_open : Fld := ⟨0x1304, 0x0, 1, 8, 0, .ro, 0⟩
/-- R223, `TRU_BASE.BASE_LO`. -/
def truBase_baseLo : Fld := ⟨0x1400, 0x0, 1, 31, 7, .rwv, 0⟩
/-- R223, `TRU_BASE.BASE_HI`. -/
def truBase_baseHi : Fld := ⟨0x1404, 0x0, 1, 9, 0, .rwv, 0⟩
/-- R223, `TRU_CTRL.COUNT`. -/
def truCtrl_count : Fld := ⟨0x1408, 0x0, 1, 9, 0, .rwv, 0⟩
/-- R223, `SIDE_BASE.BASE_LO`. -/
def sideBase_baseLo : Fld := ⟨0x1410, 0x0, 1, 31, 5, .rwv, 0⟩
/-- R223, `SIDE_BASE.BASE_HI`. -/
def sideBase_baseHi : Fld := ⟨0x1414, 0x0, 1, 9, 0, .rwv, 0⟩
/-- R223, `SIDE_CTRL.COUNT`. -/
def sideCtrl_count : Fld := ⟨0x1418, 0x0, 1, 8, 0, .rwv, 0⟩
/-- R224, `TRU_STATE.RUN`. -/
def truState_run : Fld := ⟨0x0600, 0x0, 1, 1, 0, .ro, 0⟩
/-- R224, `TRU_STATE.PARKED`. -/
def truState_parked : Fld := ⟨0x0600, 0x0, 1, 13, 2, .ro, 0⟩
/-- R224, `TRU_PIVOTS.NOT_POS`. -/
def truPivots_notPos : Fld := ⟨0x0604, 0x0, 1, 15, 0, .cnt, 0⟩
/-- R224, `TRU_PIVOTS.ILL`. -/
def truPivots_ill : Fld := ⟨0x0604, 0x0, 1, 31, 16, .cnt, 0⟩
/-- R224, `TRU_RETRIES.COUNT`. -/
def truRetries_count : Fld := ⟨0x0608, 0x0, 1, 31, 0, .cnt, 0⟩
/-- R224, `TRU_PARKS.COUNT`. -/
def truParks_count : Fld := ⟨0x060C, 0x0, 1, 31, 0, .cnt, 0⟩
/-- R224, `TRU_WAITS.COUNT`. -/
def truWaits_count : Fld := ⟨0x0610, 0x0, 1, 31, 0, .cnt, 0⟩
/-- R224, `TRU_RESID.FAILS`. -/
def truResid_fails : Fld := ⟨0x0614, 0x0, 1, 15, 0, .cnt, 0⟩
/-- R224, `TRU_RESID.NOT_CONV`. -/
def truResid_notConv : Fld := ⟨0x0614, 0x0, 1, 31, 16, .cnt, 0⟩
/-- R224, `SIDE_DROPPED.COUNT`. -/
def sideDropped_count : Fld := ⟨0x0618, 0x0, 1, 31, 0, .cnt, 0⟩
/-- R249, `JB_STEPS.COUNT`. -/
def jbSteps_count : Fld := ⟨0x0700, 0x0, 1, 31, 0, .cnt, 0⟩
/-- R249, `JB_FAILS.INFEAS`. -/
def jbFails_infeas : Fld := ⟨0x0704, 0x0, 1, 15, 0, .cnt, 0⟩
/-- R249, `JB_FAILS.HALTS`. -/
def jbFails_halts : Fld := ⟨0x0704, 0x0, 1, 31, 16, .cnt, 0⟩
/-- R249, `JB_CDROP.COUNT`. -/
def jbCdrop_count : Fld := ⟨0x0708, 0x0, 1, 31, 0, .cnt, 0⟩
/-- R249, `JB_LOOP.ACTIVE`. -/
def jbLoop_active : Fld := ⟨0x1500, 0x0, 1, 4, 0, .ro, 0⟩
/-- R249, `JB_LOOP.OVERRUN`. -/
def jbLoop_overrun : Fld := ⟨0x1500, 0x0, 1, 31, 16, .cnt, 0⟩
/-- R249, `JB_RESETS.COUNT`. -/
def jbResets_count : Fld := ⟨0x1504, 0x0, 1, 31, 0, .cnt, 0⟩
/-- R280, `STEP.ID_LO`. -/
def step_idLo : Fld := ⟨0x1600, 0x0, 1, 31, 0, .rwv, 0⟩
/-- R280, `STEP.ID_HI`. -/
def step_idHi : Fld := ⟨0x1604, 0x0, 1, 31, 0, .rwv, 0⟩
/-- R280, `PARAM_BASE.BASE_LO`. -/
def paramBase_baseLo : Fld := ⟨0x1608, 0x0, 1, 31, 7, .rwv, 0⟩
/-- R280, `PARAM_BASE.BASE_HI`. -/
def paramBase_baseHi : Fld := ⟨0x160C, 0x0, 1, 9, 0, .rwv, 0⟩
/-- R280, `PARAM_CTRL.COUNT`. -/
def paramCtrl_count : Fld := ⟨0x1610, 0x0, 1, 20, 0, .rwv, 0⟩
/-- R280, `SKID_BASE.BASE_LO`. -/
def skidBase_baseLo : Fld := ⟨0x1618, 0x0, 1, 31, 12, .rwv, 0⟩
/-- R280, `SKID_BASE.BASE_HI`. -/
def skidBase_baseHi : Fld := ⟨0x161C, 0x0, 1, 9, 0, .rwv, 0⟩
/-- R280, `SKID_CTRL.PAGES`. -/
def skidCtrl_pages : Fld := ⟨0x1620, 0x0, 1, 20, 0, .rwv, 0⟩
/-- R280, `SKID_USED.PAGES`. -/
def skidUsed_pages : Fld := ⟨0x1624, 0x0, 1, 20, 0, .ro, 0⟩
/-- R280, `SKID_ENTRIES.USED`. -/
def skidEntries_used : Fld := ⟨0x1628, 0x0, 1, 12, 0, .ro, 0⟩
/-- R280, `SKID_ENTRIES.PEAK`. -/
def skidEntries_peak : Fld := ⟨0x1628, 0x0, 1, 28, 16, .ro, 0⟩
/-- R280, `SKID_FULL.COUNT`. -/
def skidFull_count : Fld := ⟨0x162C, 0x0, 1, 31, 0, .cnt, 0⟩
/-- R280, `YARD_IN.PAGES`. -/
def yardIn_pages : Fld := ⟨0x1630, 0x0, 1, 31, 0, .cnt, 0⟩
/-- R280, `YARD_OUT.PAGES`. -/
def yardOut_pages : Fld := ⟨0x1634, 0x0, 1, 31, 0, .cnt, 0⟩
/-- R280, `REPLICA_CMPS.RUN`. -/
def replicaCmps_run : Fld := ⟨0x1638, 0x0, 1, 15, 0, .cnt, 0⟩
/-- R280, `REPLICA_CMPS.MISMATCH`. -/
def replicaCmps_mismatch : Fld := ⟨0x1638, 0x0, 1, 31, 16, .cnt, 0⟩
/-- R312, `EXP_BUF.OFFSET`. -/
def expBuf_offset : Fld := ⟨0x0300, 0x0, 1, 21, 4, .rw, 0⟩
/-- R312, `EXP_BUF_SIZE.BYTES`. -/
def expBufSize_bytes : Fld := ⟨0x0304, 0x0, 1, 22, 0, .rw, 0⟩
/-- R312, `EXP_STALL.ACLK`. -/
def expStall_aclk : Fld := ⟨0x0308, 0x0, 1, 31, 0, .cnt, 0⟩
/-- R312, `EXP_REFUSED.OVERRUN`. -/
def expRefused_overrun : Fld := ⟨0x030C, 0x0, 1, 15, 0, .cnt, 0⟩
/-- R312, `EXP_REFUSED.UNDERRUN`. -/
def expRefused_underrun : Fld := ⟨0x030C, 0x0, 1, 31, 16, .cnt, 0⟩
/-- R313, `SAW_CODED.COUNT`. -/
def sawCoded_count : Fld := ⟨0x0800, 0x0, 1, 31, 0, .cnt, 0⟩
/-- R313, `SAW_STORED.COUNT`. -/
def sawStored_count : Fld := ⟨0x0804, 0x0, 1, 31, 0, .cnt, 0⟩
/-- R313, `SAW_BYTES.KIB`. -/
def sawBytes_kib : Fld := ⟨0x0808, 0x0, 1, 31, 0, .cnt, 0⟩
/-- R314, `axis.LEN`. -/
def axis_len : Fld := ⟨0x1700, 0x10, 6, 16, 0, .rwv, 1⟩
/-- R314, `axis.CUT`. -/
def axis_cut : Fld := ⟨0x1700, 0x10, 6, 19, 17, .rwv, 0⟩
/-- R314, `axis.PLUS`. -/
def axis_plus : Fld := ⟨0x1704, 0x10, 6, 11, 0, .rwv, 0⟩
/-- R314, `axis.MINUS`. -/
def axis_minus : Fld := ⟨0x1704, 0x10, 6, 27, 16, .rwv, 0⟩
/-- R314, `axis.NEXT`. -/
def axis_next : Fld := ⟨0x1708, 0x10, 6, 15, 0, .ro, 0⟩
/-- R314, `axis.PREV`. -/
def axis_prev : Fld := ⟨0x1708, 0x10, 6, 31, 16, .ro, 0⟩
/-- R314, `axis.COORD`. -/
def axis_coord : Fld := ⟨0x170C, 0x10, 6, 15, 0, .ro, 0⟩
/-- R314, `AXIS_CTRL.ENABLE`. -/
def axisCtrl_enable : Fld := ⟨0x1760, 0x0, 1, 0, 0, .rwv, 0⟩
/-- R314, `AXIS_CTRL.ERR`. -/
def axisCtrl_err : Fld := ⟨0x1760, 0x0, 1, 1, 1, .ro, 0⟩
/-- R314, `AXIS_CTRL.ERR_AXIS`. -/
def axisCtrl_errAxis : Fld := ⟨0x1760, 0x0, 1, 4, 2, .ro, 0⟩
/-- R320, `pan.STAGE_LO`. -/
def pan_stageLo : Fld := ⟨0x1800, 0x40, 16, 31, 12, .rwv, 0⟩
/-- R320, `pan.STAGE_HI`. -/
def pan_stageHi : Fld := ⟨0x1804, 0x40, 16, 9, 0, .rwv, 0⟩
/-- R320, `pan.SLOW_LO`. -/
def pan_slowLo : Fld := ⟨0x1808, 0x40, 16, 31, 12, .rwv, 0⟩
/-- R320, `pan.SLOW_HI`. -/
def pan_slowHi : Fld := ⟨0x180C, 0x40, 16, 31, 0, .rwv, 0⟩
/-- R320, `pan.PAGES`. -/
def pan_pages : Fld := ⟨0x1810, 0x40, 16, 19, 0, .rwv, 0⟩
/-- R320, `pan.SLOTS`. -/
def pan_slots : Fld := ⟨0x1814, 0x40, 16, 6, 0, .rwv, 0⟩
/-- R320, `pan.LIFO`. -/
def pan_lifo : Fld := ⟨0x1814, 0x40, 16, 7, 7, .rwv, 0⟩
/-- R320, `pan.NBLK`. -/
def pan_nblk : Fld := ⟨0x1814, 0x40, 16, 23, 8, .rwv, 0⟩
/-- R320, `pan.ENABLE`. -/
def pan_enable : Fld := ⟨0x1814, 0x40, 16, 31, 31, .rwv, 0⟩
/-- R320, `pan.OUT_SEM`. -/
def pan_outSem : Fld := ⟨0x1818, 0x40, 16, 11, 0, .rwv, 0⟩
/-- R320, `pan.OUT_DONE`. -/
def pan_outDone : Fld := ⟨0x1818, 0x40, 16, 27, 16, .rwv, 0⟩
/-- R320, `pan.IN_SEM`. -/
def pan_inSem : Fld := ⟨0x181C, 0x40, 16, 11, 0, .rwv, 0⟩
/-- R320, `pan.IN_DONE`. -/
def pan_inDone : Fld := ⟨0x181C, 0x40, 16, 27, 16, .rwv, 0⟩
/-- R320, `pan.DIG_LO`. -/
def pan_digLo : Fld := ⟨0x1820, 0x40, 16, 31, 4, .rwv, 0⟩
/-- R320, `pan.DIG_HI`. -/
def pan_digHi : Fld := ⟨0x1824, 0x40, 16, 9, 0, .rwv, 0⟩
/-- R320, `pan.OUT_COUNT`. -/
def pan_outCount : Fld := ⟨0x1828, 0x40, 16, 31, 0, .ro, 0⟩
/-- R320, `pan.IN_COUNT`. -/
def pan_inCount : Fld := ⟨0x182C, 0x40, 16, 31, 0, .ro, 0⟩
/-- R320, `pan.FILL_LO`. -/
def pan_fillLo : Fld := ⟨0x1830, 0x40, 16, 31, 12, .rwv, 0⟩
/-- R320, `pan.FILL_HI`. -/
def pan_fillHi : Fld := ⟨0x1834, 0x40, 16, 9, 0, .rwv, 0⟩
/-- R320, `pan.ERR`. -/
def pan_err : Fld := ⟨0x1838, 0x40, 16, 0, 0, .w1c, 0⟩
/-- R320, `pan.HALTED`. -/
def pan_halted : Fld := ⟨0x1838, 0x40, 16, 1, 1, .ro, 0⟩
/-- R320, `pan.REFETCH`. -/
def pan_refetch : Fld := ⟨0x1838, 0x40, 16, 15, 8, .ro, 0⟩
/-- R335, `DRL_PIECES.COUNT`. -/
def drlPieces_count : Fld := ⟨0x1780, 0x0, 1, 31, 0, .cnt, 0⟩
/-- R335, `DRL_RESENDS.COUNT`. -/
def drlResends_count : Fld := ⟨0x1784, 0x0, 1, 31, 0, .cnt, 0⟩
/-- R335, `DRL_SWITCH.GROUPS`. -/
def drlSwitch_groups : Fld := ⟨0x1788, 0x0, 1, 15, 0, .cnt, 0⟩
/-- R335, `DRL_SWITCH.FAILED`. -/
def drlSwitch_failed : Fld := ⟨0x1788, 0x0, 1, 31, 16, .cnt, 0⟩
/-- R365, `TICK_CTRL.PERIOD`. -/
def tickCtrl_period : Fld := ⟨0x1C00, 0x0, 1, 7, 0, .rwv, 5⟩
/-- R365, `TICK_CTRL.RUN`. -/
def tickCtrl_run : Fld := ⟨0x1C00, 0x0, 1, 31, 31, .rwv, 0⟩
/-- R365, `TICK_NOW.ID_LO`. -/
def tickNow_idLo : Fld := ⟨0x1C08, 0x0, 1, 31, 0, .ro, 0⟩
/-- R365, `TICK_NOW.ID_HI`. -/
def tickNow_idHi : Fld := ⟨0x1C0C, 0x0, 1, 31, 0, .ro, 0⟩
/-- R365, `TIME_NOW.NS_LO`. -/
def timeNow_nsLo : Fld := ⟨0x1C10, 0x0, 1, 31, 0, .ro, 0⟩
/-- R365, `TIME_NOW.NS_HI`. -/
def timeNow_nsHi : Fld := ⟨0x1C14, 0x0, 1, 31, 0, .ro, 0⟩
/-- R365, `SLOT_BASE.BASE_LO`. -/
def slotBase_baseLo : Fld := ⟨0x1C20, 0x0, 1, 31, 4, .rwv, 0⟩
/-- R365, `SLOT_BASE.BASE_HI`. -/
def slotBase_baseHi : Fld := ⟨0x1C24, 0x0, 1, 9, 0, .rwv, 0⟩
/-- R365, `SLOT_CTRL.COUNT`. -/
def slotCtrl_count : Fld := ⟨0x1C28, 0x0, 1, 8, 0, .rwv, 0⟩
/-- R365, `SLOT_CTRL.ERR_ENTRY`. -/
def slotCtrl_errEntry : Fld := ⟨0x1C28, 0x0, 1, 23, 16, .ro, 0⟩
/-- R365, `SLOT_CTRL.ERR`. -/
def slotCtrl_err : Fld := ⟨0x1C28, 0x0, 1, 30, 30, .ro, 0⟩
/-- R365, `SLOT_CTRL.ENABLE`. -/
def slotCtrl_enable : Fld := ⟨0x1C28, 0x0, 1, 31, 31, .rwv, 0⟩
/-- R365, `SLOT_IDLE.COUNT`. -/
def slotIdle_count : Fld := ⟨0x1C2C, 0x0, 1, 31, 0, .cnt, 0⟩
/-- R365, `SLOT_SPILL.COUNT`. -/
def slotSpill_count : Fld := ⟨0x1C30, 0x0, 1, 31, 0, .cnt, 0⟩
/-- R365, `CDC_MERGED.COUNT`. -/
def cdcMerged_count : Fld := ⟨0x1C34, 0x0, 1, 31, 0, .cnt, 0⟩
/-- R366, `TIME_CTRL.LEAD_RANK` (reset: from part record). -/
def timeCtrl_leadRank : Fld := ⟨0x1C00, 0x0, 1, 1, 0, .rwv, 0⟩
/-- R366, `TIME_CTRL.LEAD` (reset: from part record). -/
def timeCtrl_lead : Fld := ⟨0x1C00, 0x0, 1, 2, 2, .rwv, 0⟩
/-- R366, `TIME_CTRL.GNSS_EN` (reset: from part record). -/
def timeCtrl_gnssEn : Fld := ⟨0x1C00, 0x0, 1, 3, 3, .rwv, 0⟩
/-- R366, `TIME_CTRL.SET_REFUSED`. -/
def timeCtrl_setRefused : Fld := ⟨0x1C00, 0x0, 1, 4, 4, .w1c, 0⟩
/-- R366, `TIME_CTRL.PPS_WIDTH`. -/
def timeCtrl_ppsWidth : Fld := ⟨0x1C00, 0x0, 1, 15, 8, .rwv, 10⟩
/-- R366, `TIME_CTRL.BUSY`. -/
def timeCtrl_busy : Fld := ⟨0x1C00, 0x0, 1, 31, 31, .ro, 0⟩
/-- R366, `TIME_STATUS.STATE`. -/
def timeStatus_state : Fld := ⟨0x1C04, 0x0, 1, 2, 0, .ro, 0⟩
/-- R366, `TIME_STATUS.ACTIVE_RANK`. -/
def timeStatus_activeRank : Fld := ⟨0x1C04, 0x0, 1, 4, 3, .ro, 0⟩
/-- R366, `TIME_STATUS.ACTIVE_LEAD`. -/
def timeStatus_activeLead : Fld := ⟨0x1C04, 0x0, 1, 31, 16, .ro, 0⟩
/-- R366, `TIME_OFFSET.NS`. -/
def timeOffset_ns : Fld := ⟨0x1C08, 0x0, 1, 31, 0, .ro, 0⟩
/-- R366, `HOLDOVER.SEC`. -/
def holdover_sec : Fld := ⟨0x1C0C, 0x0, 1, 31, 0, .ro, 0⟩
/-- R366, `TIME_FAILOVERS.COUNT`. -/
def timeFailovers_count : Fld := ⟨0x1C10, 0x0, 1, 31, 0, .cnt, 0⟩
/-- R366, `GNSS_ERRS.TOD_BAD`. -/
def gnssErrs_todBad : Fld := ⟨0x1C14, 0x0, 1, 15, 0, .cnt, 0⟩
/-- R366, `GNSS_ERRS.PPS_MISSING`. -/
def gnssErrs_ppsMissing : Fld := ⟨0x1C14, 0x0, 1, 31, 16, .cnt, 0⟩
/-- R366, `TIME_SET.NS_LO`. -/
def timeSet_nsLo : Fld := ⟨0x1C18, 0x0, 1, 31, 0, .rwp, 0⟩
/-- R366, `TIME_SET.NS_HI`. -/
def timeSet_nsHi : Fld := ⟨0x1C1C, 0x0, 1, 31, 0, .rwp, 0⟩
/-- R366, `GNSS_DELAY.NS` (reset: from part record). -/
def gnssDelay_ns : Fld := ⟨0x1C20, 0x0, 1, 15, 0, .rwv, 0⟩
/-- R366, `CDC_MERGED.COUNT`. -/
def cdcMergedB_count : Fld := ⟨0x1C24, 0x0, 1, 31, 0, .cnt, 0⟩
/-- R392, `LINK_STATE.STATE`. -/
def linkState_state : Fld := ⟨0x2000, 0x40, 48, 2, 0, .ro, 0⟩
/-- R392, `LINK_STATE.MODE`. -/
def linkState_mode : Fld := ⟨0x2000, 0x40, 48, 3, 3, .ro, 0⟩
/-- R392, `LINK_STATE.CAUSE`. -/
def linkState_cause : Fld := ⟨0x2000, 0x40, 48, 7, 4, .ro, 0⟩
/-- R392, `LINK_STATE.FAST`. -/
def linkState_fast : Fld := ⟨0x2000, 0x40, 48, 8, 8, .ro, 0⟩
/-- R392, `LINK_PEER.CHIP`. -/
def linkPeer_chip : Fld := ⟨0x2004, 0x40, 48, 15, 0, .ro, 0⟩
/-- R392, `LINK_PEER.LINK`. -/
def linkPeer_link : Fld := ⟨0x2004, 0x40, 48, 22, 16, .ro, 0⟩
/-- R392, `LINK_PEER.STAND`. -/
def linkPeer_stand : Fld := ⟨0x2004, 0x40, 48, 28, 23, .ro, 0⟩
/-- R392, `LINK_PEER.VALID`. -/
def linkPeer_valid : Fld := ⟨0x2004, 0x40, 48, 31, 31, .ro, 0⟩
/-- R392, `LINK_CE.COUNT`. -/
def linkCe_count : Fld := ⟨0x2008, 0x40, 48, 31, 0, .cnt, 0⟩
/-- R392, `LINK_UE.COUNT`. -/
def linkUe_count : Fld := ⟨0x200C, 0x40, 48, 31, 0, .cnt, 0⟩
/-- R392, `LINK_CRC.FRAME`. -/
def linkCrc_frame : Fld := ⟨0x2010, 0x40, 48, 15, 0, .cnt, 0⟩
/-- R392, `LINK_CRC.CHAIN`. -/
def linkCrc_chain : Fld := ⟨0x2010, 0x40, 48, 31, 16, .cnt, 0⟩
/-- R392, `LINK_RESENDS.COUNT`. -/
def linkResends_count : Fld := ⟨0x2014, 0x40, 48, 31, 0, .cnt, 0⟩
/-- R392, `LINK_DUP.COUNT`. -/
def linkDup_count : Fld := ⟨0x2018, 0x40, 48, 31, 0, .cnt, 0⟩
/-- R392, `LINK_RTT.NS`. -/
def linkRtt_ns : Fld := ⟨0x201C, 0x40, 48, 31, 0, .ro, 0⟩
/-- R392, `LINK_FOREIGN.COUNT`. -/
def linkForeign_count : Fld := ⟨0x2020, 0x40, 48, 31, 0, .cnt, 0⟩
/-- R392, `LINK_CTRL.ENABLE` (reset: from part record). -/
def linkCtrl_enable : Fld := ⟨0x2024, 0x40, 48, 0, 0, .rwp, 0⟩
/-- R392, `LINK_CTRL.BUSY`. -/
def linkCtrl_busy : Fld := ⟨0x2024, 0x40, 48, 31, 31, .ro, 0⟩
/-- R393, `GROUP_CTRL.MODE` (reset: from part record). -/
def groupCtrl_mode : Fld := ⟨0x2C00, 0x10, 6, 0, 0, .rwv, 0⟩
/-- R393, `GROUP_CTRL.MIN_LINKS`. -/
def groupCtrl_minLinks : Fld := ⟨0x2C00, 0x10, 6, 4, 1, .rwv, 8⟩
/-- R393, `GROUP_CTRL.RETRAIN`. -/
def groupCtrl_retrain : Fld := ⟨0x2C00, 0x10, 6, 5, 5, .wo, 0⟩
/-- R393, `GROUP_CTRL.FAR_REFUSED`. -/
def groupCtrl_farRefused : Fld := ⟨0x2C00, 0x10, 6, 6, 6, .w1c, 0⟩
/-- R394, `STAND_CTRL.ARMED`. -/
def standCtrl_armed : Fld := ⟨0x2D00, 0x0, 1, 0, 0, .rwv, 0⟩
/-- R394, `STAND_CTRL.FAULT`. -/
def standCtrl_fault : Fld := ⟨0x2D00, 0x0, 1, 1, 1, .ro, 0⟩
/-- R394, `STAND_CTRL.TOPO_DONE`. -/
def standCtrl_topoDone : Fld := ⟨0x2D00, 0x0, 1, 2, 2, .ro, 0⟩
/-- R394, `STAND_CTRL.FAULT_CHIP`. -/
def standCtrl_faultChip : Fld := ⟨0x2D00, 0x0, 1, 31, 16, .ro, 0⟩
/-- R394, `STAND_FAULT.LINK`. -/
def standFault_link : Fld := ⟨0x2D04, 0x0, 1, 6, 0, .ro, 0⟩
/-- R394, `STAND_FAULT.CAUSE`. -/
def standFault_cause : Fld := ⟨0x2D04, 0x0, 1, 11, 8, .ro, 0⟩
/-- R395, `far.PEER_CHIP`. -/
def far_peerChip : Fld := ⟨0x2E00, 0x10, 64, 15, 0, .rwv, 0⟩
/-- R395, `far.PEER_STAND`. -/
def far_peerStand : Fld := ⟨0x2E00, 0x10, 64, 21, 16, .rwv, 0⟩
/-- R395, `far.ERR`. -/
def far_err : Fld := ⟨0x2E00, 0x10, 64, 30, 30, .ro, 0⟩
/-- R395, `far.VALID`. -/
def far_valid : Fld := ⟨0x2E00, 0x10, 64, 31, 31, .rwv, 0⟩
/-- R395, `far.PRIMARY`. -/
def far_primary : Fld := ⟨0x2E04, 0x10, 64, 3, 0, .rwv, 0⟩
/-- R395, `far.SECONDARY`. -/
def far_secondary : Fld := ⟨0x2E04, 0x10, 64, 7, 4, .rwv, 15⟩
/-- R395, `far.ROUTE`. -/
def far_route : Fld := ⟨0x2E04, 0x10, 64, 9, 8, .ro, 0⟩
/-- R395, `far.STATE`. -/
def far_state : Fld := ⟨0x2E04, 0x10, 64, 10, 10, .ro, 0⟩
/-- R395, `far.UNACKED`. -/
def far_unacked : Fld := ⟨0x2E08, 0x10, 64, 19, 0, .ro, 0⟩
/-- R395, `far.FAILOVERS`. -/
def far_failovers : Fld := ⟨0x2E0C, 0x10, 64, 31, 0, .cnt, 0⟩
/-- R423, `ROUTE_CTRL.MODE`. -/
def routeCtrl_mode : Fld := ⟨0x3400, 0x0, 1, 0, 0, .rwv, 0⟩
/-- R423, `ROUTE_CTRL.ENABLE`. -/
def routeCtrl_enable : Fld := ⟨0x3400, 0x0, 1, 1, 1, .rwv, 0⟩
/-- R423, `ROUTE_CTRL.ERR`. -/
def routeCtrl_err : Fld := ⟨0x3400, 0x0, 1, 2, 2, .ro, 0⟩
/-- R423, `ROUTE_BASE.BASE_LO`. -/
def routeBase_baseLo : Fld := ⟨0x3404, 0x0, 1, 31, 12, .rwv, 0⟩
/-- R423, `ROUTE_BASE.BASE_HI`. -/
def routeBase_baseHi : Fld := ⟨0x3408, 0x0, 1, 9, 0, .rwv, 0⟩
/-- R423, `ROUTE_DROP.COUNT`. -/
def routeDrop_count : Fld := ⟨0x340C, 0x0, 1, 31, 0, .cnt, 0⟩
/-- R423, `CHAIN_STATUS.SETTLED`. -/
def chainStatus_settled : Fld := ⟨0x3410, 0x0, 1, 0, 0, .ro, 0⟩
/-- R423, `CHAIN_STATUS.HOPS0`. -/
def chainStatus_hops0 : Fld := ⟨0x3410, 0x0, 1, 11, 1, .ro, 0⟩
/-- R423, `CHAIN_STATUS.PARENT`. -/
def chainStatus_parent : Fld := ⟨0x3410, 0x0, 1, 31, 16, .ro, 0⟩
/-- R423, `CHAIN_RESENDS.COUNT`. -/
def chainResends_count : Fld := ⟨0x3414, 0x0, 1, 31, 0, .cnt, 0⟩
/-- R423, `SEM_BAD_WR.COUNT`. -/
def semBadWr_count : Fld := ⟨0x3418, 0x0, 1, 31, 0, .cnt, 0⟩
/-- R449, `KEY_IMPORT_ADDR.ADDR_LO`. -/
def keyImportAddr_addrLo : Fld := ⟨0x3600, 0x0, 1, 31, 6, .rwp, 0⟩
/-- R449, `KEY_IMPORT_ADDR.ADDR_HI`. -/
def keyImportAddr_addrHi : Fld := ⟨0x3604, 0x0, 1, 31, 0, .rwp, 0⟩
/-- R449, `KEY_IMPORT.SLOT`. -/
def keyImport_slot : Fld := ⟨0x3608, 0x0, 1, 7, 0, .rwp, 0⟩
/-- R449, `KEY_IMPORT.GO`. -/
def keyImport_go : Fld := ⟨0x3608, 0x0, 1, 8, 8, .wo, 0⟩
/-- R449, `KEY_IMPORT.RESULT`. -/
def keyImport_result : Fld := ⟨0x3608, 0x0, 1, 11, 9, .ro, 0⟩
/-- R449, `KEY_IMPORT.BUSY`. -/
def keyImport_busy : Fld := ⟨0x3608, 0x0, 1, 31, 31, .ro, 0⟩
/-- R449, `KEY_CLEAR.SLOT`. -/
def keyClear_slot : Fld := ⟨0x360C, 0x0, 1, 7, 0, .wo, 0⟩
/-- R449, `KEY_CLEAR.REFUSED`. -/
def keyClear_refused : Fld := ⟨0x360C, 0x0, 1, 31, 31, .w1c, 0⟩
/-- R449, `KEY_SEQ.SEQ_LO`. -/
def keySeq_seqLo : Fld := ⟨0x3610, 0x0, 1, 31, 0, .ro, 0⟩
/-- R449, `KEY_SEQ.SEQ_HI`. -/
def keySeq_seqHi : Fld := ⟨0x3614, 0x0, 1, 31, 0, .ro, 0⟩
/-- R449, `KEY_SLOTS.LOADED`. -/
def keySlots_loaded : Fld := ⟨0x3618, 0x0, 1, 8, 0, .ro, 0⟩
/-- R450, `sess.CUR_EPOCH`. -/
def sess_curEpoch : Fld := ⟨0x3700, 0x10, 64, 7, 0, .ro, 0⟩
/-- R450, `sess.CUR_SLOT`. -/
def sess_curSlot : Fld := ⟨0x3700, 0x10, 64, 15, 8, .ro, 0⟩
/-- R450, `sess.PREV_SLOT`. -/
def sess_prevSlot : Fld := ⟨0x3700, 0x10, 64, 23, 16, .ro, 0⟩
/-- R450, `sess.PREV_LIVE`. -/
def sess_prevLive : Fld := ⟨0x3700, 0x10, 64, 24, 24, .ro, 0⟩
/-- R450, `sess.HAS_CUR`. -/
def sess_hasCur : Fld := ⟨0x3700, 0x10, 64, 25, 25, .ro, 0⟩
/-- R450, `sess.ENCRYPT`. -/
def sess_encrypt : Fld := ⟨0x3700, 0x10, 64, 26, 26, .rwv, 0⟩
/-- R450, `sess.NEXT_SLOT`. -/
def sess_nextSlot : Fld := ⟨0x3704, 0x10, 64, 7, 0, .rwp, 0⟩
/-- R450, `sess.NEXT_VALID`. -/
def sess_nextValid : Fld := ⟨0x3704, 0x10, 64, 8, 8, .ro, 0⟩
/-- R450, `sess.ROLL`. -/
def sess_roll : Fld := ⟨0x3704, 0x10, 64, 9, 9, .wo, 0⟩
/-- R450, `sess.ROLL_PENDING`. -/
def sess_rollPending : Fld := ⟨0x3704, 0x10, 64, 10, 10, .ro, 0⟩
/-- R450, `sess.ROLL_NEEDED`. -/
def sess_rollNeeded : Fld := ⟨0x3704, 0x10, 64, 11, 11, .ro, 0⟩
/-- R450, `sess.AUTH_HALT`. -/
def sess_authHalt : Fld := ⟨0x3704, 0x10, 64, 12, 12, .w1c, 0⟩
/-- R450, `sess.ERR`. -/
def sess_err : Fld := ⟨0x3704, 0x10, 64, 13, 13, .w1c, 0⟩
/-- R450, `sess.BUSY`. -/
def sess_busy : Fld := ⟨0x3704, 0x10, 64, 31, 31, .ro, 0⟩
/-- R450, `sess.GRACE_MS`. -/
def sess_graceMs : Fld := ⟨0x3708, 0x10, 64, 15, 0, .rwv, 100⟩
/-- R450, `sess.OLD_EPOCH`. -/
def sess_oldEpoch : Fld := ⟨0x3708, 0x10, 64, 31, 16, .cnt, 0⟩
/-- R450, `sess.AUTH_FAILS`. -/
def sess_authFails : Fld := ⟨0x370C, 0x10, 64, 15, 0, .cnt, 0⟩
/-- R450, `sess.PLAIN_DROP`. -/
def sess_plainDrop : Fld := ⟨0x370C, 0x10, 64, 31, 16, .cnt, 0⟩
/-- R451, `KERF_STATUS.RNG_FAIL`. -/
def kerfStatus_rngFail : Fld := ⟨0x3680, 0x0, 1, 0, 0, .ro, 0⟩
/-- R451, `KERF_STATUS.STALL0`. -/
def kerfStatus_stall0 : Fld := ⟨0x3680, 0x0, 1, 1, 1, .ro, 0⟩
/-- R451, `KERF_STATUS.STALL1`. -/
def kerfStatus_stall1 : Fld := ⟨0x3680, 0x0, 1, 2, 2, .ro, 0⟩
/-- R451, `KERF_CTRL.RNG_RESTART`. -/
def kerfCtrl_rngRestart : Fld := ⟨0x3684, 0x0, 1, 0, 0, .wo, 0⟩
/-- R451, `KERF_BLOCKS.COUNT`. -/
def kerfBlocks_count : Fld := ⟨0x3688, 0x0, 1, 31, 0, .cnt, 0⟩
/-- R485, `ROT_ID.ID_LO`. -/
def rotId_idLo : Fld := ⟨0x1D00, 0x0, 1, 31, 0, .rwv, 0⟩
/-- R485, `ROT_ID.ID_HI`. -/
def rotId_idHi : Fld := ⟨0x1D04, 0x0, 1, 31, 0, .rwv, 0⟩
/-- R485, `ROT_STEP0.STEP_LO`. -/
def rotStep0_stepLo : Fld := ⟨0x1D08, 0x0, 1, 31, 0, .rwv, 0⟩
/-- R485, `ROT_STEP0.STEP_HI`. -/
def rotStep0_stepHi : Fld := ⟨0x1D0C, 0x0, 1, 31, 0, .rwv, 0⟩
/-- R485, `ROT_CTRL.H`. -/
def rotCtrl_h : Fld := ⟨0x1D10, 0x0, 1, 15, 0, .rwv, 1⟩
/-- R485, `ROT_CTRL.STALE`. -/
def rotCtrl_stale : Fld := ⟨0x1D10, 0x0, 1, 18, 16, .rwv, 0⟩
/-- R485, `ROT_CTRL2.LAG`. -/
def rotCtrl2_lag : Fld := ⟨0x1D14, 0x0, 1, 15, 0, .rwv, 0⟩
/-- R485, `ROT_CTRL2.GRAFT_WINDOW`. -/
def rotCtrl2_graftWindow : Fld := ⟨0x1D14, 0x0, 1, 23, 16, .rwv, 32⟩
/-- R485, `ROT_CTRL2.BASIS_EVERY`. -/
def rotCtrl2_basisEvery : Fld := ⟨0x1D14, 0x0, 1, 31, 24, .rwv, 0⟩
/-- R485, `ROT_TABLE.BASE_LO`. -/
def rotTable_baseLo : Fld := ⟨0x1D18, 0x0, 1, 31, 6, .rwv, 0⟩
/-- R485, `ROT_TABLE.BASE_HI`. -/
def rotTable_baseHi : Fld := ⟨0x1D1C, 0x0, 1, 9, 0, .rwv, 0⟩
/-- R485, `ROT_COUNT.COUNT`. -/
def rotCount_count : Fld := ⟨0x1D20, 0x0, 1, 20, 0, .rwv, 0⟩
/-- R485, `ROT_REPORT.CHIP`. -/
def rotReport_chip : Fld := ⟨0x1D24, 0x0, 1, 15, 0, .rwv, 0⟩
/-- R485, `ROT_REPORT.SELF`. -/
def rotReport_self : Fld := ⟨0x1D24, 0x0, 1, 16, 16, .ro, 0⟩
/-- R485, `LEDGER_BASE.BASE_LO`. -/
def ledgerBase_baseLo : Fld := ⟨0x1D28, 0x0, 1, 31, 6, .rwv, 0⟩
/-- R485, `LEDGER_BASE.BASE_HI`. -/
def ledgerBase_baseHi : Fld := ⟨0x1D2C, 0x0, 1, 9, 0, .rwv, 0⟩
/-- R485, `LEDGER_CAP.COUNT`. -/
def ledgerCap_count : Fld := ⟨0x1D30, 0x0, 1, 15, 0, .rwv, 0⟩
/-- R485, `LEDGER_HEAD.ENTRY`. -/
def ledgerHead_entry : Fld := ⟨0x1D34, 0x0, 1, 31, 0, .rw, 0⟩
/-- R485, `LEDGER_TAIL.ENTRY`. -/
def ledgerTail_entry : Fld := ⟨0x1D38, 0x0, 1, 31, 0, .ro, 0⟩
/-- R485, `LEDGER_WAITS.COUNT`. -/
def ledgerWaits_count : Fld := ⟨0x1D3C, 0x0, 1, 31, 0, .cnt, 0⟩
/-- R485, `ROT_STAGE.BASE_LO`. -/
def rotStage_baseLo : Fld := ⟨0x1D40, 0x0, 1, 31, 12, .rwv, 0⟩
/-- R485, `ROT_STAGE.BASE_HI`. -/
def rotStage_baseHi : Fld := ⟨0x1D44, 0x0, 1, 9, 0, .rwv, 0⟩
/-- R485, `ROT_STAGE_PAGES.PAGES`. -/
def rotStagePages_pages : Fld := ⟨0x1D48, 0x0, 1, 20, 0, .rwv, 0⟩
/-- R485, `ANCHOR_ROT.ROT_LO`. -/
def anchorRot_rotLo : Fld := ⟨0x1D50, 0x0, 1, 31, 0, .ro, 0⟩
/-- R485, `ANCHOR_ROT.ROT_HI`. -/
def anchorRot_rotHi : Fld := ⟨0x1D54, 0x0, 1, 31, 0, .ro, 0⟩
/-- R485, `ROT_STATUS.SPLIT`. -/
def rotStatus_split : Fld := ⟨0x1D58, 0x0, 1, 0, 0, .ro, 0⟩
/-- R485, `ROT_STATUS.DIGEST_BAD`. -/
def rotStatus_digestBad : Fld := ⟨0x1D58, 0x0, 1, 1, 1, .w1c, 0⟩
/-- R485, `ROT_STATUS.OUTCOME`. -/
def rotStatus_outcome : Fld := ⟨0x1D58, 0x0, 1, 3, 2, .ro, 0⟩
/-- R485, `ROT_REFUSED.NF`. -/
def rotRefused_nf : Fld := ⟨0x1D5C, 0x0, 1, 15, 0, .cnt, 0⟩
/-- R485, `ROT_REFUSED.OTHER`. -/
def rotRefused_other : Fld := ⟨0x1D5C, 0x0, 1, 31, 16, .cnt, 0⟩
/-- R485, `ROT_LATE.STALE`. -/
def rotLate_stale : Fld := ⟨0x1D60, 0x0, 1, 15, 0, .cnt, 0⟩
/-- R485, `ROT_LATE.LATE`. -/
def rotLate_late : Fld := ⟨0x1D60, 0x0, 1, 31, 16, .cnt, 0⟩
/-- R485, `ROT_GEN_MISS.COUNT`. -/
def rotGenMiss_count : Fld := ⟨0x1D64, 0x0, 1, 31, 0, .cnt, 0⟩
/-- R485, `EXCH_CODED.COUNT`. -/
def exchCoded_count : Fld := ⟨0x1D68, 0x0, 1, 31, 0, .cnt, 0⟩
/-- R485, `EXCH_STORED.COUNT`. -/
def exchStored_count : Fld := ⟨0x1D6C, 0x0, 1, 31, 0, .cnt, 0⟩
/-- R485, `EXCH_REFUSED.OVERRUN`. -/
def exchRefused_overrun : Fld := ⟨0x1D70, 0x0, 1, 15, 0, .cnt, 0⟩
/-- R485, `EXCH_REFUSED.UNDERRUN`. -/
def exchRefused_underrun : Fld := ⟨0x1D70, 0x0, 1, 31, 16, .cnt, 0⟩
/-- R486, `part.STAND`. -/
def part_stand : Fld := ⟨0x3B00, 0x10, 64, 5, 0, .ro, 0⟩
/-- R486, `part.STATE`. -/
def part_state : Fld := ⟨0x3B00, 0x10, 64, 7, 6, .ro, 0⟩
/-- R486, `part.SESSION`. -/
def part_session : Fld := ⟨0x3B00, 0x10, 64, 13, 8, .ro, 0⟩
/-- R486, `part.JOIN_ROT`. -/
def part_joinRot : Fld := ⟨0x3B04, 0x10, 64, 31, 0, .ro, 0⟩
/-- R486, `part.LOST_ROT`. -/
def part_lostRot : Fld := ⟨0x3B08, 0x10, 64, 31, 0, .ro, 0⟩
/-- R486, `part.LAST_ROT`. -/
def part_lastRot : Fld := ⟨0x3B0C, 0x10, 64, 31, 0, .ro, 0⟩
/-- R513, `TALLY_BASE.BASE_LO`. -/
def tallyBase_baseLo : Fld := ⟨0x3200, 0x0, 1, 31, 12, .rwv, 0⟩
/-- R513, `TALLY_BASE.BASE_HI`. -/
def tallyBase_baseHi : Fld := ⟨0x3204, 0x0, 1, 9, 0, .rwv, 0⟩
/-- R513, `TALLY_CTRL.CAP`. -/
def tallyCtrl_cap : Fld := ⟨0x3208, 0x0, 1, 11, 0, .rwv, 0⟩
/-- R513, `TALLY_CTRL.ENABLE`. -/
def tallyCtrl_enable : Fld := ⟨0x3208, 0x0, 1, 31, 31, .rwv, 0⟩
/-- R513, `TALLY_SIGN.EVERY`. -/
def tallySign_every : Fld := ⟨0x320C, 0x0, 1, 15, 0, .rwv, 0⟩
/-- R513, `TALLY_SIGN.QUEUED`. -/
def tallySign_queued : Fld := ⟨0x320C, 0x0, 1, 23, 16, .ro, 0⟩
/-- R513, `TALLY_SIGN.BUSY`. -/
def tallySign_busy : Fld := ⟨0x320C, 0x0, 1, 31, 31, .ro, 0⟩
/-- R513, `TALLY_STATE.OPEN`. -/
def tallyState_open : Fld := ⟨0x3210, 0x0, 1, 11, 0, .ro, 0⟩
/-- R513, `SIGN_WAITS.COUNT`. -/
def signWaits_count : Fld := ⟨0x3214, 0x0, 1, 31, 0, .cnt, 0⟩
/-- R513, `FAULT_BASE.BASE_LO`. -/
def faultBase_baseLo : Fld := ⟨0x3220, 0x0, 1, 31, 7, .rwv, 0⟩
/-- R513, `FAULT_BASE.BASE_HI`. -/
def faultBase_baseHi : Fld := ⟨0x3224, 0x0, 1, 9, 0, .rwv, 0⟩
/-- R513, `FAULT_CTRL.CAP`. -/
def faultCtrl_cap : Fld := ⟨0x3228, 0x0, 1, 15, 0, .rwv, 0⟩
/-- R513, `FAULT_HEAD.INDEX`. -/
def faultHead_index : Fld := ⟨0x322C, 0x0, 1, 31, 0, .rw, 0⟩
/-- R513, `FAULT_TAIL.INDEX_LO`. -/
def faultTail_indexLo : Fld := ⟨0x3230, 0x0, 1, 31, 0, .ro, 0⟩
/-- R513, `FAULT_TAIL.INDEX_HI`. -/
def faultTail_indexHi : Fld := ⟨0x3234, 0x0, 1, 31, 0, .ro, 0⟩
/-- R513, `FAULT_LOST.COUNT`. -/
def faultLost_count : Fld := ⟨0x3238, 0x0, 1, 31, 0, .cnt, 0⟩
/-- R514, `VOTE_FIX.FIXED`. -/
def voteFix_fixed : Fld := ⟨0x3FF0, 0x0, 1, 15, 0, .cnt, 0⟩
/-- R514, `VOTE_FIX.SPLIT`. -/
def voteFix_split : Fld := ⟨0x3FF0, 0x0, 1, 31, 31, .w1c, 0⟩
/-- R535, `BLOCK_ID.KIND` (reset: per block). -/
def blockId_kind : Fld := ⟨0x3FE0, 0x0, 1, 7, 0, .ro, 0⟩
/-- R535, `BLOCK_ID.INDEX` (reset: per block). -/
def blockId_index : Fld := ⟨0x3FE0, 0x0, 1, 15, 8, .ro, 0⟩
/-- R535, `BLOCK_STATUS.BUSY`. -/
def blockStatus_busy : Fld := ⟨0x3FE4, 0x0, 1, 0, 0, .ro, 0⟩
/-- R535, `BLOCK_STATUS.DROPPED`. -/
def blockStatus_dropped : Fld := ⟨0x3FE4, 0x0, 1, 1, 1, .w1c, 0⟩
/-- R535, `BLOCK_ERR.BUSY_WR`. -/
def blockErr_busyWr : Fld := ⟨0x3FE8, 0x0, 1, 15, 0, .cnt, 0⟩
/-- R535, `BLOCK_ERR.BAD_ACCESS`. -/
def blockErr_badAccess : Fld := ⟨0x3FE8, 0x0, 1, 31, 16, .cnt, 0⟩
/-- R536, `DEV_ID.VARIANT` (reset: from part record). -/
def devId_variant : Fld := ⟨0x0000, 0x0, 1, 7, 0, .ro, 0⟩
/-- R536, `DEV_ID.STEPPING` (reset: per silicon). -/
def devId_stepping : Fld := ⟨0x0000, 0x0, 1, 15, 8, .ro, 1⟩
/-- R536, `DEV_SIZE.CELLS`. -/
def devSize_cells : Fld := ⟨0x0004, 0x0, 1, 7, 0, .ro, 128⟩
/-- R536, `DEV_SIZE.LINKS`. -/
def devSize_links : Fld := ⟨0x0004, 0x0, 1, 15, 8, .ro, 96⟩
/-- R536, `SERIAL.SERIAL_LO` (reset: from part record). -/
def serial_serialLo : Fld := ⟨0x0008, 0x0, 1, 31, 0, .ro, 0⟩
/-- R536, `SERIAL.SERIAL_HI` (reset: from part record). -/
def serial_serialHi : Fld := ⟨0x000C, 0x0, 1, 31, 0, .ro, 0⟩
/-- R536, `HBM_GRANULES.COUNT` (reset: from part record). -/
def hbmGranules_count : Fld := ⟨0x0010, 0x0, 1, 31, 0, .ro, 0⟩
/-- R536, `BOOT_STATUS.STAGE`. -/
def bootStatus_stage : Fld := ⟨0x0020, 0x0, 1, 3, 0, .ro, 0⟩
/-- R536, `BOOT_STATUS.CODE`. -/
def bootStatus_code : Fld := ⟨0x0020, 0x0, 1, 15, 8, .ro, 0⟩
/-- R536, `BOOT_STATUS.DETAIL`. -/
def bootStatus_detail : Fld := ⟨0x0020, 0x0, 1, 31, 16, .ro, 0⟩
/-- R536, `DIE_READY.MILLS`. -/
def dieReady_mills : Fld := ⟨0x0024, 0x0, 1, 3, 0, .ro, 0⟩
/-- R536, `DIE_READY.LANDA`. -/
def dieReady_landa : Fld := ⟨0x0024, 0x0, 1, 4, 4, .ro, 0⟩
/-- R536, `DIE_READY.LANDB`. -/
def dieReady_landb : Fld := ⟨0x0024, 0x0, 1, 5, 5, .ro, 0⟩
/-- R536, `ACCESS_ERR.UNMAPPED`. -/
def accessErr_unmapped : Fld := ⟨0x0030, 0x0, 1, 15, 0, .cnt, 0⟩
/-- R536, `ACCESS_ERR.NOT_READY`. -/
def accessErr_notReady : Fld := ⟨0x0030, 0x0, 1, 31, 16, .cnt, 0⟩
/-- R549, `EVC.COUNT`. -/
def evc_count : Fld := ⟨0x3F00, 0x4, 16, 31, 0, .rw, 0⟩
/-- R549, `EVSEL.SRC`. -/
def evsel_src : Fld := ⟨0x3F40, 0x4, 16, 7, 0, .rw, 0⟩
/-- R549, `EVCTRL.EN`. -/
def evctrl_en : Fld := ⟨0x3F80, 0x0, 1, 15, 0, .rw, 0⟩
/-- R549, `EVCTRL.CHAIN`. -/
def evctrl_chain : Fld := ⟨0x3F80, 0x0, 1, 23, 16, .rw, 0⟩
/-- R549, `EVOVF.OVF`. -/
def evovf_ovf : Fld := ⟨0x3F84, 0x0, 1, 15, 0, .w1c, 0⟩
/-- R550, `EVD_BASE.BASE_LO`. -/
def evdBase_baseLo : Fld := ⟨0x3F90, 0x0, 1, 31, 6, .rwv, 0⟩
/-- R550, `EVD_BASE.BASE_HI`. -/
def evdBase_baseHi : Fld := ⟨0x3F94, 0x0, 1, 9, 0, .rwv, 0⟩
/-- R550, `EVD_CTRL.EVERY`. -/
def evdCtrl_every : Fld := ⟨0x3F98, 0x0, 1, 15, 0, .rwv, 0⟩
/-- R550, `EVD_CTRL.CAP`. -/
def evdCtrl_cap : Fld := ⟨0x3F98, 0x0, 1, 27, 16, .rwv, 0⟩
/-- R550, `EVD_HEAD.INDEX`. -/
def evdHead_index : Fld := ⟨0x3F9C, 0x0, 1, 31, 0, .rw, 0⟩
/-- R550, `EVD_TAIL.INDEX_LO`. -/
def evdTail_indexLo : Fld := ⟨0x3FA0, 0x0, 1, 31, 0, .ro, 0⟩
/-- R550, `EVD_TAIL.INDEX_HI`. -/
def evdTail_indexHi : Fld := ⟨0x3FA4, 0x0, 1, 31, 0, .ro, 0⟩
/-- R550, `EVD_LOST.COUNT`. -/
def evdLost_count : Fld := ⟨0x3FA8, 0x0, 1, 31, 0, .cnt, 0⟩
/-- R595, `PWR_CTRL.CAP`. -/
def pwrCtrl_cap : Fld := ⟨0x0100, 0x0, 1, 9, 0, .rwv, 850⟩
/-- R595, `PWR_CTRL.ACLK_MAX`. -/
def pwrCtrl_aclkMax : Fld := ⟨0x0100, 0x0, 1, 15, 10, .rwv, 33⟩
/-- R595, `PWR_CTRL.BRAKE_STEPS`. -/
def pwrCtrl_brakeSteps : Fld := ⟨0x0100, 0x0, 1, 19, 16, .rwv, 0⟩
/-- R595, `PWR_CTRL.TJ_LIMIT`. -/
def pwrCtrl_tjLimit : Fld := ⟨0x0100, 0x0, 1, 26, 20, .rwv, 100⟩
/-- R595, `PWR_STATUS.K`. -/
def pwrStatus_k : Fld := ⟨0x0104, 0x0, 1, 5, 0, .ro, 33⟩
/-- R595, `PWR_STATUS.POWER`. -/
def pwrStatus_power : Fld := ⟨0x0104, 0x0, 1, 25, 16, .ro, 0⟩
/-- R595, `PWR_STATUS.CAP_MISS`. -/
def pwrStatus_capMiss : Fld := ⟨0x0104, 0x0, 1, 30, 30, .w1c, 0⟩
/-- R595, `PWR_STATUS.HOLD`. -/
def pwrStatus_hold : Fld := ⟨0x0104, 0x0, 1, 31, 31, .ro, 0⟩
/-- R595, `TEMP.TJ`. -/
def temp_tj : Fld := ⟨0x0108, 0x0, 1, 7, 0, .ro, 0⟩
/-- R595, `TEMP.HBM`. -/
def temp_hbm : Fld := ⟨0x0108, 0x0, 1, 15, 8, .ro, 0⟩
/-- R595, `BRAKE.COUNT`. -/
def brake_count : Fld := ⟨0x010C, 0x0, 1, 15, 0, .cnt, 0⟩
/-- R595, `BRAKE.RAILS`. -/
def brake_rails : Fld := ⟨0x010C, 0x0, 1, 23, 16, .ro, 0⟩
/-- R595, `BRAKE.ACTIVE`. -/
def brake_active : Fld := ⟨0x010C, 0x0, 1, 31, 31, .ro, 0⟩
/-- R595, `BRAKE_TIME.NS_LO`. -/
def brakeTime_nsLo : Fld := ⟨0x0110, 0x0, 1, 31, 0, .ro, 0⟩
/-- R595, `BRAKE_TIME.NS_HI`. -/
def brakeTime_nsHi : Fld := ⟨0x0114, 0x0, 1, 31, 0, .ro, 0⟩
/-- R595, `RESET_CAUSE.CAUSE`. -/
def resetCause_cause : Fld := ⟨0x0118, 0x0, 1, 3, 0, .ro, 0⟩
/-- R595, `RESET_CAUSE.RAIL`. -/
def resetCause_rail : Fld := ⟨0x0118, 0x0, 1, 10, 8, .ro, 0⟩

/-- The registers common to every block (R535, R514). -/
def commonFields : List Fld :=
  [voteFix_fixed, voteFix_split, blockId_kind, blockId_index, blockStatus_busy, blockStatus_dropped,
   blockErr_busyWr, blockErr_badAccess]
/-- The event-counter registers (R549). -/
def evFields : List Fld :=
  [evc_count, evsel_src, evctrl_en, evctrl_chain, evovf_ovf]
/-- The device block (R536, R595). -/
def devFields : List Fld :=
  [devId_variant, devId_stepping, devSize_cells, devSize_links, serial_serialLo, serial_serialHi,
   hbmGranules_count, bootStatus_stage, bootStatus_code, bootStatus_detail, dieReady_mills, dieReady_landa,
   dieReady_landb, accessErr_unmapped, accessErr_notReady, pwrCtrl_cap, pwrCtrl_aclkMax, pwrCtrl_brakeSteps,
   pwrCtrl_tjLimit, pwrStatus_k, pwrStatus_power, pwrStatus_capMiss, pwrStatus_hold, temp_tj, temp_hbm,
   brake_count, brake_rails, brake_active, brakeTime_nsLo, brakeTime_nsHi, resetCause_cause, resetCause_rail]
/-- A Cell block. -/
def cellFields : List Fld :=
  [matChecks_count, matMismatch_count, matMismatch_fails, matDropped_disturbed, matDropped_brake,
   matSat_count, matSat_sticky, matSatLast_tile, matSatLast_descIndex, matSatLast_context, matSatLast_valid,
   expBuf_offset, expBufSize_bytes, expStall_aclk, expRefused_overrun, expRefused_underrun]
/-- A Mill block. -/
def millFields : List Fld :=
  [hbmCe_count, hbmUe_count, hbmUe_unmappedWr, hbmRetire_used0, hbmRetire_used1, hbmRetire_full,
   hbmLastUe_offsetLo, hbmLastUe_offsetHi, hbmLastUe_valid, omaHeld_depth0, omaHeld_depth1, omaRefused_count,
   omaOverdue_count, omaSat_count, omaSat_sticky, truState_run, truState_parked, truPivots_notPos,
   truPivots_ill, truRetries_count, truParks_count, truWaits_count, truResid_fails, truResid_notConv,
   sideDropped_count, jbSteps_count, jbFails_infeas, jbFails_halts, jbCdrop_count, sawCoded_count,
   sawStored_count, sawBytes_kib]
/-- The registers that both Landings hold (R392, R393, R451). -/
def landFields : List Fld :=
  [linkState_state, linkState_mode, linkState_cause, linkState_fast, linkPeer_chip, linkPeer_link,
   linkPeer_stand, linkPeer_valid, linkCe_count, linkUe_count, linkCrc_frame, linkCrc_chain,
   linkResends_count, linkDup_count, linkRtt_ns, linkForeign_count, linkCtrl_enable, linkCtrl_busy,
   groupCtrl_mode, groupCtrl_minLinks, groupCtrl_retrain, groupCtrl_farRefused, kerfStatus_rngFail,
   kerfStatus_stall0, kerfStatus_stall1, kerfCtrl_rngRestart, kerfBlocks_count]
/-- The Landing A block. Part 1. -/
def landAFields1 : List Fld :=
  [ctxBase_baseLo, ctxBase_baseHi, ctxCount_count, ringCtrl_enable, ringCtrl_draining, ctxCtrl_context,
   ctxCtrl_action, ctxCtrl_busy, ctxNewHead_head, msixGap_us, ctxOverflow_count, ctxSpills_count,
   dbIgnored_count, ovq_depth, ovq_peak, jobSeed_seedLo, jobSeed_seedHi, sclBase_baseLo, sclBase_baseHi,
   sclCtrl_count, sclCtrl_errEntry, sclCtrl_err, sclCtrl_enable, nfCtrl_policy, nfStatus_flag,
   nfStatus_local, nfStatus_skipped, audit_interval, auditCount_count, omaCtrl_overdueUs, omaGroups_open,
   truBase_baseLo, truBase_baseHi, truCtrl_count, sideBase_baseLo, sideBase_baseHi, sideCtrl_count,
   jbLoop_active, jbLoop_overrun, jbResets_count]
/-- The Landing A block. Part 2. -/
def landAFields2 : List Fld :=
  [step_idLo, step_idHi, paramBase_baseLo, paramBase_baseHi, paramCtrl_count, skidBase_baseLo,
   skidBase_baseHi, skidCtrl_pages, skidUsed_pages, skidEntries_used, skidEntries_peak, skidFull_count,
   yardIn_pages, yardOut_pages, replicaCmps_run, replicaCmps_mismatch, axis_len, axis_cut, axis_plus,
   axis_minus, axis_next, axis_prev, axis_coord, axisCtrl_enable, axisCtrl_err, axisCtrl_errAxis,
   pan_stageLo, pan_stageHi, pan_slowLo, pan_slowHi, pan_pages, pan_slots, pan_lifo, pan_nblk, pan_enable,
   pan_outSem, pan_outDone, pan_inSem, pan_inDone, pan_digLo]
/-- The Landing A block. Part 3. -/
def landAFields3 : List Fld :=
  [pan_digHi, pan_outCount, pan_inCount, pan_fillLo, pan_fillHi, pan_err, pan_halted, pan_refetch,
   drlPieces_count, drlResends_count, drlSwitch_groups, drlSwitch_failed, tickCtrl_period, tickCtrl_run,
   tickNow_idLo, tickNow_idHi, timeNow_nsLo, timeNow_nsHi, slotBase_baseLo, slotBase_baseHi, slotCtrl_count,
   slotCtrl_errEntry, slotCtrl_err, slotCtrl_enable, slotIdle_count, slotSpill_count, cdcMerged_count,
   standCtrl_armed, standCtrl_fault, standCtrl_topoDone, standCtrl_faultChip, standFault_link,
   standFault_cause, far_peerChip, far_peerStand, far_err, far_valid, far_primary, far_secondary, far_route]
/-- The Landing A block. Part 4. -/
def landAFields4 : List Fld :=
  [far_state, far_unacked, far_failovers, routeCtrl_mode, routeCtrl_enable, routeCtrl_err, routeBase_baseLo,
   routeBase_baseHi, routeDrop_count, chainStatus_settled, chainStatus_hops0, chainStatus_parent,
   chainResends_count, semBadWr_count, keyImportAddr_addrLo, keyImportAddr_addrHi, keyImport_slot,
   keyImport_go, keyImport_result, keyImport_busy, keyClear_slot, keyClear_refused, keySeq_seqLo,
   keySeq_seqHi, keySlots_loaded, sess_curEpoch, sess_curSlot, sess_prevSlot, sess_prevLive, sess_hasCur,
   sess_encrypt, sess_nextSlot, sess_nextValid, sess_roll, sess_rollPending, sess_rollNeeded, sess_authHalt,
   sess_err, sess_busy, sess_graceMs]
/-- The Landing A block. Part 5. -/
def landAFields5 : List Fld :=
  [sess_oldEpoch, sess_authFails, sess_plainDrop, rotId_idLo, rotId_idHi, rotStep0_stepLo, rotStep0_stepHi,
   rotCtrl_h, rotCtrl_stale, rotCtrl2_lag, rotCtrl2_graftWindow, rotCtrl2_basisEvery, rotTable_baseLo,
   rotTable_baseHi, rotCount_count, rotReport_chip, rotReport_self, ledgerBase_baseLo, ledgerBase_baseHi,
   ledgerCap_count, ledgerHead_entry, ledgerTail_entry, ledgerWaits_count, rotStage_baseLo, rotStage_baseHi,
   rotStagePages_pages, anchorRot_rotLo, anchorRot_rotHi, rotStatus_split, rotStatus_digestBad,
   rotStatus_outcome, rotRefused_nf, rotRefused_other, rotLate_stale, rotLate_late, rotGenMiss_count,
   exchCoded_count, exchStored_count, exchRefused_overrun, exchRefused_underrun]
/-- The Landing A block. Part 6. -/
def landAFields6 : List Fld :=
  [part_stand, part_state, part_session, part_joinRot, part_lostRot, part_lastRot, tallyBase_baseLo,
   tallyBase_baseHi, tallyCtrl_cap, tallyCtrl_enable, tallySign_every, tallySign_queued, tallySign_busy,
   tallyState_open, signWaits_count, faultBase_baseLo, faultBase_baseHi, faultCtrl_cap, faultHead_index,
   faultTail_indexLo, faultTail_indexHi, faultLost_count, evdBase_baseLo, evdBase_baseHi, evdCtrl_every,
   evdCtrl_cap, evdHead_index, evdTail_indexLo, evdTail_indexHi, evdLost_count]
/-- The Landing A block. -/
def landAFields : List Fld := landAFields1 ++ landAFields2 ++ landAFields3 ++ landAFields4 ++ landAFields5 ++ landAFields6
/-- The Landing B block. -/
def landBFields : List Fld :=
  [timeCtrl_leadRank, timeCtrl_lead, timeCtrl_gnssEn, timeCtrl_setRefused, timeCtrl_ppsWidth, timeCtrl_busy,
   timeStatus_state, timeStatus_activeRank, timeStatus_activeLead, timeOffset_ns, holdover_sec,
   timeFailovers_count, gnssErrs_todBad, gnssErrs_ppsMissing, timeSet_nsLo, timeSet_nsHi, gnssDelay_ns,
   cdcMergedB_count]

end Reg

end Sys2Proof.Machine
end

