-- ==== Sys2Proof/Machine/State.lean ====
section
/-!
DEFINITION. The State: plain data that holds every piece of state the spec gives the block, the reasons a command can
stop, and the machine right after reset.
-/

namespace Sys2Proof.Machine

/-- No command of this block ends in a fault: every error that the spec describes is state (an error count, a
completion status, a halted context). The one reason stands for an address outside every register window of R515 and
is raised by nothing; it is safe. -/
inductive Fault where
  | noSuchWindow
  deriving DecidableEq, Repr

/-- Why a command has no meaning: `notModelled` is raised by the dispatch for a row without a meaning, and it is
safe. -/
inductive Refusal where
  | notModelled (mnemonic : String)
  deriving DecidableEq, Repr

/-- The state of the block and, first, the queue of commands that wait. -/
structure State where
  /-- The commands that wait, first in, first out. -/
  pending : List Instr
  /-- Register words by local address: copy 0 of every field (R520, R504). -/
  regs : List (Nat × Word)
  /-- Copy 1 of the voted fields. -/
  regs1 : List (Nat × Word)
  /-- Copy 2 of the voted fields. -/
  regs2 : List (Nat × Word)
  /-- The low words held aside until their high words are written (R533), by address. -/
  heldLow : List (Nat × Word)
  /-- The posted writes that are not yet taken (R525), oldest first. -/
  posted : List Posted
  /-- HBM, Yards and Decks by local offset (R17). -/
  mem : List Host.Cell
  /-- Host memory and the pooled slow tier (R34, R258). -/
  hostMem : List Host.Cell
  /-- The NOR flash (R551). -/
  flash : List Host.Cell
  /-- The MSI-X table and its pending bits behind BAR 4 (R515). -/
  msixTable : List Host.Cell
  /-- ECC and retirement. -/
  hbm : Hbm
  /-- The semaphores, by number (R400). -/
  sems : List (Nat × Nat)
  /-- The ring engine. -/
  rings : Rings
  /-- The operations that have begun and not ended, in order of beginning. -/
  ops : List Op
  /-- The number of operations that have begun. -/
  opSeq : Nat
  /-- The Cells' arrays and flags, by Cell. -/
  cells : List (Nat × CellRt)
  /-- The Scalers' counts by destination format code (R149). -/
  sclFmt : List (Nat × FmtCounts)
  /-- Whether conversions are counted aside: while a run of a level-2 operation is computed (R49); the model's own field. -/
  sclAside : Bool
  /-- Counts of Scaler entries that belong to the step that is open next (R154), by entry × 128 + byte offset. -/
  sclLate : List (Nat × Nat)
  /-- Counts by destination format that belong to the step that is open next (R154). -/
  sclFmtLate : List (Nat × FmtCounts)
  /-- The bytes of segments written by each Mill beyond whole KiB (R313). -/
  sawRest : List (Nat × Nat)
  /-- The decisions of closed steps: step id and whether its training-state writes are skipped (R155). -/
  decisions : List (Nat × Bool)
  /-- Training-state writes of other chips' COPY operations that wait for their step's decision (R155). -/
  heldWrites : List HeldWrite
  /-- This chip's number in its stand (R20). -/
  chip : Nat
  /-- This chip's stand (R20). -/
  stand : Nat
  /-- The time unit. -/
  time : TimeRt
  /-- What crosses from clock to clock. -/
  cross : CrossRt
  /-- The event dumps sampled and not yet written: tick, TAI time of its start, and the block entries (R546). -/
  dumps : List (Nat × Nat × List Byte)
  /-- The barrier units, by number. -/
  barriers : List (Nat × BarrierRt)
  /-- The Chain router. -/
  chain : ChainRt
  /-- The links, by number. -/
  links : List (Nat × LinkRt)
  /-- The Far sessions, by number. -/
  far : List (Nat × FarRt)
  /-- The ordered adder's open groups, by opening. -/
  groups : List SumGroup
  /-- Refused contributions of this chip that wait to be sent again (R179). -/
  resends : List Resend
  /-- The loaded slots of the key store (R427). -/
  keys : List (Nat × KeySlot)
  /-- The skid requests that wait, in order. -/
  skidQ : List SkidReq
  /-- The skid entries in use, in order of grant. -/
  skid : List SkidEntry
  /-- Replica digests received and not yet compared. -/
  replicas : List Replica
  /-- Derailleur pieces that arrived before their group began here (R330). -/
  early : List PieceMsg
  /-- The rotation unit. -/
  rot : RotRt
  /-- The tally engine. -/
  tally : TallyRt
  /-- Bring-up and the part record. -/
  boot : BootRt
  /-- What the last mailbox command returned (R571). -/
  mbox : MboxOut
  /-- Power and temperature. -/
  power : PowerRt
  /-- The test port. -/
  jtag : JtagRt
  /-- Block operations of each Landing's Kerf engines below one unit of KERF_BLOCKS (R451). -/
  kerfOps : List (Nat × Nat)
  /-- The Pannier channels, by number. -/
  pan : List (Nat × PanRt)
  /-- The frame that left last: its link and its bytes (R369). -/
  sent : Nat × List Byte
  /-- Messages that wait for a frame slot (R369), oldest first. -/
  txq : List TxMsg
  /-- Delivered payloads of the classes whose effect has a row of its own, newest last: CLASS and bytes. -/
  rx : List (Nat × List Byte)
  /-- The counter that makes each free value fresh: the model's own field. -/
  free : Nat
  /-- What the block last answered on a read. -/
  readOut : ReadOut
  deriving DecidableEq, Repr

/-- What the flash of a part holds when it leaves the factory, as far as the model needs it (log entry 5): part record
copy 0 valid by its bytes with SEQ 1, VARIANT 1 and physical Cell 32 of every Mill disabled, and firmware copy A with
SEQ 1 and a body of 16 zero bytes (R552, R553, R558). -/
def factoryFlash : List Host.Cell :=
  [(0x0, 0x50), (0x1, 0x43), (0x2, 0x52), (0x3, 0x44), (0x4, 1), (0x8, 1), (0x11, 0x62), (0x12, 0x0A), (0x100, 1),
   (0x110, 32), (0x111, 32), (0x112, 32), (0x113, 32),
   (0x1000000, 0x48), (0x1000001, 0x46), (0x1000002, 0x57), (0x1000003, 0x4D), (0x1000004, 1), (0x1000008, 1),
   (0x1000010, 16)]

/-- The machine right after reset. -/
def State.reset : State where
  pending := []
  regs := []
  regs1 := []
  regs2 := []
  heldLow := []
  posted := []
  mem := []
  hostMem := []
  flash := factoryFlash
  msixTable := []
  hbm := ⟨[], [], [], [], [], []⟩
  sems := []
  rings := ⟨[], [], [], [], [], 0, [], [], []⟩
  ops := []
  opSeq := 0
  cells := []
  sclFmt := []
  sclAside := false
  sclLate := []
  sclFmtLate := []
  sawRest := []
  decisions := []
  heldWrites := []
  chip := 0
  stand := 0
  time := ⟨0, false, 0, 0, ⟨0, false, 0, 0, 0⟩, [], none, 0, 0, 0, 0, 0, [], [], 0, false⟩
  cross := ⟨[], 0, 0⟩
  dumps := []
  barriers := []
  chain := ⟨[], [], 0, false⟩
  links := []
  far := []
  groups := []
  resends := []
  keys := []
  skidQ := []
  skid := []
  replicas := []
  early := []
  rot := ⟨[], [], none, [], [], none, none, 0, 0, [], none, false, 0, false, none, [], false, [], 0, List.replicate 64 0, none⟩
  tally := ⟨[], List.replicate 64 0, [], []⟩
  boot := ⟨true, false, false, 0, false, [], false, none, (0, 0), none, (0, 0), [], [], none, false, [], false⟩
  mbox := ⟨.none, 0, [], [], []⟩
  power := ⟨33, none, 0, 0, false, false⟩
  jtag := ⟨.idcode, 0, 0⟩
  kerfOps := []
  pan := []
  sent := (0, [])
  txq := []
  rx := []
  free := 0
  readOut := ⟨[], false⟩

end Sys2Proof.Machine
end

