-- ==== Sys2Proof/Machine/Regs.lean ====
section
/-!
DEFINITION. Register blocks, the voted read and the write of a field, counts and event counters (R515 to R541,
R504, R505).
-/

namespace Sys2Proof.Machine

/-- A register block (R517). -/
inductive Blk where
  | dev
  | cell (n : Nat)
  | mill (m : Nat)
  | landA
  | landB
  deriving DecidableEq, Repr

/-- R517: the local address of the device block. -/
def devBase : Nat := 0x3E000000000

/-- R517: the local address of Cell block `n`. -/
def cellBase (n : Nat) : Nat := 0x3E001000000 + n * 0x10000

/-- R517: the local address of Mill block `m`. -/
def millBase (m : Nat) : Nat := 0x3E002000000 + m * 0x100000

/-- R517: the local address of the Landing A block. -/
def landABase : Nat := 0x3E004000000

/-- R517: the local address of the Landing B block. -/
def landBBase : Nat := 0x3E004400000

/-- The address of a block. -/
def blkBase : Blk → Nat
  | .dev => devBase
  | .cell n => cellBase n
  | .mill m => millBase m
  | .landA => landABase
  | .landB => landBBase

/-- R517, R518: the block that a local address lies in, with the offset in the block; none where it is unmapped. -/
def blkOf (a : Nat) : Option (Blk × Nat) :=
  if a < devBase then none
  else
    let x := a - devBase
    if x < 0x10000 then some (.dev, x)
    else if x < 0x1000000 then none
    else if x < 0x1800000 then some (.cell ((x - 0x1000000) / 0x10000), (x - 0x1000000) % 0x10000)
    else if x < 0x2000000 then none
    else if x < 0x2400000 then
      let r := (x - 0x2000000) % 0x100000
      if r < 0x10000 then some (.mill ((x - 0x2000000) / 0x100000), r) else none
    else if x < 0x4000000 then none
    else if x < 0x4010000 then some (.landA, x - 0x4000000)
    else if x < 0x4400000 then none
    else if x < 0x4410000 then some (.landB, x - 0x4400000)
    else none

/-- The fields of a block. -/
def blkFields : Blk → List Fld
  | .dev => Reg.devFields ++ Reg.commonFields
  | .cell _ => Reg.cellFields ++ Reg.evFields ++ Reg.commonFields
  | .mill _ => Reg.millFields ++ Reg.evFields ++ Reg.commonFields
  | .landA => Reg.landAFields ++ Reg.landFields ++ Reg.evFields ++ Reg.commonFields
  | .landB => Reg.landBFields ++ Reg.landFields ++ Reg.evFields ++ Reg.commonFields

/-- Whether a copy of field `f` lies in the word at block offset `r`. -/
def fldInWord (f : Fld) (r : Nat) : Bool :=
  decide (f.off ≤ r) &&
    (if f.stride = 0 then r == f.off
     else (r - f.off) % f.stride == 0 && decide ((r - f.off) / f.stride < f.copies))

/-- The fields of the word at block offset `r`. -/
def fldsAt (b : Blk) (r : Nat) : List Fld := (blkFields b).filter (fun f => fldInWord f r)

/-- The word that a word's reset values make up. -/
def resetOf (fs : List Fld) : Nat := fs.foldl (fun w f => w ||| (f.rst <<< f.lo)) 0

/-- The reset value of the register word at a local address. -/
def resetWord (a : Nat) : Word :=
  match blkOf a with
  | some (b, r) => BitVec.ofNat 32 (resetOf (fldsAt b r))
  | none => 0

/-- The stored word at a local address in one copy of the registers. -/
def rawWord (m : List (Nat × Word)) (a : Nat) : Nat := (sparseGet (resetWord a) a m).toNat

/-- R504, R505: the majority of three copies, or copy 0 where all differ. -/
def vote (x y z : Nat) : Nat := if y = z then y else x

/-- The local address of copy `k` of field `f` in the block at `base`. -/
def fldAddr (base : Nat) (f : Fld) (k : Nat) : Nat := base + f.off + f.stride * k

/-- The value of a field (R504: the voted value of an RWV field). -/
def getF (s : State) (base : Nat) (f : Fld) (k : Nat) : Nat :=
  let a := fldAddr base f k
  let x := bits (rawWord s.regs a) f.hi f.lo
  if f.acc = .rwv then vote x (bits (rawWord s.regs1 a) f.hi f.lo) (bits (rawWord s.regs2 a) f.hi f.lo) else x

/-- The word at a local address with every field at its value in force. -/
def wordOf (s : State) (a : Nat) : Nat :=
  match blkOf a with
  | none => 0
  | some (b, r) =>
    (fldsAt b r).foldl (fun w f => w ||| (getF s (blkBase b) f (if f.stride = 0 then 0 else (r - f.off) / f.stride) <<< f.lo)) 0

/-- A word with bits `[hi:lo]` replaced. -/
def setBits (w hi lo v : Nat) : Nat :=
  w - (bits w hi lo) * 2 ^ lo + (v % 2 ^ (hi + 1 - lo)) * 2 ^ lo

/-- One copy of the registers with a field replaced. -/
def putF (m : List (Nat × Word)) (a : Nat) (f : Fld) (v : Nat) : List (Nat × Word) :=
  sparseSet (resetWord a) a (BitVec.ofNat 32 (setBits (rawWord m a) f.hi f.lo v)) m

/-- A field written (R534: all three copies of an RWV field). -/
def setF (s : State) (base : Nat) (f : Fld) (k v : Nat) : State :=
  let a := fldAddr base f k
  if f.acc = .rwv then
    { s with regs := putF s.regs a f v, regs1 := putF s.regs1 a f v, regs2 := putF s.regs2 a f v }
  else { s with regs := putF s.regs a f v }

/-- The all-ones value of a field. -/
def fldTop (f : Fld) : Nat := 2 ^ (f.hi + 1 - f.lo) - 1

/-- A saturating count raised by `n`. -/
def countF (s : State) (base : Nat) (f : Fld) (k n : Nat) : State :=
  setF s base f k (satAdd (fldTop f) (getF s base f k) n)

/-- A two-word value, low word first (R532). -/
def get2 (s : State) (base : Nat) (lo hi : Fld) (k : Nat) : Nat :=
  getF s base lo k * 2 ^ lo.lo + getF s base hi k * 2 ^ 32

/-- A two-word value written on one edge (R532). -/
def set2 (s : State) (base : Nat) (lo hi : Fld) (k v : Nat) : State :=
  setF (setF s base lo k (v / 2 ^ lo.lo)) base hi k (v / 2 ^ 32)

/-- A field of the Landing A block. -/
def getA (s : State) (f : Fld) : Nat := getF s landABase f 0

/-- A field of the Landing A block written. -/
def setA (s : State) (f : Fld) (v : Nat) : State := setF s landABase f 0 v

/-- A count of the Landing A block raised. -/
def countA (s : State) (f : Fld) (n : Nat) : State := countF s landABase f 0 n

/-- A field of the Landing B block. -/
def getB (s : State) (f : Fld) : Nat := getF s landBBase f 0

/-- A field of the Landing B block written. -/
def setB (s : State) (f : Fld) (v : Nat) : State := setF s landBBase f 0 v

/-- A count of the Landing B block raised. -/
def countB (s : State) (f : Fld) (n : Nat) : State := countF s landBBase f 0 n

/-- A two-word value of the Landing A block. -/
def getA2 (s : State) (lo hi : Fld) : Nat := get2 s landABase lo hi 0

/-- A field of the device block. -/
def getD (s : State) (f : Fld) : Nat := getF s devBase f 0

/-- A field of the device block written. -/
def setD (s : State) (f : Fld) (v : Nat) : State := setF s devBase f 0 v

/-- A count of the device block raised. -/
def countD (s : State) (f : Fld) (n : Nat) : State := countF s devBase f 0 n

/-- The block of link or group `n`'s Landing (R13). -/
def landOf (onA : Bool) : Nat := if onA then landABase else landBBase

/-- A field of link `n` (R392). -/
def getL (s : State) (f : Fld) (n : Nat) : Nat := getF s (landOf (n < 48)) f (n % 48)

/-- A field of link `n` written. -/
def setL (s : State) (f : Fld) (n v : Nat) : State := setF s (landOf (n < 48)) f (n % 48) v

/-- A count of link `n` raised. -/
def countL (s : State) (f : Fld) (n c : Nat) : State := countF s (landOf (n < 48)) f (n % 48) c

/-- A field of group `g` (R393). -/
def getG (s : State) (f : Fld) (g : Nat) : Nat := getF s (landOf (g < 6)) f (g % 6)

/-- A field of group `g` written. -/
def setG (s : State) (f : Fld) (g v : Nat) : State := setF s (landOf (g < 6)) f (g % 6) v

/-! ### Event counters -/

/-- R540, R541: counter `i` raised by `n`, wrapping modulo 2³², with its overflow bit or its chained partner. -/
def bumpCounter (s : State) (base i n : Nat) : State :=
  let v := getF s base Reg.evc_count i + n
  let s1 := setF s base Reg.evc_count i (v % 2 ^ 32)
  let wraps := v / 2 ^ 32
  if wraps = 0 then s1
  else if i % 2 = 0 && bit (getF s base Reg.evctrl_chain 0) (i / 2) then
    let w := getF s1 base Reg.evc_count (i + 1) + wraps
    let s2 := setF s1 base Reg.evc_count (i + 1) (w % 2 ^ 32)
    if w / 2 ^ 32 = 0 then s2
    else setF s2 base Reg.evovf_ovf 0 (getF s2 base Reg.evovf_ovf 0 ||| 2 ^ (i + 1))
  else setF s1 base Reg.evovf_ovf 0 (getF s1 base Reg.evovf_ovf 0 ||| 2 ^ i)

/-- R539, R541: whether counter `i` counts source `src`. -/
def counterTakes (s : State) (base i src : Nat) : Bool :=
  bit (getF s base Reg.evctrl_en 0) i && getF s base Reg.evsel_src i == src &&
    !(i % 2 == 1 && bit (getF s base Reg.evctrl_chain 0) (i / 2))

/-- R539: `n` events of source `src` in the block at `base`. -/
def event (s : State) (base src n : Nat) : State :=
  (List.range 16).foldl (fun t i => if counterTakes s base i src then bumpCounter t base i n else t) s

end Sys2Proof.Machine
end

