-- ==== Sys2Proof/Machine/Ops.lean ====
section
/-!
DEFINITION. The named operations over the State that every family shares: addresses, memory, free values, messages,
fault records, semaphores, contexts, and the life of an operation.
-/

namespace Sys2Proof.Machine

/-! ### Addresses (R17, R18, R22) -/

/-- R18, R536: the mapped capacity of HBM in bytes. -/
def capacity (s : State) : Nat := getD s Reg.hbmGranules_count * 4096

/-- R17: the ranges of memory a descriptor may reach, as start and end. -/
def memRanges (s : State) : List (Nat × Nat) :=
  [(0, capacity s), (0x20000000000, 0x20020000000), (0x21000000000, 0x21008000000)]

/-- R17: the set-up register range. -/
def regRange : Nat × Nat := (0x3E000000000, 0x3E100000000)

/-- R17: the semaphores and the barrier units. -/
def semRanges : List (Nat × Nat) := [(0x3FF00000000, 0x3FF00008000), (0x3FF00010000, 0x3FF00011000)]

/-- Whether two half-open intervals meet. -/
def meets (a b c d : Nat) : Bool := decide (a < b) && decide (c < d) && decide (a < d) && decide (c < b)

/-- The lowest offset of `[a, b)` that lies in none of the ranges. -/
def firstOutside (rs : List (Nat × Nat)) : Nat → Nat → Nat → Option Nat
  | 0, a, b => if a < b then some a else none
  | n + 1, a, b =>
    if b ≤ a then none
    else match rs.find? (fun r => decide (r.1 ≤ a) && decide (a < r.2)) with
      | some r => firstOutside rs n r.2 b
      | none => some a

/-- R19, R597: the lowest unmapped offset of `[a, a + n)`. -/
def unmappedIn (s : State) (a n : Nat) : Option Nat := firstOutside (memRanges s) 4 a (a + n)

/-- Whether `[a, a + n)` lies in mapped HBM. -/
def inHbm (s : State) (a n : Nat) : Bool := decide (a + n ≤ capacity s)

/-- The rows of a region as start and length. -/
def regionRows (r : Region) : List (Nat × Nat) := (List.range r.rows).map (fun i => (r.off + i * r.pitch, r.len))

/-- R131: the first byte past a region's extent. -/
def regionEnd (r : Region) : Nat := if r.rows = 0 then r.off else r.off + (r.rows - 1) * r.pitch + r.len

/-- Whether the extents of two regions meet. -/
def regionsMeet (x y : Region) : Bool := meets x.off (regionEnd x) y.off (regionEnd y)

/-- The lower of two optional offsets. -/
def minOpt (a b : Option Nat) : Option Nat :=
  match a, b with
  | some x, some y => some (min x y)
  | some x, none => some x
  | none, y => y

/-- The lowest unmapped offset of a region's rows. -/
def unmappedInRegion (s : State) (r : Region) : Option Nat :=
  if r.len = 0 then none
  else (regionRows r).foldl (fun acc p => minOpt acc (unmappedIn s p.1 p.2)) none

/-- R17, R19: the lowest offset of a region's rows that lies in no listed range, the registers and semaphores included. -/
def offMapIn (s : State) (r : Region) : Option Nat :=
  if r.len = 0 then none
  else (regionRows r).foldl (fun acc p => minOpt acc (firstOutside (memRanges s ++ regRange :: semRanges) 6 p.1 (p.1 + p.2))) none

/-- R19, R400, R516, R597: the fault of reading or writing regions: an offset that no range lists (0x08 with the lowest such
offset), else a semaphore or barrier unit (0x1A2), else a set-up register (0x1D0): of two that apply, the lower code (log
entry 35). -/
def accessFault (s : State) (rs : List Region) : Option (Nat × Nat) :=
  match rs.foldl (fun acc r => minOpt acc (offMapIn s r)) none with
  | some o => some (0x08, o)
  | none =>
    if rs.any (fun r => semRanges.any (fun q => meets r.off (regionEnd r) q.1 q.2)) then some (0x1A2, 0)
    else if rs.any (fun r => meets r.off (regionEnd r) regRange.1 regRange.2) then some (0x1D0, 0)
    else none

/-- R22: the stack of a mapped offset. -/
def stackOf (off : Nat) : Nat :=
  let g := off / 4096
  (List.range 10).foldl (fun x i => x ^^^ ((g >>> (3 * i)) % 8)) 0

/-- R22: the granule slot of a mapped offset. -/
def slotOf (off : Nat) : Nat := off / 4096 / 8

/-! ### Memory -/

/-- `n` bytes at a local offset. -/
def rdBytes (s : State) (a n : Nat) : List Byte := memBytes s.mem a n

/-- An `n`-byte little-endian value at a local offset. -/
def rdNat (s : State) (a n : Nat) : Nat := memNat s.mem a n

/-- The poisoned lines left after writes: a line written whole is poisoned no longer. -/
def clearPoison (ws : List Host.Cell) (poison : List Nat) : List Nat :=
  poison.filter (fun l => !((List.range 64).all (fun i => ws.any (fun w => w.1 == 64 * l + i))))

/-- Bytes written at local offsets. -/
def wrMem (s : State) (ws : List Host.Cell) : State :=
  { s with mem := memWriteAll s.mem ws, hbm := { s.hbm with poison := clearPoison ws s.hbm.poison } }

/-- An `n`-byte value written at a local offset. -/
def wrNat (s : State) (a n v : Nat) : State := wrMem s (natWrites a n v)

/-- Bytes written to host memory. -/
def wrHost (s : State) (ws : List Host.Cell) : State := { s with hostMem := memWriteAll s.hostMem ws }

/-- An `n`-byte value of host memory. -/
def rdHost (s : State) (a n : Nat) : Nat := memNat s.hostMem a n

/-- What the host wrote to its own memory before a doorbell. -/
def hostWrites (s : State) (ws : List (Nat × List Byte)) : State :=
  wrHost s (ws.flatMap (fun w => bytesWrites w.1 w.2))

/-- The bytes of a region, row by row (R488). -/
def regionBytes (m : List Host.Cell) (r : Region) : List Byte :=
  (regionRows r).flatMap (fun p => memBytes m p.1 p.2)

/-- R488: the ring digest of regions taken in order. -/
def regionsDigest (m : List Host.Cell) (rs : List Region) : Nat := ringDigest (rs.flatMap (regionBytes m))

/-! ### SHA-512 and signatures (R489, R494, R544) -/

/-- R544: the tally engine's blocks for a string of `n` bytes are counted, on Landing A (log entry 41). -/
def countSha (s : State) (n : Nat) : State := event s landABase 0x0B ((n + 144) / 128)

/-- R494: the 512 bytes of the identity key's signature of some bytes. -/
def signatureOf (bs : List Byte) : List Byte := (List.range 512).map (Config.identitySign bs)

/-- R590: whether a thermal hold is in force. -/
def thermalHold (s : State) : Bool := getD s Reg.pwrStatus_hold == 1

/-- Whether a TAI time has come.  While the count does not run, the model takes the command that says so at its word (log
entry 72). -/
def timeCome (s : State) (t : Nat) : Bool := !s.time.running || decide (t ≤ s.time.tai)

/-- Whether `d` ns have passed since TAI time `t`; a count that has been set back says nothing of it, and the command is then
taken at its word (log entry 72). -/
def passed (s : State) (t d : Nat) : Bool := timeCome s (t + d) || decide (s.time.tai < t)

/-! ### Free values -/

/-- The state after a fresh free value has been taken; the value is `Config.freeValue` of the old counter. -/
def takeFree (s : State) : State := { s with free := s.free + 1 }

/-- R338: a merge-class event crosses to the block at `base`, which takes it in its next cycle. -/
def noteMerge (s : State) (base : Nat) : State :=
  { s with cross := { s.cross with notices := sparseSet 0 base (sparseGet 0 base s.cross.notices + 1) s.cross.notices } }

/-! ### Messages to the host (R65, R66) -/

/-- R66: MSI-X vector `v` is sent, or merged where its gap has not ended. -/
def sendVector (s : State) (v : Nat) : State :=
  let gap := getA s Reg.msixGap_us * 1000
  match s.rings.lastMsg.find? (fun p => p.1 == v) with
  | some p =>
    if gap ≠ 0 ∧ s.time.tai < p.2 + gap then
      { s with rings := { s.rings with merged := if s.rings.merged.contains v then s.rings.merged else s.rings.merged ++ [v] } }
    else
      noteMerge { s with rings := { s.rings with
          lastMsg := (v, s.time.tai) :: s.rings.lastMsg.filter (fun q => q.1 != v), msix := s.rings.msix ++ [v] } } landABase
  | none =>
    noteMerge { s with rings := { s.rings with lastMsg := (v, s.time.tai) :: s.rings.lastMsg, msix := s.rings.msix ++ [v] } }
      landABase

/-! ### Fault records (R507 to R509) -/

/-- What a fault record says. -/
structure FaultRec where
  kind : Nat
  unit : Nat
  status : Nat
  ctx : Nat
  idx : Nat
  words : List Nat
  deriving DecidableEq, Repr

/-- R508: the 128 bytes of a fault record. -/
def faultBytes (s : State) (index : Nat) (r : FaultRec) : List Byte :=
  leBytes 8 index ++ leBytes 8 s.time.tai ++ leBytes 1 r.status ++ leBytes 1 r.kind ++ leBytes 2 r.unit ++
    leBytes 2 r.ctx ++ leBytes 2 0 ++ leBytes 4 r.idx ++ leBytes 2 s.chip ++ leBytes 2 0 ++
    (List.range 12).flatMap (fun k => leBytes 8 (r.words.getD k 0))

/-- The next index of the fault ring. -/
def faultTail (s : State) : Nat := getA2 s Reg.faultTail_indexLo Reg.faultTail_indexHi

/-- R507: a fault record is written at the next index, or counted in FAULT_LOST; one that names no context also
sends vector 0. -/
def writeFault (s : State) (r : FaultRec) : State :=
  let i := faultTail s
  let cap := getA s Reg.faultCtrl_cap
  let a := getA2 s Reg.faultBase_baseLo Reg.faultBase_baseHi + (i % cap) * 128
  let full : Bool := decide (cap ≤ (i + 2 ^ 32 - getA s Reg.faultHead_index) % 2 ^ 32)
  let s1 := set2 s landABase Reg.faultTail_indexLo Reg.faultTail_indexHi 0 (i + 1)
  let s2 := if cap = 0 || full || !inHbm s a 128 then countA s1 Reg.faultLost_count 1
    else wrMem s1 (bytesWrites a (faultBytes s i r))
  if r.ctx = 0xFFFF then sendVector s2 0 else s2

/-! ### Semaphores (R400, R401) -/

/-- The value of semaphore `n`. -/
def semGet (s : State) (n : Nat) : Nat := sparseGet 0 n s.sems

/-- Semaphore `n` set; both Landings are told of the change (R338; log entry 76). -/
def semSet (s : State) (n v : Nat) : State :=
  noteMerge (noteMerge { s with sems := sparseSet 0 n (v % 2 ^ 64) s.sems } landABase) landBBase

/-- `v` added to semaphore `n` modulo 2⁶⁴ as one step. -/
def semAdd (s : State) (n v : Nat) : State := semSet s n (semGet s n + v)

/-- R55: the wait condition on semaphore value `x`. -/
def waitHolds (x value : Nat) : Bool := decide ((x % 2 ^ 20 + 2 ^ 20 - value % 2 ^ 20) % 2 ^ 20 < 2 ^ 19)

/-! ### Descriptors (R46, R47) -/

/-- Bits `[hi:lo]` of the field at byte offset `off` of a descriptor. -/
def dfld (d : Desc) (off hi lo : Nat) : Nat := bits d.toNat (8 * off + hi) (8 * off + lo)

/-- R46: OPCODE. -/
def dOpcode (d : Desc) : Nat := dfld d 0x00 15 0
/-- R46: TALLY_TAG. -/
def dTag (d : Desc) : Nat := dfld d 0x04 31 0
/-- R46: EARLIEST_TICK. -/
def dTick (d : Desc) : Nat := dfld d 0x08 63 0
/-- R46: CONTEXT. -/
def dContext (d : Desc) : Nat := dfld d 0x10 15 0
/-- R46: CELL_MASK. -/
def dCellMask (d : Desc) : Nat := dfld d 0x12 31 0
/-- R46: MILL_MASK. -/
def dMillMask (d : Desc) : Nat := dfld d 0x16 3 0
/-- R46: MILL. -/
def dMill (d : Desc) : Nat := dfld d 0x16 5 4
/-- R46: KIND. -/
def dKind (d : Desc) : Nat := dfld d 0x16 7 6
/-- R46: WAIT_ID. -/
def dWaitId (d : Desc) : Nat := dfld d 0x18 11 0
/-- R46: WAIT_VALUE. -/
def dWaitValue (d : Desc) : Nat := dfld d 0x18 31 12
/-- R46: SIGNAL_ID. -/
def dSignalId (d : Desc) : Nat := dfld d 0x1C 11 0
/-- R46: SIGNAL_VALUE. -/
def dSignalValue (d : Desc) : Nat := dfld d 0x1C 31 12
/-- R47: ELASTIC. -/
def dElastic (d : Desc) : Bool := dfld d 0x02 0 0 == 1
/-- R47: EVAL. -/
def dEval (d : Desc) : Bool := dfld d 0x02 1 1 == 1
/-- R47: the check level. -/
def dCheck (d : Desc) : Nat := dfld d 0x02 3 2
/-- R49: the operations that write no output region: CONTRIBUTE, REPLICA_CMP, TALLY_OPEN, NOP, TICK_WAIT, SEM_ADD,
SEM_SIGNAL and BARRIER. -/
def noOutputs (d : Desc) : Bool :=
  [0x0221, 0x0910, 0x0A00, 0x0F00, 0x0F10, 0x0F20, 0x0F21, 0x0F30].contains (dOpcode d)
/-- R49: the check level in force: 0 for an operation that writes no output region. -/
def checkLevel (d : Desc) : Nat := if noOutputs d then 0 else dCheck d
/-- R47: NOTIFY. -/
def dNotify (d : Desc) : Bool := dfld d 0x02 4 4 == 1
/-- R47: WAIT. -/
def dWait (d : Desc) : Bool := dfld d 0x02 5 5 == 1
/-- R47: SIGNAL. -/
def dSignal (d : Desc) : Bool := dfld d 0x02 6 6 == 1
/-- R47: FENCE. -/
def dFence (d : Desc) : Bool := dfld d 0x02 7 7 == 1
/-- R47: SIGNAL_ALWAYS. -/
def dSignalAlways (d : Desc) : Bool := dfld d 0x02 8 8 == 1

/-- R9, R48: the logical Cells in a descriptor's scope, ascending. -/
def scopeCells (d : Desc) : List Nat :=
  if dKind d = 0 then List.range 128
  else if dKind d = 1 then (List.range 128).filter (fun c => bit (dMillMask d) (c / 32))
  else (List.range 32).filter (fun i => bit (dCellMask d) i) |>.map (fun i => dMill d * 32 + i)

/-- An operand slot: its offset and its row pitch in bytes (R130). -/
def slotOff (d : Desc) (off : Nat) : Nat := dfld d off 41 0
/-- The row pitch of an operand slot in bytes. -/
def slotPitch (d : Desc) (off : Nat) : Nat := dfld d off 63 42 * 16

/-- R87: FMT of a format word. -/
def fwFmt (w : Nat) : Option Fmt := fmtOfCode (w % 16)
/-- R87: the format of a word, FP32 where the code names none (R88 refuses it at fetch). -/
def fwFmtD (w : Nat) : Fmt := (fwFmt w).getD .fp32
/-- R87: RND. -/
def fwRnd (w : Nat) : Nat := bits w 5 4
/-- R87: MX. -/
def fwMx (w : Nat) : Bool := bit w 6
/-- R87: SCALE_RULE. -/
def fwNoClip (w : Nat) : Bool := bit w 7

/-- R87, R99: the rounding of element `i` of an output with rounding code `rnd`. -/
def rndOf (s : State) (rnd stream step i : Nat) : Rnd :=
  if rnd = 1 then .rz
  else if rnd = 2 then .sr (philoxDraw (getA2 s Reg.jobSeed_seedLo Reg.jobSeed_seedHi) stream step i)
  else .rne

/-! ### Statuses (R62, R63) -/

/-- R62: the code of a status. -/
def statusCode : Status → Nat
  | .done => 0x00 | .doneRecomputed => 0x01 | .doneSkipped => 0x02 | .parked => 0x03 | .tickOverrun => 0x04
  | .notPositive => 0x10 | .illConditioned => 0x11 | .infeasible => 0x12 | .notConverged => 0x13
  | .streamOverrun => 0x20 | .streamUnderrun => 0x21 | .authFail => 0x22 | .staleRejected => 0x23
  | .tableFull => 0x24 | .checkFail => 0x30 | .digestMismatch => 0x31 | .ctxFault => 0x40 | .deviceFault => 0x7F

/-- R62: whether a status signals without SIGNAL_ALWAYS. -/
def statusSignals : Status → Bool
  | .done | .doneRecomputed | .doneSkipped | .tickOverrun => true
  | _ => false

/-- R62: whether a status halts the context. -/
def statusHalts : Status → Bool
  | .checkFail | .digestMismatch | .ctxFault | .deviceFault => true
  | _ => false

/-- R63: of two ways to end, the one with the higher code. -/
def worse (a b : OpEnd) : OpEnd := if statusCode a.status < statusCode b.status then b else a

/-! ### Contexts and operations -/

/-- The tracked context of a number. -/
def findCtx (s : State) (c : Nat) : Option Ctx := s.rings.ctxs.find? (fun x => x.num == c)

/-- A tracked context changed. -/
def updCtx (s : State) (c : Nat) (f : Ctx → Ctx) : State :=
  { s with rings := { s.rings with ctxs := s.rings.ctxs.map (fun x => if x.num == c then f x else x) } }

/-- Whether an operation is the one of a context and submission index. -/
def isOp (ctx idx : Nat) (o : Op) : Bool := o.ctx == ctx && o.idx == idx

/-- The operation of a context and submission index. -/
def findOp (s : State) (ctx idx : Nat) : Option Op := s.ops.find? (isOp ctx idx)

/-- An operation changed. -/
def updOp (s : State) (ctx idx : Nat) (f : Op → Op) : State :=
  { s with ops := s.ops.map (fun o => if isOp ctx idx o then f o else o) }

/-- An operation that runs: it has not ended and is not parked, and no run of a level-2 check waits (R49). -/
def opRuns (o : Op) : Bool := o.ended.isNone && !o.parked && o.run == 1

/-- R27: whether regions meet a granule whose copy runs. -/
def copyMeets (s : State) (rs : List Region) : Bool :=
  s.hbm.copying.any (fun g =>
    rs.any (fun r => (regionRows r).any (fun p => meets p.1 (p.1 + p.2) (4096 * g) (4096 * g + 4096))))

/-- R27: whether an operation waits for the copy of a granule that it reads or writes. -/
def opWaits (s : State) (o : Op) : Bool := copyMeets s o.extent

/-- The running operation of a context, index and opcode, where no copy of a granule holds it up (R27). -/
def runningOp (s : State) (ctx idx opcode : Nat) : Option Op :=
  match findOp s ctx idx with
  | some o => if opRuns o && dOpcode o.d == opcode && !opWaits s o then some o else none
  | none => none

/-- The progress of the running operation of an opcode, or nothing where there is none. -/
def onOp (s : State) (ctx idx opcode : Nat) (f : Op → State) : State :=
  match runningOp s ctx idx opcode with
  | some o => f o
  | none => s

/-- An operation's work is complete with a status and DETAIL. -/
def endOp (s : State) (ctx idx : Nat) (e : OpEnd) : State := updOp s ctx idx (fun o => { o with ended := some e })

/-- R62, R597: an operation ends with CTX_FAULT. -/
def ctxFault (s : State) (ctx idx code off : Nat) : State :=
  endOp s ctx idx ⟨.ctxFault, code + off * 2 ^ 16⟩

/-- An operation with an execution fault ends with CTX_FAULT; without one it goes on to `t`. -/
def faultOr (s : State) (ctx idx : Nat) (e : Option (Nat × Nat)) (t : State) : State :=
  match e with
  | some e => ctxFault s ctx idx e.1 e.2
  | none => t

/-- An operation ends with a status that names a fault record, which is written (R507). -/
def endWithRecord (s : State) (ctx idx : Nat) (st : Status) (kind unit : Nat) (words : List Nat) : State :=
  endOp (writeFault s ⟨kind, unit, statusCode st, ctx, idx, words⟩) ctx idx ⟨st, faultTail s⟩

/-- R155: whether another chip has skipped training-state writes of an operation. -/
def skippedAway (o : Op) : Bool :=
  match o.work with
  | .remote _ k => k
  | _ => false

/-- The normal end of work: DONE, DONE_RECOMPUTED with the number of re-runs (R62, R126), or DONE_SKIPPED where another
chip has skipped its training-state writes (R155). -/
def normalEnd (o : Op) : OpEnd :=
  if skippedAway o then ⟨.doneSkipped, 0⟩ else if o.reruns = 0 then ⟨.done, 0⟩ else ⟨.doneRecomputed, o.reruns⟩

/-- R49: an operation's work is complete and its outputs are written: a level-2 operation's second run is due,
any other ends. -/
def finishOp (s : State) (ctx idx : Nat) : State :=
  updOp s ctx idx (fun o =>
    if checkLevel o.d = 2 && o.run = 1 then { o with run := 2 } else { o with ended := some (normalEnd o) })

/-- `n` bytes at a local offset become free values. -/
def freeBytes (s : State) (a n : Nat) : State :=
  wrMem { s with free := s.free + n } ((List.range n).map (fun i => (a + i, BitVec.ofNat 8 (Config.freeValue (s.free + i)))))

/-- R31, R390, R505: every operation in flight ends with DEVICE_FAULT, each with a fault record. -/
def faultAll (s : State) (kind : Nat) (words : List Nat) : State :=
  s.ops.foldl (fun t o =>
    if (o.ended.map (fun e => e.status)) = some .deviceFault then t
    else endWithRecord t o.ctx o.idx .deviceFault kind 0 words) s

/-- R339: a Cell without work, whose ACLK is stopped. -/
def cellIdle : CellRt := ⟨none, 1, [], [], false, true, []⟩

/-- Cell `n`'s array and flags. -/
def cellGet (s : State) (n : Nat) : CellRt := sparseGet cellIdle n s.cells

/-- Cell `n`'s array and flags written. -/
def cellSet (s : State) (n : Nat) (c : CellRt) : State := { s with cells := sparseSet cellIdle n c s.cells }

/-- R92: the non-finite flag of Cell `n` set where `b` holds. -/
def flagCell (s : State) (n : Nat) (b : Bool) : State :=
  if b then cellSet s n { cellGet s n with nf := true } else s

end Sys2Proof.Machine
end

