-- ==== Sys2Proof/Machine/Tables.lean ====
section
/-!
DEFINITION. The tables in HBM that operations share: parameter records (R252, R253), Scaler entries (R135), side
entries (R191) and factor records (R195, R196).
-/

namespace Sys2Proof.Machine

/-- Bits `[hi:lo]` of the 8 bytes at a local offset. -/
def rdBits (s : State) (a hi lo : Nat) : Nat := bits (rdNat s a 8) hi lo

/-- An FP32 code at a local offset. -/
def rdF32 (s : State) (a : Nat) : FVal := decodeCode .fp32 (rdNat s a 4)

/-- Bits `[hi:lo]` of the 8 bytes at a local offset replaced, as single-byte writes. -/
def bitsWrites (s : State) (a hi lo v : Nat) : List Host.Cell :=
  let b0 := lo / 8
  let n := hi / 8 + 1 - b0
  natWrites (a + b0) n (setBits (rdNat s a 8) hi lo v / 2 ^ (8 * b0))

/-- Bits `[hi:lo]` of the 8 bytes at a local offset written. -/
def wrBits (s : State) (a hi lo v : Nat) : State := wrMem s (bitsWrites s a hi lo v)

/-- A length rounded up to a multiple of 16. -/
def up16 (n : Nat) : Nat := (n + 15) / 16 * 16

/-! ### Parameter records (R252, R253) -/

/-- R252: the offset of parameter record `p`. -/
def paramAddr (s : State) (p : Nat) : Nat := getA2 s Reg.paramBase_baseLo Reg.paramBase_baseHi + p * 128

/-- R280: the number of parameter records. -/
def paramCount (s : State) : Nat := getA s Reg.paramCtrl_count

/-- R252: ROWS. -/
def pRows (s : State) (p : Nat) : Nat := rdBits s (paramAddr s p) 23 0
/-- R252: COLS. -/
def pCols (s : State) (p : Nat) : Nat := rdBits s (paramAddr s p + 4) 23 0
/-- R252: ROW0. -/
def pRow0 (s : State) (p : Nat) : Nat := rdBits s (paramAddr s p + 8) 23 0
/-- R252: NROWS. -/
def pNrows (s : State) (p : Nat) : Nat := rdBits s (paramAddr s p + 0x0C) 23 0
/-- R252: COL0. -/
def pCol0 (s : State) (p : Nat) : Nat := rdBits s (paramAddr s p + 0x10) 23 0
/-- R252: NCOLS. -/
def pNcols (s : State) (p : Nat) : Nat := rdBits s (paramAddr s p + 0x14) 23 0
/-- R252: MASTER. -/
def pMaster (s : State) (p : Nat) : Nat := rdBits s (paramAddr s p + 0x18) 41 0
/-- R252: WORKING. -/
def pWorking (s : State) (p : Nat) : Nat := rdBits s (paramAddr s p + 0x20) 41 0
/-- R252: GRAD. -/
def pGrad (s : State) (p : Nat) : Nat := rdBits s (paramAddr s p + 0x28) 41 0
/-- R252: M1. -/
def pM1 (s : State) (p : Nat) : Nat := rdBits s (paramAddr s p + 0x30) 41 0
/-- R252: M2. -/
def pM2 (s : State) (p : Nat) : Nat := rdBits s (paramAddr s p + 0x38) 41 0
/-- R252: RESID. -/
def pResid (s : State) (p : Nat) : Nat := rdBits s (paramAddr s p + 0x40) 41 0
/-- R252: WFMT. -/
def pWfmt (s : State) (p : Nat) : Nat := rdBits s (paramAddr s p + 0x48) 15 0
/-- R252: WAXIS. -/
def pWaxis (s : State) (p : Nat) : Nat := rdBits s (paramAddr s p + 0x4A) 0 0
/-- R252: AWAY. -/
def pAway (s : State) (p : Nat) : Bool := rdBits s (paramAddr s p + 0x4A) 1 1 == 1
/-- R252: PRESENT. -/
def pPresent (s : State) (p : Nat) : Bool := rdBits s (paramAddr s p + 0x4A) 2 2 == 1
/-- R252: MOVING. -/
def pMoving (s : State) (p : Nat) : Bool := rdBits s (paramAddr s p + 0x4A) 3 3 == 1
/-- R252: XL. -/
def pXl (s : State) (p : Nat) : Nat := rdBits s (paramAddr s p + 0x4C) 9 0
/-- R252: XR. -/
def pXr (s : State) (p : Nat) : Nat := rdBits s (paramAddr s p + 0x4C) 25 16
/-- R252: SLOW. -/
def pSlow (s : State) (p : Nat) : Nat := rdNat s (paramAddr s p + 0x50) 8
/-- R252: SEQ. -/
def pSeq (s : State) (p : Nat) : Nat := rdNat s (paramAddr s p + 0x58) 8
/-- R252: SLOW_DIGEST. -/
def pSlowDigest (s : State) (p : Nat) : Nat := rdNat s (paramAddr s p + 0x60) 16

/-- R253: the pitch of an FP32 region of `ncols` columns. -/
def f32Pitch (ncols : Nat) : Nat := up16 (4 * ncols)

/-- R253: an FP32 region of a shard. -/
def f32Region (off nrows ncols : Nat) : Region := ⟨off, f32Pitch ncols, nrows, 4 * ncols⟩

/-- R253: the packed row length of a working copy. -/
def workRow (s : State) (p : Nat) : Nat := packedLen (fmtWidth (fwFmtD (pWfmt s p))) (pNcols s p)

/-- R253: the elements of a working copy. -/
def workRegion (s : State) (p : Nat) : Region := ⟨pWorking s p, up16 (workRow s p), pNrows s p, workRow s p⟩

/-- R253: the scale bytes of an MX working copy: rows and row length. -/
def workScaleDims (s : State) (p : Nat) : Nat × Nat :=
  if pWaxis s p = 0 then (pNrows s p, ceilDiv (pNcols s p) 32) else (ceilDiv (pNrows s p) 32, pNcols s p)

/-- R253: the regions of a parameter's working copy. -/
def workRegions (s : State) (p : Nat) : List Region :=
  let w := workRegion s p
  let d := workScaleDims s p
  if fwMx (pWfmt s p) then [w, ⟨pWorking s p + pNrows s p * w.pitch, d.2, d.1, d.2⟩] else [w]

/-- R251: the regions of the roles of a parameter that are training state, working copy apart. -/
def stateRegions (s : State) (p : Nat) : List Region :=
  (f32Region (pMaster s p) (pNrows s p) (pNcols s p)) ::
    ([pM1 s p, pM2 s p, pResid s p].filter (fun o => o ≠ 0)).map (fun o => f32Region o (pNrows s p) (pNcols s p))

/-- The parameters with a shard on this chip, ascending. -/
def shardParams (s : State) : List Nat := (List.range (paramCount s)).filter (fun p => pNrows s p != 0)

/-- Whether any of some regions meets any of some others. -/
def anyMeet (xs ys : List Region) : Bool := xs.any (fun x => ys.any (fun y => regionsMeet x y))

/-- R158: whether a write of regions meets a working-copy region. -/
def meetsWorking (s : State) (rs : List Region) : Bool := (shardParams s).any (fun p => anyMeet rs (workRegions s p))

/-! ### Factor records (R195) -/

/-- R195: the offset of factor record `x`. -/
def facAddr (s : State) (x : Nat) : Nat := getA2 s Reg.truBase_baseLo Reg.truBase_baseHi + x * 128
/-- R223: the number of factor records. -/
def facCount (s : State) : Nat := getA s Reg.truCtrl_count
/-- R195: STAT. -/
def facStat (s : State) (x : Nat) : Nat := rdBits s (facAddr s x) 41 0
/-- R195: BUF0 or BUF1. -/
def facBuf (s : State) (x b : Nat) : Nat := rdBits s (facAddr s x + 8 + 8 * (b % 2)) 41 0
/-- R195: N. -/
def facN (s : State) (x : Nat) : Nat := rdBits s (facAddr s x + 0x20) 14 0
/-- R196: the pitch of F and of a factor buffer of order `n`. -/
def facPitch (n : Nat) : Nat := ceilDiv (4 * n) 64 * 64
/-- R196: F, or a buffer, of order `n` at an offset. -/
def facRegion (off n : Nat) : Region := ⟨off, facPitch n, n, 4 * n⟩
/-- R196: a factor buffer of order `n`: its matrix part and its vector part. -/
def bufRegion (off n : Nat) : Region := ⟨off, facPitch n, n + 1, 4 * n⟩
/-- R200: the regions of a factor record that are training state. -/
def facRegions (s : State) (x : Nat) : List Region :=
  [facRegion (facStat s x) (facN s x), bufRegion (facBuf s x 0) (facN s x), bufRegion (facBuf s x 1) (facN s x)]

/-! ### Training state (R50, R155, R200, R251) -/

/-- R251, R200: the regions of training state. -/
def trainRegions (s : State) : List Region :=
  (if paramCount s = 0 then [] else [⟨paramAddr s 0, 0, 1, paramCount s * 128⟩]) ++
    (if getA s Reg.skidCtrl_pages = 0 then []
      else [⟨getA2 s Reg.skidBase_baseLo Reg.skidBase_baseHi, 0, 1, getA s Reg.skidCtrl_pages * 4096⟩]) ++
    (if facCount s = 0 then [] else [⟨facAddr s 0, 0, 1, facCount s * 128⟩]) ++
    (shardParams s).flatMap (fun p => stateRegions s p ++ workRegions s p) ++
    (List.range (facCount s)).flatMap (facRegions s)

/-- Whether an offset is a byte of a region. -/
def inRegion (r : Region) (a : Nat) : Bool :=
  decide (r.off ≤ a ∧ a < regionEnd r) && (decide (r.pitch = 0) || decide ((a - r.off) % r.pitch < r.len))

/-- R50: whether an EVAL descriptor would write training state.  DESIGN CHOICE: as R131 does for operands, regions meet by
their contiguous extents, so that training state between the rows of an output counts too (log entry 66). -/
def evalMeets (s : State) (d : Desc) (rs : List Region) : Bool := dEval d && anyMeet rs (trainRegions s)

/-- R50, R158: the fault of writing regions: training state under EVAL, or a working copy. -/
def outFault (s : State) (d : Desc) (rs : List Region) : Option (Nat × Nat) :=
  if evalMeets s d rs then some (0x0A, 0)
  else if meetsWorking s rs then some (0x120, 0)
  else none

/-- Training-state writes of an operation, held until its step's decision (R155). -/
def holdWrites (s : State) (ctx idx : Nat) (ws : List Host.Cell) : State :=
  updOp s ctx idx (fun o => { o with writes := o.writes ++ ws })

/-- R155: of what an operation has written from `s` to `t`, the training-state bytes are held and `t` keeps the old
ones. -/
def holdTrain (s t : State) (ctx idx : Nat) : State :=
  let rs := trainRegions s
  if rs.isEmpty then t
  else
    let as := (((s.mem ++ t.mem).map (fun c => c.1)).filter (fun a =>
      rs.any (fun r => inRegion r a) && memRead s.mem a != memRead t.mem a)).eraseDups
    holdWrites { t with mem := memWriteAll t.mem (as.map (fun a => (a, memRead s.mem a))) } ctx idx
      (as.map (fun a => (a, memRead t.mem a)))

/-- R155: as `holdTrain`, where `t` was computed over the writes `held` that the operation already holds; those stay held. -/
def holdOver (s t : State) (ctx idx : Nat) (held : List Host.Cell) : State :=
  let rs := trainRegions s
  let as := (((s.mem ++ t.mem ++ held).map (fun c => c.1)).filter (fun a =>
    held.any (fun c => c.1 == a) || (rs.any (fun r => inRegion r a) && memRead s.mem a != memRead t.mem a))).eraseDups
  updOp { t with mem := memWriteAll t.mem (as.map (fun a => (a, memRead s.mem a))) } ctx idx
    (fun o => { o with writes := as.map (fun a => (a, memRead t.mem a)) })

/-- The bytes of some writes that are training state. -/
def trainCells (s : State) (ws : List Host.Cell) : List Host.Cell :=
  let rs := trainRegions s
  ws.filter (fun c => rs.any (fun r => inRegion r c.1))

/-! ### Scaler entries (R135) -/

/-- R134: the offset of Scaler entry `n`. -/
def sclAddr (s : State) (n : Nat) : Nat := getA2 s Reg.sclBase_baseLo Reg.sclBase_baseHi + n * 128

/-- R162: the number of Scaler entries. -/
def sclCount (s : State) : Nat := getA s Reg.sclCtrl_count

/-- R135: TENSOR. -/
def sclTensor (s : State) (n : Nat) : Nat := rdBits s (sclAddr s n) 27 0
/-- R135: FMT. -/
def sclFmtCode (s : State) (n : Nat) : Nat := rdBits s (sclAddr s n) 31 28
/-- R135: EXP. -/
def sclExp (s : State) (n : Nat) : Int := toSigned 8 (rdBits s (sclAddr s n + 4) 7 0)
/-- R135: E_INIT. -/
def sclEInit (s : State) (n : Nat) : Int := toSigned 8 (rdBits s (sclAddr s n + 4) 15 8)
/-- R135: HEADROOM. -/
def sclHeadroom (s : State) (n : Nat) : Nat := rdBits s (sclAddr s n + 4) 18 16
/-- R135: IN_A. -/
def sclInA (s : State) (n : Nat) : Nat := rdBits s (sclAddr s n + 8) 9 0
/-- R135: IN_B. -/
def sclInB (s : State) (n : Nat) : Nat := rdBits s (sclAddr s n + 8) 25 16
/-- R135: HIST_POS. -/
def sclHistPos (s : State) (n : Nat) : Nat := rdBits s (sclAddr s n + 0x0C) 3 0
/-- R135: MAP. -/
def sclMap (s : State) (n : Nat) : Nat := rdBits s (sclAddr s n + 0x10) 41 0
/-- R135: SHADOW. -/
def sclShadow (s : State) (n : Nat) : Nat := rdBits s (sclAddr s n + 0x18) 41 0
/-- R135: HISTORY[k]. -/
def sclHistory (s : State) (n k : Nat) : Nat := rdNat s (sclAddr s n + 0x20 + 4 * k) 4
/-- R135: STEP_AMAX. -/
def sclAmax (s : State) (n : Nat) : Nat := rdNat s (sclAddr s n + 0x60) 4

/-- R135: whether an entry's format is narrow. -/
def sclNarrow (code : Nat) : Bool := decide (code ≤ 4) || code == 6

/-! ### Side entries (R191) -/

/-- R191: the offset of side entry `e`. -/
def sideAddr (s : State) (e : Nat) : Nat := getA2 s Reg.sideBase_baseLo Reg.sideBase_baseHi + e * 32

/-- R191: SAMPLES. -/
def sideSamples (s : State) (e : Nat) : Nat := rdBits s (sideAddr s e) 41 0
/-- R191: SAMPLE_SCALES. -/
def sideScales (s : State) (e : Nat) : Nat := rdBits s (sideAddr s e + 8) 41 0
/-- R191: CAP. -/
def sideCap (s : State) (e : Nat) : Nat := rdBits s (sideAddr s e + 0x10) 23 0
/-- R191: PHASE. -/
def sidePhase (s : State) (e : Nat) : Nat := rdBits s (sideAddr s e + 0x10) 29 24
/-- R191: K. -/
def sideK (s : State) (e : Nat) : Nat := rdBits s (sideAddr s e + 0x14) 23 0
/-- R191: FMT. -/
def sideFmt (s : State) (e : Nat) : Nat := rdBits s (sideAddr s e + 0x18) 15 0
/-- R191: DROPPED. -/
def sideDropped (s : State) (e : Nat) : Nat := rdBits s (sideAddr s e + 0x1C) 23 0

/-! ### Factor records (R195, R196) -/

/-- R195: PARK. -/
def facPark (s : State) (x : Nat) : Nat := rdBits s (facAddr s x + 0x18) 41 0
/-- R195: POLICY. -/
def facPolicy (s : State) (x : Nat) : Nat := rdBits s (facAddr s x + 0x20) 15 15
/-- R195: MAXTRY. -/
def facMaxtry (s : State) (x : Nat) : Nat := rdBits s (facAddr s x + 0x20) 17 16
/-- R195: KIND. -/
def facKind (s : State) (x : Nat) : Nat := rdBits s (facAddr s x + 0x20) 20 18
/-- R195: SEL. -/
def facSel (s : State) (x : Nat) : Nat := rdBits s (facAddr s x + 0x20) 21 21
/-- R195: GEN. -/
def facGen (s : State) (x : Nat) : Nat := rdNat s (facAddr s x + 0x24) 4
/-- R195: LAMBDA. -/
def facLambda (s : State) (x : Nat) : FVal := rdF32 s (facAddr s x + 0x28)
/-- R195: TAU. -/
def facTau (s : State) (x : Nat) : FVal := rdF32 s (facAddr s x + 0x2C)
/-- R195: GROWTH. -/
def facGrowth (s : State) (x : Nat) : FVal := rdF32 s (facAddr s x + 0x30)
/-- R195: RESID_TOL. -/
def facTol (s : State) (x : Nat) : FVal := rdF32 s (facAddr s x + 0x34)
/-- R195: FOLDS. -/
def facFolds (s : State) (x : Nat) : Nat := rdNat s (facAddr s x + 0x38) 4
/-- R195: WORK. -/
def facWork (s : State) (x : Nat) : Nat := rdBits s (facAddr s x + 0x58) 41 0

/-- R196: the work pitch. -/
def workPitch (n : Nat) : Nat := max (facPitch n) 1024

/-- R198: a standing factor as it reads now. -/
def facRead (s : State) (x : Nat) : FacRead := ⟨x, facSel s x, facGen s x, facKind s x⟩

/-- The buffer that a reader of a standing factor holds. -/
def facBufOf (s : State) (r : FacRead) : Nat := facBuf s r.num r.sel

/-- An FP32 matrix element as a value. -/
def matF32 (s : State) (off pitch i j : Nat) : FVal := rdF32 s (off + i * pitch + 4 * j)

/-- R254: the step id. -/
def stepId (s : State) : Nat := getA2 s Reg.step_idLo Reg.step_idHi

end Sys2Proof.Machine
end

