-- ==== Sys2Proof/Machine/Hbm.lean ====
section
/-!
DEFINITION. HBM: ECC, page retirement and the host's CXL.mem accesses (R19, R22 to R30, R570).
-/

namespace Sys2Proof.Machine

/-- R14: the Mill of a stack. -/
def millOfStack (st : Nat) : Nat := st / 2

/-- R30: the Mill block of a mapped offset. -/
def millOfOff (off : Nat) : Nat := millBase (millOfStack (stackOf off))

/-- R551: the flash offset of part record copy `c`. -/
def partBase (c : Nat) : Nat := c * 0x100000

/-- An `n`-byte value of a part record copy. -/
def partNat (s : State) (c off n : Nat) : Nat := memNat s.flash (partBase c + off) n

/-- The copy of the part record in use, copy 0 before one is chosen. -/
def partUse (s : State) : Nat := s.boot.part.getD 0

/-- R554: an `n`-byte value of the saved settings in use. -/
def settingNat (s : State) (off n : Nat) : Nat := partNat s (partUse s) (0x10100 + off) n

/-- R557: changes to the part record copy are gathered; a write that failed is tried again. -/
def draftPut (s : State) (ws : List Host.Cell) : State :=
  { s with boot := { s.boot with draft := s.boot.draft ++ ws, heldBack := false } }

/-- R554: the offset of the retirement list of stack `st` in a part record copy. -/
def retireList (st : Nat) : Nat := 0x10100 + 0x80100 + 0x2000 * st

/-- R28: the slots retired of stack `st`. -/
def retiredOf (s : State) (st : Nat) : List Nat := (s.hbm.retired.filter (fun p => p.1 == st)).map (fun p => p.2)

/-- R30: the number of entries of stack `st` written to HBM_RETIRE. -/
def setUsed (s : State) (st n : Nat) : State :=
  setF s (millBase (millOfStack st)) (if st % 2 = 0 then Reg.hbmRetire_used0 else Reg.hbmRetire_used1) 0 n

/-- R28: a slot is entered in its stack's list, which the part record keeps. -/
def enterRetired (s : State) (st slot : Nat) : State :=
  let k := (retiredOf s st).length
  let s1 := { s with hbm := { s.hbm with retired := s.hbm.retired ++ [(st, slot)] } }
  draftPut (setUsed s1 st (k + 1)) (natWrites (retireList st) 4 (k + 1) ++ natWrites (retireList st + 4 + 4 * k) 4 slot)

/-- R26, R28, R29: the granule of an offset is retired and its copy begins, or FULL is set. -/
def retireGranule (s : State) (off : Nat) : State :=
  let st := stackOf off
  if (retiredOf s st).contains (slotOf off) then s
  else if 1024 ≤ (retiredOf s st).length then setF s (millOfOff off) Reg.hbmRetire_full 0 1
  else
    let s1 := enterRetired s st (slotOf off)
    { s1 with hbm := { s1.hbm with copying := s1.hbm.copying ++ [off / 4096] } }

/-- R24, R26: a corrected error; the eighth of a granule retires it. -/
def hbmCorrected (s : State) (off : Nat) : State :=
  let g := off / 4096
  let n := sparseGet 0 g s.hbm.corrected + 1
  let s1 := event (countF s (millOfOff off) Reg.hbmCe_count 0 1) (millOfOff off) 0x09 1
  let s2 := { s1 with hbm := { s1.hbm with corrected := sparseSet 0 g n s1.hbm.corrected } }
  if n = 8 then retireGranule s2 off else s2

/-- R25, R26: an error that ECC cannot correct: recorded, its line poisoned, its granule retired. -/
def hbmUncorrectable (s : State) (off : Nat) : State :=
  let m := millOfOff off
  let s1 := countF s m Reg.hbmUe_count 0 1
  let s2 := setF (set2 s1 m Reg.hbmLastUe_offsetLo Reg.hbmLastUe_offsetHi 0 off) m Reg.hbmLastUe_valid 0 1
  let s3 := { s2 with hbm := { s2.hbm with
    poison := if s2.hbm.poison.contains (off / 64) then s2.hbm.poison else s2.hbm.poison ++ [off / 64] } }
  retireGranule s3 off

/-- R24, R25: what ECC found is taken into account. -/
def hbmEcc (s : State) (e : Ecc) : State :=
  match e with
  | .ok => s
  | .corrected off => if off < capacity s then hbmCorrected s off else s
  | .uncorrectable off => if off < capacity s then hbmUncorrectable s off else s

/-- The first poisoned line that `[a, a + n)` meets. -/
def poisonIn (s : State) (a n : Nat) : Option Nat :=
  s.hbm.poison.foldl (fun acc l => if meets a (a + n) (64 * l) (64 * l + 64) then minOpt acc (some (64 * l)) else acc) none

/-- R570: the size of the CXL.mem range: mapped HBM rounded down to 256 MiB. -/
def cxlRange (s : State) : Nat := capacity s / 2 ^ 28 * 2 ^ 28

/-- R570: whether the CXL.mem range answers: stage 7 has ended. -/
def memActive (s : State) : Bool := decide (8 ≤ s.boot.stage)

/-- R19, R570: whether a host access is mapped. -/
def cxlMapped (s : State) (off n : Nat) : Bool := memActive s && decide (off + n ≤ cxlRange s)

/-- R27: whether the copy of a granule that an access touches runs. -/
def accessWaits (s : State) (off n : Nat) : Bool :=
  s.hbm.copying.any (fun g => meets off (off + n) (4096 * g) (4096 * g + 4096))

/-- What the block answers on a read. -/
def answer (s : State) (d : List Byte) (poison : Bool) : State := { s with readOut := ⟨d, poison⟩ }

/-- R24, R25: a mapped host read is served. -/
def serveRead (s : State) (off n : Nat) (e : Ecc) : State :=
  match poisonIn s off n with
  | some p => answer (hbmUncorrectable s p) [] true
  | none =>
    match e with
    | .uncorrectable _ => answer (hbmEcc s e) [] true
    | _ => answer (hbmEcc s e) (rdBytes s off n) false

/-- CXL_MEM_READ (R19, R25, R27). -/
def execCxlMemRead (off len : Nat) (ecc : Ecc) (s : State) : Host.Outcome State Fault Refusal :=
  .next (
    if !cxlMapped s off len then answer s [] true
    else if accessWaits s off len then { s with hbm := { s.hbm with waiting := s.hbm.waiting ++ [.read off len ecc] } }
    else serveRead s off len ecc)

/-- CXL_MEM_WRITE (R19, R27). -/
def execCxlMemWrite (off : Nat) (data : List Byte) (s : State) : Host.Outcome State Fault Refusal :=
  .next (
    if !cxlMapped s off data.length then countF s (millBase 0) Reg.hbmUe_unmappedWr 0 1
    else if accessWaits s off data.length then { s with hbm := { s.hbm with waiting := s.hbm.waiting ++ [.write off data] } }
    else wrMem s (bytesWrites off data))

end Sys2Proof.Machine
end

