-- ==== Sys2Proof/Machine/Contexts.lean ====
section
/-!
DEFINITION. Contexts: doorbells, loading and spilling, the overflow queue, completion entries, the CTX_CTRL actions and
the end of ring service (R33 to R45, R58 to R74, R596 to R599).
-/

namespace Sys2Proof.Machine

/-- R34: the host address of context `c`'s save area. -/
def saveAddr (s : State) (c : Nat) : Nat := getA2 s Reg.ctxBase_baseLo Reg.ctxBase_baseHi + c * 512

/-- R38: whether the host bytes of a save area pass their checks. -/
def hostPartOk (s : State) (c : Nat) : Bool :=
  let a := saveAddr s c
  let sq := rdHost s (a + 0x10) 1
  let cq := rdHost s (a + 0x11) 1
  let v := rdHost s (a + 0x12) 2
  bit (rdHost s (a + 0x14) 4) 0 && decide (4 ≤ sq ∧ sq ≤ 16) && decide (4 ≤ cq ∧ cq ≤ 16) &&
    decide (1 ≤ v ∧ v ≤ 2047) && rdHost s a 8 % 4096 == 0 && rdHost s (a + 8) 8 % 4096 == 0

/-- R37: whether the device bytes of a save area are all zero. -/
def devicePartZero (s : State) (c : Nat) : Bool :=
  (memBytes s.hostMem (saveAddr s c + 0x40) 448).all (fun b => b == 0)

/-- R35: whether CHECK of a save area matches. -/
def checkOk (s : State) (c : Nat) : Bool :=
  crc32 (memBytes s.hostMem (saveAddr s c) 0x1F8) == rdHost s (saveAddr s c + 0x1F8) 4

/-- R35: a context as its save area's host bytes and indices describe it, halted where STATE is 5. -/
def ctxOfSave (s : State) (c : Nat) : Ctx :=
  let a := saveAddr s c
  { num := c, sqBase := rdHost s a 8, cqBase := rdHost s (a + 8) 8
    sqOrder := rdHost s (a + 0x10) 1, cqOrder := rdHost s (a + 0x11) 1
    vector := rdHost s (a + 0x12) 2, counterRead := bit (rdHost s (a + 0x14) 4) 1
    sqHead := rdHost s (a + 0x40) 4, sqTail := rdHost s (a + 0x44) 4
    cqTail := rdHost s (a + 0x48) 4, cqHead := rdHost s (a + 0x4C) 4
    halted := rdHost s (a + 0x50) 4 % 8 == 5, loading := false, tails := [], spilling := 0
    held := [], reserved := 0, lastUse := 0 }

/-- R599: bytes 0x054 to 0x1F7 of a spilled context: 0 with no held descriptor; else the part's own form, which is not
zero (log entry 53). -/
def sequencerBytes (held : List Held) : List Byte :=
  if held.isEmpty then List.replicate 420 0
  else
    let b := (List.range 420).map (fun n => Config.saveState (held.map (fun h => (h.idx, h.d))) n)
    if b.all (fun x => x == 0) then 1 :: List.replicate 419 0 else b

/-- R34, R35: a context's device bytes written to its save area. -/
def writeSave (s : State) (x : Ctx) (state : Nat) : State :=
  let a := saveAddr s x.num
  let s1 := wrHost s (natWrites (a + 0x40) 4 x.sqHead ++ natWrites (a + 0x44) 4 x.sqTail ++
    natWrites (a + 0x48) 4 x.cqTail ++ natWrites (a + 0x4C) 4 x.cqHead ++ natWrites (a + 0x50) 4 state ++
    bytesWrites (a + 0x54) (sequencerBytes x.held))
  wrHost s1 (natWrites (a + 0x1F8) 4 (crc32 (memBytes s1.hostMem a 0x1F8)) ++ natWrites (a + 0x1FC) 4 0)

/-! ### State of a context (R598) -/

/-- R598: whether a descriptor of the context has begun and not ended. -/
def ctxBusy (s : State) (c : Nat) : Bool := s.ops.any (fun o => o.ctx == c)

/-- R598: whether a context is idle. -/
def ctxIdle (s : State) (x : Ctx) : Bool :=
  !ctxBusy s x.num && (x.halted || (x.held.isEmpty && x.sqHead == x.sqTail))

/-- R598: whether a context is waiting. -/
def ctxWaiting (s : State) (x : Ctx) : Bool := !ctxBusy s x.num && !ctxIdle s x

/-- R598, R40: STATE of a doorbell page.  DESIGN CHOICE: a halted context reads 5 when it has been spilled too (log
entry 65). -/
def pageState (s : State) (c : Nat) : Nat :=
  match findCtx s c with
  | some x => if x.loading then 2 else if x.halted then 5 else if ctxBusy s c then 3 else if ctxIdle s x then 1 else 2
  | none =>
    if s.rings.ovq.any (fun e => e.ctx == c) then 4
    else if s.rings.refused.contains c then 5
    else if s.rings.saved.any (fun x => x.num == c && x.halted) then 5
    else 0

/-- R67: use of a context is marked. -/
def touchCtx (s : State) (c : Nat) : State :=
  let s1 := updCtx s c (fun x => { x with lastUse := s.rings.useClock + 1 })
  { s1 with rings := { s1.rings with useClock := s1.rings.useClock + 1 } }

/-! ### Completion entries (R59 to R61, R65) -/

/-- What a completion entry says. -/
structure Entry where
  idx : Nat
  status : Status
  final : Bool
  signalled : Bool
  halts : Bool
  tag : Nat
  detail : Nat
  notify : Bool
  deriving DecidableEq, Repr

/-- R60: PHASE of completion index `i`. -/
def phaseOf (i order : Nat) : Nat := ((i >>> order) % 2) ^^^ 1

/-- R59: the 32 bytes of an entry. -/
def entryBytes (s : State) (x : Ctx) (e : Entry) : List Byte :=
  leBytes 4 e.idx ++ leBytes 2 x.num ++ leBytes 1 (statusCode e.status) ++
    leBytes 1 (phaseOf x.cqTail x.cqOrder + 2 * nat01 e.final + 4 * nat01 e.signalled + 8 * nat01 e.halts) ++
    leBytes 8 s.time.tai ++ leBytes 4 e.tag ++ leBytes 4 x.sqHead ++ leBytes 8 e.detail

/-- R65: whether an entry calls for its context's vector. -/
def entryNotifies (e : Entry) : Bool := (e.final && e.notify) || decide (16 ≤ statusCode e.status) || e.halts

/-- R60, R64, R65: a completion entry is written, the context halts where the entry says so, and its vector is sent
where the entry calls for it. -/
def writeEntry (s : State) (c : Nat) (e : Entry) : State :=
  match findCtx s c with
  | none => s
  | some x =>
    let s1 := wrHost s (bytesWrites (x.cqBase + (x.cqTail % 2 ^ x.cqOrder) * 32) (entryBytes s x e))
    let s2 := updCtx s1 c (fun y => { y with cqTail := (y.cqTail + 1) % 2 ^ 32, halted := y.halted || e.halts })
    let s3 := touchCtx s2 c
    if entryNotifies e then sendVector s3 x.vector else s3

/-- R38, R42: a CTX_FAULT entry that belongs to no descriptor.  DESIGN CHOICE: FINAL is 1 and TALLY_TAG 0, of which those
rules say nothing (log entry 65). -/
def faultEntry (idx code : Nat) : Entry := ⟨idx, .ctxFault, true, false, true, 0, code, false⟩

/-! ### When a descriptor may begin (R54, R55, R58, R356) -/

/-- R54 item 2, R354, R356: whether EARLIEST_TICK `t` is met. -/
def tickMet (s : State) (t : Nat) : Bool :=
  t == 0 || (getA s Reg.tickCtrl_run == 1 && decide (t ≤ getA2 s Reg.tickNow_idLo Reg.tickNow_idHi))

/-- R58: completion slots a descriptor needs. -/
def slotsNeeded (d : Desc) : Nat := if dElastic d then 2 else 1

/-- R58: the free completion slots of a context. -/
def slotsFree (x : Ctx) : Nat := 2 ^ x.cqOrder - 1 - (x.cqTail + 2 ^ 32 - x.cqHead) % 2 ^ 32 - x.reserved

/-- R54 items 2 to 5: whether a descriptor may begin. -/
def mayBegin (s : State) (x : Ctx) (d : Desc) : Bool :=
  tickMet s (dTick d) && (!dWait d || waitHolds (semGet s (dWaitId d)) (dWaitValue d)) &&
    (!dFence d || !ctxBusy s x.num) && decide (slotsNeeded d ≤ slotsFree x)

/-- R69: whether an entry of the overflow queue is ready. -/
def entryReady (s : State) (e : OvqEntry) : Bool :=
  !e.wait ||
    match s.rings.saved.find? (fun x => x.num == e.ctx) with
    | some x => (match x.held with
        | h :: _ => mayBegin s x h.d
        | [] => true)
    | none => true

/-- R69: a context that has become idle while an entry of the overflow queue is ready is noted. -/
def noteIdle (s : State) (c : Nat) : State :=
  match findCtx s c with
  | some x =>
    if !x.loading && x.spilling == 0 && ctxIdle s x && s.rings.ovq.any (entryReady s) && !s.rings.idled.contains c then
      { s with rings := { s.rings with idled := s.rings.idled ++ [c] } }
    else s
  | none => s

/-! ### Submission doorbells (R41, R42) -/

/-- R41: whether tail `t` is valid against head `h` and accepted tail `p`. -/
def sqTailOk (h p t order : Nat) : Bool :=
  let d := (t + 2 ^ 32 - h) % 2 ^ 32
  decide ((p + 2 ^ 32 - h) % 2 ^ 32 ≤ d ∧ d ≤ 2 ^ order)

/-- R41, R42: a submission tail reaches a tracked context.  DESIGN CHOICE: a new tail that reaches an idle context while it
is being spilled makes it a wait entry of the overflow queue, which CTX_OVERFLOW does not count (log entry 65). -/
def takeTail (s : State) (c t : Nat) : State :=
  match findCtx s c with
  | none => s
  | some x =>
    if sqTailOk x.sqHead x.sqTail (t % 2 ^ 32) x.sqOrder then
      updCtx s c (fun y => { y with sqTail := t % 2 ^ 32, spilling := if y.spilling = 1 ∧ y.sqTail ≠ t % 2 ^ 32 then 2 else y.spilling })
    else writeEntry s c (faultEntry (t % 2 ^ 32) 0x06)

/-- Doorbells taken in order. -/
def takeTails (s : State) (c : Nat) (ts : List Nat) : State := ts.foldl (fun t v => takeTail t c v) s

/-- A context becomes tracked. -/
def trackCtx (s : State) (x : Ctx) : State :=
  { s with rings := { s.rings with ctxs := s.rings.ctxs.filter (fun y => y.num != x.num) ++ [x]
                                   saved := s.rings.saved.filter (fun y => y.num != x.num)
                                   refused := s.rings.refused.filter (fun y => y != x.num) } }

/-- R599: the descriptors that a spilled context holds: those the part saved, where the save area still says so. -/
def savedHeld (s : State) (c : Nat) : List Held :=
  match s.rings.saved.find? (fun y => y.num == c) with
  | some y => if memBytes s.hostMem (saveAddr s c + 0x54) 420 = sequencerBytes y.held then y.held else []
  | none => []

/-- The last use of a tracked or spilled context. -/
def lastUseOf (s : State) (c : Nat) : Nat :=
  match findCtx s c, s.rings.saved.find? (fun y => y.num == c) with
  | some x, _ => x.lastUse
  | none, some x => x.lastUse
  | none, none => 0

/-- A spilled context as its save area and the saved descriptors describe it. -/
def savedCtx (s : State) (c : Nat) : Ctx := { ctxOfSave s c with held := savedHeld s c, lastUse := lastUseOf s c }

/-- R38: the load of a context is judged from its save area: refused, taken as fresh and halted, or loaded; the
doorbells that waited are then taken.  DESIGN CHOICE: where the load is refused or the context is taken as fresh, all
doorbells that waited are discarded with the first and none of the later is counted (log entry 65). -/
def finishLoad (s : State) (c : Nat) (tails : List Nat) : State :=
  if !hostPartOk s c then
    let s1 := countA s Reg.dbIgnored_count 1
    { s1 with rings := { s1.rings with ctxs := s1.rings.ctxs.filter (fun y => y.num != c),
                                       refused := if s1.rings.refused.contains c then s1.rings.refused else s1.rings.refused ++ [c] } }
  else if !devicePartZero s c && !checkOk s c then
    let fresh := { ctxOfSave s c with sqHead := 0, sqTail := 0, cqTail := 0, cqHead := 0, halted := false }
    writeEntry (trackCtx s fresh) c (faultEntry (tails.headD 0 % 2 ^ 32) 0x07)
  else takeTails (trackCtx s (savedCtx s c)) c tails

/-- The number of places that tracked contexts hold: a context being spilled has given up its place. -/
def placesUsed (s : State) : Nat := (s.rings.ctxs.filter (fun x => x.spilling = 0)).length

/-- The least recently used context among some. -/
def leastUsed (xs : List Ctx) : Option Ctx :=
  xs.foldl (fun b x => match b with
    | none => some x
    | some y => if x.lastUse < y.lastUse then some x else some y) none

/-- Contexts that may be spilled: neither loading nor already being spilled. -/
def spillable (s : State) : List Ctx := s.rings.ctxs.filter (fun x => !x.loading && x.spilling == 0)

/-- A context whose load has begun, with the doorbells that wait for it. -/
def loadingCtx (c : Nat) (tails : List Nat) (use : Nat) : Ctx :=
  { num := c, sqBase := 0, cqBase := 0, sqOrder := 0, cqOrder := 0, vector := 0
    counterRead := false, sqHead := 0, sqTail := 0, cqTail := 0, cqHead := 0, halted := false
    loading := true, tails := tails, spilling := 0, held := [], reserved := 0, lastUse := use }

/-- A context begins to load with doorbells that wait for it; `use` is its last use. -/
def startLoad (s : State) (c : Nat) (tails : List Nat) (use : Nat) : State :=
  { s with rings := { s.rings with ctxs := s.rings.ctxs ++ [loadingCtx c tails use] } }

/-- A context begins to be spilled: 1 toward untracked, 2 toward the overflow queue. -/
def startSpill (s : State) (c how : Nat) : State :=
  let s1 := updCtx s c (fun x => { x with spilling := how })
  { s1 with rings := { s1.rings with idled := s1.rings.idled.filter (fun n => n != c) } }

/-- R67: the overflow queue with an entry added, and PEAK raised. -/
def queueEntry (s : State) (e : OvqEntry) : State :=
  let s1 := { s with rings := { s.rings with ovq := s.rings.ovq ++ [e] } }
  setA s1 Reg.ovq_peak (max (getA s1 Reg.ovq_peak) s1.rings.ovq.length)

/-- R67 steps 2 to 4: the state in which a place has been made free for a context, where one of those steps applies. -/
def makePlace (s : State) : Option State :=
  if placesUsed s < 256 then some s
  else match leastUsed ((spillable s).filter (ctxIdle s)) with
    | some v => some (startSpill s v.num 1)
    | none =>
      match leastUsed ((spillable s).filter (ctxWaiting s)) with
      | some v => some (startSpill s v.num 2)
      | none => none

/-- The use of contexts advances by one. -/
def tickUse (s : State) : State := { s with rings := { s.rings with useClock := s.rings.useClock + 1 } }

/-- The entries of the overflow queue with the one of a context changed. -/
def updEntry (s : State) (c : Nat) (f : OvqEntry → OvqEntry) : State :=
  { s with rings := { s.rings with ovq := s.rings.ovq.map (fun e => if e.ctx == c then f e else e) } }

/-- R67: the doorbell of an untracked context finds a place, by the first of the steps that applies.  DESIGN CHOICE: step 1
replaces the tail of the entry without the check of R41, so that a lower tail takes back one announced while the context was
queued (log entry 65). -/
def placeContext (s0 : State) (c t : Nat) : State :=
  let s := tickUse s0
  let use := s.rings.useClock
  if s.rings.ovq.any (fun e => e.ctx == c) then updEntry s c (fun e => { e with tail := t, use := use })
  else match makePlace s with
    | some u => startLoad u c [t] use
    | none => countA (queueEntry s ⟨c, false, t, use⟩) Reg.ctxOverflow_count 1

/-- R44: whether a doorbell of context `c` is served. -/
def doorbellServed (s : State) (c : Nat) : Bool :=
  decide (c < getA s Reg.ctxCount_count) && getA s Reg.ringCtrl_enable == 1

/-- R41 to R44, R67: a submission doorbell. -/
def sqDoorbell (s0 : State) (c t : Nat) : State :=
  let s := noteMerge s0 landABase
  if !doorbellServed s c then countA s Reg.dbIgnored_count 1
  else match findCtx s c with
    | some x =>
      if x.loading then touchCtx (updCtx s c (fun y => { y with tails := y.tails ++ [t] })) c
      else noteIdle (touchCtx (takeTail s c t) c) c
    | none => placeContext s c (t % 2 ^ 32)

/-- SQ_DOORBELL (R41). -/
def execSqDoorbell (ctx tail : Nat) (host : List (Nat × List Byte)) (s : State) : Host.Outcome State Fault Refusal :=
  .next (sqDoorbell (hostWrites s host) ctx tail)

/-- CONTEXT_LOAD_DONE (R67, R38). -/
def execContextLoadDone (ctx : Nat) (s : State) : Host.Outcome State Fault Refusal :=
  .next (match findCtx s ctx with
    | some x => if x.loading then finishLoad s ctx x.tails else s
    | none => s)

/-- R34, R598: a tracked context's state goes to its save area and the context is no longer tracked; `how` 2 puts it
into the overflow queue as a wait entry. -/
def spillOut (s : State) (x : Ctx) (how : Nat) : State :=
  let s1 := writeSave s x (if x.halted then 5 else if how = 2 then 4 else 0)
  let s2 := { s1 with rings := { s1.rings with
    ctxs := s1.rings.ctxs.filter (fun y => y.num != x.num)
    idled := s1.rings.idled.filter (fun n => n != x.num)
    saved := s1.rings.saved.filter (fun y => y.num != x.num) ++
      (if x.held.isEmpty && !x.halted then [] else [{ x with spilling := 0, reserved := 0 }]) } }
  let s3 := countA s2 Reg.ctxSpills_count 1
  if how = 2 then queueEntry s3 ⟨x.num, true, x.sqTail, x.lastUse⟩ else s3

/-- CONTEXT_SPILL_DONE (R598). -/
def execContextSpillDone (ctx : Nat) (s : State) : Host.Outcome State Fault Refusal :=
  .next (match findCtx s ctx with
    | some x => if x.spilling ≠ 0 ∧ !ctxBusy s ctx then spillOut s x x.spilling else s
    | none => s)

/-- R69: the idle context that gives its place to a ready entry: the one that became idle first while an entry was ready.
DESIGN CHOICE: where none did, the least recently used of the idle ones that were kept (log entry 65). -/
def idleVictim (s : State) : Option Ctx :=
  let xs := (spillable s).filter (ctxIdle s)
  match (s.rings.idled.filterMap (fun n => xs.find? (fun x => x.num == n))).head? with
  | some x => some x
  | none => leastUsed xs

/-- R69: a ready entry leaves the overflow queue and its context begins to load. -/
def loadEntry (s : State) (e : OvqEntry) : State :=
  startLoad { s with rings := { s.rings with ovq := s.rings.ovq.filter (fun f => f.ctx != e.ctx) } } e.ctx [e.tail] e.use

/-- OVERFLOW_ENTRY_LOAD (R69).  DESIGN CHOICE: DRAINING does not keep a ready entry from being loaded (log entry 65). -/
def execOverflowEntryLoad (s : State) : Host.Outcome State Fault Refusal :=
  .next (match s.rings.ovq.find? (entryReady s) with
    | none => s
    | some e =>
      if placesUsed s < 256 then loadEntry s e
      else match idleVictim s with
        | some v => loadEntry (startSpill s v.num 1) e
        | none => s)

/-- R43: whether completion head `h` is valid for a context. -/
def cqHeadOk (x : Ctx) (h : Nat) : Bool :=
  decide ((h + 2 ^ 32 - x.cqHead) % 2 ^ 32 ≤ (x.cqTail + 2 ^ 32 - x.cqHead) % 2 ^ 32)

/-- R43: a completion head reaches a context that is not tracked, or whose load runs.  DESIGN CHOICE: it is judged against
the save area, whose CQ_HEAD and CHECK are rewritten at once; it loads no context (log entry 65). -/
def cqUntracked (s : State) (c h : Nat) : State :=
  let x := savedCtx s c
  if !(hostPartOk s c && (devicePartZero s c || checkOk s c)) || !cqHeadOk x h then countA s Reg.dbIgnored_count 1
  else if h = x.cqHead then s
  else
    let s1 := { s with rings := { s.rings with saved := s.rings.saved.map (fun y => if y.num == c then { y with cqHead := h } else y) } }
    writeSave s1 { x with cqHead := h } (rdHost s (saveAddr s c + 0x50) 4)

/-- R43, R44: a completion doorbell. -/
def cqDoorbell (s0 : State) (c h : Nat) : State :=
  let s := noteMerge s0 landABase
  if !doorbellServed s c then countA s Reg.dbIgnored_count 1
  else match findCtx s c with
    | some x =>
      if x.loading then touchCtx (cqUntracked s c (h % 2 ^ 32)) c
      else if cqHeadOk x (h % 2 ^ 32) then touchCtx (updCtx s c (fun y => { y with cqHead := h % 2 ^ 32 })) c
      else countA s Reg.dbIgnored_count 1
    | none =>
      let s1 := tickUse s
      cqUntracked (updEntry s1 c (fun e => { e with use := s1.rings.useClock })) c (h % 2 ^ 32)

/-- CQ_DOORBELL (R43). -/
def execCqDoorbell (ctx head : Nat) (host : List (Nat × List Byte)) (s : State) : Host.Outcome State Fault Refusal :=
  .next (cqDoorbell (hostWrites s host) ctx head)

/-- R66: whether the gap since a vector's last message has ended. -/
def gapEnded (s : State) (vector : Nat) : Bool :=
  match s.rings.lastMsg.find? (fun p => p.1 == vector) with
  | some p => timeCome s (p.2 + getA s Reg.msixGap_us * 1000)
  | none => true

/-- MSIX_GAP_EXPIRE (R66). -/
def execMsixGapExpire (vector : Nat) (s : State) : Host.Outcome State Fault Refusal :=
  .next (
    if s.rings.merged.contains vector && gapEnded s vector then
      { s with rings := { s.rings with
          merged := s.rings.merged.filter (fun v => v != vector)
          lastMsg := (vector, s.time.tai) :: s.rings.lastMsg.filter (fun q => q.1 != vector)
          msix := s.rings.msix ++ [vector] } }
    else s)

/-! ### The CTX_CTRL actions (R74) -/

/-- R74: a tracked context after an action cleared its halt: one that is being spilled and has work waiting goes to the
overflow queue. -/
def resumedCtx (s : State) (y : Ctx) : Ctx :=
  { y with spilling := if y.spilling = 1 && !ctxIdle s y then 2 else y.spilling }

/-- The halted context of a number whose state is in its save area, with the tail that an entry of the overflow queue
announces where R41 accepts it. -/
def spilledHalted (s : State) (c : Nat) : Option Ctx :=
  if hostPartOk s c && checkOk s c && (ctxOfSave s c).halted then
    let x := savedCtx s c
    match s.rings.ovq.find? (fun e => e.ctx == c) with
    | some e => some (if sqTailOk x.sqHead x.sqTail (e.tail % 2 ^ 32) x.sqOrder then { x with sqTail := e.tail % 2 ^ 32 } else x)
    | none => some x
  else none

/-- R74: a spilled context whose halt an action has cleared.  DESIGN CHOICE: it is tracked again in a place made free as
R67 makes one, and its entry of the overflow queue is taken; where no place can be made free its save area is rewritten and it
waits in the overflow queue (log entry 65). -/
def placeResumed (s : State) (y : Ctx) : State :=
  let entry := s.rings.ovq.find? (fun e => e.ctx == y.num)
  match makePlace s with
  | some u =>
    let u1 := trackCtx { u with rings := { u.rings with ovq := u.rings.ovq.filter (fun e => e.ctx != y.num) } } y
    takeTails u1 y.num (entry.toList.map (fun e => e.tail))
  | none =>
    let s1 := writeSave s y 4
    let s2 := { s1 with rings := { s1.rings with
      saved := s1.rings.saved.filter (fun z => z.num != y.num) ++ (if y.held.isEmpty then [] else [y]) } }
    if entry.isSome then updEntry s2 y.num (fun e => { e with wait := true })
    else queueEntry s2 ⟨y.num, true, y.sqTail, y.lastUse⟩

/-- R74: an action on a halted context, which `f` changes; none where the action does not apply. -/
def onHalted (s : State) (c : Nat) (f : Ctx → Option Ctx) : State :=
  match findCtx s c with
  | some x =>
    if x.halted && !x.loading then
      (match f x with
       | some y => updCtx s c (fun _ => resumedCtx s y)
       | none => s)
    else s
  | none =>
    match (spilledHalted s c).bind f with
    | some y => placeResumed s y
    | none => s

/-- R74: CTX_CTRL action 1. -/
def ctxResume (s : State) (c : Nat) : State := onHalted s c (fun x => some { x with halted := false })

/-- R74: the index of the oldest descriptor of a context that has not begun. -/
def oldestUnbegun (x : Ctx) : Nat :=
  match x.held with
  | h :: _ => h.idx
  | [] => x.sqHead

/-- R74: CTX_CTRL action 2. -/
def ctxResumeAtHead (s : State) (c head : Nat) : State :=
  onHalted s c (fun x =>
    let b := oldestUnbegun x
    if (head + 2 ^ 32 - b) % 2 ^ 32 ≤ (x.sqTail + 2 ^ 32 - b) % 2 ^ 32 then
      some { x with halted := false, held := [], sqHead := head % 2 ^ 32 }
    else none)

/-- R74: the device bytes of a save area are written as zero and the context is untracked. -/
def resetContext (s : State) (c : Nat) : State :=
  let s1 := wrHost s (bytesWrites (saveAddr s c + 0x40) (List.replicate 448 0))
  { s1 with rings := { s1.rings with
      ctxs := s1.rings.ctxs.filter (fun y => y.num != c)
      saved := s1.rings.saved.filter (fun y => y.num != c)
      ovq := s1.rings.ovq.filter (fun e => e.ctx != c)
      refused := s1.rings.refused.filter (fun y => y != c) } }

/-- R74: whether action 3 acts on context `c`: it is halted, tracked or spilled, or its load was refused. -/
def resettable (s : State) (c : Nat) : Bool :=
  match findCtx s c with
  | some x => x.halted && !x.loading
  | none => s.rings.refused.contains c || (hostPartOk s c && checkOk s c && (ctxOfSave s c).halted)

/-- R74: CTX_CTRL action 3; while a descriptor of the context runs, BUSY stays 1. -/
def ctxReset (s : State) (c : Nat) : State :=
  if !resettable s c then s
  else if ctxBusy s c then setA (updCtx s c (fun y => { y with held := [] })) Reg.ctxCtrl_busy 1
  else resetContext s c

/-- R74: an action 3 that waited is carried out once no descriptor of its context runs. -/
def finishReset (s : State) : State :=
  let c := getA s Reg.ctxCtrl_context
  if getA s Reg.ctxCtrl_busy = 1 ∧ getA s Reg.ctxCtrl_action = 3 ∧ !ctxBusy s c then
    setA (resetContext s c) Reg.ctxCtrl_busy 0
  else s

/-! ### The end of ring service (R73) -/

/-- R73: RING_CTRL.ENABLE is cleared and DRAINING is set. -/
def ringDisable (s : State) : State :=
  if getA s Reg.ringCtrl_enable = 1 then setA (setA s Reg.ringCtrl_enable 0) Reg.ringCtrl_draining 1 else s

/-- R73: an entry of the overflow queue is written back to its save area.  DESIGN CHOICE: where the save area fails the
checks of R38 the context is treated as one whose load was refused, so that its page reads halted (log entry 65). -/
def writeBack (s : State) (c : Nat) (tails : List Nat) : State :=
  let s1 := finishLoad s c tails
  match findCtx s1 c with
  | some x =>
    let s2 := writeSave s1 x (if x.halted then 5 else 0)
    { s2 with rings := { s2.rings with
        ctxs := s2.rings.ctxs.filter (fun y => y.num != c)
        saved := s2.rings.saved.filter (fun y => y.num != c) ++ (if x.held.isEmpty && !x.halted then [] else [x]) } }
  | none => s1

/-- R73: a tracked context is spilled at the end of the drain, one whose load runs once that has ended. -/
def drainSpill (s : State) (x : Ctx) : State :=
  if x.loading then
    let s1 := finishLoad s x.num x.tails
    match findCtx s1 x.num with
    | some y => spillOut s1 y 1
    | none => s1
  else spillOut s x 1

/-- RING_DRAIN_END (R73). -/
def execRingDrainEnd (s : State) : Host.Outcome State Fault Refusal :=
  .next (
    if getA s Reg.ringCtrl_draining = 1 ∧ s.ops.isEmpty then
      let s1 := s.rings.ctxs.foldl drainSpill s
      let s2 := s1.rings.ovq.foldl (fun t e => writeBack t e.ctx [e.tail]) s1
      setA { s2 with rings := { s2.rings with ovq := [], idled := [] } } Reg.ringCtrl_draining 0
    else s)

/-- NOP (R53): ends with DONE. -/
def execNop (ctx idx : Nat) (s : State) : Host.Outcome State Fault Refusal :=
  .next (onOp s ctx idx 0x0F00 (fun _ => endOp s ctx idx ⟨.done, 0⟩))

end Sys2Proof.Machine
end

