-- ==== Sys2Proof/Machine/Time.lean ====
section
/-!
DEFINITION. Time: the cadence tick, GNSS, following and failover, the time pins, the slot table's windows, and the
operations TICK_WAIT and TIME_STAMP (R336 to R366, R31).
-/

namespace Sys2Proof.Machine

/-- R353: the tick period in ns. -/
def tickPeriod (s : State) : Nat := getA s Reg.tickCtrl_period * 50000

/-- The last tick id taken (R365). -/
def tickNow (s : State) : Nat := getA2 s Reg.tickNow_idLo Reg.tickNow_idHi

/-- R365: the registers TIME_NOW read the TAI count of the time unit. -/
def setTai (s : State) (t : Nat) : State := { s with time := { s.time with tai := t % 2 ^ 64 } }

/-- R546: whether a dump is due at tick `t`. -/
def dumpDueAt (s : State) (t : Nat) : Bool :=
  let e := getA s Reg.evdCtrl_every
  e != 0 && getA s Reg.evdCtrl_cap != 0 && t % e == 0

/-- R535: KIND and INDEX of a block. -/
def blockId : Blk → Nat
  | .dev => 0
  | .cell n => 1 + 256 * n
  | .mill m => 2 + 256 * m
  | .landA => 3
  | .landB => 4

/-- R548: the entry of a block in a dump. -/
def dumpEntry (s : State) (b : Blk) : List Byte :=
  let a := blkBase b
  (List.range 16).flatMap (fun i => leBytes 4 (getF s a Reg.evc_count i)) ++
    (List.range 16).flatMap (fun i => leBytes 1 (getF s a Reg.evsel_src i)) ++
    leBytes 4 (getF s a Reg.evctrl_en 0 + getF s a Reg.evctrl_chain 0 * 65536) ++ leBytes 4 (getF s a Reg.evovf_ovf 0) ++
    leBytes 4 (blockId b) ++ List.replicate 36 0

/-- R548: the blocks of a dump, in order. -/
def dumpBlocks : List Blk := (List.range 128).map Blk.cell ++ (List.range 4).map Blk.mill ++ [.landA, .landB]

/-- R355, R546: tick `k` is taken, and every block samples its counters where a dump is due. -/
def takeTick (s : State) (k : Nat) : State :=
  let s1 := set2 s landABase Reg.tickNow_idLo Reg.tickNow_idHi 0 k
  { s1 with time := { s1.time with ticksTaken := s1.time.ticksTaken + 1, nextTick := k + 1 }
            dumps := s1.dumps ++
              (if dumpDueAt s k then [(k, k * tickPeriod s, dumpBlocks.flatMap (dumpEntry s))] else []) }

/-- R354, R31: whether ticks are taken. -/
def ticksRun (s : State) : Bool := s.time.running && getA s Reg.tickCtrl_run == 1 && !s.time.tickDead

/-- TICK (R355): the time unit reaches the next boundary and the tick is taken. -/
def execTick (s : State) : Host.Outcome State Fault Refusal :=
  .next (
    if ticksRun s then
      let k := s.time.nextTick
      takeTick (setTai s (max s.time.tai (k * tickPeriod s))) k
    else s)

/-- R354: the effect of a change of RUN: no tick is taken before the next boundary. -/
def runChanged (s : State) (wasRun : Bool) : State :=
  if getA s Reg.tickCtrl_run = 1 ∧ !wasRun then
    { s with time := { s.time with nextTick := s.time.tai / tickPeriod s + 1 } }
  else s

/-- R343: one TCLK cycle of the time unit: 1 ns, and at most 1 ns of slew in every 10⁶. -/
def tickTai (s : State) : State :=
  if !s.time.running then s
  else
    let due : Bool := decide (999999 ≤ s.time.slewClock) && decide (s.time.slew ≠ 0)
    let inc := if due then (if 0 < s.time.slew then 2 else 0) else 1
    let slew := if due then (if 0 < s.time.slew then s.time.slew - 1 else s.time.slew + 1) else s.time.slew
    let clock := if due then 0 else min 999999 (s.time.slewClock + 1)
    { s with time := { s.time with tai := (s.time.tai + inc) % 2 ^ 64, slew := slew, slewClock := clock } }

/-- R355: the tick whose boundary the time unit has reached is taken. -/
def tickIfDue (s : State) : State :=
  if ticksRun s && decide (s.time.nextTick * tickPeriod s ≤ s.time.tai) then takeTick s s.time.nextTick else s

/-- TICK_PATH_FAIL (R31): every operation in flight ends with DEVICE_FAULT, and no further tick is taken. -/
def execTickPathFail (s : State) : Host.Outcome State Fault Refusal :=
  .next (let s1 := faultAll s 0x0F []
         { s1 with time := { s1.time with tickDead := true } })

/-- R362: the tick that ends a TICK_WAIT: absolute, or counted from the tick at which it began. -/
def waitTick (_s : State) (o : Op) : Nat :=
  if dfld o.d 0x28 0 0 = 0 then dfld o.d 0x20 63 0
  else o.tick + dfld o.d 0x20 63 0

/-- TICK_WAIT (R362, R354): ends once its tick has been taken, while ticks are taken. -/
def execTickWait (ctx idx : Nat) (s : State) : Host.Outcome State Fault Refusal :=
  .next (onOp s ctx idx 0x0F10 (fun o =>
    if getA s Reg.tickCtrl_run = 1 ∧ waitTick s o ≤ tickNow s then endOp s ctx idx ⟨.done, 0⟩ else s))

/-- The seconds in holdover (R350, R366). -/
def holdoverSec (s : State) : Nat :=
  if getB s Reg.timeStatus_state = 4 then min (2 ^ 32 - 1) ((s.time.tai - s.time.holdFrom) / 1000000000) else 0

/-- R366: the word TIME_STATUS. -/
def timeStatusWord (s : State) : Nat :=
  getB s Reg.timeStatus_state + getB s Reg.timeStatus_activeRank * 8 + getB s Reg.timeStatus_activeLead * 65536

/-- R362: the 32 bytes of a TIME_STAMP. -/
def stampBytes (s : State) : List Byte :=
  leBytes 8 s.time.tai ++ leBytes 8 (tickNow s) ++ leBytes 4 (timeStatusWord s) ++ leBytes 4 (holdoverSec s) ++ leBytes 8 0

/-- R362: what a TIME_STAMP writes is taken as it begins. -/
def stampBegin (s : State) (ctx idx : Nat) : State := updOp s ctx idx (fun o => { o with work := .stamp (stampBytes s) })

/-! ### Links that carry Chain frames -/

/-- A numbering with nothing sent or accepted. -/
def seqIdle : SeqState := ⟨1, [], 0, [], false, false, false, [], 0, 0⟩

/-- A link with nothing under way. -/
def linkIdle : LinkRt := ⟨seqIdle, [], 0⟩

/-- The runtime of link `n`. -/
def linkGet (s : State) (n : Nat) : LinkRt := sparseGet linkIdle n s.links

/-- The runtime of link `n` written. -/
def linkSet (s : State) (n : Nat) (l : LinkRt) : State := { s with links := sparseSet linkIdle n l s.links }

/-- R392: whether link `n` is UP. -/
def linkUp (s : State) (n : Nat) : Bool := getL s Reg.linkState_state n == 2

/-- R393: whether link `n`'s group is in Near mode. -/
def linkNear (s : State) (n : Nat) : Bool := getG s Reg.groupCtrl_mode (n / 8) == 0

/-- The UP Near links, ascending. -/
def upNearLinks (s : State) : List Nat := (List.range 96).filter (fun n => linkUp s n && linkNear s n)

/-- R403: a Chain frame waits for link `n`'s next slot. -/
def sendChain (s : State) (n : Nat) (f : ChainFrame) : State :=
  let l := linkGet s n
  linkSet s n { l with chainq := l.chainq ++ [f] }

/-- A Chain frame for every UP Near link. -/
def sendChainAll (s : State) (f : ChainFrame) : State := (upNearLinks s).foldl (fun t n => sendChain t n f) s

/-! ### Leads (R344, R349, R350) -/

/-- R344: whether this chip is a locked Lead. -/
def selfLocked (s : State) : Bool := getB s Reg.timeCtrl_lead == 1 && getB s Reg.timeStatus_state == 2

/-- R403: whether a chip is the neighbour on an UP link. -/
def adjacent (s : State) (chip : Nat) : Bool := s.chain.neigh.any (fun n => n.chip == chip && linkUp s n.link)

/-- R349: whether a Lead still answers: a neighbour of the active Lead goes by its time frames, every other chip by what it is
told. -/
def leadAlive (s : State) (l : LeadSeen) : Bool :=
  decide (s.time.tai ≤ (if adjacent s l.chip && getB s Reg.timeStatus_activeLead == l.chip then s.time.leadFrame else l.heard) + 3000000)

/-- R344: the locked Leads that this chip knows, itself included, as rank and chip: those that say so, and those that another
chip follows. -/
def lockedLeads (s : State) : List (Nat × Nat) :=
  (if selfLocked s then [(getB s Reg.timeCtrl_leadRank, s.chip)] else []) ++
    (s.time.leads.filter (fun l => (l.state == 2 || l.state == 3) && leadAlive s l)).map (fun l => (l.rank, l.chip))

/-- R344: of two Leads, the one of lower rank, or of lower chip number at equal rank. -/
def betterLead (a b : Nat × Nat) : Nat × Nat := if b.1 < a.1 ∨ (b.1 = a.1 ∧ b.2 < a.2) then b else a

/-- R344: the active Lead among the locked ones. -/
def activeLead (s : State) : Option (Nat × Nat) :=
  match lockedLeads s with
  | [] => none
  | x :: r => some (r.foldl betterLead x)

/-- R366, R349: the active Lead in force; a change counts. -/
def setActive (s : State) (l : Nat × Nat) : State :=
  let changed : Bool := getB s Reg.timeStatus_activeLead != l.2 || getB s Reg.timeStatus_activeRank != l.1
  let s1 := setB (setB s Reg.timeStatus_activeRank l.1) Reg.timeStatus_activeLead l.2
  if changed then countB { s1 with time := { s1.time with leadFrame := s1.time.tai } } Reg.timeFailovers_count 1 else s1

/-- R350: this chip, the last active Lead, enters holdover. -/
def enterHoldover (s : State) : State :=
  let s1 := setB s Reg.timeStatus_state 4
  { s1 with time := { s1.time with holdFrom := s1.time.tai } }

/-- R346, R349, R350: a locked Lead loses its lock. -/
def loseLock (s : State) : State :=
  if getB s Reg.timeStatus_state ≠ 2 then s
  else
    let s0 := { s with time := { s.time with gnss := { s.time.gnss with good := 0 } } }
    let s1 := setB s0 Reg.timeStatus_state 3
    match activeLead s1 with
    | some l => setActive s1 l
    | none => if getB s Reg.timeStatus_activeLead = s.chip then enterHoldover s1 else s1

/-- R346: whether this chip listens to its GNSS inputs. -/
def gnssUsed (s : State) : Bool := getB s Reg.timeCtrl_lead == 1 && getB s Reg.timeCtrl_gnssEn == 1

/-- The GNSS state changed. -/
def setGnss (s : State) (g : Gnss) : State := { s with time := { s.time with gnss := g } }

/-- R343: the count steps by an offset. -/
def stepBy (s : State) (off : Int) : State :=
  let t : Int := (s.time.tai : Int) + off
  { s with time := { s.time with tai := t.toNat % 2 ^ 64, slew := 0 } }

/-- R343: the count is to be slewed by an offset. -/
def slewBy (s : State) (off : Int) : State := { s with time := { s.time with slew := off } }

/-- R347: a follower's offset corrected: a step where the tick does not run and the offset exceeds 1 µs, a slew otherwise. -/
def followBy (s : State) (off : Int) : State :=
  if getA s Reg.tickCtrl_run = 0 ∧ 1000 < off.natAbs then stepBy s off else slewBy s off

/-- R344: whether another chip is the active Lead, so that this one follows. -/
def otherLeads (s : State) : Bool :=
  match activeLead s with
  | some l => l.2 != s.chip
  | none => false

/-- R346: the effect of a PPS edge, measured off by `off` (the time unit minus the edge): a Lead that acquires its time steps
(R343), one that follows another only measures, and any other slews. -/
def ppsMeasured (s : State) (off : Int) : State :=
  let st := getB s Reg.timeStatus_state
  let s1 := setB s Reg.timeOffset_ns (ofSigned 32 off)
  let locked : Bool := st == 2
  if locked && decide (1000 < off.natAbs) then loseLock (countB s1 Reg.gnssErrs_ppsMissing 1)
  else
    let steps : Bool := decide (st ≤ 1) && getA s Reg.tickCtrl_run == 0 && decide (99 < off.natAbs) && !otherLeads s
    let s2 := if steps then stepBy s1 (-off) else if otherLeads s then s1 else slewBy s1 (-off)
    let good := if steps || decide (off.natAbs < 100) then s.time.gnss.good + 1 else 0
    let s3 := setGnss s2 { s2.time.gnss with good := good, missedPps := 0, armed := false }
    if !locked && decide (3 ≤ good) then
      let s4 := setB s3 Reg.timeStatus_state 2
      match activeLead s4 with
      | some l => setActive s4 l
      | none => s4
    else s3

/-- R345, R346: how far the time unit is from the edge of the second that a message has named, or, without one, from the
nearest edge that it expects. -/
def ppsOffset (s : State) : Int :=
  let t : Int := (s.time.tai : Int) - (getB s Reg.gnssDelay_ns : Int)
  if s.time.gnss.armed then t - ((s.time.gnss.lastSec * 1000000000 : Nat) : Int)
  else (t + 500000000) % 1000000000 - 500000000

/-- GNSS_PPS_EDGE (R346): the rising edge, at the present TAI count. -/
def execGnssPpsEdge (s : State) : Host.Outcome State Fault Refusal :=
  .next (
    if !gnssUsed s then s
    else if s.time.gnss.armed || getB s Reg.timeStatus_state == 2 then ppsMeasured s (ppsOffset s)
    else setGnss s { s.time.gnss with missedPps := 0, good := 0 })

/-- R346: a message that is missing, invalid or names the wrong second; the next one is to name the second after it. -/
def badMessage (s : State) : State :=
  let n := s.time.gnss.missedTod + 1
  let s1 := setGnss (countB s Reg.gnssErrs_todBad 1) { s.time.gnss with lastSec := s.time.gnss.lastSec + 1, missedTod := n, armed := false, good := 0 }
  if 2 ≤ n then loseLock s1 else s1

/-- R345: whether a time-of-day message is well formed: SYNC, VALID and CRC. -/
def todOk (m : List Byte) : Bool :=
  m.length == 12 && leNat (m.take 2) == 0x4454 && bit ((m.getD 2 0).toNat) 0 && leNat (m.drop 10) == crc16 (m.take 10)

/-- GNSS_TOD_MESSAGE (R345, R346). -/
def execGnssTodMessage (message : List Byte) (s : State) : Host.Outcome State Fault Refusal :=
  .next (
    if !gnssUsed s then s
    else
      let sec := leNat ((message.drop 3).take 6)
      let g := s.time.gnss
      if !todOk message || (getB s Reg.timeStatus_state == 2 && sec != g.lastSec + 1) then badMessage s
      else setGnss s { g with lastSec := sec, armed := true, missedTod := 0, good := if sec = g.lastSec + 1 then g.good else 0 })

/-- GNSS_PPS_TIMEOUT (R346): an expected edge, or an expected message, did not arrive. -/
def execGnssPpsTimeout (edge : Bool) (s : State) : Host.Outcome State Fault Refusal :=
  .next (
    if !gnssUsed s then s
    else if edge then
      let n := s.time.gnss.missedPps + 1
      let s1 := setGnss (countB s Reg.gnssErrs_ppsMissing 1) { s.time.gnss with missedPps := n, armed := false, good := 0 }
      if 2 ≤ n then loseLock s1 else s1
    else badMessage s)

/-- LEAD_FAILOVER (R349, R350). -/
def execLeadFailover (s : State) : Host.Outcome State Fault Refusal :=
  .next (
    match activeLead s with
    | some l => if getB s Reg.timeStatus_state = 5 then s else setActive s l
    | none =>
      if getB s Reg.timeStatus_activeLead = s.chip ∧ getB s Reg.timeCtrl_lead = 1 ∧
          (getB s Reg.timeStatus_state = 2 ∨ getB s Reg.timeStatus_state = 3) then enterHoldover s
      else s)

/-! ### Following (R347) -/

/-- R347: of two neighbours, the one nearer the active Lead, or of lower chip number at equal hops. -/
def nearerLead (a b : Neigh) : Neigh :=
  if b.hopsLead < a.hopsLead ∨ (b.hopsLead = a.hopsLead ∧ b.chip < a.chip) then b else a

/-- R347, R404: the parent that a follower disciplines its time by, within reach and on an UP link. -/
def timeParent (s : State) : Option Neigh :=
  match s.chain.neigh.filter (fun n => decide (n.hopsLead < 2046) && linkUp s n.link) with
  | [] => none
  | x :: r => some (r.foldl nearerLead x)

/-- R344: whether this chip follows: it is not the active Lead, locked, in holdover or host-set. -/
def follows (s : State) : Bool :=
  let st := getB s Reg.timeStatus_state
  st != 5 && !((st == 2 || st == 4) && getB s Reg.timeStatus_activeLead == s.chip)

/-- TIME_EXCHANGE_TIMER (R347): a follower sends a timed request to its parent; t1 is stamped as the frame leaves. -/
def execTimeExchangeTimer (s : State) : Host.Outcome State Fault Refusal :=
  .next (
    match timeParent s with
    | some p =>
      if follows s then
        let q := (s.time.exchSeq + 1) % 4096
        sendChain { s with time := { s.time with exchSeq := q, exch := some ⟨p.link, q, 0, 0, 0, 0⟩ } } p.link
          (.time 4 q 0)
      else s
    | none => s)

/-- R347: the offset of the four stamps; integer division truncates toward zero (R8). -/
def exchangeOffset (t1 t2 t3 t4 : Nat) : Int := Int.tdiv (((t2 : Int) - t1) - ((t4 : Int) - t3)) 2

/-- R347: a Chain frame is stamped as it leaves on a link: t1 in a request, t3 in the second reply. -/
def stampOut (s : State) (link : Nat) (f : ChainFrame) : State × ChainFrame :=
  match f with
  | .time kind seq stamp =>
    if kind = 4 then
      ({ s with time := { s.time with exch := s.time.exch.map (fun x =>
          if x.link = link ∧ x.seq = seq then { x with t1 := s.time.tai } else x) } }, .time 4 seq s.time.tai)
    else if kind = 6 then (s, .time 6 seq s.time.tai)
    else (s, .time kind seq stamp)
  | _ => (s, f)

/-- R349: a time frame of the active Lead arrives. -/
def leadFrameSeen (s : State) (link : Nat) : State :=
  if s.chain.neigh.any (fun n => n.link == link && n.chip == getB s Reg.timeStatus_activeLead) then
    { s with time := { s.time with leadFrame := s.time.tai } }
  else s

/-- R347: a time frame of `kind` 4, 5 or 6 on a link, stamped at its arrival: the parent replies, or the follower corrects its
count. -/
def timeFrame (s0 : State) (link kind seq stamp : Nat) : State :=
  let s := leadFrameSeen s0 link
  if kind = 4 then sendChain (sendChain s link (.time 5 seq s.time.tai)) link (.time 6 seq 0)
  else match s.time.exch with
    | none => s
    | some x =>
      if x.link ≠ link ∨ x.seq ≠ seq then s
      else if kind = 5 then { s with time := { s.time with exch := some { x with t2 := stamp, stage := 1 } } }
      else if kind = 6 ∧ x.stage = 1 then
        let off := exchangeOffset x.t1 x.t2 stamp s.time.tai
        let s1 := followBy (setB s Reg.timeOffset_ns (ofSigned 32 off)) off
        let s2 := { s1 with time := { s1.time with exch := none } }
        if follows s2 && getB s2 Reg.timeStatus_state != 2 then setB s2 Reg.timeStatus_state 3 else s2
      else s

/-- TIME_FRAME (R347). -/
def execTimeFrame (link kind seq stamp : Nat) (s : State) : Host.Outcome State Fault Refusal :=
  .next (timeFrame s link kind seq stamp)

/-- R345, R351: the message for the TAI second `sec`. -/
def todMessage (sec : Nat) (valid hold : Bool) : List Byte :=
  let body := leBytes 2 0x4454 ++ leBytes 1 (nat01 valid + 2 * nat01 hold) ++ leBytes 6 sec ++ leBytes 1 0
  body ++ leBytes 2 (crc16 body)

/-- R351: whether the time pins are driven. -/
def pinsDriven (s : State) : Bool := decide (2 ≤ getB s Reg.timeStatus_state ∧ getB s Reg.timeStatus_state ≤ 4)

/-- PPS_OUT_SECOND (R351): at the start of a TAI second PPS_OUT rises, and 500 ms before the next one TOD_OUT names it. -/
def execPpsOutSecond (s : State) : Host.Outcome State Fault Refusal :=
  .next (
    let st := getB s Reg.timeStatus_state
    if !pinsDriven s then s
    else if s.time.tai % 1000000000 = 0 then
      { s with time := { s.time with ppsUntil := s.time.tai + getB s Reg.timeCtrl_ppsWidth * 10000 } }
    else if s.time.tai % 1000000000 = 500000000 then
      { s with time := { s.time with todOut := todMessage (s.time.tai / 1000000000 + 1) (st != 4) (st == 4) } }
    else s)

/-- R351: the last message on the line TOD_OUT; none where the line is held low. -/
def todLine (s : State) : List Byte := if pinsDriven s then s.time.todOut else []

/-- R351: whether the pin PPS_OUT is high. -/
def ppsOut (s : State) : Bool := decide (s.time.tai < s.time.ppsUntil) && pinsDriven s

/-- R352: whether this chip's state allows a write of TIME_SET. -/
def timeSetOk (s : State) : Bool :=
  (getB s Reg.timeStatus_state == 0 || getB s Reg.timeStatus_state == 5) && getA s Reg.tickCtrl_run == 0 &&
    getB s Reg.timeCtrl_lead == 1 && getB s Reg.timeCtrl_gnssEn == 0

/-- R352: TIME_SET: the count steps once where the chip's state allows, else SET_REFUSED is set. -/
def timeSet (s : State) (ns : Nat) : State :=
  if timeSetOk s then
    let s1 := setB (setTai s ns) Reg.timeStatus_state 5
    setB (setB s1 Reg.timeStatus_activeLead s.chip) Reg.timeStatus_activeRank (getB s Reg.timeCtrl_leadRank)
  else setB s Reg.timeCtrl_setRefused 1

/-! ### The slot table (R359 to R361) -/

/-- A slot table entry. -/
structure SlotEntry where
  start : Nat
  len : Nat
  groups : Nat
  slot : Nat
  deriving DecidableEq, Repr

/-- R359: entry `e` of the slot table. -/
def slotEntry (s : State) (e : Nat) : SlotEntry :=
  let a := getA2 s Reg.slotBase_baseLo Reg.slotBase_baseHi + e * 16
  ⟨rdNat s a 3, rdNat s (a + 4) 3, rdNat s (a + 8) 2 % 4096, rdNat s (a + 12) 1⟩

/-- R360: whether two windows share a group and overlap. -/
def slotsClash (x y : SlotEntry) : Bool :=
  (x.groups &&& y.groups) != 0 && meets x.start (x.start + x.len) y.start (y.start + y.len)

/-- R360: whether entry `e` is at fault; of two that overlap, both are. -/
def slotBad (s : State) (n e : Nat) : Bool :=
  let x := slotEntry s e
  decide (tickPeriod s < x.start + x.len) || x.groups == 0 || x.slot == 0 || decide (x.len < 1000) ||
    (List.range n).any (fun f => f != e && slotsClash x (slotEntry s f))

/-- R360: the slot table is checked and put in force, or refused with the lowest entry at fault. -/
def slotEnable (s : State) : State :=
  let n := min 256 (getA s Reg.slotCtrl_count)
  match (List.range n).find? (slotBad s n) with
  | some e => setA (setA (setA s Reg.slotCtrl_enable 0) Reg.slotCtrl_err 1) Reg.slotCtrl_errEntry e
  | none => setA (setA s Reg.slotCtrl_enable 1) Reg.slotCtrl_err 0

/-- CELL_WAKE (R338, R339): a wake request reaches a Cell, whose ACLK starts where it has stopped. -/
def execCellWake (cell : Nat) (s : State) : Host.Outcome State Fault Refusal :=
  .next (if cell < 128 then noteMerge (cellSet s cell { cellGet s cell with stopped := false }) (cellBase cell) else s)

end Sys2Proof.Machine
end

