-- ==== Sys2Proof/Machine/Fabric.lean ====
section
/-!
DEFINITION. Routing within a stand: the axis table, next hops, messages to other chips, the checks of AXIS_CTRL and
ROUTE_CTRL, semaphores and the operations SEM_ADD and SEM_SET (R314 to R317, R396 to R402, R423).
-/

namespace Sys2Proof.Machine

/-! ### The axis table (R314 to R317) -/

/-- R314: LEN of axis `a`. -/
def axisLen (s : State) (a : Nat) : Nat := getF s landABase Reg.axis_len a

/-- R315: stride of axis `a`. -/
def axisStride (s : State) (a : Nat) : Nat := (List.range a).foldl (fun p b => p * axisLen s b) 1

/-- R315: the coordinate of chip `c` on axis `a`. -/
def coordOf (s : State) (c a : Nat) : Nat := c / axisStride s a % axisLen s a

/-- R315: the chip at `d` steps from chip `c` on axis `a`. -/
def axisStep (s : State) (c a d : Nat) : Nat :=
  c - coordOf s c a * axisStride s a + (coordOf s c a + d) % axisLen s a * axisStride s a

/-- R315: NEXT on axis `a`. -/
def axisNext (s : State) (c a : Nat) : Nat := axisStep s c a 1

/-- R315: PREV on axis `a`. -/
def axisPrev (s : State) (c a : Nat) : Nat := axisStep s c a (axisLen s a - 1)

/-- R317: the product of the six LEN values. -/
def axisProduct (s : State) : Nat := axisStride s 6

/-- R314: the mask PLUS or MINUS of an axis. -/
def axisMask (s : State) (plus : Bool) (a : Nat) : Nat :=
  getF s landABase (if plus then Reg.axis_plus else Reg.axis_minus) a

/-- R393: the groups in Far mode, as a mask. -/
def farGroups (s : State) : Nat := (List.range 12).foldl (fun m g => m + getG s Reg.groupCtrl_mode g * 2 ^ g) 0

/-- R317: whether axis `a` breaks a condition of its own: LEN 1 with CUT or a mask, LEN above 1 without them, a Far
group in a mask, or one group in both its masks with LEN not 2. -/
def axisBad (s : State) (a : Nat) : Bool :=
  let len := axisLen s a
  let cut := getF s landABase Reg.axis_cut a
  let p := axisMask s true a
  let m := axisMask s false a
  (decide (len = 1) && (cut != 0 || p != 0 || m != 0)) ||
    (decide (1 < len) && (cut == 0 || decide (5 ≤ cut) || p == 0 || m == 0)) ||
    (farGroups s &&& (p ||| m)) != 0 || (decide (len ≠ 2) && (p &&& m) != 0)

/-- R317: whether axis `a` shares a group with a lower axis. -/
def axisShares (s : State) (a : Nat) : Bool :=
  (List.range a).any (fun b =>
    ((axisMask s true a ||| axisMask s false a) &&& (axisMask s true b ||| axisMask s false b)) != 0)

/-- R317: the highest axis with LEN above 1. -/
def topAxis (s : State) : Nat := ((List.range 6).filter (fun a => decide (1 < axisLen s a))).foldl max 0

/-- R317: the product exceeds 65,536, or is not greater than the chip's own number. -/
def axisProductBad (s : State) : Bool := decide (65536 < axisProduct s ∨ axisProduct s ≤ s.chip)

/-- R317: the sum of floor(LEN / 2) exceeds 2,046. -/
def axisHopsBad (s : State) : Bool := decide (2046 < (List.range 6).foldl (fun n a => n + axisLen s a / 2) 0)

/-- R317: the lowest axis at fault.  The spec names no axis for the product, which the model lays on axis 0 (log
entry 30). -/
def axisFault (s : State) : Option Nat :=
  if axisProductBad s then some 0
  else (List.range 6).find? (fun a => axisBad s a || axisShares s a || (axisHopsBad s && a == topAxis s))

/-- R386: whether link `n` lies in a mask of an axis of which its peer is not the neighbour. -/
def linkMiswired (s : State) (n : Nat) : Bool :=
  getA s Reg.axisCtrl_enable == 1 &&
    (List.range 6).any (fun a =>
      bit (axisMask s true a ||| axisMask s false a) (n / 8) &&
        !(getL s Reg.linkPeer_chip n == axisNext s s.chip a || getL s Reg.linkPeer_chip n == axisPrev s s.chip a))

/-- R315: NEXT, PREV and COORD of the six axes written. -/
def axisPublish (s : State) : State :=
  (List.range 6).foldl (fun t a =>
    setF (setF (setF t landABase Reg.axis_next a (axisNext s s.chip a)) landABase Reg.axis_prev a (axisPrev s s.chip a))
      landABase Reg.axis_coord a (coordOf s s.chip a)) s

/-- R386: an UP link that the table in force miswires leaves UP. -/
def markMiswired (s : State) : State :=
  (List.range 96).foldl (fun t n =>
    if linkUp t n && linkNear t n && linkMiswired t n then
      setL (setL t Reg.linkState_state n 4) Reg.linkState_cause n 6 else t) s

/-- R317: a write of AXIS_CTRL.ENABLE = 1. -/
def axisEnable (s : State) : State :=
  match axisFault s with
  | some a => setA (setA (setA s Reg.axisCtrl_enable 0) Reg.axisCtrl_err 1) Reg.axisCtrl_errAxis a
  | none => markMiswired (axisPublish (setA (setA s Reg.axisCtrl_enable 1) Reg.axisCtrl_err 0))

/-! ### Routing (R396 to R398) -/

/-- R396: the routing table entry of a chip. -/
def routeEntry (s : State) (c : Nat) : Nat := rdNat s (getA2 s Reg.routeBase_baseLo Reg.routeBase_baseHi + c * 4) 4

/-- R396: whether chip `c` is present in the stand. -/
def chipPresent (s : State) (c : Nat) : Bool :=
  if getA s Reg.routeCtrl_mode = 0 then decide (c < axisProduct s) else bit (routeEntry s c) 0

/-- R396: the next-hop groups toward chip `dst`; 0 where there is no route. -/
def routeGroups (s : State) (dst : Nat) : Nat :=
  if getA s Reg.routeCtrl_enable = 0 ∨ !chipPresent s dst then 0
  else if getA s Reg.routeCtrl_mode = 1 then bits (routeEntry s dst) 12 1
  else match (List.range 6).find? (fun a => coordOf s dst a != coordOf s s.chip a) with
    | none => 0
    | some a =>
      let d := (coordOf s dst a + axisLen s a - coordOf s s.chip a) % axisLen s a
      axisMask s (decide (2 * d ≤ axisLen s a)) a

/-- R397: the UP links of a set of groups, ascending. -/
def groupLinks (s : State) (groups : Nat) : List Nat :=
  (List.range 96).filter (fun n => bit groups (n / 8) && linkUp s n)

/-- R397: the link that a frame from chip `src` to chip `dst` takes. -/
def routeLink (s : State) (src dst : Nat) : Option Nat :=
  let ls := groupLinks s (routeGroups s dst)
  if ls.isEmpty then none else ls[(src + dst) % ls.length]?

/-- R21, R422: the fault of an operation that targets chip `c` at offset `off`: routing that is not in force, or an
absent chip. -/
def targetFault (s : State) (c off : Nat) : Option (Nat × Nat) :=
  if c = s.chip then none
  else if getA s Reg.routeCtrl_enable = 0 then some (0x1A2, 0)
  else if !chipPresent s c then some (0x09, off)
  else none

/-- The payload of a message: at most 488 bytes, so that it also fits an encrypted frame (R433). -/
def msgPayload (cls : Nat) (m : Msg) : List Byte :=
  (List.range (max 1 (min 488 (Config.payloadLen cls m)))).map (fun i => Config.payload cls m i)

/-- A message to a chip of the stand waits for a frame slot. -/
def sendMsg (s : State) (cls chip slot : Nat) (m : Msg) : State :=
  { s with txq := s.txq ++ [⟨cls, chip, s.stand, none, slot, msgPayload cls m, m⟩] }

/-! ### Windows of the slot table (R361) -/

/-- R361: whether frames of an entry's slot id wait for its groups. -/
def slotQueued (s : State) (x : SlotEntry) : Bool :=
  s.txq.any (fun m => m.slot == x.slot && m.far == none && (routeGroups s m.chip &&& x.groups) != 0)

/-- R361: whether the present instant of the tick lies in the window of entry `e`. -/
def windowNow (s : State) (e : Nat) : Bool :=
  let x := slotEntry s e
  let t := s.time.tai % tickPeriod s
  decide (x.start ≤ t ∧ t < x.start + x.len)

/-- SLOT_WINDOW_OPEN (R361): entry `e`'s window opens in the present tick. -/
def execSlotWindowOpen (entry : Nat) (s : State) : Host.Outcome State Fault Refusal :=
  .next (
    if ticksRun s && getA s Reg.slotCtrl_enable == 1 && decide (entry < getA s Reg.slotCtrl_count) &&
        !s.time.windows.contains entry && windowNow s entry then
      let s1 := { s with time := { s.time with windows := s.time.windows ++ [entry] } }
      if slotQueued s (slotEntry s entry) then s1 else countA s1 Reg.slotIdle_count 1
    else s)

/-- SLOT_WINDOW_CLOSE (R361). -/
def execSlotWindowClose (entry : Nat) (s : State) : Host.Outcome State Fault Refusal :=
  .next (
    if s.time.windows.contains entry then
      let s1 := { s with time := { s.time with windows := s.time.windows.filter (fun e => e != entry) } }
      if slotQueued s (slotEntry s entry) then countA s1 Reg.slotSpill_count 1 else s1
    else s)

/-! ### ROUTE_CTRL (R423) -/

/-- R423: the chips whose entries an enable in MODE 1 checks: this chip and its links' peers. -/
def routeChecked (s : State) : List Nat :=
  s.chip :: (((List.range 96).filter (fun n => getL s Reg.linkPeer_valid n == 1 && linkNear s n)).map
    (fun n => getL s Reg.linkPeer_chip n))

/-- R423: whether a routing entry is at fault: it names a Far group, or no group where PRESENT is 1; the chip's own
entry names none (R396). -/
def routeBad (s : State) (c : Nat) : Bool :=
  let g := bits (routeEntry s c) 12 1
  (g &&& farGroups s) != 0 || (c != s.chip && bit (routeEntry s c) 0 && g == 0)

/-- R423: a write of ROUTE_CTRL.ENABLE = 1. -/
def routeEnable (s : State) : State :=
  if getA s Reg.routeCtrl_mode = 1 ∧ (routeChecked s).any (routeBad s) then
    setA (setA s Reg.routeCtrl_enable 0) Reg.routeCtrl_err 1
  else setA (setA s Reg.routeCtrl_enable 1) Reg.routeCtrl_err 0

/-! ### Remote work of an operation (R402, R274, R182) -/

/-- A message is acknowledged (R402, R274). -/
def ackMsg (s : State) (m : Msg) : State := sendMsg s 7 m.src 0 ⟨s.chip, m.ctx, m.idx, .ack⟩

/-- What another chip is told of the check that it asked for, or of a write that faults here: 0 for no fault. -/
def sendVerdict (s : State) (m : Msg) (e : Option (Nat × Nat)) : State :=
  sendMsg s 7 m.src 0 ⟨s.chip, m.ctx, m.idx, .verdict (e.getD (0, 0)).1 (e.getD (0, 0)).2⟩

/-- One acknowledgement, or one accepted line, of an operation with `left` outstanding; `skip` where its training-state
bytes were skipped; the last one ends its work. -/
def remoteDone (s : State) (ctx idx : Nat) (skip : Bool) : State :=
  match findOp s ctx idx with
  | some o =>
    match o.work with
    | .remote left k =>
      if !opRuns o then s
      else if left ≤ 1 then finishOp (updOp s ctx idx (fun p => { p with work := .remote 0 (k || skip) })) ctx idx
      else updOp s ctx idx (fun p => { p with work := .remote (left - 1) (k || skip) })
    | _ => s
  | none => s

/-! ### Semaphores (R400 to R402) -/

/-- R400: a host write to the semaphore window: an aligned 8-byte write adds, any other is ignored and counted. -/
def semWrite (s : State) (off size data : Nat) : State :=
  if size = 8 ∧ off % 8 = 0 ∧ off < 0x8000 then semAdd s (off / 8) data else countA s Reg.semBadWr_count 1

/-- SEMAPHORE_ADD (R400). -/
def execSemaphoreAdd (off size data : Nat) (s : State) : Host.Outcome State Fault Refusal :=
  .next (semWrite s off size data)

/-- R421: VALUE. -/
def semValue (d : Desc) : Nat := dfld d 0x20 63 0
/-- R421: ID. -/
def semId (d : Desc) : Nat := dfld d 0x28 11 0
/-- R421: TARGET_CHIP. -/
def semTarget (d : Desc) : Nat := dfld d 0x2A 15 0

/-- SEM_ADD (R402): to its own chip the add is applied at once; to another, a message leaves and its acknowledgement
ends the operation. -/
def execSemAdd (ctx idx : Nat) (s : State) : Host.Outcome State Fault Refusal :=
  .next (onOp s ctx idx 0x0F20 (fun o =>
    if o.work ≠ .none then s
    else if semTarget o.d = s.chip then endOp (semAdd s (semId o.d) (semValue o.d)) ctx idx ⟨.done, 0⟩
    else match targetFault s (semTarget o.d) (0x3FF00000000 + semId o.d * 8) with
      | some e => ctxFault s ctx idx e.1 e.2
      | none => sendMsg (updOp s ctx idx (fun p => { p with work := .remote 1 false })) 2 (semTarget o.d) 0
          ⟨s.chip, ctx, idx, .semAdd (semId o.d) (semValue o.d)⟩))

/-- SEM_SET (R402). -/
def execSemSet (ctx idx : Nat) (s : State) : Host.Outcome State Fault Refusal :=
  .next (onOp s ctx idx 0x0F21 (fun o => endOp (semSet s (semId o.d) (semValue o.d)) ctx idx ⟨.done, 0⟩))

end Sys2Proof.Machine
end

