-- ==== Sys2Proof/Machine/Chain.lean ====
section
/-!
DEFINITION. The Chain network: announcements and the stand tree, reductions, barrier units and BARRIER (R344, R347,
R403 to R411).
-/

namespace Sys2Proof.Machine

/-! ### The stand tree (R404) -/

/-- R404: the parent of two neighbours: the fewest hops to chip 0, ties to the lowest chip number. -/
def nearerRoot (a b : Neigh) : Neigh := if b.hops0 < a.hops0 ∨ (b.hops0 = a.hops0 ∧ b.chip < a.chip) then b else a

/-- The neighbours on links that are UP. -/
def liveNeigh (s : State) : List Neigh := s.chain.neigh.filter (fun n => linkUp s n.link && linkNear s n.link)

/-- R404: the parent neighbour, where this chip is not chip 0 and stays within 2,046 hops. -/
def rootParent (s : State) : Option Neigh :=
  if s.chip = 0 then none
  else match (liveNeigh s).filter (fun n => decide (n.hops0 < 2046)) with
    | [] => none
    | x :: r => some (r.foldl nearerRoot x)

/-- R404: this chip's hops to chip 0, 2,047 where beyond reach. -/
def ownHops0 (s : State) : Nat :=
  if s.chip = 0 then 0 else match rootParent s with
    | some n => n.hops0 + 1
    | none => 2047

/-- R404: PARENT; a chip that names none shows its own number, since the spec gives no code for that (log entry 31). -/
def ownParent (s : State) : Nat := match rootParent s with
  | some n => n.chip
  | none => s.chip

/-- R404: HOPS0 and PARENT brought up to date; a change clears SETTLED. -/
def treeUpdate (s : State) : State :=
  if ownHops0 s = getA s Reg.chainStatus_hops0 ∧ ownParent s = getA s Reg.chainStatus_parent then s
  else
    let s1 := setA (setA (setA s Reg.chainStatus_hops0 (ownHops0 s)) Reg.chainStatus_parent (ownParent s))
      Reg.chainStatus_settled 0
    { s1 with chain := { s1.chain with changedAt := s1.time.tai } }

/-- R404: this chip's hops to the active Lead. -/
def ownHopsLead (s : State) : Nat :=
  if getB s Reg.timeStatus_activeLead = s.chip ∧ getB s Reg.timeCtrl_lead = 1 then 0
  else match timeParent s with
    | some n => n.hopsLead + 1
    | none => 2047

/-- R344: whether this chip announces itself as a Lead: it is locked, or it is the active Lead. -/
def announcesSelf (s : State) : Bool :=
  getB s Reg.timeCtrl_lead == 1 && (getB s Reg.timeStatus_state == 2 || getB s Reg.timeStatus_activeLead == s.chip)

/-- R403, R404: this chip's announcement: its own rank where it announces itself, else the active Lead's. -/
def announcement (s : State) : ChainFrame :=
  .announce (if announcesSelf s then getB s Reg.timeCtrl_leadRank else getB s Reg.timeStatus_activeRank)
    (getB s Reg.timeStatus_state) (ownHopsLead s) (ownHops0 s) s.chip (getB s Reg.timeStatus_activeLead) (ownParent s)

/-- CHAIN_ANNOUNCE_TIMER (R404). -/
def execChainAnnounceTimer (s : State) : Host.Outcome State Fault Refusal :=
  .next (let s1 := treeUpdate s
         sendChainAll s1 (announcement s1))

/-- What a chip knows of a Lead. -/
def leadPut (s : State) (c rank state : Nat) : State :=
  { s with time := { s.time with leads := s.time.leads.filter (fun l => l.chip != c) ++ [⟨c, rank, state, s.time.tai⟩] } }

/-- R344: what a chip that is not a locked Lead tells of the Lead that it follows: a neighbour of that Lead goes by the Lead's
own announcements instead. Of a standby Lead's active Lead the rank is not told: it is the one known, or 0 (log entry 77). -/
def leadNamed (s : State) (rank state active : Nat) : State :=
  if adjacent s active then s
  else leadPut s active (if state = 3 then rank else ((s.time.leads.find? (fun l => l.chip == active)).map (fun l => l.rank)).getD 0) 3

/-- R344, R350: a Lead heard of: the sender where it is locked or in holdover, and the active Lead that the sender follows. -/
def hearLead (s : State) (rank state hopsLead chip active : Nat) : State :=
  let s0 := if state = 2 ∨ state = 4 then leadPut s chip rank state
    else { s with time := { s.time with leads := s.time.leads.filter (fun l => l.chip != chip) } }
  let s1 := if (state = 2 ∨ state = 3) ∧ hopsLead < 2047 ∧ active ≠ chip ∧ active ≠ s.chip then leadNamed s0 rank state active else s0
  match activeLead s1 with
  | some l => if getB s1 Reg.timeStatus_state = 5 then s1 else setActive s1 l
  | none =>
    if 4 ≤ state ∧ hopsLead < 2047 ∧ getB s1 Reg.timeStatus_state < 4 then
      setB (setB s1 Reg.timeStatus_activeRank rank) Reg.timeStatus_activeLead active
    else s1

/-- R404: an announcement arrives on a link. -/
def takeAnnounce (s : State) (link rank state hopsLead hops0 chip active parent : Nat) : State :=
  let s1 := { s with chain := { s.chain with
    neigh := s.chain.neigh.filter (fun n => n.link != link) ++ [⟨link, chip, hops0, hopsLead, parent⟩] } }
  hearLead (treeUpdate s1) rank state hopsLead chip active

/-! ### Reductions (R405 to R407) -/

/-- A barrier unit with nothing written. -/
def barrierIdle : BarrierRt := ⟨0, false, 0, false⟩

/-- Barrier unit `b`. -/
def barrierGet (s : State) (b : Nat) : BarrierRt := sparseGet barrierIdle b s.barriers

/-- Barrier unit `b` written. -/
def barrierSet (s : State) (b : Nat) (x : BarrierRt) : State := { s with barriers := sparseSet barrierIdle b x s.barriers }

/-- R405: the axes of the tree that channel `chan` uses; 0: the stand tree. -/
def chanAxes (s : State) (chan : Nat) : Nat := if chan < 64 then (barrierGet s chan).axes else 0

/-- The axes of a mask, ascending. -/
def axesOf (m : Nat) : List Nat := (List.range 6).filter (fun a => bit m a)

/-- R407: whether a reduction may proceed over its tree. -/
def treeReady (s : State) (axes : Nat) : Bool :=
  if axes = 0 then getA s Reg.chainStatus_settled == 1 else getA s Reg.axisCtrl_enable == 1

/-- R405: the parent of a chip in the tree; none at the root. -/
def treeParent (s : State) (axes : Nat) : Option Nat :=
  if axes = 0 then (rootParent s).map (fun n => n.chip)
  else match (axesOf axes).find? (fun a => coordOf s s.chip a != 0) with
    | none => none
    | some a => some (if 2 * coordOf s s.chip a ≤ axisLen s a then axisPrev s s.chip a else axisNext s s.chip a)

/-- R405: the children on axis `a`: the neighbours whose parent on that axis this chip is. -/
def axisKids (s : State) (a : Nat) : List Nat :=
  let len := axisLen s a
  let up := (coordOf s s.chip a + 1) % len
  let dn := (coordOf s s.chip a + len - 1) % len
  (if up ≠ 0 ∧ 2 * up ≤ len then [axisNext s s.chip a] else []) ++
    (if dn ≠ 0 ∧ len < 2 * dn then [axisPrev s s.chip a] else [])

/-- R404, R405: the children in the tree. -/
def treeKids (s : State) (axes : Nat) : List Nat :=
  if axes = 0 then (((liveNeigh s).filter (fun n => n.parent == s.chip && n.chip != s.chip)).map (fun n => n.chip)).eraseDups
  else ((axesOf axes).filter (fun a => (axesOf axes).all (fun b => decide (a ≤ b) || coordOf s s.chip b == 0))).flatMap
    (axisKids s)

/-- The UP Near link to a neighbour, the lowest of several. -/
def linkTo (s : State) (chip : Nat) : Option Nat := (upNearLinks s).find? (fun n => getL s Reg.linkPeer_chip n == chip)

/-- A Chain frame for a neighbour. -/
def sendChainTo (s : State) (chip : Nat) (f : ChainFrame) : State :=
  match linkTo s chip with
  | some n => sendChain s n f
  | none => s

/-- R403, R406: two values combined. -/
def chainCombine (op a b : Nat) : Nat := if op = 0 then a ||| b else if op = 1 then a &&& b else max a b

/-- Whether an instance is the one named. -/
def isInst (chan gen index : Nat) (x : ChainInst) : Bool := x.chan == chan && x.gen == gen && x.index == index

/-- The instance of a channel, generation and index, with nothing held where there is none. -/
def instGet (s : State) (op chan gen index : Nat) : ChainInst :=
  (s.chain.insts.find? (isInst chan gen index)).getD ⟨chan, gen, index, op, none, [], false, none, 0⟩

/-- An instance written; of the finished ones of its channel and index, only the last before it is kept. -/
def instPut (s : State) (x : ChainInst) : State :=
  { s with chain := { s.chain with
      insts := s.chain.insts.filter (fun y =>
        !isInst x.chan x.gen x.index y &&
          !(y.chan == x.chan && y.index == x.index && y.result.isSome && (y.gen + 1) % 65536 != x.gen)) ++ [x] } }

/-- R406: the value combined of an instance's own value and those of its children; none while one is missing. -/
def instValue (s : State) (x : ChainInst) : Option Nat :=
  (treeKids s (chanAxes s x.chan)).foldl (fun acc k =>
    match acc, x.kids.find? (fun p => p.1 == k) with
    | some v, some p => some (chainCombine x.op v p.2)
    | _, _ => none) x.own

/-- R406: a result is taken and passed on to the children. -/
def instResult (s : State) (x : ChainInst) (v : Nat) : State :=
  let s1 := instPut s { x with result := some v }
  (treeKids s (chanAxes s x.chan)).foldl (fun t k => sendChainTo t k (.result x.op x.chan x.gen x.index v)) s1

/-- R406, R407: an instance goes as far as it can: the root has its result, any other chip contributes once. -/
def instPump (s : State) (x : ChainInst) : State :=
  if x.sent || x.result.isSome || !treeReady s (chanAxes s x.chan) then s
  else match instValue s x with
    | none => s
    | some v =>
      match treeParent s (chanAxes s x.chan) with
      | none => if chanAxes s x.chan = 0 ∧ s.chip ≠ 0 then s else instResult s x v
      | some p => sendChainTo (instPut s { x with sent := true, sentAt := s.time.tai }) p (.contrib x.op x.chan x.gen x.index v)

/-- This chip's own value of an instance. -/
def chainGive (s : State) (op chan gen index v : Nat) : State :=
  let x := { instGet s op chan (gen % 65536) (index % 1024) with own := some (v % 2 ^ 32) }
  instPump (instPut s x) x

/-- R406: the result of an instance, once held. -/
def chainResult (s : State) (chan gen index : Nat) : Option Nat :=
  (s.chain.insts.find? (isInst chan (gen % 65536) (index % 1024))).bind (fun x => x.result)

/-- R406, R407: a contribution arrives from chip `from_` on a link. -/
def takeContribution (s : State) (link op chan gen index v : Nat) : State :=
  if 3 ≤ op ∨ 67 ≤ chan then s
  else
    let x := instGet s op chan gen index
    match x.result with
    | some r => sendChain s link (.result op chan gen index r)
    | none =>
      let c := getL s Reg.linkPeer_chip link
      let y := { x with kids := x.kids.filter (fun p => p.1 != c) ++ [(c, v)] }
      instPump (instPut s y) y

/-- R406: a result arrives. -/
def takeResult (s : State) (chan gen index v : Nat) : State :=
  match s.chain.insts.find? (isInst chan gen index) with
  | some x => if x.result.isSome then s else instResult s x v
  | none => s

/-- R407: every instance that waited goes on. -/
def chainPump (s : State) : State := s.chain.insts.foldl instPump s

/-- R407: the contributions that have been unanswered for 2 µs. -/
def unanswered (s : State) : List ChainInst :=
  s.chain.insts.filter (fun x => x.sent && x.result.isNone && passed s x.sentAt 2000)

/-- R407: a contribution is sent again and counted. -/
def repeatContribution (s : State) (x : ChainInst) : State :=
  match instValue s x, treeParent s (chanAxes s x.chan) with
  | some v, some p =>
    let s0 := sendChainTo (instPut s { x with sentAt := s.time.tai }) p (.contrib x.op x.chan x.gen x.index v)
    let s1 := countA s0 Reg.chainResends_count 1
    match linkTo s p with
    | some n => event s1 (landOf (decide (n < 48))) 0x07 1
    | none => s1
  | _, _ => s

/-- CHAIN_REPEAT_TIMER (R407). -/
def execChainRepeatTimer (s : State) : Host.Outcome State Fault Refusal := .next ((unanswered s).foldl repeatContribution s)

/-! ### Barrier units (R410, R411) -/

/-- R421: the unit of a BARRIER. -/
def barUnit (d : Desc) : Nat := dfld d 0x28 11 0

/-- R411: an operation arrives at the next generation of unit `b`. -/
def barrierArrive (s : State) (ctx idx b : Nat) : State :=
  let u := barrierGet s b
  let s1 := updOp (barrierSet s b { u with arrived := true }) ctx idx (fun o => { o with work := .barrier true })
  chainGive s1 1 b (u.gen + 1) 0 1

/-- R411: the oldest operation on unit `b` with the given mark. -/
def barrierOp (s : State) (b : Nat) (arrived : Bool) : Option Op :=
  s.ops.find? (fun o => opRuns o && dOpcode o.d == 0x0F30 && barUnit o.d == b && o.work == .barrier arrived)

/-- R411: where the result of the generation that this chip has arrived at is held, GEN rises, the operation ends, and
the next one that waited arrives; at most `n` times. -/
def barrierTake : Nat → State → Nat → State
  | 0, s, _ => s
  | n + 1, s, b =>
    let u := barrierGet s b
    match u.arrived, chainResult s b (u.gen + 1) 0 with
    | true, some _ =>
      let s1 := barrierSet s b { u with gen := (u.gen + 1) % 2 ^ 64, arrived := false }
      let s2 := match barrierOp s1 b true with
        | some o => endOp s1 o.ctx o.idx ⟨.done, 0⟩
        | none => s1
      match barrierOp s2 b false with
      | some o => barrierTake n (barrierArrive s2 o.ctx o.idx b) b
      | none => s2
    | _, _ => s

/-- R411: every barrier whose result is held completes. -/
def barriersTake (s : State) : State := (List.range 64).foldl (fun t b => barrierTake (t.ops.length + 1) t b) s

/-- BARRIER (R411). -/
def execBarrier (ctx idx : Nat) (s : State) : Host.Outcome State Fault Refusal :=
  .next (onOp s ctx idx 0x0F30 (fun o =>
    let b := barUnit o.d
    if o.work ≠ .none then s
    else if !(barrierGet s b).valid then ctxFault s ctx idx 0x1A3 0
    else if (barrierGet s b).arrived then updOp s ctx idx (fun p => { p with work := .barrier false })
    else barrierTake (s.ops.length + 1) (barrierArrive s ctx idx b) b))

/-- R410, R411: the finished generations of a unit whose GEN begins again are held no longer. -/
def barrierAnew (s : State) (b : Nat) : State :=
  { s with chain := { s.chain with insts := s.chain.insts.filter (fun x => !(x.chan == b && x.result.isSome)) } }

/-- R410: a write to barrier unit `b`. -/
def barrierWrite (s : State) (b data : Nat) : State :=
  let u := barrierGet s b
  if u.arrived then s
  else if bit data 31 then barrierAnew (barrierSet s b { u with axes := bits data 5 0, valid := true, gen := 0 }) b
  else barrierSet s b { u with axes := bits data 5 0, valid := false }

/-- BARRIER_UNIT_WRITE (R410). -/
def execBarrierUnitWrite (unit data : Nat) (s : State) : Host.Outcome State Fault Refusal :=
  .next (if unit < 64 then barrierWrite s unit data else s)

/-- R404: SETTLED becomes 1 after 1 ms without a change, within reach of chip 0; the reductions that waited go on. -/
def chainSettle (s : State) : State :=
  if ownHops0 s = 2047 ∨ ownHops0 s ≠ getA s Reg.chainStatus_hops0 ∨ ownParent s ≠ getA s Reg.chainStatus_parent then
    treeUpdate s
  else if !passed s s.chain.changedAt 1000000 then s
  else barriersTake (chainPump (setA s Reg.chainStatus_settled 1))

end Sys2Proof.Machine
end

