-- ==== Sys2Proof/Machine/Pannier.lean ====
section
/-!
DEFINITION. The Pannier channels: spills to the slow tier and fills from it (R320 to R325).
-/

namespace Sys2Proof.Machine

/-- A channel that has never run. -/
def panIdle : PanRt := ⟨0, 0, 0, 0, none, none, 0⟩

/-- Channel `c`. -/
def panGet (s : State) (c : Nat) : PanRt := sparseGet panIdle c s.pan

/-- Channel `c` written. -/
def panSet (s : State) (c : Nat) (x : PanRt) : State := { s with pan := sparseSet panIdle c x s.pan }

/-- A field of channel `c`. -/
def panF (s : State) (f : Fld) (c : Nat) : Nat := getF s landABase f c

/-- R320: BLOCK. -/
def panBlock (s : State) (c : Nat) : Nat := panF s Reg.pan_pages c * 4096

/-- R320: spill slot `i`. -/
def spillSlot (s : State) (c i : Nat) : Nat := get2 s landABase Reg.pan_stageLo Reg.pan_stageHi c + i * panBlock s c

/-- R320: fill slot `i`. -/
def fillSlot (s : State) (c i : Nat) : Nat := get2 s landABase Reg.pan_fillLo Reg.pan_fillHi c + i * panBlock s c

/-- R320: slow-tier block `b`. -/
def slowBlock (s : State) (c b : Nat) : Nat := get2 s landABase Reg.pan_slowLo Reg.pan_slowHi c + b * panBlock s c

/-- R320, R321: entry `b` of the digest array. -/
def digEntry (s : State) (c b : Nat) : Nat := get2 s landABase Reg.pan_digLo Reg.pan_digHi c + b * 16

/-- R322: s(j), the spill that fill `j` reads; it is its own inverse. -/
def panS (nblk : Nat) (lifo : Bool) (j : Nat) : Nat := if lifo then j / nblk * nblk + (nblk - 1 - j % nblk) else j

/-- The spill that fill `j` of channel `c` reads. -/
def panReads (s : State) (c j : Nat) : Nat := panS (panF s Reg.pan_nblk c) (panF s Reg.pan_lifo c == 1) j

/-- R324: whether a channel begins transfers. -/
def panRuns (s : State) (c : Nat) : Bool := panF s Reg.pan_enable c == 1 && panF s Reg.pan_halted c == 0

/-- R325: a transfer that still runs as its channel starts again. -/
def staleMove (m : Option PanMove) : Option PanMove := m.map (fun x => { x with stale := true })

/-- R321: the effect of a write of ENABLE = 1: the counts are cleared and the bases recorded; a transfer in progress goes on
to its end (R325). -/
def panStart (s : State) (c : Nat) : State :=
  let s1 := setF (setF (setF (setF s landABase Reg.pan_outCount c 0) landABase Reg.pan_inCount c 0)
    landABase Reg.pan_halted c 0) landABase Reg.pan_refetch c 0
  let x := panGet s c
  panSet s1 c ⟨semGet s (panF s Reg.pan_outSem c), semGet s (panF s Reg.pan_inSem c), 0, 0, staleMove x.spilling,
    staleMove x.filling, x.differed⟩

/-- R321, R323: whether the next spill of a channel may begin. -/
def spillMayBegin (s : State) (c : Nat) : Bool :=
  let x := panGet s c
  let n := panF s Reg.pan_nblk c
  panRuns s c && x.spilling.isNone && waitHolds (semGet s (panF s Reg.pan_outSem c)) ((x.bo + x.spills + 1) % 2 ^ 20) &&
    (decide (x.spills < n) || decide (panReads s c (x.spills - n) < x.fills))

/-- R321: the next spill of a channel as a transfer. -/
def spillMove (s : State) (c : Nat) : PanMove :=
  let k := (panGet s c).spills
  let b := k % panF s Reg.pan_nblk c
  ⟨spillSlot s c (k % panF s Reg.pan_slots c), slowBlock s c b, panBlock s c, digEntry s c b, panF s Reg.pan_outDone c, false⟩

/-- R322: the next fill of a channel as a transfer. -/
def fillMove (s : State) (c : Nat) : PanMove :=
  let j := (panGet s c).fills
  let b := panReads s c j % panF s Reg.pan_nblk c
  ⟨fillSlot s c (j % panF s Reg.pan_slots c), slowBlock s c b, panBlock s c, digEntry s c b, panF s Reg.pan_inDone c, false⟩

/-- R27: whether a transfer waits for the copy of a granule. -/
def moveWaits (s : State) (m : PanMove) : Bool := copyMeets s [⟨m.hbm, 0, 1, m.len⟩, ⟨m.dig, 0, 1, 16⟩]

/-- PANNIER_SPILL_BEGIN (R321). -/
def execPannierSpillBegin (channel : Nat) (s : State) : Host.Outcome State Fault Refusal :=
  .next (if channel < 16 && spillMayBegin s channel && !thermalHold s then panSet s channel { panGet s channel with spilling := some (spillMove s channel) } else s)

/-- R321: a spill's copy ends: the block and its digest are written, then the count and the semaphore rise; the count is that of
the channel's present run (R325, log entry 75). -/
def spillDone (s : State) (c : Nat) (m : PanMove) : State :=
  let x := panGet s c
  let k := if m.stale then x.spills else x.spills + 1
  let d := rdBytes s m.hbm m.len
  let s1 := wrNat (wrHost s (bytesWrites m.slow d)) m.dig 16 (ringDigest d)
  let s2 := event s1 landABase 0x09 (m.len / 16)
  let s3 := setF (panSet s2 c { x with spills := k, spilling := none }) landABase Reg.pan_outCount c k
  semAdd s3 m.sem 1

/-- PANNIER_SPILL_DONE (R321, R325). -/
def execPannierSpillDone (channel : Nat) (s : State) : Host.Outcome State Fault Refusal :=
  .next (match (panGet s channel).spilling with
    | some m => if moveWaits s m then s else spillDone s channel m
    | none => s)

/-- R322: whether the next fill of a channel may begin. -/
def fillMayBegin (s : State) (c : Nat) : Bool :=
  let x := panGet s c
  panRuns s c && x.filling.isNone && waitHolds (semGet s (panF s Reg.pan_inSem c)) ((x.bi + x.fills + 1) % 2 ^ 20) &&
    decide (panReads s c x.fills < x.spills)

/-- PANNIER_FILL_BEGIN (R322). -/
def execPannierFillBegin (channel : Nat) (s : State) : Host.Outcome State Fault Refusal :=
  .next (if channel < 16 && fillMayBegin s channel && !thermalHold s then
    panSet s channel { panGet s channel with filling := some (fillMove s channel), differed := 0 } else s)

/-- The bytes that a fetch delivers, where `alt` names the bytes that differ from what is stored. -/
def fetched (bs : List Byte) (alt : List (Nat × Byte)) : List Byte :=
  (List.range bs.length).map (fun i => match alt.find? (fun p => p.1 == i) with
    | some p => p.2
    | none => bs.getD i 0)

/-- R324: a fill whose fourth fetch differs halts the channel. -/
def panHalt (s : State) (c j : Nat) : State :=
  let s1 := setF (setF (panSet s c { panGet s c with filling := none }) landABase Reg.pan_err c 1) landABase Reg.pan_halted c 1
  writeFault s1 ⟨0x08, c, 0, 0xFFFF, 0, [j]⟩

/-- R322, R324: a fill's copy ends and its digest is checked. -/
def panFillDone (s : State) (c : Nat) (m : PanMove) (alt : List (Nat × Byte)) : State :=
  let x := panGet s c
  let j := if m.stale then x.fills else x.fills + 1
  let d := fetched (memBytes s.hostMem m.slow m.len) alt
  let s1 := event (wrMem s (bytesWrites m.hbm d)) landABase 0x09 (m.len / 16)
  if ringDigest d = rdNat s m.dig 16 then
    let s2 := setF (panSet s1 c { x with fills := j, filling := none }) landABase Reg.pan_inCount c j
    semAdd s2 m.sem 1
  else if x.differed < 3 then
    countF (panSet s1 c { x with differed := x.differed + 1 }) landABase Reg.pan_refetch c 1
  else panHalt s1 c x.fills

/-- PANNIER_FILL_DONE (R322, R324): `alt` are the bytes that the fetch delivered other than as stored. -/
def execPannierFillDone (channel : Nat) (alt : List (Nat × Byte)) (s : State) : Host.Outcome State Fault Refusal :=
  .next (match (panGet s channel).filling with
    | some m => if moveWaits s m then s else panFillDone s channel m alt
    | none => s)

end Sys2Proof.Machine
end

