-- ==== Sys2Proof/Machine/MatArith.lean ====
section
/-!
DEFINITION. The arithmetic of one tile run and of its checks (R105 to R126): the order of accumulation, BF16 pieces,
the compensated pair, stochastic running sums, the sum check and the choice of check.
-/

namespace Sys2Proof.Machine

/-- R111: an accumulator format. -/
inductive AccKind where
  | f32 | f64 | i32
  deriving DecidableEq, Repr

/-- What a tile run computes from: shape, accumulator, terms per step, the pair, stochastic sums and their draws, and
the values of A, B and, where ACC_IN = 1, C. -/
structure MatSpec where
  m : Nat
  n : Nat
  k : Nat
  acc : AccKind
  passes : Nat
  pair : Bool
  srAcc : Bool
  seed : Nat
  stream : Nat
  step : Nat
  out0 : Nat
  ng : Nat
  k0 : Nat
  a : Nat → Nat → FVal
  b : Nat → Nat → FVal
  accIn : Bool
  c : Nat → Nat → FVal

/-- R117: T. -/
def matT (passes : Nat) : Nat := if passes = 2 then 3 else if passes = 3 then 6 else 1

/-- R116: the three BF16 pieces of a value. -/
def pieces (a : FVal) : FVal × FVal × FVal :=
  let a1 := roundTo .bf16 .rz a
  if fvNonFinite a then (a1, fvZero, fvZero)
  else
    let r := fvSub a a1
    let a2 := roundTo .bf16 .rz r
    (a1, a2, roundTo .bf16 .rz (fvSub r a2))

/-- R117: the pairs of factors of a position, in order of t. -/
def factors (passes : Nat) (a b : FVal) : List (FVal × FVal) :=
  if passes = 0 then [(a, b)]
  else
    let p := pieces a
    let q := pieces b
    if passes = 1 then [(p.1, q.1)]
    else if passes = 2 then [(p.2.1, q.1), (p.1, q.2.1), (p.1, q.1)]
    else [(p.2.2, q.1), (p.2.1, q.2.1), (p.1, q.2.2), (p.2.1, q.1), (p.1, q.2.1), (p.1, q.1)]

/-- The integer that a value of an integer format is. -/
def fvInt : FVal → Int
  | .fin s m e => fvAt 0 s (m * 2 ^ e.toNat) 0
  | _ => 0

/-- R114: a saturating INT32 sum, and whether it saturated. -/
def satAdd32 (a b : Int) : Int × Bool :=
  let x := a + b
  if x < -(2 ^ 31 : Int) then (-(2 ^ 31 : Int), true)
  else if (2 ^ 31 : Int) - 1 < x then ((2 ^ 31 : Int) - 1, true) else (x, false)

/-- The running value of one output: accumulator, error term, non-finite seen, saturation seen. -/
structure AccSt where
  v : FVal
  e : FVal
  nf : Bool
  sat : Bool
  deriving DecidableEq, Repr

/-- R112: the accumulator's float format. -/
def accFmt : AccKind → Fmt
  | .f64 => .fp64
  | .i32 => .int32
  | .f32 => .fp32

/-- R119: the rounding of the addition with global position `a` at output index `out`. -/
def accRnd (x : MatSpec) (out a : Nat) : Rnd :=
  if x.srAcc then .sr (philoxDraw x.seed x.stream x.step (out * 2 ^ 24 + a)) else .rne

/-- R112, R114, R118: one term added to the running value. -/
def accStep (x : MatSpec) (out a : Nat) (st : AccSt) (f : FVal × FVal) : AccSt :=
  if x.acc = .i32 then
    let r := satAdd32 (fvInt st.v) (fvInt (fvMul f.1 f.2))
    { st with v := fvOfInt r.1, sat := st.sat || r.2 }
  else
    let fm := accFmt x.acc
    let p := roundTo fm .rne (fvMul f.1 f.2)
    let s := roundTo fm (accRnd x out a) (fvAdd st.v p)
    let bp := r32 (fvSub s st.v)
    let e := if x.pair then
        r32 (fvAdd st.e (r32 (fvAdd (r32 (fvSub st.v (r32 (fvSub s bp)))) (r32 (fvSub p bp)))))
      else st.e
    { st with v := s, e := e, nf := st.nf || fvNonFinite p || fvNonFinite s }

/-- R112: the terms of output (i, j) in order, each with its index `k × T + t`. -/
def matTerms (x : MatSpec) (i j : Nat) : List (Nat × FVal × FVal) :=
  (List.range x.k).flatMap (fun k =>
    let fs := factors x.passes (x.a i k) (x.b k j)
    ((List.range fs.length).zip fs).map (fun p => (k * matT x.passes + p.1, p.2)))

/-- R112: the accumulator value, error term and flags of output (i, j). -/
def accumulate (x : MatSpec) (i j : Nat) : AccSt :=
  let v0 := if x.accIn then x.c i j else fvZero
  let out := x.out0 + i * x.ng + j
  (matTerms x i j).foldl (fun st f => accStep x out (x.k0 * matT x.passes + f.1) st f.2) ⟨v0, fvZero, false, false⟩

/-- The code of an accumulator value. -/
def accCode (a : AccKind) (v : FVal) : Nat := (convert (accFmt a) .rne v).1

/-- R118: the error term as written: a canonical NaN with sign 0 where s is an infinity or a NaN. -/
def errCode (st : AccSt) : Nat := if fvNonFinite st.v then 0x7FC00000 else (convert .fp32 .rne st.e).1

/-- R106: the columns of tiles. -/
def tileCols (n : Nat) : Nat := ceilDiv n 64

/-- R106: the number of tiles. -/
def tileCount (m n : Nat) : Nat := ceilDiv m 128 * tileCols n

/-- R106: the used rows of tile `t` of an M × N output. -/
def tileI (m n t : Nat) : List Nat :=
  let i0 := 128 * (t / tileCols n)
  (List.range (min 128 (m - i0))).map (fun r => i0 + r)

/-- R106: the used columns of tile `t`. -/
def tileJ (n t : Nat) : List Nat :=
  let j0 := 64 * (t % tileCols n)
  (List.range (min 64 (n - j0))).map (fun c => j0 + c)

/-- The used positions of tile `t`, row-major. -/
def tilePos (m n t : Nat) : List (Nat × Nat) := (tileI m n t).flatMap (fun i => (tileJ n t).map (fun j => (i, j)))

/-- R112: a fault-free run of tile `t`. -/
def tileRun (x : MatSpec) (t : Nat) : TileRun :=
  let rs := (tilePos x.m x.n t).map (fun p => accumulate x p.1 p.2)
  ⟨rs.map (fun r => accCode x.acc r.v), if x.pair then rs.map errCode else [],
    rs.any (fun r => r.sat), rs.any (fun r => r.nf)⟩

/-- Codes with lane faults: each fault is an output's place in the tile and the bits it flips. -/
def flipCodes (w : Nat) (flips : List (Nat × Nat)) (base : Nat) (cs : List Nat) : List Nat :=
  ((List.range cs.length).zip cs).map (fun p =>
    flips.foldl (fun c f => if f.1 = base + p.1 then (c ^^^ f.2) % 2 ^ w else c) p.2)

/-- A run of tile `t` with lane faults: places from the number of outputs on are those of the error terms. -/
def tileRunFlips (x : MatSpec) (t : Nat) (flips : List (Nat × Nat)) : TileRun :=
  let r := tileRun x t
  { r with outs := flipCodes (fmtWidth (accFmt x.acc)) flips 0 r.outs
           errs := flipCodes 32 flips r.outs.length r.errs }

/-! ### Checks (R121 to R124) -/

/-- R121: g. -/
def gOf (x : MatSpec) : Nat := if x.srAcc then 2 else 1

/-- R121: n of the check. -/
def nOf (x : MatSpec) : Nat := x.k * matT x.passes

/-- R121: whether any used element of A, B or C is an infinity or a NaN. -/
def operandNonFinite (x : MatSpec) (t : Nat) : Bool :=
  (tileI x.m x.n t).any (fun i => (List.range x.k).any (fun k => fvNonFinite (x.a i k))) ||
    (tileJ x.n t).any (fun j => (List.range x.k).any (fun k => fvNonFinite (x.b k j))) ||
    (x.accIn && (tilePos x.m x.n t).any (fun p => fvNonFinite (x.c p.1 p.2)))

/-- R121: whether tile `t` is checked by duplicate after a run with these results. -/
def dupNeeded (x : MatSpec) (t : Nat) (r : TileRun) : Bool :=
  x.acc == .f64 || (x.acc == .i32 && r.sat) ||
    (x.acc != .i32 && (operandNonFinite x t || r.outs.any (fun c => fvNonFinite (decodeCode (accFmt x.acc) c)))) ||
    (x.acc == .f32 && decide (2 ^ 19 < (gOf x + 1) * (nOf x + 1)))

/-- A running FP64 sum from +0. -/
def sum64 (vs : List FVal) : FVal := vs.foldl (fun a v => r64 (fvAdd a v)) fvZero

/-- R122: the t-th factors of A along a row's terms, and of B. -/
def factA (x : MatSpec) (i k t : Nat) : FVal := ((factors x.passes (x.a i k) fvZero).getD t (fvZero, fvZero)).1

/-- R122: the t-th factor of B. -/
def factB (x : MatSpec) (k j t : Nat) : FVal := ((factors x.passes fvZero (x.b k j)).getD t (fvZero, fvZero)).2

/-- R122: the sums Y and V of a line of factors. -/
def lineSums (vs : List FVal) : FVal × FVal := (sum64 vs, sum64 (vs.map fvAbs))

/-- R122: P and M of a line: C terms first, then the products in ascending k and t. -/
def predict (cs : List FVal) (fs : List (FVal × FVal × FVal)) : FVal × FVal :=
  (sum64 (cs ++ fs.map (fun f => r64 (fvMul f.1 f.2.1))),
    sum64 (cs.map fvAbs ++ fs.map (fun f => r64 (fvMul (fvAbs f.1) f.2.2))))

/-- R123: τ(M). -/
def tauOf (x : MatSpec) (m : FVal) : FVal :=
  let g := gOf x
  let n := nOf x
  fvAdd (fvMul (fvAdd (.fin false (2 * (g + 1) * (n + 1)) (-24)) (.fin false (2 * n + 130) (-52))) m)
    (.fin false (128 * (n + 1)) (-149))

/-- R123: whether a float line passes. -/
def linePasses (x : MatSpec) (s p m : FVal) : Bool := fvLe (fvAbs (fvSub s p)) (tauOf x m)

/-- R122, R123: the rows and the columns of tile `t` whose sum check fails. -/
def sumCheckFails (x : MatSpec) (t : Nat) (r : TileRun) : List Nat × List Nat :=
  let ii := tileI x.m x.n t
  let jj := tileJ x.n t
  let w := jj.length
  let at' := fun (i j : Nat) => decodeCode (accFmt x.acc) (r.outs.getD (i * w + j) 0)
  let ts := List.range (matT x.passes)
  let ks := List.range x.k
  if x.acc = .i32 then
    let cInt := fun (i j : Nat) => if x.accIn then fvInt (x.c i j) else 0
    let pred := fun (i j : Nat) => cInt i j + (ks.map (fun k => fvInt (x.a i k) * fvInt (x.b k j))).foldl (fun a b => a + b) 0
    let isum := fun (l : List Int) => l.foldl (fun a b => a + b) 0
    (((List.range ii.length).zip ii).filter (fun p =>
        isum ((List.range w).map (fun j => fvInt (at' p.1 j))) != isum (jj.map (fun j => pred p.2 j))) |>.map (fun p => p.2),
      ((List.range w).zip jj).filter (fun p =>
        isum ((List.range ii.length).map (fun i => fvInt (at' i p.1))) != isum (ii.map (fun i => pred i p.2))) |>.map (fun p => p.2))
  else
    let yv := ks.map (fun k => ts.map (fun t' => lineSums (jj.map (fun j => factB x k j t'))))
    let xu := ks.map (fun k => ts.map (fun t' => lineSums (ii.map (fun i => factA x i k t'))))
    let rowOk := fun (p : Nat × Nat) =>
      let s := sum64 ((List.range w).map (fun j => at' p.1 j))
      let fs := (ks.zip yv).flatMap (fun ky => (ts.zip ky.2).map (fun ty => (factA x p.2 ky.1 ty.1, ty.2)))
      let pm := predict (if x.accIn then jj.map (fun j => x.c p.2 j) else []) fs
      linePasses x s pm.1 pm.2
    let colOk := fun (p : Nat × Nat) =>
      let s := sum64 ((List.range ii.length).map (fun i => at' i p.1))
      let fs := (ks.zip xu).flatMap (fun ky => (ts.zip ky.2).map (fun ty => (factB x ky.1 p.2 ty.1, ty.2)))
      let pm := predict (if x.accIn then ii.map (fun i => x.c i p.2) else []) fs
      linePasses x s pm.1 pm.2
    (((List.range ii.length).zip ii).filter (fun p => !rowOk p) |>.map (fun p => p.2),
      ((List.range w).zip jj).filter (fun p => !colOk p) |>.map (fun p => p.2))

/-- R124: whether two runs agree on every used output and the SAT bit. -/
def runsEqual (a b : TileRun) : Bool := a.outs == b.outs && a.errs == b.errs && a.sat == b.sat

/-- R509: the place of the first output in which two runs differ. -/
def firstDiff : List Nat → List Nat → Nat
  | x :: xs, y :: ys => if x = y then firstDiff xs ys + 1 else 0
  | _, _ => 0

/-- R108, R544: the MACs that a fill issues. -/
def fillMacs (narrow4 : Bool) (passes k : Nat) : Nat :=
  if narrow4 then 16384 * ceilDiv k 2
  else if passes = 2 then 4096 * 6 * k
  else if passes = 3 then 4096 * 12 * k
  else 8192 * k

end Sys2Proof.Machine
end

