-- ==== Sys2Proof/Machine/SawCodec.lean ====
section
/-!
DEFINITION. The segment format of the Sawmills and Expanders: header, frequency table, rANS blocks, and the checks
by which a reader refuses a segment (R281 to R299).
-/

namespace Sys2Proof.Machine

/-- R289: a segment header. -/
structure SegHdr where
  efmt : Nat
  mx : Bool
  rotated : Bool
  nf : Bool
  blog : Nat
  segBytes : Nat
  nsyms : Nat
  tensor : Nat
  nrows : Nat
  ncols : Nat
  row0 : Nat
  col0 : Nat
  gcols : Nat
  rotation : Nat
  xl : Nat
  xr : Nat
  genL : Nat
  genR : Nat
  deriving DecidableEq, Repr

/-- R281: SYMW of an element format code. -/
def symw (efmt : Nat) : Nat := if efmt = 0 ∨ efmt = 5 then 4 else if efmt = 1 ∨ efmt = 2 then 6 else 8

/-- R289: the 64 bytes of a header. -/
def segHdrBytes (h : SegHdr) : List Byte :=
  leBytes 2 0x5A4B ++ leBytes 1 1 ++
    leBytes 1 (h.efmt + 16 * nat01 h.mx + 32 * nat01 h.rotated + 64 * nat01 h.nf) ++
    leBytes 4 h.blog ++ leBytes 4 h.segBytes ++ leBytes 4 h.nsyms ++ leBytes 4 h.tensor ++ leBytes 4 h.nrows ++
    leBytes 4 h.ncols ++ leBytes 4 h.row0 ++ leBytes 4 h.col0 ++ leBytes 4 h.gcols ++ leBytes 8 h.rotation ++
    leBytes 4 (h.xl + h.xr * 65536) ++ leBytes 4 h.genL ++ leBytes 4 h.genR ++ leBytes 4 0

/-- A little-endian value of `n` bytes at `a` of a byte source. -/
def srcNat (rd : Nat → Byte) (a n : Nat) : Nat := leNat ((List.range n).map (fun i => rd (a + i)))

/-- R289: the header that a byte source begins with. -/
def segHdrOf (rd : Nat → Byte) : SegHdr :=
  let b3 := srcNat rd 3 1
  { efmt := b3 % 16, mx := bit b3 4, rotated := bit b3 5, nf := bit b3 6
    blog := srcNat rd 4 1 % 16, segBytes := srcNat rd 8 4, nsyms := srcNat rd 0x0C 4
    tensor := srcNat rd 0x10 4 % 2 ^ 28, nrows := srcNat rd 0x14 3, ncols := srcNat rd 0x18 3
    row0 := srcNat rd 0x1C 3, col0 := srcNat rd 0x20 3, gcols := srcNat rd 0x24 3
    rotation := srcNat rd 0x28 8
    xl := srcNat rd 0x30 2 % 1024, xr := srcNat rd 0x32 2 % 1024
    genL := srcNat rd 0x34 4, genR := srcNat rd 0x38 4 }

/-- R290: the frequency table of a segment. -/
def segTable (rd : Nat → Byte) (efmt : Nat) : List Nat :=
  (List.range (2 ^ symw efmt)).map (fun s => srcNat rd (0x40 + 2 * s) 2)

/-- R290: where block 0 begins. -/
def segBlocksAt (efmt : Nat) : Nat := 0x40 + 2 * 2 ^ symw efmt

/-- R298 check 1. -/
def segHdrOk (rd : Nat → Byte) : Bool :=
  let h := segHdrOf rd
  srcNat rd 0 2 == 0x5A4B && srcNat rd 2 1 == 1 && decide (h.efmt ≤ 6) && decide (2 ≤ h.blog ∧ h.blog ≤ 8) &&
    !bit (srcNat rd 3 1) 7 && decide (srcNat rd 4 4 < 16) && decide (srcNat rd 0x10 4 < 2 ^ 28) &&
    [0x17, 0x1B, 0x1F, 0x23, 0x27].all (fun a => rd a == 0) &&
    decide (srcNat rd 0x30 2 < 1024) && decide (srcNat rd 0x32 2 < 1024) && srcNat rd 0x3C 4 == 0 &&
    h.nsyms == h.nrows * h.ncols && (!h.mx || h.ncols % 32 == 0) &&
    (segTable rd h.efmt).foldl (fun a f => a + f) 0 == 4096

/-! ### The frequency table (R291) -/

/-- The index of the largest entry, the lowest on a tie. -/
def argMax : List Nat → Nat
  | [] => 0
  | x :: r =>
    let j := argMax r
    if r.getD j 0 ≤ x then 0 else j + 1

/-- The sum of a list. -/
def sumNat (l : List Nat) : Nat := l.foldl (fun a b => a + b) 0

/-- R291: the table brought to a sum of 4,096, one step at a time. -/
def fixTable : Nat → List Nat → List Nat
  | 0, f => f
  | n + 1, f =>
    let t := sumNat f
    if t = 4096 then f
    else
      let a := argMax f
      fixTable n (f.set a (if 4096 < t then f.getD a 0 - 1 else f.getD a 0 + 1))

/-- R291: the table of a segment's symbols. -/
def freqTable (w : Nat) (syms : List Nat) : List Nat :=
  let cnt := fun s => syms.countP (fun x => x == s)
  let n := syms.length
  fixTable 4096 ((List.range (2 ^ w)).map (fun s => if cnt s = 0 then 0 else max 1 (cnt s * 4096 / n)))

/-- R290: cum of symbol `s`. -/
def cumOf (f : List Nat) (s : Nat) : Nat := sumNat (f.take s)

/-! ### Coding a block (R294 to R297) -/

/-- R294: the raw size of `n` symbols. -/
def rawSize (w n : Nat) : Nat := packedLen w n

/-- R296: the renormalisation of a state while coding: bytes put out, first byte first. -/
def encNorm (lim : Nat) : Nat → Nat → List Byte → Nat × List Byte
  | 0, x, out => (x, out)
  | n + 1, x, out => if lim ≤ x then encNorm lim n (x / 256) (BitVec.ofNat 8 x :: out) else (x, out)

/-- R296: coding of symbols from the last to the first; `syms` is reversed and `i` is the index of its head. -/
def encLoop (f : List Nat) : List Nat → List Nat → List Byte → List Nat × List Byte
  | [], st, out => (st, out)
  | s :: r, st, out =>
    let j := r.length % 32
    let fs := f.getD s 0
    let p := encNorm (fs * 2 ^ 19) 8 (st.getD j 0) out
    let x := (p.1 / fs) * 4096 + p.1 % fs + cumOf f s
    encLoop f r (st.set j x) p.2

/-- R296: the coded payload of a block. -/
def encBlock (f : List Nat) (syms : List Nat) : List Byte :=
  let r := encLoop f syms.reverse (List.replicate 32 (2 ^ 23)) []
  r.1.flatMap (leBytes 4) ++ r.2

/-- Bytes padded with zeros to a multiple of 16. -/
def pad16 (bs : List Byte) : List Byte := bs ++ List.replicate ((16 - bs.length % 16) % 16) 0

/-- A length padded to a multiple of 16. -/
def pad16Len (n : Nat) : Nat := (n + 15) / 16 * 16

/-- R293 to R295: a block as written, and whether it is stored. -/
def writeBlock (w : Nat) (f syms : List Nat) (mx : Bool) (scales : List Nat) : List Byte × Bool :=
  let raw := rawSize w syms.length
  let coded := encBlock f syms
  let stored : Bool := decide (19 * raw < 20 * coded.length)
  let payload := if stored then packRow w syms else coded
  (leBytes 4 (syms.length + 2 ^ 31 * nat01 stored) ++ leBytes 4 raw ++ leBytes 4 payload.length ++ leBytes 4 0 ++
    (if mx then pad16 (scales.flatMap (leBytes 1)) else []) ++ pad16 payload, stored)

/-- R292: the blocks of a segment's symbols and scales, in order. -/
def segBlocks (w bs : Nat) (f : List Nat) (mx : Bool) : Nat → List Nat → List Nat → List (List Byte × Bool)
  | 0, _, _ => []
  | n + 1, syms, scales =>
    if syms.isEmpty then []
    else writeBlock w f (syms.take bs) mx (scales.take (ceilDiv (syms.take bs).length 32)) ::
      segBlocks w bs f mx n (syms.drop bs) (scales.drop (bs / 32))

/-- A whole segment: its bytes, and its numbers of coded and stored blocks. -/
def encodeSegment (h : SegHdr) (syms scales : List Nat) : List Byte × Nat × Nat :=
  let w := symw h.efmt
  let f := freqTable w syms
  let bl := segBlocks w (2 ^ (h.blog + 8)) f h.mx syms.length syms scales
  let body := f.flatMap (leBytes 2) ++ bl.flatMap (fun b => b.1)
  (segHdrBytes { h with segBytes := 64 + body.length, nsyms := syms.length } ++ body,
    bl.countP (fun b => !b.2), bl.countP (fun b => b.2))

/-! ### Reading a segment (R297, R298) -/

/-- R298: how a reader refuses: with STREAM_OVERRUN or STREAM_UNDERRUN, and the block number. -/
structure Refuse where
  overrun : Bool
  block : Nat
  deriving DecidableEq, Repr

/-- R297: the renormalisation of a state while decoding; none where the payload is at its end. -/
def decNorm (rd : Nat → Byte) (size : Nat) : Nat → Nat → Nat → Option (Nat × Nat)
  | 0, x, p => some (x, p)
  | n + 1, x, p =>
    if x < 2 ^ 23 then (if p = size then none else decNorm rd size n (x * 256 + (rd p).toNat) (p + 1))
    else some (x, p)

/-- The symbol of a slot: the first whose interval holds it, counting `c` below. -/
def symAt : List Nat → Nat → Nat → Nat → Nat × Nat
  | [], _, s, c => (s, c)
  | f :: r, slot, s, c => if slot < c + f then (s, c) else symAt r slot (s + 1) (c + f)

/-- R297: decoding of `n` symbols from index `i` on, newest first; none where the block holds fewer. -/
def decLoop (rd : Nat → Byte) (size : Nat) (f : List Nat) :
    Nat → Nat → List Nat → Nat → List Nat → Option (List Nat × Nat × List Nat)
  | 0, _, st, p, out => some (st, p, out)
  | n + 1, i, st, p, out =>
    let j := i % 32
    let x := st.getD j 0
    let slot := x % 4096
    let q := symAt f slot 0 0
    match decNorm rd size 4 (f.getD q.1 0 * (x / 4096) + slot - q.2) p with
    | none => none
    | some (y, p') => decLoop rd size f n (i + 1) (st.set j y) p' (q.1 :: out)

/-- R298 checks 6 and 7: a coded payload decoded; an error says whether it is an overrun. -/
def decBlock (rd : Nat → Byte) (size : Nat) (f : List Nat) (n : Nat) : Except Bool (List Nat) :=
  let st := (List.range 32).map (fun j => srcNat rd (4 * j) 4)
  if st.any (fun x => decide (x < 2 ^ 23) || decide (2 ^ 31 ≤ x)) then .error true
  else match decLoop rd size f n 0 st 128 [] with
    | none => .error false
    | some (st', p, out) =>
      if p < size ∨ st'.any (fun x => x != 2 ^ 23) then .error true else .ok out.reverse

/-- R298 checks 2 to 8: the blocks from block `k` at byte `pos` on: symbols and scale bytes, or a refusal. -/
def decBlocks (rd : Nat → Byte) (h : SegHdr) (f : List Nat) (nblocks : Nat) :
    Nat → Nat → Nat → Except Refuse (List Nat × List Nat)
  | 0, _, pos =>
    if h.segBytes < pos then .error ⟨false, nblocks⟩
    else if pos < h.segBytes then .error ⟨true, nblocks⟩
    else .ok ([], [])
  | n + 1, k, pos =>
    let bs := 2 ^ (h.blog + 8)
    let w := symw h.efmt
    let expect := min bs (h.nsyms - k * bs)
    let w0 := srcNat rd pos 4
    let nsym := w0 % 2 ^ 17
    let stored := bit w0 31
    let ceil := srcNat rd (pos + 4) 4
    let size := srcNat rd (pos + 8) 4
    let sc := if h.mx then ceilDiv nsym 32 else 0
    let pay := pos + 16 + pad16Len sc
    if h.segBytes < pos + 16 then .error ⟨false, nblocks⟩
    else if expect < nsym then .error ⟨true, k⟩
    else if nsym < expect then .error ⟨false, k⟩
    else if ceil ≠ rawSize w nsym ∨ ceil < size then .error ⟨true, k⟩
    else if stored ∧ size ≠ ceil then .error ⟨false, k⟩
    else if !stored ∧ size < 128 then .error ⟨false, k⟩
    else if h.segBytes < pay + pad16Len size then .error ⟨false, nblocks⟩
    else
      let prd := fun i => rd (pay + i)
      let syms := if stored then .ok ((List.range nsym).map (packedGet prd w)) else decBlock prd size f nsym
      match syms with
      | .error o => .error ⟨o, k⟩
      | .ok ss =>
        match decBlocks rd h f nblocks n (k + 1) (pay + pad16Len size) with
        | .error e => .error e
        | .ok (r, rs) =>
          .ok (ss ++ r, (List.range sc).map (fun i => (rd (pos + 16 + i)).toNat) ++ rs)

/-- R292: the number of blocks of a segment. -/
def segNBlocks (h : SegHdr) : Nat := ceilDiv h.nsyms (2 ^ (h.blog + 8))

/-- R298: a segment whose header passes check 1 read whole: its symbols and its scale bytes. -/
def readBlocks (rd : Nat → Byte) (h : SegHdr) : Except Refuse (List Nat × List Nat) :=
  decBlocks rd h (segTable rd h.efmt) (segNBlocks h) (segNBlocks h) 0 (segBlocksAt h.efmt)

/-- R298: a segment read whole. -/
def readSegment (rd : Nat → Byte) : Except Refuse (SegHdr × List Nat × List Nat) :=
  if !segHdrOk rd then .error ⟨true, 0xFFFFFFFF⟩
  else
    let h := segHdrOf rd
    match readBlocks rd h with
    | .error e => .error e
    | .ok (ss, sc) => .ok (h, ss, sc)

/-- R85, R282: the value of symbol `i` of a segment. -/
def symValue (efmt : Nat) (mx : Bool) (scales : List Nat) (i code : Nat) : FVal :=
  let f := (fmtOfCode efmt).getD .int8
  if mx then decodeScaled f (scales.getD (i / 32) 0) code else decodeCode f code

end Sys2Proof.Machine
end

