-- ==== Sys2Proof/Machine/Scaler.lean ====
section
/-!
DEFINITION. The Scaler: binding, conversion through an entry with bumps and fallbacks, counting, mending, the check
of the table and its update at a step close (R134 to R152, R604).
-/

namespace Sys2Proof.Machine

/-! ### Binding (R137, R139) -/

/-- R137: the entry with the key (TENSOR, FMT), while the table is enabled. -/
def sclFind (s : State) (tensor code : Nat) : Option Nat :=
  if getA s Reg.sclCtrl_enable = 1 then
    (List.range (sclCount s)).find? (fun n => sclTensor s n == tensor && sclFmtCode s n == code)
  else none

/-- R139: the exponent that an operand's entry number gives; 0x3FF gives 0. -/
def sclInExp (s : State) (n : Nat) : Int := if n = 0x3FF then 0 else sclExp s n

/-- R139: the binding of an operation that names a tensor and a destination format word. -/
def sclBind (s : State) (named : Bool) (tensor fw : Nat) : Option Bind :=
  if !named || fwMx fw then none
  else match sclFind s tensor (fw % 16) with
    | some n => some ⟨n, sclExp s n, sclInExp s (sclInA s n) + sclInExp s (sclInB s n), []⟩
    | none => none

/-- Whether a binding is to a narrow entry. -/
def bindNarrow (s : State) (bd : Option Bind) : Bool :=
  match bd with
  | some b => sclNarrow (sclFmtCode s b.entry)
  | none => false

/-- R145: the unit map that an operation of `n` units writes. -/
def mapRegions (s : State) (d : Desc) (bd : Option Bind) (n : Nat) : List Region :=
  match bd with
  | some b => if bindNarrow s bd && !dEval d then [⟨sclMap s b.entry, 0, 1, ceilDiv n 4⟩] else []
  | none => []

/-! ### Counting (R141, R149) -/

/-- The format counts of a code with nothing counted. -/
def fmtCountsZero : FmtCounts := ⟨0, 0, 0, 0, 0⟩

/-- How many of some classes are `c`. -/
def clsCount (c : Cls) (l : List Cls) : Nat := l.countP (fun x => x == c)

/-- R154: whether a close stands between its step 1 and its step 5. -/
def sclClosing (s : State) : Bool :=
  s.ops.any (fun o => match o.work with
    | .close w => w.asked && w.nf.isNone && o.ended.isNone
    | _ => false)

/-- R154: whether conversions are counted apart from the step that closes. -/
def sclApart (s : State) : Bool := s.sclAside || sclClosing s

/-- The count of `size` bytes at byte offset `off` of entry `n`. -/
def sclCnt (s : State) (n off size : Nat) : Nat :=
  if sclApart s then sparseGet 0 (n * 128 + off) s.sclLate else rdNat s (sclAddr s n + off) size

/-- The count of `size` bytes at byte offset `off` of entry `n` set. -/
def setSclCnt (s : State) (n off size v : Nat) : State :=
  if sclApart s then { s with sclLate := sparseSet 0 (n * 128 + off) v s.sclLate } else wrNat s (sclAddr s n + off) size v

/-- R135: a saturating count of an entry raised. -/
def addSclCnt (s : State) (n off size v : Nat) : State :=
  setSclCnt s n off size (satAdd (2 ^ (8 * size) - 1) (sclCnt s n off size) v)

/-- The counts of a format with some added. -/
def fmtAdd (c d : FmtCounts) : FmtCounts := ⟨c.all + d.all, c.ovf + d.ovf, c.ftz + d.ftz, c.sub + d.sub, c.nf + d.nf⟩

/-- R149: conversions counted under a format. -/
def addFmt (s : State) (code : Nat) (d : FmtCounts) : State :=
  if sclApart s then
    { s with sclFmtLate := sparseSet fmtCountsZero code (fmtAdd (sparseGet fmtCountsZero code s.sclFmtLate) d) s.sclFmtLate }
  else { s with sclFmt := sparseSet fmtCountsZero code (fmtAdd (sparseGet fmtCountsZero code s.sclFmt) d) s.sclFmt }

/-- R149: the Mill's block for its Cell (R9). -/
def millOfCell (cell : Nat) : Nat := millBase (cell / 32)

/-- R149: conversions counted in their entry and under their format. -/
def countConv (s : State) (cell : Nat) (eval : Bool) (bd : Option Bind) (code : Nat) (cs : List Cls) : State :=
  if eval then s
  else
    let s1 := event s (millOfCell cell) 0x0B cs.length
    let d : FmtCounts := ⟨cs.length, clsCount .ovf cs, clsCount .ftz cs, clsCount .sub cs, clsCount .nonfinite cs⟩
    let s2 := if code ≤ 10 then addFmt s1 code d else s1
    match bd with
    | none => s2
    | some b =>
      [(0x64, d.ovf), (0x68, d.ftz), (0x6C, d.sub), (0x70, d.nf), (0x74, d.all)].foldl
        (fun t p => addSclCnt t b.entry p.1 4 p.2) s2

/-- R141: `|r|` of a finite value rounded to an FP32 code toward +∞, at most the largest finite code. -/
def absUp32 (v : FVal) : Nat :=
  let c := (convert .fp32 .rz (fvAbs v)).1
  if fvLt (decodeCode .fp32 c) (fvAbs v) then min (c + 1) (fmtMaxCode .fp32) else c

/-- R141: STEP_AMAX raised by the values of a unit. -/
def raiseAmax (s : State) (eval : Bool) (bd : Option Bind) (rs : List FVal) : State :=
  match bd with
  | none => s
  | some b =>
    if eval then s
    else
      let fin := rs.filter (fun r => !fvNonFinite r)
      setSclCnt s b.entry 0x60 4 (fin.foldl (fun m r => max m (absUp32 r)) (sclCnt s b.entry 0x60 4))

/-! ### A unit through an entry (R140 to R145, R148) -/

/-- R140: the conversions of a unit at bump `b`. -/
def convertAt (f : Fmt) (ein e : Int) (b : Nat) (xs : List (FVal × Rnd)) : List (Nat × Cls) :=
  xs.map (fun x => convert f x.2 (fvScale (ein - (e + b)) x.1))

/-- Whether some conversion is of class OVF. -/
def anyOvf (cs : List (Nat × Cls)) : Bool := cs.any (fun c => c.2 == .ovf)

/-- R143, R144: the bump a unit finally keeps from `b` on, its conversions there, and whether it falls back. -/
def bumpLoop (f : Fmt) (ein e : Int) (xs : List (FVal × Rnd)) : Nat → Nat → Nat × List (Nat × Cls) × Bool
  | 0, b => (b, convertAt f ein e b xs, anyOvf (convertAt f ein e b xs))
  | n + 1, b =>
    if anyOvf (convertAt f ein e b xs) && decide (e + b < 127) then bumpLoop f ein e xs n (b + 1)
    else (b, convertAt f ein e b xs, anyOvf (convertAt f ein e b xs))

/-- R145: the map field of unit `u` written. -/
def writeMap (s : State) (entry u v : Nat) : State :=
  let a := sclMap s entry + u / 4
  wrNat s a 1 (setBits (rdNat s a 1) (2 * (u % 4) + 1) (2 * (u % 4)) v)

/-- R144: the BF16 shadow of a unit that fell back; an element at an offset that cannot be written is not written
(log entry 52). -/
def writeShadow (s : State) (entry : Nat) (rs : List FVal) (gidx : List Nat) : State :=
  let a := sclShadow s entry
  if a = 0 then s
  else
    let ps := (rs.zip gidx).filter (fun p => (accessFault s [⟨a + 2 * p.2, 0, 1, 2⟩]).isNone)
    wrMem s (ps.flatMap (fun p => natWrites (a + 2 * p.2) 2 (convert .bf16 .rne p.1).1))

/-- R144: the BF16 codes of a shadow. -/
def shadowCodes (rs : List FVal) : List Nat := rs.map (fun r => (convert .bf16 .rne r).1)

/-- R144: the elements of a shadow whose row-major indices are `rows` rows of `cols` from `out0` on, `ng` apart. -/
def shadowRegion (s : State) (entry out0 ng rows cols : Nat) : Region :=
  ⟨sclShadow s entry + 2 * out0, 2 * ng, rows, 2 * cols⟩

/-- R158: whether a shadow that an operation may write meets a working copy.  DESIGN CHOICE: it is judged at the beginning
over every element that could fall back, since the operation may then write nothing (log entry 69). -/
def shadowMeets (s : State) (d : Desc) (bd : Option Bind) (out0 ng rows cols : Nat) : Bool :=
  match bd with
  | some b => bindNarrow s bd && !dEval d && sclShadow s b.entry != 0 && meetsWorking s [shadowRegion s b.entry out0 ng rows cols]
  | none => false

/-- R92, R156: the Cell's flag set where a conversion of work that stands met an infinity or a NaN. -/
def flagConv (s : State) (cell : Nat) (eval : Bool) (f : Fmt) (xs : List (FVal × Rnd)) (cs : List Nat) : State :=
  let hit : Bool := !eval && (xs.any (fun x => fvNonFinite x.1) || cs.any (fun c => fvNonFinite (decodeCode f c)))
  event (flagCell s cell hit) (cellBase cell) 0x0B (nat01 hit)

/-- R137 to R148: one unit of an output without block scales: the codes to write, and the binding with the unit. -/
def unitOut (s : State) (cell : Nat) (eval : Bool) (bd : Option Bind) (u : Nat) (f : Fmt)
    (xs : List (FVal × Rnd)) (gidx : List Nat) : State × List Nat × Option Bind :=
  match bd with
  | none =>
    let cs := xs.map (fun x => convert f x.2 x.1)
    (flagConv (countConv s cell eval none (fmtCode f) (cs.map Prod.snd)) cell eval f xs (cs.map Prod.fst),
      cs.map Prod.fst, none)
  | some b =>
    let narrow := sclNarrow (fmtCode f)
    let c0 := convertAt f b.ein b.e 0 xs
    let r := if narrow && !eval then bumpLoop f b.ein b.e xs 2 0 else (0, c0, false)
    let rs := xs.map (fun x => fvScale b.ein x.1)
    let codes := r.2.1.map Prod.fst
    let s1 := raiseAmax (countConv s cell eval bd (fmtCode f) (c0.map Prod.snd)) eval bd rs
    let s2 := if r.2.2 then addSclCnt (writeShadow s1 b.entry rs gidx) b.entry 0x7A 2 1 else s1
    let shadow : Bool := r.2.2 && sclShadow s b.entry != 0
    let s3 := if narrow && !eval then writeMap s2 b.entry u (if r.2.2 then 3 else r.1) else s2
    let s4 := if shadow then flagCell s3 cell ((shadowCodes rs).any (fun c => fvNonFinite (decodeCode .bf16 c))) else s3
    (flagConv s4 cell eval f xs codes, codes,
      some { b with units := b.units.filter (fun x => x.1 != u) ++ [(u, r.1, r.2.2)] })

/-- R95 to R97, R149: the blocks of an output with block scales: scale byte and codes of each. -/
def blocksOut (s : State) (cell : Nat) (eval : Bool) (f : Fmt) (noClip : Bool) (bs : List (List (FVal × Rnd))) :
    State × List (Nat × List Nat) :=
  let rs := bs.map (convertBlock f noClip)
  let cls := rs.flatMap (fun r => r.2.map Prod.snd)
  let s1 := countConv s cell eval none (fmtCode f) cls
  let hit : Bool := !eval && (cls.any (fun c => c == .nonfinite))
  (event (flagCell s1 cell hit) (cellBase cell) 0x0B (nat01 hit), rs.map (fun r => (r.1, r.2.map Prod.fst)))

/-! ### The end of an operation (R146) -/

/-- R146: B of an operation. -/
def bindTop (b : Bind) : Nat := b.units.foldl (fun m x => max m x.2.1) 0

/-- R146: the codes of some packed rows multiplied by `2 ^ k` by RNE. -/
def mendRows (s : State) (f : Fmt) (rows : List (Nat × Nat)) (k : Int) : State :=
  rows.foldl (fun t r =>
    let cs := (List.range r.2).map (fun i => packedGet (fun a => memRead t.mem (r.1 + a)) (fmtWidth f) i)
    wrMem t (bytesWrites r.1 (packRow (fmtWidth f) (cs.map (fun c => (convert f .rne (fvScale k (decodeCode f c))).1))))) s

/-- R146: the units of a binding that have a bump below B are mended. -/
def sclMend (s : State) (b : Bind) (f : Fmt) (rowsOf : Nat → List (Nat × Nat)) : State :=
  b.units.foldl (fun t x =>
    if x.2.1 < bindTop b then mendRows t f (rowsOf x.1) ((x.2.1 : Int) - (bindTop b : Int)) else t) s

/-- R146, R147: EXP and BUMPS follow the bumps of an operation's units. -/
def sclSettle (s : State) (b : Bind) : State :=
  let top := bindTop b
  if top = 0 then s
  else
    let s1 := wrNat s (sclAddr s b.entry + 4) 1 (ofSigned 8 (max (sclExp s b.entry) (b.e + top)))
    addSclCnt s1 b.entry 0x78 2 (b.units.countP (fun x => x.2.1 != 0))

/-! ### The runs of a level-2 operation (R49, R156) -/

/-- What a run gives beside its outputs before it has given anything. -/
def sideNone : RunSide := ⟨[], [], [], none⟩

/-- Counts by format put together. -/
def mergeFmt (xs ys : List (Nat × FmtCounts)) : List (Nat × FmtCounts) :=
  ys.foldl (fun l p => sparseSet fmtCountsZero p.1 (fmtAdd (sparseGet fmtCountsZero p.1 l) p.2) l) xs

/-- A count of an entry by its key with a value put to it: the larger of two STEP_AMAX, else the sum. -/
def sideCnt (key x y : Nat) : Nat := if key % 128 = 0x60 then max x y else x + y

/-- Counts of entries put together. -/
def mergeEnts (xs ys : List (Nat × Nat)) : List (Nat × Nat) :=
  ys.foldl (fun l p => sparseSet 0 p.1 (sideCnt p.1 (sparseGet 0 p.1 l) p.2) l) xs

/-- The Cells whose non-finite flag is set. -/
def flaggedCells (s : State) : List Nat := (List.range 128).filter (fun c => (cellGet s c).nf)

/-- The non-finite flag of every Cell set as some list says. -/
def setFlags (s : State) (on : List Nat) : State :=
  (List.range 128).foldl (fun t c => if (cellGet t c).nf == on.contains c then t
    else cellSet t c { cellGet t c with nf := on.contains c }) s

/-- R49: one piece of work of an operation: in run 1 of a level-2 operation its Scaler counts, STEP_AMAX values and
non-finite flags are held with the operation. -/
def onSide (s : State) (ctx idx : Nat) (f : State → State) : State :=
  match findOp s ctx idx with
  | none => f s
  | some o =>
    if checkLevel o.d ≠ 2 then f s
    else
      let on := flaggedCells s
      let t := f (setFlags { s with sclAside := true, sclLate := [], sclFmtLate := [] } [])
      let got : RunSide := ⟨t.sclFmtLate, t.sclLate, flaggedCells t, none⟩
      let u := setFlags { t with sclAside := s.sclAside, sclLate := s.sclLate, sclFmtLate := s.sclFmtLate } on
      updOp u ctx idx (fun p => { p with side :=
        { p.side with fmt := mergeFmt p.side.fmt got.fmt, ents := mergeEnts p.side.ents got.ents
                      flags := p.side.flags ++ got.flags.filter (fun c => !p.side.flags.contains c) } })

/-- The bytes that a count of an entry takes. -/
def cntSize (off : Nat) : Nat := if off < 0x78 then 4 else 2

/-- R49: what the run that stands gives beside its outputs is applied. -/
def applySide (s : State) (x : RunSide) : State :=
  let s1 := x.fmt.foldl (fun t p => addFmt t p.1 p.2) s
  let s2 := x.ents.foldl (fun t p =>
    let n := p.1 / 128
    let off := p.1 % 128
    if off = 0x60 then setSclCnt t n off 4 (max (sclCnt t n off 4) p.2) else addSclCnt t n off (cntSize off) p.2) s1
  let s3 := x.flags.foldl (fun t c => flagCell t c true) s2
  match x.bind with
  | some b => sclSettle s3 b
  | none => s3

/-! ### Enabling the table (R138) -/

/-- R138: whether a code is a finite FP32 value with sign bit 0. -/
def finitePos (c : Nat) : Bool := decide (c ≤ 0x7F7FFFFF)

/-- R138: whether entry `n` is at fault; `unreadable` are the entries whose read met an uncorrectable error. -/
def sclEntryBad (s : State) (unreadable : List Nat) (n : Nat) : Bool :=
  let code := sclFmtCode s n
  !inHbm s (sclAddr s n) 128 || unreadable.contains n ||
    (List.range n).any (fun m => sclTensor s m == sclTensor s n && sclFmtCode s m == code) ||
    code == 5 || decide (9 < code) || sclExp s n == -128 || sclEInit s n == -128 ||
    [sclInA s n, sclInB s n].any (fun x => x != 0x3FF && decide (sclCount s ≤ x)) ||
    (sclNarrow code && sclMap s n == 0) ||
    !finitePos (sclAmax s n) || (List.range 16).any (fun k => !finitePos (sclHistory s n k))

/-- R138: the effect of a write of ENABLE = 1: the table is checked. -/
def sclCheck (s : State) (unreadable : List Nat) : State :=
  match (List.range (sclCount s)).find? (sclEntryBad s unreadable) with
  | some n => setA (setA (setA s Reg.sclCtrl_enable 0) Reg.sclCtrl_err 1) Reg.sclCtrl_errEntry n
  | none => setA (setA s Reg.sclCtrl_enable 1) Reg.sclCtrl_err 0

/-! ### The step close (R150 to R152, R604) -/

/-- R152: the smallest integer `e` with `x ≤ largest × 2 ^ e`, for a positive finite `x`. -/
def leastExp (largest x : FVal) : Int :=
  let e0 := fvLog2 x - fvLog2 largest
  if fvLe x (fvScale e0 largest) then e0 else e0 + 1

/-- R152: the largest value of an entry's format. -/
def sclLargest (code : Nat) : FVal := if code = 6 then fvOfNat 127 else mxLargest ((fmtOfCode code).getD .fp32)

/-- R152: the new EXP of a narrow entry from the largest HISTORY code, compared as an unsigned integer. -/
def newExp (est headroom code : Nat) (eInit : Int) : Int :=
  if est = 0 then max (-127) (min 127 eInit)
  else
    match decodeCode .fp32 est with
    | .fin false m e => max (-127) (min 127 (leastExp (sclLargest code) (.fin false m (e + headroom))))
    | _ => 127

/-- R151 step 4, R152: history and EXP of narrow entry `n` updated with the stand maximum. -/
def sclHistoryStep (s : State) (n standMax : Nat) : State :=
  let a := sclAddr s n
  let pos := sclHistPos s n
  let s1 := wrBits (wrNat s (a + 0x20 + 4 * pos) 4 standMax) (a + 0x0C) 3 0 ((pos + 1) % 16)
  let est := (List.range 16).foldl (fun m k => max m (sclHistory s1 n k)) 0
  wrNat s1 (a + 4) 1 (ofSigned 8 (newExp est (sclHeadroom s1 n) (sclFmtCode s1 n) (sclEInit s1 n)))

/-- R151 step 4: every narrow entry updated. -/
def sclHistorySteps (s : State) (maxes : List Nat) : State :=
  (List.range (sclCount s)).foldl (fun t n =>
    if sclNarrow (sclFmtCode t n) then sclHistoryStep t n (maxes.getD n 0) else t) s

/-- R150: a share of a count. -/
def share (count all : Nat) : Nat := if all = 0 then 0 else min 65535 (count * 65536 / all)

/-- R150: the 16 bytes of an item. -/
def sclItem (item bumps ovf ftz sub nf all exp falls : Nat) : List Byte :=
  leBytes 2 item ++ leBytes 2 bumps ++ leBytes 2 (share ovf all) ++ leBytes 2 (share ftz all) ++
    leBytes 2 (share sub all) ++ leBytes 2 (share nf all) ++ leBytes 1 exp ++ leBytes 1 falls ++ leBytes 2 0

/-- R150: the item of entry `n`. -/
def sclEntryItem (s : State) (n : Nat) : List Byte :=
  let a := sclAddr s n
  sclItem n (rdNat s (a + 0x78) 2) (rdNat s (a + 0x64) 4) (rdNat s (a + 0x68) 4) (rdNat s (a + 0x6C) 4)
    (rdNat s (a + 0x70) 4) (rdNat s (a + 0x74) 4) (rdNat s (a + 4) 1) (min 255 (rdNat s (a + 0x7A) 2))

/-- R150: the item of a format code. -/
def sclFmtItem (s : State) (code : Nat) : List Byte :=
  let c := sparseGet fmtCountsZero code s.sclFmt
  sclItem (0xF000 + code) 0 c.ovf c.ftz c.sub c.nf c.all 0 0

/-- R604: the entries that a step close updates and reports. -/
def sclEntries (s : State) : List Nat := if getA s Reg.sclCtrl_enable = 1 then List.range (sclCount s) else []

/-- R150, R604: the Scaler section. -/
def sclSection (s : State) : List Byte :=
  (sclEntries s).flatMap (sclEntryItem s) ++ (List.range 11).flatMap (sclFmtItem s)

/-- R151 step 5, R154: every count of the step set to 0, or to what counts toward the next step. -/
def sclClear (s : State) : State :=
  let late := fun (n off : Nat) => leBytes (cntSize off) (sparseGet 0 (n * 128 + off) s.sclLate)
  let s1 := (sclEntries s).foldl (fun t n => wrMem t (bytesWrites (sclAddr t n + 0x60)
    ([0x60, 0x64, 0x68, 0x6C, 0x70, 0x74, 0x78, 0x7A].flatMap (late n)))) s
  { s1 with sclFmt := s.sclFmtLate, sclLate := [], sclFmtLate := [] }

end Sys2Proof.Machine
end

