-- ==== Sys2Proof/Machine/Matrix.lean ====
section
/-!
DEFINITION. The matrix arrays: the matrix body, tiles and banks, panels, side gathering, checks, drains and drops
(R105 to R133, R190 to R194, R302 to R304, R601, R602).
-/

namespace Sys2Proof.Machine

/-! ### The matrix body (R130) -/

/-- R130: M. -/
def mM (d : Desc) : Nat := dfld d 0x58 23 0
/-- R130: N. -/
def mN (d : Desc) : Nat := dfld d 0x5C 23 0
/-- R130: K. -/
def mK (d : Desc) : Nat := dfld d 0x60 23 0
/-- R130: FMT_A. -/
def mFmtA (d : Desc) : Nat := dfld d 0x64 15 0
/-- R130: FMT_B. -/
def mFmtB (d : Desc) : Nat := dfld d 0x66 15 0
/-- R130: FMT_C. -/
def mFmtC (d : Desc) : Nat := dfld d 0x68 15 0
/-- R130: FMT_D. -/
def mFmtD (d : Desc) : Nat := dfld d 0x6A 15 0
/-- R130: PASSES. -/
def mPasses (d : Desc) : Nat := dfld d 0x6C 1 0
/-- R130: ACC_IN. -/
def mAccIn (d : Desc) : Bool := dfld d 0x6C 2 2 == 1
/-- R130: TRANS_A. -/
def mTransA (d : Desc) : Bool := dfld d 0x6C 3 3 == 1
/-- R130: TRANS_B. -/
def mTransB (d : Desc) : Bool := dfld d 0x6C 4 4 == 1
/-- R130: SR_ACC. -/
def mSrAcc (d : Desc) : Bool := dfld d 0x6C 5 5 == 1
/-- R130: STREAM_VALID. -/
def mStream (d : Desc) : Bool := dfld d 0x6C 6 6 == 1
/-- R130: OUT_PURPOSE. -/
def mPurpose (d : Desc) : Nat := dfld d 0x6C 7 7
/-- R130: ZB. -/
def mZb (d : Desc) : Bool := dfld d 0x6C 8 8 == 1
/-- R130: OUT0. -/
def mOut0 (d : Desc) : Nat := dfld d 0x70 39 0
/-- R130: K0. -/
def mK0 (d : Desc) : Nat := dfld d 0x70 63 40
/-- R130: TENSOR. -/
def mTensor (d : Desc) : Nat := dfld d 0x78 27 0
/-- R130: NG. -/
def mNg (d : Desc) : Nat := dfld d 0x7C 31 0
/-- R190: MODE. -/
def sideMode (d : Desc) : Nat := dfld d 0x6E 1 0
/-- R190: SIDE_CTRL, whole. -/
def sideCtrl (d : Desc) : Nat := dfld d 0x6E 15 0
/-- R190: the sampling stride. -/
def sideStride (d : Desc) : Nat := dfld d 0x6E 7 2 + 1
/-- R190: ENTRY. -/
def sideEntry (d : Desc) : Nat := dfld d 0x6E 15 8

/-- Whether a matrix descriptor is MATMUL_PAIR (R129). -/
def mPair (d : Desc) : Bool := dOpcode d == 0x0101

/-- R111: the accumulator of an operation. -/
def mAcc (d : Desc) : AccKind :=
  if fwFmtD (mFmtA d) = .fp64 then .f64
  else if fmtIsInt (fwFmtD (mFmtA d)) && !fwMx (mFmtA d) then .i32 else .f32

/-- R130: a matrix operand region of `rows` rows of `cols` elements of format word `fw` in a slot. -/
def slotRegion (d : Desc) (off fw rows cols : Nat) : Region :=
  ⟨slotOff d off, slotPitch d off, rows, packedLen (fmtWidth (fwFmtD fw)) cols⟩

/-- R130: a scale region of `rows` rows for `cols` elements. -/
def slotScales (d : Desc) (off rows cols : Nat) : Region := ⟨slotOff d off, slotPitch d off, rows, ceilDiv cols 32⟩

/-- R130: the regions of A. -/
def regA (d : Desc) : List Region :=
  (if mTransA d then slotRegion d 0x20 (mFmtA d) (mK d) (mM d) else slotRegion d 0x20 (mFmtA d) (mM d) (mK d)) ::
    (if fwMx (mFmtA d) then [slotScales d 0x28 (mM d) (mK d)] else [])

/-- R130: the regions of B where ZB = 0. -/
def regB (d : Desc) : List Region :=
  (if mTransB d then slotRegion d 0x30 (mFmtB d) (mN d) (mK d) else slotRegion d 0x30 (mFmtB d) (mK d) (mN d)) ::
    (if fwMx (mFmtB d) then [slotScales d 0x38 (mN d) (mK d)] else [])

/-- R130: the region of C. -/
def regC (d : Desc) : List Region := if mAccIn d then [slotRegion d 0x40 (mFmtC d) (mM d) (mN d)] else []

/-- R130: the regions that are written: D, and its scales or E. -/
def regD (d : Desc) : List Region :=
  slotRegion d 0x48 (mFmtD d) (mM d) (mN d) ::
    (if mPair d then [slotRegion d 0x50 0x9 (mM d) (mN d)]
     else if fwMx (mFmtD d) then [slotScales d 0x50 (mM d) (mN d)] else [])

/-- A packed element's code in memory. -/
def memCode (s : State) (off w i : Nat) : Nat := packedGet (fun a => memRead s.mem (off + a)) w i

/-- An element of a stored matrix, with its block scale where there is one. -/
def memElem (s : State) (fw off pitch r c : Nat) (scale : Option Nat) : FVal :=
  let f := fwFmtD fw
  let code := memCode s (off + r * pitch) (fmtWidth f) c
  match scale with
  | some a => decodeScaled f (memRead s.mem a).toNat code
  | none => decodeCode f code

/-- R112: the value of A at (i, k). -/
def aVal (s : State) (d : Desc) (i k : Nat) : FVal :=
  let sc := if fwMx (mFmtA d) then some (slotOff d 0x28 + i * slotPitch d 0x28 + k / 32) else none
  if mTransA d then memElem s (mFmtA d) (slotOff d 0x20) (slotPitch d 0x20) k i sc
  else memElem s (mFmtA d) (slotOff d 0x20) (slotPitch d 0x20) i k sc

/-- R112: the value of B at (k, j), read from memory. -/
def bVal (s : State) (d : Desc) (k j : Nat) : FVal :=
  let sc := if fwMx (mFmtB d) then some (slotOff d 0x38 + j * slotPitch d 0x38 + k / 32) else none
  if mTransB d then memElem s (mFmtB d) (slotOff d 0x30) (slotPitch d 0x30) j k sc
  else memElem s (mFmtB d) (slotOff d 0x30) (slotPitch d 0x30) k j sc

/-- R302: the value of B at (k, j) in a decoded panel. -/
def panelVal (d : Desc) (p : PanelBuf) (k j : Nat) : FVal :=
  let i := (j % 64) * mK d + k
  symValue (mFmtB d % 16) (fwMx (mFmtB d)) p.scales i (p.syms.getD i 0)

/-- R112: the value of C at (i, j). -/
def cVal (s : State) (d : Desc) (i j : Nat) : FVal :=
  memElem s (mFmtC d) (slotOff d 0x40) (slotPitch d 0x40) i j none

/-- What the tiles of an operation compute from, with the panel buffer of its tile where ZB = 1. -/
def matSpec (s : State) (o : Op) (p : Option PanelBuf) : MatSpec :=
  let d := o.d
  { m := mM d, n := mN d, k := mK d, acc := mAcc d, passes := mPasses d, pair := mPair d, srAcc := mSrAcc d
    seed := getA2 s Reg.jobSeed_seedLo Reg.jobSeed_seedHi, stream := streamId 1 (mTensor d), step := o.step
    out0 := mOut0 d, ng := mNg d, k0 := mK0 d
    a := aVal s d
    b := (match p with
      | some q => panelVal d q
      | none => bVal s d)
    accIn := mAccIn d, c := cVal s d }

/-! ### Operations and tiles -/

/-- A matrix operation's progress. -/
def matOf (o : Op) : MatWork :=
  match o.work with
  | .mat w => w
  | _ => ⟨[], [], none, none⟩

/-- A matrix operation's progress changed. -/
def setMat (s : State) (ctx idx : Nat) (f : MatWork → MatWork) : State :=
  updOp s ctx idx (fun o => { o with work := .mat (f (matOf o)) })

/-- One tile of an operation changed. -/
def setTile (s : State) (ctx idx t : Nat) (f : Tile → Tile) : State :=
  setMat s ctx idx (fun w => { w with tiles := w.tiles.map (fun x => if x.t == t then f x else x) })

/-- A tile in progress. -/
def findTile (s : State) (ctx idx t : Nat) : Option (Op × Tile) :=
  match findOp s ctx idx with
  | some o => (match (matOf o).tiles.find? (fun x => x.t == t) with
      | some x => some (o, x)
      | none => none)
  | none => none

/-- R107: the Cell of tile or unit `t`. -/
def cellOfUnit (d : Desc) (t : Nat) : Nat :=
  let cs := scopeCells d
  cs.getD (t % cs.length) 0

/-- The number of tiles of an operation. -/
def opTiles (d : Desc) : Nat := tileCount (mM d) (mN d)

/-- R107: a Cell's lowest tile that has not begun. -/
def nextTile (o : Op) (cell : Nat) : Option Nat :=
  (List.range (opTiles o.d)).find? (fun t => cellOfUnit o.d t == cell && !(matOf o).drained.contains t &&
    !(matOf o).tiles.any (fun x => x.t == t))

/-- R358: whether the slot of ELASTIC work has ended, so that it begins nothing further. -/
def slotOver (s : State) (o : Op) : Bool := dElastic o.d && decide (o.slot < s.time.ticksTaken)

/-- R590, R591: whether units begin no work: a Brake is in progress or a thermal hold is in force. -/
def unitsHeld (s : State) : Bool := getD s Reg.brake_active == 1 || thermalHold s

/-- The empty result of a run. -/
def runNone : TileRun := ⟨[], [], false, false⟩

/-- Counts on an operation changed. -/
def opReruns (s : State) (ctx idx n : Nat) : State := updOp s ctx idx (fun o => { o with reruns := o.reruns + n })

/-- Checks made by an operation. -/
def opChecks (s : State) (ctx idx n : Nat) : State := updOp s ctx idx (fun o => { o with checks := o.checks + n })

/-- R601: an operation offers its next tile on a Cell. -/
def offerTile (s : State) (cell ctx idx : Nat) : State :=
  let c := cellGet s cell
  match findOp s ctx idx with
  | some o => if (nextTile o cell).isSome && !c.offers.contains (ctx, idx)
      then cellSet s cell { c with offers := c.offers ++ [(ctx, idx)] } else s
  | none => s

/-- The Cells that an operation's tiles use, ascending. -/
def opCells (d : Desc) : List Nat := (scopeCells d).filter (fun c => (List.range (opTiles d)).any (fun t => cellOfUnit d t == c))

/-- R601: an operation offers a tile on every Cell it uses. -/
def offerAll (s : State) (o : Op) : State := (opCells o.d).foldl (fun t c => offerTile t c o.ctx o.idx) s

/-- The banks of a Cell that tiles other than (ctx, idx, t) occupy. -/
def banksTaken (s : State) (cell ctx idx t : Nat) : List Nat :=
  s.ops.flatMap (fun o => (matOf o).tiles.flatMap (fun x =>
    if x.cell = cell ∧ !(o.ctx == ctx && o.idx == idx && x.t == t) then
      x.bank :: (if x.dup = 2 ∨ (x.dup = 1 ∧ x.stage ≠ .waiting) then [1 - x.bank] else [])
    else []))

/-- R110, R602: the bank that a tile's next run fills. -/
def runBank (x : Tile) : Nat := if x.dup = 0 then x.bank else 1 - x.bank

/-! ### Panels (R302 to R304) -/

/-- R302: the number of panels. -/
def panelCount (d : Desc) : Nat := tileCols (mN d)

/-- R302: where panel `tj` begins. -/
def panelAddr (s : State) (d : Desc) : Nat → Nat
  | 0 => slotOff d 0x30
  | tj + 1 =>
    let a := panelAddr s d tj
    a + (segHdrOf (fun i => memRead s.mem (a + i))).segBytes

/-- R302: the width of panel `tj`. -/
def panelWidth (d : Desc) (tj : Nat) : Nat := min 64 (mN d - 64 * tj)

/-- R302: whether a panel header agrees with its operation. -/
def panelAgrees (d : Desc) (tj : Nat) (h : SegHdr) : Bool :=
  h.nrows == panelWidth d tj && h.ncols == mK d && h.row0 == 64 * tj && h.col0 == 0 && h.efmt == mFmtB d % 16 &&
    h.mx == fwMx (mFmtB d) && !h.rotated

/-- R298, R302: the first panel whose header fails, and whether it fails check 1. -/
def panelFault (s : State) (d : Desc) : Option (Nat × Bool) :=
  (List.range (panelCount d)).findSome? (fun tj =>
    let rd := fun i => memRead s.mem (panelAddr s d tj + i)
    if !segHdrOk rd then some (tj, true)
    else if panelAgrees d tj (segHdrOf rd) then none else some (tj, false))

/-- R302: the extent of B where ZB = 1. -/
def panelRegion (s : State) (d : Desc) : Region :=
  let a := slotOff d 0x30
  ⟨a, 0, 1, panelAddr s d (panelCount d) - a⟩

/-- R303: the bytes of one panel buffer. -/
def panelBufBytes (d : Desc) : Nat :=
  packedLen (fmtWidth (fwFmtD (mFmtB d))) (64 * mK d) + (if fwMx (mFmtB d) then 64 * ceilDiv (mK d) 32 else 0)

/-- R311: whether the panel buffers of a Cell are at fault (code 0x173). -/
def panelBufBad (s : State) (d : Desc) (cell : Nat) : Bool :=
  let b := cellBase cell
  let size := getF s b Reg.expBufSize_bytes 0
  decide (size < 2 * panelBufBytes d) || decide (0x400000 < getF s b Reg.expBuf_offset 0 * 16 + size)

/-- R299: a refusal is counted in the Cell that read the segment. -/
def countRefused (s : State) (cell : Nat) (r : Refuse) : State :=
  countF s (cellBase cell) (if r.overrun then Reg.expRefused_overrun else Reg.expRefused_underrun) 0 1

/-- R298: the status of a refusal with a block and, in DETAIL[63:32], a panel or segment number. -/
def refuseEnd (r : Refuse) (num : Nat) : OpEnd :=
  ⟨if r.overrun then .streamOverrun else .streamUnderrun, r.block + num * 2 ^ 32⟩

/-- R303: the panel of a tile, where a buffer of its Cell holds it. -/
def panelHeld (s : State) (o : Op) (cell tj : Nat) : Option PanelBuf :=
  (cellGet s cell).panels.find? (fun p => p.ctx == o.ctx && p.idx == o.idx && p.tj == tj)

/-- R303: whether a tile may be filled as far as its panel goes. -/
def panelReady (s : State) (o : Op) (cell t : Nat) : Bool :=
  !mZb o.d || (panelHeld s o cell (t % tileCols (mN o.d))).isSome

/-- R302: the panel that a tile computes from: the one that a buffer holds, else as memory holds it; none where ZB = 0. -/
def tilePanel (s : State) (o : Op) (cell t : Nat) : Option PanelBuf :=
  if !mZb o.d then none
  else
    let tj := t % tileCols (mN o.d)
    match panelHeld s o cell tj with
    | some p => some p
    | none =>
      let a := panelAddr s o.d tj
      match readSegment (fun i => memRead s.mem (a + i)) with
      | .ok (_, syms, scales) => some ⟨o.ctx, o.idx, tj, syms, scales⟩
      | .error _ => some ⟨o.ctx, o.idx, tj, [], []⟩

/-- The panel number of the tile that a Cell is filling for an operation. -/
def panelInUse (s : State) (cell : Nat) (p : PanelBuf) : Bool :=
  match (cellGet s cell).filling with
  | some (c, i, t) => c == p.ctx && i == p.idx &&
      (match findOp s c i with
       | some o => t % tileCols (mN o.d) == p.tj
       | none => false)
  | none => false

/-- R303: a decoded panel takes a buffer that the array does not use. -/
def holdPanel (s : State) (cell : Nat) (p : PanelBuf) : State :=
  let c := cellGet s cell
  let old := if c.panels.length < 2 then c.panels
    else (match c.panels.find? (fun q => !panelInUse s cell q) with
      | some q => c.panels.filter (fun x => x != q)
      | none => c.panels.drop 1)
  cellSet s cell { c with panels := old ++ [p] }

/-- R303: the panel area of a Cell's Yard holds decoded panels in the Expander's own layout, which is not stated: free values. -/
def yardPanels (s : State) (d : Desc) (cell : Nat) : State :=
  freeBytes s (0x20000000000 + cell * 0x400000 + 16 * getF s (cellBase cell) Reg.expBuf_offset 0) (2 * panelBufBytes d)

/-- R303, R304: panel `tj` is decoded and checked for a Cell, or the operation fails with the refusal. -/
def decodePanel (s : State) (o : Op) (cell tj : Nat) : State :=
  let a := panelAddr s o.d tj
  match readSegment (fun i => memRead s.mem (a + i)) with
  | .ok (_, syms, scales) =>
    event (holdPanel (yardPanels s o.d cell) cell ⟨o.ctx, o.idx, tj, syms, scales⟩) (cellBase cell) 0x0A syms.length
  | .error r =>
    setMat (countRefused s cell r) o.ctx o.idx (fun w => { w with failed := some (w.failed.getD (refuseEnd r tj)) })

/-! ### The end of a matrix operation -/

/-- An operation's offers, queued runs and panels are dropped from every Cell. -/
def clearCells (s : State) (ctx idx : Nat) : State :=
  { s with cells := s.cells.map (fun p => (p.1, { p.2 with
      offers := p.2.offers.filter (fun x => !(x.1 == ctx && x.2 == idx))
      reruns := p.2.reruns.filter (fun x => !(x.1 == ctx && x.2.1 == idx))
      panels := p.2.panels.filter (fun x => !(x.ctx == ctx && x.idx == idx)) })) |>.filter (fun p => p.2 != cellIdle) }

/-- R125, R304: an operation ends once its last tile has drained, or once it has failed and none is in progress. -/
def matMaybeEnd (s : State) (ctx idx : Nat) : State :=
  match findOp s ctx idx with
  | none => s
  | some o =>
    let w := matOf o
    if !w.tiles.isEmpty then s
    else match w.failed with
      | some e => endOp (clearCells s ctx idx) ctx idx e
      | none => if w.drained.length = opTiles o.d then finishOp (clearCells s ctx idx) ctx idx else s

/-! ### Side gathering (R192 to R194) -/

/-- R192: the sampled rows of a tile as row of A and sample number. -/
def sideRows (s : State) (d : Desc) (t : Nat) : List (Nat × Nat) :=
  let stride := sideStride d
  ((tileI (mM d) (mN d) t).map (fun i => (i, mOut0 d / mNg d + i))).filter
    (fun p => p.2 % stride == sidePhase s (sideEntry d)) |>.map (fun p => (p.1, p.2 / stride))

/-- R192: SP and SSP. -/
def sidePitch (d : Desc) : Nat × Nat :=
  (up16 (packedLen (fmtWidth (fwFmtD (mFmtA d))) (mK d)), up16 (ceilDiv (mK d) 32))

/-- R192: row `i` of A written as sample `r`, with its scale bytes. -/
def sideWrite (s : State) (d : Desc) (i r : Nat) : State :=
  let w := fmtWidth (fwFmtD (mFmtA d))
  let e := sideEntry d
  let code := fun k =>
    if mTransA d then memCode s (slotOff d 0x20 + k * slotPitch d 0x20) w i
    else memCode s (slotOff d 0x20 + i * slotPitch d 0x20) w k
  let s1 := wrMem s (bytesWrites (sideSamples s e + r * (sidePitch d).1) (packRow w ((List.range (mK d)).map code)))
  if fwMx (mFmtA d) then
    wrMem s1 (bytesWrites (sideScales s e + r * (sidePitch d).2)
      (rdBytes s (slotOff d 0x28 + i * slotPitch d 0x28) (ceilDiv (mK d) 32)))
  else s1

/-- R193: a sampled row beyond CAP. -/
def sideDrop (s : State) (d : Desc) (cell : Nat) : State :=
  let e := sideEntry d
  countF (wrBits s (sideAddr s e + 0x1C) 23 0 (satAdd (2 ^ 24 - 1) (sideDropped s e) 1))
    (millOfCell cell) Reg.sideDropped_count 0 1

/-- R192 to R194: the rows that the fill of a tile gathers; `first` is its first run. -/
def sideGather (s : State) (o : Op) (x : Tile) (first : Bool) : State :=
  if sideMode o.d = 1 ∧ x.t % tileCols (mN o.d) = 0 ∧ !dEval o.d then
    (sideRows s o.d x.t).foldl (fun u p =>
      if p.2 < sideCap u (sideEntry o.d) then sideWrite u o.d p.1 p.2
      else if first then sideDrop u o.d x.cell else u) s
  else s

/-! ### Fills (R109, R110, R601, R602) -/

/-- A tile that begins in a bank. -/
def newTile (t cell bank : Nat) : Tile := ⟨t, cell, bank, .filling, 0, 1, 0, false, runNone, runNone, runNone⟩

/-- A tile begins on its Cell in a bank. -/
def beginTile (s : State) (o : Op) (t cell bank : Nat) : State :=
  let x := newTile t cell bank
  sideGather (setMat s o.ctx o.idx (fun w => { w with tiles := w.tiles ++ [x] })) o x true

/-- R110, R602: a queued run begins. -/
def beginRun (s : State) (o : Op) (x : Tile) : State :=
  let c := cellGet s x.cell
  let s1 := cellSet s x.cell { c with reruns := c.reruns.filter (fun q => q != (o.ctx, o.idx, x.t)) }
  sideGather (setTile s1 o.ctx o.idx x.t (fun y => { y with stage := .filling, runs := y.runs + 1 })) o x false

/-- R110, R602: whether a queued run may begin. -/
def runReady (s : State) (cell : Nat) (q : Nat × Nat × Nat) : Bool :=
  match findTile s q.1 q.2.1 q.2.2 with
  | some (o, x) => !(banksTaken s cell q.1 q.2.1 q.2.2).contains (runBank x) && panelReady s o cell x.t && !opWaits s o && !o.away.contains cell
  | none => false

/-- R601: whether an offer stands: its operation runs, has not failed, still begins work, and has a tile to offer. -/
def offerStands (s : State) (cell : Nat) (q : Nat × Nat) : Bool :=
  match findOp s q.1 q.2 with
  | some o => opRuns o && !o.away.contains cell && (matOf o).failed.isNone && !slotOver s o && (nextTile o cell).isSome
  | none => false

/-- R303, R27: whether the tile of an offer may be filled now: its panel is decoded, and no copy holds its operation up. -/
def offerReady (s : State) (cell : Nat) (q : Nat × Nat) : Bool :=
  match findOp s q.1 q.2 with
  | some o => !opWaits s o &&
      (match nextTile o cell with
       | some t => panelReady s o cell t
       | none => false)
  | none => false

/-- R109, R110, R601: the Cell's array begins its next fill, where one may begin: a queued run, else the tile that was
offered first, for which the array waits. -/
def fillBegin (s : State) (cell : Nat) : State :=
  let c := cellGet s cell
  if c.filling.isSome || c.stopped || unitsHeld s then s
  else if !c.reruns.isEmpty then
    match c.reruns.find? (runReady s cell) with
    | some q =>
      (match findTile s q.1 q.2.1 q.2.2 with
       | some (o, x) =>
         let s1 := beginRun s o x
         cellSet s1 cell { cellGet s1 cell with filling := some (q.1, q.2.1, q.2.2) }
       | none => s)
    | none => s
  else if (banksTaken s cell 0x10000 0 0).contains (1 - c.lastBank) then s
  else match c.offers.find? (offerStands s cell) with
    | some q =>
      if !offerReady s cell q then s
      else (match findOp s q.1 q.2 with
       | some o =>
         (match nextTile o cell with
          | some t =>
            let s1 := beginTile s o t cell (1 - c.lastBank)
            cellSet s1 cell { cellGet s1 cell with
              filling := some (q.1, q.2, t), offers := c.offers.filter (fun x => x != q) }
          | none => s)
       | none => s)
    | none => s

/-- TILE_FILL_BEGIN (R109). -/
def execTileFillBegin (cell : Nat) (s : State) : Host.Outcome State Fault Refusal := .next (fillBegin s cell)

/-- A tile is queued to run again on its Cell. -/
def queueRun (s : State) (o : Op) (x : Tile) : State :=
  let c := cellGet s x.cell
  if c.reruns.contains (o.ctx, o.idx, x.t) then s
  else cellSet s x.cell { c with reruns := c.reruns ++ [(o.ctx, o.idx, x.t)] }

/-- R112 to R121: the fill of a tile's run ends with its results; its check begins. -/
def fillDone (s : State) (o : Op) (x : Tile) (flips : List (Nat × Nat)) : State :=
  let sp := matSpec s o (tilePanel s o x.cell x.t)
  let r := tileRunFlips sp x.t flips
  let f := fun (c : Nat) => c % 16 == 0 || c % 16 == 5
  let s1 := event s (cellBase x.cell) 0x02 (fillMacs (f (mFmtA o.d) && f (mFmtB o.d)) (mPasses o.d) (mK o.d))
  let s2 :=
    if x.dup = 0 then
      if dupNeeded sp x.t r then
        queueRun (setTile s1 o.ctx o.idx x.t (fun y => { y with stage := .waiting, dup := 1, first := r })) o x
      else setTile s1 o.ctx o.idx x.t (fun y => { y with stage := .sumCheck, cur := r })
    else if x.dup = 1 then setTile s1 o.ctx o.idx x.t (fun y => { y with stage := .dupCheck, second := r })
    else setTile s1 o.ctx o.idx x.t (fun y => { y with stage := .dupCheck, cur := r })
  if x.offered then s2
  else offerTile (setTile s2 o.ctx o.idx x.t (fun y => { y with offered := true })) x.cell o.ctx o.idx

/-- TILE_FILL_END (R109, R112). -/
def execTileFillEnd (cell : Nat) (flips : List (Nat × Nat)) (s : State) : Host.Outcome State Fault Refusal :=
  .next (
    let c := cellGet s cell
    match c.filling with
    | some q =>
      (match findTile s q.1 q.2.1 q.2.2 with
       | some (o, x) =>
         if opWaits s o then s
         else fillDone (cellSet s cell { c with filling := none, lastBank := runBank x }) o x flips
       | none => cellSet s cell { c with filling := none })
    | none => s)

/-! ### Checks (R123 to R126) -/

/-- R126: one check made on a Cell for an operation, and whether it failed. -/
def countCheckOn (s : State) (ctx idx cell : Nat) (failed : Bool) : State :=
  let b := cellBase cell
  let s1 := event (countF (opChecks s ctx idx 1) b Reg.matChecks_count 0 1) b 0x03 1
  if failed then countF s1 b Reg.matMismatch_count 0 1 else s1

/-- R126: one check of a tile made, and whether it failed. -/
def countCheck (s : State) (o : Op) (x : Tile) (failed : Bool) : State := countCheckOn s o.ctx o.idx x.cell failed

/-- R125: a tile fails: CHECK_FAIL with a fault record, and no later tile begins. -/
def tileFails (s : State) (o : Op) (x : Tile) (row col : Nat) : State :=
  let e : OpEnd := ⟨.checkFail, faultTail s⟩
  let s1 := if ((matOf o).failed).isNone then
      writeFault s ⟨0x01, x.cell, statusCode .checkFail, o.ctx, o.idx, [x.t, row + col * 2 ^ 24, x.runs]⟩ else s
  let s2 := countF s1 (cellBase x.cell) Reg.matMismatch_fails 0 1
  let s3 := setMat s2 o.ctx o.idx (fun w =>
    { w with tiles := w.tiles.filter (fun y => y.t != x.t), failed := some (w.failed.getD e) })
  matMaybeEnd s3 o.ctx o.idx

/-- R125, R126: a tile is queued to run again after a failed check. -/
def tileAgain (s : State) (o : Op) (x : Tile) (f : Tile → Tile) : State :=
  queueRun (event (opReruns (setTile s o.ctx o.idx x.t (fun y => { f y with stage := .waiting })) o.ctx o.idx 1)
    (cellBase x.cell) 0x04 1) o x

/-- R123, R125: the sum check of a tile's run completes. -/
def sumDone (s : State) (o : Op) (x : Tile) : State :=
  let bad := sumCheckFails (matSpec s o (tilePanel s o x.cell x.t)) x.t x.cur
  let failed : Bool := !bad.1.isEmpty || !bad.2.isEmpty
  let s1 := countCheck s o x failed
  if !failed then setTile s1 o.ctx o.idx x.t (fun y => { y with stage := .draining })
  else if x.fails = 0 then tileAgain s1 o x (fun y => { y with fails := 1 })
  else tileFails s1 o x (bad.1.headD 0xFFFFFF) (bad.2.headD 0xFFFFFF)

/-- A tile of a Cell in a stage, with its operation: the first in order of beginning. -/
def tileIn (s : State) (cell : Nat) (st : TileStage) : Option (Op × Tile) :=
  s.ops.findSome? (fun o => match (matOf o).tiles.find? (fun x => x.cell == cell && x.stage == st) with
    | some x => some (o, x)
    | none => none)

/-- TILE_SUM_CHECK_DONE (R123, R125). -/
def execTileSumCheckDone (cell : Nat) (s : State) : Host.Outcome State Fault Refusal :=
  .next (match tileIn s cell .sumCheck with
    | some (o, x) => sumDone s o x
    | none => s)

/-- R509: the row and column of D of the first output in which two runs differ. -/
def diffPos (o : Op) (x : Tile) : Nat × Nat :=
  let ps := tilePos (mM o.d) (mN o.d) x.t
  ps.getD (firstDiff (x.cur.outs ++ x.cur.errs) (x.first.outs ++ x.first.errs) % max 1 ps.length) (0, 0)

/-- R124, R602: a comparison of a duplicate check completes. -/
def dupDone (s : State) (o : Op) (x : Tile) : State :=
  if x.dup = 1 then
    let same := runsEqual x.first x.second
    let s1 := countCheck s o x (!same)
    if same then setTile s1 o.ctx o.idx x.t (fun y => { y with stage := .draining, dup := 0, cur := y.first })
    else tileAgain s1 o x (fun y => { y with dup := 2, fails := y.fails + 1 })
  else
    let same := runsEqual x.cur x.first || runsEqual x.cur x.second
    let s1 := countCheck s o x (!same)
    if same then setTile s1 o.ctx o.idx x.t (fun y => { y with stage := .draining, dup := 0 })
    else tileFails s1 o x (diffPos o x).1 (diffPos o x).2

/-- TILE_DUP_COMPARE_DONE (R124, R125). -/
def execTileDupCompareDone (cell : Nat) (s : State) : Host.Outcome State Fault Refusal :=
  .next (match tileIn s cell .dupCheck with
    | some (o, x) => dupDone s o x
    | none => s)

/-! ### Drains (R109, R120) -/

/-- R120: the rounding of output (i, j). -/
def matRnd (s : State) (o : Op) (i j : Nat) : Rnd :=
  rndOf s (fwRnd (mFmtD o.d)) (streamId (if mPurpose o.d = 0 then 0 else 3) (mTensor o.d)) o.step
    (mOut0 o.d + i * mNg o.d + j)

/-- A list cut into pieces of `n`. -/
def chunks (n : Nat) : Nat → List α → List (List α)
  | 0, _ => []
  | k + 1, l => if l.isEmpty then [] else l.take n :: chunks n k (l.drop n)

/-- R112: where the part of row `i` of D that a tile covers begins. -/
def dRowAt (d : Desc) (t i : Nat) : Nat :=
  slotOff d 0x48 + i * slotPitch d 0x48 + packedLen (fmtWidth (fwFmtD (mFmtD d))) (64 * (t % tileCols (mN d)))

/-- The rows of D that a tile covers, as offset and number of elements. -/
def tileRows (d : Desc) (t : Nat) : List (Nat × Nat) :=
  (tileI (mM d) (mN d) t).map (fun i => (dRowAt d t i, (tileJ (mN d) t).length))

/-- R120: a tile's outputs converted and written to D, with scales or error terms. -/
def writeTile (s : State) (o : Op) (x : Tile) : State :=
  let d := o.d
  let f := fwFmtD (mFmtD d)
  let ii := tileI (mM d) (mN d) x.t
  let w := (tileJ (mN d) x.t).length
  let ps := tilePos (mM d) (mN d) x.t
  let xs := (ps.zip x.cur.outs).map (fun p => (decodeCode (accFmt (mAcc d)) p.2, matRnd s o p.1.1 p.1.2))
  let putRow := fun (u : State) (i : Nat) (cs : List Nat) => wrMem u (bytesWrites (dRowAt d x.t i) (packRow (fmtWidth f) cs))
  let s1 :=
    if fwMx (mFmtD d) then
      (ii.zip (chunks w ii.length xs)).foldl (fun u p =>
        let r := blocksOut u x.cell (dEval d) f (fwNoClip (mFmtD d)) (chunks 32 64 p.2)
        let u1 := putRow r.1 p.1 (r.2.flatMap (fun b => b.2))
        wrMem u1 (bytesWrites (slotOff d 0x50 + p.1 * slotPitch d 0x50 + 2 * (x.t % tileCols (mN d)))
          (r.2.map (fun b => BitVec.ofNat 8 b.1)))) s
    else
      let r := unitOut s x.cell (dEval d) (matOf o).bind x.t f xs (ps.map (fun p => mOut0 d + p.1 * mNg d + p.2))
      let u := setMat r.1 o.ctx o.idx (fun m => { m with bind := r.2.2 })
      (ii.zip (chunks w ii.length r.2.1)).foldl (fun v p => putRow v p.1 p.2) u
  let s2 := if mPair d then
      (ii.zip (chunks w ii.length x.cur.errs)).foldl (fun u p =>
        wrMem u (bytesWrites (slotOff d 0x50 + p.1 * slotPitch d 0x50 + 256 * (x.t % tileCols (mN d))) (p.2.flatMap (leBytes 4)))) s1
    else s1
  let hit : Bool := x.cur.nf && !dEval d
  event (flagCell s2 x.cell hit) (cellBase x.cell) 0x0B (nat01 hit)

/-- R114, R132: a tile drained with SAT set is counted and recorded. -/
def satDrained (s : State) (o : Op) (x : Tile) : State :=
  if !x.cur.sat then s
  else
    let b := cellBase x.cell
    let s1 := setF (countF s b Reg.matSat_count 0 1) b Reg.matSat_sticky 0 1
    setF (setF (setF (setF s1 b Reg.matSatLast_tile 0 x.t) b Reg.matSatLast_descIndex 0 o.idx)
      b Reg.matSatLast_context 0 o.ctx) b Reg.matSatLast_valid 0 1

/-- R109, R120: a tile's drain ends. -/
def drainDone (s : State) (o : Op) (x : Tile) : State :=
  let s1 := satDrained (writeTile s o x) o x
  matMaybeEnd (setMat s1 o.ctx o.idx (fun w =>
    { w with tiles := w.tiles.filter (fun y => y.t != x.t), drained := w.drained ++ [x.t] })) o.ctx o.idx

/-- TILE_DRAIN_END (R109). -/
def execTileDrainEnd (cell bank : Nat) (s : State) : Host.Outcome State Fault Refusal :=
  .next (match s.ops.findSome? (fun o =>
      match (matOf o).tiles.find? (fun x => x.cell == cell && x.bank == bank && x.stage == .draining) with
      | some x => some (o, x)
      | none => none) with
    | some (o, x) => if opWaits s o then s else onSide s o.ctx o.idx (fun t => holdTrain t (drainDone t o x) o.ctx o.idx)
    | none => s)

/-- R303: the tile of an operation for which a Cell's Expander decodes next: a queued run whose panel no buffer holds, else
the next tile. -/
def panelWanted (s : State) (o : Op) (cell : Nat) : Option Nat :=
  match (cellGet s cell).reruns.find? (fun q => q.1 == o.ctx && q.2.1 == o.idx && !panelReady s o cell q.2.2) with
  | some q => some q.2.2
  | none => nextTile o cell

/-- PANEL_DECODE_DONE (R303, R304): the panel of an operation's next tile or queued run on a Cell; `stall` is the ACLK that
the array waited for it. -/
def execPanelDecodeDone (cell ctx idx stall : Nat) (s : State) : Host.Outcome State Fault Refusal :=
  .next (match findOp s ctx idx with
    | none => s
    | some o =>
      if !(opRuns o && mZb o.d && (dOpcode o.d == 0x0100 || dOpcode o.d == 0x0101) && (matOf o).failed.isNone) || opWaits s o then s
      else match panelWanted s o cell with
        | none => s
        | some t =>
          let tj := t % tileCols (mN o.d)
          if (panelHeld s o cell tj).isSome then s
          else
            let b := cellBase cell
            matMaybeEnd (decodePanel (event (countF s b Reg.expStall_aclk 0 stall) b 0x05 stall) o cell tj) ctx idx)

/-! ### Whole operations -/

/-- One tile in progress taken one stage further. -/
def driveTile (s : State) (o : Op) (x : Tile) : State :=
  match x.stage with
  | .filling => fillDone s o x []
  | .waiting =>
    if panelReady s o x.cell x.t then beginRun s o x
    else
      let s1 := decodePanel s o x.cell (x.t % tileCols (mN o.d))
      if ((findOp s1 o.ctx o.idx).map (fun p => (matOf p).failed.isSome)).getD true then
        matMaybeEnd (setMat s1 o.ctx o.idx (fun w => { w with tiles := w.tiles.filter (fun y => y.t != x.t) })) o.ctx o.idx
      else beginRun s1 o x
  | .sumCheck => sumDone s o x
  | .dupCheck => dupDone s o x
  | .draining => drainDone s o x

/-- A tile in progress taken to its end. -/
def driveLoop : Nat → State → Nat → Nat → Nat → State
  | 0, s, _, _, _ => s
  | n + 1, s, ctx, idx, t =>
    match findTile s ctx idx t with
    | some (o, x) => driveLoop n (driveTile s o x) ctx idx t
    | none => s

/-- One tile of an operation run from its beginning to its drain. -/
def runTile (s : State) (ctx idx t : Nat) : State :=
  match findOp s ctx idx with
  | none => s
  | some o =>
    if !opRuns o || (matOf o).failed.isSome || (matOf o).drained.contains t then s
    else
      let cell := cellOfUnit o.d t
      let s1 := if panelReady s o cell t then s else decodePanel s o cell (t % tileCols (mN o.d))
      match findOp s1 ctx idx with
      | none => s1
      | some o1 =>
        if (matOf o1).failed.isSome then matMaybeEnd s1 ctx idx
        else driveLoop 16 (beginTile s1 o1 t cell 0) ctx idx t

/-- R107, R112, R118: the tiles of an operation that have not begun run, each Cell's in ascending order. -/
def matRunAll (s : State) (o : Op) : State :=
  if !(matOf o).tiles.isEmpty || slotOver s o || unitsHeld s || !o.away.isEmpty then s
  else (List.range (opTiles o.d)).foldl (fun u t => runTile u o.ctx o.idx t) s

/-- MATMUL (R112). -/
def execMatmul (ctx idx : Nat) (s : State) : Host.Outcome State Fault Refusal :=
  .next (onOp s ctx idx 0x0100 (fun o => onSide s ctx idx (fun t => holdTrain t (matRunAll t o) ctx idx)))

/-- MATMUL_PAIR (R118). -/
def execMatmulPair (ctx idx : Nat) (s : State) : Host.Outcome State Fault Refusal :=
  .next (onOp s ctx idx 0x0101 (fun o => onSide s ctx idx (fun t => holdTrain t (matRunAll t o) ctx idx)))

/-! ### The beginning of a matrix operation -/

/-- R192: the regions that an operation's gathering writes. -/
def sideRegions (s : State) (d : Desc) : List Region :=
  if sideMode d ≠ 1 ∨ dEval d then []
  else
    let e := sideEntry d
    let rows := ((List.range (opTiles d)).filter (fun t => t % tileCols (mN d) == 0)).flatMap (sideRows s d)
    let kept := rows.filter (fun p => decide (p.2 < sideCap s e))
    kept.flatMap (fun p =>
      ⟨sideSamples s e + p.2 * (sidePitch d).1, 0, 1, packedLen (fmtWidth (fwFmtD (mFmtA d))) (mK d)⟩ ::
        (if fwMx (mFmtA d) then [⟨sideScales s e + p.2 * (sidePitch d).2, 0, 1, ceilDiv (mK d) 32⟩] else []))

/-- The execution faults of a matrix operation (R19, R158, R142, R222, R311), lowest code first, as code and offset. -/
def matFault (s : State) (o : Op) : Option (Nat × Nat) :=
  let d := o.d
  let zregs := if mZb d then [panelRegion s d] else regB d
  let outs := regD d ++ sideRegions s d ++ mapRegions s d (matOf o).bind (opTiles d)
  match accessFault s (regA d ++ zregs ++ regC d ++ outs) with
  | some e => some e
  | none =>
    if mZb d && anyMeet (regD d) [panelRegion s d] then some (0x116, 0)
    else if (outFault s d outs).isSome then outFault s d outs
    else if shadowMeets s d (matOf o).bind (mOut0 d) (mNg d) (mM d) (mN d) then some (0x120, 0)
    else if bindNarrow s (matOf o).bind && decide (2 ^ 24 < opTiles d) then some (0x122, 0)
    else if sideCtrl d ≠ 0 ∧ (sideK s (sideEntry d) ≠ mK d ∨ sideFmt s (sideEntry d) ≠ mFmtA d) then some (0x143, 0)
    else if mZb d && (match panelFault s d with
        | some (_, false) => true
        | _ => false) then some (0x172, 0)
    else if mZb d && (opCells d).any (panelBufBad s d) then some (0x173, 0)
    else none

/-- R139, R601: a matrix operation begins: its Scaler binding, its faults, and its first offers. -/
def matBegin (s : State) (ctx idx : Nat) : State :=
  match findOp s ctx idx with
  | none => s
  | some o0 =>
    let bd := sclBind s (mStream o0.d) (mTensor o0.d) (mFmtD o0.d)
    let s1 := updOp s ctx idx (fun o => { o with work := .mat ⟨[], [], none, bd⟩ })
    match findOp s1 ctx idx with
    | none => s1
    | some o =>
      match matFault s1 o with
      | some e => ctxFault s1 ctx idx e.1 e.2
      | none =>
        if mZb o.d then
          match panelFault s1 o.d with
          | some (tj, _) => endOp ((opCells o.d).foldl (fun t c => countRefused t c ⟨true, 0⟩) s1) ctx idx
              (refuseEnd ⟨true, 0xFFFFFFFF⟩ tj)
          | none => offerAll s1 o
        else offerAll s1 o

/-! ### Drops (R127) -/

/-- R127, R602: the runs of a tile that have begun their fill and not been drained or given up. -/
def runsBegun (x : Tile) : Nat :=
  match x.stage with
  | .waiting => x.dup
  | .draining => 1
  | _ => x.dup + 1

/-- R127: the runs of one tile dropped as if they had never begun: the tile is queued to run again from its first run, and
keeps its count of failed checks. -/
def dropTile (s : State) (o : Op) (x : Tile) (brake : Bool) : State :=
  let n := runsBegun x
  if n = 0 then s
  else
    let b := cellBase x.cell
    let filling : Bool := (cellGet s x.cell).filling == some (o.ctx, o.idx, x.t)
    let s0 := if filling then
        event (takeFree (cellSet s x.cell { cellGet s x.cell with filling := none })) b 0x02
          (Config.freeValue s.free % (fillMacs true 3 (mK o.d) + 1))
      else s
    let s1 := setTile s0 o.ctx o.idx x.t (fun y => { y with stage := .waiting, dup := 0, runs := y.runs - n })
    let s2 := updOp s1 o.ctx o.idx (fun p => { p with reruns := p.reruns + n, brakes := p.brakes + (if brake then n else 0) })
    event (countF (queueRun s2 o x) b (if brake then Reg.matDropped_brake else Reg.matDropped_disturbed) 0 n) b 0x04 n

/-- R127: every tile run of a Cell that has begun its fill and not finished its drain is dropped. -/
def dropTiles (s : State) (cell : Nat) (brake : Bool) : State :=
  s.ops.foldl (fun t o => (matOf o).tiles.foldl (fun u x => if x.cell = cell then dropTile u o x brake else u) t) s

/-! ### Products that other units assign to the arrays (R189) -/

/-- A matrix of values, row by row. -/
abbrev Mat := List (List FVal)

/-- The element of a matrix of values. -/
def matAt (a : Mat) (i j : Nat) : FVal := (a.getD i []).getD j fvZero

/-- The transpose of a matrix of values with `n` columns. -/
def matTr (n : Nat) (a : Mat) : Mat := (List.range n).map (fun j => a.map (fun r => r.getD j fvZero))

/-- R189: the specification of C + A × B on FP32 operands with PASSES = 3. -/
def prodSpec (m n k : Nat) (a b : Mat) (c : Option Mat) : MatSpec :=
  { m := m, n := n, k := k, acc := .f32, passes := 3, pair := false, srAcc := false, seed := 0, stream := 0, step := 0
    out0 := 0, ng := n, k0 := 0, a := matAt a, b := matAt b, accIn := c.isSome, c := matAt (c.getD []) }

/-- What a tile run gives before anything is computed. -/
def noRun : TileRun := ⟨[], [], false, false⟩

/-- R189: whether a product's tile has failed, so that its operation has ended (R125). -/
def prodFailed (s : State) (ctx idx : Nat) : Bool :=
  match findOp s ctx idx with
  | some o => o.ended.isSome
  | none => true

/-- R189, R112: run `n` of an operation's product tile `k`, with the upsets that the command names. -/
def prodRun (o : Op) (x : MatSpec) (t k n : Nat) : TileRun :=
  tileRunFlips x t ((o.upsets.filter (fun u => u.tile == k && u.run == n)).flatMap (fun u => u.flips))

/-- R108, R544: the MACs of a product tile's run. -/
def prodMacs (s : State) (cell : Nat) (x : MatSpec) : State := event s (cellBase cell) 0x02 (fillMacs false 3 x.k)

/-- R126: a product tile is run again. -/
def prodAgain (s : State) (ctx idx cell : Nat) : State := event (opReruns s ctx idx 1) (cellBase cell) 0x04 1

/-- R125, R189, R509: a product's tile fails and ends its operation with CHECK_FAIL. -/
def prodFails (s : State) (ctx idx cell t runs : Nat) (p : Nat × Nat) : State :=
  countF (endWithRecord s ctx idx .checkFail 0x01 cell [t, p.1 + p.2 * 2 ^ 24, runs]) (cellBase cell) Reg.matMismatch_fails 0 1

/-- R92, R172: a product tile's run whose result stands flags its Cell. -/
def prodFlag (s : State) (cell : Nat) (hit : Bool) : State := event (flagCell s cell hit) (cellBase cell) 0x0B (nat01 hit)

/-- R121 to R126, R189: one tile of a product that belongs to no operation: no upset reaches it. -/
def prodFree (s : State) (ctx idx cell : Nat) (x : MatSpec) (t : Nat) : State × TileRun :=
  let r := tileRunFlips x t []
  let s1 := if dupNeeded x t r then prodMacs s cell x else s
  (prodFlag (countCheckOn (prodMacs s1 cell x) ctx idx cell false) cell r.nf, r)

/-- R123, R125: a product's tile under the sum check, run at most twice: its result, where one stands. -/
def prodSum (s : State) (o : Op) (cell : Nat) (x : MatSpec) (t k : Nat) : State × Option TileRun :=
  let bad := fun (r : TileRun) => sumCheckFails x t r
  let ok := fun (b : List Nat × List Nat) => b.1.isEmpty && b.2.isEmpty
  let r1 := prodRun o x t k 1
  let b1 := bad r1
  let s1 := countCheckOn s o.ctx o.idx cell (!ok b1)
  if ok b1 then (s1, some r1)
  else
    let r2 := prodRun o x t k 2
    let b2 := bad r2
    let s2 := countCheckOn (prodMacs (prodAgain s1 o.ctx o.idx cell) cell x) o.ctx o.idx cell (!ok b2)
    if ok b2 then (s2, some r2)
    else (prodFails s2 o.ctx o.idx cell t 2 (b2.1.headD 0xFFFFFF, b2.2.headD 0xFFFFFF), none)

/-- R124, R125: a product's tile under the duplicate check, run at most three times: its result, where one stands. -/
def prodDup (s : State) (o : Op) (cell : Nat) (x : MatSpec) (t k : Nat) : State × Option TileRun :=
  let r1 := prodRun o x t k 1
  let r2 := prodRun o x t k 2
  let same := runsEqual r1 r2
  let s1 := countCheckOn (prodMacs s cell x) o.ctx o.idx cell (!same)
  if same then (s1, some r1)
  else
    let r3 := prodRun o x t k 3
    let one := runsEqual r3 r1 || runsEqual r3 r2
    let s2 := countCheckOn (prodMacs (prodAgain s1 o.ctx o.idx cell) cell x) o.ctx o.idx cell (!one)
    if one then (s2, some r3)
    else
      let ps := tilePos x.m x.n t
      (prodFails s2 o.ctx o.idx cell t 3 (ps.getD (firstDiff (r3.outs ++ r3.errs) (r1.outs ++ r1.errs) % max 1 ps.length) (0, 0)), none)

/-- R121 to R126, R189: one tile of a product on its Cell; nothing once a tile of the operation has failed. -/
def prodTile (s : State) (ctx idx cell : Nat) (x : MatSpec) (t : Nat) : State × TileRun :=
  match findOp s ctx idx with
  | none => prodFree s ctx idx cell x t
  | some o =>
    if o.ended.isSome then (s, noRun)
    else
      let s1 := prodMacs (updOp s ctx idx (fun p => { p with prods := p.prods + 1 })) cell x
      let y := if dupNeeded x t (prodRun o x t o.prods 1) then prodDup s1 o cell x t o.prods else prodSum s1 o cell x t o.prods
      match y.2 with
      | some r => (prodFlag y.1 cell (r.nf && !dEval o.d), r)
      | none => (y.1, noRun)

/-- R189: a product on the Cells of a scope, over the tiles that `keep` names: the values by position. -/
def arrProduct (s : State) (ctx idx : Nat) (cells : List Nat) (x : MatSpec) (keep : Nat → Bool) : State × List ((Nat × Nat) × FVal) :=
  ((List.range (tileCount x.m x.n)).filter keep).foldl (fun acc t =>
    let y := prodTile acc.1 ctx idx (cells.getD (t % max 1 cells.length) 0) x t
    (y.1, acc.2 ++ ((tilePos x.m x.n t).zip y.2.outs).map (fun p => (p.1, decodeCode .fp32 p.2)))) (s, [])

/-- The work of a command during which the upsets of product tiles that it names occur (R189). -/
def withUpsets (s : State) (ctx idx : Nat) (us : List TileUpset) (f : State → State) : State :=
  updOp (f (updOp s ctx idx (fun o => { o with upsets := us }))) ctx idx (fun o => { o with upsets := [] })

/-- R189: a whole product as a matrix of values. -/
def arrMul (s : State) (ctx idx : Nat) (cells : List Nat) (m n k : Nat) (a b : Mat) (c : Option Mat) : State × Mat :=
  let r := arrProduct s ctx idx cells (prodSpec m n k a b c) (fun _ => true)
  (r.1, (List.range m).map (fun i => (List.range n).map (fun j =>
    match r.2.find? (fun p => p.1 == (i, j)) with
    | some p => p.2
    | none => fvZero)))

/-- The 32 Cells of a Mill (R9). -/
def millCells (mill : Nat) : List Nat := (List.range 32).map (fun i => mill * 32 + i)

end Sys2Proof.Machine
end

