-- ==== Sys2Proof/Machine/Sawmill.lean ====
section
/-!
DEFINITION. Quantisation with error feedback, COMPRESS and DECOMPRESS (R281 to R288, R299, R305 to R311, R313).
-/

namespace Sys2Proof.Machine

/-! ### Values in memory -/

/-- An FP32 matrix in memory as values. -/
def rdMat (s : State) (off pitch m n : Nat) : Mat :=
  (List.range m).map (fun i => (List.range n).map (fun j => matF32 s off pitch i j))

/-- The FP32 code of a value that is an FP32 value. -/
def code32 (v : FVal) : Nat := (convert .fp32 .rne v).1

/-- An FP32 matrix of values as single-byte writes. -/
def matWrites (off pitch : Nat) (a : Mat) : List Host.Cell :=
  ((List.range a.length).zip a).flatMap (fun p => bytesWrites (off + p.1 * pitch) (p.2.flatMap (fun v => leBytes 4 (code32 v))))

/-- Two matrices combined element by element. -/
def matZip (f : FVal → FVal → FVal) (a b : Mat) : Mat := (a.zip b).map (fun p => (p.1.zip p.2).map (fun q => f q.1 q.2))

/-- R196: the matrix part of a standing factor of order `n`. -/
def facMat (s : State) (r : FacRead) (n : Nat) : Mat := rdMat s (facBufOf s r) (facPitch n) n n

/-- One packed element of `w` bits written in its place. -/
def wrElem (s : State) (off w i code : Nat) : State :=
  if w = 4 then
    let a := off + i / 2
    wrNat s a 1 (setBits (rdNat s a 1) (4 * (i % 2) + 3) (4 * (i % 2)) code)
  else if w = 6 then
    let a := off + 3 * (i / 4)
    wrNat s a 3 (setBits (rdNat s a 3) (6 * (i % 4) + 5) (6 * (i % 4)) code)
  else wrNat s (off + i * (w / 8)) (w / 8) code

/-! ### Quantisation (R284, R285) -/

/-- R284: the element format of QFMT 1, 2 and 3. -/
def qFmt (q : Nat) : Fmt := if q = 1 then .fp4 else if q = 2 then .int4 else .int8

/-- R284: a rectangle of values quantised: scale bytes, codes with their classes, and the exact values of the codes. -/
structure Quant where
  scales : List Nat
  codes : List (Nat × Cls)
  exact : Mat
  deriving DecidableEq, Repr

/-- R284: rows quantised in blocks of 32 along each row, with the rounding of element (r, c). -/
def quantise (q : Nat) (noClip : Bool) (rnd : Nat → Nat → Rnd) (z : Mat) : Quant :=
  let f := qFmt q
  let rows := ((List.range z.length).zip z).map (fun p =>
    (chunks 32 p.2.length (((List.range p.2.length).zip p.2).map (fun e => (e.2, rnd p.1 e.1)))).map (convertBlock f noClip))
  { scales := rows.flatMap (fun r => r.map (fun b => b.1))
    codes := rows.flatMap (fun r => r.flatMap (fun b => b.2))
    exact := rows.map (fun r => r.flatMap (fun b => b.2.map (fun c => decodeScaled f b.1 c.1))) }

/-- R284, R309: values converted to FP32 by RNE on a Cell: counted (R149), and flagged where one is infinite or NaN (R92). -/
def toF32 (s : State) (cell : Nat) (eval : Bool) (a : Mat) : State × Mat :=
  let xs := a.flatten.map (fun v => (v, Rnd.rne))
  let cs := xs.map (fun x => convert .fp32 .rne x.1)
  (flagConv (countConv s cell eval none (fmtCode .fp32) (cs.map Prod.snd)) cell eval .fp32 xs (cs.map Prod.fst),
    a.map (fun r => r.map r32))

/-- R92, R149, R284, R286: what quantising on a Cell counts and flags, and the values that its codes stand for as FP32. -/
def quantBack (s : State) (cell : Nat) (eval : Bool) (f : Fmt) (q : Quant) : State × Mat :=
  toF32 (countConv s cell eval none (fmtCode f) (q.codes.map Prod.snd)) cell eval q.exact

/-- R284: `L × a`, or `a` for an identity side. -/
def leftProd (s : State) (ctx idx : Nat) (cells : List Nat) (m n : Nat) (l : Option Mat) (a : Mat) : State × Mat :=
  match l with
  | some q => arrMul s ctx idx cells m n m q a none
  | none => (s, a)

/-- R284: `a × R`, or `a` for an identity side. -/
def rightProd (s : State) (ctx idx : Nat) (cells : List Nat) (m n : Nat) (a : Mat) (r : Option Mat) : State × Mat :=
  match r with
  | some q => arrMul s ctx idx cells m n n a q none
  | none => (s, a)

/-- R287: the two sides of a rotated basis, `n` rows and `m` columns, as reads of standing factors. -/
def basisSide (s : State) (o : Op) (x n : Nat) : Option Mat :=
  if x = 0x3FF then none
  else match o.facs.find? (fun r => r.num == x) with
    | some r => some (facMat s r n)
    | none => some (facMat s (facRead s x) n)

/-- R198, R287: whether a factor record may stand as a side of order `n`: its KIND is that of the read that an operation has
recorded among `facs`, or the standing one. -/
def sideOk (s : State) (facs : List FacRead) (x n : Nat) : Bool :=
  x == 0x3FF || (decide (x < getA s Reg.truCtrl_count) && facN s x == n &&
    (match facs.find? (fun r => r.num == x) with
      | some r => r.kind == 3
      | none => facKind s x == 3))

/-- R287: the GEN that a header records for a side. -/
def sideGen (o : Op) (x : Nat) : Nat :=
  match o.facs.find? (fun r => r.num == x) with
  | some r => r.gen
  | none => 0

/-! ### COMPRESS (R306) -/

/-- R306: QFMT. -/
def cQ (d : Desc) : Nat := dfld d 0x3E 1 0
/-- R306: SCALE_RULE. -/
def cNoClip (d : Desc) : Bool := dfld d 0x3E 2 2 == 1
/-- R306: SR. -/
def cSr (d : Desc) : Bool := dfld d 0x3E 3 3 == 1
/-- R306: ROTATE. -/
def cRotate (d : Desc) : Bool := dfld d 0x3E 4 4 == 1
/-- R306: BLOG. -/
def cBlog (d : Desc) : Nat := dfld d 0x3E 11 8
/-- R306: NROWS. -/
def cRows (d : Desc) : Nat := dfld d 0x40 23 0
/-- R306: NCOLS. -/
def cCols (d : Desc) : Nat := dfld d 0x44 23 0
/-- R306: ROW0. -/
def cRow0 (d : Desc) : Nat := dfld d 0x48 23 0
/-- R306: COL0. -/
def cCol0 (d : Desc) : Nat := dfld d 0x4C 23 0
/-- R306: GCOLS. -/
def cGcols (d : Desc) : Nat := dfld d 0x50 23 0
/-- R306: TENSOR. -/
def cTensor (d : Desc) : Nat := dfld d 0x54 27 0
/-- R306: ROTATION. -/
def cRotation (d : Desc) : Nat := dfld d 0x58 63 0
/-- R306: XL. -/
def cXl (d : Desc) : Nat := dfld d 0x60 9 0
/-- R306: XR. -/
def cXr (d : Desc) : Nat := dfld d 0x60 25 16
/-- R306: DST. -/
def cDst (d : Desc) : Nat := dfld d 0x30 41 0
/-- R306: FMT_SRC. -/
def cFmtSrc (d : Desc) : Nat := dfld d 0x3C 15 0

/-- R9, R48: the one Mill that a descriptor of scope kind 1 names. -/
def oneMill (d : Desc) : Nat := ((List.range 4).find? (fun m => bit (dMillMask d) m)).getD 0

/-- R306: whether RESID is given. -/
def cResid (d : Desc) : Bool := dfld d 0x28 63 0 != 0

/-- R306: the residual rows of quantise mode. -/
def cResidRows (d : Desc) : List Region :=
  if cQ d ≠ 0 ∧ cResid d then [⟨slotOff d 0x28, slotPitch d 0x28, cRows d, 4 * cCols d⟩] else []

/-- R306: the regions that COMPRESS reads. -/
def cReads (d : Desc) : List Region :=
  if cQ d = 0 then
    ⟨slotOff d 0x20, slotPitch d 0x20, cRows d, packedLen (fmtWidth (fwFmtD (cFmtSrc d))) (cCols d)⟩ ::
      (if fwMx (cFmtSrc d) then [⟨slotOff d 0x28, slotPitch d 0x28, cRows d, ceilDiv (cCols d) 32⟩] else [])
  else
    ⟨slotOff d 0x20, slotPitch d 0x20, cRows d, 4 * cCols d⟩ :: cResidRows d

/-- The result of a compression: the state after its products and counts, the segment, coded and stored blocks, and
the residual to write. -/
structure Compressed where
  st : State
  bytes : List Byte
  coded : Nat
  stored : Nat
  resid : Option Mat

/-- R289: the header that COMPRESS writes. -/
def cHeader (o : Op) (efmt : Nat) (mx nf : Bool) : SegHdr :=
  let d := o.d
  { efmt := efmt, mx := mx, rotated := cRotate d, nf := nf, blog := cBlog d, segBytes := 0, nsyms := 0
    tensor := cTensor d, nrows := cRows d, ncols := cCols d, row0 := cRow0 d, col0 := cCol0 d, gcols := cGcols d
    rotation := if cQ d = 0 then 0 else cRotation d
    xl := if cRotate d then cXl d else 0x3FF, xr := if cRotate d then cXr d else 0x3FF
    genL := if cRotate d then sideGen o (cXl d) else 0, genR := if cRotate d then sideGen o (cXr d) else 0 }

/-- R288: pack mode. -/
def packSegment (s : State) (o : Op) : Compressed :=
  let d := o.d
  let f := fwFmtD (cFmtSrc d)
  let mx := fwMx (cFmtSrc d)
  let syms := (List.range (cRows d)).flatMap (fun r => (List.range (cCols d)).map (fun c =>
    memCode s (slotOff d 0x20 + r * slotPitch d 0x20) (fmtWidth f) c))
  let scales := if mx then (List.range (cRows d)).flatMap (fun r =>
      (rdBytes s (slotOff d 0x28 + r * slotPitch d 0x28) (ceilDiv (cCols d) 32)).map (fun b => b.toNat)) else []
  let e := encodeSegment (cHeader o (fmtCode f) mx false) syms scales
  ⟨s, e.1, e.2.1, e.2.2, none⟩

/-- R284, R286: quantise mode on the Cells of one Mill. -/
def quantSegment (s : State) (o : Op) : Compressed :=
  let d := o.d
  let m := cRows d
  let n := cCols d
  let cells := millCells (oneMill d)
  let src := rdMat s (slotOff d 0x20) (slotPitch d 0x20) m n
  let y := if !cResid d then src.map (fun r => r.map (fun v => r32 (fvAdd v fvZero)))
    else matZip (fun a b => r32 (fvAdd a b)) src (rdMat s (slotOff d 0x28) (slotPitch d 0x28) m n)
  let ql := if cRotate d then basisSide s o (cXl d) m else none
  let qr := if cRotate d then basisSide s o (cXr d) n else none
  let t1 := leftProd s o.ctx o.idx cells m n (ql.map (matTr m)) y
  let t2 := rightProd t1.1 o.ctx o.idx cells m n t1.2 qr
  let rnd := fun r c => rndOf s (if cSr d then 2 else 0) (streamId 2 (cTensor d)) (cRotation d)
    ((cRow0 d + r) * cGcols d + cCol0 d + c)
  let q := quantise (cQ d) (cNoClip d) rnd t2.2
  let f := qFmt (cQ d)
  let cell := (oneMill d) * 32
  let nf : Bool := q.scales.any (fun b => b == 0xFF)
  let b := quantBack t2.1 cell (dEval d) f q
  let u1 := leftProd b.1 o.ctx o.idx cells m n ql b.2
  let u2 := rightProd u1.1 o.ctx o.idx cells m n u1.2 (qr.map (matTr n))
  let e := encodeSegment (cHeader o (fmtCode f) true nf) (q.codes.map Prod.fst) q.scales
  ⟨u2.1, e.1, e.2.1, e.2.2,
    if !cResid d || nf then none else some (matZip (fun a b => r32 (fvSub a b)) y u2.2)⟩

/-- R313: a Mill Sawmill's counts of a segment. -/
def countSaw (s : State) (mill bytes coded stored : Nat) : State :=
  let b := millBase mill
  let rest := sparseGet 0 mill s.sawRest + bytes
  let s1 := countF (countF (countF s b Reg.sawCoded_count 0 coded) b Reg.sawStored_count 0 stored) b Reg.sawBytes_kib 0 (rest / 1024)
  event { s1 with sawRest := sparseSet 0 mill (rest % 1024) s1.sawRest } b 0x0A (coded + stored)

/-- R19, R50, R158, R287, R307: the execution faults of COMPRESS, as code and offset. -/
def compressFault (s : State) (o : Op) (segBytes : Nat) : Option (Nat × Nat) :=
  let d := o.d
  let dst : Region := ⟨cDst d, 0, 1, segBytes⟩
  match accessFault s (cReads d ++ [dst]) with
  | some e => some e
  | none =>
    if dEval d && (!(cResidRows d).isEmpty || evalMeets s d [dst]) then some (0x0A, 0)
    else if meetsWorking s (dst :: cResidRows d) then some (0x120, 0)
    else if cRotate d && !(sideOk s o.facs (cXl d) (cRows d) && sideOk s o.facs (cXr d) (cCols d) && cRow0 d == 0 &&
        cCol0 d == 0 && cCols d == cGcols d) then some (0x174, 0)
    else none

/-- R284, R307: the segment is formed, then it and the residual are written; a product's tile that fails ends the operation
instead (R189). -/
def compressRun (s : State) (o : Op) : State :=
  let c := if cQ o.d = 0 then packSegment s o else quantSegment s o
  if prodFailed c.st o.ctx o.idx then c.st
  else match compressFault s o c.bytes.length with
    | some e => ctxFault s o.ctx o.idx e.1 e.2
    | none =>
      let s0 := holdTrain s (wrMem c.st (bytesWrites (cDst o.d) c.bytes)) o.ctx o.idx
      let s1 := countSaw s0 (oneMill o.d) c.bytes.length c.coded c.stored
      let s2 := match c.resid with
        | some r => holdWrites s1 o.ctx o.idx (matWrites (slotOff o.d 0x28) (slotPitch o.d 0x28) r)
        | none => s1
      finishOp s2 o.ctx o.idx

/-- COMPRESS (R284); `upsets` are the runs of product tiles that an upset changes (R189). -/
def execCompress (ctx idx : Nat) (upsets : List TileUpset) (s : State) : Host.Outcome State Fault Refusal :=
  .next (onOp s ctx idx 0x0600 (fun o => faultOr s ctx idx (compressFault s o 0)
    (onSide s ctx idx (fun u => withUpsets u ctx idx upsets (fun t => compressRun t o)))))

/-! ### DECOMPRESS (R308 to R310) -/

/-- R308: NSEG. -/
def xNseg (d : Desc) : Nat := dfld d 0x3A 15 0
/-- R308: FMT_DST. -/
def xFmt (d : Desc) : Nat := dfld d 0x38 15 0
/-- R308: DROW0. -/
def xRow0 (d : Desc) : Nat := dfld d 0x3C 23 0
/-- R308: DCOL0. -/
def xCol0 (d : Desc) : Nat := dfld d 0x40 23 0
/-- R308: DROWS. -/
def xRows (d : Desc) : Nat := dfld d 0x44 23 0
/-- R308: DCOLS. -/
def xCols (d : Desc) : Nat := dfld d 0x48 23 0
/-- R308: TENSOR. -/
def xTensor (d : Desc) : Nat := dfld d 0x4C 27 0

/-- R290, R309: the bytes of a header, and of its table where EFMT gives one. -/
def hdrRegion (s : State) (a : Nat) : Region :=
  let h := segHdrOf (fun i => memRead s.mem (a + i))
  ⟨a, 0, 1, if accessFault s [⟨a, 0, 1, 64⟩] = none ∧ h.efmt ≤ 6 then segBlocksAt h.efmt else 64⟩

/-- R309: the headers that DECOMPRESS reads: those that pass check 1, up to the first that fails. -/
def hdrScan (s : State) : Nat → Nat → List Region
  | 0, _ => []
  | n + 1, a =>
    let rd := fun i => memRead s.mem (a + i)
    hdrRegion s a :: (if segHdrOk rd then hdrScan s n (a + (segHdrOf rd).segBytes) else [])

/-- R309: the segments whose headers pass check 1, as their offsets, up to the first that fails. -/
def segAddrs (s : State) : Nat → Nat → List Nat
  | 0, _ => []
  | n + 1, a =>
    let rd := fun i => memRead s.mem (a + i)
    if segHdrOk rd then a :: segAddrs s n (a + (segHdrOf rd).segBytes) else []

/-- Whether the destination is FP32. -/
def xF32 (d : Desc) : Bool := fwFmtD (xFmt d) == .fp32

/-- R311: whether a header disagrees with DECOMPRESS (code 0x172). -/
def segDisagrees (d : Desc) (h : SegHdr) : Bool :=
  h.tensor != xTensor d || decide (h.row0 < xRow0 d) || decide (h.col0 < xCol0 d) ||
    decide (xRow0 d + xRows d < h.row0 + h.nrows) || decide (xCol0 d + xCols d < h.col0 + h.ncols) ||
    (!xF32 d && (h.rotated || (h.efmt == 5 && h.mx) || h.efmt != xFmt d % 16 || h.mx != fwMx (xFmt d)))

/-- R311: whether the factors of a ROTATED segment break R287 or have another GEN (code 0x174). -/
def segFactorsBad (s : State) (h : SegHdr) : Bool :=
  h.rotated && (!(sideOk s [] h.xl h.nrows && sideOk s [] h.xr h.ncols) || (h.xl == 0x3FF && h.xr == 0x3FF) ||
    h.row0 != 0 || h.col0 != 0 || h.ncols != h.gcols ||
    (h.xl != 0x3FF && facGen s h.xl != h.genL) || (h.xr != 0x3FF && facGen s h.xr != h.genR))

/-- R309: the regions that a segment's rectangle fills. -/
def segRegions (d : Desc) (h : SegHdr) : List Region :=
  let r0 := h.row0 - xRow0 d
  let c0 := h.col0 - xCol0 d
  let w := fmtWidth (fwFmtD (xFmt d))
  let b0 := w * c0 / 8
  let b1 := if c0 + h.ncols = xCols d then packedLen w (xCols d) else ceilDiv (w * (c0 + h.ncols)) 8
  ⟨slotOff d 0x28 + r0 * slotPitch d 0x28 + b0, slotPitch d 0x28, h.nrows, b1 - b0⟩ ::
    (if fwMx (xFmt d) then
      [⟨slotOff d 0x30 + r0 * slotPitch d 0x30 + c0 / 32, slotPitch d 0x30, h.nrows, ceilDiv h.ncols 32⟩] else [])

/-- The header of the segment at an offset. -/
def segAt (s : State) (a : Nat) : SegHdr := segHdrOf (fun i => memRead s.mem (a + i))

/-- The execution faults of DECOMPRESS, as code and offset. -/
def decompressFault (s : State) (d : Desc) (as : List Nat) : Option (Nat × Nat) :=
  let hs := as.map (segAt s)
  let good := hs.filter (fun h => !segDisagrees d h)
  let reads := as.map (fun a => (⟨a, 0, 1, (segAt s a).segBytes⟩ : Region))
  let outs := good.flatMap (segRegions d)
  match accessFault s (hdrScan s (xNseg d) (dfld d 0x20 41 0) ++ reads ++ outs) with
  | some e => some e
  | none =>
    if (outFault s d outs).isSome then outFault s d outs
    else if hs.any (segDisagrees d) then some (0x172, 0)
    else if hs.any (segFactorsBad s) then some (0x174, 0)
    else none

/-- R309: the values of a segment for an FP32 destination, on a Cell. -/
def segValues (s : State) (o : Op) (cell : Nat) (h : SegHdr) (syms scales : List Nat) : State × Mat :=
  let z := toF32 s cell (dEval o.d) ((chunks h.ncols h.nrows ((List.range syms.length).zip syms)).map (fun r =>
    r.map (fun p => symValue h.efmt h.mx scales p.1 p.2)))
  if !h.rotated then z
  else
    let cells := scopeCells o.d
    let u1 := leftProd z.1 o.ctx o.idx cells h.nrows h.ncols
      (if h.xl = 0x3FF then none else some (facMat s (facRead s h.xl) h.nrows)) z.2
    rightProd u1.1 o.ctx o.idx cells h.nrows h.ncols u1.2
      (if h.xr = 0x3FF then none else some (matTr h.ncols (facMat s (facRead s h.xr) h.ncols)))

/-- R82: the codes of a row of a rectangle as they are written, from column `c0` of `n`: zeros fill the row's last byte or
group. -/
def rowFill (w c0 n : Nat) (cs : List Nat) : List Nat :=
  let k := if w = 4 then 2 else if w = 6 then 4 else 1
  cs ++ (if c0 + cs.length = n then List.replicate ((k - n % k) % k) 0 else [])

/-- R309: one decoded segment written to DST on a Cell. -/
def writeSegment (s : State) (o : Op) (cell : Nat) (h : SegHdr) (syms scales : List Nat) : State :=
  let d := o.d
  let r0 := h.row0 - xRow0 d
  let c0 := h.col0 - xCol0 d
  let at' := fun r => slotOff d 0x28 + (r0 + r) * slotPitch d 0x28
  if xF32 d then
    let v := segValues s o cell h syms scales
    if prodFailed v.1 o.ctx o.idx then v.1
    else wrMem v.1 (((List.range h.nrows).zip v.2).flatMap (fun p =>
      bytesWrites (at' p.1 + 4 * c0) (p.2.flatMap (fun x => leBytes 4 (code32 x)))))
  else
    let w := fmtWidth (fwFmtD (xFmt d))
    let rows := (chunks h.ncols h.nrows syms).map (rowFill w c0 (xCols d))
    let s1 := ((List.range rows.length).zip rows).foldl (fun t r =>
      ((List.range r.2.length).zip r.2).foldl (fun u p => wrElem u (at' r.1) w (c0 + p.1) p.2) t) s
    if h.mx then
      ((List.range scales.length).zip scales).foldl (fun t p =>
        wrNat t (slotOff d 0x30 + (r0 + p.1 / (h.ncols / 32)) * slotPitch d 0x30 + c0 / 32 + p.1 % (h.ncols / 32)) 1 p.2) s1
    else s1

/-- R298, R309: segment `k` at address `a` is decoded, checked and written, or refused. -/
def decodeOne (s : State) (o : Op) (k a : Nat) : State × Option Refuse :=
  let cell := cellOfUnit o.d k
  if prodFailed s o.ctx o.idx then (s, none)
  else match readSegment (fun i => memRead s.mem (a + i)) with
  | .ok (h, syms, scales) => (writeSegment (event s (cellBase cell) 0x0A syms.length) o cell h syms scales, none)
  | .error e => (countRefused s cell e, some e)

/-- R309, R310: the segments decoded in order: the state, and the lowest refused segment. -/
def decodeSegments (s : State) (o : Op) : Nat → List Nat → State × Option (Nat × Refuse)
  | k, [] =>
    if k < xNseg o.d then
      ((List.range (xNseg o.d - k)).foldl (fun t i => countRefused t (cellOfUnit o.d (k + i)) ⟨true, 0⟩) s,
        some (k, ⟨true, 0xFFFFFFFF⟩))
    else (s, none)
  | k, a :: r =>
    let w := decodeOne s o k a
    let q := decodeSegments w.1 o (k + 1) r
    (q.1, match w.2 with
      | some e => some (k, e)
      | none => q.2)

/-- R309, R310: what DECOMPRESS does once its headers have been read. -/
def decompressRun (s : State) (o : Op) (as : List Nat) : State :=
  let q := decodeSegments s o 0 as
  let t := holdTrain s q.1 o.ctx o.idx
  if prodFailed t o.ctx o.idx then t
  else match q.2 with
    | none => finishOp t o.ctx o.idx
    | some (k, e) => endOp t o.ctx o.idx (refuseEnd e k)

/-- DECOMPRESS (R309, R310); `upsets` are the runs of product tiles that an upset changes (R189). -/
def execDecompress (ctx idx : Nat) (upsets : List TileUpset) (s : State) : Host.Outcome State Fault Refusal :=
  .next (onOp s ctx idx 0x0610 (fun o =>
    let as := segAddrs s (xNseg o.d) (dfld o.d 0x20 41 0)
    faultOr s ctx idx (decompressFault s o.d as)
      (onSide s ctx idx (fun u => withUpsets u ctx idx upsets (fun t => decompressRun t o as)))))

end Sys2Proof.Machine
end

