-- ==== Sys2Proof/Machine/Functions.lean ====
section
/-!
DEFINITION. The vector step operations on exact values (R165 to R167): arithmetic, selection and the transcendental
functions, each rounded once to FP32 by RNE.
-/

namespace Sys2Proof.Machine

/-! ### Transcendental functions

Each is evaluated in fixed point with `fxP` fractional bits, so that every FP32 argument is exact and the error lies
far below the distance of any result from a rounding boundary (log entry 20). -/

/-- The fractional bits of the fixed-point evaluation. -/
def fxP : Nat := 320

/-- One in fixed point. -/
def fxOne : Int := (2 ^ fxP : Nat)

/-- The product of two fixed-point values. -/
def fxMul (a b : Int) : Int := (a * b) / fxOne

/-- `z + z³/3 + z⁵/5 + …` in fixed point: `n` further terms, where `p` is the current power and `k` its exponent. -/
def atanhLoop (z2 : Int) : Nat → Int → Nat → Int
  | 0, _, _ => 0
  | n + 1, p, k => p / (k : Int) + atanhLoop z2 n (fxMul p z2) (k + 2)

/-- `atanh z` in fixed point. -/
def fxAtanh (z : Int) : Int := atanhLoop (fxMul z z) 220 z 1

/-- `ln 2` in fixed point. -/
def fxLn2 : Int := 2 * fxAtanh (fxOne / 3)

/-- `1 + r + r²/2! + …` in fixed point: `n` further terms, where `p` is the current term and `k` its number. -/
def expLoop (r : Int) : Nat → Int → Nat → Int
  | 0, _, _ => 0
  | n + 1, p, k => p + expLoop r n (fxMul p r / ((k + 1 : Nat) : Int)) (k + 1)

/-- A finite value in fixed point: exact for every FP32 value. -/
def fxOf : FVal → Int
  | .fin s m e =>
    let a : Int := if 0 ≤ (fxP : Int) + e then ((m * 2 ^ ((fxP : Int) + e).toNat : Nat) : Int)
      else ((m / 2 ^ (-((fxP : Int) + e)).toNat : Nat) : Int)
    if s then -a else a
  | _ => 0

/-- The nearest integer to a fixed-point value. -/
def fxNearest (x : Int) : Int := (2 * x + fxOne) / (2 * fxOne)

/-- `2 ^ k × exp r` for `r` in fixed point, as a value. -/
def fxExpAt (r k : Int) : FVal := .fin false (expLoop r 100 fxOne 0).toNat (k - fxP)

/-- `exp x` for `x` in fixed point, as a value. -/
def fxExp (x : Int) : FVal :=
  let k := fxNearest (x * fxOne / fxLn2)
  fxExpAt (x - k * fxLn2) k

/-- Whether a value's magnitude is above a natural number. -/
def magAbove (v : FVal) (n : Nat) : Bool := fvLt (fvOfNat n) (fvAbs v)

/-- R167 EXP, before rounding. -/
def fvExp (v : FVal) : FVal :=
  match v with
  | .nan s => .nan s
  | .inf s => if s then fvZero else .inf false
  | .fin s m e =>
    if m = 0 then fvOfNat 1
    else if magAbove v 1000 then (if s then fvZero else .inf false)
    else fxExp (fxOf (.fin s m e))

/-- R167 EXP2, before rounding. -/
def fvExp2 (v : FVal) : FVal :=
  match v with
  | .nan s => .nan s
  | .inf s => if s then fvZero else .inf false
  | .fin s m e =>
    if m = 0 then fvOfNat 1
    else if magAbove v 1000 then (if s then fvZero else .inf false)
    else
      let x := fxOf (.fin s m e)
      let k := fxNearest x
      if x = k * fxOne then .fin false 1 k else fxExpAt (fxMul (x - k * fxOne) fxLn2) k

/-- `ln` of a positive finite value as its binary exponent and the fixed-point logarithm of the rest. -/
def fxLogParts (m : Nat) (e : Int) : Int × Int :=
  let l := Nat.log2 m
  let f0 : Int := ((m * 2 ^ fxP / 2 ^ l : Nat) : Int)
  let up : Bool := decide (3 * fxOne < 2 * f0)
  let f := if up then f0 / 2 else f0
  ((l : Int) + e + (if up then 1 else 0), 2 * fxAtanh ((f - fxOne) * fxOne / (f + fxOne)))

/-- A fixed-point value as a value. -/
def fvOfFx (x : Int) : FVal := .fin (x < 0) x.natAbs (-(fxP : Int))

/-- R167 LOG, before rounding. -/
def fvLog (v : FVal) : FVal :=
  match v with
  | .nan s => .nan s
  | .inf s => if s then .nan false else .inf false
  | .fin s m e =>
    if m = 0 then .inf true
    else if s then .nan false
    else
      let p := fxLogParts m e
      fvOfFx (p.1 * fxLn2 + p.2)

/-- R167 LOG2, before rounding. -/
def fvLog2v (v : FVal) : FVal :=
  match v with
  | .nan s => .nan s
  | .inf s => if s then .nan false else .inf false
  | .fin s m e =>
    if m = 0 then .inf true
    else if s then .nan false
    else
      let p := fxLogParts m e
      fvOfFx (p.1 * fxOne + p.2 * fxOne / fxLn2)

/-- R167 TANH, rounded. -/
def fvTanh (v : FVal) : FVal :=
  match v with
  | .nan s => .nan s
  | .inf s => .fin s 1 0
  | .fin s m e =>
    if m = 0 then .fin s 0 0
    else if magAbove v 40 then .fin s 1 0
    else match fxExp (2 * fxOf (.fin false m e)) with
      | .fin _ n k =>
        let q := dyadicQ n k
        roundQ .fp32 s (q.1 - q.2) (q.1 + q.2)
      | _ => .fin s 1 0

/-- R167 SIGMOID, rounded. -/
def fvSigmoid (v : FVal) : FVal :=
  match v with
  | .nan s => .nan s
  | .inf s => if s then fvZero else fvOfNat 1
  | .fin s m e =>
    if magAbove v 1000 then (if s then fvZero else fvOfNat 1)
    else match fxExp (fxOf (.fin s m e)) with
      | .fin _ n k =>
        let q := dyadicQ n k
        roundQ .fp32 false q.1 (q.1 + q.2)
      | _ => fvZero

/-! ### Selection and comparison -/

/-- Order of two values with −0 below +0, NaN apart. -/
def fvLtZ (a b : FVal) : Bool := fvLt a b || (fvIsZero a && fvIsZero b && fvNeg a && !fvNeg b)

/-- R167 MIN. -/
def fvMin (a b : FVal) : FVal :=
  match a, b with
  | .nan s, _ => .nan s
  | _, .nan s => .nan s
  | _, _ => if fvLtZ b a then b else a

/-- R167 MAX. -/
def fvMax (a b : FVal) : FVal :=
  match a, b with
  | .nan s, _ => .nan s
  | _, .nan s => .nan s
  | _, _ => if fvLtZ a b then b else a

/-- +1.0 or +0. -/
def fvBool (b : Bool) : FVal := if b then fvOfNat 1 else fvZero

/-- A finite value truncated toward zero, and clamped to −300 to 300. -/
def truncClamp : FVal → Int
  | .fin s m e =>
    let q := dyadicQ m e
    let n : Int := (min 300 (q.1 / q.2) : Nat)
    if s then -n else n
  | .inf s => if s then -300 else 300
  | .nan _ => 0

/-- R167: the result of a step operation, rounded once to FP32 by RNE. -/
def stepOp (op : Nat) (a b c : FVal) : FVal :=
  match op with
  | 0x01 => r32 (fvAdd a b)
  | 0x02 => r32 (fvSub a b)
  | 0x03 => r32 (fvMul a b)
  | 0x04 => r32 (fvFma a b c)
  | 0x05 => divTo .fp32 a b
  | 0x06 => divTo .fp32 (fvOfNat 1) a
  | 0x07 => sqrtTo .fp32 a
  | 0x08 => rsqrtTo .fp32 a
  | 0x09 => r32 (fvMin a b)
  | 0x0A => r32 (fvMax a b)
  | 0x0B => r32 (fvAbs a)
  | 0x0C => r32 (fvNegate a)
  | 0x0D => r32 (fvMin (fvMax a b) c)
  | 0x0E => r32 (if fvIsZero a || fvIsNan a then c else b)
  | 0x0F => fvBool (fvLt b a)
  | 0x10 => fvBool (fvEq a b)
  | 0x11 => (match a, b with
      | .nan s, _ => .nan s
      | _, .nan s => .nan s
      | _, _ => r32 (fvScale (truncClamp b) a))
  | 0x12 => r32 (fvExp a)
  | 0x13 => r32 (fvLog a)
  | 0x14 => r32 (fvExp2 a)
  | 0x15 => r32 (fvLog2v a)
  | 0x16 => fvTanh a
  | 0x17 => fvSigmoid a
  | _ => .nan false

/-- R167: how many sources an operation uses: 1 A, 2 A and B, 3 all. -/
def stepArity (op : Nat) : Nat :=
  if op = 0x04 ∨ op = 0x0D ∨ op = 0x0E then 3
  else if [0x01, 0x02, 0x03, 0x05, 0x09, 0x0A, 0x0F, 0x10, 0x11].contains op then 2 else 1

end Sys2Proof.Machine
end

