-- ==== Sys2Proof/Machine/Vector.lean ====
section
/-!
DEFINITION. The vector units: CHAIN and REDUCE_TREE, the row-reduction tree, units over the Cells in scope, and drops
(R164 to R176).
-/

namespace Sys2Proof.Machine

/-! ### The CHAIN body (R175) -/

/-- R168: the offset of input `x`. -/
def vOff (d : Desc) (x : Nat) : Nat := dfld d (0x20 + 8 * x) 41 0
/-- R168: the MODE of input `x`. -/
def vMode (d : Desc) (x : Nat) : Nat := dfld d (0x20 + 8 * x) 43 42
/-- R175: Y. -/
def vY (d : Desc) : Nat := dfld d 0x38 41 0
/-- R175: the word of step `s`. -/
def vStep (d : Desc) (s : Nat) : Nat := dfld d (0x40 + 4 * s) 31 0
/-- R175: the format word of input `x`. -/
def vFmt (d : Desc) (x : Nat) : Nat := dfld d (0x60 + 2 * x) 15 0
/-- R175: K. -/
def vK (d : Desc) : Nat := dfld d 0x68 31 0
/-- R175: N. -/
def vN (d : Desc) : Nat := dfld d 0x70 29 0
/-- R175: L. -/
def vL (d : Desc) : Nat := dfld d 0x74 19 0
/-- R175: NSTEPS. -/
def vSteps (d : Desc) : Nat := dfld d 0x74 22 20
/-- R175: RED. -/
def vRed (d : Desc) : Nat := dfld d 0x74 24 23

/-- Whether a vector descriptor is a REDUCE_TREE. -/
def isTree (d : Desc) : Bool := dOpcode d == 0x0210

/-- R175, R176: FMT_Y. -/
def vFmtY (d : Desc) : Nat := if isTree d then dfld d 0x40 15 0 else dfld d 0x66 15 0
/-- R175, R176: TENSOR. -/
def vTensor (d : Desc) : Nat := if isTree d then dfld d 0x44 27 0 else dfld d 0x6C 27 0
/-- R175, R176: STREAM_VALID. -/
def vStream (d : Desc) : Bool := if isTree d then dfld d 0x48 40 40 == 1 else dfld d 0x74 25 25 == 1
/-- R175, R176: OUT_PURPOSE. -/
def vPurpose (d : Desc) : Nat := if isTree d then dfld d 0x48 41 41 else dfld d 0x74 26 26
/-- R175, R176: OUT0. -/
def vOut0 (d : Desc) : Nat := if isTree d then dfld d 0x48 39 0 else dfld d 0x78 39 0
/-- R175, R176: the output offset. -/
def vOut (d : Desc) : Nat := if isTree d then dfld d 0x30 41 0 else vY d

/-- R176: X. -/
def rtX (d : Desc) : Nat := dfld d 0x20 41 0
/-- R176: PSTRIDE. -/
def rtStride (d : Desc) : Nat := dfld d 0x28 41 0
/-- R176: N. -/
def rtN (d : Desc) : Nat := dfld d 0x38 29 0
/-- R176: P. -/
def rtP (d : Desc) : Nat := dfld d 0x3C 16 0

/-- R171: the number of outputs. -/
def vOuts (d : Desc) : Nat := if isTree d then rtN d else if vRed d = 0 then vN d else vN d / vL d

/-- R168: the number of elements that input `x` holds. -/
def vElems (d : Desc) (x : Nat) : Nat := if vMode d x = 1 then vN d else if vMode d x = 2 then vL d else ceilDiv (vN d) (vL d)

/-- R168: the offset of the scale bytes of a packed array of `n` elements. -/
def scalesAt (off fw n : Nat) : Nat := off + up16 (packedLen (fmtWidth (fwFmtD fw)) n)

/-- R81, R168: the regions of a packed array of `n` elements, with its scale bytes. -/
def packedRegions (off fw n : Nat) : List Region :=
  ⟨off, 0, 1, packedLen (fmtWidth (fwFmtD fw)) n⟩ ::
    (if fwMx fw then [⟨scalesAt off fw n, 0, 1, ceilDiv n 32⟩] else [])

/-- R168: element `i` of input `x` decoded to FP32. -/
def vInput (s : State) (d : Desc) (x i : Nat) : FVal :=
  let fw := vFmt d x
  let code := memCode s (vOff d x) (fmtWidth (fwFmtD fw)) i
  r32 (if fwMx fw then decodeScaled (fwFmtD fw) (memRead s.mem (scalesAt (vOff d x) fw (vElems d x) + i / 32)).toNat code
    else decodeCode (fwFmtD fw) code)

/-- R168: the element of an input that output element `j` reads. -/
def vIndex (d : Desc) (x j : Nat) : Nat := if vMode d x = 1 then j else if vMode d x = 2 then j % vL d else j / vL d

/-- R166: the value of a source code for element `j`, where `t` holds T[0] on. -/
def vSource (s : State) (d : Desc) (j : Nat) (t : List FVal) (code : Nat) : FVal :=
  if code ≤ 2 then vInput s d code (vIndex d code j)
  else if code ≤ 10 then t.getD (code - 3) fvZero
  else if code = 11 then decodeCode .fp32 (vK d)
  else if code = 12 then fvZero
  else if code = 13 then fvOfNat 1
  else .fin true 1 0

/-- R165: one step of element `j`. -/
def vDoStep (s : State) (d : Desc) (j : Nat) (t : List FVal) (k : Nat) : List FVal :=
  let w := vStep d k
  let op := bits w 5 0
  let a := vSource s d j t (bits w 9 6)
  let b := if 2 ≤ stepArity op then vSource s d j t (bits w 13 10) else fvZero
  let c := if 3 ≤ stepArity op then vSource s d j t (bits w 17 14) else fvZero
  t ++ [stepOp op a b c]

/-- R165: T[0] to T[NSTEPS] of element `j`. -/
def vChain (s : State) (d : Desc) (j : Nat) : List FVal := (List.range (vSteps d + 1)).foldl (vDoStep s d j) []

/-- R169: the inputs that element `j` decodes. -/
def vReads (s : State) (d : Desc) (j : Nat) : List FVal :=
  ((List.range 3).filter (fun x => vMode d x != 0)).map (fun x => vInput s d x (vIndex d x j))

/-- R171: the combining step. -/
def combine (red : Nat) (a b : FVal) : FVal :=
  if red = 2 then r32 (fvMax a b) else if red = 3 then r32 (fvMin a b) else r32 (fvAdd a b)

/-- R171: one level of the tree. -/
def treeLevel (red : Nat) : List FVal → List FVal
  | a :: b :: r => combine red a b :: treeLevel red r
  | l => l

/-- R171: the tree over a list, with every value that a step gives. -/
def treeLoop (red : Nat) : Nat → List FVal → FVal × List FVal
  | 0, l => (l.headD fvZero, [])
  | n + 1, l =>
    if l.length ≤ 1 then (l.headD fvZero, [])
    else
      let y := treeLevel red l
      let r := treeLoop red n y
      (r.1, y ++ r.2)

/-- R171: tree(x). -/
def tree (red : Nat) (l : List FVal) : FVal := (treeLoop red 32 l).1

/-- Output `j` of a vector operation and every value that its decodes and steps produce. -/
def vOutput (s : State) (d : Desc) (j : Nat) : FVal × List FVal :=
  if isTree d then
    let l := (List.range (rtP d)).map (fun p => rdF32 s (rtX d + p * rtStride d + 4 * j))
    let r := treeLoop 1 32 l
    (r.1, r.2)
  else if vRed d = 0 then
    let t := vChain s d j
    (t.getD (vSteps d) fvZero, vReads s d j ++ t)
  else
    let cs := (List.range (vL d)).map (fun i => vChain s d (j * vL d + i))
    let r := treeLoop (vRed d) 32 (cs.map (fun t => t.getD (vSteps d) fvZero))
    (r.1, (List.range (vL d)).flatMap (fun i => vReads s d (j * vL d + i)) ++ cs.flatten ++ r.2)

/-! ### Units (R172) -/

/-- A vector operation's progress. -/
def vecOf (o : Op) : VecWork :=
  match o.work with
  | .vec w => w
  | _ => ⟨[], [], none⟩

/-- A vector operation's progress changed. -/
def setVec (s : State) (ctx idx : Nat) (f : VecWork → VecWork) : State :=
  updOp s ctx idx (fun o => { o with work := .vec (f (vecOf o)) })

/-- R172: the number of units. -/
def vUnits (d : Desc) : Nat := ceilDiv (vOuts d) 8192

/-- The outputs of unit `u`. -/
def unitElems (d : Desc) (u : Nat) : List Nat := (List.range (min 8192 (vOuts d - 8192 * u))).map (fun i => 8192 * u + i)

/-- R157, R170: the rounding of output `j`. -/
def vRnd (s : State) (o : Op) (j : Nat) : Rnd :=
  rndOf s (fwRnd (vFmtY o.d)) (streamId (outPurpose (vPurpose o.d) (vStream o.d) (vTensor o.d)) (vTensor o.d)) o.step
    (vOut0 o.d + j)

/-- The packed row of Y that a unit covers, as offset and number of elements. -/
def unitRows (d : Desc) (u : Nat) : List (Nat × Nat) :=
  [(vOut d + packedLen (fmtWidth (fwFmtD (vFmtY d))) (8192 * u), (unitElems d u).length)]

/-- R544: the chain steps of a unit. -/
def unitSteps (d : Desc) (u : Nat) : Nat :=
  if isTree d then 0 else (unitElems d u).length * (if vRed d = 0 then 1 else vL d) * (vSteps d + 1)

/-- R165 to R171: the work of unit `u` done on its Cell and written. -/
def unitWork (s : State) (o : Op) (u : Nat) : State :=
  let d := o.d
  let cell := cellOfUnit d u
  let f := fwFmtD (vFmtY d)
  let js := unitElems d u
  let rs := js.map (vOutput s d)
  let xs := (js.zip rs).map (fun p => (p.2.1, vRnd s o p.1))
  let hit : Bool := !dEval d && rs.any (fun r => r.2.any fvNonFinite)
  let s1 := event (event (flagCell s cell hit) (cellBase cell) 0x0B (nat01 hit)) (cellBase cell) 0x06 (unitSteps d u)
  let at' := vOut d + packedLen (fmtWidth f) (8192 * u)
  if fwMx (vFmtY d) then
    let r := blocksOut s1 cell (dEval d) f (fwNoClip (vFmtY d)) (chunks 32 256 xs)
    let s2 := wrMem r.1 (bytesWrites at' (packRow (fmtWidth f) (r.2.flatMap (fun b => b.2))))
    wrMem s2 (bytesWrites (scalesAt (vOut d) (vFmtY d) (vOuts d) + 256 * u) (r.2.map (fun b => BitVec.ofNat 8 b.1)))
  else
    let r := unitOut s1 cell (dEval d) (vecOf o).bind u f xs (js.map (fun j => vOut0 d + j))
    wrMem (setVec r.1 o.ctx o.idx (fun w => { w with bind := r.2.2 })) (bytesWrites at' (packRow (fmtWidth f) r.2.1))

/-- R172: a Cell's lowest unit that has not begun. -/
def nextUnit (o : Op) (cell : Nat) : Option Nat :=
  (List.range (vUnits o.d)).find? (fun u => cellOfUnit o.d u == cell && !(vecOf o).doneUnits.contains u &&
    !(vecOf o).running.contains u)

/-- R238: whether a jointed-body batch runs on a Cell. -/
def batchOn (s : State) (cell : Nat) : Bool :=
  s.ops.any (fun o => match o.work with
    | .jb w => o.ended.isNone && w.running.any (fun b => cellOfUnit o.d b == cell)
    | _ => false)

/-- R172, R173, R238: a Cell begins its next unit of an operation, unless the slot has ended or a batch runs. -/
def beginUnit (s : State) (ctx idx cell : Nat) : State :=
  match findOp s ctx idx with
  | none => s
  | some o =>
    if slotOver s o || batchOn s cell || o.away.contains cell then s
    else match nextUnit o cell with
      | some u => setVec s ctx idx (fun w => { w with running := w.running ++ [u] })
      | none => s

/-- A vector operation ends once every unit is done. -/
def vecMaybeEnd (s : State) (ctx idx : Nat) : State :=
  match findOp s ctx idx with
  | none => s
  | some o => if (vecOf o).doneUnits.length = vUnits o.d then finishOp s ctx idx else s

/-- R172: unit `u` is finished and written, and its Cell begins its next unit. -/
def unitDone (s : State) (o : Op) (u : Nat) : State :=
  let s1 := setVec (unitWork s o u) o.ctx o.idx (fun w =>
    { w with doneUnits := w.doneUnits ++ [u], running := w.running.filter (fun x => x != u) })
  vecMaybeEnd (beginUnit s1 o.ctx o.idx (cellOfUnit o.d u)) o.ctx o.idx

/-- R172: every unit of an operation that runs or has not begun is finished, in ascending order. -/
def vecRunAll (s : State) (o : Op) : State :=
  if slotOver s o || unitsHeld s || !o.away.isEmpty then s
  else (List.range (vUnits o.d)).foldl (fun t u =>
    match findOp t o.ctx o.idx with
    | some p =>
      if opRuns p && !(vecOf p).doneUnits.contains u && ((vecOf p).running.contains u || !batchOn t (cellOfUnit p.d u)) then
        unitDone t p u
      else t
    | none => t) s

/-! ### The beginning of a vector operation -/

/-- R168, R176: the regions that a vector operation reads. -/
def vReadRegions (d : Desc) : List Region :=
  if isTree d then [⟨rtX d, rtStride d, rtP d, 4 * rtN d⟩]
  else ((List.range 3).filter (fun x => vMode d x != 0)).flatMap (fun x => packedRegions (vOff d x) (vFmt d x) (vElems d x))

/-- R170: the regions that a vector operation writes. -/
def vWriteRegions (d : Desc) : List Region := packedRegions (vOut d) (vFmtY d) (vOuts d)

/-- R139, R172: a vector operation begins. -/
def vecBegin (s : State) (ctx idx : Nat) : State :=
  match findOp s ctx idx with
  | none => s
  | some o0 =>
    let d := o0.d
    let bd := sclBind s (vStream d) (vTensor d) (vFmtY d)
    let s1 := updOp s ctx idx (fun o => { o with work := .vec ⟨[], [], bd⟩ })
    let outs := vWriteRegions d ++ mapRegions s1 d bd (vUnits d)
    match accessFault s1 (vReadRegions d ++ outs) with
    | some e => ctxFault s1 ctx idx e.1 e.2
    | none =>
      match outFault s1 d outs with
      | some e => ctxFault s1 ctx idx e.1 e.2
      | none =>
       if shadowMeets s1 d bd (vOut0 d) 0 1 (vOuts d) then ctxFault s1 ctx idx 0x120 0
       else if bindNarrow s1 bd && decide (2 ^ 24 < vUnits d) then ctxFault s1 ctx idx 0x122 0
      else (scopeCells d).foldl (fun t c => beginUnit t ctx idx c) s1

/-- R173: every unit of a Cell that runs is dropped and run again, counting one re-run each. -/
def dropUnits (s : State) (cell : Nat) (brake : Bool) : State :=
  s.ops.foldl (fun t o =>
    let n := ((vecOf o).running.filter (fun u => cellOfUnit o.d u == cell)).length
    updOp t o.ctx o.idx (fun p => { p with reruns := p.reruns + n, brakes := p.brakes + (if brake then n else 0) })) s

end Sys2Proof.Machine
end

