-- ==== Sys2Proof/Machine/Params.lean ====
section
/-!
DEFINITION. Parameter records, shards, the re-derivation of working copies and the audit (R158 to R161, R250 to R253).
-/

namespace Sys2Proof.Machine

/-! ### Records (R252, R253) -/

/-- R159: whether WFMT is BF16 without block scales, or an FP8 format with block scales under SCALE_RULE 1. -/
def wfmtOk (fw : Nat) : Bool :=
  decide (fw < 256) && fwRnd fw == 0 &&
    ((fw % 16 == 8 && !fwMx fw && !fwNoClip fw) || ((fw % 16 == 3 || fw % 16 == 4) && fwMx fw && fwNoClip fw))

/-- R252, R253, R159: whether record `p` breaks a rule of its own. -/
def recordBad (s : State) (p : Nat) : Bool :=
  pRows s p == 0 || pCols s p == 0 || pNcols s p == 0 || decide (pRows s p < pRow0 s p + pNrows s p) ||
    decide (pCols s p < pCol0 s p + pNcols s p) || !wfmtOk (pWfmt s p) ||
    (fwMx (pWfmt s p) && (if pWaxis s p = 0 then pCol0 s p else pRow0 s p) % 32 != 0) ||
    pSlow s p % 4096 != 0

/-- The parameters `p0` to `p0 + n - 1`. -/
def paramRange (p0 n : Nat) : List Nat := (List.range n).map (fun i => p0 + i)

/-- The region of the records of a range of parameters. -/
def recordRegion (s : State) (p0 n : Nat) : Region := ⟨paramAddr s p0, 0, 1, n * 128⟩

/-- R251, R252: the offset of a role's region; 0 for none. -/
def roleOff (s : State) (p role : Nat) : Nat :=
  if role = 0 then pMaster s p else if role = 1 then pWorking s p else if role = 2 then pGrad s p
  else if role = 3 then pM1 s p else if role = 4 then pM2 s p else pResid s p

/-- R253: an FP32 role region of a shard. -/
def roleRegion (s : State) (p role : Nat) : Region := f32Region (roleOff s p role) (pNrows s p) (pNcols s p)

/-- R258, R270: the values of an FP32 region packed without pitch. -/
def packedRole (s : State) (p role : Nat) : List Byte := regionBytes s.mem (roleRegion s p role)

/-- The writes of packed values into an FP32 region. -/
def roleWrites (s : State) (p role : Nat) (bs : List Byte) : List Host.Cell :=
  let r := roleRegion s p role
  (List.range r.rows).flatMap (fun i => bytesWrites (r.off + i * r.pitch) ((bs.drop (i * r.len)).take r.len))

/-- R253: the master, or another FP32 role, of a shard as values. -/
def roleMat (s : State) (p role : Nat) : Mat :=
  rdMat s (roleOff s p role) (f32Pitch (pNcols s p)) (pNrows s p) (pNcols s p)

/-- Packed FP32 values as a matrix of `n` columns. -/
def packedMat (n rows : Nat) (bs : List Byte) : Mat :=
  (List.range rows).map (fun r => (List.range n).map (fun c => decodeCode .fp32 (leNat ((bs.drop (4 * (r * n + c))).take 4))))

/-! ### Re-derivation (R158, R159) -/

/-- R253: the blocks of an MX working copy in the order of its scale bytes, each with the index of its first element. -/
def workBlocks (s : State) (p : Nat) (a : Mat) : List (Nat × List FVal) :=
  let nr := pNrows s p
  let nc := pNcols s p
  if pWaxis s p = 0 then
    (List.range nr).flatMap (fun r => (List.range (ceilDiv nc 32)).map (fun b =>
      (r * nc + 32 * b, ((a.getD r []).drop (32 * b)).take 32)))
  else
    (List.range (ceilDiv nr 32)).flatMap (fun b => (List.range nc).map (fun c =>
      (32 * b * nc + c, ((a.drop (32 * b)).take 32).map (fun row => row.getD c fvZero))))

/-- R159: the position of element `k` of a block that begins at element `i`. -/
def blockElem (s : State) (p i k : Nat) : Nat := if pWaxis s p = 0 then i + k else i + k * pNcols s p

/-- R158, R159: the working copy of a shard derived from a master by RNE, with its conversions counted on the Cells
that `cellOf` gives by unit: the state and the writes. -/
def rederive (s : State) (cellOf : Nat → Nat) (eval : Bool) (p : Nat) (a : Mat) : State × List Host.Cell :=
  let f := fwFmtD (pWfmt s p)
  let nc := pNcols s p
  let rows := fun (cs : List Nat) => (List.range (pNrows s p)).flatMap (fun r =>
    bytesWrites (pWorking s p + r * (workRegion s p).pitch) (packRow (fmtWidth f) ((cs.drop (r * nc)).take nc)))
  if fwMx (pWfmt s p) then
    let r := (workBlocks s p a).foldl (fun (acc : State × List Nat × List (Nat × Nat)) b =>
      let q := blocksOut acc.1 (cellOf (b.1 / 8192)) eval f true [b.2.map (fun v => (v, Rnd.rne))]
      match q.2 with
      | (sc, cs) :: _ => (q.1, acc.2.1 ++ [sc],
          acc.2.2 ++ ((List.range cs.length).zip cs).map (fun e => (blockElem s p b.1 e.1, e.2)))
      | [] => (q.1, acc.2)) (s, [], [])
    let codes := (List.range (pNrows s p * nc)).map (fun i => match r.2.2.find? (fun e => e.1 == i) with
      | some e => e.2
      | none => 0)
    (r.1, rows codes ++ bytesWrites (pWorking s p + pNrows s p * (workRegion s p).pitch)
      (r.2.1.map (fun b => BitVec.ofNat 8 b)))
  else
    let vs := a.flatten
    let r := (chunks 8192 (ceilDiv vs.length 8192) vs).foldl (fun (acc : State × Nat × List Nat) vs =>
      let q := unitOut acc.1 (cellOf acc.2.1) eval none 0 f (vs.map (fun v => (v, Rnd.rne))) []
      (q.1, acc.2.1 + 1, acc.2.2 ++ q.2.1)) (s, 0, [])
    (r.1, rows r.2.2)

/-! ### The audit (R160, R161) -/

/-- R160: whether updates of step `st` audit. -/
def auditDue (s : State) (st : Nat) : Bool :=
  let a := getA s Reg.audit_interval
  a != 0 && st % a == 0

/-- R160: the ring digests of the re-derived and the stored working copy. -/
def auditDigests (s : State) (p : Nat) : Nat × Nat :=
  let ws := (rederive s (fun _ => 0) true p (roleMat s p 0)).2
  (regionsDigest (memWriteAll s.mem ws) (workRegions s p), regionsDigest s.mem (workRegions s p))

/-- R149, R156: the conversions of an audit are counted on the Cells that `cellOf` gives by unit; its result is not written, so
that they set no flag. -/
def auditCounts (s : State) (cellOf : Nat → Nat) (p : Nat) : State :=
  let f := fwFmtD (pWfmt s p)
  let a := roleMat s p 0
  let vs := a.flatten
  let cls : List (Nat × List Cls) :=
    if fwMx (pWfmt s p) then
      (workBlocks s p a).map (fun b => (b.1 / 8192, (convertBlock f true (b.2.map (fun v => (v, Rnd.rne)))).2.map Prod.snd))
    else
      let us := chunks 8192 (ceilDiv vs.length 8192) vs
      ((List.range us.length).zip us).map (fun u => (u.1, u.2.map (fun v => (convert f .rne v).2)))
  cls.foldl (fun t c => countConv t (cellOf c.1) false none (fmtCode f) c.2) s

/-- R160: the shards of some parameters are audited in order and counted, up to the first that differs. -/
def auditAll (s : State) (cellOf : Nat → Nat) : List Nat → State × Option (Nat × Nat × Nat)
  | [] => (s, none)
  | p :: r =>
    let d := auditDigests s p
    let s1 := countA (auditCounts s cellOf p) Reg.auditCount_count 1
    if d.1 = d.2 then auditAll s1 cellOf r else (s1, some (p, d.1, d.2))

/-- R509: the low and high words of a digest. -/
def digestWords (d : Nat) : List Nat := [d % 2 ^ 64, d / 2 ^ 64]

/-- R161: the fault record words of an audit that differs. -/
def auditWords (s : State) (p d1 d2 : Nat) : List Nat :=
  [p * 8 + 1, pRow0 s p + pNrows s p * 2 ^ 24, pCol0 s p + pNcols s p * 2 ^ 24] ++ digestWords d1 ++ digestWords d2

end Sys2Proof.Machine
end

