-- ==== Sys2Proof/Machine/Update.lean ====
section
/-!
DEFINITION. UPDATE: the optimisers, gathering gradients, the skid buffer, and applying an update (R254 to R257, R262 to
R268, R276, R279).
-/

namespace Sys2Proof.Machine

/-! ### The body (R276) -/

/-- R276: PARAM0. -/
def uParam0 (d : Desc) : Nat := dfld d 0x20 19 0
/-- R276: COUNT. -/
def uCount (d : Desc) : Nat := dfld d 0x24 20 0
/-- R276: STEP. -/
def uStep (d : Desc) : Nat := dfld d 0x28 63 0
/-- R276: OPT. -/
def uOpt (d : Desc) : Nat := dfld d 0x30 1 0
/-- R276: NESTEROV. -/
def uNest (d : Desc) : Bool := dfld d 0x30 2 2 == 1
/-- R276: ZERO_GRAD. -/
def uZero (d : Desc) : Bool := dfld d 0x30 3 3 == 1
/-- R276: REL. -/
def uRel (d : Desc) : Bool := dfld d 0x30 4 4 == 1
/-- R276: REL_SEM. -/
def uRelSem (d : Desc) : Nat := dfld d 0x32 11 0
/-- R276: an FP32 field. -/
def uF32 (d : Desc) (off : Nat) : FVal := decodeCode .fp32 (dfld d off 31 0)

/-- The parameters of an UPDATE. -/
def uParams (d : Desc) : List Nat := paramRange (uParam0 d) (uCount d)

/-! ### The optimisers (R255) -/

/-- A fused multiply-add rounded once to FP32. -/
def fma32 (a b c : FVal) : FVal := r32 (fvFma a b c)

/-- R255: the new master, first and second state of an element, and whether any operation gave an infinity or a NaN. -/
def updElem (d : Desc) (w g m v : FVal) : FVal × FVal × FVal × Bool :=
  let lr := uF32 d 0x34
  let wd := uF32 d 0x38
  if uOpt d = 2 then
    let b1 := uF32 d 0x40
    let b2 := uF32 d 0x44
    let one := fvOfNat 1
    let c1 := r32 (fvSub one b1)
    let c2 := r32 (fvSub one b2)
    let k := r32 (fvMul lr wd)
    let cg := r32 (fvMul c1 g)
    let gg := r32 (fvMul g g)
    let cgg := r32 (fvMul c2 gg)
    let m1 := fma32 b1 m cg
    let v1 := fma32 b2 v cgg
    let mh := divTo .fp32 m1 (uF32 d 0x4C)
    let vh := divTo .fp32 v1 (uF32 d 0x50)
    let sq := sqrtTo .fp32 vh
    let den := r32 (fvAdd sq (uF32 d 0x48))
    let u := divTo .fp32 mh den
    let w1 := fma32 (fvNegate k) w w
    let w2 := fma32 (fvNegate lr) u w1
    (w2, m1, v1, [cg, gg, cgg, m1, v1, mh, vh, sq, den, u, w1, w2].any fvNonFinite)
  else
    let mom := uF32 d 0x3C
    let gw := fma32 wd w g
    let m1 := fma32 mom m gw
    let dd := if uNest d then fma32 mom m1 gw else m1
    let w1 := fma32 (fvNegate lr) dd w
    (w1, m1, v, [gw, m1, dd, w1].any fvNonFinite)

/-! ### Progress -/

/-- An UPDATE's progress. -/
def updOf (o : Op) : UpdWork :=
  match o.work with
  | .upd w => w
  | _ => ⟨0, false, [], [], 0, false, 0, false, false⟩

/-- An UPDATE's progress changed. -/
def setUpd (s : State) (ctx idx : Nat) (f : UpdWork → UpdWork) : State :=
  updOp s ctx idx (fun o => { o with work := .upd (f (updOf o)) })

/-- R263: whether a parameter's state is away and not present. -/
def stateAway (s : State) (p : Nat) : Bool := pAway s p && !pPresent s p

/-- R265: the release of an UPDATE's gradients: REL_SEM rises once every gradient has been released. -/
def relCheck (s : State) (ctx idx : Nat) : State :=
  match findOp s ctx idx with
  | none => s
  | some o =>
    let w := updOf o
    if uRel o.d && !w.rel && decide (w.gathered = uCount o.d) && w.late.isEmpty then
      setUpd (semAdd s (uRelSem o.d) 1) ctx idx (fun x => { x with rel := true })
    else s

/-- R257: the gradient region zeroed where ZERO_GRAD asks for it. -/
def zeroGrad (s : State) (d : Desc) (p : Nat) : State :=
  if uZero d then wrMem s (roleWrites s p 2 (List.replicate (4 * pNrows s p * pNcols s p) 0)) else s

/-! ### The skid buffer (R262 to R265) -/

/-- R262: the pages an entry of parameter `p` takes. -/
def skidNeed (s : State) (p : Nat) : Nat := 1 + ceilDiv (4 * pNrows s p * pNcols s p) 4096

/-- The pages in use. -/
def skidPagesUsed (s : State) : List Nat := s.skid.flatMap (fun e => e.pages)

/-- R263: whether an entry of `need` pages fits. -/
def skidFits (s : State) (need : Nat) : Bool :=
  decide ((skidPagesUsed s).length + need ≤ getA s Reg.skidCtrl_pages) && decide (s.skid.length < 4096)

/-- The lowest free pages.  The spec gives no placement (log entry 33). -/
def freePages (s : State) (need : Nat) : List Nat :=
  ((List.range (getA s Reg.skidCtrl_pages)).filter (fun g => !(skidPagesUsed s).contains g)).take need

/-- R263, R280: an entry is granted. -/
def skidGrant (s : State) (q : SkidReq) : State :=
  let s1 := { s with skid := s.skid ++ [⟨q.ctx, q.idx, q.param, freePages s q.need, false⟩] }
  setA s1 Reg.skidEntries_peak (max (getA s Reg.skidEntries_peak) s1.skid.length)

/-- R262: the offset of a skid page. -/
def skidPage (s : State) (g : Nat) : Nat := getA2 s Reg.skidBase_baseLo Reg.skidBase_baseHi + g * 4096

/-- R262: a gradient's bytes written behind the header page of an entry. -/
def skidWrites (s : State) (pages : List Nat) (bs : List Byte) : List Host.Cell :=
  ((List.range (pages.length - 1)).zip pages.tail).flatMap (fun p =>
    bytesWrites (skidPage s p.2) ((bs.drop (4096 * p.1)).take 4096))

/-- R266: the gradient held in an entry. -/
def skidRead (s : State) (e : SkidEntry) : List Byte :=
  (e.pages.tail.flatMap (fun g => rdBytes s (skidPage s g) 4096)).take (4 * pNrows s e.param * pNcols s e.param)

/-- R259, R266: every entry and request of an operation freed. -/
def skidFree (s : State) (ctx idx : Nat) : State :=
  { s with skid := s.skid.filter (fun e => !(e.ctx == ctx && e.idx == idx))
           skidQ := s.skidQ.filter (fun q => !(q.ctx == ctx && q.idx == idx)) }

/-! ### Gathering (R263, R264, R267) -/

/-- R263, R264, R267: an UPDATE gathers gradients in ascending order: it reads those whose state is at hand and asks for
an entry where the state is away, until a request is under way or every parameter has been reached. -/
def updGather : Nat → State → Nat → Nat → State
  | 0, s, _, _ => s
  | n + 1, s, ctx, idx =>
    match findOp s ctx idx with
    | none => s
    | some o =>
      let w := updOf o
      if w.asked || decide (uCount o.d ≤ w.gathered) || !opRuns o then s
      else
        let p := uParam0 o.d + w.gathered
        if stateAway s p then
          let need := skidNeed s p
          let q : SkidReq := ⟨ctx, idx, p, need⟩
          if getA s Reg.skidCtrl_pages < need then
            updGather n (setUpd s ctx idx (fun x => { x with gathered := x.gathered + 1, late := x.late ++ [p] })) ctx idx
          else
            let s1 := setUpd s ctx idx (fun x => { x with asked := true })
            if s.skidQ.isEmpty && skidFits s need then skidGrant s1 q
            else countA { s1 with skidQ := s1.skidQ ++ [q] } Reg.skidFull_count 1
        else
          let s1 := zeroGrad (setUpd s ctx idx (fun x =>
            { x with gathered := x.gathered + 1, grads := x.grads ++ [(p, packedRole s p 2)] })) o.d p
          updGather n (relCheck s1 ctx idx) ctx idx

/-- SKID_GRANT (R263): the first request that waits is granted where it fits, and its gradient copy starts. -/
def execSkidGrant (s : State) : Host.Outcome State Fault Refusal :=
  .next (match s.skidQ with
    | [] => s
    | q :: r => if skidFits s q.need then skidGrant { s with skidQ := r } q else s)

/-- R263, R265: the copy of a granted gradient ends. -/
def skidCopied (s : State) (e : SkidEntry) : State :=
  match findOp s e.ctx e.idx with
  | none => s
  | some o =>
    let s1 := wrMem s (skidWrites s e.pages (packedRole s e.param 2))
    let s2 := { s1 with skid := s1.skid.map (fun f =>
      if f.ctx == e.ctx && f.idx == e.idx && f.param == e.param then { f with copied := true } else f) }
    let s3 := zeroGrad (setUpd s2 e.ctx e.idx (fun x => { x with gathered := x.gathered + 1, asked := false })) o.d e.param
    updGather (uCount o.d + 1) (relCheck s3 e.ctx e.idx) e.ctx e.idx

/-- SKID_COPY_DONE (R263): the copy that was granted first ends. -/
def execSkidCopyDone (s : State) : Host.Outcome State Fault Refusal :=
  .next (if unitsHeld s then s
    else match s.skid.find? (fun e => !e.copied) with
      | some e => skidCopied s e
      | none => s)

/-! ### Faults (R267, R279) -/

/-- R256: whether a factor side of an OPT 3 update is at fault. -/
def updSideBad (s : State) (o : Op) (x n : Nat) : Bool :=
  x != 0x3FF && (decide (facCount s ≤ x) || facN s x != n ||
    (match o.facs.find? (fun r => r.num == x) with
      | some r => r.gen != 0 && r.kind != 4 && r.kind != 5
      | none => facGen s x != 0 && facKind s x != 4 && facKind s x != 5))

/-- R279: whether parameter `p` is at fault for an UPDATE. -/
def updParamBad (s : State) (o : Op) (p : Nat) : Bool :=
  pNrows s p == 0 || recordBad s p || pM1 s p == 0 || (uOpt o.d == 2 && pM2 s p == 0) ||
    (uOpt o.d == 3 && (pNrows s p != pRows s p || pNcols s p != pCols s p || updSideBad s o (pXl s p) (pRows s p) ||
      updSideBad s o (pXr s p) (pCols s p)))

/-- The regions that an UPDATE touches. -/
def updRegions (s : State) (d : Desc) : List Region :=
  (uParams d).flatMap (fun p => if pNrows s p = 0 then [] else
    [roleRegion s p 0, roleRegion s p 2, roleRegion s p 3] ++ (if uOpt d = 2 then [roleRegion s p 4] else []) ++ workRegions s p)

/-- The role regions that an UPDATE writes other than by re-derivation. -/
def updStores (s : State) (d : Desc) : List Region :=
  (uParams d).flatMap (fun p => if pNrows s p = 0 then [] else
    [roleRegion s p 0, roleRegion s p 3] ++ (if uOpt d = 2 then [roleRegion s p 4] else []) ++
      (if uZero d then [roleRegion s p 2] else []))

/-- R50, R158, R279: the execution fault of an UPDATE. -/
def updFault (s : State) (o : Op) : Option (Nat × Nat) :=
  let d := o.d
  match accessFault s [recordRegion s (uParam0 d) (uCount d)] with
  | some e => some e
  | none =>
    match accessFault s (updRegions s d) with
    | some e => some e
    | none =>
      if dEval d then some (0x0A, 0)
      else if uStep d ≠ stepId s ∧ uStep d + 1 ≠ stepId s then some (0x161, 0)
      else if meetsWorking s (updStores s d) then some (0x120, 0)
      else if (uParams d).any (updParamBad s o) then some (0x162, 0)
      else if (uParams d).any (fun p => decide (uStep d ≤ pSeq s p)) then some (0x163, 0)
      else none

/-! ### Applying (R255 to R257, R266, R267) -/

/-- R155, R254, R267: the decision of step `st`, whether it is skipped, once released: a step at or above STEP.ID is not
closed, though it was before STEP was written (R503). -/
def decisionOf (s : State) (st : Nat) : Option Bool :=
  if stepId s ≤ st then none
  else match s.decisions.find? (fun p => p.1 == st) with
    | some p => some p.2
    | none => some false

/-- Whether an operation is an UPDATE that covers parameter `p`; it has not ended before its DESCRIPTOR_END. -/
def updCovers (p : Nat) (o : Op) : Bool :=
  dOpcode o.d == 0x0900 && decide (uParam0 o.d ≤ p ∧ p < uParam0 o.d + uCount o.d)

/-- Whether a TALLY_CLOSE has not read the masters (R495, R496). -/
def closeReads (o : Op) : Bool :=
  dOpcode o.d == 0x0A10 && o.ended.isNone &&
    (match o.work with
      | .close w => w.masters.isNone
      | _ => true)

/-- R496: whether a TALLY_CLOSE of a step at or below `st` has not read the masters. -/
def closeBefore (s : State) (st : Nat) : Bool := s.ops.any (fun o => closeReads o && decide (dfld o.d 0x28 63 0 ≤ st))

/-- R266, R267, R496: whether an UPDATE may apply its next parameter. -/
def updMayApply (s : State) (o : Op) : Bool :=
  let w := updOf o
  let p := uParam0 o.d + w.applied
  decide (w.applied < w.gathered) && !stateAway s p && (decisionOf s (uStep o.d)).isSome &&
    !s.ops.any (fun x => updCovers p x && decide (uStep x.d < uStep o.d)) && !closeBefore s (uStep o.d)

/-- R266: the gradient of a parameter: read at once, held in an entry, or read now. -/
def updGrad (s : State) (o : Op) (p : Nat) : List Byte :=
  match (updOf o).grads.find? (fun g => g.1 == p) with
  | some g => g.2
  | none =>
    match s.skid.find? (fun e => e.ctx == o.ctx && e.idx == o.idx && e.param == p) with
    | some e => skidRead s e
    | none => packedRole s p 2

/-- R256: the preconditioned gradient of an OPT 3 update. -/
def updPrecond (s : State) (o : Op) (p : Nat) (g : Mat) : State × Mat :=
  let m := pNrows s p
  let n := pNcols s p
  let side := fun (x k : Nat) => match o.facs.find? (fun r => r.num == x) with
    | some r => if x = 0x3FF ∨ r.gen = 0 then none else some (facMat s r k)
    | none => none
  let t := leftProd s o.ctx o.idx (scopeCells o.d) m n (side (pXl s p) m) g
  rightProd t.1 o.ctx o.idx (scopeCells o.d) m n t.2 (side (pXr s p) n)

/-- R255, R172: the Cells of the units in which an operation gave an infinity or a NaN are flagged. -/
def flagUnits (s : State) (d : Desc) (units : List Nat) : State :=
  units.foldl (fun t u => event (flagCell t (cellOfUnit d u) true) (cellBase (cellOfUnit d u)) 0x0B 1) s

/-- R256, R265: the gradient of the next parameter is read, or, for OPT 3, preconditioned, and released; a product's tile that
fails ends the operation instead (R189). -/
def updForm (s : State) (o : Op) : State :=
  let w := updOf o
  let p := uParam0 o.d + w.applied
  if w.formed then s
  else
    let g := updGrad s o p
    let s0 := if w.late.contains p then zeroGrad s o.d p else s
    let q := if uOpt o.d = 3 then updPrecond s0 o p (packedMat (pNcols s p) (pNrows s p) g) else (s0, [])
    if prodFailed q.1 o.ctx o.idx then skidFree q.1 o.ctx o.idx
    else
      let bs := if uOpt o.d = 3 then q.2.flatten.flatMap (fun v => leBytes 4 (code32 v)) else g
      relCheck (setUpd q.1 o.ctx o.idx (fun x =>
        { x with formed := true, grads := (p, bs) :: x.grads.filter (fun y => y.1 != p), late := x.late.filter (fun y => y != p) }))
        o.ctx o.idx

/-- R268: the units of 8,192 elements of a parameter. -/
def updUnitCount (s : State) (p : Nat) : Nat := ceilDiv (pNrows s p * pNcols s p) 8192

/-- R255, R172, R268: units of the next parameter, up to unit `k`, are computed and written, unless the step is skipped. -/
def updUnits (s : State) (o : Op) (k : Nat) (skip : Bool) : State :=
  let w := updOf o
  let p := uParam0 o.d + w.applied
  let n := pNcols s p
  let first := 8192 * w.unit
  let len := min (8192 * k) (pNrows s p * n) - first
  let part := fun (a : Mat) => (a.flatten.drop first).take len
  let ms := part (roleMat s p 0)
  let s1s := part (roleMat s p 3)
  let s2s := if uOpt o.d = 2 then part (roleMat s p 4) else []
  let gs := part (packedMat n (pNrows s p) (updGrad s o p))
  let rs := (List.range len).map (fun i => updElem o.d (ms.getD i fvZero) (gs.getD i fvZero) (s1s.getD i fvZero) (s2s.getD i fvZero))
  let bad := (((List.range len).zip rs).filter (fun x => x.2.2.2.2)).map (fun x => (first + x.1) / 8192)
  let put := fun (role : Nat) (vs : List FVal) => ((List.range len).zip vs).flatMap (fun x =>
    let i := first + x.1
    bytesWrites (roleOff s p role + i / n * f32Pitch n + 4 * (i % n)) (leBytes 4 (code32 x.2)))
  let s1 := if skip then s
    else wrMem (flagUnits s o.d bad.eraseDups) (put 0 (rs.map (fun x => x.1)) ++ put 3 (rs.map (fun x => x.2.1)) ++
      (if uOpt o.d = 2 then put 4 (rs.map (fun x => x.2.2.1)) else []))
  setUpd s1 o.ctx o.idx (fun x => { x with unit := k })

/-- R267: how an UPDATE ends. -/
def updEnd (o : Op) (skip : Bool) : OpEnd := if skip then worse (normalEnd o) ⟨.doneSkipped, 0⟩ else normalEnd o

/-- R257, R266, R267: the next parameter's units are done: its working copy is re-derived, unless the step is skipped, SEQ is
set, its entry is freed, and the UPDATE ends after the last. -/
def updDone (s : State) (o : Op) (skip : Bool) : State :=
  let w := updOf o
  let p := uParam0 o.d + w.applied
  let seqw := natWrites (paramAddr s p + 0x58) 8 (uStep o.d)
  let d := if skip then (s, []) else rederive s (cellOfUnit o.d) false p (roleMat s p 0)
  let s1 := wrMem d.1 (d.2 ++ seqw)
  let s2 := setUpd { s1 with skid := s1.skid.filter (fun e => !(e.ctx == o.ctx && e.idx == o.idx && e.param == p)) } o.ctx o.idx
    (fun x => { x with applied := x.applied + 1, formed := false, unit := 0, grads := x.grads.filter (fun y => y.1 != p) })
  if w.applied + 1 = uCount o.d then
    match findOp s2 o.ctx o.idx with
    | some q => endOp s2 o.ctx o.idx (updEnd q skip)
    | none => s2
  else s2

/-- R266, R268: the next parameter is applied, as far as its unit `k`. -/
def updApply (s : State) (o : Op) (k : Nat) : State :=
  let n := updUnitCount s (uParam0 o.d + (updOf o).applied)
  let skip := (decisionOf s (uStep o.d)).getD false
  let s1 := updForm s o
  if prodFailed s1 o.ctx o.idx then s1
  else match findOp s1 o.ctx o.idx with
    | none => s1
    | some q =>
      let s2 := updUnits s1 q (max (updOf q).unit (min k n)) skip
      if k < n then s2
      else match findOp s2 o.ctx o.idx with
        | some r => updDone s2 r skip
        | none => s2

/-- R160, R161: the audits of an UPDATE, before it writes. -/
def updAudit (s : State) (o : Op) : State × Bool :=
  if (updOf o).audited || !auditDue s (uStep o.d) then (s, true)
  else
    let s0 := setUpd s o.ctx o.idx (fun x => { x with audited := true })
    match auditAll s0 (cellOfUnit o.d) (uParams o.d) with
    | (s1, none) => (s1, true)
    | (s1, some (p, d1, d2)) =>
      (skidFree (endWithRecord s1 o.ctx o.idx .digestMismatch 0x04 0 (auditWords s p d1 d2)) o.ctx o.idx, false)

/-- R266: an UPDATE applies what it can, at most `n` parameters. -/
def updRun : Nat → State → Nat → Nat → State
  | 0, s, _, _ => s
  | n + 1, s, ctx, idx =>
    match findOp s ctx idx with
    | none => s
    | some o =>
      if !opRuns o || slotOver s o || unitsHeld s || !updMayApply s o then s
      else
        let a := updAudit s o
        if !a.2 then a.1
        else match findOp a.1 ctx idx with
          | some q => updRun n (updApply a.1 q (updUnitCount a.1 (uParam0 q.d + (updOf q).applied))) ctx idx
          | none => a.1

/-- R276: an ELASTIC UPDATE that is about to park completes units of the parameter that it applies, as far as unit `k`. -/
def updPark (s : State) (o : Op) (k : Nat) : State :=
  if unitsHeld s || opWaits s o || !updMayApply s o || k ≤ (updOf o).unit then s
  else
    let a := updAudit s o
    if !a.2 then a.1
    else match findOp a.1 o.ctx o.idx with
      | some q => updApply a.1 q k
      | none => a.1

/-- R172, R268: whether a unit of an UPDATE is in progress on a Cell. -/
def updUnitOn (s : State) (cell : Nat) (o : Op) : Bool :=
  let w := updOf o
  updMayApply s o && (List.range (updUnitCount s (uParam0 o.d + w.applied))).any (fun u =>
    decide (w.unit ≤ u) && cellOfUnit o.d u == cell)

/-- R267: an UPDATE begins: its faults, then its gradients are gathered at once. -/
def updBegin (s : State) (ctx idx : Nat) : State :=
  match findOp s ctx idx with
  | none => s
  | some o =>
    let fs := if uOpt o.d = 3 then
        ((uParams o.d).flatMap (fun p => [pXl s p, pXr s p])).eraseDups.filter (fun x => decide (x < facCount s)) else []
    let s1 := updOp s ctx idx (fun p => { p with facs := fs.map (facRead s), work := .upd (updOf p) })
    match findOp s1 ctx idx with
    | none => s1
    | some q => faultOr s1 ctx idx (updFault s1 q) (updGather (uCount q.d + 1) s1 ctx idx)

/-- UPDATE (R255): gradients are gathered and every parameter that can be is applied; `upsets` are the runs of product tiles
that an upset changes (R189). -/
def execUpdate (ctx idx : Nat) (upsets : List TileUpset) (s : State) : Host.Outcome State Fault Refusal :=
  .next (onOp s ctx idx 0x0900 (fun o =>
    withUpsets s ctx idx upsets (fun t => updRun (uCount o.d) (updGather (uCount o.d + 1) t ctx idx) ctx idx)))

/-- UPDATE_SKID_APPLY (R266): a waiting update applies its next parameter once it may. -/
def execUpdateSkidApply (ctx idx : Nat) (s : State) : Host.Outcome State Fault Refusal :=
  .next (onOp s ctx idx 0x0900 (fun _ => updRun 1 s ctx idx))

end Sys2Proof.Machine
end

