-- ==== Sys2Proof/Machine/Moves.lean ====
section
/-!
DEFINITION. COPY, PREFETCH, EVICT and the Yarder, EXPORT, IMPORT and REPLICA_CMP (R258 to R261, R269 to R278, R545).
-/

namespace Sys2Proof.Machine

/-! ### COPY (R274, R545) -/

/-- R274: DST_CHIP. -/
def cpChip (d : Desc) : Nat := dfld d 0x30 15 0
/-- R274: ROWS. -/
def cpRows (d : Desc) : Nat := dfld d 0x34 23 0
/-- R274: BYTES. -/
def cpBytes (d : Desc) : Nat := dfld d 0x38 31 0
/-- R274: the source region. -/
def cpSrc (d : Desc) : Region := ⟨slotOff d 0x20, slotPitch d 0x20, cpRows d, cpBytes d⟩
/-- R274: the destination region. -/
def cpDst (d : Desc) : Region := ⟨slotOff d 0x28, slotPitch d 0x28, cpRows d, cpBytes d⟩

/-- R545: whether a region lies wholly within the counter words of one Cell, Mill or Landing block. -/
def counterRegion (r : Region) : Bool :=
  match blkOf r.off with
  | some (.dev, _) => false
  | some (b, x) => decide (0x3F00 ≤ x) && decide (regionEnd r ≤ blkBase b + 0x3F90)
  | none => false

/-- R545: the bytes of a row of counter words. -/
def counterRow (s : State) (a n : Nat) : List Byte :=
  (List.range (n / 4)).flatMap (fun i => leBytes 4 (wordOf s (a + 4 * i)))

/-- The rows that a COPY reads. -/
def cpRowsRead (s : State) (d : Desc) : List (List Byte) :=
  let r := cpSrc d
  (regionRows r).map (fun p => if counterRegion r then counterRow s p.1 p.2 else rdBytes s p.1 p.2)

/-- R35: whether a context may read counters. -/
def counterRead (s : State) (ctx : Nat) : Bool :=
  match findCtx s ctx with
  | some x => x.counterRead
  | none => false

/-- R19, R50, R158, R274, R400: the fault of a region that a COPY writes, at the chip that holds it. -/
def landFault (s : State) (r : Region) (eval : Bool) : Option (Nat × Nat) :=
  match accessFault s [r] with
  | some e => some e
  | none => if eval && anyMeet [r] (trainRegions s) then some (0x0A, 0) else if meetsWorking s [r] then some (0x120, 0) else none

/-- R19, R21, R50, R158, R274, R400, R516, R545: the execution fault of a COPY that its own chip finds. -/
def copyFault (s : State) (ctx : Nat) (d : Desc) : Option (Nat × Nat) :=
  let own : Bool := cpChip d == s.chip
  let cnt := counterRegion (cpSrc d)
  match accessFault s ((if cnt then [] else [cpSrc d]) ++ (if own then [cpDst d] else [])) with
  | some e => some e
  | none =>
    match targetFault s (cpChip d) (cpDst d).off with
    | some e => some e
    | none =>
      if semRanges.any (fun q => meets (cpDst d).off (regionEnd (cpDst d)) q.1 q.2) then some (0x1A2, 0)
      else if own && evalMeets s d [cpDst d] then some (0x0A, 0)
      else if cnt && !counterRead s ctx then some (0x0B, 0)
      else if own && meetsWorking s [cpDst d] then some (0x120, 0)
      else if own && regionsMeet (cpSrc d) (cpDst d) then some (0x165, 0)
      else none

/-- The writes of a COPY in messages of at most 256 bytes: offset on the target, and bytes. -/
def cpMessages (s : State) (d : Desc) : List (Nat × List Byte) :=
  ((regionRows (cpDst d)).zip (cpRowsRead s d)).flatMap (fun p =>
    (List.range (ceilDiv p.2.length 256)).map (fun i => (p.1.1 + 256 * i, (p.2.drop (256 * i)).take 256)))

/-- R274, R544: the rows of a COPY leave for the chip that has passed its check. -/
def cpSendAll (s : State) (o : Op) : State :=
  let s1 := event s (cellBase ((scopeCells o.d).headD 0)) 0x09 (cpRows o.d * cpBytes o.d / 16)
  let ms := cpMessages s o.d
  ms.foldl (fun t m => sendMsg t 1 (cpChip o.d) 0 ⟨s.chip, o.ctx, o.idx, .write m.1 m.2 o.step⟩)
    (updOp s1 o.ctx o.idx (fun p => { p with work := .remote ms.length false }))

/-- R274, R544: the rows of a COPY are written at its own chip; training state is held (R155). -/
def cpOwn (s : State) (o : Op) : State :=
  let s1 := event s (cellBase ((scopeCells o.d).headD 0)) 0x09 (cpRows o.d * cpBytes o.d / 16)
  finishOp (holdTrain s (wrMem s1 (((regionRows (cpDst o.d)).zip (cpRowsRead s o.d)).flatMap (fun p =>
    bytesWrites p.1.1 p.2))) o.ctx o.idx) o.ctx o.idx

/-- COPY (R274): the rows are written at this chip; another chip is asked for the faults that it sees, and the rows leave
once it has found none. -/
def execCopy (ctx idx : Nat) (s : State) : Host.Outcome State Fault Refusal :=
  .next (onOp s ctx idx 0x0500 (fun o =>
    if o.work ≠ .none ∨ unitsHeld s then s
    else match copyFault s ctx o.d with
      | some e => ctxFault s ctx idx e.1 e.2
      | none =>
        if cpChip o.d = s.chip then cpOwn s o
        else sendMsg (updOp s ctx idx (fun p => { p with work := .asking })) 1 (cpChip o.d) 0
          ⟨s.chip, ctx, idx, .writeCheck (cpDst o.d) (dEval o.d)⟩))

/-! ### Writes of other chips (R155, R274) -/

/-- R155: a write of another chip takes effect: bytes outside training state at once, training state at once, never or
later, as the decision of the step says. -/
def writeLand (s : State) (m : Msg) (off : Nat) (data : List Byte) (step : Nat) : State :=
  let ws := bytesWrites off data
  let held := trainCells s ws
  if held.isEmpty then ackMsg (wrMem s ws) m
  else
    let others := wrMem s (ws.filter (fun c => !held.contains c))
    match (if closeBefore s step then none else decisionOf s step) with
    | some false => ackMsg (wrMem s ws) m
    | some true => sendMsg others 7 m.src 0 ⟨s.chip, m.ctx, m.idx, .ackSkip⟩
    | none => { others with heldWrites := s.heldWrites ++ [⟨m, step, held⟩] }

/-- R155: a held write of another chip, once its step's decision is released. -/
def heldDecide (s : State) (h : HeldWrite) : State :=
  match (if closeBefore s h.step then none else decisionOf s h.step) with
  | some false => ackMsg (wrMem s h.writes) h.msg
  | some true => sendMsg s 7 h.msg.src 0 ⟨s.chip, h.msg.ctx, h.msg.idx, .ackSkip⟩
  | none => { s with heldWrites := s.heldWrites ++ [h] }

/-- R155: the held writes of other chips take the decisions that are released. -/
def releaseHeld (s : State) : State := s.heldWrites.foldl heldDecide { s with heldWrites := [] }

/-! ### Operations over a range of parameters (R275, R277, R278) -/

/-- R279: whether a parameter of a range has no shard here or a record that breaks a rule. -/
def rangeBad (s : State) (ps : List Nat) : Bool := ps.any (fun p => pNrows s p == 0 || recordBad s p)

/-- The fault of an operation over a range of parameters that touches some roles and the regions `extra`, as far as R19,
R279 and R597 go. -/
def rangeFaultWith (s : State) (p0 n : Nat) (roles : List Nat) (extra : List Region) : Option (Nat × Nat) :=
  match accessFault s [recordRegion s p0 n] with
  | some e => some e
  | none =>
    match accessFault s ((paramRange p0 n).flatMap (fun p => if pNrows s p = 0 then [] else
        (roles.filter (fun r => roleOff s p r != 0)).map (roleRegion s p)) ++ extra) with
    | some e => some e
    | none => if rangeBad s (paramRange p0 n) then some (0x162, 0) else none

/-- The fault of an operation over a range of parameters that touches some roles, as far as R19 and R279 go. -/
def rangeFault (s : State) (p0 n : Nat) (roles : List Nat) : Option (Nat × Nat) := rangeFaultWith s p0 n roles []

/-! ### The Yarder (R258 to R261) -/

/-- R258: the roles of a parameter that have their home in the slow tier. -/
def slowRoles (s : State) (p : Nat) : List Nat := [3, 4].filter (fun r => roleOff s p r != 0)

/-- R253: the bytes of one FP32 role of a shard, packed. -/
def roleBytes (s : State) (p : Nat) : Nat := 4 * pNrows s p * pNcols s p

/-- Whether an operation is a PREFETCH. -/
def isFetch (o : Op) : Bool := dOpcode o.d == 0x0510

/-- An operation's place in its range and whether its transfer runs. -/
def yardOf (o : Op) : Nat × Bool :=
  match o.work with
  | .yard n m => (n, m)
  | _ => (0, false)

/-- R261: whether a transfer of the Yarder runs. -/
def yardBusy (s : State) : Bool := s.ops.any (fun o => o.ended.isNone && (yardOf o).2)

/-- An operation's place in its range. -/
def setYard (s : State) (ctx idx n : Nat) (m : Bool) : State := updOp s ctx idx (fun o => { o with work := .yard n m })

/-- R259, R260: MOVING and PRESENT of a record. -/
def setMoving (s : State) (p : Nat) (present moving : Bool) : State :=
  wrBits s (paramAddr s p + 0x4A) 3 2 (nat01 present + 2 * nat01 moving)

/-- R259, R260: whether a parameter is to be moved by an operation. -/
def yardWants (s : State) (o : Op) (p : Nat) : Bool := pAway s p && (pPresent s p != isFetch o)

/-- R259 to R261: a PREFETCH or EVICT passes over what needs no transfer and starts the next one, unless a transfer runs
or it has to wait. -/
def yardPump : Nat → State → Nat → Nat → State
  | 0, s, _, _ => s
  | n + 1, s, ctx, idx =>
    match findOp s ctx idx with
    | none => s
    | some o =>
      let y := yardOf o
      let p := uParam0 o.d + y.1
      if y.2 || !opRuns o then s
      else if uCount o.d ≤ y.1 then finishOp s ctx idx
      else if pMoving s p then s
      else if !yardWants s o p then yardPump n (setYard s ctx idx (y.1 + 1) false) ctx idx
      else if yardBusy s || thermalHold s || (!isFetch o && s.ops.any (updCovers p)) then s
      else setMoving (setYard s ctx idx y.1 true) p (pPresent s p) true

/-- R158: whether the fetches of a PREFETCH would write a working copy. -/
def fetchMeets (s : State) (o : Op) : Bool :=
  isFetch o && (uParams o.d).any (fun p => yardWants s o p && meetsWorking s ((slowRoles s p).map (roleRegion s p)))

/-- R50, R158, R279: the execution fault of a PREFETCH or EVICT. -/
def yardFault (s : State) (o : Op) : Option (Nat × Nat) :=
  let eval : Option (Nat × Nat) := if dEval o.d && (uParams o.d).any (yardWants s o) then some (0x0A, 0)
    else if fetchMeets s o then some (0x120, 0) else none
  match rangeFault s (uParam0 o.d) (uCount o.d) [3, 4] with
  | some e => if e.1 = 0x162 then some (eval.getD e) else some e
  | none => eval

/-- R259, R260: a PREFETCH or EVICT begins. -/
def yardBegin (s : State) (ctx idx : Nat) : State :=
  match findOp s ctx idx with
  | none => s
  | some o =>
    faultOr s ctx idx (yardFault s o) (yardPump (uCount o.d + 1) (setYard s ctx idx 0 false) ctx idx)

/-- R259: whether an UPDATE waits on the state of parameter `p`: it has reached `p` and not applied it. -/
def waitsOnState (p : Nat) (o : Op) : Bool :=
  let w := updOf o
  updCovers p o && o.ended.isNone && decide (uParam0 o.d + w.applied ≤ p) &&
    (decide (p < uParam0 o.d + w.gathered) || (w.asked && p == uParam0 o.d + w.gathered))

/-- R259: a fetch whose digest differs ends its PREFETCH and every UPDATE that waits on the state, with the record of
the PREFETCH. -/
def fetchFailed (s : State) (o : Op) (p dig : Nat) : State :=
  let s1 := endWithRecord (setMoving s p false false) o.ctx o.idx .digestMismatch 0x06 0
    ([p] ++ digestWords dig ++ digestWords (pSlowDigest s p))
  (s.ops.filter (waitsOnState p)).foldl (fun t u =>
    skidFree (endOp t u.ctx u.idx ⟨.digestMismatch, faultTail s⟩) u.ctx u.idx) s1

/-- R259: a fetch ends; `alt` are the bytes that it delivered other than as stored. -/
def fetchDone (s : State) (o : Op) (alt : List (Nat × Byte)) : State :=
  let p := uParam0 o.d + (yardOf o).1
  let n := roleBytes s p
  let rs := slowRoles s p
  let bs := fetched (memBytes s.hostMem (pSlow s p) (n * rs.length)) alt
  let ws := ((List.range rs.length).zip rs).flatMap (fun q => roleWrites s p q.2 ((bs.drop (n * q.1)).take n))
  let s1 := countA (wrMem s ws) Reg.yardIn_pages (ceilDiv bs.length 4096)
  let s2 := setYard (event s1 landABase 0x09 (bs.length / 16)) o.ctx o.idx ((yardOf o).1 + 1) false
  let dig := ringDigest bs
  if dig = pSlowDigest s p then setMoving s2 p true false else fetchFailed s2 o p dig

/-- R260: a write-back ends. -/
def evictDone (s : State) (o : Op) : State :=
  let p := uParam0 o.d + (yardOf o).1
  let bs := (slowRoles s p).flatMap (packedRole s p)
  let s1 := countA (wrHost s (bytesWrites (pSlow s p) bs)) Reg.yardOut_pages (ceilDiv bs.length 4096)
  let s2 := wrNat (event s1 landABase 0x09 (bs.length / 16)) (paramAddr s p + 0x60) 16 (ringDigest bs)
  setMoving (setYard s2 o.ctx o.idx ((yardOf o).1 + 1) false) p false false

/-- R259, R260: the transfer of an operation ends. -/
def transferDone (s : State) (o : Op) (alt : List (Nat × Byte)) : State :=
  if isFetch o then fetchDone s o alt else evictDone s o

/-- R260, R261: every PREFETCH and EVICT that waits goes on. -/
def yardPumpAll (s : State) : State :=
  (s.ops.filter (fun o => dOpcode o.d == 0x0510 || dOpcode o.d == 0x0511)).foldl (fun t o =>
    yardPump (uCount o.d + 1) t o.ctx o.idx) s

/-- YARDER_TRANSFER_DONE (R259 to R261): the transfer of an operation ends, and the next one starts. -/
def execYarderTransferDone (ctx idx : Nat) (alt : List (Nat × Byte)) (s : State) : Host.Outcome State Fault Refusal :=
  .next (match findOp s ctx idx with
    | none => s
    | some o => if opRuns o && (yardOf o).2 && !opWaits s o then yardPumpAll (transferDone s o alt) else s)

/-- The transfers of an operation run to its end, or until it has to wait. -/
def yardRun : Nat → State → Nat → Nat → State
  | 0, s, _, _ => s
  | n + 1, s, ctx, idx =>
    let s1 := match findOp s ctx idx with
      | some o => yardPump (uCount o.d + 1) s ctx idx
      | none => s
    match findOp s1 ctx idx with
    | none => s1
    | some o => if opRuns o && (yardOf o).2 then yardRun n (transferDone s1 o []) ctx idx else s1

/-- PREFETCH (R259). -/
def execPrefetch (ctx idx : Nat) (s : State) : Host.Outcome State Fault Refusal :=
  .next (onOp s ctx idx 0x0510 (fun o => yardPumpAll (yardRun (uCount o.d + 1) s ctx idx)))

/-- EVICT (R260). -/
def execEvict (ctx idx : Nat) (s : State) : Host.Outcome State Fault Refusal :=
  .next (onOp s ctx idx 0x0511 (fun o => yardPumpAll (yardRun (uCount o.d + 1) s ctx idx)))

/-! ### EXPORT (R270, R272, R278) -/

/-- R278: ADDR. -/
def exAddr (d : Desc) : Nat := dfld d 0x20 63 0
/-- R278: PARAM0. -/
def exParam0 (d : Desc) : Nat := dfld d 0x28 19 0
/-- R278: COUNT. -/
def exCount (d : Desc) : Nat := dfld d 0x2C 20 0
/-- R278: HOST. -/
def exHost (d : Desc) : Bool := dfld d 0x30 4 4 == 1
/-- R278: LOG_STOCK. -/
def exLog (d : Desc) : Bool := dfld d 0x30 5 5 == 1
/-- R278: the roles that ROLES names, ascending. -/
def exRoles (d : Desc) : List Nat :=
  ([(0, 0), (1, 3), (2, 4), (3, 5)].filter (fun p => bit (dfld d 0x30 3 0) p.1)).map (fun p => p.2)

/-- R270: the header of a shard record. -/
def exHeader (s : State) (o : Op) (p role : Nat) (body : List Byte) : List Byte :=
  leBytes 4 (p * 8 + role + 9 * 2 ^ 28) ++ leBytes 4 (pRows s p) ++ leBytes 4 (pCols s p) ++ leBytes 4 (pRow0 s p) ++
    leBytes 4 (pNrows s p) ++ leBytes 4 (pCol0 s p) ++ leBytes 4 (pNcols s p) ++ leBytes 4 0 ++
    leBytes 8 o.step ++ leBytes 8 (if exLog o.d then dfld o.d 0x38 63 0 else 0) ++ leBytes 8 body.length ++ leBytes 8 0 ++
    leBytes 16 (ringDigest body) ++ leBytes 8 (nat01 (exLog o.d)) ++ List.replicate 40 0

/-- A record padded to a multiple of 128. -/
def pad128 (bs : List Byte) : List Byte := bs ++ List.replicate ((128 - bs.length % 128) % 128) 0

/-- R270: the records that an EXPORT writes, in order: ascending parameter, then ascending role. -/
def exRecords (s : State) (o : Op) : List (List Byte) :=
  (paramRange (exParam0 o.d) (exCount o.d)).flatMap (fun p =>
    ((exRoles o.d).filter (fun r => roleOff s p r != 0)).map (fun r =>
      let b := packedRole s p r
      exHeader s o p r b ++ b))

/-- R270: records laid from an address on, each at the next multiple of 128. -/
def exWrites (a : Nat) : List (List Byte) → List Host.Cell
  | [] => []
  | r :: rest => bytesWrites a r ++ exWrites (a + (pad128 r).length) rest

/-- The bytes that laid records span. -/
def exSpan : List (List Byte) → Nat
  | [] => 0
  | [r] => r.length
  | r :: rest => (pad128 r).length + exSpan rest

/-- R19, R50, R158, R279: the execution fault of an EXPORT. -/
def exportFault (s : State) (o : Op) : Option (Nat × Nat) :=
  let rs := if exHost o.d then [] else [(⟨exAddr o.d, 0, 1, exSpan (exRecords s o)⟩ : Region)]
  match rangeFaultWith s (exParam0 o.d) (exCount o.d) (exRoles o.d) rs with
  | some e => some e
  | none => if exHost o.d then none else outFault s o.d rs

/-- EXPORT (R270). -/
def execExport (ctx idx : Nat) (s : State) : Host.Outcome State Fault Refusal :=
  .next (onOp s ctx idx 0x0920 (fun o =>
    let ws := exWrites (exAddr o.d) (exRecords s o)
    faultOr s ctx idx (exportFault s o)
      (if exHost o.d then finishOp (wrHost s ws) ctx idx
       else finishOp (holdTrain s (wrMem s ws) ctx idx) ctx idx)))

/-! ### IMPORT (R271) -/

/-- The bytes that an IMPORT reads from. -/
def imRead (s : State) (d : Desc) (off n : Nat) : List Byte :=
  memBytes (if exHost d then s.hostMem else s.mem) (exAddr d + off) n

/-- A little-endian field of the header of an IMPORT. -/
def imFld (s : State) (d : Desc) (off n : Nat) : Nat := leNat (imRead s d off n)

/-- R270: the parameter of the header. -/
def imParam (s : State) (d : Desc) : Nat := bits (imFld s d 0 4) 27 3
/-- R270: the role of the header. -/
def imRole (s : State) (d : Desc) : Nat := imFld s d 0 4 % 8
/-- R270: ROW0, NROWS, COL0 and NCOLS of the header. -/
def imRow0 (s : State) (d : Desc) : Nat := imFld s d 0x0C 3
/-- R270: NROWS of the header. -/
def imNrows (s : State) (d : Desc) : Nat := imFld s d 0x10 3
/-- R270: COL0 of the header. -/
def imCol0 (s : State) (d : Desc) : Nat := imFld s d 0x14 3
/-- R270: NCOLS of the header. -/
def imNcols (s : State) (d : Desc) : Nat := imFld s d 0x18 3

/-- R271: the payload. -/
def imPayload (s : State) (d : Desc) : List Byte := imRead s d 128 (4 * imNrows s d * imNcols s d)

/-- R279: whether the header breaks a condition of code 0x164. -/
def imBad (s : State) (d : Desc) : Bool :=
  bits (imFld s d 0 4) 31 28 != 9 || !([0, 3, 4, 5].contains (imRole s d)) || decide (paramCount s ≤ imParam s d) ||
    imFld s d 4 3 != pRows s (imParam s d) || imFld s d 8 3 != pCols s (imParam s d)

/-- Whether element (r, c) of the local shard lies in the header's rectangle. -/
def imCovers (s : State) (d : Desc) (p r c : Nat) : Bool :=
  let gr := pRow0 s p + r
  let gc := pCol0 s p + c
  decide (imRow0 s d ≤ gr ∧ gr < imRow0 s d + imNrows s d ∧ imCol0 s d ≤ gc ∧ gc < imCol0 s d + imNcols s d)

/-- R271: the writes of the intersection into the role's region; a role without a region gets none. -/
def imWrites (s : State) (d : Desc) : List Host.Cell :=
  let p := imParam s d
  let r0 := roleRegion s p (imRole s d)
  let bs := imPayload s d
  if r0.off = 0 then []
  else (List.range (pNrows s p)).flatMap (fun r => (List.range (pNcols s p)).flatMap (fun c =>
    if imCovers s d p r c then
      let k := (pRow0 s p + r - imRow0 s d) * imNcols s d + (pCol0 s p + c - imCol0 s d)
      bytesWrites (r0.off + r * r0.pitch + 4 * c) ((bs.drop (4 * k)).take 4)
    else []))

/-- R19, R50, R158, R279: the execution fault of an IMPORT after its digest check. -/
def importFault (s : State) (d : Desc) : Option (Nat × Nat) :=
  let p := imParam s d
  if imBad s d then some (0x164, 0)
  else
    let ws := imWrites s d
    let rs := if ws.isEmpty then [] else roleRegion s p (imRole s d) :: (if imRole s d = 0 then workRegions s p else [])
    match accessFault s rs with
    | some e => some e
    | none =>
      if dEval d && !ws.isEmpty then some (0x0A, 0)
      else if !ws.isEmpty && meetsWorking s [roleRegion s p (imRole s d)] then some (0x120, 0)
      else if pNrows s p ≠ 0 ∧ recordBad s p then some (0x162, 0)
      else none

/-- The faults of reading an IMPORT's record. -/
def imReadFault (s : State) (d : Desc) : Option (Nat × Nat) :=
  if exHost d then none
  else match accessFault s [⟨exAddr d, 0, 1, 128⟩] with
    | some e => some e
    | none => accessFault s [⟨exAddr d, 0, 1, 128 + 4 * imNrows s d * imNcols s d⟩]

/-- IMPORT (R271): the writes are held until the decision of its step (R155), and an import of role 0 re-derives at its end. -/
def execImport (ctx idx : Nat) (s : State) : Host.Outcome State Fault Refusal :=
  .next (onOp s ctx idx 0x0921 (fun o =>
    match imReadFault s o.d with
    | some e => ctxFault s ctx idx e.1 e.2
    | none =>
      if ringDigest (imPayload s o.d) ≠ imFld s o.d 0x40 16 then
        endWithRecord s ctx idx .digestMismatch 0x07 0 [bits (imFld s o.d 0 4) 27 0, exAddr o.d]
      else match importFault s o.d with
        | some e => ctxFault s ctx idx e.1 e.2
        | none =>
          let ws := imWrites s o.d
          let s1 := if imRole s o.d = 0 ∧ !ws.isEmpty then
              updOp s ctx idx (fun q => { q with work := .imported (imParam s o.d) }) else s
          finishOp (holdWrites s1 ctx idx ws) ctx idx))

/-- R158, R271: at the end of an IMPORT of role 0, its writes made, the whole local working copy is re-derived. -/
def importEnd (s : State) (o : Op) : State :=
  match o.work with
  | .imported p =>
    let d := rederive s (cellOfUnit o.d) false p (roleMat s p 0)
    wrMem d.1 d.2
  | _ => s

/-! ### REPLICA_CMP (R269, R277) -/

/-- R277: NPEER. -/
def rcNpeer (d : Desc) : Nat := dfld d 0x28 3 0
/-- R277: TAG. -/
def rcTag (d : Desc) : Nat := dfld d 0x2A 15 0
/-- R277: the peers. -/
def rcPeers (d : Desc) : List Nat := (List.range (rcNpeer d)).map (fun j => dfld d (0x2C + 2 * j) 15 0)

/-- R269, R489: the ring digests of the masters of a range, in ascending parameter, combined by SHA-512. -/
def replicaValue (s : State) (d : Desc) : List Byte :=
  sha512 ((paramRange (uParam0 d) (uCount d)).flatMap (fun p => leBytes 16 (ringDigest (packedRole s p 0))))

/-- A peer's digest under a tag. -/
def replicaOf (s : State) (tag chip : Nat) : Option (List Byte) :=
  (s.replicas.find? (fun r => r.tag == tag && r.chip == chip)).map (fun r => r.value)

/-- A peer's digest arrives and is held. -/
def replicaTake (s : State) (tag chip : Nat) (v : List Byte) : State :=
  { s with replicas := s.replicas.filter (fun r => !(r.tag == tag && r.chip == chip)) ++ [⟨tag, chip, v⟩] }

/-- R269: the chips that a mismatch lists: those that differ from the value of more than half of the group, or all. -/
def replicaOdd (vs : List (Nat × List Byte)) : List Nat :=
  match vs.find? (fun v => decide (vs.length < 2 * vs.countP (fun w => w.2 == v.2))) with
  | some v => (vs.filter (fun w => w.2 != v.2)).map (fun w => w.1)
  | none => vs.map (fun w => w.1)

/-- R509: chip numbers, four per word. -/
def chipWords (cs : List Nat) : List Nat :=
  (List.range 4).map (fun k => (List.range 4).foldl (fun w j => w + cs.getD (4 * k + j) 0 * 2 ^ (16 * j)) 0)

/-- R269: once every peer's digest is held, the values are compared and the operation ends. -/
def replicaCompare (s : State) (ctx idx : Nat) : State :=
  match findOp s ctx idx with
  | none => s
  | some o =>
    match o.work with
    | .replica v =>
      let ps := rcPeers o.d
      if !opRuns o || ps.any (fun c => (replicaOf s (rcTag o.d) c).isNone) then s
      else
        let vs := List.insertionSort (fun (a b : Nat × List Byte) => a.1 ≤ b.1)
          ((s.chip, v) :: ps.map (fun c => (c, (replicaOf s (rcTag o.d) c).getD [])))
        let s1 := { s with replicas := s.replicas.filter (fun r => !(r.tag == rcTag o.d && ps.contains r.chip)) }
        if vs.all (fun w => w.2 == v) then endOp s1 ctx idx (normalEnd o)
        else
          let odd := replicaOdd vs
          endWithRecord s1 ctx idx .digestMismatch 0x05 odd.length (rcTag o.d :: chipWords odd)
    | _ => s

/-- R280: a REPLICA_CMP has ended with a status: it is counted. -/
def replicaCount (s : State) (o : Op) (st : Status) : State :=
  if dOpcode o.d = 0x0910 then
    countA (countA s Reg.replicaCmps_run 1) Reg.replicaCmps_mismatch (nat01 (st == .digestMismatch))
  else s

/-- R269: the fault of a REPLICA_CMP. -/
def replicaFault (s : State) (d : Desc) : Option (Nat × Nat) :=
  match rangeFault s (uParam0 d) (uCount d) [0] with
  | some e => some e
  | none => (rcPeers d).findSome? (fun c => targetFault s c 0)

/-- R269: this chip's value is formed and sent to every peer, and the comparison is made where every peer's is held. -/
def replicaStart (s : State) (ctx idx : Nat) (o : Op) : State :=
  let v := replicaValue s o.d
  let s1 := updOp (countSha s (16 * uCount o.d)) ctx idx (fun p => { p with work := .replica v })
  replicaCompare ((rcPeers o.d).foldl (fun t c =>
    sendMsg t 6 c 0 ⟨s.chip, ctx, idx, .replica (rcTag o.d) v⟩) s1) ctx idx

/-- REPLICA_CMP (R269): this chip's value is formed and sent, and the comparison is made once every peer's is held. -/
def execReplicaCmp (ctx idx : Nat) (s : State) : Host.Outcome State Fault Refusal :=
  .next (onOp s ctx idx 0x0910 (fun o =>
    if o.work ≠ .none then replicaCompare s ctx idx
    else faultOr s ctx idx (replicaFault s o.d) (replicaStart s ctx idx o)))

/-- R269: a peer's digest arrives, and a comparison that waited for it is made. -/
def replicaArrive (s : State) (tag chip : Nat) (v : List Byte) : State :=
  let s1 := replicaTake s tag chip v
  match s1.ops.find? (fun o => opRuns o && dOpcode o.d == 0x0910 && rcTag o.d == tag && (rcPeers o.d).contains chip) with
  | some o => replicaCompare s1 o.ctx o.idx
  | none => s1

/-- REPLICA_DIGEST_RECEIVE (R269). -/
def execReplicaDigestReceive (tag chip : Nat) (value : List Byte) (s : State) : Host.Outcome State Fault Refusal :=
  .next (replicaArrive s tag chip value)

/-- TIME_STAMP (R362): the 32 bytes that it took as it began are written; training state is held (R155). -/
def execTimeStamp (ctx idx : Nat) (s : State) : Host.Outcome State Fault Refusal :=
  .next (onOp s ctx idx 0x0F11 (fun o =>
    let a := dfld o.d 0x30 41 0
    match o.work with
    | .stamp bs =>
      let r : Region := ⟨a, 0, 1, 32⟩
      match accessFault s [r] with
      | some e => ctxFault s ctx idx e.1 e.2
      | none => faultOr s ctx idx (outFault s o.d [r]) (finishOp (holdTrain s (wrMem s (bytesWrites a bs)) ctx idx) ctx idx)
    | _ => s))

end Sys2Proof.Machine
end

