-- ==== Sys2Proof/Machine/Derail.lean ====
section
/-!
DEFINITION. The Derailleur: RESHARD, its pieces, rounds, vote and switch (R328 to R335, R420).
-/

namespace Sys2Proof.Machine

/-! ### The plan (R328, R420) -/

/-- R420: PLAN. -/
def rsPlan (d : Desc) : Nat := dfld d 0x20 41 0
/-- R420: FIRST. -/
def rsFirst (d : Desc) : Nat := dfld d 0x28 15 0
/-- R420: COUNT. -/
def rsCount (d : Desc) : Nat := dfld d 0x2A 15 0

/-- R328: NGROUPS. -/
def plGroups (s : State) (d : Desc) : Nat := rdNat s (rsPlan d + 4) 2
/-- R328: NPIECES. -/
def plPieces (s : State) (d : Desc) : Nat := rdNat s (rsPlan d + 8) 4
/-- R328: PLAN_ID. -/
def plId (s : State) (d : Desc) : Nat := rdNat s (rsPlan d + 0x10) 8

/-- R420: the group past the last one to run. -/
def rsEnd (s : State) (d : Desc) : Nat := if rsCount d = 0 then plGroups s d else rsFirst d + rsCount d

/-- R328: the offset of group entry `g`. -/
def grAddr (d : Desc) (g : Nat) : Nat := rsPlan d + 0x40 + 32 * g
/-- R328: PARAM0 of a group. -/
def grParam0 (s : State) (d : Desc) (g : Nat) : Nat := rdBits s (grAddr d g) 19 0
/-- R328: COUNT of a group. -/
def grCount (s : State) (d : Desc) (g : Nat) : Nat := rdBits s (grAddr d g + 4) 20 0
/-- R328: TARGETS. -/
def grTargets (s : State) (d : Desc) (g : Nat) : Nat := rdBits s (grAddr d g + 8) 41 0
/-- R328: PIECE0. -/
def grPiece0 (s : State) (d : Desc) (g : Nat) : Nat := rdNat s (grAddr d g + 0x10) 4
/-- R328: NPIECE. -/
def grNpiece (s : State) (d : Desc) (g : Nat) : Nat := rdNat s (grAddr d g + 0x14) 4
/-- R328: NROUNDS. -/
def grRounds (s : State) (d : Desc) (g : Nat) : Nat := rdNat s (grAddr d g + 0x18) 2

/-- R328: the offset of piece entry `k`. -/
def pcAddr (s : State) (d : Desc) (k : Nat) : Nat := rsPlan d + 0x40 + 32 * plGroups s d + 32 * k
/-- R328: whether a piece is received. -/
def pcIn (s : State) (d : Desc) (k : Nat) : Bool := rdBits s (pcAddr s d k) 23 23 == 1
/-- R328: PEER. -/
def pcPeer (s : State) (d : Desc) (k : Nat) : Nat := rdNat s (pcAddr s d k + 4) 2
/-- R328: ROUND. -/
def pcRound (s : State) (d : Desc) (k : Nat) : Nat := rdNat s (pcAddr s d k + 6) 2

/-- R328: the rectangle of a piece. -/
def pcKey (s : State) (d : Desc) (k : Nat) : PieceKey :=
  let a := pcAddr s d k
  ⟨rdBits s a 19 0, rdBits s a 22 20, rdBits s (a + 8) 23 0, rdBits s (a + 0x0C) 23 0, rdBits s (a + 0x10) 23 0,
    rdBits s (a + 0x14) 23 0⟩

/-- The pieces of a group, ascending. -/
def grPieces (s : State) (d : Desc) (g : Nat) : List Nat := (List.range (grNpiece s d g)).map (fun i => grPiece0 s d g + i)

/-- The parameters of a group. -/
def grParams (s : State) (d : Desc) (g : Nat) : List Nat := paramRange (grParam0 s d g) (grCount s d g)

/-- Whether a piece is a local move. -/
def pcLocal (s : State) (d : Desc) (k : Nat) : Bool := pcPeer s d k == s.chip

/-- The state with the target records of a group in place of its current records, for reading the targets. -/
def targetsOf (s : State) (d : Desc) (g : Nat) : State :=
  wrMem s (bytesWrites (paramAddr s (grParam0 s d g)) (rdBytes s (grTargets s d g) (128 * grCount s d g)))

/-! ### Checks (R329, R334) -/

/-- R334: whether the header breaks a condition of code 0x180. -/
def planBad (s : State) (d : Desc) : Bool :=
  rsPlan d % 64 != 0 || !inHbm s (rsPlan d) 64 || rdNat s (rsPlan d) 4 != 0x44524C52 || plGroups s d == 0 ||
    plPieces s d == 0 || !inHbm s (rsPlan d) (64 + 32 * (plGroups s d + plPieces s d)) ||
    decide (plGroups s d ≤ rsFirst d) || decide (plGroups s d < rsEnd s d)

/-- R334: whether a group entry breaks a condition of code 0x180. -/
def groupEntryBad (s : State) (d : Desc) (g : Nat) : Bool :=
  grCount s d g == 0 || decide (2 ^ 20 < grCount s d g) || decide (paramCount s < grParam0 s d g + grCount s d g) ||
    grTargets s d g % 128 != 0 || grRounds s d g == 0 || decide (plPieces s d < grPiece0 s d g + grNpiece s d g)

/-- R334: whether a piece breaks a condition of code 0x181. -/
def pieceBad (s : State) (d : Desc) (g k : Nat) : Bool :=
  let x := pcKey s d k
  !([0, 3, 4, 5].contains x.role) || decide (grRounds s d g ≤ pcRound s d k) || x.nrows == 0 || x.ncols == 0 ||
    !(grParams s d g).contains x.param ||
    (if pcLocal s d k then pcIn s d k else getA s Reg.routeCtrl_enable == 1 && !chipPresent s (pcPeer s d k))

/-- R329: whether an operation makes a parameter busy: it has begun, and ends at its DESCRIPTOR_END. -/
def makesBusy (s : State) (p : Nat) (o : Op) : Bool :=
  if dOpcode o.d = 0x0900 ∨ dOpcode o.d = 0x0510 ∨ dOpcode o.d = 0x0511 then
    decide (uParam0 o.d ≤ p ∧ p < uParam0 o.d + uCount o.d)
  else dOpcode o.d == 0x0921 && imParam s o.d == p

/-- R329: whether a parameter of a group is busy, or away and not present, or the skid buffer is in use. -/
def groupBusy (s : State) (d : Desc) (g : Nat) : Bool :=
  !s.skid.isEmpty || (grParams s d g).any (fun p => s.ops.any (makesBusy s p) || stateAway s p)

/-- The regions that a record names, role by role. -/
def recordRegions (s : State) (p : Nat) : List Region :=
  if pNrows s p = 0 then [] else stateRegions s p ++ workRegions s p

/-- R329, R334: whether a target record breaks a condition of code 0x183; `t` holds the targets. -/
def targetBad (s t : State) (p : Nat) : Bool :=
  pRows t p != pRows s p || pCols t p != pCols s p || (pNrows t p != 0 && recordBad t p) ||
    (accessFault s (recordRegions t p ++ (if pNrows t p = 0 then [] else [roleRegion t p 2]))).isSome ||
    (shardParams s).any (fun q =>
      anyMeet (recordRegions t p ++ (if pNrows t p = 0 then [] else [roleRegion t p 2])) (recordRegions s q))

/-- Whether a rectangle lies inside the shard of a record that has its role's region. -/
def insideShard (s : State) (x : PieceKey) : Bool :=
  roleOff s x.param x.role != 0 && decide (pRow0 s x.param ≤ x.row0 ∧ x.row0 + x.nrows ≤ pRow0 s x.param + pNrows s x.param ∧
    pCol0 s x.param ≤ x.col0 ∧ x.col0 + x.ncols ≤ pCol0 s x.param + pNcols s x.param)

/-- R329, R334: whether a piece lies outside a shard that it must lie in. -/
def pieceOutside (s t : State) (d : Desc) (k : Nat) : Bool :=
  let x := pcKey s d k
  (!pcIn s d k && !insideShard s x) || ((pcIn s d k || pcLocal s d k) && !insideShard t x)

/-- R50, R329, R334: the fault of a group at its start. -/
def groupFault (s : State) (o : Op) (g : Nat) : Option (Nat × Nat) :=
  let d := o.d
  let ps := grPieces s d g
  if groupEntryBad s d g then some (0x180, 0)
  else match accessFault s [⟨grTargets s d g, 0, 1, 128 * grCount s d g⟩] with
    | some e => some e
    | none =>
      let t := targetsOf s d g
      if dEval d then some (0x0A, 0)
      else if ps.any (pieceBad s d g) then some (0x181, 0)
      else if groupBusy s d g then some (0x182, 0)
      else if (grParams s d g).any (targetBad s t) then some (0x183, 0)
      else if ps.any (pieceOutside s t d) then some (0x184, 0)
      else if ps.any (fun k => !pcLocal s d k) && getA s Reg.routeCtrl_enable == 0 then some (0x1A2, 0)
      else none

/-! ### Pieces (R330) -/

/-- A RESHARD's progress. -/
def drlOf (o : Op) : DrlWork :=
  match o.work with
  | .drl w => w
  | _ => ⟨rsFirst o.d, false, 0, [], [], [], [], false, 0⟩

/-- A RESHARD's progress changed. -/
def setDrl (s : State) (ctx idx : Nat) (f : DrlWork → DrlWork) : State :=
  updOp s ctx idx (fun o => { o with work := .drl (f (drlOf o)) })

/-- The rows of a rectangle in the region of its role. -/
def keyRegion (s : State) (x : PieceKey) : Region :=
  ⟨roleOff s x.param x.role + (x.row0 - pRow0 s x.param) * f32Pitch (pNcols s x.param) + 4 * (x.col0 - pCol0 s x.param),
    f32Pitch (pNcols s x.param), x.nrows, 4 * x.ncols⟩

/-- R330: the values of a rectangle of the current shard, packed. -/
def keyValues (s : State) (x : PieceKey) : List Byte := regionBytes s.mem (keyRegion s x)

/-- The writes of packed values into a rectangle of a region. -/
def keyWrites (r : Region) (bs : List Byte) : List Host.Cell :=
  (List.range r.rows).flatMap (fun i => bytesWrites (r.off + i * r.pitch) ((bs.drop (i * r.len)).take r.len))

/-- R330: a piece is read and sent with its digest. -/
def sendPiece (s : State) (o : Op) (k : Nat) : State :=
  let x := pcKey s o.d k
  let v := keyValues s x
  sendMsg s 5 (pcPeer s o.d k) 0 ⟨s.chip, o.ctx, o.idx, .piece ⟨s.chip, x, v, ringDigest v⟩⟩

/-- R330: values written into the target region of a group. -/
def landPiece (s : State) (d : Desc) (g : Nat) (x : PieceKey) (v : List Byte) : State :=
  wrMem s (keyWrites (keyRegion (targetsOf s d g) x) v)

/-- R330, R335: piece `k` has landed. -/
def markLanded (s : State) (o : Op) (k : Nat) : State :=
  countA (setDrl s o.ctx o.idx (fun w => { w with landed := w.landed ++ [k] })) Reg.drlPieces_count 1

/-- R330: the sends and local moves of a round, in ascending piece index. -/
def sendRound (s : State) (o : Op) (g r : Nat) : State :=
  ((grPieces s o.d g).filter (fun k => pcRound s o.d k == r && !pcIn s o.d k)).foldl (fun t k =>
    if pcLocal s o.d k then
      markLanded (landPiece t o.d g (pcKey s o.d k) (keyValues t (pcKey s o.d k))) o k
    else setDrl (sendPiece t o k) o.ctx o.idx (fun w => { w with sending := w.sending ++ [k] })) s

/-- R330: the piece of a group that a message from a peer brings. -/
def pieceFor (s : State) (d : Desc) (g : Nat) (p : PieceMsg) : Option Nat :=
  (grPieces s d g).find? (fun k => pcIn s d k && pcPeer s d k == p.src && pcKey s d k == p.key)

/-- The answer to a piece. -/
def answerPiece (s : State) (o : Op) (p : PieceMsg) (ok : Bool) : State :=
  sendMsg s 7 p.src 0 ⟨s.chip, o.ctx, o.idx, .pieceAns p.key ok⟩

/-- R330: a piece of the running group lands and is checked: acknowledged, asked for once more, or failed, which is
acknowledged too so that its sender's round ends. -/
def takePiece (s : State) (o : Op) (k : Nat) (p : PieceMsg) : State :=
  let w := drlOf o
  let s1 := landPiece s o.d w.group p.key p.values
  let v := regionBytes s1.mem (keyRegion (targetsOf s1 o.d w.group) p.key)
  if w.failed.contains k then answerPiece s o p true
  else if ringDigest v = p.digest then
    answerPiece (if w.landed.contains k then s1 else markLanded s1 o k) o p true
  else if w.again.contains k then answerPiece (setDrl s1 o.ctx o.idx (fun w => { w with failed := w.failed ++ [k] })) o p true
  else answerPiece (countA (setDrl s1 o.ctx o.idx (fun w => { w with again := w.again ++ [k] })) Reg.drlResends_count 1) o p false

/-- The RESHARD that runs. -/
def runningReshard (s : State) : Option Op := s.ops.find? (fun o => opRuns o && dOpcode o.d == 0x0710)

/-- A piece arrives: at its group, or ahead of it. -/
def pieceArrive (s : State) (p : PieceMsg) : State :=
  match runningReshard s with
  | some o =>
    if (drlOf o).started then
      match pieceFor s o.d (drlOf o).group p with
      | some k => takePiece s o k p
      | none => { s with early := s.early ++ [p] }
    else { s with early := s.early ++ [p] }
  | none => { s with early := s.early ++ [p] }

/-- The pieces that came early are looked at again. -/
def earlyArrive (s : State) : State := s.early.foldl pieceArrive { s with early := [] }

/-- The answer to a piece arrives from a peer: its send ends, or it is read and sent again. -/
def pieceAnswer (s : State) (peer : Nat) (x : PieceKey) (ok : Bool) : State :=
  match runningReshard s with
  | none => s
  | some o =>
    match (drlOf o).sending.find? (fun k => pcPeer s o.d k == peer && pcKey s o.d k == x) with
    | none => s
    | some k => if ok then setDrl s o.ctx o.idx (fun w => { w with sending := w.sending.filter (fun j => j != k) })
      else sendPiece s o k

/-! ### Rounds, vote and switch (R330, R331) -/

/-- R330: whether the round that runs is complete. -/
def roundDone (s : State) (o : Op) : Bool :=
  let w := drlOf o
  w.sending.isEmpty && (grPieces s o.d w.group).all (fun k =>
    !(pcIn s o.d k && pcRound s o.d k == w.round) || w.landed.contains k || w.failed.contains k)

/-- R329: whether the landed elements of every target role region make up its shard. -/
def countsWhole (s : State) (o : Op) : Bool :=
  let w := drlOf o
  let t := targetsOf s o.d w.group
  (grParams s o.d w.group).all (fun p => pNrows t p == 0 || [0, 3, 4, 5].all (fun r => roleOff t p r == 0 ||
    (w.landed.foldl (fun n k =>
      let x := pcKey s o.d k
      if x.param = p ∧ x.role = r then n + x.nrows * x.ncols else n) 0) == pNrows t p * pNcols t p))

/-- R331: this chip's vote. -/
def groupVote (s : State) (o : Op) : Nat := nat01 ((drlOf o).failed.isEmpty && countsWhole s o)

/-- R331: one parameter switches: its target record is copied, SEQ, SLOW_DIGEST and PRESENT kept, and its working copy
re-derived. -/
def switchParam (s : State) (o : Op) (t : State) (p : Nat) : State :=
  let a := paramAddr s p
  let new := rdBytes t a 128
  let seq := rdNat s (a + 0x58) 8
  let dig := rdNat s (a + 0x60) 16
  let s1 := wrMem s (bytesWrites a new ++ natWrites (a + 0x58) 8 seq ++ natWrites (a + 0x60) 16 dig)
  let s2 := setMoving s1 p (pPresent s p) false
  if pNrows s2 p = 0 then s2
  else
    let r := rederive s2 (cellOfUnit o.d) false p (roleMat s2 p 0)
    wrMem r.1 r.2

/-- R331: the group switches. -/
def switchGroup (s : State) (o : Op) : State :=
  let g := (drlOf o).group
  let t := targetsOf s o.d g
  let s1 := (grParams s o.d g).foldl (fun u p => switchParam u o t p) s
  setDrl (countA s1 Reg.drlSwitch_groups 1) o.ctx o.idx (fun w =>
    { w with group := w.group + 1, started := false, round := 0, landed := [], failed := [], again := [], voted := false,
             switched := w.switched + 1 })

/-- R331, R509: a vote of 0: every chip ends with the failed pieces that it found. -/
def voteFailed (s : State) (o : Op) : State :=
  let w := drlOf o
  endWithRecord (countA s Reg.drlSwitch_failed 1) o.ctx o.idx .digestMismatch 0x09 0
    [w.group, w.failed.length, (match w.failed with
      | [] => 0xFFFFFFFF
      | k :: r => r.foldl min k)]

/-- A group starts: a vote of an earlier plan on its number is forgotten, its checks run, and its first round is sent. -/
def startGroup (s : State) (o : Op) : State :=
  let g := (drlOf o).group
  match groupFault s o g with
  | some e => ctxFault s o.ctx o.idx e.1 e.2
  | none =>
    let s0 := { s with chain := { s.chain with insts := s.chain.insts.filter (fun x => !(x.chan == 66 && x.gen == g && x.result.isSome)) } }
    let s1 := setDrl s0 o.ctx o.idx (fun w => { w with started := true })
    earlyArrive (sendRound s1 o g 0)

/-- R330: the next round begins. -/
def nextRound (s : State) (o : Op) : State :=
  let w := drlOf o
  sendRound (setDrl s o.ctx o.idx (fun x => { x with round := x.round + 1 })) o w.group (w.round + 1)

/-- R330 to R333: a RESHARD goes as far as it can, at most `n` times on. -/
def drlPump : Nat → State → Nat → Nat → State
  | 0, s, _, _ => s
  | n + 1, s, ctx, idx =>
    match findOp s ctx idx with
    | none => s
    | some o =>
      let w := drlOf o
      if !opRuns o then s
      else if rsEnd s o.d ≤ w.group then endOp s ctx idx (normalEnd o)
      else if !w.started then drlPump n (startGroup s o) ctx idx
      else if w.voted then
        match chainResult s 66 w.group 0 with
        | some 0 => voteFailed s o
        | some _ => drlPump n (switchGroup s o) ctx idx
        | none => s
      else if !roundDone s o || slotOver s o then s
      else if w.round + 1 < grRounds s o.d w.group then drlPump n (nextRound s o) ctx idx
      else
        drlPump n (chainGive (setDrl s ctx idx (fun x => { x with voted := true })) 1 66 w.group 0 (groupVote s o)) ctx idx

/-- A bound on the moves of a plan: each group's start, rounds, vote and switch. -/
def drlFuel (s : State) (d : Desc) : Nat :=
  (List.range (rsEnd s d - rsFirst d)).foldl (fun n i => n + grRounds s d (rsFirst d + i) + 4) 4

/-- The RESHARD that runs goes as far as it can. -/
def reshardTake (s : State) : State :=
  match runningReshard s with
  | some o => drlPump (drlFuel s o.d) s o.ctx o.idx
  | none => s

/-- R420: whether another member named another plan, first group or count. -/
def membersDiffer (s : State) (d : Desc) (peers : List (Nat × Nat × Nat)) : Bool :=
  peers.any (fun p => !(p == (plId s d, rsFirst d, rsCount d)))

/-- RESHARD (R330, R420): `peers` are the PLAN_ID, FIRST and COUNT of the other members. -/
def execReshard (ctx idx : Nat) (peers : List (Nat × Nat × Nat)) (s : State) : Host.Outcome State Fault Refusal :=
  .next (onOp s ctx idx 0x0710 (fun o =>
    if planBad s o.d then ctxFault s ctx idx 0x180 0
    else if membersDiffer s o.d peers then ctxFault s ctx idx 0x1A5 0
    else reshardTake (earlyArrive (setDrl s ctx idx id))))

/-- DERAILLEUR_PIECE_RECEIVE (R330): a piece arrives, and the RESHARD goes on. -/
def execDerailleurPieceReceive (piece : PieceMsg) (s : State) : Host.Outcome State Fault Refusal :=
  .next (reshardTake (pieceArrive s piece))

/-- DERAILLEUR_ROUND_BEGIN (R330): the next round begins once the one before is complete. -/
def execDerailleurRoundBegin (ctx idx : Nat) (s : State) : Host.Outcome State Fault Refusal :=
  .next (onOp s ctx idx 0x0710 (fun o =>
    let w := drlOf o
    if w.started && !w.voted && roundDone s o && !slotOver s o && decide (w.round + 1 < grRounds s o.d w.group) then
      nextRound s o
    else s))

/-- R333: a disturbance sends every unacknowledged piece again and counts one re-run per piece. -/
def disturbReshard (s : State) (brake : Bool) : State :=
  match runningReshard s with
  | none => s
  | some o =>
    let n := (drlOf o).sending.length
    (drlOf o).sending.foldl (fun t k => sendPiece t o k) (updOp s o.ctx o.idx (fun p =>
      { p with reruns := p.reruns + n, brakes := p.brakes + (if brake then n else 0) }))

end Sys2Proof.Machine
end

