-- ==== Sys2Proof/Machine/Cipher.lean ====
section
/-!
DEFINITION. AES-256, its counter mode and its CMAC: the ciphers that R434 and R435 name (FIPS 197, SP 800-38A,
SP 800-38B).
-/

namespace Sys2Proof.Machine

/-- Multiplication by x in the AES field. -/
def aesXtime (a : Nat) : Nat := if 128 ≤ a then ((2 * a) ^^^ 0x1B) % 256 else 2 * a

/-- Multiplication in the AES field, bit by bit. -/
def aesMulBits : Nat → Nat → Nat → Nat
  | 0, _, _ => 0
  | n + 1, a, b => (if b % 2 = 1 then a else 0) ^^^ aesMulBits n (aesXtime a) (b / 2)

/-- Multiplication in the AES field. -/
def aesMul (a b : Nat) : Nat := aesMulBits 8 a b

/-- The inverse in the AES field, `a ^ 254`. -/
def aesInv (a : Nat) : Nat :=
  let a2 := aesMul a a
  let a4 := aesMul a2 a2
  let a8 := aesMul a4 a4
  let a16 := aesMul a8 a8
  let a32 := aesMul a16 a16
  let a64 := aesMul a32 a32
  let a128 := aesMul a64 a64
  aesMul a2 (aesMul a4 (aesMul a8 (aesMul a16 (aesMul a32 (aesMul a64 a128)))))

/-- An 8-bit rotate left. -/
def rotl8 (n x : Nat) : Nat := ((x <<< n) ||| (x >>> (8 - n))) % 256

/-- The AES substitution. -/
def aesSub (a : Nat) : Nat :=
  let b := aesInv a
  b ^^^ rotl8 1 b ^^^ rotl8 2 b ^^^ rotl8 3 b ^^^ rotl8 4 b ^^^ 0x63

/-- Bytewise exclusive or. -/
def xorBytes (a b : List Nat) : List Nat := (a.zip b).map (fun p => p.1 ^^^ p.2)

/-- Key words of AES-256 from the last eight words on, `i` the index of the next word. -/
def aesExpand : Nat → Nat → Nat → List (List Nat) → List (List Nat)
  | 0, _, _, ws => ws
  | n + 1, i, rcon, ws =>
    let prev := ws.getD (i - 1) []
    let t :=
      if i % 8 = 0 then xorBytes ((prev.drop 1 ++ prev.take 1).map aesSub) [rcon, 0, 0, 0]
      else if i % 8 = 4 then prev.map aesSub
      else prev
    aesExpand n (i + 1) (if i % 8 = 0 then aesXtime rcon else rcon) (ws ++ [xorBytes (ws.getD (i - 8) []) t])

/-- The sixty round-key words of a 32-byte key. -/
def aesKeyWords (key : List Nat) : List (List Nat) :=
  aesExpand 52 8 1 ((List.range 8).map (fun i => (key.drop (4 * i)).take 4))

/-- Round key `r` as 16 bytes. -/
def aesRoundKey (ws : List (List Nat)) (r : Nat) : List Nat :=
  (List.range 4).flatMap (fun i => ws.getD (4 * r + i) [])

/-- The row shift of a 16-byte column-major state. -/
def aesShiftRows (s : List Nat) : List Nat :=
  (List.range 16).map (fun i => s.getD ((i + 4 * (i % 4)) % 16) 0)

/-- The column mix. -/
def aesMixColumns (s : List Nat) : List Nat :=
  (List.range 16).map (fun i =>
    let c := 4 * (i / 4)
    let x := fun j => s.getD (c + (i + j) % 4) 0
    aesXtime (x 0) ^^^ (aesXtime (x 1) ^^^ x 1) ^^^ x 2 ^^^ x 3)

/-- The inner rounds from round `r` on. -/
def aesRounds (ws : List (List Nat)) : Nat → Nat → List Nat → List Nat
  | 0, r, s => xorBytes (aesShiftRows (s.map aesSub)) (aesRoundKey ws r)
  | n + 1, r, s => aesRounds ws n (r + 1) (xorBytes (aesMixColumns (aesShiftRows (s.map aesSub))) (aesRoundKey ws r))

/-- AES-256 on one 16-byte block. -/
def aesBlock (key blk : List Nat) : List Nat :=
  let ws := aesKeyWords key
  aesRounds ws 13 1 (xorBytes blk (aesRoundKey ws 0))

/-- A number as `n` big-endian bytes. -/
def beBytes (n x : Nat) : List Nat := ((List.range n).map (fun i => (x >>> (8 * i)) % 256)).reverse

/-- Big-endian bytes as a number. -/
def beNat (bs : List Nat) : Nat := bs.foldl (fun a b => 256 * a + b) 0

/-- Doubling in the CMAC field. -/
def cmacDouble (x : Nat) : Nat :=
  if 2 ^ 127 ≤ x then ((2 * x) % 2 ^ 128) ^^^ 0x87 else 2 * x

/-- CMAC chaining over full blocks. -/
def cmacChain (key : List Nat) : List (List Nat) → List Nat → List Nat
  | [], x => x
  | b :: r, x => cmacChain key r (aesBlock key (xorBytes x b))

/-- The 16-byte pieces of a byte string. -/
def blocks16 : Nat → List Nat → List (List Nat)
  | 0, _ => []
  | n + 1, bs => bs.take 16 :: blocks16 n (bs.drop 16)

/-- AES-256 CMAC of a byte string: 16 bytes. -/
def cmac (key msg : List Nat) : List Nat :=
  let l := beNat (aesBlock key (List.replicate 16 0))
  let k1 := cmacDouble l
  let k2 := cmacDouble k1
  let n := max 1 ((msg.length + 15) / 16)
  let full : Bool := msg.length != 0 && msg.length % 16 == 0
  let head := blocks16 (n - 1) msg
  let tail := msg.drop (16 * (n - 1))
  let last := if full then xorBytes tail (beBytes 16 k1)
    else xorBytes (tail ++ [0x80] ++ List.replicate (15 - tail.length) 0) (beBytes 16 k2)
  aesBlock key (xorBytes (cmacChain key head (List.replicate 16 0)) last)

/-- AES-256 in counter mode: the key stream of `n` blocks from the counter blocks that `ctr` gives. -/
def ctrStream (key : List Nat) (ctr : Nat → List Nat) (n : Nat) : List Nat :=
  (List.range n).flatMap (fun i => aesBlock key (ctr i))

end Sys2Proof.Machine
end

