-- ==== Sys2Proof/Machine/Frames.lean ====
section
/-!
DEFINITION. The bytes of a Worane frame and of a Chain frame (R370, R403).
-/

namespace Sys2Proof.Machine

/-- A Worane frame without its Chain slot and checks (R370). -/
structure Frame where
  type : Nat
  seq : Nat
  ack : Nat
  nak : Bool
  hold : Bool
  len : Nat
  enc : Bool
  epoch : Nat
  cls : Nat
  chip : Nat
  stand : Nat
  session : Nat
  payload : List Byte
  deriving DecidableEq, Repr

/-- A payload filled up with 0 to 512 bytes. -/
def pad512 (bs : List Byte) : List Byte := (bs ++ List.replicate (512 - bs.length) 0).take 512

/-- R370: bytes 0x00 to 0x0F of a frame. -/
def frameHead (f : Frame) : List Byte :=
  leBytes 4 (f.type + f.seq * 2 ^ 8) ++ leBytes 4 (f.ack + nat01 f.nak * 2 ^ 24 + nat01 f.hold * 2 ^ 25) ++
    leBytes 4 (f.len + nat01 f.enc * 2 ^ 10 + f.epoch * 2 ^ 16 + f.cls * 2 ^ 24) ++
    leBytes 4 (f.chip + f.stand * 2 ^ 16 + f.session * 2 ^ 22)

/-- R403: the 80 bits of a Chain frame. -/
def chainBits : ChainFrame → Nat
  | .empty => 0
  | .contrib op chan gen index value => 1 + op * 2 ^ 4 + chan * 2 ^ 6 + gen * 2 ^ 16 + index * 2 ^ 32 + value * 2 ^ 48
  | .result op chan gen index value => 2 + op * 2 ^ 4 + chan * 2 ^ 6 + gen * 2 ^ 16 + index * 2 ^ 32 + value * 2 ^ 48
  | .fault chip link cause => 3 + chip * 2 ^ 4 + link * 2 ^ 20 + cause * 2 ^ 27
  | .time kind seq stamp => kind + seq * 2 ^ 4 + stamp * 2 ^ 16
  | .announce rank state hopsLead hops0 chip active parent =>
    7 + rank * 2 ^ 4 + state * 2 ^ 6 + hopsLead * 2 ^ 9 + hops0 * 2 ^ 20 + chip * 2 ^ 31 + active * 2 ^ 47 + parent * 2 ^ 63

/-- R403: the Chain frame of 80 bits; one of an invalid TYPE is discarded. -/
def chainOf (x : Nat) : ChainFrame :=
  match x % 16 with
  | 1 => .contrib (bits x 5 4) (bits x 13 6) (bits x 31 16) (bits x 41 32) (bits x 79 48)
  | 2 => .result (bits x 5 4) (bits x 13 6) (bits x 31 16) (bits x 41 32) (bits x 79 48)
  | 3 => .fault (bits x 19 4) (bits x 26 20) (bits x 30 27)
  | 4 => .time 4 (bits x 15 4) (bits x 79 16)
  | 5 => .time 5 (bits x 15 4) (bits x 79 16)
  | 6 => .time 6 (bits x 15 4) (bits x 79 16)
  | 7 => .announce (bits x 5 4) (bits x 8 6) (bits x 19 9) (bits x 30 20) (bits x 46 31) (bits x 62 47) (bits x 78 63)
  | _ => .empty

/-- R370: bytes 0x10 to 0x1B: the Chain slot and its check. -/
def chainSlot (c : ChainFrame) : List Byte :=
  let b := leBytes 10 (chainBits c)
  b ++ leBytes 2 (crc16 b)

/-- R370: the 544 bytes of a frame. -/
def frameBytes (f : Frame) (c : ChainFrame) : List Byte :=
  let h := frameHead f
  let p := pad512 f.payload
  h ++ chainSlot c ++ leBytes 4 (crc32 (h ++ p)) ++ p

/-- R378: a kept frame's bytes with another Chain slot. -/
def withChain (bs : List Byte) (c : ChainFrame) : List Byte := bs.take 16 ++ chainSlot c ++ bs.drop 28

/-- An `n`-byte little-endian value at byte `a`. -/
def byteNat (bs : List Byte) (a n : Nat) : Nat := leNat ((bs.drop a).take n)

/-- R370: a frame read from its bytes. -/
def frameOf (bs : List Byte) : Frame :=
  let w0 := byteNat bs 0 4
  let w1 := byteNat bs 4 4
  let w2 := byteNat bs 8 4
  let w3 := byteNat bs 12 4
  { type := w0 % 16, seq := bits w0 31 8, ack := bits w1 23 0, nak := bit w1 24, hold := bit w1 25
    len := bits w2 9 0, enc := bit w2 10, epoch := bits w2 23 16, cls := bits w2 31 24
    chip := bits w3 15 0, stand := bits w3 21 16, session := bits w3 31 22, payload := (bs.drop 32).take 512 }

/-- R371: whether CHAIN_CRC matches. -/
def chainCrcOk (bs : List Byte) : Bool := crc16 ((bs.drop 16).take 10) == byteNat bs 26 2

/-- R371: whether CRC matches and TYPE is valid. -/
def frameCrcOk (bs : List Byte) : Bool :=
  bs.length == 544 && crc32 (bs.take 16 ++ bs.drop 32) == byteNat bs 28 4 && decide (byteNat bs 0 4 % 16 ≤ 2)

/-- R408: the precedence of a Chain frame, the lowest first. -/
def chainRank : ChainFrame → Nat
  | .fault _ _ _ => 0
  | .result _ _ _ _ _ => 1
  | .time _ _ _ => 2
  | .contrib _ _ _ _ _ => 3
  | .announce _ _ _ _ _ _ _ => 4
  | .empty => 5

/-- R408: the first frame of the highest precedence of a queue, and the queue without it. -/
def chainNext (q : List ChainFrame) : ChainFrame × List ChainFrame :=
  let best := q.foldl (fun m f => min m (chainRank f)) 5
  match q.findIdx? (fun f => chainRank f == best) with
  | some i => (q.getD i .empty, q.eraseIdx i)
  | none => (.empty, q)

end Sys2Proof.Machine
end

