-- ==== Sys2Proof/Machine/Kerf.lean ====
section
/-!
DEFINITION. The key store, the Kerf cipher over the frames of a Far session, epochs and rolls (R424 to R451).
-/

namespace Sys2Proof.Machine

/-! ### Sessions -/

/-- A Far session with nothing under way. -/
def farIdle : FarRt := ⟨seqIdle, 0, 0, none, [], 0, 0, 0⟩

/-- Session `k`. -/
def farGet (s : State) (k : Nat) : FarRt := sparseGet farIdle k s.far

/-- Session `k` written. -/
def farSet (s : State) (k : Nat) (x : FarRt) : State := { s with far := sparseSet farIdle k x s.far }

/-- A register field of session `k`. -/
def sessF (s : State) (f : Fld) (k : Nat) : Nat := getF s landABase f k

/-- A register field of session `k` written. -/
def sessPut (s : State) (f : Fld) (k v : Nat) : State := setF s landABase f k v

/-- R432: whether session `k` encrypts. -/
def sessEnc (s : State) (k : Nat) : Bool := sessF s Reg.sess_encrypt k == 1

/-- R434: DIR of this chip in session `k`: 0 on the end whose stand and chip number are lower. -/
def sessDir (s : State) (k : Nat) : Nat :=
  let ps := sessF s Reg.far_peerStand k
  let pc := sessF s Reg.far_peerChip k
  if s.stand < ps ∨ (s.stand = ps ∧ s.chip < pc) then 0 else 1

/-- The group of session `k`'s active route. -/
def sessGroup (s : State) (k : Nat) : Option Nat :=
  if sessF s Reg.far_route k = 1 then some (sessF s Reg.far_primary k)
  else if sessF s Reg.far_route k = 2 then some (sessF s Reg.far_secondary k) else none

/-- R382, R393: whether group `g` keeps a route: it has MIN_LINKS links UP. -/
def groupRouteUp (s : State) (g : Nat) : Bool :=
  decide (g < 12) && decide (getG s Reg.groupCtrl_minLinks g ≤ (groupLinks s (2 ^ g)).length)

/-- R383, R444: STATE brought up to date: up with a route, unless the session encrypts and has no CUR. -/
def sessState (s : State) (k : Nat) : State :=
  sessPut s Reg.far_state k (nat01 (sessF s Reg.far_route k != 0 && !(sessEnc s k && sessF s Reg.sess_hasCur k == 0)))

/-- R382: a numbering on a route just taken: every unacknowledged frame goes again, none of them yet re-sent on it. -/
def seqRoute (x : SeqState) : SeqState :=
  { x with resendq := x.retry.map (fun f => f.seq), retry := x.retry.map (fun f => { f with resends := 0 }) }

/-- R382, R383: session `k` takes a route and sends every unacknowledged frame again; 0 is none. -/
def sessRoute (s : State) (k route : Nat) : State :=
  let x := farGet s k
  let s1 := farSet (sessPut s Reg.far_route k route) k
    (if route = 0 then x else { x with num := seqRoute x.num, heard := s.time.tai })
  sessState s1 k

/-- R383: a valid session without a route takes one that is UP. -/
def sessRise (s : State) (k : Nat) : State :=
  if sessF s Reg.far_valid k = 0 ∨ sessF s Reg.far_route k ≠ 0 then s
  else if groupRouteUp s (sessF s Reg.far_primary k) then sessRoute s k 1
  else if groupRouteUp s (sessF s Reg.far_secondary k) then sessRoute s k 2
  else s

/-- R383: every session whose route has come up. -/
def sessRiseAll (s : State) : State := (List.range 64).foldl sessRise s

/-- R382: session `k` moves to a route, or goes down. -/
def sessMove (s : State) (k route : Nat) : State :=
  let s1 := sessRoute s k route
  if route = 0 then s1 else countF s1 landABase Reg.far_failovers k 1

/-- R382: the primary route of session `k` came up, or was lost, now. -/
def markPrimary (s : State) (k : Nat) : State := farSet s k { farGet s k with since := s.time.tai }

/-- R382, R383: the active route of session `k` is lost: it moves to its other route where that is UP, or goes down. -/
def loseRoute (s : State) (k : Nat) : State :=
  if sessF s Reg.far_route k = 1 then
    sessMove (markPrimary s k) k (if groupRouteUp s (sessF s Reg.far_secondary k) then 2 else 0)
  else if sessF s Reg.far_route k = 2 then
    sessMove s k (if groupRouteUp s (sessF s Reg.far_primary k) then 1 else 0)
  else s

/-- R382: whether session `k` runs over group `g`. -/
def sessOver (s : State) (g k : Nat) : Bool := sessF s Reg.far_valid k == 1 && sessGroup s k == some g

/-- R382, R383: links of group `g`, or its MIN_LINKS, have changed since `old`: where the group no longer keeps a route, its
sessions lose theirs; where it has come to keep one, the sessions without a route take it. -/
def groupReview (old s : State) (g : Nat) : State :=
  if groupRouteUp old g then
    if groupRouteUp s g then s else ((List.range 64).filter (sessOver s g)).foldl loseRoute s
  else if groupRouteUp s g then
    sessRiseAll (((List.range 64).filter (fun k => sessF s Reg.far_primary k == g)).foldl markPrimary s)
  else s

/-- R381: the frames that the sessions active on group `g` keep in its retry buffer. -/
def groupKept (s : State) (g : Nat) : Nat :=
  ((List.range 64).filter (sessOver s g)).foldl (fun n k => n + (farGet s k).num.retry.length) 0

/-- R381: the frames that they hold in its receive hold area. -/
def groupHeld (s : State) (g : Nat) : Nat :=
  ((List.range 64).filter (sessOver s g)).foldl (fun n k => n + (farGet s k).num.held.length) 0

/-- R439: the frames that wait for the engines of a Landing, whose two sealed buffers hold 32 each. -/
def sealedWaiting (s : State) (n : Nat) : Nat :=
  s.far.foldl (fun c p => c + p.2.stalled.countP (fun x => decide (x.1 < 48) == decide (n < 48))) 0

/-! ### The key store (R427 to R431) -/

/-- R427: a loaded slot. -/
def keyGet (s : State) (slot : Nat) : Option KeySlot := (s.keys.find? (fun p => p.1 == slot)).map Prod.snd

/-- R427: a slot loaded, or changed. -/
def keyPut (s : State) (slot : Nat) (k : KeySlot) : State :=
  { s with keys := s.keys.filter (fun p => p.1 != slot) ++ [(slot, k)] }

/-- R427: a slot emptied and zeroed. -/
def keyErase (s : State) (slot : Nat) : State := { s with keys := s.keys.filter (fun p => p.1 != slot) }

/-- R449: KEY_SEQ. -/
def keySeq (s : State) : Nat := getA2 s Reg.keySeq_seqLo Reg.keySeq_seqHi

/-- R429, R430 step 3: MAGIC, VERSION, USAGE and the reserved bytes of an unwrapped message. -/
def keyMsgOk (m : List Byte) : Bool :=
  m.length == 128 && byteNat m 0 4 == 0x4B52464B && byteNat m 4 1 == 1 && byteNat m 5 1 == 1 && byteNat m 7 1 == 0 &&
    byteNat m 0x10 1 / 64 == 0 && byteNat m 0x12 14 == 0 && byteNat m 0x60 32 == 0

/-- R430: the result of the checks of an import, in order. -/
def keyResult (s : State) (readOk oaepOk : Bool) (m : List Byte) (slot : Nat) : Nat :=
  if !readOk then 1
  else if !oaepOk then 2
  else if !keyMsgOk m then 3
  else if byteNat m 6 1 ≠ slot then 4
  else if (keyGet s slot).isSome then 5
  else if byteNat m 8 8 ≤ keySeq s then 6
  else 0

/-- R429: the slot that a message loads. -/
def keySlotOf (m : List Byte) : KeySlot :=
  let b := fun (a : Nat) => ((m.drop a).take 32).map (fun x => x.toNat)
  ⟨b 0x20, b 0x40, byteNat m 0x10 1 % 64, byteNat m 0x11 1, 0⟩

/-- R430: an import ends: RESULT, and where every check passed the slot and KEY_SEQ. -/
def keyImportEnd (s : State) (readOk oaepOk : Bool) (m : List Byte) : State :=
  if getA s Reg.keyImport_busy = 0 then s
  else
    let slot := getA s Reg.keyImport_slot
    let r := keyResult s readOk oaepOk m slot
    let s1 := setA (setA s Reg.keyImport_result r) Reg.keyImport_busy 0
    if r = 0 then set2 (keyPut s1 slot (keySlotOf m)) landABase Reg.keySeq_seqLo Reg.keySeq_seqHi 0 (byteNat m 8 8) else s1

/-- KEY_IMPORT_DONE (R430): how the host read and the OAEP decoding went, and the unwrapped message. -/
def execKeyImportDone (readOk oaepOk : Bool) (message : List Byte) (s : State) : Host.Outcome State Fault Refusal :=
  .next (keyImportEnd s readOk oaepOk message)

/-- R431: whether a session names a slot as CUR, PREV or NEXT. -/
def slotInUse (s : State) (slot : Nat) : Bool :=
  (List.range 64).any (fun k =>
    (sessF s Reg.sess_hasCur k == 1 && sessF s Reg.sess_curSlot k == slot) ||
      (sessF s Reg.sess_prevLive k == 1 && sessF s Reg.sess_prevSlot k == slot) ||
      (sessF s Reg.sess_nextValid k == 1 && sessF s Reg.sess_nextSlot k == slot))

/-- R431: KEY_CLEAR. -/
def keyClear (s : State) (slot : Nat) : State :=
  if slotInUse s slot then setA s Reg.keyClear_refused 1 else keyErase s slot

/-! ### The cipher (R433 to R436) -/

/-- R435: H. -/
def kerfH (f : Frame) (dir : Nat) : List Nat :=
  [f.seq % 256, f.seq / 256 % 256, f.seq / 65536 % 256, f.type, f.ack % 256, f.ack / 256 % 256, f.ack / 65536 % 256,
    nat01 f.nak + 2 * nat01 f.hold, f.len % 256, f.len / 256, f.epoch, f.cls, f.session, dir, 0, 0]

/-- R434: counter block `i`. -/
def kerfCounter (nonce dir i : Nat) : List Nat :=
  (List.range 8).map (fun b => nonce / 256 ^ b % 256) ++ [dir] ++ List.replicate 6 0 ++ [i]

/-- R434: a byte string XORed with the key stream. -/
def kerfCtr (k : KeySlot) (nonce dir : Nat) (bs : List Byte) : List Byte :=
  let ks := ctrStream k.kEnc (kerfCounter nonce dir) (ceilDiv bs.length 16)
  (List.range bs.length).map (fun i => bs.getD i 0 ^^^ BitVec.ofNat 8 (ks.getD i 0))

/-- R435: TAG over H and what follows it. -/
def kerfTag (k : KeySlot) (f : Frame) (dir : Nat) (rest : List Byte) : List Byte :=
  (cmac k.kMac (kerfH f dir ++ rest.map (fun b => b.toNat))).map (fun b => BitVec.ofNat 8 b)

/-- R436: a data frame encrypted with a nonce. -/
def kerfSeal (k : KeySlot) (dir : Nat) (f : Frame) (plain : List Byte) : Frame :=
  let g := { f with enc := true, epoch := k.epoch, len := plain.length + 24 }
  let body := leBytes 8 k.nonce ++ kerfCtr k k.nonce dir plain
  { g with payload := body ++ kerfTag k g dir body }

/-- R433: a TYPE 0 frame with its tag. -/
def kerfSealIdle (k : KeySlot) (dir : Nat) (f : Frame) : Frame :=
  let g := { f with enc := true, epoch := k.epoch, len := 16 }
  { g with payload := kerfTag k g dir [] }

/-- R438: whether an arrived frame's tag passes, with the sender's DIR. -/
def kerfOpens (k : KeySlot) (dir : Nat) (f : Frame) : Bool :=
  if f.type = 0 then f.payload.take 16 == kerfTag k f dir []
  else decide (24 < f.len ∧ f.len ≤ 512) &&
    (f.payload.take f.len).drop (f.len - 16) == kerfTag k f dir (f.payload.take (f.len - 16))

/-- R434: the plaintext of an encrypted data frame. -/
def kerfPlain (k : KeySlot) (dir : Nat) (f : Frame) : List Byte :=
  kerfCtr k (byteNat f.payload 0 8) dir ((f.payload.take (f.len - 16)).drop 8)

/-- R441: the block operations of a frame of `len` valid bytes. -/
def kerfCost (f : Frame) : Nat := if f.type = 0 then 1 else ceilDiv (f.len - 24) 16 + ceilDiv f.len 16

/-- R424, R451, R544: block operations counted on a Landing: 0 is Landing A, 1 Landing B. -/
def kerfCount (s : State) (land n : Nat) : State :=
  let v := sparseGet 0 land s.kerfOps + n
  let base := landOf (land == 0)
  event (countF { s with kerfOps := sparseSet 0 land (v % 2 ^ 20) s.kerfOps } base Reg.kerfBlocks_count 0 (v / 2 ^ 20)) base 0x08 n

/-- R426: whether the engines stall. -/
def kerfStalled (s : State) : Bool := getA s Reg.kerfStatus_rngFail == 1

/-! ### Rolls (R443 to R448) -/

/-- R437: a slot whose nonce counter is spent sets ROLL_NEEDED, with vector 0. -/
def rollNeeded (s : State) (k : Nat) : State :=
  if sessF s Reg.sess_rollNeeded k = 1 then s else sendVector (sessPut s Reg.sess_rollNeeded k 1) 0

/-- R443: CUR becomes PREV and NEXT becomes CUR. -/
def doRoll (s : State) (k : Nat) : State :=
  let slot := sessF s Reg.sess_nextSlot k
  match keyGet s slot with
  | none => s
  | some key =>
    let s1 := if sessF s Reg.sess_hasCur k = 1 then
        sessPut (sessPut s Reg.sess_prevSlot k (sessF s Reg.sess_curSlot k)) Reg.sess_prevLive k 1 else s
    let s2 := sessPut (sessPut (sessPut s1 Reg.sess_curSlot k slot) Reg.sess_curEpoch k key.epoch) Reg.sess_hasCur k 1
    let s3 := sessPut (sessPut (sessPut s2 Reg.sess_nextValid k 0) Reg.sess_rollPending k 0) Reg.sess_rollNeeded k 0
    let s4 := sessState (farSet s3 k { farGet s3 k with firstCur := none, rolled := s3.time.tai }) k
    if 2 ^ 48 ≤ key.nonce then rollNeeded s4 k else s4

/-- R443: a roll is requested: it takes place at once, or waits while PREV is live. -/
def kerfRoll (s : State) (k : Nat) : State :=
  if sessF s Reg.sess_nextValid k = 0 then s
  else if sessF s Reg.sess_prevLive k = 1 then sessPut s Reg.sess_rollPending k 1
  else doRoll s k

/-- R443: whether a slot may be staged: loaded for the session, with the next epoch or any while there is no CUR. -/
def stageOk (s : State) (k slot : Nat) : Bool :=
  match keyGet s slot with
  | some key => key.session == k &&
      (sessF s Reg.sess_hasCur k == 0 || key.epoch == (sessF s Reg.sess_curEpoch k + 1) % 256)
  | none => false

/-- R443: a write of NEXT_SLOT. -/
def kerfStage (s : State) (k slot : Nat) : State :=
  if stageOk s k slot then sessPut (sessPut s Reg.sess_nextSlot k slot) Reg.sess_nextValid k 1
  else sessPut s Reg.sess_err k 1

/-- The Landing on which session `k`'s frames are ciphered outside a link's slot: its active route's, else its primary's. -/
def sessLand (s : State) (k : Nat) : Nat := if (sessGroup s k).getD (sessF s Reg.far_primary k) < 6 then 0 else 1

/-- R448 step 1: a kept frame under PREV's epoch is decrypted and built again under CUR with a fresh nonce. -/
def rebuildFrame (s : State) (k : Nat) (prev : KeySlot) (kf : KeptFrame) : State × KeptFrame :=
  let f := frameOf kf.bytes
  if !f.enc ∨ f.epoch ≠ prev.epoch then (s, kf)
  else
    let slot := sessF s Reg.sess_curSlot k
    match keyGet s slot with
    | none => (s, kf)
    | some cur =>
      if 2 ^ 48 ≤ cur.nonce then (rollNeeded s k, kf)
      else
        let num := (farGet s k).num
        let g := kerfSeal cur (sessDir s k) { f with ack := num.ack, nak := false, hold := num.holdOut } (kerfPlain prev (sessDir s k) f)
        (kerfCount (keyPut s slot { cur with nonce := cur.nonce + 1 }) (sessLand s k) (ceilDiv (f.len - 24) 16 + kerfCost g),
          { kf with bytes := frameBytes g .empty })

/-- R448: PREV is retired; a roll that waited then takes place. -/
def retirePrev (s : State) (k : Nat) : State :=
  if sessF s Reg.sess_prevLive k = 0 then s
  else
    let slot := sessF s Reg.sess_prevSlot k
    let s1 := match keyGet s slot with
      | none => s
      | some prev =>
        let r := (farGet s k).num.retry.foldl (fun (acc : State × List KeptFrame) kf =>
          let q := rebuildFrame acc.1 k prev kf
          (q.1, acc.2 ++ [q.2])) (s, [])
        farSet r.1 k { farGet r.1 k with num := { (farGet r.1 k).num with retry := r.2 } }
    let s2 := sessPut (keyErase s1 slot) Reg.sess_prevLive k 0
    if sessF s2 Reg.sess_rollPending k = 1 ∧ sessF s2 Reg.sess_nextValid k = 1 then doRoll s2 k else s2

/-- The epoch of session `k`'s PREV. -/
def prevEpoch (s : State) (k : Nat) : Option Nat :=
  if sessF s Reg.sess_prevLive k = 1 then (keyGet s (sessF s Reg.sess_prevSlot k)).map (fun x => x.epoch) else none

/-- Whether SEQ `a` is at or before `b`, modulo 2²⁴. -/
def seqLe (a b : Nat) : Bool := decide ((b + 2 ^ 24 - a) % 2 ^ 24 < 2 ^ 23)

/-- R447: PREV is retired once nothing under it is unacknowledged and everything before S1 has arrived. -/
def retireIfDone (s : State) (k : Nat) : State :=
  match prevEpoch s k, (farGet s k).firstCur with
  | some e, some s1 =>
    let num := (farGet s k).num
    if num.retry.all (fun f => (frameOf f.bytes).epoch != e) && seqLe ((s1 + 2 ^ 24 - 1) % 2 ^ 24) num.ack then retirePrev s k
    else s
  | _, _ => s

/-- R447: whether GRACE_MS have passed since session `k` rolled. -/
def graceOver (s : State) (k : Nat) : Bool := passed s (farGet s k).rolled (sessF s Reg.sess_graceMs k * 1000000)

/-- KERF_GRACE_EXPIRE (R447): GRACE_MS after a roll; a stalled engine builds no frame, and PREV waits for it (R425). -/
def execKerfGraceExpire (session : Nat) (s : State) : Host.Outcome State Fault Refusal :=
  .next (if decide (session < 64) && graceOver s session && !kerfStalled s then retirePrev s session else s)

/-- R445: a frame of the staged NEXT passed its tag: PREV is retired where it is live, and the session rolls. -/
def rollByFrame (s : State) (k : Nat) : State := doRoll (retirePrev (sessPut s Reg.sess_rollPending k 0) k) k

/-- R440: AUTH_HALT is cleared and the session resumes. -/
def authResume (s : State) (k : Nat) : State :=
  let s1 := sessPut s Reg.sess_authHalt k 0
  let x := farGet s1 k
  farSet s1 k { x with authCount := 0, num := { x.num with resendq := x.num.retry.map (fun f => f.seq) } }

/-- ENTROPY_HEALTH_FAIL (R426): the DRBG enters its error state and every engine stalls. -/
def execEntropyHealthFail (s : State) : Host.Outcome State Fault Refusal :=
  .next (
    let mark := fun (t : State) (base : Nat) =>
      setF (setF (setF t base Reg.kerfStatus_rngFail 0 1) base Reg.kerfStatus_stall0 0 1) base Reg.kerfStatus_stall1 0 1
    sendVector (mark (mark s landABase) landBBase) 0)

end Sys2Proof.Machine
end

