-- ==== Sys2Proof/Machine/Oma.lean ====
section
/-!
DEFINITION. The ordered memory-side adder: groups, contributions in index order, the reorder window, refusals, overdue
lines, SUM_OPEN and CONTRIBUTE (R177 to R185).
-/

namespace Sys2Proof.Machine

/-! ### Groups and lines -/

/-- The open group of an id. -/
def groupGet (s : State) (g : Nat) : Option SumGroup := s.groups.find? (fun x => x.id == g)

/-- A group changed. -/
def groupUpd (s : State) (g : Nat) (f : SumGroup → SumGroup) : State :=
  { s with groups := s.groups.map (fun x => if x.id == g then f x else x) }

/-- R178: a line of a group: from index 0 with nothing held until it is touched. -/
def lineGet (x : SumGroup) (l : Nat) : SumLine := (x.touched.find? (fun y => y.line == l)).getD ⟨l, 0, [], none⟩

/-- A line of a group written. -/
def linePut (s : State) (g : Nat) (y : SumLine) : State :=
  groupUpd s g (fun x => { x with touched := x.touched.filter (fun z => z.line != y.line) ++ [y] })

/-- R177, R22: the offset of a line. -/
def lineOff (x : SumGroup) (l : Nat) : Nat := x.target + 64 * l

/-- R22, R184: the early contributions that a stack's controller holds. -/
def heldBy (s : State) (stack : Nat) : Nat :=
  s.groups.foldl (fun n x =>
    x.touched.foldl (fun m y => if stackOf (lineOff x y.line) = stack then m + y.early.length else m) n) 0

/-- R184: the Mill block of a stack's controller. -/
def omaMill (stack : Nat) : Nat := millBase (stack / 2)

/-! ### Adding (R177) -/

/-- R177: one value added: the code, whether it saturated, whether it is not finite. -/
def omaAdd (int : Bool) (a b : Nat) : Nat × Bool × Bool :=
  if int then
    let r := satAdd32 (toSigned 32 a) (toSigned 32 b)
    (ofSigned 32 r.1, r.2, false)
  else
    let v := r32 (fvAdd (decodeCode .fp32 a) (decodeCode .fp32 b))
    ((convert .fp32 .rne v).1, false, fvNonFinite v)

/-- R177: a line's contents and a contribution added element by element. -/
def omaSum (int : Bool) (v c : Nat → Nat) : List (Nat × Bool × Bool) := (List.range 16).map (fun i => omaAdd int (v i) (c i))

/-- Word `i` of a line's bytes. -/
def lineWord (d : List Byte) (i : Nat) : Nat := leNat ((d.drop (4 * i)).take 4)

/-- R184: saturated additions counted. -/
def omaSat (s : State) (mill n : Nat) : State :=
  if n = 0 then s else setF (countF s mill Reg.omaSat_count 0 n) mill Reg.omaSat_sticky 0 1

/-- R155, R156: the writes that the SUM_OPEN of a group holds, and whether its work is under EVAL. -/
def groupOp (s : State) (x : SumGroup) : List Host.Cell × Bool :=
  match findOp s x.ctx x.idx with
  | some o => (o.writes, dEval o.d)
  | none => ([], false)

/-- R177, R181: the contribution `next` is added to what a line holds; training-state bytes are held for the SUM_OPEN's end
(R155). -/
def omaApply (s : State) (x : SumGroup) (y : SumLine) (d : List Byte) : State :=
  let a := lineOff x y.line
  let g := groupOp s x
  let base := { s with mem := memWriteAll s.mem g.1 }
  let rs := omaSum x.int (fun i => rdNat base (a + 4 * i) 4) (lineWord d)
  let mill := omaMill (stackOf a)
  let s1 := holdOver s (wrMem base (bytesWrites a (rs.flatMap (fun r => leBytes 4 r.1)))) x.ctx x.idx g.1
  let s2 := event (omaSat s1 mill (rs.countP (fun r => r.2.1))) mill 0x05 1
  flagCell s2 (stackOf a / 2 * 32) (rs.any (fun r => r.2.2) && !g.2)

/-- R182: the sender of an added contribution learns of it: an operation of this chip, or another chip by an
acknowledgement. -/
def omaAck (s : State) (src ctx idx : Nat) : State :=
  if src = s.chip then remoteDone s ctx idx false else sendMsg s 7 src 0 ⟨s.chip, ctx, idx, .ack⟩

/-- R178: the held contributions of a line are added for as long as one holds its next index. -/
def omaDrain : Nat → State → Nat → Nat → State
  | 0, s, _, _ => s
  | n + 1, s, g, l =>
    match groupGet s g with
    | none => s
    | some x =>
      let y := lineGet x l
      match y.early.find? (fun e => e.index == y.next) with
      | none => s
      | some e =>
        let s1 := omaApply s x y e.data
        let s2 := linePut s1 g { y with next := y.next + 1, early := y.early.filter (fun f => f.index != e.index) }
        omaDrain n (omaAck s2 e.src e.ctx e.idx) g l

/-- R181: whether every line of a group has added all its contributions. -/
def groupWhole (x : SumGroup) : Bool := (x.touched.filter (fun y => decide (x.p ≤ y.next))).length == x.lines

/-- R181: a group whose lines are whole closes, and its SUM_OPEN ends. -/
def groupMaybeEnd (s : State) (g : Nat) : State :=
  match groupGet s g with
  | some x => if groupWhole x then finishOp { s with groups := s.groups.filter (fun z => z.id != g) } x.ctx x.idx else s
  | none => s

/-- R179: whether a contribution with index `i` that is not next is refused. -/
def omaRefuses (s : State) (x : SumGroup) (y : SumLine) (i : Nat) : Bool :=
  decide (y.next + 64 < i) || decide (2048 ≤ heldBy s (stackOf (lineOff x y.line)))

/-- R178, R179: a contribution of chip `src` reaches a line: added and the held ones after it, held, or refused.  One
already taken, and one of a group or line that is not open, changes nothing. -/
def omaTake (s : State) (g i l : Nat) (d : List Byte) (src ctx idx : Nat) : State :=
  match groupGet s g with
  | none => s
  | some x =>
    let y := lineGet x l
    if x.lines ≤ l ∨ x.p ≤ i ∨ i < y.next ∨ y.early.any (fun e => e.index == i) then s
    else if i = y.next then
      let s1 := linePut (omaApply s x y d) g { y with next := y.next + 1 }
      groupMaybeEnd (omaDrain 65 (omaAck s1 src ctx idx) g l) g
    else if omaRefuses s x y i then
      let mill := omaMill (stackOf (lineOff x l))
      let s1 := event (countF s mill Reg.omaRefused_count 0 1) mill 0x06 1
      if src = s.chip then { s1 with resends := s1.resends ++ [⟨g, i, l, s.chip, d, ctx, idx, s.time.tai⟩] }
      else sendMsg s1 7 src 0 ⟨s.chip, ctx, idx, .refused g i l⟩
    else linePut s g { y with early := y.early ++ [⟨i, d, s.time.tai, src, ctx, idx⟩] }

/-- R183: an index that has reached a group is used in it. -/
def markUsed (s : State) (g i : Nat) : State :=
  groupUpd s g (fun x => if x.used.contains i then x else { x with used := x.used ++ [i] })

/-- R178, R183: a contribution reaches its group. -/
def omaArrive (s : State) (g i l : Nat) (d : List Byte) (src ctx idx : Nat) : State :=
  omaTake (markUsed s g i) g i l d src ctx idx

/-- OMA_CONTRIBUTION (R178): a contribution line of chip `src` reaches the adder. -/
def execOmaContribution (group index line : Nat) (data : List Byte) (src ctx idx : Nat) (s : State) :
    Host.Outcome State Fault Refusal :=
  .next (omaArrive s group index line data src ctx idx)

/-- OMA_RESEND_TIMER (R179): 1 µs after its refusal, a contribution of this chip is sent again. -/
def execOmaResendTimer (group index line : Nat) (s : State) : Host.Outcome State Fault Refusal :=
  .next (match s.resends.find? (fun r => r.group == group && r.index == index && r.line == line) with
    | none => s
    | some r =>
      if !timeCome s (r.at_ + 1000) then s
      else
        let s1 := { s with resends := s.resends.filter (fun q => !(q.group == group && q.index == index && q.line == line)) }
        if r.chip = s.chip then omaArrive s1 group index line r.data s.chip r.ctx r.idx
        else sendMsg s1 4 r.chip 0 ⟨s.chip, r.ctx, r.idx, .adder group index line r.data⟩)

/-- R180: when a line becomes overdue: OVERDUE_US after the oldest arrival that it holds. -/
def overdueAt (s : State) (y : SumLine) : Option Nat :=
  (y.early.foldl (fun n e => minOpt n (some e.at_)) none).map (fun t => t + 1000 * getA s Reg.omaCtrl_overdueUs)

/-- OMA_OVERDUE (R180): a line that is overdue is counted once per index. -/
def execOmaOverdue (group line : Nat) (s : State) : Host.Outcome State Fault Refusal :=
  .next (match groupGet s group with
    | none => s
    | some x =>
      let y := lineGet x line
      match overdueAt s y with
      | none => s
      | some t =>
        if !timeCome s t || y.overdue == some y.next then s
        else countF (linePut s group { y with overdue := some y.next }) (omaMill (stackOf (lineOff x line)))
          Reg.omaOverdue_count 0 1)

/-! ### SUM_OPEN (R181) -/

/-- R181: TARGET. -/
def soTarget (d : Desc) : Nat := dfld d 0x20 41 0
/-- R181: LINES. -/
def soLines (d : Desc) : Nat := dfld d 0x28 25 0
/-- R181: GROUP. -/
def soGroup (d : Desc) : Nat := dfld d 0x2C 7 0
/-- R181: whether FMT is INT32. -/
def soInt (d : Desc) : Bool := fwFmtD (dfld d 0x2E 15 0) == .int32
/-- R181: P. -/
def soP (d : Desc) : Nat := dfld d 0x30 16 0
/-- R181: INIT. -/
def soInit (d : Desc) : Bool := dfld d 0x30 17 17 == 1

/-- R181: the target region. -/
def soRegion (d : Desc) : Region := ⟨soTarget d, 0, 1, 64 * soLines d⟩

/-- R183, R158, R19: the execution fault of a SUM_OPEN; the target must lie in mapped HBM. -/
def sumOpenFault (s : State) (d : Desc) : Option (Nat × Nat) :=
  match accessFault s [soRegion d] with
  | some e => some e
  | none =>
    if !inHbm s (soTarget d) (64 * soLines d) then some (0x08, max (soTarget d) (capacity s))
    else if (outFault s d [soRegion d]).isSome then outFault s d [soRegion d]
    else if (groupGet s (soGroup d)).isSome then some (0x134, 0)
    else none

/-- R177, R181: with INIT 0 the lines start from +0 or integer 0.  DEDUCED: the region reads as 0 from the opening on, so that
a contribution always adds to whatever its line holds (log entry 71). -/
def zeroRegion (s : State) (ctx idx : Nat) (r : Region) : State :=
  let ws := (s.mem.filter (fun c => decide (r.off ≤ c.1 ∧ c.1 < regionEnd r))).map (fun c => (c.1, (0 : Byte)))
  holdTrain s (wrMem s ws) ctx idx

/-- R181: a group opens. -/
def openGroup (s : State) (ctx idx g target lines : Nat) (int : Bool) (p : Nat) (init : Bool) : State :=
  let s1 := if init then s else zeroRegion s ctx idx ⟨target, 0, 1, 64 * lines⟩
  { s1 with groups := s.groups ++ [⟨g, ctx, idx, target, lines, int, p, init, [], []⟩] }

/-- SUM_OPEN (R181): opens its group, and ends when every line is whole. -/
def execSumOpen (ctx idx : Nat) (s : State) : Host.Outcome State Fault Refusal :=
  .next (onOp s ctx idx 0x0220 (fun o =>
    if s.groups.any (fun x => x.ctx == ctx && x.idx == idx) then s
    else match sumOpenFault s o.d with
      | some e => ctxFault s ctx idx e.1 e.2
      | none => openGroup s ctx idx (soGroup o.d) (soTarget o.d) (soLines o.d) (soInt o.d) (soP o.d) (soInit o.d)))

/-! ### CONTRIBUTE (R182) -/

/-- R182: SRC. -/
def ctSrc (d : Desc) : Nat := dfld d 0x20 41 0
/-- R182: TARGET_CHIP. -/
def ctChip (d : Desc) : Nat := dfld d 0x28 15 0
/-- R182: GROUP. -/
def ctGroup (d : Desc) : Nat := dfld d 0x2A 7 0
/-- R182: INDEX. -/
def ctIndex (d : Desc) : Nat := dfld d 0x2C 15 0
/-- R182: LINES. -/
def ctLines (d : Desc) : Nat := dfld d 0x30 25 0

/-- R183: the check of a CONTRIBUTE at a group's own chip. -/
def groupCheck (s : State) (g i lines : Nat) : Option Nat :=
  match groupGet s g with
  | none => some 0x135
  | some x => if x.lines ≠ lines then some 0x135 else if x.p ≤ i then some 0x136
    else if x.used.contains i then some 0x137 else none

/-- R182: one line leaves for the group. -/
def ctSend (s : State) (o : Op) (l : Nat) : State :=
  let d := rdBytes s (ctSrc o.d + 64 * l) 64
  if ctChip o.d = s.chip then omaArrive s (ctGroup o.d) (ctIndex o.d) l d s.chip o.ctx o.idx
  else sendMsg s 4 (ctChip o.d) 0 ⟨s.chip, o.ctx, o.idx, .adder (ctGroup o.d) (ctIndex o.d) l d⟩

/-- R182: the lines leave for a group that has passed the check. -/
def ctSendAll (s : State) (o : Op) : State :=
  (List.range (ctLines o.d)).foldl (fun t l => ctSend t o l)
    (updOp s o.ctx o.idx (fun p => { p with work := .remote (ctLines o.d) false }))

/-- R182, R183: the check of another chip's CONTRIBUTE at this chip, which uses its index up and answers. -/
def groupAsked (s : State) (m : Msg) (g i lines : Nat) : State :=
  match groupCheck s g i lines with
  | some c => sendVerdict s m (some (c, 0))
  | none => sendVerdict (markUsed s g i) m none

/-- R19, R21, R183: the fault of a CONTRIBUTE that its own chip finds. -/
def contributeFault (s : State) (d : Desc) : Option (Nat × Nat) :=
  match accessFault s [⟨ctSrc d, 0, 1, 64 * ctLines d⟩] with
  | some e => some e
  | none =>
    match targetFault s (ctChip d) 0 with
    | some e => some e
    | none => if ctChip d = s.chip then (groupCheck s (ctGroup d) (ctIndex d) (ctLines d)).map (fun c => (c, 0)) else none

/-- CONTRIBUTE (R182): the group is checked, at another chip by a message that it answers; then every line is sent, and the
operation ends when all are added. -/
def execContribute (ctx idx : Nat) (s : State) : Host.Outcome State Fault Refusal :=
  .next (onOp s ctx idx 0x0221 (fun o =>
    if o.work ≠ .none then s
    else match contributeFault s o.d with
      | some e => ctxFault s ctx idx e.1 e.2
      | none =>
        if ctChip o.d = s.chip then ctSendAll (markUsed s (ctGroup o.d) (ctIndex o.d)) o
        else sendMsg (updOp s ctx idx (fun p => { p with work := .asking })) 4 (ctChip o.d) 0
          ⟨s.chip, ctx, idx, .groupCheck (ctGroup o.d) (ctIndex o.d) (ctLines o.d)⟩))

/-- R390: every open group closes without ending its SUM_OPEN normally. -/
def closeGroups (s : State) : State := { s with groups := [], resends := [] }

end Sys2Proof.Machine
end

