-- ==== Sys2Proof/Machine/Links.lean ====
section
/-!
DEFINITION. Worane links: frames sent and received, numbering and re-sends, Far sessions, training, failures, the stand
fault, and what arrives over the Chain network (R369 to R395, R398, R403 to R408).
-/

namespace Sys2Proof.Machine

/-! ### Chain arrivals (R371 step 2, R403 to R408) -/

/-- The barriers and the RESHARD that a Chain frame may have let go on. -/
def chainEffects (s : State) : State := reshardTake (barriersTake s)

/-- R390: the stand fault is taken: ARMED, FAULT and its fields, every descriptor that has begun, every adder group, and
vector 0. -/
def standFaultTake (s : State) (chip link cause : Nat) : State :=
  let s1 := setA (setA (setA s Reg.standCtrl_armed 0) Reg.standCtrl_fault 1) Reg.standCtrl_faultChip chip
  let s2 := setA (setA s1 Reg.standFault_link link) Reg.standFault_cause cause
  sendVector (closeGroups (faultAll s2 0x0D [chip, link, cause])) 0

/-- R408: a stand fault is passed on once, the first time this chip sees one. -/
def standFaultPass (s : State) (chip link cause : Nat) : State :=
  if s.chain.faultSeen then s
  else sendChainAll { s with chain := { s.chain with faultSeen := true } } (.fault chip link cause)

/-- R389, R408: a stand fault is seen: passed on, and taken while ARMED is 1. -/
def standFaultSeen (s : State) (chip link cause : Nat) : State :=
  let s1 := standFaultPass s chip link cause
  if getA s1 Reg.standCtrl_armed = 1 then standFaultTake s1 chip link cause else s1

/-- A Chain frame arrives on a link. -/
def takeChain (s : State) (link : Nat) : ChainFrame → State
  | .empty => s
  | .contrib op chan gen index v => chainEffects (takeContribution s link op chan gen index v)
  | .result _ chan gen index v => chainEffects (takeResult s chan gen index v)
  | .fault chip n cause => standFaultSeen s chip n cause
  | .time kind seq stamp => timeFrame s link kind seq stamp
  | .announce rank state hopsLead hops0 chip active parent =>
    takeAnnounce s link rank state hopsLead hops0 chip active parent

/-- CHAIN_CONTRIBUTION (R406, R407). -/
def execChainContribution (link op chan gen index value : Nat) (s : State) : Host.Outcome State Fault Refusal :=
  .next (takeChain s link (.contrib op chan gen index value))

/-- CHAIN_RESULT (R406). -/
def execChainResult (link op chan gen index value : Nat) (s : State) : Host.Outcome State Fault Refusal :=
  .next (takeChain s link (.result op chan gen index value))

/-- CHAIN_ANNOUNCE (R404). -/
def execChainAnnounce (link rank state hopsLead hops0 chip active parent : Nat) (s : State) :
    Host.Outcome State Fault Refusal :=
  .next (takeChain s link (.announce rank state hopsLead hops0 chip active parent))

/-- CHAIN_SETTLE (R404): HOPS0 and PARENT have not changed for 1 ms. -/
def execChainSettle (s : State) : Host.Outcome State Fault Refusal := .next (reshardTake (chainSettle s))

/-- STAND_FAULT_FRAME (R389): chip, link and cause of the fault that a Chain frame reports. -/
def execStandFaultFrame (link chip faultLink cause : Nat) (s : State) : Host.Outcome State Fault Refusal :=
  .next (takeChain s link (.fault chip faultLink cause))

/-! ### States of a link (R384 to R391) -/

/-- R388, R389: link `n` goes to FAILED with a cause; a Near link that was UP raises the stand fault while ARMED is 1.
-/
def linkFail (s : State) (n cause : Nat) : State :=
  let raises : Bool := linkUp s n && linkNear s n && cause != 7 && getA s Reg.standCtrl_armed == 1
  let s1 := groupReview s (treeUpdate (setL (setL s Reg.linkState_state n 3) Reg.linkState_cause n cause)) (n / 8)
  if raises then standFaultSeen s1 s1.chip n cause else s1

/-- R387: TOPO_DONE and vector 0 once no link trains. -/
def topoCheck (s : State) : State :=
  if (List.range 96).any (fun n => getL s Reg.linkState_state n == 1) then s
  else sendVector (setA s Reg.standCtrl_topoDone 1) 0

/-- R384, R387: link `n` begins to train. -/
def linkTrain (s : State) (n : Nat) : State := setL (setA s Reg.standCtrl_topoDone 0) Reg.linkState_state n 1

/-- R385: what the identity exchange of link `n` found. -/
def linkIdentity (s : State) (n chip link stand rtt : Nat) : State :=
  setL (setL (setL (setL (setL s Reg.linkPeer_chip n chip) Reg.linkPeer_link n link) Reg.linkPeer_stand n stand)
    Reg.linkPeer_valid n 1) Reg.linkRtt_ns n rtt

/-- R388: link `n` has accepted a frame, or has just been trained. -/
def linkHear (s : State) (n : Nat) : State := linkSet s n { linkGet s n with heard := s.time.tai }

/-- R384 to R386: training ends well with a peer of some mode: the link goes UP, MISWIRED or FAILED. -/
def linkTrained (s : State) (n mode : Nat) : State :=
  if mode ≠ getG s Reg.groupCtrl_mode (n / 8) then linkFail s n 5
  else if linkNear s n && linkMiswired s n then setL (setL s Reg.linkState_state n 4) Reg.linkState_cause n 6
  else groupReview s (setL s Reg.linkState_state n 2) (n / 8)

/-- R384, R554: whether link `n` may start from its saved settings. -/
def fastLink (s : State) (n : Nat) : Bool :=
  settingNat s 0 1 % 2 == 1 && settingNat s (0x90100 + 0x100 * n) 1 % 2 == 1

/-- R384, R554: a successful full training writes the link's settings into the saved settings; the equalisation data are free
values. -/
def saveTraining (s : State) (n : Nat) : State :=
  draftPut { s with free := s.free + 255 } (bytesWrites (0x10100 + 0x90100 + 0x100 * n)
    (1 :: (List.range 255).map (fun i => BitVec.ofNat 8 (Config.freeValue (s.free + i)))))

/-- LINK_TRAINING_DONE (R384 to R387): whether training passed, whether a fast start sufficed, which only saved settings
allow, and what the identity exchange found: the peer's chip, link, stand and mode, and the round trip in ns. -/
def execLinkTrainingDone (link : Nat) (ok fast : Bool) (peerChip peerLink peerStand peerMode rtt : Nat) (s : State) :
    Host.Outcome State Fault Refusal :=
  .next (
    if link < 96 ∧ getL s Reg.linkState_state link = 1 then
      let quick := fast && fastLink s link
      let s1 := setL s Reg.linkState_fast link (nat01 quick)
      let s2 := if ok && !quick then saveTraining s1 link else s1
      topoCheck (if ok then linkTrained (linkIdentity (linkHear s2 link) link peerChip peerLink peerStand rtt) link peerMode
        else linkFail s2 link 5)
    else s)

/-- Whether link `n` carries frames: it is UP or MISWIRED. -/
def linkCarries (s : State) (n : Nat) : Bool :=
  decide (n < 96) && (getL s Reg.linkState_state n == 2 || getL s Reg.linkState_state n == 4)

/-- LINK_SIGNAL_LOSS (R388, cause 1). -/
def execLinkSignalLoss (link : Nat) (s : State) : Host.Outcome State Fault Refusal :=
  .next (if linkCarries s link then linkFail s link 1 else s)

/-- LINK_RX_TIMEOUT (R388, cause 3): no frame has been accepted for 100 µs. -/
def execLinkRxTimeout (link : Nat) (s : State) : Host.Outcome State Fault Refusal :=
  .next (if linkCarries s link && passed s (linkGet s link).heard 100000 then linkFail s link 3 else s)

/-- R388, R392: ENABLE of link `n` takes effect: 1 trains a link that is disabled or FAILED, 0 makes it FAILED with cause
7. -/
def linkEnable (s : State) (n v : Nat) : State :=
  let st := getL s Reg.linkState_state n
  let s1 := setL s Reg.linkCtrl_enable n (v % 2)
  if v % 2 = 1 then (if st = 0 ∨ st = 3 then linkTrain s1 n else s1)
  else if st = 0 then s1
  else if st = 1 then topoCheck (linkFail s1 n 7)
  else linkFail s1 n 7

/-- The links of group `g`. -/
def linksOf (g : Nat) : List Nat := (List.range 8).map (fun i => 8 * g + i)

/-- R387, R393: RETRAIN: every enabled link of the group trains, and TOPO_DONE is cleared. -/
def groupRetrain (s : State) (g : Nat) : State :=
  let s1 := ((linksOf g).filter (fun n => getL s Reg.linkCtrl_enable n == 1)).foldl linkTrain (setA s Reg.standCtrl_topoDone 0)
  topoCheck (groupReview s (treeUpdate s1) g)

/-- R380: whether every link of group `g` is disabled, so that MODE may be written. -/
def groupIdle (s : State) (g : Nat) : Bool := (linksOf g).all (fun n => getL s Reg.linkCtrl_enable n == 0)

/-- R380: whether Far mode of group `g` would make a fifth Far group. -/
def groupFifth (s : State) (g mode : Nat) : Bool :=
  mode == 1 && decide (4 ≤ ((List.range 12).filter (fun h => h != g && getG s Reg.groupCtrl_mode h == 1)).length)

/-- R380: MODE of group `g` takes effect. -/
def groupMode (s : State) (g mode : Nat) : State :=
  (linksOf g).foldl (fun t n => setL t Reg.linkState_mode n mode) (setG s Reg.groupCtrl_mode g mode)

/-- R391: whether ARMED may be written to 1. -/
def armReady (s : State) : Bool :=
  getA s Reg.standCtrl_topoDone == 1 &&
    (List.range 96).all (fun n => !linkNear s n ||
      (getL s Reg.linkState_state n != 4 && (getL s Reg.linkCtrl_enable n == 0 || linkUp s n)))

/-- R391: a write of ARMED. -/
def standArm (s : State) (v : Nat) : State :=
  if v % 2 = 0 then setA s Reg.standCtrl_armed 0
  else if armReady s then
    let s1 := setA (setA (setA s Reg.standCtrl_armed 1) Reg.standCtrl_fault 0) Reg.standCtrl_faultChip 0
    let s2 := setA (setA s1 Reg.standFault_link 0) Reg.standFault_cause 0
    { s2 with chain := { s2.chain with faultSeen := false } }
  else s

/-! ### Numbering (R374 to R377) -/

/-- R371 step 4: ACK, NAK and HOLD applied to a sending side. -/
def applyAck (now : Nat) (x : SeqState) (ack : Nat) (nak hold : Bool) : SeqState :=
  let keep := x.retry.filter (fun f => !seqLe f.seq ack)
  let again := x.resendq.filter (fun q => keep.any (fun f => f.seq == q))
  let q := (ack + 1) % 2 ^ 24
  { x with
    retry := keep
    resendq := if nak && keep.any (fun f => f.seq == q) then q :: again.filter (fun r => r != q) else again
    peerHold := hold
    sentAt := if keep.length = x.retry.length then x.sentAt else now }

/-- R375: how a SEQ stands to a receiver: 0 a duplicate or outside the window, 1 next, 2 to be held, 3 already held. -/
def seqClass (x : SeqState) (w seq : Nat) : Nat :=
  let d := (seq + 2 ^ 24 - x.ack) % 2 ^ 24
  if d = 1 then 1
  else if 1 < d ∧ d ≤ w then (if x.held.any (fun f => f.seq == seq) then 3 else 2)
  else 0

/-- R375: the held frames that now follow in order. -/
def takeHeld : Nat → SeqState → SeqState × List KeptFrame
  | 0, x => (x, [])
  | n + 1, x =>
    let q := (x.ack + 1) % 2 ^ 24
    match x.held.find? (fun f => f.seq == q) with
    | none => (x, [])
    | some f =>
      let r := takeHeld n { x with ack := q, held := x.held.filter (fun g => g.seq != q) }
      (r.1, f :: r.2)

/-- R375, R377: a frame that passed its checks is accepted with those that follow it, or held, with NAK for the gap. -/
def seqTake (now : Nat) (x : SeqState) (f : KeptFrame) : SeqState × List KeptFrame :=
  if f.seq = (x.ack + 1) % 2 ^ 24 then
    let r := takeHeld x.held.length { x with ack := f.seq, nak := false, tookAt := now }
    ({ r.1 with nak := !r.1.held.isEmpty }, f :: r.2)
  else
    ({ x with held := x.held ++ [f], nak := x.nak || x.held.isEmpty, tookAt := if x.held.isEmpty then now else x.tookAt }, [])

/-- R377: the retransmit time may have passed, as `late` says of a time: where A has not advanced for it, a gap is asked for
again; where no ACK has advanced for it and the peer does not hold, the oldest frame goes again. -/
def seqTimeout (now : Nat) (late : Nat → Bool) (x : SeqState) : SeqState :=
  let x1 := if late x.tookAt && !x.held.isEmpty then { x with nak := true, tookAt := now } else x
  match x.retry with
  | [] => x1
  | f :: _ =>
    if x.peerHold || !late x.sentAt || x.resendq.contains f.seq then x1
    else { x1 with resendq := f.seq :: x1.resendq, sentAt := now }

/-- R377: the retransmit time of Near link `n`, in ns. -/
def nearRetry (s : State) (n : Nat) : Nat := max 2000 (4 * getL s Reg.linkRtt_ns n)

/-- R377: the retransmit time of session `k`, in ns: the longest round trip of its group's links, and 200 µs. -/
def farRetry (s : State) (k : Nat) : Nat :=
  (groupLinks s (2 ^ (sessGroup s k).getD 12)).foldl (fun t n => max t (getL s Reg.linkRtt_ns n)) 0 + 200000

/-- The numbering of a Near link changed. -/
def nearSet (s : State) (n : Nat) (x : SeqState) : State := linkSet s n { linkGet s n with num := x }

/-- The numbering of a Far session changed. -/
def sessSet (s : State) (k : Nat) (x : SeqState) : State := farSet s k { farGet s k with num := x }

/-- RETRANSMIT_TIMEOUT (R377): of Near link `n`, or of Far session `n`. -/
def execRetransmitTimeout (far : Bool) (n : Nat) (s : State) : Host.Outcome State Fault Refusal :=
  .next (
    if far then
      (if n < 64 ∧ sessF s Reg.far_route n ≠ 0 then
        sessSet s n (seqTimeout s.time.tai (fun t => passed s t (farRetry s n)) (farGet s n).num) else s)
    else if n < 96 ∧ linkUp s n ∧ linkNear s n then
      nearSet s n (seqTimeout s.time.tai (fun t => passed s t (nearRetry s n)) (linkGet s n).num)
    else s)

/-! ### Sending (R369, R370, R374, R376, R397, R432, R444) -/

/-- A frame leaves on link `n` (R544, source 0x02). -/
def putFrame (s : State) (n : Nat) (bs : List Byte) : State :=
  event { s with sent := (n, bs) } (landOf (decide (n < 48))) 0x02 1

/-- A TYPE 0 frame. -/
def idleFrame (ack : Nat) (nak hold : Bool) (chip stand session : Nat) : Frame :=
  { type := 0, seq := 0, ack := ack, nak := nak, hold := hold, len := 0, enc := false, epoch := 0, cls := 0, chip := chip,
    stand := stand, session := session, payload := [] }

/-- A TYPE 1 frame of a message. -/
def dataFrame (x : SeqState) (m : TxMsg) (session : Nat) : Frame :=
  { type := 1, seq := x.nextSeq, ack := x.ack, nak := x.nak, hold := x.holdOut, len := m.payload.length, enc := false,
    epoch := 0, cls := m.cls, chip := m.chip, stand := m.stand, session := session, payload := m.payload }

/-- R397: whether a message may leave on Near link `n`. -/
def txOn (s : State) (n : Nat) (m : TxMsg) : Bool := m.far == none && routeLink s m.msg.src m.chip == some n

/-- R361: the slot ids whose window is open on a group. -/
def openSlots (s : State) (g : Nat) : List Nat :=
  ((s.time.windows.filter (windowNow s)).map (slotEntry s)).filterMap (fun e => if bit e.groups g then some e.slot else none)

/-- R361: the index of the message that Near link `n` sends next: one of an open window's slot first. -/
def nextTx (s : State) (n : Nat) : Option Nat :=
  let slots := openSlots s (n / 8)
  match s.txq.findIdx? (fun m => txOn s n m && m.slot != 0 && slots.contains m.slot) with
  | some i => some i
  | none => s.txq.findIdx? (txOn s n)

/-- R377: a frame is sent again: its bytes unchanged, with this slot's Chain frame. -/
def resendFrame (s : State) (n : Nat) (x : SeqState) (f : KeptFrame) (put : State → SeqState → State) (c : ChainFrame) :
    State :=
  let y := { x with resendq := x.resendq.tail, retry := x.retry.map (fun g => if g.seq = f.seq then { g with resends := g.resends + 1 } else g) }
  let s1 := putFrame (put s y) n (withChain f.bytes c)
  event (countL s1 Reg.linkResends_count n 1) (landOf (decide (n < 48))) 0x04 1

/-- The frame that a numbering has to send again next. -/
def nextResend (x : SeqState) : Option KeptFrame :=
  match x.resendq with
  | [] => none
  | q :: _ => x.retry.find? (fun f => f.seq == q)

/-- A numbering after a data frame of a message has been built. -/
def sentFrame (now : Nat) (x : SeqState) (bs : List Byte) (m : Msg) : SeqState :=
  { x with nextSeq := (x.nextSeq + 1) % 2 ^ 24, nak := false, retry := x.retry ++ [⟨x.nextSeq, bs, 0, m⟩],
           sentAt := if x.retry.isEmpty then now else x.sentAt }

/-- R369, R376, R388: Near link `n`'s next slot: a re-send, new data within the window, or TYPE 0. -/
def nearSlot (s : State) (n : Nat) (c : ChainFrame) : State :=
  let x := (linkGet s n).num
  let idle := putFrame (nearSet s n { x with nak := false }) n
    (frameBytes (idleFrame x.ack x.nak x.holdOut (getL s Reg.linkPeer_chip n) s.stand 0) c)
  if !linkUp s n then idle
  else match nextResend x with
    | some f =>
      let s1 := resendFrame s n x f (fun t y => nearSet t n y) c
      if 16 ≤ f.resends + 1 then linkFail s1 n 2 else s1
    | none =>
      if 256 ≤ x.retry.length then idle
      else match nextTx s n with
        | none => idle
        | some i =>
          match s.txq[i]? with
          | none => idle
          | some m =>
            let bs := frameBytes (dataFrame x m 0) c
            putFrame (nearSet { s with txq := s.txq.eraseIdx i } n (sentFrame s.time.tai x bs m.msg)) n bs

/-- R444: the slot of a Far group that no session can use. -/
def farEmpty (s : State) (n : Nat) (c : ChainFrame) : State :=
  putFrame s n (frameBytes (idleFrame 0 false false 0 s.stand 0) c)

/-- R382: a frame of session `k` has been sent again `r` times on its route, which the 16th loses. -/
def resentCheck (s : State) (k r : Nat) : State := if 16 ≤ r then loseRoute s k else s

/-- R381: whether session `k` may use a slot of Far link `n`. -/
def sessOn (s : State) (n k : Nat) : Bool :=
  decide (k < 64) && sessF s Reg.far_valid k == 1 && sessGroup s k == some (n / 8) && linkUp s n

/-- R432 to R437: a data frame of session `k` in the clear. -/
def farPlainData (s : State) (n k : Nat) (c : ChainFrame) (i : Nat) (m : TxMsg) : State :=
  let x := (farGet s k).num
  let bs := frameBytes (dataFrame x m k) c
  putFrame (sessSet { s with txq := s.txq.eraseIdx i } k (sentFrame s.time.tai x bs m.msg)) n bs

/-- R436, R437: a data frame of session `k` under its CUR key. -/
def farSealedData (s : State) (n k : Nat) (c : ChainFrame) (i : Nat) (m : TxMsg) (slot : Nat) (key : KeySlot) : State :=
  let x := (farGet s k).num
  let f := kerfSeal key (sessDir s k) (dataFrame x m k) m.payload
  let bs := frameBytes f c
  let s1 := kerfCount (keyPut { s with txq := s.txq.eraseIdx i } slot { key with nonce := key.nonce + 1 })
    (if n < 48 then 0 else 1) (kerfCost f)
  let s2 := putFrame (sessSet s1 k (sentFrame s.time.tai x bs m.msg)) n bs
  if 2 ^ 48 ≤ key.nonce + 1 then rollNeeded s2 k else s2

/-- R432 to R437, R444: a slot of Far link `n` used by session `k`. -/
def sessSlot (s : State) (n k : Nat) (c : ChainFrame) : State :=
  let x := (farGet s k).num
  let plain := idleFrame x.ack x.nak x.holdOut (sessF s Reg.far_peerChip k) (sessF s Reg.far_peerStand k) k
  let quiet := sessSet s k { x with nak := false }
  let next := if 524288 ≤ groupKept s (n / 8) then none else s.txq.findIdx? (fun m => m.far == some k)
  let cur := sessF s Reg.sess_curSlot k
  if sessEnc s k then
    match (if sessF s Reg.sess_hasCur k = 1 ∧ !kerfStalled s then keyGet s cur else none) with
    | none => farEmpty s n c
    | some key =>
      let idle := putFrame (kerfCount quiet (if n < 48 then 0 else 1) 1) n (frameBytes (kerfSealIdle key (sessDir s k) plain) c)
      match nextResend x with
      | some f => resentCheck (resendFrame s n x f (fun t y => sessSet t k y) c) k (f.resends + 1)
      | none =>
        if 2 ^ 48 ≤ key.nonce then idle
        else match next with
          | none => idle
          | some i => match s.txq[i]? with
            | none => idle
            | some m => farSealedData s n k c i m cur key
  else
    let idle := putFrame quiet n (frameBytes plain c)
    match nextResend x with
    | some f => resentCheck (resendFrame s n x f (fun t y => sessSet t k y) c) k (f.resends + 1)
    | none => match next with
      | none => idle
      | some i => match s.txq[i]? with
        | none => idle
        | some m => farPlainData s n k c i m

/-- FRAME_SLOT (R369): link `link`'s next frame slot; on a Far link, the slot of `session` where it can use it. -/
def execFrameSlot (link session : Nat) (s : State) : Host.Outcome State Fault Refusal :=
  .next (
    if !linkCarries s link then s
    else
      let l := linkGet s link
      let q := chainNext l.chainq
      let p := stampOut (linkSet s link { l with chainq := q.2 }) link q.1
      if linkNear s link then nearSlot p.1 link p.2
      else if sessOn p.1 link session then sessSlot p.1 link session p.2
      else farEmpty p.1 link p.2)

/-! ### Delivery (R372, R396 to R402, R178, R269, R330) -/

/-- R182, R183, R274: another chip's verdict on an operation that asked for it: the fault that it found ends the operation,
else the rows or lines leave. -/
def takeVerdict (s : State) (ctx idx code off : Nat) : State :=
  match findOp s ctx idx with
  | none => s
  | some o =>
    if !opRuns o then s
    else if code ≠ 0 then ctxFault s ctx idx code off
    else if o.work ≠ .asking then s
    else if dOpcode o.d = 0x0221 then ctSendAll s o else cpSendAll s o

/-- A write of another chip reaches this one (R27, R155, R274). -/
def writeArrive (s : State) (m : Msg) (off : Nat) (data : List Byte) (step : Nat) : State :=
  match landFault s ⟨off, 0, 1, data.length⟩ false with
  | some e => sendVerdict s m (some e)
  | none =>
    if accessWaits s off data.length then { s with hbm := { s.hbm with waiting := s.hbm.waiting ++ [.remote m] } }
    else writeLand s m off data step

/-- A message takes effect on this chip. -/
def deliverMsg (s : State) (m : Msg) (cls : Nat) (payload : List Byte) : State :=
  match m.body with
  | .data _ _ _ => { s with rx := s.rx ++ [(cls, payload)] }
  | .write off data step => writeArrive s m off data step
  | .writeCheck r e => sendVerdict s m (landFault s r e)
  | .semAdd id v => ackMsg (semAdd s id v) m
  | .adder g i l d => omaArrive s g i l d m.src m.ctx m.idx
  | .groupCheck g i n => groupAsked s m g i n
  | .verdict code off => takeVerdict s m.ctx m.idx code off
  | .ack => remoteDone s m.ctx m.idx false
  | .ackSkip => remoteDone s m.ctx m.idx true
  | .refused g i l =>
    match findOp s m.ctx m.idx with
    | some o =>
      { s with resends := s.resends ++ [⟨g, i, l, m.src, rdBytes s (ctSrc o.d + 64 * l) 64, m.ctx, m.idx, s.time.tai⟩] }
    | none => s
  | .replica tag v => replicaArrive s tag m.src v
  | .piece p => reshardTake (pieceArrive s { p with src := m.src })
  | .pieceAns x ok => reshardTake (pieceAnswer s m.src x ok)
  | .sideDown => s

/-- R361: the slot id that a message names, 0 for none. -/
def msgSlot (m : Msg) : Nat :=
  match m.body with
  | .data _ slot _ => slot
  | _ => 0

/-- R361, R397, R398: a frame for another chip of the stand goes on, or is dropped for want of a route. -/
def forwardFrame (s : State) (f : Frame) (m : Msg) : State :=
  match routeLink s m.src f.chip with
  | some _ => { s with txq := s.txq ++ [⟨f.cls, f.chip, f.stand, none, msgSlot m, f.payload.take f.len, m⟩] }
  | none => countA s Reg.routeDrop_count 1

/-- R372, R397: an accepted Near frame is delivered, forwarded, or discarded where it names another stand. -/
def deliverNear (s : State) (n : Nat) (k : KeptFrame) : State :=
  let f := frameOf k.bytes
  let s1 := event s (landOf (decide (n < 48))) 0x03 1
  if f.stand ≠ s.stand then countL s1 Reg.linkForeign_count n 1
  else if f.chip ≠ s.chip then forwardFrame s1 f k.msg
  else deliverMsg s1 k.msg f.cls (f.payload.take f.len)

/-- R375: a data frame on Near link `n`. -/
def nearTake (s : State) (n : Nat) (bs : List Byte) (m : Msg) : State :=
  let x := (linkGet s n).num
  let f := frameOf bs
  let c := seqClass x 256 f.seq
  if c = 0 ∨ c = 3 then countL s Reg.linkDup_count n 1
  else
    let r := seqTake s.time.tai x ⟨f.seq, bs, 0, m⟩
    r.2.foldl (fun t k => deliverNear t n k) (nearSet s n r.1)

/-- R371, R388, R432: a checked frame on Near link `n`. -/
def nearFrame (s : State) (n : Nat) (bs : List Byte) (m : Msg) : State :=
  let f := frameOf bs
  if f.enc then countL s Reg.linkCrc_frame n 1
  else
    let s0 := linkHear s n
    let s1 := nearSet s0 n (applyAck s.time.tai (linkGet s n).num f.ack f.nak f.hold)
    if f.type = 2 ∧ m.body = .sideDown then linkFail s1 n 4
    else if f.type = 1 ∧ linkUp s n then nearTake s1 n bs m
    else s1

/-- R378: an accepted Far frame is delivered with its plaintext. -/
def deliverFar (s : State) (n : Nat) (k : KeptFrame) : State :=
  let f := frameOf k.bytes
  deliverMsg (event s (landOf (decide (n < 48))) 0x03 1) k.msg f.cls (f.payload.take f.len)

/-- R375: a data frame of session `k` whose payload is in the clear. -/
def farTake (s : State) (n k : Nat) (bs : List Byte) (m : Msg) : State :=
  let r := seqTake s.time.tai (farGet s k).num ⟨(frameOf bs).seq, bs, 0, m⟩
  r.2.foldl (fun t x => deliverFar t n x) (sessSet s k r.1)

/-- R438 steps 1 and 2: what an encrypted frame's EPOCH names: 1 CUR, 2 PREV, 3 the staged NEXT, 0 none. -/
def epochNames (s : State) (k e : Nat) : Nat × Nat :=
  if sessF s Reg.sess_hasCur k = 1 ∧ sessF s Reg.sess_curEpoch k = e then (1, sessF s Reg.sess_curSlot k)
  else if prevEpoch s k = some e then (2, sessF s Reg.sess_prevSlot k)
  else if sessF s Reg.sess_nextValid k = 1 ∧ (keyGet s (sessF s Reg.sess_nextSlot k)).map (fun x => x.epoch) = some e then
    (3, sessF s Reg.sess_nextSlot k)
  else (0, 0)

/-- R439, R440: a tag that differs. -/
def authFail (s : State) (k : Nat) (f : Frame) : State :=
  let s1 := countF s landABase Reg.sess_authFails k 1
  if f.type = 0 then s1
  else
    let x := farGet s1 k
    let c := if x.authCount ≠ 0 ∧ x.authSeq = f.seq then x.authCount + 1 else 1
    let s2 := farSet s1 k { x with authSeq := f.seq, authCount := c }
    if 4 ≤ c then sendVector (sessPut s2 Reg.sess_authHalt k 1) 0 else s2

/-- R438 step 5, R445, R447: a frame of session `k` whose tag passed. -/
def authPass (s : State) (n k named : Nat) (bs : List Byte) (m : Msg) (key : KeySlot) : State :=
  let f := frameOf bs
  let s1 := if named = 3 then rollByFrame s k else s
  let x := farGet s1 k
  let x1 := { x with authCount := if x.authSeq = f.seq then 0 else x.authCount,
                     firstCur := if f.type = 1 ∧ named ≠ 2 ∧ x.firstCur.isNone then some f.seq else x.firstCur,
                     num := applyAck s.time.tai x.num f.ack f.nak f.hold }
  let s2 := farSet s1 k x1
  let p := kerfPlain key (1 - sessDir s k) f
  let s3 := if f.type = 1 then
      farTake s2 n k (frameBytes { f with len := p.length, payload := p } .empty) m else s2
  retireIfDone s3 k

/-- R426, R438 to R440: an encrypted frame of session `k`.  While the engines stall it waits; HOLD is set once the frames that
wait fill the two sealed buffers of the Landing (R439).  A frame for which the hold area of the group has no place is
discarded (log entry 78). -/
def farSealed (s : State) (n k : Nat) (bs : List Byte) (m : Msg) : State :=
  let f := frameOf bs
  let c := seqClass (farGet s k).num 524288 f.seq
  if kerfStalled s then
    let x := farGet s k
    farSet s k { x with stalled := x.stalled ++ [(n, bs, m)],
                        num := { x.num with holdOut := x.num.holdOut || decide (64 ≤ sealedWaiting s n + 1) } }
  else if f.type = 1 ∧ (c = 0 ∨ c = 3) then countL s Reg.linkDup_count n 1
  else if f.type = 1 ∧ c = 2 ∧ 524288 ≤ groupHeld s (n / 8) then s
  else
    let e := epochNames s k f.epoch
    match (if e.1 = 0 then none else keyGet s e.2) with
    | none => countF s landABase Reg.sess_oldEpoch k 1
    | some key =>
      let s1 := kerfCount s (if n < 48 then 0 else 1) (kerfCost f)
      if kerfOpens key (1 - sessDir s k) f then authPass s1 n k e.1 bs m key else authFail s1 k f

/-- R382: a frame of session `k` has arrived on link `n`. -/
def sessHeard (s : State) (n k : Nat) : State :=
  if sessOver s (n / 8) k then farSet s k { farGet s k with heard := s.time.tai } else s

/-- R432, R440, R444: a checked data frame or TYPE 0 frame of session `k` on Far link `n`. -/
def farSession (s : State) (n k : Nat) (bs : List Byte) (m : Msg) : State :=
  let f := frameOf bs
  if f.enc ≠ sessEnc s k then countF s landABase Reg.sess_plainDrop k 1
  else if sessF s Reg.sess_authHalt k = 1 then s
  else if f.enc then farSealed s n k bs m
  else
    let s1 := sessSet s k (applyAck s.time.tai (farGet s k).num f.ack f.nak f.hold)
    if f.type ≠ 1 then s1
    else
      let c := seqClass (farGet s1 k).num 524288 f.seq
      if c = 0 ∨ c = 3 then countL s1 Reg.linkDup_count n 1
      else if c = 2 ∧ 524288 ≤ groupHeld s1 (n / 8) then s1
      else farTake s1 n k bs m

/-- R371 step 4, R388: a TYPE 2 frame on Far link `n`, which no cipher covers. -/
def farTraining (s : State) (n k : Nat) (f : Frame) (m : Msg) : State :=
  let s1 := if k < 64 ∧ sessF s Reg.far_valid k = 1 ∧ !sessEnc s k ∧ !f.enc then
      sessSet s k (applyAck s.time.tai (farGet s k).num f.ack f.nak f.hold) else s
  if m.body = .sideDown then linkFail s1 n 4 else s1

/-- R371, R382, R444: a checked frame on Far link `n`. -/
def farFrame (s : State) (n : Nat) (bs : List Byte) (m : Msg) : State :=
  let f := frameOf bs
  let k := f.session
  let s0 := linkHear s n
  if f.type = 0 ∧ f.stand ≠ s.stand then s0
  else if f.type = 2 then farTraining (if k < 64 then sessHeard s0 n k else s0) n k f m
  else if 64 ≤ k ∨ sessF s Reg.far_valid k = 0 then s0
  else farSession (sessHeard s0 n k) n k bs m

/-- R392, R544: the codewords that FEC has corrected, and those that it could not correct, since the last frame. -/
def fecCount (s : State) (n corrected lost : Nat) : State :=
  let base := landOf (decide (n < 48))
  let s1 := if corrected = 0 then s else event (countL s Reg.linkCe_count n corrected) base 0x05 corrected
  if lost = 0 then s1 else event (countL s1 Reg.linkUe_count n lost) base 0x06 lost

/-- FRAME_RECEIVE (R371): a frame arrives on a link: the codewords that FEC corrected and those it could not correct since the
last frame, whether one that it could not correct overlaps this frame, the frame's bytes, and what its message means. -/
def execFrameReceive (link corrected lost : Nat) (hit : Bool) (bytes : List Byte) (msg : Msg) (s : State) :
    Host.Outcome State Fault Refusal :=
  .next (
    if !linkCarries s link then s
    else
      let s0 := fecCount s link corrected lost
      if hit then s0
      else
        let s1 := if chainCrcOk bytes then takeChain s0 link (chainOf (byteNat bytes 16 10))
          else countL s0 Reg.linkCrc_chain link 1
        if !frameCrcOk bytes then countL s1 Reg.linkCrc_frame link 1
        else if linkNear s link then nearFrame s1 link bytes msg
        else farFrame s1 link bytes msg)

/-! ### Far sessions (R381 to R383, R395) -/

/-- FAR_ROUTE_LOST (R382, R383): no frame of a session has arrived on its active route for 1 ms. -/
def execFarRouteLost (session : Nat) (s : State) : Host.Outcome State Fault Refusal :=
  .next (
    if 64 ≤ session then s
    else if passed s (farGet s session).heard 1000000 then loseRoute s session else s)

/-- FAR_ROUTE_RETURN (R382): the primary route has been UP for 1 s. -/
def execFarRouteReturn (session : Nat) (s : State) : Host.Outcome State Fault Refusal :=
  .next (
    if 64 ≤ session then s
    else if sessF s Reg.far_route session = 2 then
      if groupRouteUp s (sessF s Reg.far_primary session) && passed s (farGet s session).since 1000000000 then
        sessMove s session 1
      else s
    else sessRise s session)

/-- R395: whether a session's groups allow VALID. -/
def sessGroupsOk (s : State) (k : Nat) : Bool :=
  let p := sessF s Reg.far_primary k
  let q := sessF s Reg.far_secondary k
  let far := fun (g : Nat) => decide (g < 12) && getG s Reg.groupCtrl_mode g == 1
  far p && (q == 0xF || (far q && q != p))

/-- R395, R444: VALID of session `k` is written. -/
def sessValid (s : State) (k v : Nat) : State :=
  if v = 0 then
    sessPut (sessPut (sessPut (farSet s k farIdle) Reg.far_valid k 0) Reg.far_route k 0) Reg.far_state k 0
  else if sessF s Reg.far_valid k = 1 then s
  else if sessGroupsOk s k then
    let s1 := sessPut (sessPut s Reg.far_valid k 1) Reg.far_err k 0
    sessRise (if sessEnc s1 k then sessPut (sessPut s1 Reg.sess_hasCur k 0) Reg.sess_prevLive k 0 else s1) k
  else sessPut s Reg.far_err k 1

/-! ### The engines restart (R426) -/

/-- R426: the frames of session `k` that waited for the engines are taken in order. -/
def takeStalled (s : State) (k : Nat) : State :=
  let q := (farGet s k).stalled
  q.foldl (fun t x => farFrame t x.1 x.2.1 x.2.2)
    (farSet s k { farGet s k with stalled := [], num := { (farGet s k).num with holdOut := false } })

/-- R447: the sessions whose PREV waited for the engines retire it. -/
def retireLate (s : State) (k : Nat) : State := if s.time.running && graceOver s k then retirePrev s k else s

/-- R426: RNG_RESTART; where the start-up tests pass, the engines resume. -/
def rngRestart (s : State) (pass : Bool) : State :=
  if !pass then s
  else
    let clear := fun (t : State) (base : Nat) =>
      setF (setF (setF t base Reg.kerfStatus_rngFail 0 0) base Reg.kerfStatus_stall0 0 0) base Reg.kerfStatus_stall1 0 0
    (List.range 64).foldl retireLate ((List.range 64).foldl takeStalled (clear (clear s landABase) landBBase))

end Sys2Proof.Machine
end

