-- ==== Sys2Proof/Machine/BringUp.lean ====
section
/-!
DEFINITION. Bring-up: resets, the part record, firmware and the stages (R551 to R574, R10, R28).
-/

namespace Sys2Proof.Machine

/-- The bring-up state changed. -/
def setBoot (s : State) (f : BootRt → BootRt) : State := { s with boot := f s.boot }

/-! ### The flash (R551 to R555, R558, R559) -/

/-- R551: the flash offset of firmware copy `c`. -/
def fwBase (c : Nat) : Nat := 0x1000000 + c * 0x4000000

/-- R552: the length of the signed body. -/
def partBytes : Nat := 0xA6200

/-- R552: SEQ of a part record copy. -/
def partSeq (s : State) (c : Nat) : Nat := partNat s c 8 8

/-- R553: VARIANT of a copy. -/
def partVariant (s : State) (c : Nat) : Nat := partNat s c 0x100 1

/-- Whether a range of the flash is blank. -/
def flashBlank (s : State) (a n : Nat) : Bool := !s.flash.any (fun w => decide (a ≤ w.1 ∧ w.1 < a + n))

/-- R555: the cause of a part record copy, 0 where it is valid. -/
def partCauseOf (s : State) (c : Nat) (x : CopySeen) : Nat :=
  if !x.readable || flashBlank s (partBase c) 0x100000 then 1
  else if partNat s c 0 4 ≠ 0x44524350 ∨ partNat s c 4 1 ≠ 1 ∨ partNat s c 0x10 4 ≠ partBytes then 2
  else if !x.mfgOk then 3
  else if !x.sigOk then 4
  else if (partVariant s c ≠ 1 ∧ partVariant s c ≠ 2) ∨
      (List.range 4).any (fun m => decide (32 < partNat s c (0x110 + m) 1 % 64)) ∨
      (List.range 8).any (fun k => decide (1024 < partNat s c (retireList k) 4 % 2048)) then 5
  else 0

/-- R556, R559: of two copies with their causes, the valid one with the higher SEQ, the first where they are equal. -/
def chooseCopy (c : Nat × Nat) (seq : Nat → Nat) : Option Nat :=
  if c.1 = 0 ∧ (c.2 ≠ 0 ∨ seq 1 ≤ seq 0) then some 0 else if c.2 = 0 then some 1 else none

/-- R558: SEQ of a firmware copy. -/
def fwSeq (s : State) (c : Nat) : Nat := memNat s.flash (fwBase c + 8) 8

/-- R558: LENGTH of a firmware copy. -/
def fwLength (s : State) (c : Nat) : Nat := memNat s.flash (fwBase c + 0x10) 4

/-- R559, R560: the cause of a firmware copy, 0 where it is valid. -/
def fwCauseOf (s : State) (c : Nat) (x : FwSeen) : Nat :=
  if s.boot.fwDead.contains c then 7
  else if !x.readable then 1
  else if memNat s.flash (fwBase c) 4 ≠ 0x4D574648 ∨ memNat s.flash (fwBase c + 4) 1 ≠ 1 ∨ fwLength s c % 16 ≠ 0 ∨
      0x3FEFE00 < fwLength s c then 2
  else if !x.sigOk then 3
  else if fwSeq s c < settingNat s 8 8 then 6
  else 0

/-! ### Reports (R562, R572) -/

/-- R562, R572: a report goes to BOOT_STATUS and to the boot log, which keeps 256. -/
def report (s : State) (ns stage code detail : Nat) : State :=
  let s1 := setD (setD (setD s Reg.bootStatus_stage stage) Reg.bootStatus_code code) Reg.bootStatus_detail (min 65535 detail)
  setBoot s1 (fun b => if b.log.length < 256 then { b with log := b.log ++ [⟨ns, stage, code, min 65535 detail⟩] }
    else { b with lost := true })

/-- R564: bring-up halts with a report. -/
def bootHalt (s : State) (ns stage code detail : Nat) : State :=
  setBoot (report s ns stage code detail) (fun b => { b with halted := true })

/-- R574: STATE when time acquisition begins: a Lead without GNSS stays unset. -/
def startAcquire (s : State) : State :=
  if getB s Reg.timeStatus_state = 0 ∧ !(getB s Reg.timeCtrl_lead == 1 && getB s Reg.timeCtrl_gnssEn == 0) then
    setB s Reg.timeStatus_state 1
  else s

/-- R560: FW_MIN_SEQ rises to the SEQ that runs. -/
def raiseMinSeq (s : State) : State :=
  match s.boot.fw with
  | some c => if settingNat s 8 8 < fwSeq s c then draftPut s (natWrites 0x10108 8 (fwSeq s c)) else s
  | none => s

/-- R561, R562: a stage ends with a report and the next one begins. -/
def stagePass (s : State) (ns stage code detail : Nat) : State :=
  let s1 := setBoot (report s ns stage code detail) (fun b => { b with stage := stage + 1 })
  if stage = 9 then raiseMinSeq (report s1 ns 10 1 0)
  else
    let s2 := report s1 ns (stage + 1) 0 0
    if stage = 7 then ((List.range 96).filter (fun n => getL s2 Reg.linkCtrl_enable n == 1)).foldl linkTrain s2
    else if stage = 8 then startAcquire s2
    else s2

/-! ### Resets (R565, R590, R593) -/

/-- R565, R427, R557: the device resets: what survives is the flash, the host's memory, the key store, the part's place
in its stand, the sensors, the test port and the changes to the part record. -/
def deviceReset (s : State) (cause rail : Nat) : State :=
  let r := { State.reset with
    pending := s.pending, hostMem := s.hostMem, flash := s.flash, keys := s.keys, chip := s.chip, stand := s.stand
    free := s.free, readOut := s.readOut, jtag := s.jtag
    power := { State.reset.power with tj := s.power.tj, hbm := s.power.hbm, refresh := s.power.refresh }
    boot := { State.reset.boot with
      perst := s.boot.perst, railLow := s.boot.railLow, trip := s.boot.trip, draft := s.boot.draft, portsOff := s.boot.portsOff } }
  setD (setD r Reg.resetCause_cause cause) Reg.resetCause_rail rail

/-- R561: bring-up starts at stage 1, unless something holds the device in reset. -/
def bootStart (s : State) : State :=
  if s.boot.perst || s.boot.railLow || s.boot.trip then s
  else report (setBoot s (fun b => { b with stage := 1, halted := false, log := [], lost := false })) 0 1 0 0

/-- PERST_RELEASE (R561, R590). -/
def execPerstRelease (s : State) : Host.Outcome State Fault Refusal :=
  .next (
    if !s.boot.perst then s
    else bootStart (setBoot s (fun b => { b with perst := false, trip := b.trip && decide (100 ≤ s.power.tj) })))

/-- PERST_ASSERT (R565, R595). -/
def execPerstAssert (s : State) : Host.Outcome State Fault Refusal :=
  .next (deviceReset (setBoot s (fun b => { b with perst := true })) 1 0)

/-- CXL_HOT_RESET (R565): a device that is held in reset has no CXL link. -/
def execCxlHotReset (s : State) : Host.Outcome State Fault Refusal :=
  .next (if s.boot.stage = 0 then s else bootStart (deviceReset s 2 0))

/-! ### Stage ends (R563, R566 to R568) -/

/-- R563: the code of a stage that chose between two copies, and its detail. -/
def copyReport (c : Nat × Nat) : Nat × Nat := (if c.1 = 0 ∧ c.2 = 0 then 1 else 2, c.1 + 256 * c.2)

/-- R18, R536: the mapped granules of a variant. -/
def granulesOf (variant : Nat) : Nat := if variant = 1 then 140625000 else 70312500

/-- R554, R556: what the registers load from the part record copy in use. -/
def loadPart (s : State) : State :=
  let c := partUse s
  let s1 := setD (set2 (setD s Reg.devId_variant (partVariant s c)) devBase Reg.serial_serialLo Reg.serial_serialHi 0
    (partNat s c 0x108 8)) Reg.hbmGranules_count (granulesOf (partVariant s c))
  let w := settingNat s 0x10 4
  let s2 := setB (setB (setB (setB s1 Reg.timeCtrl_leadRank (w % 4)) Reg.timeCtrl_lead (bits w 2 2)) Reg.timeCtrl_gnssEn
    (bits w 3 3)) Reg.gnssDelay_ns (bits w 31 16)
  let s3 := (List.range 96).foldl (fun t n => setL t Reg.linkCtrl_enable n (nat01 (bit (settingNat s 0x18 12) n))) s2
  let s4 := (List.range 12).foldl (fun t g => setG t Reg.groupCtrl_mode g (nat01 (bit (settingNat s 0x24 2) g))) s3
  let s5 := (List.range 96).foldl (fun t n => setL t Reg.linkState_mode n (getG t Reg.groupCtrl_mode (n / 8))) s4
  (List.range 8).foldl (fun t k => setUsed t k (partNat s c (retireList k) 4 % 2048)) s5

/-- R556: stage 2 ends. -/
def endPart (s : State) (ns : Nat) (x y : CopySeen) : State :=
  let c := (partCauseOf s 0 x, partCauseOf s 1 y)
  let s1 := setBoot s (fun b => { b with partCause := c })
  match chooseCopy c (partSeq s) with
  | none => bootHalt s1 ns 2 0x83 (copyReport c).2
  | some k => stagePass (loadPart (setBoot s1 (fun b => { b with part := some k }))) ns 2 (copyReport c).1 (copyReport c).2

/-- R559: stage 3 ends: firmware is chosen and started, or bring-up halts. -/
def endFirmware (s : State) (ns : Nat) (x y : FwSeen) : State :=
  let c := (fwCauseOf s 0 x, fwCauseOf s 1 y)
  let s1 := setBoot s (fun b => { b with fwCause := c })
  match chooseCopy c (fwSeq s) with
  | none => bootHalt s1 ns 3 0x84 (copyReport c).2
  | some k => stagePass (setBoot s1 (fun b => { b with fw := some k })) ns 3 (copyReport c).1 (copyReport c).2

/-- R554, R566: whether stack `k` may start from its saved settings. -/
def fastStack (s : State) (k : Nat) : Bool :=
  settingNat s 0 1 % 2 == 1 && settingNat s (0x100 + 0x10000 * k) 1 % 2 == 1

/-- A mask of the stacks that a test names. -/
def stackMask (p : Nat → Bool) : Nat := ((List.range 8).filter p).foldl (fun m k => m + 2 ^ k) 0

/-- R28: the retirement lists of the part record applied. -/
def applyRetired (s : State) : State :=
  let c := partUse s
  { s with hbm := { s.hbm with retired := (List.range 8).flatMap (fun k =>
      (List.range (partNat s c (retireList k) 4 % 2048)).map (fun i => (k, partNat s c (retireList k + 4 + 4 * i) 4))) } }

/-- R566: stage 6 ends. -/
def endTraining (s : State) (ns sweepBad trainBad : Nat) (density : List Nat) (data : List (Nat × List Byte)) : State :=
  let full := fun k => !fastStack s k || bit sweepBad k
  let failed := stackMask (fun k => full k && bit trainBad k)
  let need := if getD s Reg.devId_variant = 1 then 72 else 36
  let wrong := stackMask (fun k => density.getD k 0 != need)
  if failed ≠ 0 then bootHalt s ns 6 0x87 failed
  else if wrong ≠ 0 then bootHalt s ns 6 0x88 wrong
  else
    let saved := (data.filter (fun p => decide (p.1 < 8) && full p.1)).flatMap (fun p =>
      bytesWrites (0x10100 + 0x100 + 0x10000 * p.1) (1 :: p.2.take 0xFFFF))
    let again := if settingNat s 0 1 % 2 = 1 then stackMask full else 0
    stagePass (applyRetired (if saved.isEmpty then s else draftPut s saved)) ns 6 (if again = 0 then 1 else 2) again

/-- R10: the repair map of the part record in use is applied. -/
def applyRepair (s : State) : State :=
  setBoot s (fun b => { b with repair := (List.range 4).map (fun m => partNat s (partUse s) (0x110 + m) 1 % 64) })

/-- R10, R11: the physical Cell of logical index `i`, where physical Cell `d` is disabled. -/
def physicalIndex (d i : Nat) : Nat := if i < d then i else i + 1

/-- R10: the disabled physical Cell of a Mill; none before the repair map is applied. -/
def disabledCell (s : State) (m : Nat) : Option Nat := s.boot.repair[m]?

/-- R9, R10: the Mill and the physical Cell on which a logical Cell runs. -/
def physicalCell (s : State) (cell : Nat) : Option (Nat × Nat) :=
  (disabledCell s (cell / 32)).map (fun d => (cell / 32, physicalIndex d (cell % 32)))

/-- R10, R339: whether a physical Cell of a Mill has power and a place on the on-package network. -/
def cellOn (s : State) (m p : Nat) : Bool :=
  match disabledCell s m with
  | some d => bit (getD s Reg.dieReady_mills) m && decide (p ≤ 32) && p != d
  | none => false

/-- R22, R23: whether a slot of a stack is mapped. -/
def slotMapped (s : State) (st slot : Nat) : Bool :=
  (List.range 8).any (fun i =>
    decide (slot * 8 + i < getD s Reg.hbmGranules_count) && stackOf ((slot * 8 + i) * 4096) == st)

/-- R568: a slot that failed the test is retired, or never used as a spare; a stack whose list is full is noted. -/
def testSlot (acc : State × List Nat × Nat) (p : Nat × Nat) : State × List Nat × Nat :=
  let s := acc.1
  if !slotMapped s p.1 p.2 then
    ({ s with hbm := { s.hbm with badSpares := s.hbm.badSpares ++ [p] } }, acc.2)
  else if (retiredOf s p.1).contains p.2 then acc
  else if 1024 ≤ (retiredOf s p.1).length then (s, p.1 :: acc.2.1, acc.2.2)
  else (enterRetired s p.1 p.2, acc.2.1, acc.2.2 + 1)

/-- R567, R568: stage 7 ends. -/
def endTest (s : State) (ns : Nat) (bad : List (Nat × Nat)) : State :=
  let r := (bad.filter (fun p => decide (p.1 < 8))).foldl testSlot (s, [], 0)
  let mask := stackMask (fun k => r.2.1.contains k)
  if mask ≠ 0 then bootHalt r.1 ns 7 0x89 mask
  else stagePass r.1 ns 7 (if r.2.2 = 0 then 1 else 2) r.2.2

/-- R561: stage 4 ends: time runs from 0 and Landing B is awake. -/
def endClocks (s : State) (ns : Nat) (pll : Option Nat) : State :=
  match pll with
  | some p => bootHalt s ns 4 0x85 p
  | none => stagePass (setD { s with time := { s.time with running := true, tai := 0 } } Reg.dieReady_landb 1) ns 4 1 0

/-- R574: whether `ns` is 12 s or more after the present stage began. -/
def acquireOver (s : State) (ns : Nat) : Bool :=
  match s.boot.log.getLast? with
  | some r => decide (r.ns + 12000000000 ≤ ns)
  | none => true

/-- R574: stage 9 ends once the chip has time, or after 12 s. -/
def endAcquire (s : State) (ns : Nat) : State :=
  let st := getB s Reg.timeStatus_state
  if st = 2 ∨ st = 3 ∨ st = 5 then stagePass s ns 9 1 0
  else if acquireOver s ns then stagePass s ns 9 2 st
  else s

/-- R561, R563: the stage that runs ends as told. -/
def endStage (s : State) (ns : Nat) (e : StageEnd) : State :=
  match e, s.boot.stage with
  | .supply bad ok, 1 =>
    if bad % 256 ≠ 0 then bootHalt s ns 1 0x81 (bad % 256)
    else if !ok then bootHalt s ns 1 0x82 0
    else stagePass (setD s Reg.dieReady_landa 1) ns 1 1 0
  | .part x y, 2 => endPart s ns x y
  | .firmware x y, 3 => endFirmware s ns x y
  | .clocks p, 4 => endClocks s ns p
  | .mills m, 5 =>
    if m % 16 ≠ 0 then bootHalt s ns 5 0x86 (m % 16)
    else stagePass (setD (applyRepair s) Reg.dieReady_mills 15) ns 5 1 0
  | .training a b c d, 6 => endTraining s ns a b c d
  | .test bad, 7 => endTest s ns bad
  | .links, 8 =>
    let n := ((List.range 96).filter (fun k => getL s Reg.linkState_state k == 3)).length
    stagePass s ns 8 (if n = 0 then 1 else 2) n
  | .time, 9 => endAcquire s ns
  | _, _ => s

/-- BOOT_STAGE_END (R561): the stage that runs ends, `ns` after the release of PERST_N. -/
def execBootStageEnd (ns : Nat) (outcome : StageEnd) (s : State) : Host.Outcome State Fault Refusal :=
  .next (if s.boot.halted then s else endStage s ns outcome)

/-- FW_START_TIMEOUT (R560): the copy that stage 3 started is marked, and the other is started where it is valid. -/
def execFwStartTimeout (ns : Nat) (a b : FwSeen) (s : State) : Host.Outcome State Fault Refusal :=
  .next (
    if s.boot.stage ≠ 3 ∨ s.boot.halted then s
    else match chooseCopy (fwCauseOf s 0 a, fwCauseOf s 1 b) (fwSeq s) with
      | none => s
      | some k =>
        let s1 := setBoot s (fun b => { b with fwDead := b.fwDead ++ [k] })
        let c := (fwCauseOf s1 0 a, fwCauseOf s1 1 b)
        let s2 := setBoot s1 (fun b => { b with fwCause := c })
        if (chooseCopy c (fwSeq s)).isNone then bootHalt s2 ns 3 0x84 (copyReport c).2 else s2)

/-! ### What the DVSEC reports (R570) -/

/-- R570: Memory_Info_Valid of Range 1: from the end of stage 2. -/
def memInfoValid (s : State) : Bool := decide (3 ≤ s.boot.stage)

/-- R554, R570: Memory_Active_Timeout in seconds: 256 where full training or the full test is selected, else 64. -/
def memActiveTimeout (s : State) : Nat := if settingNat s 0 1 % 4 = 1 then 64 else 256

/-! ### Writing the part record (R557) -/

/-- R557: the flash with the other copy's body formed from the copy in use, the changes, and the next SEQ. -/
def newCopy (s : State) : List Host.Cell :=
  let c := partUse s
  let src := s.flash.filter (fun w => decide (partBase c ≤ w.1 ∧ w.1 < partBase c + partBytes))
  let base := partBase (1 - c)
  let rest := s.flash.filter (fun w => !decide (base ≤ w.1 ∧ w.1 < base + partBytes + 512))
  memWriteAll (memWriteAll (memWriteAll rest (src.map (fun w => (w.1 - partBase c + base, w.2))))
    (s.boot.draft.map (fun w => (w.1 + base, w.2)))) (natWrites (base + 8) 8 (partSeq s c + 1))

/-- R552, R557: the signed copy. -/
def signedCopy (s : State) : List Host.Cell :=
  let base := partBase (1 - partUse s)
  let f := newCopy s
  memWriteAll f (bytesWrites (base + partBytes) (signatureOf (memBytes f base partBytes)))

/-- A copy as it reads back, where `alt` names bytes that came out otherwise. -/
def readBack (s : State) (f : List Host.Cell) (alt : List (Nat × Byte)) : List Host.Cell :=
  memWriteAll f ((alt.filter (fun p => decide (p.1 < partBytes + 512))).map (fun p => (partBase (1 - partUse s) + p.1, p.2)))

/-- R557: whether changes are due: at ready, and at most once every 60 s. -/
def partDue (s : State) : Bool :=
  s.boot.stage == 10 && !s.boot.draft.isEmpty && !s.boot.heldBack &&
    (match s.boot.wroteAt with
      | none => true
      | some t => decide (t + 60000000000 ≤ s.time.tai))

/-- R557: the written copy becomes the copy in use. -/
def partWritten (s : State) (f : List Host.Cell) : State :=
  let k := 1 - partUse s
  setBoot { s with flash := f } (fun b =>
    { b with part := some k, draft := [], wroteAt := some s.time.tai
             partCause := if k = 0 then (0, b.partCause.2) else (b.partCause.1, 0) })

/-- PART_RECORD_WRITE (R557): the gathered changes are written; `first` and `second` name the bytes, as offset in the
copy, that the read-back of the first and of the second write finds otherwise. -/
def execPartRecordWrite (first second : List (Nat × Byte)) (s : State) : Host.Outcome State Fault Refusal :=
  .next (
    if !partDue s then s
    else
      let f := signedCopy s
      let s1 := countSha s partBytes
      if readBack s f first = f then partWritten s1 f
      else if readBack s f second = f then partWritten s1 f
      else sendVector (setBoot { s1 with flash := readBack s f second } (fun b =>
        { b with heldBack := true, wroteAt := some s.time.tai })) 0)

end Sys2Proof.Machine
end

