-- ==== Sys2Proof/Machine/Certificates.lean ====
section
/-!
DEFINITION. Certificate chains: RSASSA-PKCS1-v1_5 with SHA-512, the DER of X.509 certificates, and when a chain verifies
(R498 to R500).
-/

namespace Sys2Proof.Machine

/-! ### RSASSA-PKCS1-v1_5 (PKCS #1 v2.2, R494, R499) -/

/-- `b` to the power `e` modulo `m`, for exponents below 2 to the first argument. -/
def powMod (m : Nat) : Nat → Nat → Nat → Nat
  | 0, _, _ => 1 % m
  | n + 1, b, e =>
    let h := powMod m n (b * b % m) (e / 2)
    if e % 2 = 1 then b * h % m else h

/-- A big-endian value. -/
def bigEnd (bs : List Byte) : Nat := leNat bs.reverse

/-- The DER of the DigestInfo of a SHA-512 value, up to the value. -/
def shaInfo : List Byte :=
  [0x30, 0x51, 0x30, 0x0D, 0x06, 0x09, 0x60, 0x86, 0x48, 0x01, 0x65, 0x03, 0x04, 0x02, 0x03, 0x05, 0x00, 0x04, 0x40]

/-- The encoded message of `k` bytes for some signed bytes. -/
def signedForm (k : Nat) (bs : List Byte) : List Byte :=
  [0x00, 0x01] ++ List.replicate (k - 86) 0xFF ++ [0x00] ++ shaInfo ++ sha512 bs

/-- A public key: modulus and exponent. -/
structure PubKey where
  n : Nat
  e : Nat
  deriving DecidableEq, Repr

/-- The length in bytes of a modulus. -/
def keyBytes (k : PubKey) : Nat := ceilDiv (k.n.log2 + 1) 8

/-- Whether a signature of some bytes verifies under a key. -/
def rsaVerifies (k : PubKey) (bs sig : List Byte) : Bool :=
  let len := keyBytes k
  decide (94 ≤ len) && sig.length == len && decide (bigEnd sig < k.n) &&
    powMod k.n (k.e.log2 + 1) (bigEnd sig) k.e == bigEnd (signedForm len bs)

/-! ### DER (R499) -/

/-- A DER value: its tag, its contents, and all of its bytes. -/
structure DerVal where
  tag : Nat
  body : List Byte
  whole : List Byte
  deriving DecidableEq, Repr

/-- The length field at the head of some bytes, and the bytes that it takes. -/
def derLen (bs : List Byte) : Option (Nat × Nat) :=
  match bs with
  | [] => none
  | b :: r =>
    if b.toNat < 128 then some (b.toNat, 1)
    else
      let k := b.toNat - 128
      if k = 0 ∨ 4 < k ∨ r.length < k then none else some (bigEnd (r.take k), 1 + k)

/-- The first DER value of some bytes, and the bytes after it. -/
def derNext (bs : List Byte) : Option (DerVal × List Byte) :=
  match bs with
  | [] => none
  | t :: r =>
    match derLen r with
    | none => none
    | some (n, h) =>
      if r.length < h + n then none
      else some (⟨t.toNat, (r.drop h).take n, bs.take (1 + h + n)⟩, r.drop (h + n))

/-- The first `n` DER values of some bytes. -/
def derList : Nat → List Byte → Option (List DerVal)
  | 0, _ => some []
  | n + 1, bs =>
    match derNext bs with
    | none => none
    | some (v, r) => (derList n r).map (fun l => v :: l)

/-- The `n` DER values at the head of the contents of the sequence that some bytes begin with. -/
def derSeq (n : Nat) (bs : List Byte) : Option (List DerVal) :=
  match derNext bs with
  | some (v, _) => if v.tag = 0x30 then derList n v.body else none
  | none => none

/-- The contents of a BIT STRING of whole bytes. -/
def derBits (v : DerVal) : Option (List Byte) :=
  match v.tag, v.body with
  | 0x03, u :: r => if u = 0 then some r else none
  | _, _ => none

/-! ### Certificates (R499) -/

/-- A certificate: the bytes that are signed, the signature, the DER of SubjectPublicKeyInfo and its RSA key. -/
structure Cert where
  signed : List Byte
  sig : List Byte
  spki : List Byte
  key : PubKey
  deriving DecidableEq, Repr

/-- The DER of the object identifier of sha512WithRSAEncryption. -/
def shaRsaId : List Byte := [0x06, 0x09, 0x2A, 0x86, 0x48, 0x86, 0xF7, 0x0D, 0x01, 0x01, 0x0D]

/-- The DER of the object identifier of rsaEncryption. -/
def rsaId : List Byte := [0x06, 0x09, 0x2A, 0x86, 0x48, 0x86, 0xF7, 0x0D, 0x01, 0x01, 0x01]

/-- The RSA key of a SubjectPublicKeyInfo. -/
def spkiKey (bs : List Byte) : Option PubKey :=
  match derSeq 2 bs with
  | some [alg, bits] =>
    if alg.body.take 11 = rsaId then
      match (derBits bits).bind (derSeq 2) with
      | some [n, e] => if n.tag = 0x02 ∧ e.tag = 0x02 then some ⟨bigEnd n.body, bigEnd e.body⟩ else none
      | _ => none
    else none
  | _ => none

/-- The certificate of some DER bytes: an X.509 v3 certificate signed with sha512WithRSAEncryption. -/
def certOf (bs : List Byte) : Option Cert :=
  match derSeq 3 bs with
  | some [tbs, alg, sig] =>
    if alg.body.take 11 ≠ shaRsaId then none
    else match derSeq 7 tbs.whole, derBits sig with
      | some [ver, _, _, _, _, _, spki], some s =>
        if ver.tag ≠ 0xA0 then none else (spkiKey spki.whole).map (fun k => ⟨tbs.whole, s, spki.whole, k⟩)
      | _, _ => none
  | _ => none

/-! ### Chains (R499, R500) -/

/-- R499: the next certificate of a chain begins at a multiple of 16 from its first byte. -/
def certNext (at' len : Nat) : Nat := at' + 16 + ceilDiv len 16 * 16

/-- R499: the places of `n` certificates of a chain whose bytes `rd` gives, as offset and length, from offset `at'` on. -/
def certPlaces (rd : Nat → Nat → Nat) : Nat → Nat → List (Nat × Nat)
  | 0, _ => []
  | n + 1, at' => (at' + 16, rd at' 4) :: certPlaces rd n (certNext at' (rd at' 4))

/-- R499: the number of certificates of a chain; none where its header is not one. -/
def chainCount (rd : Nat → Nat → Nat) : Option Nat :=
  if rd 0 4 = 0x4E484343 ∧ (rd 4 1 = 2 ∨ rd 4 1 = 3) then some (rd 4 1) else none

/-- R499: the regions that a chain at local offset `a` takes. -/
def chainRegions (s : State) (a : Nat) : List Region :=
  let rd := fun (o n : Nat) => rdNat s (a + o) n
  ⟨a, 0, 1, 16⟩ ::
    (match chainCount rd with
     | none => []
     | some n => (certPlaces rd n 16).flatMap (fun p => [⟨a + p.1 - 16, 0, 1, 16⟩, ⟨a + p.1, 0, 1, p.2⟩]))

/-- R499: the certificates of a chain at local offset `a`, leaf first; none where one is not well formed. -/
def chainCerts (s : State) (a : Nat) : Option (List Cert) :=
  let rd := fun (o n : Nat) => rdNat s (a + o) n
  match chainCount rd with
  | none => none
  | some n =>
    let cs := (certPlaces rd n 16).map (fun p => certOf (rdBytes s (a + p.1) p.2))
    if cs.all (fun c => c.isSome) then some (cs.filterMap id) else none

/-- R500: each certificate's signature verifies under the key of the next one. -/
def linksVerify : List Cert → Bool
  | c :: d :: r => rsaVerifies d.key c.signed c.sig && linksVerify (d :: r)
  | _ => true

/-- R498: the hash of the root's public key in mask ROM. -/
def romHash : List Byte := (List.range 64).map Config.rootHash

/-- R500: whether a chain verifies some signed bytes: each certificate under the next one's key, the last one's key by the
mask-ROM hash, and the bytes under the leaf's key. -/
def certsVerify (cs : List Cert) (bs sig : List Byte) : Bool :=
  linksVerify cs && (cs.getLast?.map (fun c => sha512 c.spki == romHash)).getD false &&
    (cs.head?.map (fun c => rsaVerifies c.key bs sig)).getD false

/-- R500: whether the chain at local offset `a` verifies some signed bytes. -/
def chainVerifies (s : State) (a : Nat) (bs sig : List Byte) : Bool :=
  match chainCerts s a with
  | some cs => certsVerify cs bs sig
  | none => false

end Sys2Proof.Machine
end

