-- ==== Sys2Proof/Machine/TruMath.lean ====
section
/-!
DEFINITION. The arithmetic of the Truing Unit: factorisation columns, Jacobi rotations, and residuals on the FP64 lanes
(R202 to R204, R207, R209).
-/

namespace Sys2Proof.Machine

/-! ### Pivots (R204) -/

/-- How a try stops: ILL_CONDITIONED or NOT_POSITIVE, the reason, the column, and the value where there is one. -/
structure Stop where
  ill : Bool
  reason : Nat
  col : Nat
  val : Option FVal
  deriving DecidableEq, Repr

/-- R204: the first pivot test that holds for `d`. -/
def pivotTest (thr d : FVal) : Option (Bool × Nat) :=
  if fvNonFinite d then some (false, 2)
  else if fvIsZero d then some (false, 0)
  else if fvNeg d then some (false, 1)
  else if fvLt d thr then some (true, 3)
  else if fvLt d (.fin false 1 (-126)) then some (true, 4)
  else none

/-- A matrix built from its elements. -/
def matGen (m n : Nat) (f : Nat → Nat → FVal) : Mat := (List.range m).map (fun i => (List.range n).map (fun j => f i j))

/-- Some rows and columns of a matrix. -/
def matSub (a : Mat) (is js : List Nat) : Mat := is.map (fun i => js.map (fun j => matAt a i j))

/-- A matrix with the columns `js` replaced by those of another, in order. -/
def putCols (a : Mat) (js : List Nat) (b : Mat) : Mat :=
  ((List.range a.length).zip a).map (fun p => ((List.range p.2.length).zip p.2).map (fun q =>
    match js.findIdx? (fun j => j == q.1) with
    | some k => matAt b p.1 k
    | none => q.2))

/-- A matrix with the rows `is` replaced by those of another, in order. -/
def putRows (a : Mat) (is : List Nat) (b : Mat) : Mat :=
  ((List.range a.length).zip a).map (fun p =>
    match is.findIdx? (fun i => i == p.1) with
    | some k => b.getD k []
    | none => p.2)

/-- The identity of order `n`. -/
def matId (n : Nat) : Mat := matGen n n (fun i j => if i = j then fvOfNat 1 else fvZero)

/-! ### Columns (R202, R203) -/

/-- A factorisation under way: the matrix, D, the unscaled columns of the panel, how it stopped, and the pipe results.
-/
structure PanSt where
  a : Mat
  d : List FVal
  w : List (List FVal)
  stop : Option Stop
  pipes : Nat
  deriving DecidableEq, Repr

/-- R202, R203: the column step of column `j` in a panel that ends before column `e`. -/
def facColumn (ldl : Bool) (thr : FVal) (e : Nat) (x : PanSt) (j : Nat) : PanSt :=
  if x.stop.isSome then x
  else
    let d := matAt x.a j j
    match pivotTest thr d with
    | some t => { x with stop := some ⟨t.1, t.2, j, some d⟩ }
    | none =>
      let r := if ldl then divTo .fp32 (fvOfNat 1) d else rsqrtTo .fp32 d
      let w := x.a.map (fun row => row.getD j fvZero)
      let c := ((List.range w.length).zip w).map (fun p => if j < p.1 then r32 (fvMul p.2 r) else p.2)
      let diag := if ldl then fvOfNat 1 else sqrtTo .fp32 d
      let other := fun k => if ldl then w.getD k fvZero else c.getD k fvZero
      let rows := ((List.range x.a.length).zip x.a).map (fun p =>
        if p.1 < j then p.2
        else ((List.range p.2.length).zip p.2).map (fun q =>
          if q.1 = j then (if p.1 = j then diag else c.getD p.1 fvZero)
          else if j < q.1 ∧ q.1 < e ∧ q.1 ≤ p.1 then fma32 (fvNegate (c.getD p.1 fvZero)) (other q.1) q.2
          else q.2))
      { x with a := rows, d := x.d ++ [d], w := x.w ++ [w], pipes := x.pipes + (if ldl then 1 else 2) }

/-- The lower triangle of F with λ on its diagonal, over what a buffer held above it. -/
def dampLower (n : Nat) (f : Mat) (lam : FVal) (above : Mat) : Mat :=
  matGen n n (fun i j => if i = j then r32 (fvAdd (matAt f i i) lam) else if j < i then matAt f i j else matAt above i j)

/-- R207, R209: A′ in full symmetric form. -/
def dampFull (n : Nat) (f : Mat) (lam : FVal) : Mat :=
  matGen n n (fun i j => if i = j then r32 (fvAdd (matAt f i i) lam) else matAt f (max i j) (min i j))

/-- R202: maxdiag. -/
def maxDiag (n : Nat) (a : Mat) : FVal := fvAmax ((List.range n).map (fun j => matAt a j j))

/-- R202: the lowest column of the lower triangle of F that holds an infinity or a NaN. -/
def badColumn (n : Nat) (f : Mat) : Option Nat :=
  (List.range n).find? (fun j => (List.range n).any (fun i => decide (j ≤ i) && fvNonFinite (matAt f i j)))

/-! ### Residuals (R207) -/

/-- R207: element `i` of probe vector `q` for a record. -/
def probeAt (record q i : Nat) : FVal :=
  if bit (quadAt (philox ⟨i / 4, q, record, 0x54525547⟩ 0 0) (i % 4)) 31 then fvNegate (fvOfNat 1) else fvOfNat 1

/-- R207: a probe vector. -/
def probe (record n q : Nat) : List FVal := (List.range n).map (probeAt record q)

/-- R207: a matrix times a vector on the FP64 lanes. -/
def matVec64 (a : Mat) (v : List FVal) : List FVal := a.map (fun row => sum64 ((row.zip v).map (fun p => r64 (fvMul p.1 p.2))))

/-- R207: a norm on the FP64 lanes. -/
def norm64 (v : List FVal) : FVal := sqrtTo .fp64 (sum64 (v.map (fun x => r64 (fvMul x x))))

/-- R207: two vectors combined element by element on the FP64 lanes. -/
def vec64 (f : FVal → FVal → FVal) (a b : List FVal) : List FVal := (a.zip b).map (fun p => r64 (f p.1 p.2))

/-- R207: ρ_q of z and y. -/
def rhoOf (z y : List FVal) : FVal :=
  if fvIsZero (norm64 y) then decodeCode .fp32 0x7F7FFFFF else divTo .fp64 (norm64 (vec64 fvSub z y)) (norm64 y)

/-- The larger of two measures; NaN where either is NaN. -/
def worseRho (a b : FVal) : FVal := if fvIsNan a then a else if fvIsNan b then b else if fvLt a b then b else a

/-- R207: a non-negative value rounded to FP32 toward +∞. -/
def codeUp (v : FVal) : Nat :=
  let c := (convert .fp32 .rz v).1
  if fvLt (decodeCode .fp32 c) v then c + 1 else c

/-- What a residual is taken of (R207): a Cholesky or LDLᵀ factor, an eigenbasis, or a root of degree p. -/
inductive FacKind where
  | chol | ldl | eig | root (p : Nat)
  deriving DecidableEq, Repr

/-- R207: z and y of one probe. -/
def residPair (k : FacKind) (n : Nat) (af a : Mat) (d v : List FVal) : List FVal × List FVal :=
  match k with
  | .chol => (matVec64 a (matVec64 (matTr n a) v), matVec64 af v)
  | .ldl => (matVec64 a (vec64 fvMul d (matVec64 (matTr n a) v)), matVec64 af v)
  | .eig => (matVec64 a (vec64 fvMul d (matVec64 (matTr n a) v)), matVec64 af v)
  | .root p => ((List.range p).foldl (fun u _ => matVec64 a u) (matVec64 af v), v)

/-- R207: ρ as an FP32 code, of a candidate `a` with vector `d` against A′. -/
def residCode (k : FacKind) (record n : Nat) (af a : Mat) (d : List FVal) : Nat :=
  let rho := fun q =>
    let zy := residPair k n af a d (probe record n q)
    rhoOf zy.1 zy.2
  codeUp (worseRho (rho 0) (rho 1))

/-! ### Jacobi (R209) -/

/-- R209: the rotation of one pair, as s and c. -/
def rotation (x y z : FVal) : FVal × FVal :=
  let th := divTo .fp32 (r32 (fvSub z x)) (r32 (fvMul (fvOfNat 2) y))
  let t := if !fvLt (fvAbs th) (.fin false 1 63) then divTo .fp32 (.fin false 1 (-1)) th
    else
      let q := divTo .fp32 (fvOfNat 1) (r32 (fvAdd (fvAbs th) (sqrtTo .fp32 (fma32 th th (fvOfNat 1)))))
      if fvNeg th then fvNegate q else q
  let c := rsqrtTo .fp32 (fma32 t t (fvOfNat 1))
  (r32 (fvMul t c), c)

/-- R209: columns `a` and `c` of a matrix rotated. -/
def rotCols (s c : FVal) (i j : Nat) (m : Mat) : Mat :=
  m.map (fun row =>
    let x := row.getD i fvZero
    let y := row.getD j fvZero
    (row.set i (fma32 (fvNegate s) y (r32 (fvMul c x)))).set j (fma32 s x (r32 (fvMul c y))))

/-- R209: rows `a` and `c` of a matrix rotated. -/
def rotRows (s c : FVal) (i j : Nat) (m : Mat) : Mat :=
  let x := m.getD i []
  let y := m.getD j []
  (m.set i ((x.zip y).map (fun p => fma32 (fvNegate s) p.2 (r32 (fvMul c p.1))))).set j
    ((x.zip y).map (fun p => fma32 s p.1 (r32 (fvMul c p.2))))

/-- R209: the pairs a < c in row order. -/
def jacPairs (m : Nat) : List (Nat × Nat) :=
  (List.range m).flatMap (fun i => ((List.range m).filter (fun j => decide (i < j))).map (fun j => (i, j)))

/-- R209: one pair of a sweep over S and G, with the pipe results. -/
def jacStep (x : Mat × Mat × Nat) (p : Nat × Nat) : Mat × Mat × Nat :=
  let y := matAt x.1 p.1 p.2
  if fvIsZero y then x
  else
    let th := divTo .fp32 (r32 (fvSub (matAt x.1 p.2 p.2) (matAt x.1 p.1 p.1))) (r32 (fvMul (fvOfNat 2) y))
    let r := rotation (matAt x.1 p.1 p.1) y (matAt x.1 p.2 p.2)
    (rotRows r.1 r.2 p.1 p.2 (rotCols r.1 r.2 p.1 p.2 x.1), rotCols r.1 r.2 p.1 p.2 x.2.1,
      x.2.2 + (if fvLt (fvAbs th) (.fin false 1 63) then 4 else 3))

/-- R209: jacobi(S) of order `m`: G and the pipe results. -/
def jacobi (m : Nat) (a : Mat) : Mat × Nat :=
  let ps := jacPairs m
  ((ps ++ ps ++ ps).foldl jacStep (a, matId m, 0)).2

/-- R209: the pairs of a round, each ordered low, high, in ascending u; a pair with the padding block is omitted. -/
def roundPairs (nb rnd : Nat) : List (Nat × Nat) :=
  let nb2 := nb + nb % 2
  let n1 := nb2 - 1
  let raw := (rnd, n1) :: (List.range (nb2 / 2 - 1)).map (fun k => ((rnd + (k + 1)) % n1, (rnd + n1 - (k + 1) % n1) % n1))
  List.insertionSort (fun (a b : Nat × Nat) => a.1 ≤ b.1)
    ((raw.map (fun p => (min p.1 p.2, max p.1 p.2))).filter (fun p => p.2 != nb))

/-- The columns of block `u` of `n`. -/
def blockOf (n u : Nat) : List Nat := ((List.range 128).map (fun i => 128 * u + i)).filter (fun i => decide (i < n))

end Sys2Proof.Machine
end

