-- ==== Sys2Proof/Machine/Truing.lean ====
section
/-!
DEFINITION. The Truing Unit: STAT_FOLD, CHOLESKY, LDLT, TRSOLVE, EIG and INVROOT, their order on a record, tries and
promotion (R186 to R224).
-/

namespace Sys2Proof.Machine

/-! ### The bodies (R219 to R221) -/

/-- R219 to R221: RECORD. -/
def tRecord (d : Desc) : Nat := dfld d 0x20 9 0
/-- R219: ENTRY. -/
def sfEntry (d : Desc) : Nat := dfld d 0x22 7 0
/-- R219: R. -/
def sfR (d : Desc) : Nat := dfld d 0x24 23 0
/-- R220: SWEEPS. -/
def tSweeps (d : Desc) : Nat := dfld d 0x22 3 0
/-- R220: METHOD. -/
def tMethod (d : Desc) : Nat := dfld d 0x22 4 4
/-- R220: p. -/
def tP (d : Desc) : Nat := if dfld d 0x22 5 5 = 1 then 4 else 2
/-- R220: MAXITER. -/
def tMaxiter (d : Desc) : Nat := dfld d 0x23 7 0
/-- R220: DEADLINE_TICK. -/
def tDeadline (d : Desc) : Nat := dfld d 0x28 63 0
/-- R221: MODE. -/
def tsMode (d : Desc) : Nat := dfld d 0x22 1 0
/-- R221: M. -/
def tsM (d : Desc) : Nat := dfld d 0x38 23 0

/-- The Mill block of a Truing operation. -/
def tMill (d : Desc) : Nat := millBase (oneMill d)

/-- R189: the Cells of a Truing operation's products. -/
def tCells (d : Desc) : List Nat := millCells (oneMill d)

/-! ### Records (R195, R196) -/

/-- R196: the lower triangle and what lies above it of F. -/
def facF (s : State) (x : Nat) : Mat := rdMat s (facStat s x) (facPitch (facN s x)) (facN s x) (facN s x)

/-- R197: the candidate buffer of a record. -/
def facCand (s : State) (x : Nat) : Nat := facBuf s x (1 - facSel s x)

/-- R222: whether a record breaks a condition of code 0x143. -/
def facRecordBad (s : State) (x : Nat) : Bool :=
  let n := facN s x
  let off := fun (a : Nat) (r : Region) => a % 64 != 0 || !inHbm s a (regionEnd r - a)
  n == 0 || decide (16384 < n) || off (facStat s x) (facRegion (facStat s x) n) ||
    off (facBuf s x 0) (bufRegion (facBuf s x 0) n) || off (facBuf s x 1) (bufRegion (facBuf s x 1) n) ||
    off (facWork s x) ⟨facWork s x, workPitch n, 4 * n + 256, workPitch n⟩ ||
    fvNonFinite (facLambda s x) || fvLt (facLambda s x) fvZero || fvNonFinite (facTau s x) || fvLt (facTau s x) fvZero ||
    !fvLt (facTau s x) (fvOfNat 1) || fvNonFinite (facGrowth s x) || fvLt (facGrowth s x) (fvOfNat 1) ||
    fvNonFinite (facTol s x) || !fvLt fvZero (facTol s x)

/-- R195, R213: whether the park area of ELASTIC work lies outside the Decks. -/
def facParkBad (s : State) (d : Desc) : Bool :=
  dElastic d && (decide (facPark s (tRecord d) < 0x21000000000) || (unmappedIn s (facPark s (tRecord d)) 65536).isSome)

/-! ### Order on a record (R198, R199) -/

/-- R218: whether an operation writes its record. -/
def isTruWriter (o : Op) : Bool := [0x0300, 0x0310, 0x0311, 0x0330, 0x0340].contains (dOpcode o.d)

/-- Whether an operation is one of class 0x03. -/
def isTruing (o : Op) : Bool := isTruWriter o || dOpcode o.d == 0x0320

/-- R198, R199: whether an operation reads the buffer that is now a record's candidate. -/
def readsCand (s : State) (x : Nat) (o : Op) : Bool :=
  o.facs.any (fun r => r.num == x && r.gen != 0 && r.sel % 2 == (1 - facSel s x) % 2)

/-- R199: whether an operation waits for its record: an earlier writer of it has not ended, or a reader holds the
candidate that it would write. -/
def truWaits (s : State) (o : Op) : Bool :=
  let x := tRecord o.d
  isTruWriter o &&
    (s.ops.any (fun p => decide (p.seq < o.seq) && isTruWriter p && tRecord p.d == x) ||
      (dOpcode o.d != 0x0300 && s.ops.any (fun p => !isOp o.ctx o.idx p && readsCand s x p)))

/-! ### Faults and the beginning -/

/-- R208: the regions B and X. -/
def tsRegions (s : State) (d : Desc) : List Region :=
  let n := facN s (tRecord d)
  [⟨slotOff d 0x28, slotPitch d 0x28, n, 4 * tsM d⟩, ⟨slotOff d 0x30, slotPitch d 0x30, n, 4 * tsM d⟩]

/-- R192: the packed length of a sample row. -/
def smpRow (s : State) (e : Nat) : Nat := packedLen (fmtWidth (fwFmtD (sideFmt s e))) (sideK s e)

/-- R192, R201: the sample rows that a fold reads. -/
def smpRegions (s : State) (d : Desc) : List Region :=
  let e := sfEntry d
  ⟨sideSamples s e, up16 (smpRow s e), sfR d, smpRow s e⟩ ::
    (if fwMx (sideFmt s e) then [⟨sideScales s e, up16 (ceilDiv (sideK s e) 32), sfR d, ceilDiv (sideK s e) 32⟩] else [])

/-- R201, R208, R222: whether an operation breaks a condition of code 0x144. -/
def truDisagrees (s : State) (d : Desc) : Bool :=
  let x := tRecord d
  if dOpcode d = 0x0320 then facKind s x != 1 && facKind s x != 2
  else dOpcode d == 0x0300 && (decide (sideCap s (sfEntry d) < sfR d) || sideK s (sfEntry d) != facN s x)

/-- The execution fault of a Truing operation. -/
def truFault (s : State) (o : Op) : Option (Nat × Nat) :=
  let d := o.d
  let x := tRecord d
  match accessFault s (⟨facAddr s x, 0, 1, 128⟩ :: (if dOpcode d = 0x0300 then [⟨sideAddr s (sfEntry d), 0, 1, 32⟩] else [])) with
  | some e => some e
  | none =>
    match accessFault s (if dOpcode d = 0x0320 then tsRegions s d else if dOpcode d = 0x0300 then smpRegions s d else []) with
    | some e => some e
    | none =>
      if dEval d && isTruWriter o then some (0x0A, 0)
      else if dOpcode d = 0x0320 ∧ (outFault s d (tsRegions s d).tail).isSome then outFault s d (tsRegions s d).tail
      else if facRecordBad s x || facParkBad s d then some (0x143, 0)
      else if truDisagrees s d then some (0x144, 0)
      else none

/-- R198, R199: a Truing operation begins: its faults, the factor it reads, and whether it has to wait. -/
def truBegin (s : State) (ctx idx : Nat) : State :=
  match findOp s ctx idx with
  | none => s
  | some o =>
    let s1 := if dOpcode o.d = 0x0320 then updOp s ctx idx (fun p => { p with facs := [facRead s (tRecord o.d)] }) else s
    faultOr s ctx idx (truFault s o) (if truWaits s1 o then countF s1 (tMill o.d) Reg.truWaits_count 0 1 else s1)

/-- R189: whether a product of a Truing operation has failed, so that the operation has ended. -/
def truFailed (s : State) (o : Op) : Bool := prodFailed s o.ctx o.idx

/-- Whether a Truing operation may work now: in its slot, outside a Brake, and with its record free. -/
def truReady (s : State) (o : Op) : Bool := !slotOver s o && !unitsHeld s && !truWaits s o

/-! ### STAT_FOLD (R201) -/

/-- R192, R201: element `k` of sample row `r` as an FP32 value. -/
def smpVal (s : State) (e r k : Nat) : FVal :=
  let off := sideSamples s e + r * up16 (smpRow s e)
  let f := fwFmtD (sideFmt s e)
  let c := memCode s off (fmtWidth f) k
  r32 (if fwMx (sideFmt s e) then
      decodeScaled f (memRead s.mem (sideScales s e + r * up16 (ceilDiv (sideK s e) 32) + k / 32)).toNat c
    else decodeCode f c)

/-- R201, R202: the tiles on or below the diagonal. -/
def lowTile (n t : Nat) : Bool := decide (64 * (t % tileCols n) ≤ 128 * (t / tileCols n) + 127)

/-- A product's value at a place, or `old` where its tile was not formed. -/
def prodAt (ps : List ((Nat × Nat) × FVal)) (i j : Nat) (old : FVal) : FVal :=
  match ps.find? (fun p => p.1 == (i, j)) with
  | some p => p.2
  | none => old

/-- R201, R169: a non-finite value on the lanes flags the Mill's first Cell. -/
def truFlag (s : State) (o : Op) (b : Bool) : State :=
  let hit : Bool := b && !dEval o.d
  event (flagCell s ((oneMill o.d) * 32) hit) (cellBase ((oneMill o.d) * 32)) 0x0B (nat01 hit)

/-- R201: the samples are folded into F, and the operation ends. -/
def statFold (s : State) (o : Op) : State :=
  let d := o.d
  let x := tRecord d
  let n := facN s x
  let sm := matGen (sfR d) n (smpVal s (sfEntry d))
  let g := arrProduct s o.ctx o.idx (tCells d) (prodSpec n n (sfR d) (matTr n sm) sm none) (lowTile n)
  let al := uF32 d 0x28
  let be := uF32 d 0x2C
  let f := facF s x
  let low := matGen n n (fun i j => if j ≤ i then
      fma32 al (prodAt g.2 i j fvZero) (if fvIsZero be then fvZero else r32 (fvMul be (matAt f i j)))
    else fvZero)
  let new := matGen n n (fun i j => matAt low (max i j) (min i j))
  let bad : Bool := sm.flatten.any fvNonFinite || low.flatten.any fvNonFinite
  if truFailed g.1 o then g.1
  else
    let s1 := wrMem (truFlag g.1 o bad) (matWrites (facStat s x) (facPitch n) new)
    finishOp (holdTrain s (wrNat s1 (facAddr s x + 0x38) 4 (facFolds s x + 1)) o.ctx o.idx) o.ctx o.idx

/-- STAT_FOLD (R201); `upsets` are the runs of product tiles that an upset changes (R189). -/
def execStatFold (ctx idx : Nat) (upsets : List TileUpset) (s : State) : Host.Outcome State Fault Refusal :=
  .next (onOp s ctx idx 0x0300 (fun o =>
    if !truReady s o then s else withUpsets s ctx idx upsets (fun t => statFold t o)))

/-! ### One try (R202, R203, R209 to R211) -/

/-- What a try leaves: the state of its products, the candidate's matrix and vector (none where nothing was written),
how it stopped, its maxdiag, its pipe results, and its writes to WORK. -/
structure TryOut where
  st : State
  cand : Option (Mat × List FVal)
  stop : Option Stop
  maxd : Option FVal
  pipes : Nat
  ws : List Host.Cell

/-- R196: part `k` of WORK, row `i`, byte `b`. -/
def workAt (s : State) (x k i b : Nat) : Nat := facWork s x + (k * facN s x + i) * workPitch (facN s x) + b

/-- R203: the writes of a panel's W that begins at column `p`. -/
def panelW (s : State) (x p : Nat) (cols : List (List FVal)) : List Host.Cell :=
  ((List.range cols.length).zip cols).flatMap (fun c =>
    (((List.range c.2.length).zip c.2).filter (fun e => decide (p + c.1 < e.1))).flatMap (fun e =>
      natWrites (workAt s x 0 (e.1 - p) (4 * c.1)) 4 (code32 e.2)))

/-- R202, R203: one panel from column `p`: its columns, then its trailing update on the arrays. -/
def facPanel (o : Op) (x n : Nat) (ldl : Bool) (thr : FVal) (acc : State × PanSt × List Host.Cell) (p : Nat) :
    State × PanSt × List Host.Cell :=
  if acc.2.1.stop.isSome || truFailed acc.1 o then acc
  else
    let b := min 128 (n - p)
    let y := ((List.range b).map (fun i => p + i)).foldl (facColumn ldl thr (p + b)) { acc.2.1 with w := [] }
    let ws := acc.2.2 ++ (if ldl then panelW acc.1 x p y.w else [])
    if y.stop.isSome ∨ n ≤ p + b then (acc.1, y, ws)
    else
      let m := n - p - b
      let a21 := (y.a.drop (p + b)).map (fun row => (row.drop p).take b)
      let w21 := if ldl then matGen m b (fun i j => (y.w.getD j []).getD (p + b + i) fvZero) else a21
      let c := (y.a.drop (p + b)).map (fun row => row.drop (p + b))
      let r := arrProduct acc.1 o.ctx o.idx (tCells o.d)
        (prodSpec m m b (a21.map (fun row => row.map fvNegate)) (matTr b w21) (some c)) (lowTile m)
      let new := matGen n n (fun i j =>
        if p + b ≤ i ∧ p + b ≤ j then prodAt r.2 (i - p - b) (j - p - b) (matAt y.a i j) else matAt y.a i j)
      (r.1, { y with a := new }, ws)

/-- R202, R203: a try of CHOLESKY or LDLT. -/
def facTry (s : State) (o : Op) (ldl : Bool) (lam : FVal) : TryOut :=
  let x := tRecord o.d
  let n := facN s x
  let f := facF s x
  match badColumn n f with
  | some j => ⟨s, none, some ⟨false, 2, j, none⟩, none, 0, []⟩
  | none =>
    let a := dampLower n f lam (rdMat s (facCand s x) (facPitch n) n n)
    let md := maxDiag n a
    let thr := r32 (fvMul (facTau s x) md)
    let r := ((List.range (ceilDiv n 128)).map (fun k => 128 * k)).foldl (facPanel o x n ldl thr) (s, ⟨a, [], [], none, 0⟩, [])
    let y := r.2.1
    match y.stop with
    | some t => ⟨r.1, some (y.a, rdMat s (facCand s x + n * facPitch n) 0 1 n |>.flatten), some t, some md, y.pipes, r.2.2⟩
    | none => ⟨r.1, some (matGen n n (fun i j => if j ≤ i then matAt y.a i j else fvZero),
        if ldl then y.d else List.replicate n fvZero), none, some md, y.pipes, r.2.2⟩

/-- R209: an eigendecomposition under way: products' state, A, Q, the writes of every G to the rotation part
of WORK (R196), and the pipe results. -/
structure EigSt where
  st : State
  a : Mat
  q : Mat
  ws : List Host.Cell
  pipes : Nat

/-- R209: one pair of blocks. -/
def eigPair (o : Op) (n : Nat) (e : EigSt) (uw : Nat × Nat) : EigSt :=
  if truFailed e.st o then e else
  let is := blockOf n uw.1 ++ blockOf n uw.2
  let all := List.range n
  let m := is.length
  let j := jacobi m (matSub e.a is is)
  let mul := fun (t : State) (r c : Nat) (a b : Mat) => arrMul t o.ctx o.idx (tCells o.d) r c m a b none
  let p1 := mul e.st n m (matSub e.a all is) j.1
  let a1 := putCols e.a is p1.2
  let p2 := mul p1.1 m n (matTr m j.1) (matSub a1 is all)
  let a2 := putRows a1 is p2.2
  let p3 := mul p2.1 n m (matSub e.q all is) j.1
  ⟨p3.1, a2, putCols e.q is p3.2, e.ws ++ matWrites (workAt e.st (tRecord o.d) 4 0 0) (workPitch n) j.1, e.pipes + j.2⟩

/-- R209, R210: Λ ascending and Q with its columns to match. -/
def eigRun (s : State) (o : Op) (af : Mat) : EigSt × List FVal :=
  let n := af.length
  let nb := ceilDiv n 128
  let rounds := (List.range (tSweeps o.d)).flatMap (fun _ => List.range (nb + nb % 2 - 1))
  let e := rounds.foldl (fun e r => (roundPairs nb r).foldl (eigPair o n) e) ⟨s, af, matId n, [], 0⟩
  let ord := List.insertionSort (fun (a b : FVal × Nat) => fvLe a.1 b.1 = true)
    ((List.range n).map (fun i => (matAt e.a i i, i)))
  ({ e with q := matGen n n (fun i j => matAt e.q i (ord.getD j (fvZero, 0)).2) }, ord.map (fun p => p.1))

/-- R196: the writes of Q and of every G to WORK. -/
def eigWork (s : State) (x : Nat) (e : EigSt) : List Host.Cell :=
  let n := facN s x
  matWrites (facWork s x) (workPitch n) e.q ++ e.ws

/-- R209, R210: a try of EIG. -/
def eigTry (s : State) (o : Op) (lam : FVal) : TryOut :=
  let x := tRecord o.d
  let n := facN s x
  let af := dampFull n (facF s x) lam
  let r := eigRun s o af
  ⟨r.1.st, some (r.1.q, r.2), none, some (maxDiag n af), r.1.pipes, eigWork s x r.1⟩

/-- R211: the first eigenvalue that fails a pivot test. -/
def eigStop (thr : FVal) (ls : List FVal) : Option Stop :=
  ((List.range ls.length).zip ls).findSome? (fun p => (pivotTest thr p.2).map (fun t => ⟨t.1, t.2, p.1, some p.2⟩))

/-- R211: a try of INVROOT with METHOD 1. -/
def rootTry (s : State) (o : Op) (lam : FVal) : TryOut :=
  let x := tRecord o.d
  let n := facN s x
  let af := dampFull n (facF s x) lam
  let r := eigRun s o af
  let md := some (maxDiag n af)
  match eigStop (r32 (fvMul (facTau s x) (fvAmax r.2))) r.2 with
  | some t => ⟨r.1.st, some (r.1.q, r.2), some t, md, r.1.pipes, eigWork s x r.1⟩
  | none =>
    let w := r.2.map (fun l => if tP o.d = 2 then rsqrtTo .fp32 l else rsqrtTo .fp32 (sqrtTo .fp32 l))
    let qw := r.1.q.map (fun row => (row.zip w).map (fun p => r32 (fvMul p.1 p.2)))
    let m := arrMul r.1.st o.ctx o.idx (tCells o.d) n n n qw (matTr n r.1.q) none
    ⟨m.1, some (m.2, List.replicate n fvZero), none, md, r.1.pipes + (if tP o.d = 2 then 1 else 2) * n, eigWork s x r.1⟩

/-- The try of an operation with a damping. -/
def tryRun (s : State) (o : Op) (lam : FVal) : TryOut :=
  if dOpcode o.d = 0x0310 then facTry s o false lam
  else if dOpcode o.d = 0x0311 then facTry s o true lam
  else if dOpcode o.d = 0x0330 then eigTry s o lam
  else rootTry s o lam

/-- R207: what the residual of an operation is taken of. -/
def tKind (d : Desc) : FacKind :=
  if dOpcode d = 0x0310 then .chol else if dOpcode d = 0x0311 then .ldl else if dOpcode d = 0x0330 then .eig
  else .root (tP d)

/-- R195: KIND of what an operation promotes. -/
def kindCode : FacKind → Nat
  | .chol => 1
  | .ldl => 2
  | .eig => 3
  | .root p => if p = 2 then 4 else 5

/-! ### Tries, residuals and promotion (R197, R205, R206) -/

/-- The candidate's matrix part and vector part written. -/
def wrCand (s : State) (x : Nat) (c : Option (Mat × List FVal)) : State :=
  match c with
  | none => s
  | some (a, v) => wrMem s (matWrites (facCand s x) (facPitch (facN s x)) (a ++ [v]))

/-- R195: the TRY entry of try `t`. -/
def wrTry (s : State) (x t col status lam : Nat) : State :=
  wrNat s (facAddr s x + 0x60 + 8 * t) 8 (col % 2 ^ 24 + status * 2 ^ 24 + lam * 2 ^ 32)

/-- R195: LAST_COLUMN and LAST_STATUS. -/
def wrLast (s : State) (x col status : Nat) : State := wrNat s (facAddr s x + 0x48) 4 (col % 2 ^ 24 + status * 2 ^ 24)

/-- R195: LAST_TRIES. -/
def wrTries (s : State) (x n : Nat) : State := wrBits s (facAddr s x + 0x54) 7 4 n

/-- R197: promotion of a record's candidate. -/
def promote (s : State) (x kind folds lam iters tries : Nat) : State :=
  let a := facAddr s x
  let g := if facGen s x = 2 ^ 32 - 1 then 1 else facGen s x + 1
  let s1 := wrBits (wrBits s (a + 0x20) 21 21 (1 - facSel s x)) (a + 0x20) 20 18 kind
  let s2 := wrNat (wrNat (wrNat s1 (a + 0x24) 4 g) (a + 0x3C) 4 folds) (a + 0x40) 4 lam
  wrBits (wrBits s2 (a + 0x44) 7 0 iters) (a + 0x44) 15 8 tries

/-- The status of a stop. -/
def stopStatus (t : Stop) : Status := if t.ill then .illConditioned else .notPositive

/-- R204, R205, R224: a stopped try is recorded and counted. -/
def recordStop (s : State) (o : Op) (t : Nat) (lam : FVal) (st : Stop) : State :=
  let x := tRecord o.d
  let a := facAddr s x
  let code := statusCode (stopStatus st)
  let s1 := wrTries (wrLast (wrTry s x t st.col code (code32 lam)) x st.col code) x (t + 1)
  let s2 := wrBits s1 (a + 0x54) 3 0 st.reason
  let s3 := match st.val with
    | some v => wrNat s2 (a + 0x4C) 4 (code32 v)
    | none => s2
  countF s3 (tMill o.d) (if st.ill then Reg.truPivots_ill else Reg.truPivots_notPos) 0 1

/-- R205: the damping of the next try; where the first try never formed its maxdiag the spec states none, and it is a free
value. -/
def nextLambda (s : State) (x : Nat) (lam : FVal) (md : Option FVal) : State × FVal :=
  match md with
  | some m => (s, fvMax (r32 (fvMul lam (facGrowth s x))) (r32 (fvMul (facTau s x) m)))
  | none => (takeFree s, decodeCode .fp32 (Config.freeValue s.free % 2 ^ 32))

/-- R207: the residual of what the candidate holds, as an FP32 code, recorded in LAST_RESID. -/
def residOf (s : State) (o : Op) (k : FacKind) (lam : FVal) : Nat :=
  let x := tRecord o.d
  let n := facN s x
  residCode k x n (dampFull n (facF s x) lam) (rdMat s (facCand s x) (facPitch n) n n)
    ((rdMat s (facCand s x + n * facPitch n) 0 1 n).flatten)

/-- R207: whether a residual passes. -/
def residPasses (s : State) (x code : Nat) : Bool := fvLe (decodeCode .fp32 code) (facTol s x)

/-- One try with its products, candidate, WORK, and event counts (R544). -/
def doTry (s : State) (o : Op) (lam : FVal) : State × TryOut :=
  let r := tryRun s o lam
  let s1 := if truFailed r.st o then r.st else wrCand (wrMem r.st r.ws) (tRecord o.d) r.cand
  (event (event s1 (tMill o.d) 0x02 r.pipes) (tMill o.d) 0x03 1, r)

/-- R206: a try that passed is promoted, and the operation ends. -/
def tryPromote (s : State) (o : Op) (t folds : Nat) (lam : FVal) : State :=
  let x := tRecord o.d
  let iters := if dOpcode o.d = 0x0330 ∨ dOpcode o.d = 0x0340 then tSweeps o.d else 0
  let s1 := promote s x (kindCode (tKind o.d)) folds (code32 lam) iters (t + 1)
  match findOp s1 o.ctx o.idx with
  | some q => endOp s1 o.ctx o.idx (normalEnd q)
  | none => s1

/-- R206: a try reached its end: its residual decides; a failure repeats it once (`upset`: a lane fault spoilt only the
first pass). -/
def tryEnd (s : State) (o : Op) (t folds : Nat) (lam : FVal) (upset : Bool) : State :=
  let x := tRecord o.d
  let n := facN s x
  let mill := tMill o.d
  let mark := fun (u : State) (r status : Nat) =>
    wrNat (wrTries (wrLast (wrTry u x t n status (code32 lam)) x n status) x (t + 1)) (facAddr s x + 0x50) 4 r
  let r1 := residOf s o (tKind o.d) lam
  if !upset && residPasses s x r1 then tryPromote (mark s r1 0) o t folds lam
  else
    let s1 := opReruns (countF s mill Reg.truResid_fails 0 1) o.ctx o.idx 1
    let s2 := (doTry s1 o lam).1
    let r2 := residOf s2 o (tKind o.d) lam
    if truFailed s2 o then s2
    else if residPasses s2 x r2 then tryPromote (mark s2 r2 0) o t folds lam
    else endWithRecord (countF (mark s2 r2 0x30) mill Reg.truResid_fails 0 1) o.ctx o.idx .checkFail 0x03 (oneMill o.d) [x, r2]

/-- R205: the tries of an operation, at most `fuel` of them. -/
def tryLoop (o : Op) (folds : Nat) (upset : Bool) : Nat → State → Nat → FVal → Option FVal → State
  | 0, s, _, _, _ => s
  | fuel + 1, s, t, lam, md0 =>
    let x := tRecord o.d
    let r := doTry s o lam
    let md := if t = 0 then r.2.maxd else md0
    if truFailed r.1 o then r.1 else
    match r.2.stop with
    | none => tryEnd r.1 o t folds lam upset
    | some st =>
      let s1 := recordStop r.1 o t lam st
      if facPolicy s x = 0 ∧ t + 1 ≤ facMaxtry s x then
        let nl := nextLambda s1 x lam md
        tryLoop o folds upset fuel (countF nl.1 (tMill o.d) Reg.truRetries_count 0 1) (t + 1) nl.2 md
      else endOp s1 o.ctx o.idx ⟨stopStatus st, st.col⟩

/-- R202 to R211: an operation that factors runs its tries; what it writes to training state is held (R200). -/
def truFactor (s : State) (o : Op) (upset : Bool) : State :=
  let x := tRecord o.d
  holdTrain s (tryLoop o (facFolds s x) upset 4 s 0 (facLambda s x) none) o.ctx o.idx

/-- CHOLESKY, LDLT and EIG: the work of one operation once it may. -/
def truRunFactor (s : State) (o : Op) (upsets : List TileUpset) (upset : Bool) : State :=
  if !truReady s o then s else withUpsets s o.ctx o.idx upsets (fun t => truFactor t o upset)

/-- CHOLESKY (R202); `upsets` as for STAT_FOLD, `upset` a lane fault of the first pass (R206). -/
def execCholesky (ctx idx : Nat) (upsets : List TileUpset) (upset : Bool) (s : State) : Host.Outcome State Fault Refusal :=
  .next (onOp s ctx idx 0x0310 (fun o => truRunFactor s o upsets upset))

/-- LDLT (R203). -/
def execLdlt (ctx idx : Nat) (upsets : List TileUpset) (upset : Bool) (s : State) : Host.Outcome State Fault Refusal :=
  .next (onOp s ctx idx 0x0311 (fun o => truRunFactor s o upsets upset))

/-- EIG (R209). -/
def execEig (ctx idx : Nat) (upsets : List TileUpset) (upset : Bool) (s : State) : Host.Outcome State Fault Refusal :=
  .next (onOp s ctx idx 0x0330 (fun o => truRunFactor s o upsets upset))

/-! ### Newton–Schulz (R212, R216) -/

/-- R196, R212: the five areas, their contents, the areas that M, T, P and X take and the free one, and the products'
state. -/
structure NsSt where
  st : State
  areas : List (Option Mat)
  im : Nat
  it : Nat
  ip : Nat
  ix : Nat
  fr : Nat

/-- The matrix in an area. -/
def nsGet (y : NsSt) (i : Nat) : Mat := ((y.areas.getD i none).getD [])

/-- A matrix put into an area. -/
def nsPut (y : NsSt) (i : Nat) (m : Mat) : NsSt := { y with areas := y.areas.set i (some m) }

/-- R212: a product of two areas. -/
def nsMul (o : Op) (n : Nat) (y : NsSt) (i j : Nat) : NsSt × Mat :=
  let r := arrMul y.st o.ctx o.idx (tCells o.d) n n n (nsGet y i) (nsGet y j) none
  ({ y with st := r.1 }, r.2)

/-- Item `k` of a list taken out. -/
def takeOut (l : List Nat) (k : Nat) : Nat × List Nat := (l.getD (k % max 1 l.length) 0, l.eraseIdx (k % max 1 l.length))

/-- R196: the areas of M, T, P, X and the free one at the start, which the spec does not name: a free value. -/
def nsAreas (v : Nat) : List Nat :=
  let a := takeOut [0, 1, 2, 3, 4] v
  let b := takeOut a.2 (v / 5)
  let c := takeOut b.2 (v / 20)
  let d := takeOut c.2 (v / 60)
  [a.1, b.1, c.1, d.1] ++ d.2

/-- R212: δ of M. -/
def nsDelta (record n : Nat) (m : Mat) : FVal :=
  let one := fun (q : Nat) =>
    let v := probe record n q
    divTo .fp64 (norm64 (vec64 fvSub (matVec64 m v) v)) (sqrtTo .fp64 (fvOfNat n))
  worseRho (one 0) (one 1)

/-- R212: one iteration. -/
def nsIter (o : Op) (n : Nat) (y : NsSt) : NsSt :=
  let p := tP o.d
  let t := matGen n n (fun i j =>
    r32 (fvScale (-(Nat.log2 p : Int)) (r32 (fvSub (if i = j then fvOfNat (p + 1) else fvZero) (matAt (nsGet y y.im) i j)))))
  let y1 := nsPut y y.it t
  let x := nsMul o n y1 y1.ix y1.it
  let y2 := { nsPut x.1 x.1.fr x.2 with ix := x.1.fr, fr := x.1.ix }
  let q := nsMul o n y2 y2.it y2.it
  let y3 := nsPut q.1 q.1.ip q.2
  let y4 := if p = 4 then
      let r := nsMul o n y3 y3.ip y3.ip
      { nsPut r.1 r.1.fr r.2 with ip := r.1.fr, fr := r.1.ip }
    else y3
  let m := nsMul o n y4 y4.ip y4.im
  { nsPut m.1 m.1.fr m.2 with im := m.1.fr, fr := m.1.im }

/-- R212: the iterations: how many completed, whether δ passed, and the areas; a deadline bounds them. -/
def nsLoop (o : Op) (record n : Nat) (tol : FVal) : Nat → Nat → NsSt → Nat × Bool × NsSt
  | 0, k, y => (k, false, y)
  | fuel + 1, k, y =>
    let y1 := nsIter o n y
    if truFailed y1.st o then (k, false, y1)
    else if fvLe (nsDelta record n (nsGet y1 y1.im)) tol then (k + 1, true, y1) else nsLoop o record n tol fuel (k + 1) y1

/-- R212: e, the smallest multiple of p with s ≤ 2^e. -/
def nsExp (p : Nat) (v : FVal) : Int :=
  let c := if fvLe v (.fin false 1 (fvLog2 v)) then fvLog2 v else fvLog2 v + 1
  (p : Int) * -((-c) / (p : Int))

/-- R196: the areas written: parts 0 to 3 of WORK and the candidate's matrix part. -/
def nsWrites (s : State) (x : Nat) (y : NsSt) : List Host.Cell :=
  let n := facN s x
  (List.range 5).flatMap (fun i => match y.areas.getD i none with
    | none => []
    | some m => if i = 4 then matWrites (facCand s x) (facPitch n) m else matWrites (workAt s x i 0 0) (workPitch n) m)

/-- R212: the record of a Newton–Schulz run. -/
def nsRecord (s : State) (o : Op) (col status : Nat) : State :=
  let x := tRecord o.d
  wrTries (wrTry s x 0 col status (code32 (facLambda s x))) x 1

/-- R195, R212: the operation ends with NOT_CONVERGED.  DESIGN CHOICE: the columns of its record are N, since no column
stopped it (log entry 73). -/
def nsFail (s : State) (o : Op) (k : Nat) : State :=
  let n := facN s (tRecord o.d)
  endOp (countF (wrLast (nsRecord s o n 0x13) (tRecord o.d) n 0x13) (tMill o.d) Reg.truResid_notConv 0 1) o.ctx o.idx ⟨.notConverged, k⟩

/-- R212, R216: the scaled X is checked; it is promoted, or the operation ends with NOT_CONVERGED. -/
def nsCheck (s : State) (o : Op) (k : Nat) : State :=
  let x := tRecord o.d
  let n := facN s x
  let lam := facLambda s x
  let r := residOf s o (.root (tP o.d)) lam
  let s1 := wrNat s (facAddr s x + 0x50) 4 r
  if residPasses s x r then
    let s2 := wrLast (nsRecord s1 o n 0) x n 0
    let s3 := promote s2 x (kindCode (.root (tP o.d))) (facFolds s x) (code32 lam) k 1
    match findOp s3 o.ctx o.idx with
    | some q => endOp s3 o.ctx o.idx (normalEnd q)
    | none => s3
  else nsFail s1 o k

/-- R212: INVROOT METHOD 0; with a deadline after `limit` iterations, the last completed iterate is checked (R216). -/
def nsRun (s : State) (o : Op) (limit : Option Nat) : State :=
  let x := tRecord o.d
  let n := facN s x
  let p := tP o.d
  let lam := facLambda s x
  let af := dampFull n (facF s x) lam
  let norm := sqrtTo .fp64 (sum64 (af.flatten.map (fun v => r64 (fvMul v v))))
  let s0 := event s (tMill o.d) 0x03 1
  if fvIsZero norm then endOp (recordStop s0 o 0 lam ⟨false, 0, 0, some norm⟩) o.ctx o.idx ⟨.notPositive, 0⟩
  else
    let e := if fvNonFinite norm then (p : Int) * ((Config.freeValue s0.free % 64 : Nat) : Int) else nsExp p norm
    let ar := nsAreas (Config.freeValue (s0.free + 1))
    let y0 : NsSt := ⟨takeFree (takeFree s0), List.replicate 5 none, ar.getD 0 0, ar.getD 1 0, ar.getD 2 0, ar.getD 3 0, ar.getD 4 0⟩
    let y1 := nsPut (nsPut y0 y0.im (af.map (fun r => r.map (fun v => r32 (fvScale (-e) v))))) y0.ix (matId n)
    let r := nsLoop o x n (uF32 o.d 0x24) (min (tMaxiter o.d) (limit.getD (tMaxiter o.d))) 0 y1
    let y := r.2.2
    if truFailed y.st o then y.st
    else
      let xs := (nsGet y y.ix).map (fun q => q.map (fun v => r32 (fvScale (-e / (p : Int)) v)))
      let y2 := nsPut (nsPut y y.ix xs) 4 xs
      let s1 := wrMem (wrMem y.st (nsWrites s x y2)) (matWrites (facCand s x + n * facPitch n) 0 [List.replicate n fvZero])
      if r.2.1 || limit.isSome then nsCheck s1 o r.1 else nsFail s1 o r.1

/-- R216: whether the deadline of a Newton–Schulz operation has come. -/
def nsDue (s : State) (o : Op) : Bool :=
  dElastic o.d && tDeadline o.d != 0 && getA s Reg.tickCtrl_run == 1 && decide (tDeadline o.d ≤ tickNow s)

/-- INVROOT's work: by eigendecomposition or by Newton–Schulz. -/
def rootRun (s : State) (o : Op) (upsets : List TileUpset) (upset : Bool) : State :=
  if tMethod o.d = 1 then truRunFactor s o upsets upset
  else if !truReady s o || nsDue s o then s
  else holdTrain s (withUpsets s o.ctx o.idx upsets (fun t => nsRun t o none)) o.ctx o.idx

/-- INVROOT (R211, R212). -/
def execInvroot (ctx idx : Nat) (upsets : List TileUpset) (upset : Bool) (s : State) : Host.Outcome State Fault Refusal :=
  .next (onOp s ctx idx 0x0340 (fun o => rootRun s o upsets upset))

/-- INVROOT_DEADLINE (R216): the deadline tick comes once `iters` iterations have completed. -/
def execInvrootDeadline (ctx idx iters : Nat) (s : State) : Host.Outcome State Fault Refusal :=
  .next (onOp s ctx idx 0x0340 (fun o =>
    if tMethod o.d = 0 && nsDue s o && !truWaits s o && !unitsHeld s then
      holdTrain s (nsRun s o (some iters)) ctx idx
    else s))

/-! ### TRSOLVE (R208) -/

/-- R208: L or Lᵀ. -/
def triOf (trans : Bool) (n : Nat) (l : Mat) : Mat := if trans then matTr n l else l

/-- R208: one column of a block solved over the rows `js` in order, with the rows solved before in the block. -/
def solveCol (l : Mat) (rr : Nat → FVal) (js : List Nat) (y : Nat → FVal) (asc : Bool) : List (Nat × FVal) :=
  js.foldl (fun (done : List (Nat × FVal)) j =>
    let ks := if asc then done else done.reverse
    let x := ks.foldl (fun v k => fma32 (fvNegate (matAt l j k.1)) k.2 v) (y j)
    done ++ [(j, r32 (fvMul x (rr j)))]) []

/-- R208: one block of a triangular solve. -/
def solveBlock (o : Op) (n m : Nat) (trans : Bool) (l : Mat) (rr : Nat → FVal) (acc : State × Mat) (p : Nat) : State × Mat :=
  let b := min 128 (n - p)
  let rows := (List.range b).map (fun i => p + i)
  let before := if trans then (List.range (n - p - b)).map (fun i => p + b + i) else List.range p
  let y0 := matSub acc.2 rows (List.range m)
  let y := if before.isEmpty then (acc.1, y0)
    else arrMul acc.1 o.ctx o.idx (tCells o.d) b m before.length ((matSub l rows before).map (fun r => r.map fvNegate))
      (matSub acc.2 before (List.range m)) (some y0)
  let js := if trans then rows.reverse else rows
  let cols := (List.range m).map (fun c => solveCol l rr js (fun j => matAt y.2 (j - p) c) (!trans))
  (y.1, putRows acc.2 rows (matGen b m (fun i c =>
    match (cols.getD c []).find? (fun e => e.1 == p + i) with
    | some e => e.2
    | none => fvZero)))

/-- R208: MODE 0, or MODE 1 with the transpose. -/
def triSolve (s : State) (o : Op) (n m : Nat) (trans : Bool) (l : Mat) (rr : Nat → FVal) (b : Mat) : State × Mat :=
  let ps := (List.range (ceilDiv n 128)).map (fun k => 128 * k)
  (if trans then ps.reverse else ps).foldl (solveBlock o n m trans (triOf trans n l) rr) (s, b)

/-- R208: the solve of an operation: X. -/
def trsolve (s : State) (o : Op) (r : FacRead) : State × Mat :=
  let d := o.d
  let n := facN s r.num
  let m := tsM d
  let l := facMat s r n
  let rr := fun (j : Nat) => if r.kind = 1 then divTo .fp32 (fvOfNat 1) (matAt l j j) else fvOfNat 1
  let b := rdMat s (slotOff d 0x28) (slotPitch d 0x28) n m
  let s0 := event s (tMill d) 0x02 (if r.kind = 1 then n else 0)
  if tsMode d = 0 then triSolve s0 o n m false l rr b
  else if tsMode d = 1 then triSolve s0 o n m true l rr b
  else
    let y := triSolve s0 o n m false l rr b
    let dv := (rdMat s (facBufOf s r + n * facPitch n) 0 1 n).flatten
    let z := if r.kind = 2 then
        (event y.1 (tMill d) 0x02 (n * m), ((List.range n).zip y.2).map (fun p => p.2.map (fun v => divTo .fp32 v (dv.getD p.1 fvZero))))
      else y
    triSolve z.1 o n m true l rr z.2

/-- R208: the result of a solve is written and the operation ends. -/
def trsolveEnd (s : State) (o : Op) (r : FacRead) : State :=
  let y := trsolve s o r
  if truFailed y.1 o then y.1
  else finishOp (holdTrain s (wrMem y.1 (matWrites (slotOff o.d 0x30) (slotPitch o.d 0x30) y.2)) o.ctx o.idx) o.ctx o.idx

/-- TRSOLVE's work; at level 2, what its run gives beside its output is kept aside (R49). -/
def trsolveRun (s : State) (o : Op) (upsets : List TileUpset) : State :=
  match o.facs with
  | r :: _ =>
    if !truReady s o then s
    else onSide s o.ctx o.idx (fun u => withUpsets u o.ctx o.idx upsets (fun t => trsolveEnd t o r))
  | [] => s

/-- TRSOLVE (R208). -/
def execTrsolve (ctx idx : Nat) (upsets : List TileUpset) (s : State) : Host.Outcome State Fault Refusal :=
  .next (onOp s ctx idx 0x0320 (fun o => trsolveRun s o upsets))

/-- R199: an operation that waited for its record does its work once nothing holds the record. -/
def truProceed (s : State) (o : Op) (upsets : List TileUpset) (upset : Bool) : State :=
  if dOpcode o.d = 0x0300 then (if truReady s o then withUpsets s o.ctx o.idx upsets (fun t => statFold t o) else s)
  else if dOpcode o.d = 0x0340 then rootRun s o upsets upset
  else if dOpcode o.d = 0x0310 ∨ dOpcode o.d = 0x0311 ∨ dOpcode o.d = 0x0330 then truRunFactor s o upsets upset
  else s

/-- TRUING_WAIT_PROCEED (R199): the waiter proceeds; `upsets` and `upset` as for CHOLESKY. -/
def execTruingWaitProceed (ctx idx : Nat) (upsets : List TileUpset) (upset : Bool) (s : State) : Host.Outcome State Fault Refusal :=
  .next (match findOp s ctx idx with
    | some o => if opRuns o && isTruWriter o && !opWaits s o then truProceed s o upsets upset else s
    | none => s)

/-! ### Park points (R213) -/

/-- R209: the pairs of blocks of an eigendecomposition. -/
def eigPairs (s : State) (o : Op) : Nat :=
  let nb := ceilDiv (facN s (tRecord o.d)) 128
  tSweeps o.d * (((List.range (nb + nb % 2 - 1)).map (fun r => (roundPairs nb r).length)).sum)

/-- R213: whether a Truing operation has a park point whose DETAIL is `n`: the first column not yet factored, pairs,
iterations, rows or tiles, or, in a residual pass, the probes completed. -/
def truParkAt (s : State) (o : Op) (n : Nat) : Bool :=
  let c := dOpcode o.d
  let order := facN s (tRecord o.d)
  let block := n % 128 == 0 && decide (0 < n ∧ n < order)
  let probe := n == 1 || n == 2
  if c = 0x0300 then decide (n < (List.range (tileCount order order)).countP (lowTile order))
  else if c = 0x0320 then block
  else if c = 0x0310 ∨ c = 0x0311 then block || probe
  else if c = 0x0330 ∨ tMethod o.d = 1 then decide (0 < n ∧ n ≤ eigPairs s o) || probe
  else decide (n ≤ tMaxiter o.d) || probe

/-- R213: the state that an operation saves in its record's PARK area as it parks: at most 64 KiB of the device's own form, so
that its length and its bytes are free values. -/
def parkSave (s : State) (o : Op) : State :=
  freeBytes (takeFree s) (facPark s (tRecord o.d)) (Config.freeValue s.free % 65537)

/-! ### Registers (R224) and disturbances (R217) -/

/-- Whether an operation runs on the Truing Unit of Mill `m`. -/
def onUnit (m : Nat) (o : Op) : Bool := isTruing o && oneMill o.d == m && o.ended.isNone

/-- R224: RUN of a Mill's Truing Unit among some of its operations. -/
def truRunCode (s : State) (os : List Op) : Nat :=
  let live := os.filter (fun o => !o.parked)
  let free := live.filter (fun o => !truWaits s o)
  if free.any (fun o => !dElastic o.d) then 1 else if !free.isEmpty then 2 else if !live.isEmpty then 3 else 0

/-- R186: whether a Truing operation is one that a disturbance of its Mill reaches: it works now. -/
def truWorks (s : State) (o : Op) : Bool := isTruing o && opRuns o && !truWaits s o

/-- R189: whether a Truing operation issues products: factorisations and solves of one block have none. -/
def truProducts (s : State) (o : Op) : Bool :=
  let c := dOpcode o.d
  if c = 0x0310 ∨ c = 0x0311 ∨ c = 0x0320 then decide (128 < facN s (tRecord o.d)) else true

/-- R127, R217: the product tiles of a Truing operation that are in progress on a Cell are dropped and run again.  How many of
the two that a Cell holds are in progress is a matter of timing, and a free value. -/
def truDropTiles (s : State) (cell : Nat) (brake : Bool) (o : Op) : State :=
  if truWorks s o && truProducts s o && (tCells o.d).contains cell then
    let n := Config.freeValue s.free % 3
    let b := cellBase cell
    let s1 := updOp (takeFree s) o.ctx o.idx (fun p => { p with reruns := p.reruns + n, brakes := p.brakes + (if brake then n else 0) })
    event (countF s1 b (if brake then Reg.matDropped_brake else Reg.matDropped_disturbed) 0 n) b 0x04 n
  else s

/-- R127, R217: the product tiles of Truing operations on a Cell are dropped. -/
def truDropCell (s : State) (cell : Nat) (brake : Bool) : State := s.ops.foldl (fun t o => truDropTiles t cell brake o) s

/-- R217: the Truing lane work of a Mill is dropped back to its last park point and run again. -/
def disturbTruing (s : State) (m : Nat) (brake : Bool) : State :=
  { s with ops := s.ops.map (fun o =>
      if truWorks s o && oneMill o.d == m then { o with reruns := o.reruns + 1, brakes := o.brakes + nat01 brake } else o) }

end Sys2Proof.Machine
end

