-- ==== Sys2Proof/Machine/Rotations.lean ====
section
/-!
DEFINITION. Rotations: the rotation table, bundles, FORM, MERGE, APPLY, BASIS, the ledger, the partner table, HEAL and
JOIN_CHECK (R452 to R486, R32).
-/

namespace Sys2Proof.Machine

/-! ### Bodies (R483) -/

/-- R483: ROTATION. -/
def rRot (d : Desc) : Nat := dfld d 0x20 63 0
/-- R483: STEP. -/
def rStep (d : Desc) : Nat := dfld d 0x28 63 0
/-- R483: CUTOFF. -/
def rCutoff (d : Desc) : Nat := dfld d 0x30 63 0
/-- R483: ACTION. -/
def rAction (d : Desc) : Nat := dfld d 0x38 1 0
/-- R483: REPLAY. -/
def rReplay (d : Desc) : Bool := dfld d 0x38 2 2 == 1
/-- R483: STAND. -/
def rStand (d : Desc) : Nat := dfld d 0x38 13 8
/-- R483: SESSION. -/
def rSession (d : Desc) : Nat := dfld d 0x38 21 16
/-- R483: ETA, as a code. -/
def rEta (d : Desc) : Nat := dfld d 0x3C 31 0
/-- R483: MU, as a code. -/
def rMu (d : Desc) : Nat := dfld d 0x40 31 0
/-- R483: MASK[b]. -/
def rMask (d : Desc) (b : Nat) : Nat := dfld d (0x48 + 8 * b) 63 0
/-- R483: ADDR. -/
def rAddr (d : Desc) : Nat := dfld d 0x68 41 0
/-- R483: ENTRY. -/
def rEntry (d : Desc) : Nat := dfld d 0x70 41 0
/-- R483: CERT. -/
def rCert (d : Desc) : Nat := dfld d 0x78 41 0

/-! ### Registers (R485) -/

/-- R485: ROT_ID. -/
def rotId (s : State) : Nat := getA2 s Reg.rotId_idLo Reg.rotId_idHi
/-- R455: S_r. -/
def rotStep (s : State) (r : Nat) : Nat :=
  getA2 s Reg.rotStep0_stepLo Reg.rotStep0_stepHi + r * getA s Reg.rotCtrl_h
/-- R460: STALE. -/
def rotStale (s : State) : Nat := getA s Reg.rotCtrl_stale
/-- R468: whether this chip reports. -/
def isReporter (s : State) : Bool := getA s Reg.rotReport_chip == s.chip
/-- The rotation unit changed. -/
def setRot (s : State) (f : RotRt → RotRt) : State := { s with rot := f s.rot }

/-! ### The rotation table (R452, R453) -/

/-- R452: an entry of the rotation table. -/
structure RotEntry where
  num : Nat
  param : Nat
  twin : Nat
  qfmt : Nat
  qout : Nat
  rotate : Bool
  noClip : Bool
  sr : Bool
  blog : Nat
  xl : Nat
  xr : Nat
  delta : Nat
  anchor : Nat
  anchorMom : Nat
  ownres : Nat
  srcL : Nat
  srcR : Nat

/-- R452: the offset of entry `e`. -/
def rotAddr (s : State) (e : Nat) : Nat := getA2 s Reg.rotTable_baseLo Reg.rotTable_baseHi + e * 64

/-- R452: entry `e`. -/
def rotEntry (s : State) (e : Nat) : RotEntry :=
  let a := rotAddr s e
  { num := e, param := rdBits s a 19 0, twin := rdBits s (a + 4) 19 0
    qfmt := rdBits s (a + 8) 1 0, qout := rdBits s (a + 8) 3 2
    rotate := rdBits s (a + 8) 4 4 == 1, noClip := rdBits s (a + 8) 5 5 == 1, sr := rdBits s (a + 8) 6 6 == 1
    blog := rdBits s (a + 8) 11 8, xl := rdBits s (a + 0x0C) 9 0, xr := rdBits s (a + 0x0C) 25 16
    delta := rdBits s (a + 0x10) 41 0, anchor := rdBits s (a + 0x18) 41 0, anchorMom := rdBits s (a + 0x20) 41 0
    ownres := rdBits s (a + 0x28) 41 0, srcL := rdBits s (a + 0x30) 9 0, srcR := rdBits s (a + 0x30) 25 16 }

/-- R452: the number of entries. -/
def rotCount (s : State) : Nat := getA s Reg.rotCount_count

/-- R452: the entries, ascending. -/
def rotEntries (s : State) : List RotEntry := (List.range (rotCount s)).map (rotEntry s)

/-- R453: an FP32 region of an entry's shard. -/
def entryRegion (s : State) (e : RotEntry) (off : Nat) : Region := f32Region off (pNrows s e.param) (pNcols s e.param)

/-- R453: the shard's values in a region of an entry. -/
def entryMat (s : State) (e : RotEntry) (off : Nat) : Mat :=
  rdMat s off (f32Pitch (pNcols s e.param)) (pNrows s e.param) (pNcols s e.param)

/-- R453: the writes of a shard's values into a region of an entry. -/
def entryWrites (s : State) (e : RotEntry) (off : Nat) (a : Mat) : List Host.Cell :=
  matWrites off (f32Pitch (pNcols s e.param)) a

/-- R287: whether a basis record may stand on a side of order `n`. -/
def basisOk (s : State) (x n : Nat) : Bool := x == 0x3FF || (decide (x < facCount s) && facN s x == n)

/-- R453: whether an entry breaks a condition. -/
def rotEntryBad (s : State) (e : RotEntry) : Bool :=
  let p := e.param
  let t := e.twin
  decide (paramCount s ≤ p) || decide (paramCount s ≤ t) || recordBad s p || recordBad s t || pNrows s p == 0 ||
    pRows s p != pRows s t || pCols s p != pCols s t || pRow0 s p != pRow0 s t || pNrows s p != pNrows s t ||
    pCol0 s p != pCol0 s t || pNcols s p != pNcols s t || pAway s t || pM1 s t == 0 || pResid s p == 0 ||
    e.qfmt == 0 || e.qout == 0 || decide (e.blog < 2) || decide (8 < e.blog) ||
    (e.rotate && (pNrows s p != pRows s p || pNcols s p != pCols s p || (e.xl == 0x3FF && e.xr == 0x3FF) ||
      !basisOk s e.xl (pRows s p) || !basisOk s e.xr (pCols s p)))

/-- The regions of the rotation table and of the records that it names. -/
def rotRegions (s : State) : List Region :=
  if rotCount s = 0 then [] else [⟨rotAddr s 0, 0, 1, rotCount s * 64⟩]

/-- The shard regions that rotations read and write. -/
def rotShards (s : State) : List Region :=
  (rotEntries s).flatMap (fun e =>
    [entryRegion s e e.delta, entryRegion s e e.anchor, entryRegion s e e.anchorMom, entryRegion s e e.ownres,
     roleRegion s e.param 0, roleRegion s e.param 5, roleRegion s e.twin 0, roleRegion s e.twin 3] ++
      workRegions s e.param ++ workRegions s e.twin)

/-! ### The partner table and the roster (R473, R474, R486) -/

/-- R486: a field of partner entry `k`. -/
def partF (s : State) (f : Fld) (k : Nat) : Nat := getF s landABase f k
/-- R486: a field of partner entry `k` written. -/
def partPut (s : State) (f : Fld) (k v : Nat) : State := setF s landABase f k v
/-- R473: the entry of stand `k`. -/
def partOf (s : State) (k : Nat) : Option Nat :=
  (List.range 64).find? (fun e => partF s Reg.part_state e != 0 && partF s Reg.part_stand e == k)
/-- R474: whether stand `k` is in the roster of rotation `r`. -/
def inRoster (s : State) (r k : Nat) : Bool :=
  match partOf s k with
  | some e => partF s Reg.part_state e == 1 && decide (partF s Reg.part_joinRot e ≤ r)
  | none => false
/-- R474, R457: the stands in the roster of rotation `r`, ascending. -/
def rosterOf (s : State) (r : Nat) : List Nat := (List.range 64).filter (inRoster s r)
/-- R458: a set of stands as a mask. -/
def standMask (ks : List Nat) : Nat := ks.foldl (fun m k => m + 2 ^ k) 0
/-- R473: the Far session to stand `k`. -/
def sessionTo (s : State) (k : Nat) : Nat := match partOf s k with
  | some e => partF s Reg.part_session e
  | none => 0
/-- R466: whether the session to stand `k` is halted. -/
def standHalted (s : State) (k : Nat) : Bool := k != s.stand && sessF s Reg.sess_authHalt (sessionTo s k) == 1
/-- R472: the least LAST_ROT over members and lost stands. -/
def leastLast (s : State) : Nat :=
  match ((List.range 64).filter (fun e => partF s Reg.part_state e == 1 || partF s Reg.part_state e == 2)).map
      (partF s Reg.part_lastRot) with
  | [] => 0
  | x :: r => r.foldl min x

/-- The chips of this stand. -/
def standChips (s : State) : List Nat :=
  if getA s Reg.routeCtrl_mode = 0 then List.range (axisProduct s)
  else (List.range 65536).filter (fun c => c == s.chip || chipPresent s c)

/-! ### Slices and bundles (R457, R458) -/

/-- R457: the shard rows of entry `e` that the stand at place `i` of a roster of `m` owns, as first row and count. -/
def sliceRows (s : State) (e : RotEntry) (m i : Nat) : Nat × Nat :=
  let n := pNrows s e.param
  if e.rotate then (if e.param % m = i then (0, n) else (0, 0))
  else (i * n / m, (i + 1) * n / m - i * n / m)

/-- R457: the entries with a non-empty slice at place `i`. -/
def sliceEntries (s : State) (m i : Nat) : List RotEntry := (rotEntries s).filter (fun e => (sliceRows s e m i).2 != 0)

/-- R458: a bundle. -/
def bundleBytes (stand kind r roster : Nat) (segs : List (List Byte)) : List Byte :=
  let body := segs.flatMap pad16
  leBytes 2 0x5254 ++ leBytes 1 stand ++ leBytes 1 kind ++ leBytes 4 segs.length ++ leBytes 8 r ++ leBytes 8 roster ++
    leBytes 4 (32 + body.length) ++ leBytes 4 0 ++ body

/-- Bytes cut into pieces of at most 488, each of which fits any frame (R433). -/
def framePieces (bs : List Byte) : List (List Byte) :=
  (List.range (ceilDiv bs.length 488)).map (fun i => (bs.drop (488 * i)).take 488)

/-- Bytes of a class of R484 sent to the counterpart of this chip, or the given chip, in stand `k`. -/
def sendStand (s : State) (cls k chip : Nat) (bs : List Byte) (ctx idx : Nat) : State :=
  { s with txq := s.txq ++ (framePieces bs).map (fun p =>
      ⟨cls, chip, k, some (sessionTo s k), 0, p, ⟨s.chip, ctx, idx, .data cls 0 p⟩⟩) }

/-- A message of a class of R484 to a chip of this stand. -/
def sendLocal (s : State) (cls chip : Nat) (bs : List Byte) : State :=
  { s with txq := s.txq ++ [⟨cls, chip, s.stand, none, 0, bs, ⟨s.chip, 0xFFFF, 0, .data cls 0 bs⟩⟩] }

/-! ### Quantising slices (R284, R286, R456, R462) -/

/-- What a quantised slice leaves: the state after its products and counts, the segment, and its residual where one is
written. -/
structure SliceOut where
  st : State
  seg : List Byte
  resid : Option Mat

/-- R284, R456, R462: rows of values with their residual quantised by an exchange Sawmill. -/
def quantSlice (s : State) (o : Op) (e : RotEntry) (q tensor r r0 : Nat) (rotated : Bool) (src resid : Mat) : SliceOut :=
  let m := src.length
  let n := pNcols s e.param
  let cells := scopeCells o.d
  let y := matZip (fun a b => r32 (fvAdd a b)) src resid
  let ql := if rotated then basisSide s o e.xl m else none
  let qr := if rotated then basisSide s o e.xr n else none
  let t1 := leftProd s o.ctx o.idx cells m n (ql.map (matTr m)) y
  let t2 := rightProd t1.1 o.ctx o.idx cells m n t1.2 qr
  let rnd := fun i c => rndOf s (if e.sr then 2 else 0) (streamId 2 tensor) r
    ((pRow0 s e.param + r0 + i) * pCols s e.param + pCol0 s e.param + c)
  let z := quantise q e.noClip rnd t2.2
  let f := qFmt q
  let nf : Bool := z.scales.any (fun b => b == 0xFF)
  let b := quantBack t2.1 0 false f z
  let u1 := leftProd b.1 o.ctx o.idx cells m n ql b.2
  let u2 := rightProd u1.1 o.ctx o.idx cells m n u1.2 (qr.map (matTr n))
  let hdr : SegHdr := { efmt := fmtCode f, mx := true, rotated := rotated, nf := nf, blog := e.blog, segBytes := 0, nsyms := 0
                        tensor := tensor, nrows := m, ncols := n, row0 := pRow0 s e.param + r0, col0 := pCol0 s e.param
                        gcols := pCols s e.param, rotation := r
                        xl := if rotated then e.xl else 0x3FF, xr := if rotated then e.xr else 0x3FF
                        genL := if rotated then sideGen o e.xl else 0, genR := if rotated then sideGen o e.xr else 0 }
  let g := encodeSegment hdr (z.codes.map Prod.fst) z.scales
  ⟨event (countA (countA u2.1 Reg.exchCoded_count g.2.1) Reg.exchStored_count g.2.2) landABase 0x0A (g.2.1 + g.2.2), g.1,
    if nf then none else some (matZip (fun a b => r32 (fvSub a b)) y u2.2)⟩

/-- Rows `r0` on of a shard region written. -/
def rowWrites (s : State) (e : RotEntry) (off r0 : Nat) (a : Mat) : List Host.Cell :=
  entryWrites s e (off + r0 * f32Pitch (pNcols s e.param)) a

/-! ### Receiving bundles (R459, R300) -/

/-- Why a bundle is refused: a non-finite value, a basis generation, or anything else. -/
inductive BundleBad where
  | nf | gen | other
  deriving DecidableEq, Repr

/-- R459: one copy of a segment read. -/
def goodCopy (c : List Byte) : Option (SegHdr × List Nat × List Nat) × Bool :=
  match readSegment (fun i => c.getD i 0) with
  | .ok x => (some x, false)
  | .error e => (none, e.overrun)

/-- R300: the first copy of a segment that decodes, among the copy of the bundle and at most three more; each refused
copy is counted. -/
def firstGood (s : State) : List (List Byte) → State × Option (SegHdr × List Nat × List Nat)
  | [] => (s, none)
  | c :: r =>
    if (goodCopy c).1.isSome then (s, (goodCopy c).1)
    else firstGood (countA s (if (goodCopy c).2 then Reg.exchRefused_overrun else Reg.exchRefused_underrun) 1) r

/-- R459: the value of a decoded segment, rotated back where it is coded in a basis. -/
def exchValues (s : State) (h : SegHdr) (syms scales : List Nat) : State × Mat :=
  let z := (chunks h.ncols h.nrows ((List.range syms.length).zip syms)).map (fun r =>
    r.map (fun p => r32 (symValue h.efmt h.mx scales p.1 p.2)))
  if !h.rotated then (s, z)
  else
    let cells := List.range 128
    let u1 := leftProd s 0x10000 0 cells h.nrows h.ncols
      (if h.xl = 0x3FF then none else some (facMat s (facRead s h.xl) h.nrows)) z
    rightProd u1.1 0x10000 0 cells h.nrows h.ncols u1.2
      (if h.xr = 0x3FF then none else some (matTr h.ncols (facMat s (facRead s h.xr) h.ncols)))

/-- R459: whether a segment's GEN fields agree with the standing factors. -/
def gensAgree (s : State) (h : SegHdr) : Bool :=
  !h.rotated || ((h.xl == 0x3FF || facGen s h.xl == h.genL) && (h.xr == 0x3FF || facGen s h.xr == h.genR))

/-- R457: whether a segment is the one that an entry's slice calls for. -/
def segFits (s : State) (e : RotEntry) (tensor r : Nat) (rows : Nat × Nat) (h : SegHdr) : Bool :=
  h.tensor == tensor && h.rotation == r && h.row0 == pRow0 s e.param + rows.1 && h.nrows == rows.2 &&
    h.col0 == pCol0 s e.param && h.ncols == pNcols s e.param && (!h.rotated || (e.rotate && h.xl == e.xl && h.xr == e.xr))

/-- R459: the bytes of the segment at `at'` of a bundle, padding included. -/
def entrySpan (bs : List Byte) (at' : Nat) : Nat := pad16Len (segHdrOf (fun k => bs.getD (at' + k) 0)).segBytes

/-- R300, R459: the segment of one entry read from a bundle and judged, with the bytes that its good copy takes in the bundle. -/
def decodeEntry (bs : List Byte) (kind r m i : Nat) (e : RotEntry) (at' : Nat) (again : List (List Byte)) (s : State) :
    State × Except BundleBad (RotSeg × Nat) :=
  let g := firstGood s ((bs.drop at').take (entrySpan bs at') :: again.take 3)
  match g.2 with
  | none => (g.1, .error .other)
  | some (h, syms, scales) =>
    let rows := sliceRows s e m i
    let tensor := (if kind = 0 then e.param else e.twin) * 8 + 5
    if !segFits s e tensor r rows h then (g.1, .error .other)
    else if !gensAgree s h then (g.1, .error .gen)
    else
      let v := exchValues g.1 h syms scales
      if h.nf || v.2.any (fun row => row.any fvNonFinite) then (v.1, .error .nf)
      else (v.1, .ok (⟨e.num, rows.1, v.2.map (fun row => row.map code32)⟩, pad16Len h.segBytes))

/-- A segment put before those that follow it, where they are good. -/
def consSeg (x : RotSeg) : Except BundleBad (List RotSeg) → Except BundleBad (List RotSeg)
  | .error b => .error b
  | .ok l => .ok (x :: l)

/-- R459: the segments of a bundle decoded in turn, at offset `at'`; `again` lists the further copies of each. -/
def decodeBundle (bs : List Byte) (kind r m i : Nat) :
    List RotEntry → Nat → List (List (List Byte)) → State → State × Except BundleBad (List RotSeg)
  | [], _, _, s => (s, .ok [])
  | e :: es, at', again, s =>
    let w := decodeEntry bs kind r m i e at' (again.headD []) s
    match w.2 with
    | .error b => (w.1, .error b)
    | .ok (x, n) =>
      let q := decodeBundle bs kind r m i es (at' + n) again.tail w.1
      (q.1, consSeg x q.2)

/-- R459: the staging pages in use. -/
def stagePages (s : State) : Nat := (s.rot.contribs ++ s.rot.merged).foldl (fun n b => n + b.pages) 0

/-- R459, R485: a refused bundle counted. -/
def countBad (s : State) (x : BundleBad) : State :=
  match x with
  | .nf => countA s Reg.rotRefused_nf 1
  | .gen => countA s Reg.rotGenMiss_count 1
  | .other => countA s Reg.rotRefused_other 1

/-- R459, R485: a bundle taken into the staging area; what the bytes of its pages there become is a free value, and the pages
after those in use take it (log entry 79). -/
def stageBundle (s : State) (pages : Nat) : State :=
  freeBytes s (getA2 s Reg.rotStage_baseLo Reg.rotStage_baseHi + 4096 * stagePages s)
    (4096 * min pages (getA s Reg.rotStagePages_pages - stagePages s))

/-- R459, R462, R475: the roster by which a received bundle is read: this stand's of its rotation, or, where a stand that joins
receives the merged results of the rotation before its first, the one that the bundle names. -/
def bundleRoster (s : State) (kind r mask : Nat) : List Nat :=
  if kind = 1 ∧ s.stand ∉ rosterOf s r then (List.range 64).filter (fun k => bit mask k) else rosterOf s r

/-- R459, R460: a bundle of stand `k` is checked, decoded and held, or refused. -/
def takeBundle (s : State) (bs : List Byte) (again : List (List (List Byte))) : State :=
  let k := byteNat bs 2 1 % 64
  let kind := byteNat bs 3 1 % 2
  let r := byteNat bs 8 8
  let ros := bundleRoster s kind r (byteNat bs 0x10 8)
  let own := if kind = 0 then ros.idxOf s.stand else ros.idxOf k
  let es := sliceEntries s ros.length own
  if byteNat bs 0 2 ≠ 0x5254 ∨ byteNat bs 0x18 4 ≠ bs.length ∨ standMask ros ≠ byteNat bs 0x10 8 ∨ !ros.contains k ∨
      (kind = 0 ∧ !ros.contains s.stand) ∨ byteNat bs 4 4 ≠ es.length then countBad s .other
  else
    let q := decodeBundle bs kind r ros.length own es 32 again s
    match q.2 with
    | .error x => countBad q.1 x
    | .ok segs =>
      let b : RotBundle := ⟨k, r, ros, segs, ceilDiv bs.length 4096⟩
      let held := stageBundle q.1 b.pages
      if kind = 1 then setRot held (fun t => { t with merged := t.merged.filter (fun c => !(c.stand == k && c.rotation == r)) ++ [b] })
      else
        let late : Bool := match s.rot.masked with
          | some m => decide (r ≤ m) && k != s.stand
          | none => false
        let s1 := if late then countA held Reg.rotLate_late 1 else held
        setRot s1 (fun t => { t with contribs := t.contribs.filter (fun c => !(c.stand == k && c.rotation == r)) ++ [b] })

/-- R459: whether a bundle fits the staging area. -/
def stageFits (s : State) (bs : List Byte) : Bool :=
  decide (stagePages s + ceilDiv bs.length 4096 ≤ getA s Reg.rotStagePages_pages)

/-- ROTATION_BUNDLE_RECEIVE (R459): a bundle arrives; `again` lists, by segment, the further copies that R300 asks for.
While the staging area is full, nothing is taken. -/
def execRotationBundleReceive (bundle : List Byte) (again : List (List (List Byte))) (s : State) :
    Host.Outcome State Fault Refusal :=
  .next (if stageFits s bundle then takeBundle s bundle again else s)

/-! ### Chip digests and COMMON_DIGEST (R456, R468) -/

/-- R456: this chip's digest over a region of every entry. -/
def chipDigest (s : State) (off : RotEntry → Region) : List Byte :=
  sha512 ((rotEntries s).flatMap (fun e => leBytes 16 (regionsDigest s.mem [off e])))

/-- R456: the digest of A. -/
def commonChip (s : State) : List Byte := chipDigest s (fun e => roleRegion s e.twin 0)

/-- R456: a digest goes to the reporting chip. -/
def reportDigest (s : State) (r : Nat) (v : List Byte) : State :=
  if isReporter s then
    setRot s (fun t => { t with digests := t.digests.filter (fun d => !(d.1 == r && d.2.1 == s.chip)) ++ [(r, s.chip, v)] })
  else sendLocal s 0x81 (getA s Reg.rotReport_chip) v

/-! ### FORM (R456) -/

/-- R484: whether FORM of rotation `r` is out of order. -/
def formEarly (s : State) (r : Nat) : Bool :=
  r != rotId s || stepId s != rotStep s (r + 1) || (r != 0 && s.rot.applied != some (r - 1) && !s.rot.afterSplit)

/-- R32, R456: whether a FORM codes rotated: this chip had run BASIS at its beginning. -/
def formRotates (o : Op) : Bool :=
  match o.work with
  | .rot 1 _ => true
  | _ => false

/-- R456: one entry: D, its segments by place in the roster, and the residual. -/
def formEntry (o : Op) (r m : Nat) (acc : State × List (List (List Byte))) (e : RotEntry) : State × List (List (List Byte)) :=
  let s := acc.1
  let dm := matZip (fun a w => r32 (fvSub a w)) (roleMat s e.twin 0) (roleMat s e.param 0)
  let s0 := wrMem s (entryWrites s e e.delta dm)
  let rs := roleMat s0 e.param 5
  (List.range m).foldl (fun (a : State × List (List (List Byte))) i =>
    let rows := sliceRows a.1 e m i
    if rows.2 = 0 then a
    else
      let cut := fun (x : Mat) => (x.drop rows.1).take rows.2
      let q := quantSlice a.1 o e e.qfmt (e.param * 8 + 5) r rows.1 (e.rotate && formRotates o) (cut dm) (cut rs)
      let s1 := match q.resid with
        | some x => wrMem q.st (rowWrites a.1 e (pResid a.1 e.param) rows.1 x)
        | none => q.st
      (s1, a.2.set i (a.2.getD i [] ++ [q.seg]))) (s0, acc.2)

/-- R458: the bundles of a rotation sent to, or held for, the stands of a roster. -/
def sendBundles (s : State) (cls kind r mask : Nat) (ctx idx : Nat) (bs : List (Nat × List (List Byte))) : State :=
  bs.foldl (fun t b =>
    let bytes := bundleBytes t.stand kind r mask b.2
    if b.1 = t.stand then takeBundle t bytes [] else sendStand t cls b.1 t.chip bytes ctx idx) s

/-- R456: FORM's work. -/
def formRun (s : State) (o : Op) : State :=
  let r := rRot o.d
  let ros := rosterOf s r
  let dig := commonChip s
  let q := (rotEntries s).foldl (formEntry o r ros.length) (s, List.replicate ros.length [])
  let s1 := sendBundles q.1 0x80 0 r (standMask ros) o.ctx o.idx (ros.zip q.2)
  let s2 := reportDigest (countSha s1 (16 * (rotEntries s).length)) r dig
  let s3 := set2 s2 landABase Reg.rotId_idLo Reg.rotId_idHi 0 (r + 1)
  setRot s3 (fun t => { t with afterSplit := false })

/-- R496: whether a TALLY_CLOSE that began before an operation has still to read the masters. -/
def closeUnread (s : State) (o : Op) : Bool := s.ops.any (fun p => decide (p.seq < o.seq) && closeReads p)

/-- FORM (R456). -/
def execForm (ctx idx : Nat) (s : State) : Host.Outcome State Fault Refusal :=
  .next (onOp s ctx idx 0x0800 (fun o => finishOp (formRun s o) ctx idx))

/-! ### MERGE: masks and the merge set (R460, R470, R472) -/

/-- R460: the contribution of stand `k` to rotation `r` that is held. -/
def heldContrib (s : State) (k r : Nat) : Option RotBundle :=
  s.rot.contribs.find? (fun b => b.stand == k && b.rotation == r)

/-- R460 item 3: the mask, by stand: bit `j` where rotation r − j is held. -/
def mergeMask (s : State) (r : Nat) : List Nat :=
  (List.range 64).map (fun k => ((List.range (rotStale s + 1)).filter (fun j =>
    decide (j ≤ r) && (heldContrib s k (r - j)).isSome)).foldl (fun m j => m + 2 ^ j) 0)

/-- R460 item 2: contributions older than the bound are discarded and counted. -/
def dropStale (s : State) (r : Nat) : State :=
  let old := s.rot.contribs.filter (fun b => decide (b.rotation + rotStale s < r))
  setRot (countA s Reg.rotLate_stale old.length) (fun t =>
    { t with contribs := t.contribs.filter (fun b => !decide (b.rotation + rotStale s < r)) })

/-- R460 item 4: USED of a stand from the ANDed byte. -/
def lowestBit (m : Nat) : Nat := ((List.range 8).find? (fun j => bit m j)).getD 0xFE

/-- R460 item 4: the merge set of rotation `r`, once the masks of every chip are held. -/
def formSet (s : State) (r : Nat) : Option MergeSet :=
  let ms := (standChips s).map (fun c => (s.rot.masks.find? (fun m => m.1 == r && m.2.1 == c)).map (fun m => m.2.2))
  if ms.all (fun m => m.isSome) then
    let used := (List.range 64).map (fun k =>
      if inRoster s r k then lowestBit (ms.foldl (fun a m => a &&& ((m.getD []).getD k 0)) 255) else 0xFF)
    some ⟨r, used, leastLast s⟩
  else none

/-- R470: whether one more entry fits the ledger ring. -/
def ledgerRoom (s : State) : Bool :=
  decide ((s.rot.entryNo + s.rot.ledger.length + 2 ^ 32 - getA s Reg.ledgerHead_entry) % 2 ^ 32 < getA s Reg.ledgerCap_count)

/-- R468: a ledger entry is due on the reporting chip. -/
def ledgerAdd (s : State) (i : LedgerItem) : State :=
  if isReporter s then setRot s (fun t => { t with ledger := t.ledger ++ [i] }) else s

/-- R460 item 4, R472: this chip takes a merge set and its seal. -/
def takeSet (s : State) (m : MergeSet) : State := setRot s (fun t => { t with set := some m, sealed := m.sealed })

/-- R460: the bytes of a merge set and its seal in a message. -/
def setBytes' (m : MergeSet) : List Byte := leBytes 8 m.rotation ++ m.used.flatMap (leBytes 1) ++ leBytes 8 m.sealed

/-- R460 item 4, R470: the reporting chip returns a merge set to every chip and owes its ledger entry, once the entry
fits the ring. -/
def releaseSet (s : State) (cutoff : Nat) : State :=
  match s.rot.ready with
  | none => s
  | some m =>
    if ledgerRoom s then
      let s1 := ledgerAdd (setRot s (fun t => { t with ready := none, waited := false }))
        ⟨0, m.rotation, rotStep s m.rotation, standMask (rosterOf s m.rotation), cutoff, m.used, none⟩
      takeSet (((standChips s).filter (fun c => c != s.chip)).foldl (fun t c => sendLocal t 0x82 c (setBytes' m)) s1) m
    else if s.rot.waited then s
    else setRot (countA s Reg.ledgerWaits_count 1) (fun t => { t with waited := true })

/-- R460: the cutoff tick of the MERGE of rotation `r` on this chip. -/
def mergeCutoff (s : State) (r : Nat) : Nat :=
  ((s.ops.find? (fun o => dOpcode o.d == 0x0810 && rRot o.d == r)).map (fun o => rCutoff o.d)).getD 0

/-- R460 item 4: a chip's mask reaches the reporting chip, which forms the merge set once it holds them all. -/
def takeMask (s : State) (r chip : Nat) (mask : List Nat) : State :=
  if !isReporter s then s
  else
    let s1 := setRot s (fun t => { t with masks := t.masks.filter (fun m => !(m.1 == r && m.2.1 == chip)) ++ [(r, chip, mask)] })
    match formSet s1 r with
    | none => s1
    | some m => releaseSet (setRot s1 (fun t => { t with ready := some m, masks := t.masks.filter (fun x => x.1 != r) }))
        (mergeCutoff s r)

/-- R460 item 3: this chip's mask goes to the reporting chip. -/
def sendMask (s : State) (r : Nat) : State :=
  let m := mergeMask s r
  let s1 := setRot s (fun t => { t with masked := some (max r (t.masked.getD 0)) })
  if isReporter s then takeMask s1 r s.chip m
  else sendLocal s1 0x81 (getA s Reg.rotReport_chip) (m.flatMap (leBytes 1))

/-! ### MERGE: sums and results (R461 to R463) -/

/-- The value of an element in a bundle, or +0 where the bundle does not cover it. -/
def bundleAt (b : RotBundle) (e i j : Nat) : FVal :=
  match b.segs.find? (fun g => g.entry == e && decide (g.row0 ≤ i ∧ i < g.row0 + g.rows.length)) with
  | some g => decodeCode .fp32 ((g.rows.getD (i - g.row0) []).getD j 0)
  | none => fvZero

/-- R461: Δ of an owned slice. -/
def mergeSum (s : State) (used : List RotBundle) (e : RotEntry) (rows : Nat × Nat) : Mat :=
  matGen rows.2 (pNcols s e.param) (fun i j =>
    let acc := used.foldl (fun a b => r32 (fvAdd a (bundleAt b e.num (rows.1 + i) j))) fvZero
    if used.isEmpty then fvZero else divTo .fp32 acc (r32 (fvOfNat used.length)))

/-- R460 item 5: the contributions that a merge set uses, by ascending stand. -/
def usedContribs (s : State) (m : MergeSet) : List RotBundle :=
  (List.range 64).filterMap (fun k =>
    let j := m.used.getD k 0xFF
    if j < 8 ∧ j ≤ m.rotation then heldContrib s k (m.rotation - j) else none)

/-- R460 item 5: used contributions and all older ones of their stands are deleted. -/
def dropUsed (s : State) (m : MergeSet) : State :=
  setRot s (fun t => { t with contribs := t.contribs.filter (fun b =>
    let j := m.used.getD b.stand 0xFF
    !(decide (j < 8) && decide (b.rotation + j ≤ m.rotation))) })

/-- R474: OWNRES is cleared by the first MERGE under a new roster. -/
def freshRoster (s : State) (mask : Nat) : State :=
  if s.rot.roster = some mask then s
  else
    let z := fun (e : RotEntry) => entryWrites s e e.ownres (matGen (pNrows s e.param) (pNcols s e.param) (fun _ _ => fvZero))
    setRot (wrMem s ((rotEntries s).flatMap z)) (fun t => { t with roster := some mask })

/-- R462: the merged slice of one entry quantised, with its residual written. -/
def mergeEntry (o : Op) (r m i : Nat) (used : List RotBundle) (acc : State × List (List Byte)) (e : RotEntry) :
    State × List (List Byte) :=
  let s := acc.1
  let rows := sliceRows s e m i
  let res := ((entryMat s e e.ownres).drop rows.1).take rows.2
  let q := quantSlice s o e e.qout (e.twin * 8 + 5) r rows.1 false (mergeSum s used e rows) res
  let s1 := match q.resid with
    | some x => wrMem q.st (rowWrites s e e.ownres rows.1 x)
    | none => q.st
  (s1, acc.2 ++ [q.seg])

/-- R461, R462: the merge under a merge set: sums, results, bundles to the stands of two rosters. -/
def mergeWork (s : State) (o : Op) (m : MergeSet) : State :=
  let r := rRot o.d
  let ros := rosterOf s r
  let s0 := freshRoster s (standMask ros)
  let used := usedContribs s0 m
  let i := ros.idxOf s.stand
  let q := (sliceEntries s0 ros.length i).foldl (mergeEntry o r ros.length i used) (s0, [])
  let dests := (List.range 64).filter (fun k => inRoster s r k || inRoster s (r + 1) k)
  let s1 := sendBundles (dropUsed q.1 m) 0x83 1 r (standMask ros) o.ctx o.idx (dests.map (fun k => (k, q.2)))
  let rejected := ros.find? (fun k => decide (8 ≤ m.used.getD k 0xFF))
  updOp (setRot s1 (fun t => { t with set := none })) o.ctx o.idx (fun p => { p with work := .rot 2 rejected })

/-- R462: MERGE ends once its bundles lie in retry buffers. -/
def mergeMaybeEnd (s : State) (ctx idx : Nat) : State :=
  match findOp s ctx idx with
  | none => s
  | some o =>
    match o.work with
    | .rot 2 rejected =>
      if s.txq.any (fun m => m.cls == 0x83 && m.msg.ctx == ctx && m.msg.idx == idx) then s
      else match rejected with
        | some k => endOp s ctx idx (worse (normalEnd o) ⟨.staleRejected, k⟩)
        | none => endOp s ctx idx (normalEnd o)
    | _ => s

/-- R463: the merge set that the ledger entry at ADDR records. -/
def replaySet (s : State) (d : Desc) : MergeSet :=
  ⟨rRot d, (List.range 64).map (fun k => rdNat s (rAddr d + 0x40 + k) 1), s.rot.sealed⟩

/-- R463: whether every contribution that a merge set names is held. -/
def setHeld (s : State) (m : MergeSet) : Bool :=
  (List.range 64).all (fun k => decide (8 ≤ m.used.getD k 0xFF) || (heldContrib s k (m.rotation - m.used.getD k 0)).isSome)

/-- R460 item 1: whether rotation-r contributions are held from every roster stand that is not halted (R466). -/
def allArrived (s : State) (r : Nat) : Bool :=
  (rosterOf s r).all (fun k => standHalted s k || (heldContrib s k r).isSome)

/-- R460 item 1: whether this chip's FORM of rotation `r` has ended. -/
def ownFormed (s : State) (r : Nat) : Bool := decide (r < rotId s)

/-- R460: whether a MERGE has its merge set. -/
def mergeReady (s : State) (o : Op) : Option MergeSet :=
  match s.rot.set with
  | some m => if m.rotation = rRot o.d then some m else none
  | none => none

/-- R460 to R463: a MERGE goes as far as it can; `cut`: its cutoff tick has come. -/
def mergeRun (s : State) (o : Op) (cut : Bool) : State :=
  let r := rRot o.d
  match o.work with
  | .rot 2 _ => mergeMaybeEnd s o.ctx o.idx
  | .rot 1 _ =>
    (let s0 := releaseSet s (rCutoff o.d)
     match mergeReady s0 o with
     | some m => mergeMaybeEnd (mergeWork s0 o m) o.ctx o.idx
     | none => s0)
  | _ =>
    if rReplay o.d then
      (let m := replaySet s o.d
       if setHeld s m then
         let s0 := ledgerAdd s ⟨0, r, rotStep s r, standMask (rosterOf s r), rdNat s (rAddr o.d + 0x30) 8, m.used, none⟩
         mergeMaybeEnd (mergeWork s0 o m) o.ctx o.idx
       else s)
    else if ownFormed s r && (cut || allArrived s r) then
      let s1 := sendMask (updOp (dropStale s r) o.ctx o.idx (fun p => { p with work := .rot 1 none })) r
      match mergeReady s1 o with
      | some m => mergeMaybeEnd (mergeWork s1 o m) o.ctx o.idx
      | none => s1
    else s

/-- R460: whether the cutoff tick of a MERGE has been taken. -/
def cutoffTaken (s : State) (o : Op) : Bool := getA s Reg.tickCtrl_run == 1 && decide (rCutoff o.d ≤ tickNow s)

/-- MERGE (R460). -/
def execMerge (ctx idx : Nat) (s : State) : Host.Outcome State Fault Refusal :=
  .next (onOp s ctx idx 0x0810 (fun o => mergeRun s o false))

/-- MERGE_CUTOFF (R460): the cutoff tick ends the wait for contributions. -/
def execMergeCutoff (ctx idx : Nat) (s : State) : Host.Outcome State Fault Refusal :=
  .next (onOp s ctx idx 0x0810 (fun o =>
    if o.work = .none && !rReplay o.d && cutoffTaken s o then mergeRun s o true else s))

/-- MERGE_MASK_RECEIVE (R460, R456): a chip's mask of 64 bytes, or its chip digest, or both, reach the reporting chip;
an empty list stands for what did not come. -/
def execMergeMaskReceive (rotation chip : Nat) (masks : List Nat) (digest : List Byte) (s : State) :
    Host.Outcome State Fault Refusal :=
  .next (
    if !isReporter s then s
    else
      let s1 := if digest.isEmpty then s else
        setRot s (fun t => { t with digests := t.digests.filter (fun d => !(d.1 == rotation && d.2.1 == chip)) ++ [(rotation, chip, digest)] })
      if masks.isEmpty then s1 else takeMask s1 rotation chip masks)

/-- MERGE_SET_RECEIVE (R460): the merge set and the seal, given as the seal plus one, come from the reporting chip. -/
def execMergeSetReceive (rotation sealed : Nat) (used : List Nat) (s : State) : Host.Outcome State Fault Refusal :=
  .next (if isReporter s then s else takeSet s ⟨rotation, used, sealed⟩)

/-! ### The anchor (R472) and APPLY (R464, R465) -/

/-- The merged values of an entry in rotation `r`, once every row is held. -/
def mergedMat (s : State) (r : Nat) (e : RotEntry) : Option Mat :=
  let bs := s.rot.merged.filter (fun b => b.rotation == r)
  let has := fun i => bs.find? (fun b => b.segs.any (fun g => g.entry == e.num && decide (g.row0 ≤ i ∧ i < g.row0 + g.rows.length)))
  if (List.range (pNrows s e.param)).all (fun i => (has i).isSome) then
    some (matGen (pNrows s e.param) (pNcols s e.param) (fun i j => match has i with
      | some b => bundleAt b e.num i j
      | none => fvZero))
  else none

/-- R464, R475: the owners of rotation `r`: the roster of a stand in it, and of a stand that joins after it the one that a merged
bundle names; none while no bundle has come. -/
def ownersOf (s : State) (r : Nat) : Option (List Nat) :=
  if s.stand ∈ rosterOf s r then some (rosterOf s r)
  else (s.rot.merged.find? (fun b => b.rotation == r)).map (fun b => b.roster)

/-- R464: the owners whose merged bundle of rotation `r` is not held. -/
def missingOwners (s : State) (r : Nat) : List Nat :=
  ((ownersOf s r).getD (rosterOf s r)).filter (fun k => !s.rot.merged.any (fun b => b.stand == k && b.rotation == r))

/-- R465: one element of the outer step: the new momentum and the new A. -/
def outerStep (mu eta mo a x : FVal) : FVal × FVal :=
  let mo' := fma32 mu mo x
  let u := fma32 mu mo' x
  (mo', fma32 (fvNegate eta) u a)

/-- Three matrices combined element by element. -/
def matZip3 (f : FVal → FVal → FVal → FVal) (a b c : Mat) : Mat :=
  (a.zip (b.zip c)).map (fun p => (p.1.zip (p.2.1.zip p.2.2)).map (fun q => f q.1 q.2.1 q.2.2))

/-- R472: ANCHOR_ROT shows the last rotation applied to the anchor. -/
def showAnchor (s : State) : State := set2 s landABase Reg.anchorRot_rotLo Reg.anchorRot_rotHi 0 (s.rot.anchored - 1)

/-- R472: the anchor advances by one rotation, if its merged values and its rates are held. -/
def anchorStep (s : State) : Option State :=
  let a := s.rot.anchored
  let es := rotEntries s
  match s.rot.rates.find? (fun p => p.1 == a) with
  | none => none
  | some rate =>
    if es.all (fun e => (mergedMat s a e).isSome) then
      let mu := decodeCode .fp32 rate.2.2
      let eta := decodeCode .fp32 rate.2.1
      let ws := es.flatMap (fun e =>
        let x := (mergedMat s a e).getD []
        let mo := entryMat s e e.anchorMom
        let an := entryMat s e e.anchor
        entryWrites s e e.anchorMom (matZip (fun m v => (outerStep mu eta m fvZero v).1) mo x) ++
          entryWrites s e e.anchor (matZip3 (fun m v y => (outerStep mu eta m y v).2) mo x an))
      some (showAnchor (setRot (wrMem s ws) (fun t => { t with anchored := a + 1, merged := t.merged.filter (fun b => decide (a < b.rotation)),
                                                               rates := t.rates.filter (fun p => decide (a < p.1)) })))
    else none

/-- R472: the anchor advances, one rotation at a time, while fewer than `upTo` rotations are in it. -/
def anchorTo (upTo : Nat) : Nat → State → State
  | 0, s => s
  | n + 1, s =>
    if s.rot.anchored < upTo then
      match anchorStep s with
      | some t => anchorTo upTo n t
      | none => s
    else s

/-- R158: the working copy of a parameter re-derived from its master. -/
def rederiveNow (s : State) (o : Op) (p : Nat) : State :=
  let d := rederive s (cellOfUnit o.d) false p (roleMat s p 0)
  wrMem d.1 d.2

/-- R465: one entry of APPLY: A, Mo and W, and the elements that gave an infinity or a NaN. -/
def applyEntry (o : Op) (s : State) (e : RotEntry) : State :=
  let mu := decodeCode .fp32 (rMu o.d)
  let eta := decodeCode .fp32 (rEta o.d)
  let x := (mergedMat s (rRot o.d) e).getD []
  let mo := roleMat s e.twin 3
  let a := roleMat s e.twin 0
  let dl := entryMat s e e.delta
  let w := roleMat s e.param 0
  let rs := (List.range (pNrows s e.param)).map (fun i => (List.range (pNcols s e.param)).map (fun j =>
    let y := outerStep mu eta (matAt mo i j) (matAt a i j) (matAt x i j)
    let c := r32 (fvSub y.2 (matAt a i j))
    let c' := r32 (fvAdd c (matAt dl i j))
    let w' := r32 (fvAdd (matAt w i j) c')
    (y.1, y.2, w', [y.1, fma32 mu y.1 (matAt x i j), y.2, c, c', w'].any fvNonFinite)))
  let bad := (((List.range (pNrows s e.param * pNcols s e.param)).zip rs.flatten).filter (fun p => p.2.2.2.2)).map (fun p => p.1 / 8192)
  let s1 := flagUnits s o.d bad.eraseDups
  let s2 := wrMem s1 (entryWrites s e (roleOff s e.twin 3) (rs.map (fun r => r.map (fun y => y.1))) ++
    entryWrites s e (roleOff s e.twin 0) (rs.map (fun r => r.map (fun y => y.2.1))) ++
    entryWrites s e (roleOff s e.param 0) (rs.map (fun r => r.map (fun y => y.2.2.1))))
  rederiveNow (rederiveNow s2 o e.param) o e.twin

/-- R464, R496: whether an APPLY waits: for the merged bundles of every owner, or for a TALLY_CLOSE that reads the masters. -/
def applyWaits (s : State) (o : Op) : Bool :=
  (ownersOf s (rRot o.d)).isNone || !(missingOwners s (rRot o.d)).isEmpty || closeUnread s o

/-- R464, R465, R466: APPLY's work, once every merged bundle is held. -/
def applyRun (s : State) (o : Op) : State :=
  let r := rRot o.d
  let miss := missingOwners s r
  if miss.any (standHalted s) then endOp s o.ctx o.idx ⟨.authFail, 0⟩
  else if applyWaits s o then s
  else
    let s1 := (rotEntries s).foldl (applyEntry o) s
    let s2 := setRot s1 (fun t => { t with applied := some r, rates := t.rates.filter (fun p => p.1 != r) ++ [(r, rEta o.d, rMu o.d)] })
    endOp (anchorTo s2.rot.sealed (s2.rot.sealed - s2.rot.anchored) s2) o.ctx o.idx (normalEnd o)

/-- APPLY (R465). -/
def execApply (ctx idx : Nat) (s : State) : Host.Outcome State Fault Refusal :=
  .next (onOp s ctx idx 0x0820 (fun o => applyRun s o))

/-! ### BASIS (R467) -/

/-- R467: the basis records of the table with the record that each takes its factor from, each record once. -/
def basisPairs (s : State) : List (Nat × Nat) :=
  (((rotEntries s).filter (fun e => e.rotate)).flatMap (fun e => [(e.xl, e.srcL), (e.xr, e.srcR)])).filter
    (fun p => p.1 != 0x3FF) |>.foldl (fun acc p => if acc.any (fun q => q.1 == p.1) then acc else acc ++ [p]) []

/-- R467: the bytes of a standing factor: its matrix and its vector, without pitch. -/
def factorBytes (s : State) (x : Nat) : List Byte :=
  regionBytes s.mem (bufRegion (facBuf s x (facSel s x)) (facN s x))

/-- R467: a received factor is written into the candidate of a record and promoted; the spec gives the GEN_ fields of
this promotion no value, and they keep theirs. -/
def takeFactor (s : State) (x : Nat) (bs : List Byte) : State :=
  let n := facN s x
  let r := bufRegion (facCand s x) n
  let ws := (List.range r.rows).flatMap (fun i => bytesWrites (r.off + i * r.pitch) ((bs.drop (i * r.len)).take r.len))
  let a := facAddr s x
  promote (wrMem s ws) x 3 (rdNat s (a + 0x3C) 4) (rdNat s (a + 0x40) 4) (rdBits s (a + 0x44) 7 0) (rdBits s (a + 0x44) 15 8)

/-- R467: the basis stand of rotation `r`. -/
def basisStand (s : State) (r : Nat) : Nat := (rosterOf s r).headD 0

/-- R467, R199: BASIS's work; `factors` gives the received factor of each basis record. -/
def basisRunNow (s : State) (o : Op) (factors : List (Nat × List Byte)) : State :=
  let r := rRot o.d
  let own : Bool := basisStand s r == s.stand
  let ps := basisPairs s
  let bytes := fun (p : Nat × Nat) => if own then some (factorBytes s p.2) else (factors.find? (fun f => f.1 == p.1)).map (fun f => f.2)
  if ps.any (fun p => (bytes p).isNone) || ps.any (fun p => s.ops.any (fun q => !isOp o.ctx o.idx q && readsCand s p.1 q)) then s
  else
    let s1 := if own then ((rosterOf s r).filter (fun k => k != s.stand)).foldl (fun t k =>
        ps.foldl (fun u p => sendStand u 0x86 k u.chip (factorBytes s p.2) o.ctx o.idx) t) s else s
    let s2 := ps.foldl (fun t p => takeFactor t p.1 ((bytes p).getD [])) s1
    finishOp (setRot s2 (fun t => { t with basisRot := r, basisRun := true })) o.ctx o.idx

/-- BASIS (R467): `factors` lists the factors received from the basis stand, by basis record. -/
def execBasis (ctx idx : Nat) (factors : List (Nat × List Byte)) (s : State) : Host.Outcome State Fault Refusal :=
  .next (onOp s ctx idx 0x0830 (fun o => basisRunNow s o factors))

/-! ### The ledger (R468 to R471) -/

/-- R468: the body of a ledger entry. -/
def ledgerBody (s : State) (i : LedgerItem) (common : List Byte) : List Byte :=
  leBytes 4 0x4C474452 ++ leBytes 1 1 ++ leBytes 1 i.kind ++ leBytes 1 s.stand ++ leBytes 1 0 ++ leBytes 8 s.rot.entryNo ++
    leBytes 8 i.rotation ++ leBytes 8 i.aux ++ leBytes 8 i.roster ++ leBytes 2 (rotStale s) ++ leBytes 2 (getA s Reg.rotCtrl_h) ++
    leBytes 4 0 ++ leBytes 8 i.cutoff ++ leBytes 8 s.rot.basisRot ++ i.used.flatMap (leBytes 1) ++ common ++ s.rot.prevHash

/-- R468: the digests of every chip for an entry, in ascending chip number: those held for KIND 0, this chip's own, and
those that come with the command. -/
def ledgerDigests (s : State) (i : LedgerItem) (given : List (Nat × List Byte)) : Option (List Byte) :=
  let one := fun c =>
    if i.kind = 0 then
      match s.rot.digests.find? (fun d => d.1 == i.rotation && d.2.1 == c) with
      | some d => some d.2.2
      | none => (given.find? (fun g => g.1 == c)).map (fun g => g.2)
    else if c = s.chip then some (i.digest.getD (commonChip s))
    else (given.find? (fun g => g.1 == c)).map (fun g => g.2)
  let ds := (standChips s).map one
  if ds.all (fun d => d.isSome) then some (sha512 (ds.flatMap (fun d => d.getD []))) else none

/-- R471: two stands' entries of a rotation that differ in COMMON_DIGEST. -/
def digestBad (s : State) (r other : Nat) : State :=
  let s1 := setRot (setA s Reg.rotStatus_digestBad 1) (fun t => { t with mismatch := some (faultTail s) })
  writeFault s1 ⟨0x0A, 0, 0, 0xFFFF, 0, [r, s.stand + other * 256]⟩

/-- R471: a COMMON_DIGEST of a stand is noted and compared with this stand's, or with those that came before. -/
def noteCommon (s : State) (r k : Nat) (d : List Byte) : State :=
  let s1 := setRot s (fun t => { t with common := t.common.filter (fun c => !(c.1 == r && c.2.1 == k)) ++ [(r, k, d)] })
  let others := s.rot.common.filter (fun c => c.1 == r && c.2.1 != k && (k == s.stand || c.2.1 == s.stand) && c.2.2 != d)
  others.foldl (fun t c => digestBad t r (if k = s.stand then c.2.1 else k)) s1

/-- R471: LAST_ROT of stand `k`. -/
def setLast (s : State) (k r : Nat) : State :=
  match partOf s k with
  | some e => partPut s Reg.part_lastRot e r
  | none => s

/-- R468, R470, R471: the first entry that is due is written, signed, and sent where it is of KIND 0. -/
def ledgerWrite (s : State) (i : LedgerItem) (common : List Byte) : State :=
  let body := ledgerBody s i common
  let at' := getA2 s Reg.ledgerBase_baseLo Reg.ledgerBase_baseHi + s.rot.entryNo % getA s Reg.ledgerCap_count * 768
  let entry := body ++ signatureOf body
  let s1 := setRot (wrMem s (bytesWrites at' entry)) (fun t =>
    { t with ledger := t.ledger.tail, entryNo := t.entryNo + 1, prevHash := sha512 body,
             digests := if i.kind = 0 then t.digests.filter (fun d => d.1 != i.rotation) else t.digests })
  let s2 := setA s1 Reg.ledgerTail_entry (s1.rot.entryNo % 2 ^ 32)
  if i.kind ≠ 0 then s2
  else
    let s3 := ((rosterOf s i.rotation).filter (fun k => k != s.stand)).foldl (fun t k =>
      sendStand t 0x84 k (getA s Reg.rotReport_chip) entry 0xFFFF 0) s2
    noteCommon (setLast s3 s.stand i.rotation) i.rotation s.stand common

/-- R470: whether the ring has room for the first entry that is due. -/
def ledgerFits (s : State) : Bool :=
  decide ((s.rot.entryNo + 2 ^ 32 - getA s Reg.ledgerHead_entry) % 2 ^ 32 < getA s Reg.ledgerCap_count)

/-- LEDGER_ENTRY_WRITE (R468): the reporting chip writes the first entry that is due; `digests` gives the chip digests of
the stand's other chips where they are not held. -/
def execLedgerEntryWrite (digests : List (Nat × List Byte)) (s : State) : Host.Outcome State Fault Refusal :=
  .next (
    let s0 := match s.rot.ready with
      | some m => releaseSet s (mergeCutoff s m.rotation)
      | none => s
    match s0.rot.ledger with
    | [] => s0
    | i :: _ =>
      if !isReporter s0 then s0
      else if !ledgerFits s0 then
        (if s0.rot.waited then s0 else setRot (countA s0 Reg.ledgerWaits_count 1) (fun t => { t with waited := true }))
      else match ledgerDigests s0 i digests with
        | none => s0
        | some c => setRot (ledgerWrite (countSha (countSha s0 256) 256) i c) (fun t => { t with waited := false }))

/-- LEDGER_ENTRY_RECEIVE (R471): another stand's entry arrives. -/
def execLedgerEntryReceive (entry : List Byte) (s : State) : Host.Outcome State Fault Refusal :=
  .next (
    let k := byteNat entry 6 1 % 64
    let r := byteNat entry 0x10 8
    if !isReporter s || byteNat entry 5 1 != 0 || byteNat entry 0 4 != 0x4C474452 || (partOf s k).isNone then s
    else noteCommon (setLast s k r) r k ((entry.drop 0x80).take 64))

/-! ### PARTNER (R473, R474, R477) -/

/-- R474: whether FORM of rotation `r` has begun on this chip. -/
def formBegun (s : State) (r : Nat) : Bool :=
  decide (r < rotId s) || s.ops.any (fun o => dOpcode o.d == 0x0800 && decide (r ≤ rRot o.d))

/-- R484: the fault of a PARTNER join. -/
def joinBad (s : State) (d : Desc) : Bool :=
  (partOf s (rStand d)).isSome || (rStand d != s.stand && sessF s Reg.far_valid (rSession d) == 0) || formBegun s (rRot d)

/-- R473: the lowest empty entry. -/
def emptyPart (s : State) : Option Nat := (List.range 64).find? (fun e => partF s Reg.part_state e == 0)

/-- R473: an entry written. -/
def putPart (s : State) (e stand state session join : Nat) : State :=
  let s1 := partPut (partPut (partPut s Reg.part_stand e stand) Reg.part_state e state) Reg.part_session e session
  partPut (partPut (partPut s1 Reg.part_joinRot e join) Reg.part_lostRot e 0) Reg.part_lastRot e 0

/-- USED of an entry that is not of KIND 0 or 3. -/
def noUsed : List Nat := List.replicate 64 0xFF

/-- R473, R475: PARTNER join. -/
def partnerJoin (s : State) (o : Op) : State :=
  let d := o.d
  match emptyPart s with
  | none => endOp s o.ctx o.idx ⟨.tableFull, 0⟩
  | some e =>
    let s1 := putPart s e (rStand d) 1 (if rStand d = s.stand then 0 else rSession d) (rRot d)
    let s2 := if rStand d = s.stand then setRot s1 (fun t => { t with basisRun := false }) else s1
    finishOp (ledgerAdd s2 ⟨1, rRot d, rRot d - 1, standMask (rosterOf s2 (rRot d)), 0, noUsed, none⟩) o.ctx o.idx

/-- PARTNER_JOIN (R473). -/
def execPartnerJoin (ctx idx : Nat) (s : State) : Host.Outcome State Fault Refusal :=
  .next (onOp s ctx idx 0x0840 (fun o => if rAction o.d = 0 then partnerJoin s o else s))

/-- R473: whether a drop is at fault: the stand is not in the table, or a member. -/
def dropBad (s : State) (d : Desc) : Bool :=
  match partOf s (rStand d) with
  | some e => partF s Reg.part_state e != 2
  | none => true

/-- PARTNER_DROP (R473): a lost entry is emptied. -/
def execPartnerDrop (ctx idx : Nat) (s : State) : Host.Outcome State Fault Refusal :=
  .next (onOp s ctx idx 0x0840 (fun o =>
    if rAction o.d ≠ 2 then s
    else match partOf s (rStand o.d) with
      | some e => finishOp (putPart s e 0 0 0 0) ctx idx
      | none => s))

/-- R477: the stands of the table outside a mask. -/
def outsideOf (s : State) (mask : Nat) : List Nat :=
  (List.range 64).filter (fun k => (partOf s k).isSome && !bit mask k)

/-- R484: the fault of a PARTNER split: its mask omits its own stand or names a stand not in the table. -/
def splitBad (s : State) (d : Desc) : Bool :=
  !bit (rMask d 0) s.stand || (List.range 64).any (fun k => bit (rMask d 0) k && (partOf s k).isNone)

/-- R477 item 1: whether an operation is a MERGE or an APPLY that waits. -/
def rotWaiting (o : Op) : Bool := o.ended.isNone && (dOpcode o.d == 0x0820 || (dOpcode o.d == 0x0810 &&
  (match o.work with
    | .rot 2 _ => false
    | _ => true)))

/-- R477 item 4: one entry is set back to its anchor. -/
def splitEntry (o : Op) (s : State) (e : RotEntry) : State :=
  let an := entryMat s e e.anchor
  let w := matZip3 (fun w a x => r32 (fvAdd w (r32 (fvSub a x)))) (roleMat s e.param 0) an (roleMat s e.twin 0)
  let z := matGen (pNrows s e.param) (pNcols s e.param) (fun _ _ => fvZero)
  let s1 := wrMem s (entryWrites s e (roleOff s e.param 0) w ++ entryWrites s e (roleOff s e.twin 0) an ++
    entryWrites s e (roleOff s e.twin 3) (entryMat s e e.anchorMom) ++ entryWrites s e e.ownres z)
  rederiveNow (rederiveNow s1 o e.param) o e.twin

/-- R477: the split, once the anchor has reached `highest`, the rotations in the branch's highest anchor. -/
def partnerSplit (s : State) (o : Op) (highest : Nat) : State :=
  let mask := rMask o.d 0
  let out := outsideOf s mask
  let s1 := s.ops.foldl (fun t p => if rotWaiting p then endOp t p.ctx p.idx ⟨.staleRejected, out.headD 0⟩ else t) s
  let s2 := anchorTo highest (highest - s1.rot.anchored) s1
  if s2.rot.anchored < highest || closeUnread s2 o then s
  else
    let s3 := out.foldl (fun t k => match partOf t k with
      | some e => partPut (partPut t Reg.part_state e 2) Reg.part_lostRot e (rotId s % 2 ^ 32)
      | none => t) s2
    let s4 := (rotEntries s3).foldl (splitEntry o) s3
    let s5 := setA (setRot s4 (fun t => { t with afterSplit := true, basisRun := false, set := none, ready := none })) Reg.rotStatus_split 1
    finishOp (ledgerAdd s5 ⟨2, rotId s, s5.rot.anchored - 1, standMask (rosterOf s5 (rotId s)), 0, noUsed, some (commonChip s5)⟩) o.ctx o.idx

/-- PARTNER_SPLIT (R477): `highest` is the number of rotations in the highest anchor of the branch. -/
def execPartnerSplit (ctx idx highest : Nat) (s : State) : Host.Outcome State Fault Refusal :=
  .next (onOp s ctx idx 0x0840 (fun o => if rAction o.d = 1 then partnerSplit s o highest else s))

/-! ### HEAL (R478, R479) -/

/-- R478: the branches that HEAL names, by ascending lowest stand. -/
def healBranches (d : Desc) : List (List Nat) :=
  List.insertionSort (fun (a b : List Nat) => a.headD 64 ≤ b.headD 64)
    (((List.range 4).map (fun b => (List.range 64).filter (fun k => bit (rMask d b) k))).filter (fun l => !l.isEmpty))

/-- R484: the fault of HEAL. -/
def healBad (s : State) (d : Desc) : Bool :=
  let all := (healBranches d).flatten
  all.eraseDups.length != all.length || !all.contains s.stand || all.any (fun k => (partOf s k).isNone) ||
    getA s Reg.rotStatus_split == 0 || decide (rRot d ≤ rotId s)

/-- R478: this stand's digest of ANCHOR: computed where the stand is one chip, else the one that came. -/
def ownAnchorDigest (s : State) (digests : List (Nat × List Byte)) : List Byte :=
  if standChips s = [s.chip] then sha512 (chipDigest s (fun e => entryRegion s e e.anchor))
  else ((digests.find? (fun g => g.1 == s.stand)).map (fun g => g.2)).getD []

/-- R478: the digests of a set of stands, where all are known. -/
def allDigests (s : State) (ks : List Nat) (digests : List (Nat × List Byte)) : Option (List (List Byte)) :=
  let ds := ks.map (fun k => if k = s.stand then some (ownAnchorDigest s digests)
    else (digests.find? (fun g => g.1 == k)).map (fun g => g.2))
  if ds.all (fun d => d.isSome) then some (ds.map (fun d => d.getD [])) else none

/-- R479: A of branch `b` for an entry: this chip's own, or the shard that came. -/
def branchA (s : State) (e : RotEntry) (b : List Nat) (shards : List (Nat × Nat × List Byte)) : Option Mat :=
  if b.contains s.stand then some (roleMat s e.twin 0)
  else (shards.find? (fun g => g.1 == b.headD 64 && g.2.1 == e.num)).map (fun g =>
    packedMat (pNcols s e.param) (pNrows s e.param) g.2.2)

/-- R479: one entry of a graft. -/
def graftEntry (o : Op) (bs : List (List Nat)) (shards : List (Nat × Nat × List Byte)) (s : State) (e : RotEntry) : State :=
  let n := bs.flatten.length
  let an := entryMat s e e.anchor
  let as := bs.map (fun b => ((branchA s e b shards).getD [], divTo .fp32 (r32 (fvOfNat b.length)) (r32 (fvOfNat n))))
  let new := matGen (pNrows s e.param) (pNcols s e.param) (fun i j =>
    r32 (fvAdd (matAt an i j) (as.foldl (fun acc x => fma32 (r32 (fvSub (matAt x.1 i j) (matAt an i j))) x.2 acc) fvZero)))
  let w := matZip3 (fun w a x => r32 (fvAdd w (r32 (fvSub a x)))) (roleMat s e.param 0) new (roleMat s e.twin 0)
  let z := matGen (pNrows s e.param) (pNcols s e.param) (fun _ _ => fvZero)
  let s1 := wrMem s (entryWrites s e (roleOff s e.param 0) w ++ entryWrites s e (roleOff s e.twin 0) new ++
    entryWrites s e e.anchor new ++ entryWrites s e (roleOff s e.twin 3) z ++ entryWrites s e e.anchorMom z ++
    entryWrites s e e.ownres z)
  rederiveNow (rederiveNow s1 o e.param) o e.twin

/-- R479: every chip grafts.  DEDUCED: ANCHOR is then A as rotation r_h finds it, so that its rotation is the one before, and
merged results up to it are dropped (log entry 50). -/
def healGraft (s : State) (o : Op) (bs : List (List Nat)) (shards : List (Nat × Nat × List Byte)) (a : Nat) : State :=
  let r := rRot o.d
  let s1 := (rotEntries s).foldl (graftEntry o bs shards) s
  let s2 := bs.flatten.foldl (fun t k => match partOf t k with
    | some e => partPut (partPut t Reg.part_state e 1) Reg.part_joinRot e r
    | none => t) s1
  let s3 := set2 s2 landABase Reg.rotId_idLo Reg.rotId_idHi 0 r
  let s4 := setA (setA s3 Reg.rotStatus_outcome 1) Reg.rotStatus_split 0
  let s5 := showAnchor (setRot s4 (fun t => { t with afterSplit := true, anchored := r, merged := t.merged.filter (fun b => decide (r ≤ b.rotation)),
                                                     rates := t.rates.filter (fun p => decide (r ≤ p.1)) }))
  let used := (List.range 64).map (fun k => (bs.findIdx? (fun b => b.contains k)).getD 0xFF)
  finishOp (ledgerAdd s5 ⟨3, r, a - 1, standMask bs.flatten, 0, used, some (commonChip s5)⟩) o.ctx o.idx

/-- R478 item 4: the branch that is kept. -/
def keptBranch (bs : List (List Nat)) : List Nat :=
  bs.foldl (fun m b => if m.length < b.length then b else m) []

/-- R478: HEAL's work, once what it needs from the other stands has come: the rotations in every stand's anchor, the
digests of ANCHOR, and the shards of the other branches. -/
def healRun (s : State) (o : Op) (anchors : List (Nat × Nat)) (digests : List (Nat × List Byte))
    (shards : List (Nat × Nat × List Byte)) : State :=
  let bs := healBranches o.d
  let all := bs.flatten
  let r := rRot o.d
  if all.any (standHalted s) then endOp s o.ctx o.idx ⟨.authFail, 0⟩
  else if closeUnread s o || all.any (fun k => k != s.stand && !anchors.any (fun p => p.1 == k)) then s
  else
    let a := (anchors.filter (fun p => all.contains p.1)).foldl (fun m p => max m p.2) s.rot.anchored
    let s1 := anchorTo a (a - s.rot.anchored) s
    let lacks : Bool := decide (s1.rot.anchored < a)
    match allDigests s1 all digests with
    | none => s
    | some ds =>
      let same : Bool := !lacks && ds.all (fun d => d == ds.headD [])
      if same ∧ r + 1 - a ≤ getA s Reg.rotCtrl2_graftWindow then
        if (rotEntries s1).all (fun e => bs.all (fun b => (branchA s1 e b shards).isSome)) then healGraft s1 o bs shards a else s
      else if (keptBranch bs).contains s.stand then
        let s2 := setA s1 Reg.rotStatus_outcome 2
        finishOp (ledgerAdd s2 ⟨4, r, 0, standMask (rosterOf s2 r), 0, noUsed, some (commonChip s2)⟩) o.ctx o.idx
      else finishOp (setA s1 Reg.rotStatus_outcome 3) o.ctx o.idx

/-- HEAL (R478): `anchors` gives the rotations in the anchor of each other stand, `digests` the digests of ANCHOR by
stand, `shards` the TWIN role-0 shards of the other branches by lowest stand and entry. -/
def execHeal (ctx idx : Nat) (anchors : List (Nat × Nat)) (digests : List (Nat × List Byte))
    (shards : List (Nat × Nat × List Byte)) (s : State) : Host.Outcome State Fault Refusal :=
  .next (onOp s ctx idx 0x0850 (fun o => healRun s o anchors digests shards))

/-! ### JOIN_CHECK (R476) -/

/-- R476: COMMON_DIGEST recomputed from the role-0 values that this chip holds and the digests of its stand's other
chips. -/
def joinDigest (s : State) (digests : List (Nat × List Byte)) : List Byte :=
  sha512 ((standChips s).flatMap (fun c => if c = s.chip then commonChip s
    else ((digests.find? (fun g => g.1 == c)).map (fun g => g.2)).getD []))

/-- R476, R500: JOIN_CHECK's work: the entry's signature under the chain at CERT, and COMMON_DIGEST. -/
def joinCheck (s : State) (o : Op) (digests : List (Nat × List Byte)) : State :=
  let body := rdBytes s (rEntry o.d) 256
  let sigOk := chainVerifies s (rCert o.d) body (rdBytes s (rEntry o.d + 256) 512)
  let s1 := countSha s 256
  if sigOk && joinDigest s digests == (body.drop 0x80).take 64 then
    finishOp (if s.rot.entryNo = 0 then setRot s1 (fun t => { t with prevHash := sha512 body }) else s1) o.ctx o.idx
  else endWithRecord s1 o.ctx o.idx .digestMismatch 0x0B 0 [if sigOk then 1 else 0]

/-- JOIN_CHECK (R476): `digests` gives the chip digests of the stand's other chips. -/
def execJoinCheck (ctx idx : Nat) (digests : List (Nat × List Byte)) (s : State) : Host.Outcome State Fault Refusal :=
  .next (onOp s ctx idx 0x0860 (fun o => joinCheck s o digests))

/-! ### The beginning of a rotation operation (R484, R471, R32) -/

/-- R484: the order fault of an operation. -/
def rotOrderBad (s : State) (d : Desc) : Bool :=
  let r := rRot d
  match dOpcode d with
  | 0x0800 => formEarly s r
  | 0x0810 => !ownFormed s r
  | 0x0820 => rStep d != rotStep s (r + 1) + getA s Reg.rotCtrl2_lag || stepId s != rStep d
  | 0x0830 => (let n := getA s Reg.rotCtrl2_basisEvery; n == 0 || r % n != 0) || formBegun s r
  | _ => false

/-- R484: the partner fault of an operation. -/
def rotPartnerBad (s : State) (d : Desc) : Bool :=
  dOpcode d == 0x0840 && (if rAction d = 0 then joinBad s d else if rAction d = 1 then splitBad s d else dropBad s d)

/-- Whether an operation works on the shards of the table. -/
def usesTable (d : Desc) : Bool := dOpcode d != 0x0860 && !(dOpcode d == 0x0840 && rAction d != 1)

/-- The execution fault of a class 0x08 operation. -/
def rotFault (s : State) (d : Desc) : Option (Nat × Nat) :=
  match accessFault s ((if usesTable d || dOpcode d == 0x0860 then rotRegions s else []) ++
      (if dOpcode d = 0x0810 ∧ rReplay d then [⟨rAddr d, 0, 1, 256⟩] else []) ++
      (if dOpcode d = 0x0860 then ⟨rEntry d, 0, 1, 768⟩ :: chainRegions s (rCert d) else [])) with
  | some e => some e
  | none =>
    if dEval d && dOpcode d != 0x0860 then some (0x0A, 0)
    else if rotOrderBad s d then some (0x1B1, 0)
    else if usesTable d && (rotEntries s).any (rotEntryBad s) then some (0x1B2, 0)
    else match (if usesTable d then accessFault s (rotShards s) else none) with
      | some e => some e
      | none =>
        if rotPartnerBad s d then some (0x1B3, 0)
        else if dOpcode d = 0x0850 ∧ healBad s d then some (0x1B4, 0)
        else none

/-- R32, R198: the basis records that FORM reads from its beginning on. -/
def formFacs (s : State) : List FacRead :=
  if s.rot.basisRun then
    (((rotEntries s).filter (fun e => e.rotate)).flatMap (fun e => [e.xl, e.xr])).filter (fun x => x != 0x3FF)
      |>.eraseDups |>.map (facRead s)
  else []

/-- A class 0x08 operation begins. -/
def rotBegin (s : State) (ctx idx : Nat) : State :=
  match findOp s ctx idx with
  | none => s
  | some o =>
    match rotFault s o.d with
    | some e => ctxFault s ctx idx e.1 e.2
    | none =>
      if dOpcode o.d = 0x0800 then
        updOp s ctx idx (fun p => { p with facs := formFacs s, work := .rot (nat01 s.rot.basisRun) none })
      else if dOpcode o.d = 0x0810 ∧ isReporter s then
        match s.rot.mismatch with
        | some i => endOp (setRot s (fun t => { t with mismatch := none })) ctx idx ⟨.digestMismatch, i⟩
        | none => s
      else s

end Sys2Proof.Machine
end

