-- ==== Sys2Proof/Machine/Tally.lean ====
section
/-!
DEFINITION. Tally records, the close of a step, DIGEST, signatures of records, and voted fields (R487 to R496, R151,
R504, R505, R510 to R514).
-/

namespace Sys2Proof.Machine

/-! ### Records (R490 to R493) -/

/-- R511: whether records are kept. -/
def tallyKept (s : State) : Bool := getA s Reg.tallyCtrl_enable == 1 && getA s Reg.tallyCtrl_cap != 0

/-- R490: the offset of the slot of a tag. -/
def tallySlot (s : State) (tag : Nat) : Nat :=
  getA2 s Reg.tallyBase_baseLo Reg.tallyBase_baseHi + tag % getA s Reg.tallyCtrl_cap * 36864

/-- R490: a slot as a region. -/
def tallyRegion (s : State) (tag : Nat) : Region := ⟨tallySlot s tag, 0, 1, 36864⟩

/-- The open record of a tag. -/
def tallyRec (s : State) (tag : Nat) : Option Tally := s.tally.recs.find? (fun r => r.tag == tag)

/-- The open record of a tag changed. -/
def updTally (s : State) (tag : Nat) (f : Tally → Tally) : State :=
  { s with tally := { s.tally with recs := s.tally.recs.map (fun r => if r.tag == tag then f r else r) } }

/-- R491: whether a descriptor finds the record that it names open. -/
def tallyFound (s : State) (d : Desc) : Bool := dTag d == 0 || (tallyRec s (dTag d)).isSome

/-- R493: the order of generation entries: by RECORD, then by GEN. -/
def genBefore (a b : Nat × Nat × Nat) : Bool := decide (a.1 < b.1) || (a.1 == b.1 && decide (a.2.1 < b.2.1))

/-- R493: a generation entry put in its place; a pair that is there is kept once. -/
def genInsert (g : Nat × Nat × Nat) : List (Nat × Nat × Nat) → List (Nat × Nat × Nat)
  | [] => [g]
  | x :: r =>
    if x.1 = g.1 ∧ x.2.1 = g.2.1 then x :: r else if genBefore g x then g :: x :: r else x :: genInsert g r

/-- R198, R493: the entry of a standing factor that is read: record, GEN and GEN_FOLDS. -/
def genOf (s : State) (f : FacRead) : Nat × Nat × Nat := (f.num, f.gen, rdNat s (facAddr s f.num + 0x3C) 4)

/-- R491, R493: the pairs of reads made at a beginning are added at once; none where the section would exceed 1,024
entries. -/
def tallyGens (s : State) (d : Desc) (fs : List FacRead) : Option State :=
  if dTag d = 0 ∨ dEval d ∨ fs.isEmpty then some s
  else match tallyRec s (dTag d) with
    | none => some s
    | some r =>
      let gs := fs.foldl (fun l f => genInsert (genOf s f) l) r.gens
      if 1024 < gs.length then none else some (updTally s (dTag d) (fun x => { x with gens := gs }))

/-- R49, R126, R491, R492: an ended operation's counts and output digests are added to the record that it names. -/
def tallyAdd (s : State) (o : Op) (status : Status) (digests : List Nat) : State :=
  if dTag o.d = 0 ∨ dEval o.d then s
  else updTally s (dTag o.d) (fun r =>
    { r with checks := satAdd (2 ^ 32 - 1) r.checks o.checks
             reruns := satAdd (2 ^ 32 - 1) r.reruns o.reruns
             brakes := satAdd (2 ^ 32 - 1) r.brakes o.brakes
             overruns := satAdd 65535 r.overruns (nat01 (status = .tickOverrun))
             checkFails := satAdd 65535 r.checkFails (nat01 (status = .checkFail))
             outCount := satAdd (2 ^ 32 - 1) r.outCount digests.length
             outSum := digests.foldl (fun a h => (a + h) % ringP) r.outSum })

/-! ### TALLY_OPEN (R491, R510 to R512) -/

/-- R510: TAG of a class 0x0A body. -/
def tgTag (d : Desc) : Nat := dfld d 0x20 31 0
/-- R510: STEP of a class 0x0A body. -/
def tgStep (d : Desc) : Nat := dfld d 0x28 63 0
/-- R510: LOSS_VALID. -/
def tgLossValid (d : Desc) : Bool := dfld d 0x24 0 0 == 1
/-- R510: LOSS. -/
def tgLoss (d : Desc) : Nat := dfld d 0x30 41 0

/-- R492: the header that TALLY_OPEN writes. -/
def tallyHeader (step flags : Nat) : List Byte :=
  leBytes 4 0x594C4154 ++ leBytes 4 (1 + 256 * flags) ++ leBytes 8 step

/-- R492: bytes 0x18 to 0x1F. -/
def tallyIds (s : State) (tag : Nat) : List Byte := leBytes 4 tag ++ leBytes 2 s.chip ++ leBytes 2 (s.stand % 64)

/-- R511, R512: the fault of a TALLY_OPEN. -/
def tallyOpenFault (s : State) (d : Desc) : Option (Nat × Nat) :=
  if !tallyKept s then some (0x1C2, 0)
  else match accessFault s [tallyRegion s (tgTag d)] with
    | some e => some e
    | none =>
      if s.tally.recs.any (fun r => tallySlot s r.tag == tallySlot s (tgTag d)) then some (0x1C2, 0)
      else outFault s d [tallyRegion s (tgTag d)]

/-- TALLY_OPEN (R491): waits while its slot's signature is pending, then zeroes the slot, writes the header and opens the
record. -/
def execTallyOpen (ctx idx : Nat) (s : State) : Host.Outcome State Fault Refusal :=
  .next (onOp s ctx idx 0x0A00 (fun o =>
    let tag := tgTag o.d
    if tallyKept s && s.tally.signing.any (fun q => q.2 == tallySlot s tag) then s
    else match tallyOpenFault s o.d with
      | some e => ctxFault s ctx idx e.1 e.2
      | none =>
        let a := tallySlot s tag
        let s1 := wrMem s (bytesWrites a (tallyHeader (tgStep o.d) 0 ++ leBytes 8 0 ++ tallyIds s tag ++
          List.replicate (36864 - 32) 0))
        endOp { s1 with tally := { s1.tally with recs := s1.tally.recs ++ [⟨tag, tgStep o.d, false, 0, 0, 0, 0, 0, 0, 0, []⟩] } }
          ctx idx ⟨.done, 0⟩))

/-! ### TALLY_CLOSE (R151, R495, R496) -/

/-- R511, R512: the fault of a TALLY_CLOSE. -/
def tallyCloseFault (s : State) (d : Desc) : Option (Nat × Nat) :=
  if !tallyKept s then (if tgStep d = stepId s then none else some (0x1C2, 0))
  else match tallyRec s (tgTag d) with
    | none => some (0x1C2, 0)
    | some r =>
      match accessFault s (tallyRegion s r.tag :: if tgLossValid d then [⟨tgLoss d, 0, 1, 4⟩] else []) with
      | some e => some e
      | none => if r.closing || r.step != tgStep d || tgStep d != stepId s then some (0x1C2, 0) else none

/-- A close with nothing done. -/
def closeFresh (kept : Bool) : CloseWork := ⟨kept, false, false, none, false, 0, none⟩

/-- The progress of a TALLY_CLOSE. -/
def closeOf (o : Op) : CloseWork :=
  match o.work with
  | .close w => w
  | _ => closeFresh false

/-- The progress of a TALLY_CLOSE changed. -/
def setClose (s : State) (ctx idx : Nat) (f : CloseWork → CloseWork) : State :=
  updOp s ctx idx (fun o => { o with work := .close (f (closeOf o)) })

/-- R491, R512: a TALLY_CLOSE begins: its checks are made and its record is closing from now on. -/
def tallyCloseBegin (s : State) (ctx idx : Nat) : State :=
  match findOp s ctx idx with
  | none => s
  | some o =>
    match tallyCloseFault s o.d with
    | some e => ctxFault s ctx idx e.1 e.2
    | none =>
      let s1 := setClose s ctx idx (fun _ => closeFresh (tallyKept s))
      if tallyKept s then updTally s1 (tgTag o.d) (fun r => { r with closing := true }) else s1

/-- R151 step 1: whether some Cell's non-finite flag is set. -/
def anyFlag (s : State) : Bool := (List.range 128).any (fun c => (cellGet s c).nf)

/-- R151 step 1: the flags of all Cells cleared. -/
def clearFlags (s : State) : State := (List.range 128).foldl (fun t c => cellSet t c { cellGet t c with nf := false }) s

/-- R151 step 2: the flag and the STEP_AMAX values are contributed. -/
def closeAsk (s : State) (o : Op) : State :=
  let st := tgStep o.d
  let f := anyFlag s
  let s0 := { clearFlags s with sclLate := [], sclFmtLate := [] }
  let s1 := setClose s0 o.ctx o.idx (fun w => { w with asked := true, local_ := f })
  let s2 := chainGive s1 0 64 st 0 (nat01 f)
  (List.range (sclCount s)).foldl (fun t n => chainGive t 2 65 st n (sclAmax s n)) s2

/-- R151 step 2: the stand flag and the stand maxima, once every result is held. -/
def closeResults (s : State) (st : Nat) : Option (Nat × List Nat) :=
  match chainResult s 64 st 0 with
  | none => none
  | some f =>
    let ms := (List.range (sclCount s)).map (chainResult s 65 st)
    if ms.all (fun m => m.isSome) then some (f, ms.map (fun m => m.getD 0)) else none

/-- R151 steps 3 to 6, R155, R254, R604: the flag is written, the Scaler entries are updated, the Scaler section is
written where a record is kept, the counts are cleared and the decision is released; STEP.ID becomes the next step. -/
def closeStep (s : State) (o : Op) (flag : Nat) (maxes : List Nat) : State :=
  let w := closeOf o
  let st := tgStep o.d
  let nf : Bool := flag % 2 == 1
  let skip := nf && getA s Reg.nfCtrl_policy == 0
  let s1 := setA (setA s Reg.nfStatus_flag (nat01 nf)) Reg.nfStatus_local (nat01 w.local_)
  let s2 := if skip then countA s1 Reg.nfStatus_skipped 1 else s1
  let s3 := if getA s Reg.sclCtrl_enable = 1 then sclHistorySteps s2 maxes else s2
  let sec := sclSection s3
  let s4 := if w.kept then wrMem s3 (bytesWrites (tallySlot s (tgTag o.d) + 0x100) sec) else s3
  let s5 := sclClear s4
  let s6 := { s5 with decisions := s5.decisions.filter (fun p => p.1 != st) ++ [(st, skip)] }
  let s7 := set2 s6 landABase Reg.step_idLo Reg.step_idHi 0 ((st + 1) % 2 ^ 64)
  setClose s7 o.ctx o.idx (fun w => { w with nf := some nf, skipped := skip, items := sec.length / 16 })

/-- R495 step 7: whether an operation keeps a TALLY_CLOSE of its step waiting. -/
def closeWaitsFor (o p : Op) : Bool :=
  (dOpcode p.d == 0x0900 && decide (uStep p.d < tgStep o.d)) || (dOpcode p.d == 0x0921 && decide (p.step ≤ tgStep o.d)) ||
    (dOpcode p.d / 256 == 0x08 && decide (p.seq < o.seq))

/-- R492, R495 step 8: MASTER_DIGEST over the masters in ascending parameter. -/
def masterDigest (s : State) : Nat × List Byte :=
  let ps := shardParams s
  (ps.length, sha512 (ps.flatMap (fun p => leBytes 16 (ringDigest (packedRole s p 0)))))

/-- R492: the fields of a record below 0x100, frozen. -/
def tallyFields (s : State) (o : Op) (w : CloseWork) (r : Tally) (loss : Nat) : List Byte :=
  let m := w.masters.getD (0, [])
  tallyHeader r.step (nat01 (w.nf == some true) + 2 * nat01 w.local_ + 4 * nat01 w.skipped +
      8 * nat01 (tgLossValid o.d)) ++
    leBytes 8 (rotId s) ++ tallyIds s r.tag ++ leBytes 4 loss ++ leBytes 2 w.items ++ leBytes 2 r.gens.length ++
    leBytes 8 m.1 ++ leBytes 8 r.outCount ++ leBytes 16 r.outSum ++ leBytes 8 0 ++ m.2 ++ s.tally.prevHash ++
    leBytes 4 r.checks ++ leBytes 4 r.reruns ++ leBytes 4 r.brakes ++ leBytes 2 r.overruns ++ leBytes 2 r.checkFails ++
    leBytes 8 s.time.tai

/-- R493: the generation section. -/
def genBytes (gs : List (Nat × Nat × Nat)) : List Byte :=
  gs.flatMap (fun g => leBytes 4 g.1 ++ leBytes 4 g.2.1 ++ leBytes 4 g.2.2 ++ leBytes 4 0)

/-- R494: whether the record of step `st` is to be signed. -/
def signDue (s : State) (st : Nat) : Bool := getA s Reg.tallySign_every != 0 && (st + 1) % getA s Reg.tallySign_every == 0

/-- R494: signatures that wait, in ascending step. -/
def signInsert (q : Nat × Nat) : List (Nat × Nat) → List (Nat × Nat)
  | [] => [q]
  | x :: r => if q.1 < x.1 then q :: x :: r else x :: signInsert q r

/-- R494: a signature falls due; it waits where another is being made, and the wait is counted. -/
def queueSign (s : State) (st slot : Nat) : State :=
  match s.tally.signing with
  | [] => { s with tally := { s.tally with signing := [(st, slot)] } }
  | x :: r => countA { s with tally := { s.tally with signing := x :: signInsert (st, slot) r } } Reg.signWaits_count 1

/-- R494: the bytes that RESULT_HASH covers. -/
def resultBytes (s : State) (a : Nat) : List Byte := rdBytes s a 0xD0 ++ rdBytes s (a + 0x100) 0x8100

/-- R495 steps 9 and 10: the record is frozen and written, RESULT_HASH is formed and the signature queued. -/
def closeWrite (s : State) (o : Op) : State :=
  match tallyRec s (tgTag o.d) with
  | none => endOp s o.ctx o.idx ⟨.done, 0⟩
  | some r =>
    let a := tallySlot s r.tag
    let loss := if tgLossValid o.d then rdNat s (tgLoss o.d) 4 else 0
    let s1 := wrMem s (bytesWrites a (tallyFields s o (closeOf o) r loss) ++ bytesWrites (a + 0x4200) (genBytes r.gens))
    let s2 := countSha s1 0x81D0
    let s3 := { s2 with tally := { s2.tally with
      recs := s2.tally.recs.filter (fun x => x.tag != r.tag), prevHash := sha512 (resultBytes s2 a) } }
    endOp (if signDue s r.step then queueSign s3 r.step a else s3) o.ctx o.idx ⟨.done, 0⟩

/-- R495 steps 7 to 10, as far as nothing has to be waited for. -/
def closeTail (s : State) (o : Op) : State :=
  let w := closeOf o
  if w.masters.isNone && (s.ops.any (closeWaitsFor o) || unitsHeld s) then s
  else
    let s1 := if w.masters.isSome then s
      else releaseHeld (setClose (countSha s (16 * (masterDigest s).1)) o.ctx o.idx (fun x =>
        { x with masters := some (masterDigest s) }))
    if s1.ops.any (fun p => dTag p.d == tgTag o.d) then s1
    else match findOp s1 o.ctx o.idx with
      | some p => closeWrite s1 p
      | none => s1

/-- R151, R495, R511: a TALLY_CLOSE goes on as far as it can. -/
def closeRun (s : State) (o : Op) : State :=
  let s1 := if (closeOf o).asked then s else closeAsk s o
  match findOp s1 o.ctx o.idx with
  | none => s1
  | some p =>
    let s2 := if (closeOf p).nf.isSome then s1
      else match closeResults s1 (tgStep p.d) with
        | some r => closeStep s1 p r.1 r.2
        | none => s1
    match findOp s2 o.ctx o.idx with
    | none => s2
    | some q =>
      if (closeOf q).nf.isNone then s2
      else if !(closeOf q).kept then releaseHeld (endOp s2 o.ctx o.idx ⟨.done, 0⟩)
      else closeTail s2 q

/-- TALLY_CLOSE (R495): goes on; it is given again where it had to wait. -/
def execTallyClose (ctx idx : Nat) (s : State) : Host.Outcome State Fault Refusal :=
  .next (onOp s ctx idx 0x0A10 (fun o => closeRun s o))

/-- TALLY_SIGN_DONE (R494): the signature that is being made is written and SIGNED is set. -/
def execTallySignDone (s : State) : Host.Outcome State Fault Refusal :=
  .next (
    match s.tally.signing with
    | [] => s
    | x :: r =>
      let s1 := wrMem s (bytesWrites (x.2 + 0x8200) (signatureOf (rdBytes s x.2 0x8200)) ++ natWrites (x.2 + 0x8400) 1 1)
      countSha { s1 with tally := { s1.tally with signing := r } } 0x8200)

/-! ### DIGEST (R487, R488, R510) -/

/-- R510: the source of a DIGEST. -/
def dgSrc (d : Desc) : Region := ⟨slotOff d 0x20, slotPitch d 0x20, dfld d 0x30 23 0, dfld d 0x34 31 0⟩

/-- R510: the destination of a DIGEST. -/
def dgDst (d : Desc) : Region := ⟨dfld d 0x28 41 0, 0, 1, 16⟩

/-- DIGEST (R510): the ring digest of the source is written. -/
def execDigest (ctx idx : Nat) (s : State) : Host.Outcome State Fault Refusal :=
  .next (onOp s ctx idx 0x0A20 (fun o =>
    if unitsHeld s then s
    else match accessFault s [dgSrc o.d, dgDst o.d] with
      | some e => ctxFault s ctx idx e.1 e.2
      | none =>
        match outFault s o.d [dgDst o.d] with
        | some e => ctxFault s ctx idx e.1 e.2
        | none =>
          finishOp (holdTrain s (wrNat s (dgDst o.d).off 16 (regionsDigest s.mem [dgSrc o.d])) ctx idx) ctx idx))

/-! ### Voted fields (R504, R505) -/

/-- R504: the words of a block that hold a voted field, as the field and the local address of each copy. -/
def votedWords (b : Blk) : List (Fld × Nat) :=
  ((blkFields b).filter (fun f => f.acc == .rwv)).flatMap (fun f =>
    (List.range (max 1 f.copies)).map (fun k => (f, fldAddr (blkBase b) f k)))

/-- The three copies of a field. -/
def fieldCopies (s : State) (f : Fld) (a : Nat) : Nat × Nat × Nat :=
  (bits (rawWord s.regs a) f.hi f.lo, bits (rawWord s.regs1 a) f.hi f.lo, bits (rawWord s.regs2 a) f.hi f.lo)

/-- R505: whether the three copies of a field all differ. -/
def isSplit (c : Nat × Nat × Nat) : Bool := c.1 != c.2.1 && c.1 != c.2.2 && c.2.1 != c.2.2

/-- R505: whether a register word holds a split field. -/
def wordSplit (s : State) (a : Nat) : Bool :=
  match blkOf a with
  | some (b, r) => (fldsAt b r).any (fun f => f.acc == .rwv && isSplit (fieldCopies s f a))
  | none => false

/-- R505: the fault record of the field that is split, while one is. -/
def splitRecord (s : State) : Option Nat := (s.tally.splits.find? (fun p => wordSplit s p.1)).map (fun p => p.2)

/-- R505: a field is found split: SPLIT is set, a fault record is written and every descriptor in flight ends. -/
def fieldSplit (s : State) (b : Blk) (a : Nat) : State :=
  if s.tally.splits.any (fun p => p.1 == a) then s
  else
    let i := faultTail s
    let s1 := writeFault (setF s (blkBase b) Reg.voteFix_split 0 1) ⟨0x0E, 0, 0, 0xFFFF, 0, [a]⟩
    { s1 with tally := { s1.tally with splits := s1.tally.splits ++ [(a, i)] }
              ops := s1.ops.map (fun o => { o with ended := some ⟨.deviceFault, i⟩ }) }

/-- R504: one field of a block re-read: a copy that differs is rewritten and counted. -/
def scrubField (b : Blk) (s : State) (q : Fld × Nat) : State :=
  let c := fieldCopies s q.1 q.2
  if c.1 = c.2.1 ∧ c.1 = c.2.2 then s
  else if isSplit c then fieldSplit s b q.2
  else
    let v := vote c.1 c.2.1 c.2.2
    countF { s with regs := putF s.regs q.2 q.1 v, regs1 := putF s.regs1 q.2 q.1 v, regs2 := putF s.regs2 q.2 q.1 v }
      (blkBase b) Reg.voteFix_fixed 0 1

/-- An upset: bits of one copy of a register word that have flipped. -/
def flipWord (s : State) (u : Nat × Nat × Nat) : State :=
  let f := fun (m : List (Nat × Word)) =>
    sparseSet (resetWord u.2.1) u.2.1 (BitVec.ofNat 32 (rawWord m u.2.1 ^^^ u.2.2)) m
  if u.1 = 0 then { s with regs := f s.regs }
  else if u.1 = 1 then { s with regs1 := f s.regs1 }
  else { s with regs2 := f s.regs2 }

/-- The bits of a register word that hold voted fields. -/
def votedMask (a : Nat) : Nat :=
  match blkOf a with
  | some (b, r) => ((fldsAt b r).filter (fun f => f.acc == .rwv)).foldl (fun m f => m ||| (fldTop f <<< f.lo)) 0
  | none => 0

/-- R504, R505: a block re-reads its voted fields. -/
def scrubBlock (s : State) (b : Blk) : State :=
  let s1 := { s with tally := { s.tally with splits := s.tally.splits.filter (fun p => wordSplit s p.1) } }
  (votedWords b).foldl (scrubField b) s1

/-- VOTE_SCRUB (R504): the block that holds local address `a` re-reads its voted fields; `upsets` lists the bits of voted
fields, as copy, address and mask, that have flipped since it did so last. -/
def execVoteScrub (a : Nat) (upsets : List (Nat × Nat × Nat)) (s : State) : Host.Outcome State Fault Refusal :=
  .next (
    let s1 := upsets.foldl (fun t u => flipWord t (u.1, u.2.1, u.2.2 &&& votedMask u.2.1)) s
    match blkOf a with
    | some (b, _) => scrubBlock s1 b
    | none => s1)

end Sys2Proof.Machine
end

