-- ==== Sys2Proof/Machine/Attest.lean ====
section
/-!
DEFINITION. ATTEST: the attestation report and its measures (R498 to R502).
-/

namespace Sys2Proof.Machine

/-- R501: NONCE, as bytes. -/
def atNonce (d : Desc) : List Byte := leBytes 32 (dfld d 0x20 255 0)
/-- R510: DST of ATTEST. -/
def atDst (d : Desc) : Nat := dfld d 0x40 41 0
/-- R510: CHAIN. -/
def atChain (d : Desc) : Bool := dfld d 0x48 0 0 == 1

/-- R502: the blocks of the device in ascending local offset. -/
def allBlocks : List Blk := .dev :: ((List.range 128).map Blk.cell ++ (List.range 4).map Blk.mill ++ [.landA, .landB])

/-- A number put into an ascending list once. -/
def insertOnce (a : Nat) : List Nat → List Nat
  | [] => [a]
  | x :: r => if a < x then a :: x :: r else if a = x then x :: r else x :: insertOnce a r

/-- R502: the addresses of the words of a block that hold a voted field, ascending. -/
def votedAddrs (b : Blk) : List Nat := (votedWords b).foldl (fun l q => insertOnce q.2 l) []

/-- R502: the bytes that CONFIG_MEASURE covers. -/
def configBytes (s : State) : List Byte :=
  allBlocks.flatMap (fun b => (votedAddrs b).flatMap (fun a => leBytes 4 (wordOf s a &&& votedMask a)))

/-- The firmware copy that runs, copy A where none does. -/
def fwUse (s : State) : Nat := s.boot.fw.getD 0

/-- R558: the bytes that FW_MEASURE covers. -/
def fwImage (s : State) : List Byte := memBytes s.flash (fwBase (fwUse s)) (0x10000 + fwLength s (fwUse s))

/-- R552, R501: the bytes of the part record copy in use: its signed body and its signature. -/
def partImage (s : State) : List Byte := memBytes s.flash (partBase (partUse s)) (partBytes + 512)

/-- R501: bytes 0x000 to 0x3FF of the report. -/
def attestBody (s : State) (d : Desc) : List Byte :=
  leBytes 4 0x54415453 ++ leBytes 4 1 ++ leBytes 8 (partNat s (partUse s) 0x108 8) ++ leBytes 8 s.time.tai ++
    leBytes 8 (stepId s) ++ atNonce d ++ sha512 (fwImage s) ++ sha512 (partImage s) ++ sha512 (configBytes s) ++
    leBytes 8 (fwSeq s (fwUse s)) ++ leBytes 8 (partSeq s (partUse s)) ++ List.replicate 240 0 ++
    (List.range 512).map Config.transportModulus

/-- R498, R499, R501: the device's certificate chain. -/
def chainBytes (s : State) : List Byte :=
  let c := partUse s
  memBytes s.flash (partBase c + partNat s c 0x120 4) (partNat s c 0x124 4)

/-- R501: what ATTEST writes. -/
def attestBytes (s : State) (d : Desc) : List Byte :=
  attestBody s d ++ signatureOf (attestBody s d) ++ (if atChain d then chainBytes s else [])

/-- R501: where ATTEST writes. -/
def attestRegion (s : State) (d : Desc) : Region :=
  ⟨atDst d, 0, 1, 1536 + (if atChain d then partNat s (partUse s) 0x124 4 else 0)⟩

/-- ATTEST (R501). -/
def execAttest (ctx idx : Nat) (s : State) : Host.Outcome State Fault Refusal :=
  .next (onOp s ctx idx 0x0A30 (fun o =>
    match accessFault s [attestRegion s o.d] with
    | some e => ctxFault s ctx idx e.1 e.2
    | none =>
      match outFault s o.d [attestRegion s o.d] with
      | some e => ctxFault s ctx idx e.1 e.2
      | none =>
        let s1 := holdTrain s (wrMem s (bytesWrites (atDst o.d) (attestBytes s o.d))) ctx idx
        endOp (countSha (countSha (countSha (countSha s1 (fwImage s).length) (partImage s).length) (configBytes s).length) 0x400)
          ctx idx ⟨.done, 0⟩))

end Sys2Proof.Machine
end

