-- ==== Sys2Proof/Machine/Collect.lean ====
section
/-!
DEFINITION. The ring collectives ALL_REDUCE, REDUCE_SCATTER, ALL_GATHER and PERMUTE (R412 to R419).  A command gives
the descriptors and inputs of the other members of the instance, and the codes that they own, which the links carry (log
entry 32).
-/

namespace Sys2Proof.Machine

/-! ### The body (R419) -/

/-- R419: SRC. -/
def gSrc (d : Desc) : Nat := dfld d 0x20 41 0
/-- R419: DST. -/
def gDst (d : Desc) : Nat := dfld d 0x28 41 0
/-- R419: WORK. -/
def gWork (d : Desc) : Nat := dfld d 0x30 41 0
/-- R419: N. -/
def gN (d : Desc) : Nat := dfld d 0x38 29 0
/-- R419: AXES. -/
def gAxes (d : Desc) : Nat := dfld d 0x3C 5 0
/-- R419: METHOD. -/
def gMethod (d : Desc) : Nat := dfld d 0x3C 7 6
/-- R419: OP. -/
def gOp (d : Desc) : Nat := dfld d 0x3C 9 8
/-- R419: STREAM_VALID. -/
def gStream (d : Desc) : Bool := dfld d 0x3C 10 10 == 1
/-- R419: OUT_PURPOSE. -/
def gPurpose (d : Desc) : Nat := dfld d 0x3C 11 11
/-- R419: FMT_X. -/
def gFmtX (d : Desc) : Nat := dfld d 0x40 15 0
/-- R419: FMT_Y. -/
def gFmtY (d : Desc) : Nat := dfld d 0x42 15 0
/-- R419: TAG. -/
def gTag (d : Desc) : Nat := dfld d 0x44 15 0
/-- R419: SLOT_ID. -/
def gSlot (d : Desc) : Nat := dfld d 0x46 7 0
/-- R419: GROUP. -/
def gGroup (d : Desc) : Nat := dfld d 0x46 15 8
/-- R419: SHIFT. -/
def gShift (d : Desc) : Nat := dfld d 0x48 15 0
/-- R419: TENSOR. -/
def gTensor (d : Desc) : Nat := dfld d 0x4C 27 0
/-- R419: OUT0. -/
def gOut0 (d : Desc) : Nat := dfld d 0x50 39 0

/-! ### Members (R412) -/

/-- A member of an instance: its chip, its descriptor, the bytes of its SRC, and the codes of the elements that it owns, in
ascending order, as the all-gather of an ALL_REDUCE carries them (R416). -/
structure Member where
  chip : Nat
  d : Desc
  src : List Byte
  codes : List Byte

/-- R412: the fields that the members compare. -/
def gKey (d : Desc) : List Nat :=
  [dOpcode d, gAxes d, gTag d, gN d, gMethod d, gOp d, gFmtX d, gFmtY d, gShift d, nat01 (gStream d)]

/-- All coordinate lists over some axis lengths, axis by axis. -/
def coordLists : List Nat → List (List Nat)
  | [] => [[]]
  | l :: r => (List.range l).flatMap (fun i => (coordLists r).map (fun c => i :: c))

/-- The lengths of the axes of an instance. -/
def gLens (s : State) (d : Desc) : List Nat := (axesOf (gAxes d)).map (axisLen s)

/-- This chip's coordinates on the axes of an instance. -/
def gOwn (s : State) (d : Desc) : List Nat := (axesOf (gAxes d)).map (coordOf s s.chip)

/-- R315, R412: the member at some coordinates on the axes of an instance. -/
def gChip (s : State) (d : Desc) (cs : List Nat) : Nat :=
  ((axesOf (gAxes d)).zip cs).foldl (fun c p => c + p.2 * axisStride s p.1 - coordOf s s.chip p.1 * axisStride s p.1) s.chip

/-- The members' chips. -/
def gGroupChips (s : State) (d : Desc) : List Nat := (coordLists (gLens s d)).map (gChip s d)

/-! ### Segments and halves (R413) -/

/-- R413: the first element of segment `j` of `n` elements cut in `l`; `j = l` gives the end. -/
def segStart (n l j : Nat) : Nat := min n (16 * (j * ceilDiv n 16 / l))

/-- R413: the segment that element `e` lies in. -/
def segOf (n l e : Nat) : Nat := ((List.range l).find? (fun j => decide (segStart n l j ≤ e ∧ e < segStart n l (j + 1)))).getD 0

/-- R413: whether element `e` of segment `j` lies in its plus half. -/
def inPlus (n l j e : Nat) : Bool :=
  let u0 := j * ceilDiv n 16 / l
  let u1 := (j + 1) * ceilDiv n 16 / l
  decide (e / 16 - u0 < (u1 - u0 + 1) / 2)

/-- R413: along each axis in order, the owner's coordinate of element `e` and whether the element is in a plus half. -/
def places (n e : Nat) : List Nat → List (Nat × Nat × Bool)
  | [] => []
  | l :: r =>
    let j := segOf n l e
    (l, j, inPlus n l j e) :: places (segStart n l (j + 1) - segStart n l j) (e - segStart n l j) r

/-- R413: the coordinates of the owner of element `e`. -/
def ownerOf (n : Nat) (lens : List Nat) (e : Nat) : List Nat := (places n e lens).map (fun p => p.2.1)

/-! ### Reduction (R414) -/

/-- R414: the code of the combining step: 1 sum, 2 maximum, 3 minimum. -/
def gRed (op : Nat) : Nat := op + 1

/-- R414: the members' values of one element reduced along one axis, for the owner `j` and its half. -/
def reduceAxis (method op l j : Nat) (plus : Bool) (x : Nat → FVal) : FVal :=
  if method = 1 then tree (gRed op) ((List.range l).map x)
  else if method = 2 then (List.range l).foldl (fun v i => combine 1 v (x i)) fvZero
  else
    let at' := fun k => if plus then x ((j + 1 + k) % l) else x ((j + l - 1 - k % l) % l)
    (List.range (l - 1)).foldl (fun v k => combine (gRed op) v (at' (k + 1))) (at' 0)

/-- R413: one element reduced along the axes in order; the list holds the last axis first. -/
def reduceAll (method op : Nat) : List (Nat × Nat × Bool) → (List Nat → FVal) → FVal
  | [], x => x []
  | (l, j, plus) :: r, x => reduceAxis method op l j plus (fun i => reduceAll method op r (fun is => x (is ++ [i])))

/-- The code of element `e` in a member's SRC. -/
def srcCode (d : Desc) (src : List Byte) (e : Nat) : Nat :=
  packedGet (fun i => src.getD i 0) (fmtWidth (fwFmtD (gFmtX d))) e

/-- The member at some coordinates. -/
def memberAt (s : State) (d : Desc) (ms : List Member) (cs : List Nat) : List Byte :=
  match ms.find? (fun m => m.chip == gChip s d cs) with
  | some m => m.src
  | none => []

/-- R414: element `e` reduced over the members. -/
def reduced (s : State) (d : Desc) (ms : List Member) (e : Nat) : FVal :=
  reduceAll (gMethod d) (gOp d) (places (gN d) e (gLens s d)).reverse
    (fun cs => decodeCode (fwFmtD (gFmtX d)) (srcCode d (memberAt s d ms cs) e))

/-! ### Results (R415, R416) -/

/-- R416, R170: the rounding of element `e`. -/
def gRnd (s : State) (o : Op) (e : Nat) : Rnd :=
  rndOf s (fwRnd (gFmtY o.d)) (streamId (outPurpose (gPurpose o.d) (gStream o.d) (gTensor o.d)) (gTensor o.d)) o.step
    (gOut0 o.d + e)

/-- Whether this chip owns element `e`. -/
def gOwns (s : State) (d : Desc) (e : Nat) : Bool := ownerOf (gN d) (gLens s d) e == gOwn s d

/-- The bytes of elements written to DST, one by one. -/
def wrElems (s : State) (d : Desc) (cs : List (Nat × Nat)) : State :=
  let w := fmtWidth (fwFmtD (gFmtY d)) / 8
  wrMem s (cs.flatMap (fun p => natWrites (gDst d + w * p.1) w p.2))

/-- Whether the member at some coordinates owns element `e`. -/
def ownedBy (s : State) (d : Desc) (cs : List Nat) (e : Nat) : Bool := ownerOf (gN d) (gLens s d) e == cs

/-- R416: the code of element `e` as its owner has formed it: the all-gather forwards codes unchanged. -/
def gatherCode (s : State) (d : Desc) (ms : List Member) (e : Nat) : Nat :=
  let cs := ownerOf (gN d) (gLens s d) e
  match ms.find? (fun m => m.chip == gChip s d cs) with
  | some m => packedGet (fun i => m.codes.getD i 0) (fmtWidth (fwFmtD (gFmtY d))) ((List.range e).countP (ownedBy s d cs))
  | none => 0

/-- R414, R177: the adder's work at this chip under METHOD 2: additions of its lines on every axis, and the flag of a
controller's Mill where a line is not finite. -/
def gAdder (s : State) (d : Desc) (vals : List (Nat × FVal)) : State :=
  if gMethod d ≠ 2 then s
  else
    let lens := gLens s d
    let own := gOwn s d
    let s1 := (List.range (ceilDiv (gN d) 16)).foldl (fun t u =>
      let ow := ownerOf (gN d) lens (16 * u)
      let n := (List.range lens.length).foldl (fun c k =>
        if ow.take (k + 1) == own.take (k + 1) then c + lens.getD k 0 else c) 0
      event t (omaMill (stackOf (gDst d + 64 * u))) 0x05 n) s
    vals.foldl (fun t p => flagCell t (stackOf (gDst d + 64 * (p.1 / 16)) / 2 * 32) (fvNonFinite p.2 && !dEval d)) s1

/-- R139: the binding of a collective as it took it at its beginning. -/
def gBind (o : Op) : Option Bind :=
  match o.work with
  | .coll b => b
  | _ => none

/-- R361, R412: bytes of an instance leave for its other members, under the slot id of the descriptor. -/
def sendMembers (s : State) (o : Op) (bs : List Byte) : State :=
  ((gGroupChips s o.d).filter (fun c => c != s.chip)).foldl (fun t c =>
    sendMsg t 3 c (gSlot o.d) ⟨s.chip, o.ctx, o.idx, .data 3 (gSlot o.d) bs⟩) s

/-- R414: METHOD 0: along axis `k` of an instance, the running sum of element `e` that this chip passes on, in FP32, and the
chip that takes it; none where this chip owns the element, or holds no part of it on that axis. -/
def passedSum (s : State) (d : Desc) (ms : List Member) (e k : Nat) : Option (Nat × Nat) :=
  let ps := places (gN d) e (gLens s d)
  let own := gOwn s d
  match ps[k]? with
  | none => none
  | some p =>
    let c := own.getD k 0
    if (ps.take k).map (fun q => q.2.1) ≠ own.take k ∨ p.2.1 = c then none
    else
      let l := p.1
      let part := fun (i : Nat) => reduceAll (gMethod d) (gOp d) (ps.take k).reverse (fun cs =>
        decodeCode (fwFmtD (gFmtX d)) (srcCode d (memberAt s d ms (cs ++ i :: own.drop (k + 1))) e))
      let away := if p.2.2 then (c + l - (p.2.1 + 1) % l) % l else ((p.2.1 + l - 1) % l + l - c) % l
      let at' := fun (i : Nat) => if p.2.2 then part ((p.2.1 + 1 + i) % l) else part ((p.2.1 + l - 1 - i % l) % l)
      let v := (List.range away).foldl (fun x i => combine (gRed (gOp d)) x (at' (i + 1))) (at' 0)
      let a := (axesOf (gAxes d)).getD k 0
      some (if p.2.2 then axisNext s s.chip a else axisPrev s s.chip a, (convert .fp32 .rne v).1)

/-- R361, R414: METHOD 0: the running sums of this chip leave for its ring neighbours, axis by axis. -/
def sendSums (s : State) (o : Op) (ms : List Member) : State :=
  if gMethod o.d ≠ 0 then s
  else
    (List.range (gLens s o.d).length).foldl (fun t k =>
      let vs := (List.range (gN o.d)).filterMap (fun e => passedSum s o.d ms e k)
      ((vs.map Prod.fst).eraseDups).foldl (fun u c =>
        sendMsg u 3 c (gSlot o.d) ⟨s.chip, o.ctx, o.idx, .data 3 (gSlot o.d)
          ((vs.filter (fun v => v.1 == c)).flatMap (fun v => leBytes 4 v.2))⟩) t) s

/-- R418: the bytes that WORK must hold. -/
def workNeed (s : State) (d : Desc) : Nat :=
  if dOpcode d = 0x0703 ∨ gMethod d = 2 then 0
  else if gMethod d = 0 then 524288
  else
    let l := (gLens s d).foldl max 1
    l * 64 * ceilDiv (ceilDiv (gN d) 16) l

/-- R418: what a collective leaves in WORK is a free value. -/
def freeWork (s : State) (d : Desc) : State := if workNeed s d = 0 then s else freeBytes s (gWork d) (workNeed s d)

/-- R415, R416: a reduction: this chip converts what it owns and, for ALL_REDUCE, sends its codes on and takes those of the
other owners unchanged. -/
def runReduce (s0 : State) (o : Op) (ms : List Member) : State :=
  let d := o.d
  let s := sendSums s0 o ms
  let f := fwFmtD (gFmtY d)
  let mine := (List.range (gN d)).filter (gOwns s d)
  let vals := mine.map (fun e => (e, reduced s d ms e))
  let xs := vals.map (fun p => (p.2, gRnd s o p.1))
  let r := unitOut s 0 (dEval d) (gBind o) 0 f xs (mine.map (fun e => gOut0 d + e))
  let s1 := gAdder r.1 d vals
  let s2 := wrElems s1 d (mine.zip r.2.1)
  if dOpcode d = 0x0701 then s2
  else
    let rest := (List.range (gN d)).filter (fun e => !gOwns s d e)
    wrElems (sendMembers s2 o (packRow (fmtWidth f) r.2.1)) d (rest.map (fun e => (e, gatherCode s d ms e)))

/-- R415: ALL_GATHER: every element from its owner's SRC. -/
def runGather (s : State) (o : Op) (ms : List Member) : State :=
  let d := o.d
  wrElems s d ((List.range (gN d)).map (fun e => (e, srcCode d (memberAt s d ms (ownerOf (gN d) (gLens s d) e)) e)))

/-- R415: PERMUTE: the elements of the member at coordinate c − SHIFT. -/
def runPermute (s : State) (o : Op) (ms : List Member) : State :=
  let d := o.d
  let l := (gLens s d).headD 1
  let c := (gOwn s d).headD 0
  let src := memberAt s d ms [(c + l - gShift d % l) % l]
  wrElems s d ((List.range (gN d)).map (fun e => (e, srcCode d src e)))

/-! ### Execution -/

/-- The SRC region. -/
def gSrcRegion (d : Desc) : Region := ⟨gSrc d, 0, 1, gN d * (fmtWidth (fwFmtD (gFmtX d)) / 8)⟩

/-- The DST region. -/
def gDstRegion (d : Desc) : Region := ⟨gDst d, 0, 1, gN d * (fmtWidth (fwFmtD (gFmtY d)) / 8)⟩

/-- R414: whether a METHOD 2 collective finds its group open for another operation. -/
def groupTaken (s : State) (o : Op) : Bool :=
  gMethod o.d == 2 && s.groups.any (fun x => x.id == gGroup o.d && !(x.ctx == o.ctx && x.idx == o.idx))

/-- R422, R400, R158, R414: the execution fault of a collective at this chip. -/
def collectFault (s : State) (o : Op) : Option (Nat × Nat) :=
  let d := o.d
  match accessFault s [gSrcRegion d, gDstRegion d, ⟨gWork d, 0, 1, workNeed s d⟩] with
  | some e => some e
  | none =>
    if gMethod d = 2 ∧ !inHbm s (gDst d) (gDstRegion d).len then some (0x08, max (gDst d) (capacity s))
    else if (outFault s d [gDstRegion d]).isSome then outFault s d [gDstRegion d]
    else if groupTaken s o then some (0x134, 0)
    else if getA s Reg.axisCtrl_enable = 0 then some (0x1A2, 0)
    else none

/-- R414: METHOD 2: the ordered-adder group of this chip opens for its segment of the first axis; every index belongs to a
member. -/
def openAdder (s : State) (o : Op) : State :=
  if gMethod o.d ≠ 2 ∨ dOpcode o.d > 0x0701 then s
  else
    let l := (gLens s o.d).headD 1
    let j := (gOwn s o.d).headD 0
    let a := segStart (gN o.d) l j
    { s with groups := s.groups ++ [⟨gGroup o.d, o.ctx, o.idx, gDst o.d + 4 * a,
        ceilDiv (segStart (gN o.d) l (j + 1) - a) 16, false, l, true, [], List.range l⟩] }

/-- R414: the group of a collective closes. -/
def closeAdder (s : State) (ctx idx : Nat) : State :=
  { s with groups := s.groups.filter (fun x => !(x.ctx == ctx && x.idx == idx)) }

/-- R412: whether every other member's part is at hand. -/
def membersHere (s : State) (d : Desc) (ms : List Member) : Bool :=
  (gGroupChips s d).all (fun c => c == s.chip || ms.any (fun m => m.chip == c))

/-- R412, R415: a collective runs once every member's part is at hand; members that disagree end with a fault. -/
def runCollective (s : State) (ctx idx opcode : Nat) (peers : List Member) : State :=
  onOp s ctx idx opcode (fun o =>
    match collectFault s o with
    | some e => closeAdder (ctxFault s ctx idx e.1 e.2) ctx idx
    | none =>
      let r := gSrcRegion o.d
      let ms := ⟨s.chip, o.d, rdBytes s r.off r.len, []⟩ :: peers.filter (fun m => m.chip != s.chip)
      if !membersHere s o.d ms then s
      else if ms.any (fun m => (gGroupChips s o.d).contains m.chip && gKey m.d != gKey o.d) then
        closeAdder (ctxFault s ctx idx 0x1A4 0) ctx idx
      else
        let s1 := if opcode = 0x0702 then runGather s o ms
          else if opcode = 0x0703 then runPermute s o ms else runReduce s o ms
        closeAdder (finishOp (holdTrain s (freeWork s1 o.d) ctx idx) ctx idx) ctx idx)

/-- R139, R361, R412, R414: a collective begins: its binding is fixed, its adder group opens, and what this chip puts into
the instance leaves for the other members. -/
def collectBegin (s : State) (ctx idx : Nat) : State :=
  match findOp s ctx idx with
  | none => s
  | some o =>
    match collectFault s o with
    | some e => ctxFault s ctx idx e.1 e.2
    | none =>
      let r := gSrcRegion o.d
      let bd := if dOpcode o.d ≤ 0x0701 then sclBind s (gStream o.d) (gTensor o.d) (gFmtY o.d) else none
      openAdder (sendMembers (updOp s ctx idx (fun p => { p with work := .coll bd })) o (rdBytes s r.off r.len)) o

/-- The members that the triples of a command name. -/
def membersOf (ps : List (Nat × Desc × List Byte)) : List Member := ps.map (fun p => ⟨p.1, p.2.1, p.2.2, []⟩)

/-- ALL_REDUCE (R415). -/
def execAllReduce (ctx idx : Nat) (peers : List (Nat × Desc × List Byte × List Byte)) (s : State) :
    Host.Outcome State Fault Refusal :=
  .next (runCollective s ctx idx 0x0700 (peers.map (fun p => ⟨p.1, p.2.1, p.2.2.1, p.2.2.2⟩)))

/-- REDUCE_SCATTER (R415). -/
def execReduceScatter (ctx idx : Nat) (peers : List (Nat × Desc × List Byte)) (s : State) :
    Host.Outcome State Fault Refusal :=
  .next (runCollective s ctx idx 0x0701 (membersOf peers))

/-- ALL_GATHER (R415). -/
def execAllGather (ctx idx : Nat) (peers : List (Nat × Desc × List Byte)) (s : State) : Host.Outcome State Fault Refusal :=
  .next (runCollective s ctx idx 0x0702 (membersOf peers))

/-- PERMUTE (R415). -/
def execPermute (ctx idx : Nat) (peers : List (Nat × Desc × List Byte)) (s : State) : Host.Outcome State Fault Refusal :=
  .next (runCollective s ctx idx 0x0703 (membersOf peers))

/-- R417: a disturbance counts one re-run on each collective that runs. -/
def disturbCollectives (s : State) (brake : Bool) : State :=
  { s with ops := s.ops.map (fun o =>
      if opRuns o && decide (0x0700 ≤ dOpcode o.d ∧ dOpcode o.d ≤ 0x0703) then
        { o with reruns := o.reruns + 1, brakes := o.brakes + nat01 brake } else o) }

end Sys2Proof.Machine
end

