-- ==== Sys2Proof/Machine/EventDump.lean ====
section
/-!
DEFINITION. The periodic dump of the event counters (R546 to R550).
-/

namespace Sys2Proof.Machine

/-- R548: a dump record. -/
def dumpBytes (s : State) (index tick time : Nat) (entries : List Byte) : List Byte :=
  leBytes 4 0x43564545 ++ leBytes 2 1 ++ leBytes 2 s.chip ++ leBytes 8 index ++ leBytes 8 tick ++ leBytes 8 time ++
    leBytes 8 134 ++ List.replicate 24 0 ++ entries ++ List.replicate 192 0

/-- R550: the index of the next dump record. -/
def dumpTail (s : State) : Nat := getA2 s Reg.evdTail_indexLo Reg.evdTail_indexHi

/-- R547: a record is written at the next index, or counted in EVD_LOST. -/
def writeDump (s : State) (q : Nat × Nat × List Byte) : State :=
  let i := dumpTail s
  let cap := getA s Reg.evdCtrl_cap
  let a := getA2 s Reg.evdBase_baseLo Reg.evdBase_baseHi + (i % cap) * 17408
  let full : Bool := decide (cap ≤ (i + 2 ^ 32 - getA s Reg.evdHead_index) % 2 ^ 32)
  let s1 := set2 s landABase Reg.evdTail_indexLo Reg.evdTail_indexHi 0 (i + 1)
  if cap = 0 || full || !inHbm s a 17408 then countA s1 Reg.evdLost_count 1
  else wrMem s1 (bytesWrites a (dumpBytes s i q.1 q.2.1 q.2.2))

/-- EVENT_DUMP (R546, R547): Landing A writes the oldest dump that has been sampled. -/
def execEventDump (s : State) : Host.Outcome State Fault Refusal :=
  .next (
    match s.dumps with
    | [] => s
    | q :: rest => writeDump { s with dumps := rest } q)

end Sys2Proof.Machine
end

