-- ==== Sys2Proof/Machine/JbMath.lean ====
section
/-!
DEFINITION. The arithmetic of one step of one jointed-body environment: kinematics, bias forces, mass matrix, factor,
contacts, sweeps and integration (R229 to R237).
-/

namespace Sys2Proof.Machine

/-! ### Primitives (R229) -/

/-- A vector of FP32 values. -/
abbrev Vec := List FVal

/-- An FP32 sum. -/
def jAdd (a b : FVal) : FVal := r32 (fvAdd a b)
/-- An FP32 difference. -/
def jSub (a b : FVal) : FVal := r32 (fvSub a b)
/-- An FP32 product. -/
def jMul (a b : FVal) : FVal := r32 (fvMul a b)
/-- R229: dot(x, y, s). -/
def jDot (x y : Vec) (s : FVal) : FVal := (x.zip y).foldl (fun acc p => fma32 p.1 p.2 acc) s
/-- R229: dot(x, y). -/
def jDot0 (x y : Vec) : FVal := jDot x y fvZero
/-- R229: a·b − c·d. -/
def jMinus (a b c d : FVal) : FVal := fma32 a b (fvNegate (jMul c d))
/-- R229: a·b + c·d. -/
def jPlus (a b c d : FVal) : FVal := fma32 a b (jMul c d)
/-- Component `k` of a vector. -/
def vAt (v : Vec) (k : Nat) : FVal := v.getD k fvZero
/-- A vector sum, component by component. -/
def vAdd (a b : Vec) : Vec := (a.zip b).map (fun p => jAdd p.1 p.2)
/-- A vector difference. -/
def vSub (a b : Vec) : Vec := (a.zip b).map (fun p => jSub p.1 p.2)
/-- A vector scaled: each component times `x`. -/
def vScaleBy (a : Vec) (x : FVal) : Vec := a.map (fun c => jMul c x)
/-- R229: the cross product. -/
def cross (a b : Vec) : Vec :=
  [0, 1, 2].map (fun k => jMinus (vAt a ((k + 1) % 3)) (vAt b ((k + 2) % 3)) (vAt a ((k + 2) % 3)) (vAt b ((k + 1) % 3)))
/-- R229: a matrix times a vector. -/
def mVec (m : Mat) (v : Vec) : Vec := m.map (fun r => jDot0 r v)
/-- R229: a matrix product, whose right side has `n` columns. -/
def mMul (n : Nat) (a b : Mat) : Mat := a.map (fun r => (matTr n b).map (fun c => jDot0 r c))
/-- A matrix sum, element by element. -/
def mAdd (a b : Mat) : Mat := (a.zip b).map (fun p => vAdd p.1 p.2)
/-- The zero vector. -/
def vZero (n : Nat) : Vec := List.replicate n fvZero
/-- R229: RECIP. -/
def jRecip (a : FVal) : FVal := divTo .fp32 (fvOfNat 1) a
/-- R229: 1 − 2 × b. -/
def oneLess2 (b : FVal) : FVal := jSub (fvOfNat 1) (jMul (fvOfNat 2) b)
/-- R229: 2 × b. -/
def twice (b : FVal) : FVal := jMul (fvOfNat 2) b

/-- R229: the matrix of a quaternion (w, x, y, z). -/
def quatMat (q : Vec) : Mat :=
  let w := vAt q 0
  let x := vAt q 1
  let y := vAt q 2
  let z := vAt q 3
  [[oneLess2 (jPlus y y z z), twice (jMinus x y w z), twice (jPlus x z w y)],
   [twice (jPlus x y w z), oneLess2 (jPlus x x z z), twice (jMinus y z w x)],
   [twice (jMinus x z w y), twice (jPlus y z w x), oneLess2 (jPlus x x y y)]]

/-! ### Bodies and sets (R225 to R227) -/

/-- R226: a body record. -/
structure JbBody where
  parent : Nat
  joint : Nat
  limited : Bool
  axis : Vec
  pos : Vec
  quat : Vec
  mass : FVal
  com : Vec
  inertia : Vec
  qlo : FVal
  qhi : FVal
  effort : FVal
  damp : FVal
  armature : FVal
  sphere : Vec
  radius : FVal

/-- R225: the physical parameters of a set, its bodies, and the words of the set and body records. -/
structure JbSet where
  bodies : List JbBody
  gravity : Vec
  h : FVal
  iters : Nat
  maxc : Nat
  tol : FVal
  tau : FVal
  eps : FVal
  beta : FVal
  mu : FVal
  margin : FVal
  planes : List (Vec × FVal)
  words : List Nat

/-- R226: the position coordinates of a joint. -/
def jointQ (j : Nat) : Nat := if j = 3 then 7 else if j = 0 then 0 else 1
/-- R226: the DOFs of a joint. -/
def jointV (j : Nat) : Nat := if j = 3 then 6 else if j = 0 then 0 else 1

/-- R227: the first coordinate of body `i`. -/
def qStart (bs : List JbBody) (i : Nat) : Nat := (bs.take i).foldl (fun n b => n + jointQ b.joint) 0
/-- R227: the first DOF of body `i`. -/
def vStart (bs : List JbBody) (i : Nat) : Nat := (bs.take i).foldl (fun n b => n + jointV b.joint) 0
/-- R227: nq. -/
def jbNq (bs : List JbBody) : Nat := qStart bs bs.length
/-- R227: nv. -/
def jbNv (bs : List JbBody) : Nat := vStart bs bs.length

/-- A slice of a vector. -/
def vSlice (v : Vec) (i n : Nat) : Vec := (v.drop i).take n

/-- The body of a list at a place; the default stands where there is none. -/
def bodyAt (bs : List JbBody) (i : Nat) : JbBody :=
  bs.getD i ⟨0xFF, 0, false, vZero 3, vZero 3, vZero 4, fvZero, vZero 3, vZero 6, fvZero, fvZero, fvZero, fvZero, fvZero,
    vZero 3, fvZero⟩

/-- R227: the DOFs of body `i`. -/
def bodyDofs (bs : List JbBody) (i : Nat) : List Nat :=
  (List.range (jointV (bodyAt bs i).joint)).map (fun c => vStart bs i + c)

/-- R227: the last DOF of the nearest body from `i` up that has any; `fuel` bounds the walk. -/
def lastDofUp (bs : List JbBody) : Nat → Nat → Option Nat
  | 0, _ => none
  | fuel + 1, i =>
    if jointV (bodyAt bs i).joint ≠ 0 then some (vStart bs i + jointV (bodyAt bs i).joint - 1)
    else if (bodyAt bs i).parent = 0xFF then none
    else lastDofUp bs fuel (bodyAt bs i).parent

/-- R227: the body of DOF `k`. -/
def dofBody (bs : List JbBody) (k : Nat) : Nat := ((List.range bs.length).find? (fun i => (bodyDofs bs i).contains k)).getD 0

/-- R227: λ(k). -/
def dofParent (bs : List JbBody) (k : Nat) : Option Nat :=
  let i := dofBody bs k
  if (bodyAt bs i).joint = 3 then (if k = 0 then none else some (k - 1))
  else if (bodyAt bs i).parent = 0xFF then none
  else lastDofUp bs bs.length (bodyAt bs i).parent

/-- R233: the λ-chain of a DOF, from λ(k) up. -/
def dofChain (bs : List JbBody) : Nat → Nat → List Nat
  | 0, _ => []
  | fuel + 1, k =>
    match dofParent bs k with
    | some i => i :: dofChain bs fuel i
    | none => []

/-- The chain of bodies from `i` up, itself first. -/
def bodyChain (bs : List JbBody) : Nat → Nat → List Nat
  | 0, _ => []
  | fuel + 1, i => i :: (if (bodyAt bs i).parent = 0xFF then [] else bodyChain bs fuel (bodyAt bs i).parent)

/-! ### Joint transforms (R232) -/

/-- A finite value rounded to an integer by RNE. -/
def rneInt : FVal → Int
  | .fin s m e =>
    let q := dyadicQ m e
    let n : Int := (roundUnit .rne (q.1 / q.2) (q.1 % q.2) q.2 : Nat)
    if s then -n else n
  | _ => 0

/-- R232: the FP32 constant ± 1 / n!. -/
def jRecipFact (neg : Bool) (n : Nat) : FVal := roundQ .fp32 neg 1 ((List.range n).foldl (fun p i => p * (i + 1)) 1)

/-- π × 2¹²⁰, truncated. -/
def piBits : Nat := 4175892906503776358826876457663557747

/-- R232: TWO_OVER_PI. -/
def twoOverPi : FVal := roundQ .fp32 false (2 * 2 ^ 120) piBits
/-- R232: PIO2_HI. -/
def pio2Hi : FVal := decodeCode .fp32 0x3FC90000
/-- R232: PIO2_LO. -/
def pio2Lo : FVal := r32 (fvSub (.fin false piBits (-121)) pio2Hi)

/-- R232: sin q and cos q. -/
def sinCos (q : FVal) : FVal × FVal :=
  let n := rneInt (jMul q twoOverPi)
  let k := if fvNonFinite q then q else r32 (fvOfInt n)
  let r := fma32 (fvNegate k) pio2Lo (fma32 (fvNegate k) pio2Hi q)
  let s2 := jMul r r
  let ps := [(false, 9), (true, 7), (false, 5), (true, 3)].foldl (fun p c => fma32 p s2 (jRecipFact c.1 c.2)) (jRecipFact true 11)
  let sn := fma32 (jMul ps s2) r r
  let pc := [(true, 10), (false, 8), (true, 6), (false, 4), (true, 2)].foldl (fun p c => fma32 p s2 (jRecipFact c.1 c.2))
    (jRecipFact false 12)
  let cs := fma32 pc s2 (fvOfNat 1)
  match n % 4 with
  | 0 => (sn, cs)
  | 1 => (cs, fvNegate sn)
  | 2 => (fvNegate sn, fvNegate cs)
  | _ => (fvNegate cs, sn)

/-- R232: E_J of a revolute joint. -/
def revMat (a : Vec) (q : FVal) : Mat :=
  let sc := sinCos q
  let t := jSub (fvOfNat 1) sc.2
  (List.range 3).map (fun i => (List.range 3).map (fun j =>
    if i = j then fma32 (jMul t (vAt a i)) (vAt a i) sc.2
    else
      let k := 3 - i - j
      let x := jMul sc.1 (vAt a k)
      fma32 (jMul t (vAt a i)) (vAt a j) (if (i + 1) % 3 = j then x else fvNegate x)))

/-- A transform: E and r. -/
structure Xf where
  e : Mat
  r : Vec

/-- R232: the joint transform of a body at its coordinates. -/
def jointXf (b : JbBody) (q : Vec) : Xf :=
  match b.joint with
  | 1 => ⟨revMat b.axis (vAt q 0), vZero 3⟩
  | 2 => ⟨matId 3, b.axis.map (fun a => jMul (vAt q 0) a)⟩
  | 3 => ⟨matTr 3 (quatMat (vSlice q 3 4)), vSlice q 0 3⟩
  | _ => ⟨matId 3, vZero 3⟩

/-- R232: X of a body: the joint transform composed with the fixed joint frame. -/
def bodyXf (b : JbBody) (q : Vec) : Xf :=
  let j := jointXf b q
  let et := matTr 3 (quatMat b.quat)
  ⟨mMul 3 j.e et, (List.range 3).map (fun a => jDot (et.map (fun row => vAt row a)) j.r (vAt b.pos a))⟩

/-- R232: the columns of S of a body, each six components. -/
def bodyS (b : JbBody) : List Vec :=
  match b.joint with
  | 1 => [b.axis ++ vZero 3]
  | 2 => [vZero 3 ++ b.axis]
  | 3 => matId 6
  | _ => []

/-- R232: S v. -/
def bodySv (b : JbBody) (v : Vec) : Vec :=
  match b.joint with
  | 1 => b.axis.map (fun a => jMul a (vAt v 0)) ++ vZero 3
  | 2 => vZero 3 ++ b.axis.map (fun a => jMul a (vAt v 0))
  | 3 => v
  | _ => vZero 6

/-- The angular half of a spatial vector. -/
def ang (m : Vec) : Vec := m.take 3
/-- The linear half of a spatial vector. -/
def lin (m : Vec) : Vec := m.drop 3

/-- R229: X applied to a motion. -/
def xfMotion (x : Xf) (m : Vec) : Vec := mVec x.e (ang m) ++ mVec x.e (vSub (lin m) (cross x.r (ang m)))

/-- R229: Xᵀ applied to a force. -/
def xfForce (x : Xf) (f : Vec) : Vec :=
  let f' := mVec (matTr 3 x.e) (lin f)
  vAdd (mVec (matTr 3 x.e) (ang f)) (cross x.r f') ++ f'

/-- R232: ×m. -/
def crossM (a b : Vec) : Vec := cross (ang a) (ang b) ++ vAdd (cross (ang a) (lin b)) (cross (lin a) (ang b))

/-- R232: ×f. -/
def crossF (a f : Vec) : Vec := vAdd (cross (ang a) (ang f)) (cross (lin a) (lin f)) ++ cross (ang a) (lin f)

/-- R226: Ic of a body as a matrix. -/
def comInertia (b : JbBody) : Mat :=
  let i := fun k => vAt b.inertia k
  [[i 0, i 3, i 4], [i 3, i 1, i 5], [i 4, i 5, i 2]]

/-- R229: Ī. -/
def originInertia (b : JbBody) : Mat :=
  let cc := jDot0 b.com b.com
  matGen 3 3 (fun i j => jAdd (matAt (comInertia b) i j)
    (jMul b.mass (jMinus cc (if i = j then fvOfNat 1 else fvZero) (vAt b.com i) (vAt b.com j))))

/-- R232: body inertia acting on a motion. -/
def inertiaAct (b : JbBody) (m : Vec) : Vec :=
  let cu := cross b.com (lin m)
  let cw := cross b.com (ang m)
  (List.range 3).map (fun a => fma32 b.mass (vAt cu a) (jDot0 ((originInertia b).getD a []) (ang m))) ++
    (List.range 3).map (fun a => jMul b.mass (jSub (vAt (lin m) a) (vAt cw a)))

/-! ### Kinematics and bias forces (R231) -/

/-- R231: X of every body. -/
def allXf (bs : List JbBody) (q : Vec) : List Xf :=
  (List.range bs.length).map (fun i => bodyXf (bodyAt bs i) (vSlice q (qStart bs i) (jointQ (bodyAt bs i).joint)))

/-- The transform of body `i`. -/
def xfAt (xs : List Xf) (i : Nat) : Xf := xs.getD i ⟨matId 3, vZero 3⟩

/-- The slice of a velocity vector that belongs to body `i`. -/
def bodyV (bs : List JbBody) (v : Vec) (i : Nat) : Vec := vSlice v (vStart bs i) (jointV (bodyAt bs i).joint)

/-- R231: vel and c of every body, root first. -/
def allVel (bs : List JbBody) (xs : List Xf) (v : Vec) : List (Vec × Vec) :=
  (List.range bs.length).foldl (fun acc i =>
    let b := bodyAt bs i
    let up := if b.parent = 0xFF then vZero 6 else (acc.getD b.parent (vZero 6, vZero 6)).1
    let sv := bodySv b (bodyV bs v i)
    let vel := vAdd (xfMotion (xfAt xs i) up) sv
    acc ++ [(vel, crossM vel sv)]) []

/-- R231: a and f of every body. -/
def allBias (bs : List JbBody) (xs : List Xf) (g : Vec) (vc : List (Vec × Vec)) : List (Vec × Vec) :=
  (List.range bs.length).foldl (fun acc i =>
    let b := bodyAt bs i
    let up := if b.parent = 0xFF then vZero 3 ++ g.map fvNegate else (acc.getD b.parent (vZero 6, vZero 6)).1
    let vci := vc.getD i (vZero 6, vZero 6)
    let a := vAdd (xfMotion (xfAt xs i) up) vci.2
    acc ++ [(a, vAdd (inertiaAct b a) (crossF vci.1 (inertiaAct b vci.1)))]) []

/-- R231: the forces as they are gathered toward the root, and C. -/
def biasFold (bs : List JbBody) (xs : List Xf) (v : Vec) (f0 : List Vec) : List Vec × Vec :=
  (List.range bs.length).reverse.foldl (fun (acc : List Vec × Vec) i =>
    let b := bodyAt bs i
    let f := acc.1.getD i (vZero 6)
    let c := ((bodyS b).zip (bodyV bs v i)).map (fun p => jAdd (jDot0 p.1 f) (jMul b.damp p.2))
    let f' := if b.parent = 0xFF then acc.1
      else acc.1.set b.parent (vAdd (acc.1.getD b.parent (vZero 6)) (xfForce (xfAt xs i) f))
    (f', c ++ acc.2)) (f0, [])

/-- R231: C. -/
def biasC (bs : List JbBody) (xs : List Xf) (v : Vec) (f0 : List Vec) : Vec := (biasFold bs xs v f0).2

/-! ### The mass matrix (R232) -/

/-- R232: the cross matrix of a vector. -/
def crossMat (v : Vec) : Mat :=
  let z := fvZero
  [[z, fvNegate (vAt v 2), vAt v 1], [vAt v 2, z, fvNegate (vAt v 0)], [fvNegate (vAt v 1), vAt v 0, z]]

/-- A 6 × 6 matrix of four blocks. -/
def blocks4 (a b c d : Mat) : Mat := (a.zip b).map (fun p => p.1 ++ p.2) ++ (c.zip d).map (fun p => p.1 ++ p.2)

/-- Each element of a matrix times `x`. -/
def mScale (x : FVal) (m : Mat) : Mat := m.map (fun r => r.map (fun c => jMul x c))

/-- R232: Ic of a body as a 6 × 6 matrix. -/
def spatialInertia (b : JbBody) : Mat :=
  blocks4 (originInertia b) (mScale b.mass (crossMat b.com)) (mScale b.mass (matTr 3 (crossMat b.com))) (mScale b.mass (matId 3))

/-- R232: X6. -/
def xf6 (x : Xf) : Mat :=
  blocks4 x.e (matGen 3 3 (fun _ _ => fvZero)) ((mMul 3 x.e (crossMat x.r)).map (fun r => r.map fvNegate)) x.e

/-- R232: the composite inertias. -/
def composite (bs : List JbBody) (x6 : List Mat) : List Mat :=
  ((List.range bs.length).reverse.filter (fun i => i != 0)).foldl (fun ic i =>
    let p := (bodyAt bs i).parent
    let x := x6.getD i []
    ic.set p (mAdd (ic.getD p []) (mMul 6 (mMul 6 (matTr 6 x) (ic.getD i [])) x))) (bs.map spatialInertia)

/-- A matrix with one element replaced. -/
def matSet (m : Mat) (i j : Nat) (v : FVal) : Mat := m.set i ((m.getD i []).set j v)

/-- R232: the elements of M that DOF `k` of body `i` gives, up the tree. -/
def massUp (bs : List JbBody) (x6 : List Mat) (k : Nat) : Nat → Nat → Vec → Mat → Mat
  | 0, _, _, m => m
  | fuel + 1, j, f, m =>
    let p := (bodyAt bs j).parent
    if p = 0xFF then m
    else
      let f' := mVec (matTr 6 (x6.getD j [])) f
      let m' := ((bodyDofs bs p).zip (bodyS (bodyAt bs p))).foldl (fun a l =>
        matSet (matSet a l.1 k (jDot0 l.2 f')) k l.1 (jDot0 l.2 f')) m
      massUp bs x6 k fuel p f' m'

/-- R232: the mass matrix with ARMATURE. -/
def massMatrix (bs : List JbBody) (xs : List Xf) : Mat :=
  let nv := jbNv bs
  let x6 := xs.map xf6
  let ic := composite bs x6
  let m := (List.range bs.length).reverse.foldl (fun a i =>
    let ss := bodyS (bodyAt bs i)
    ((bodyDofs bs i).zip ss).foldl (fun a' k =>
      let f := mVec (ic.getD i []) k.2
      massUp bs x6 k.1 bs.length i f
        (((bodyDofs bs i).zip ss).foldl (fun a'' l => matSet a'' l.1 k.1 (jDot0 l.2 f)) a')) a)
    (matGen nv nv (fun _ _ => fvZero))
  (List.range nv).foldl (fun a k => matSet a k k (jAdd (matAt a k k) (bodyAt bs (dofBody bs k)).armature)) m

/-! ### The factor (R233) -/

/-- R233: one elimination of DOF `k` along its chain. -/
def factorDof (bs : List JbBody) (k : Nat) (m : Mat) : Mat :=
  (dofChain bs (jbNv bs) k).foldl (fun a i =>
    let q := divTo .fp32 (matAt a k i) (matAt a k k)
    let a' := (i :: dofChain bs (jbNv bs) i).foldl (fun b j => matSet b i j (fma32 (fvNegate q) (matAt b k j) (matAt b i j))) a
    matSet a' k i q) m

/-- R233: the factor, or how it stops: ill-conditioned or not, the reason, and the DOF. -/
def factorM (bs : List JbBody) (tau : FVal) (m : Mat) : Mat × Option (Bool × Nat × Nat) :=
  let nv := jbNv bs
  let thr := jMul tau ((List.range nv).foldl (fun a k => fvMax a (matAt m k k)) (if nv = 0 then fvZero else matAt m 0 0))
  (List.range nv).reverse.foldl (fun (acc : Mat × Option (Bool × Nat × Nat)) k =>
    if acc.2.isSome then acc
    else match pivotTest thr (matAt acc.1 k k) with
      | some t => (acc.1, some (t.1, t.2, k))
      | none => (factorDof bs k acc.1, none)) (m, none)

/-- R233: solve(u). -/
def jbSolve (bs : List JbBody) (m : Mat) (u : Vec) : Vec :=
  let nv := jbNv bs
  let u1 := (List.range nv).reverse.foldl (fun x k =>
    (dofChain bs nv k).foldl (fun y i => y.set i (fma32 (fvNegate (matAt m k i)) (vAt y k) (vAt y i))) x) u
  let x0 := ((List.range nv).zip u1).map (fun p => divTo .fp32 p.2 (matAt m p.1 p.1))
  (List.range nv).foldl (fun x k =>
    (dofChain bs nv k).foldl (fun y i => y.set k (fma32 (fvNegate (matAt m k i)) (vAt y i) (vAt y k))) x) x0

/-! ### Contacts and limits (R234) -/

/-- Exact component-wise sum. -/
def exAdd (a b : Vec) : Vec := (a.zip b).map (fun p => fvAdd p.1 p.2)
/-- Exact dot product. -/
def exDot (a b : Vec) : FVal := (a.zip b).foldl (fun s p => fvAdd s (fvMul p.1 p.2)) fvZero
/-- Exact matrix times vector. -/
def exVec (m : Mat) (v : Vec) : Vec := m.map (fun r => exDot r v)
/-- Exact matrix product of 3 × 3 matrices. -/
def exMul (a b : Mat) : Mat := a.map (fun r => (matTr 3 b).map (fun c => exDot r c))
/-- Exact cross product. -/
def exCross (a b : Vec) : Vec :=
  [0, 1, 2].map (fun k => fvSub (fvMul (vAt a ((k + 1) % 3)) (vAt b ((k + 2) % 3))) (fvMul (vAt a ((k + 2) % 3)) (vAt b ((k + 1) % 3))))

/-- The rotation from body to world and the origin of every body, exactly, from the FP32 transforms. -/
def worldPose (bs : List JbBody) (xs : List Xf) : List (Mat × Vec) :=
  (List.range bs.length).foldl (fun acc i =>
    let p := (bodyAt bs i).parent
    let up := if p = 0xFF then (matId 3, vZero 3) else acc.getD p (matId 3, vZero 3)
    let x := xfAt xs i
    acc ++ [(exMul up.1 (matTr 3 x.e), exAdd up.2 (exVec up.1 x.r))]) []

/-- A quantity that R234 names without an order of evaluation: its exact value with a free error (log entry 40). -/
def roughly (key : List Nat) (exact : FVal) : FVal := r32 (fvAdd exact (decodeCode .fp32 (Config.jbError key % 2 ^ 32)))

/-- R234: the sphere centre of body `i` in the world frame. -/
def sphereAt (st : JbSet) (key : List Nat) (pose : List (Mat × Vec)) (i : Nat) : Vec :=
  let p := pose.getD i (matId 3, vZero 3)
  ((List.range 3).zip (exAdd p.2 (exVec p.1 (bodyAt st.bodies i).sphere))).map (fun c => roughly ([0, i, c.1] ++ key) c.2)

/-- R234: the Jacobian row of direction `n` at a point of body `i`. -/
def jacRow (st : JbSet) (key : List Nat) (pose : List (Mat × Vec)) (i plane row : Nat) (pt n : Vec) : Vec :=
  let bs := st.bodies
  let ups := bodyChain bs bs.length i
  (List.range (jbNv bs)).map (fun k =>
    let j := dofBody bs k
    if !ups.contains j then fvZero
    else
      let p := pose.getD j (matId 3, vZero 3)
      let sk := (bodyS (bodyAt bs j)).getD (k - vStart bs j) (vZero 6)
      let arm := exAdd pt (p.2.map fvNegate)
      let vel := exAdd (exVec p.1 (lin sk)) (exCross (exVec p.1 (ang sk)) arm)
      roughly ([1, i, plane, row, k] ++ key) (exDot n vel))

/-- A constraint row: J, b, and for a friction row the place of its contact's normal row. -/
structure JbRow where
  j : Vec
  b : FVal
  normal : Option Nat

/-- R234: a contact: its body, plane, sphere centre and φ. -/
structure JbContact where
  body : Nat
  plane : Nat
  s : Vec
  phi : FVal

/-- R234: φ of body `i` and a plane. -/
def phiOf (b : JbBody) (s n : Vec) (d : FVal) : FVal := jSub (jSub (jDot0 n s) d) b.radius

/-- R234: every φ that is tested, in ascending body, then plane order. -/
def phis (st : JbSet) (key : List Nat) (pose : List (Mat × Vec)) : List JbContact :=
  ((List.range st.bodies.length).filter (fun i => fvLt fvZero (bodyAt st.bodies i).radius)).flatMap (fun i =>
    let s := sphereAt st key pose i
    ((List.range st.planes.length).zip st.planes).map (fun p => ⟨i, p.1, s, phiOf (bodyAt st.bodies i) s p.2.1 p.2.2⟩))

/-- R234: e. -/
def axisE (n : Vec) : Vec :=
  let a := fun k => fvAbs (vAt n k)
  let one := fvOfNat 1
  if fvLe (a 0) (a 1) && fvLe (a 0) (a 2) then [one, fvZero, fvZero]
  else if fvLe (a 1) (a 2) then [fvZero, one, fvZero] else [fvZero, fvZero, one]

/-- R234: t1 and t2 of a normal, and dot(t1, t1). -/
def tangents (n : Vec) : Vec × Vec × FVal :=
  let t := cross n (axisE n)
  let dd := jDot0 t t
  let t1 := vScaleBy t (rsqrtTo .fp32 dd)
  (t1, cross n t1, dd)

/-- R234: BETA × min(x, 0) × RECIP(H). -/
def pushBack (st : JbSet) (x : FVal) : FVal := jMul (jMul st.beta (fvMin x fvZero)) (jRecip st.h)

/-- R234: the three rows of a contact, the first at place `at'`. -/
def contactRows (st : JbSet) (key : List Nat) (pose : List (Mat × Vec)) (vfree : Vec) (c : JbContact) (at' : Nat) :
    List JbRow :=
  let n := (st.planes.getD c.plane (vZero 3, fvZero)).1
  let t := tangents n
  let r := (bodyAt st.bodies c.body).radius
  let pt := (c.s.zip n).map (fun p => jSub p.1 (jMul r p.2))
  let row := fun k dir => jacRow st key pose c.body c.plane k pt dir
  let jn := row 0 n
  let j1 := row 1 t.1
  let j2 := row 2 t.2.1
  [⟨jn, jAdd (jDot0 jn vfree) (pushBack st c.phi), none⟩, ⟨j1, jDot0 j1 vfree, some at'⟩, ⟨j2, jDot0 j2 vfree, some at'⟩]

/-- The unit vector of DOF `k`. -/
def unitDof (nv k : Nat) (v : FVal) : Vec := (List.range nv).map (fun i => if i = k then v else fvZero)

/-- R234: the rows of the joint limits, in ascending DOF. -/
def limitRows (st : JbSet) (q vfree : Vec) : List JbRow :=
  let bs := st.bodies
  let nv := jbNv bs
  (List.range nv).flatMap (fun k =>
    let i := dofBody bs k
    let b := bodyAt bs i
    if !b.limited then []
    else
      let qk := vAt q (qStart bs i)
      let vk := vAt vfree k
      let next := jAdd qk (jMul st.h vk)
      (if fvLt next b.qlo then [⟨unitDof nv k (fvOfNat 1), jAdd vk (pushBack st (jSub qk b.qlo)), none⟩] else []) ++
        (if fvLt b.qhi next then
          [⟨unitDof nv k (fvNegate (fvOfNat 1)), jAdd (fvNegate vk) (pushBack st (jSub b.qhi qk)), none⟩] else []))

/-! ### Sweeps and feasibility (R235, R236) -/

/-- R235: A. -/
def constraintA (st : JbSet) (l : Mat) (rows : List JbRow) : Mat :=
  let cols := rows.map (fun r => jbSolve st.bodies l r.j)
  let n := rows.length
  ((List.range n).zip rows).map (fun r => ((List.range n).zip cols).map (fun c =>
    let x := jDot0 r.2.j c.2
    if r.1 = c.1 then jAdd x st.eps else x))

/-- R234: the bounds of a row under the present λ; none is +∞. -/
def rowBounds (st : JbSet) (lam : Vec) (r : JbRow) : FVal × FVal :=
  match r.normal with
  | none => (fvZero, .inf false)
  | some k => let x := jMul st.mu (vAt lam k); (fvNegate x, x)

/-- R235: whether a row's diagonal is too small. -/
def smallPivot (a : Mat) (i : Nat) : Bool := fvLt (matAt a i i) (.fin false 1 (-126))

/-- R235: one sweep over the rows. -/
def sweep (st : JbSet) (a : Mat) (rows : List JbRow) (lam : Vec) : Vec :=
  ((List.range rows.length).zip rows).foldl (fun x p =>
    if smallPivot a p.1 then x
    else
      let w := jDot (a.getD p.1 []) x p.2.b
      let bd := rowBounds st x p.2
      x.set p.1 (stepOp 0x0D (jSub (vAt x p.1) (divTo .fp32 w (matAt a p.1 p.1))) bd.1 bd.2)) lam

/-- R235, R236: w of a row after the sweeps. -/
def rowW (a : Mat) (lam : Vec) (i : Nat) (r : JbRow) : FVal := jDot (a.getD i []) lam r.b

/-- R236: the violation of a row; of a NaN, that NaN (log entry 48). -/
def violation (st : JbSet) (a : Mat) (lam : Vec) (i : Nat) (r : JbRow) : FVal :=
  let w := rowW a lam i r
  let bd := rowBounds st lam r
  if fvIsNan w then w
  else if fvEq bd.1 bd.2 then fvZero
  else if fvLe (vAt lam i) bd.1 then fvMax (fvNegate w) fvZero
  else if fvLe bd.2 (vAt lam i) then fvMax w fvZero
  else fvAbs w

/-- R236: the reason of a row in the certificate: 2 non-finite, 1 small pivot, 0 violation above FEAS_TOL, or none. -/
def rowReason (st : JbSet) (a : Mat) (lam : Vec) (i : Nat) (r : JbRow) (viol : FVal) : Option Nat :=
  if r.j.any fvNonFinite || fvNonFinite r.b || (a.getD i []).any fvNonFinite || fvNonFinite (vAt lam i) ||
      fvNonFinite (rowW a lam i r) then
    some 2
  else if smallPivot a i then some 1
  else if fvLt st.tol viol then some 0
  else none

/-- R236: of two rows in the violated set, as place, violation and reason, the worse; a NaN ranks highest. -/
def worseRow (x y : Nat × FVal × Nat) : Nat × FVal × Nat :=
  if fvIsNan x.2.1 then x else if fvIsNan y.2.1 then y else if fvLt x.2.1 y.2.1 then y else x

/-- R236: the certificate of an environment. -/
def certificate (env n : Nat) (bad : List (Nat × FVal × Nat)) : List Byte :=
  match bad with
  | [] => []
  | x :: r =>
    let w := r.foldl worseRow x
    let mask := bad.foldl (fun m b => m + 2 ^ b.1) 0
    leBytes 2 env ++ leBytes 1 n ++ leBytes 1 bad.length ++ leBytes 1 w.1 ++ leBytes 1 w.2.2 ++ leBytes 2 0 ++
      leBytes 4 (convert .fp32 .rne w.2.1).1 ++ leBytes 4 0 ++ leBytes 24 mask ++ leBytes 24 0

/-! ### Integration and the step (R231, R237) -/

/-- R237: the position of a free joint after a step; a sum of squares that is not finite shows as a NaN (R230). -/
def integrateFree (h : FVal) (q v : Vec) : Vec :=
  let quat := vSlice q 3 4
  let e := quatMat quat
  let u := lin v
  let w := vAt quat 0
  let x := vAt quat 1
  let y := vAt quat 2
  let z := vAt quat 3
  let o := fun k => vAt v k
  let p := (List.range 3).map (fun j => fma32 h (jDot0 (e.getD j []) u) (vAt q j))
  let qd := [jDot0 [fvNegate x, fvNegate y, fvNegate z] [o 0, o 1, o 2], jDot0 [w, y, fvNegate z] [o 0, o 2, o 1],
    jDot0 [w, fvNegate x, z] [o 1, o 2, o 0], jDot0 [w, x, fvNegate y] [o 2, o 1, o 0]]
  let raw := (quat.zip qd).map (fun c => fma32 h (jMul (.fin false 1 (-1)) c.2) c.1)
  let dd := jDot0 raw raw
  p ++ vScaleBy raw (if fvNonFinite dd then .nan false else rsqrtTo .fp32 dd)

/-- R237: the positions after a step. -/
def integrate (st : JbSet) (q v : Vec) : Vec :=
  (List.range st.bodies.length).flatMap (fun i =>
    let b := bodyAt st.bodies i
    let qi := vSlice q (qStart st.bodies i) (jointQ b.joint)
    let vi := bodyV st.bodies v i
    if b.joint = 3 then integrateFree st.h qi vi
    else (qi.zip vi).map (fun p => fma32 st.h p.2 p.1))

/-- How a step of an environment ends: a stop (ILL_CONDITIONED or NOT_POSITIVE, with reason and column), INFEASIBLE with
its certificate, or done with Q, V and QDD; the last two with contacts and drops. -/
inductive JbRes where
  | stop (ill : Bool) (reason col : Nat)
  | infeasible (contacts drops : Nat) (cert : List Byte)
  | done (contacts drops : Nat) (q v qdd : Vec)

/-- Whether a vector holds an infinity or a NaN. -/
def vBad (v : Vec) : Bool := v.any fvNonFinite

/-- R231: C of an environment. -/
def jbC (st : JbSet) (xs : List Xf) (v : Vec) : Vec :=
  biasC st.bodies xs v ((allBias st.bodies xs st.gravity (allVel st.bodies xs v)).map (fun p => p.2))

/-- R230: whether a quantity of the kinematics, of the bias forces or of the composite inertias is an infinity or a NaN,
those of bodies that lead to no degree of freedom included. -/
def jbWild (st : JbSet) (xs : List Xf) (v : Vec) : Bool :=
  let bs := st.bodies
  let vc := allVel bs xs v
  let ab := allBias bs xs st.gravity vc
  let x6 := xs.map xf6
  xs.any (fun x => x.e.any vBad || vBad x.r) || vc.any (fun p => vBad p.1 || vBad p.2) || ab.any (fun p => vBad p.1 || vBad p.2) ||
    (biasFold bs xs v (ab.map (fun p => p.2))).1.any vBad || x6.any (fun m => m.any vBad) ||
    (composite bs x6).any (fun m => m.any vBad)

/-- R230, R234: whether q + H × vfree of a limited degree of freedom is an infinity or a NaN. -/
def limitWild (st : JbSet) (q vfree : Vec) : Bool :=
  (List.range (jbNv st.bodies)).any (fun k =>
    let i := dofBody st.bodies k
    (bodyAt st.bodies i).limited && fvNonFinite (jAdd (vAt q (qStart st.bodies i)) (jMul st.h (vAt vfree k))))

/-- R231: u. -/
def jbU (st : JbSet) (tau c : Vec) : Vec :=
  ((List.range (jbNv st.bodies)).zip (tau.zip c)).map (fun p =>
    let b := bodyAt st.bodies (dofBody st.bodies p.1)
    let t := if b.joint = 3 ∨ fvIsZero b.effort then p.2.1 else stepOp 0x0D p.2.1 (fvNegate b.effort) b.effort
    jSub t p.2.2)

/-- R231, R234 to R237: the step after the factor. -/
def jbRest (st : JbSet) (env : Nat) (key : List Nat) (xs : List Xf) (l : Mat) (q v tau : Vec) : JbRes :=
  let bad := JbRes.stop false 2 0xFF
  let bs := st.bodies
  let c := jbC st xs v
  if vBad q || vBad v || vBad tau || jbWild st xs v || vBad c || l.any vBad then bad
  else
    let qf := jbSolve bs l (jbU st tau c)
    let vfree := (qf.zip v).map (fun p => fma32 st.h p.1 p.2)
    if vBad qf || vBad vfree || limitWild st q vfree then bad
    else
      let pose := worldPose bs xs
      let tested := phis st key pose
      let cs := tested.filter (fun c => fvLt c.phi st.margin)
      let kept := cs.take st.maxc
      let drops := cs.length - kept.length
      if tested.any (fun c => fvNonFinite c.phi || vBad c.s) || kept.any (fun c =>
          let t := tangents (st.planes.getD c.plane (vZero 3, fvZero)).1
          fvNonFinite t.2.2 || vBad t.1 || vBad t.2.1) then bad
      else
        let rows := ((List.range kept.length).zip kept).flatMap (fun p => contactRows st key pose vfree p.2 (3 * p.1)) ++
          limitRows st q vfree
        let a := constraintA st l rows
        let lam := (List.range st.iters).foldl (fun x _ => sweep st a rows x) (vZero rows.length)
        let judged := ((List.range rows.length).zip rows).filterMap (fun p =>
          let w := violation st a lam p.1 p.2
          (rowReason st a lam p.1 p.2 w).map (fun k => (p.1, w, k)))
        if !judged.isEmpty then .infeasible kept.length drops (certificate env rows.length judged)
        else
          let y := jbSolve bs l ((List.range (jbNv bs)).map (fun k => jDot0 (rows.map (fun r => vAt r.j k)) lam))
          let v' := (vfree.zip y).map (fun p => jAdd p.1 p.2)
          let q' := integrate st q v'
          let qdd := (v'.zip v).map (fun p => jMul (jSub p.1 p.2) (jRecip st.h))
          if vBad y || vBad v' || vBad q' || vBad qdd then bad else .done kept.length drops q' v' qdd

/-- R231: one step of one environment. -/
def jbStep (st : JbSet) (env : Nat) (key : List Nat) (q v tau : Vec) : JbRes :=
  let xs := allXf st.bodies q
  let f := factorM st.bodies st.tau (massMatrix st.bodies xs)
  match f.2 with
  | some t => .stop t.1 t.2.1 t.2.2
  | none => jbRest st env key xs f.1 q v tau

/-- R245: τ := M q̈ + C. -/
def inverseDyn (st : JbSet) (q v qdd : Vec) : Vec :=
  let xs := allXf st.bodies q
  vAdd (mVec (massMatrix st.bodies xs) qdd) (jbC st xs v)

end Sys2Proof.Machine
end

