-- ==== Sys2Proof/Machine/JointedBody.lean ====
section
/-!
DEFINITION. The Jointed-Body Dynamics Solver: ENV_STEP, INV_DYN, MASS and ENV_LOOP, their batches and loop steps (R225 to
R249).
-/

namespace Sys2Proof.Machine

/-! ### The bodies (R246, R247) -/

/-- R246, R247: SET. -/
def jSet (d : Desc) : Nat := dfld d 0x20 41 0
/-- Whether a descriptor is an ENV_LOOP. -/
def isLoop (d : Desc) : Bool := dOpcode d == 0x0430
/-- Whether an operation is one of class 0x04. -/
def isJb (o : Op) : Bool := [0x0400, 0x0410, 0x0420, 0x0430].contains (dOpcode o.d)
/-- R246: ENV0. -/
def jEnv0 (d : Desc) : Nat := if isLoop d then 0 else dfld d 0x28 13 0
/-- R246: OUT. -/
def jOut (d : Desc) : Nat := dfld d 0x30 41 0
/-- R246, R247: the steps that each environment takes: SUBSTEPS, or one computation. -/
def jSubsteps (d : Desc) : Nat := if dOpcode d = 0x0400 ∨ isLoop d then dfld d 0x2C 4 0 else 1
/-- R247: NSTEP. -/
def jNstep (d : Desc) : Nat := dfld d 0x28 31 0
/-- R247: ACT_SEM. -/
def jActSem (d : Desc) : Nat := dfld d 0x2E 11 0
/-- R247: OBS_SEM. -/
def jObsSem (d : Desc) : Nat := dfld d 0x30 11 0
/-- R247: ACT_BASE. -/
def jActBase (d : Desc) : Nat := dfld d 0x34 19 0
/-- R247: START_TICK. -/
def jStartTick (d : Desc) : Nat := dfld d 0x38 63 0
/-- R247: TPS. -/
def jTps (d : Desc) : Nat := dfld d 0x40 15 0
/-- R247: OBS. -/
def jObs (d : Desc) : Nat := dfld d 0x48 41 0
/-- R247: OBS_STRIDE. -/
def jObsStride (d : Desc) : Nat := dfld d 0x50 31 0

/-! ### Set, body and environment records (R225, R226, R228) -/

/-- R225: BODIES. -/
def setBodies (s : State) (a : Nat) : Nat := rdBits s a 41 0
/-- R225: STATE. -/
def setState (s : State) (a : Nat) : Nat := rdBits s (a + 8) 41 0
/-- R225: INIT. -/
def setInit (s : State) (a : Nat) : Nat := rdBits s (a + 0x10) 41 0
/-- R225: CERT. -/
def setCert (s : State) (a : Nat) : Nat := rdBits s (a + 0x18) 41 0
/-- R225: NENV. -/
def setNenv (s : State) (a : Nat) : Nat := rdBits s (a + 0x20) 14 0
/-- R225: NBODIES. -/
def setNbodies (s : State) (a : Nat) : Nat := rdBits s (a + 0x20) 22 16
/-- R225: NPLANES. -/
def setNplanes (s : State) (a : Nat) : Nat := rdBits s (a + 0x20) 26 24
/-- R225: STRIDE. -/
def setStride (s : State) (a : Nat) : Nat := rdNat s (a + 0x24) 4

/-- `n` consecutive FP32 values. -/
def rdVec (s : State) (a n : Nat) : Vec := (List.range n).map (fun i => rdF32 s (a + 4 * i))

/-- `n` consecutive words. -/
def rdWords (s : State) (a n : Nat) : List Nat := (List.range n).map (fun i => rdNat s (a + 4 * i) 4)

/-- R226: a body record. -/
def rdBody (s : State) (a : Nat) : JbBody :=
  { parent := rdNat s a 1, joint := rdBits s a 11 8, limited := rdBits s a 12 12 == 1
    axis := rdVec s (a + 0x04) 3, pos := rdVec s (a + 0x10) 3, quat := rdVec s (a + 0x1C) 4
    mass := rdF32 s (a + 0x2C), com := rdVec s (a + 0x30) 3, inertia := rdVec s (a + 0x3C) 6
    qlo := rdF32 s (a + 0x54), qhi := rdF32 s (a + 0x58), effort := rdF32 s (a + 0x5C), damp := rdF32 s (a + 0x60)
    armature := rdF32 s (a + 0x64), sphere := rdVec s (a + 0x68) 3, radius := rdF32 s (a + 0x74) }

/-- R226: the bodies of a set. -/
def rdBodies (s : State) (a : Nat) : List JbBody :=
  (List.range (setNbodies s a)).map (fun i => rdBody s (setBodies s a + i * 128))

/-- R225: the set at offset `a`. -/
def rdSet (s : State) (a : Nat) : JbSet :=
  { bodies := rdBodies s a
    gravity := rdVec s (a + 0x28) 3, h := rdF32 s (a + 0x34)
    iters := rdNat s (a + 0x38) 1, maxc := rdBits s (a + 0x38) 13 8
    tol := rdF32 s (a + 0x3C), tau := rdF32 s (a + 0x40), eps := rdF32 s (a + 0x44), beta := rdF32 s (a + 0x48)
    mu := rdF32 s (a + 0x4C), margin := rdF32 s (a + 0x50)
    planes := (List.range (setNplanes s a)).map (fun p => (rdVec s (a + 0x80 + 16 * p) 3, rdF32 s (a + 0x8C + 16 * p)))
    words := rdWords s (a + 0x28) 38 ++ rdWords s (setBodies s a) (32 * setNbodies s a) }

/-- R228: the offset of environment record `env`. -/
def envAddr (s : State) (a env : Nat) : Nat := setState s a + env * setStride s a
/-- R228: Q. -/
def envQ (s : State) (a env : Nat) : Vec := rdVec s (envAddr s a env + 0x010) (jbNq (rdBodies s a))
/-- R228: V. -/
def envV (s : State) (a env : Nat) : Vec := rdVec s (envAddr s a env + 0x128) (jbNv (rdBodies s a))
/-- R228: TAU. -/
def envTau (s : State) (a env : Nat) : Vec := rdVec s (envAddr s a env + 0x23C) (jbNv (rdBodies s a))
/-- R228: QDD. -/
def envQdd (s : State) (a env : Nat) : Vec := rdVec s (envAddr s a env + 0x350) (jbNv (rdBodies s a))
/-- R228: HALTED. -/
def envHalted (s : State) (a env : Nat) : Bool := rdBits s (envAddr s a env) 0 0 == 1

/-- R228: the bytes of an environment record: its fields end at 0x464. -/
def envLen : Nat := 0x464

/-- The writes of FP32 values in a row. -/
def vecWrites (a : Nat) (v : Vec) : List Host.Cell := bytesWrites a (v.flatMap (fun x => leBytes 4 (code32 x)))

/-! ### Faults (R248) -/

/-- R225: whether an FP32 value is finite and at least 0. -/
def finNonNeg (v : FVal) : Bool := !fvNonFinite v && fvLe fvZero v

/-- R225: whether an FP32 value is finite and above 0. -/
def finPos (v : FVal) : Bool := !fvNonFinite v && fvLt fvZero v

/-- R225: whether a set record breaks a condition of its fields. -/
def setBad (s : State) (a : Nat) : Bool :=
  let one := fvOfNat 1
  let t := rdF32 s (a + 0x40)
  let be := rdF32 s (a + 0x48)
  setBodies s a % 128 != 0 || setState s a % 64 != 0 || setCert s a % 64 != 0 ||
    !decide (1 ≤ setNenv s a ∧ setNenv s a ≤ 16384) || !decide (1 ≤ setNbodies s a ∧ setNbodies s a ≤ 64) ||
    decide (4 < setNplanes s a) || setStride s a % 64 != 0 || decide (setStride s a < 1152) ||
    !finPos (rdF32 s (a + 0x34)) || rdNat s (a + 0x38) 1 == 0 || decide (32 < rdBits s (a + 0x38) 13 8) ||
    !finPos (rdF32 s (a + 0x3C)) || !(finNonNeg t && fvLt t one) || !finNonNeg (rdF32 s (a + 0x44)) ||
    !(finNonNeg be && fvLe be one) || !finNonNeg (rdF32 s (a + 0x4C)) || !finNonNeg (rdF32 s (a + 0x50))

/-- R226: whether body `i` breaks a condition of its record. -/
def bodyBad (b : JbBody) (i : Nat) : Bool :=
  (if i = 0 then b.parent != 0xFF else decide (i ≤ b.parent)) || decide (3 < b.joint) || (b.joint == 3 && i != 0) ||
    (b.limited && b.joint != 1 && b.joint != 2) || !fvLt fvZero b.mass || (b.limited && !fvLe b.qlo b.qhi) ||
    !fvLe fvZero b.effort || !fvLe fvZero b.damp || !fvLe fvZero b.armature || !fvLe fvZero b.radius

/-- R226: whether any body record breaks a condition. -/
def bodiesBad (s : State) (a : Nat) : Bool :=
  let bs := rdBodies s a
  ((List.range bs.length).zip bs).any (fun p => bodyBad p.2 p.1)

/-- R246: the number of environments. -/
def jCount (s : State) (d : Desc) : Nat := if isLoop d then setNenv s (jSet d) else dfld d 0x2A 14 0

/-- R228: the environment records that an operation uses. -/
def jEnvRegion (s : State) (d : Desc) : Region :=
  ⟨envAddr s (jSet d) (jEnv0 d), setStride s (jSet d), jCount s d, envLen⟩

/-- R236: the certificates that an operation may write. -/
def jCertRegion (s : State) (d : Desc) : Region := ⟨setCert s (jSet d) + jEnv0 d * 64, 64, jCount s d, 64⟩

/-- R245, R244: what INV_DYN, MASS and ENV_LOOP write beside the records. -/
def jOutRegions (s : State) (d : Desc) : List Region :=
  let nv := jbNv (rdBodies s (jSet d))
  if dOpcode d = 0x0410 then [⟨jOut d, 288, jCount s d, 4 * nv⟩]
  else if dOpcode d = 0x0420 then [⟨jOut d, 288, jCount s d * nv, 4 * nv⟩]
  else if isLoop d then [⟨jObs d, jObsStride d, jCount s d, jObsStride d⟩] else []

/-- R245: whether an operation steps environments. -/
def jSteps (d : Desc) : Bool := dOpcode d == 0x0400 || isLoop d

/-- R243, R244: the initial records that a loop may read. -/
def jInitRegions (s : State) (d : Desc) : List Region :=
  if isLoop d then [⟨setInit s (jSet d), setStride s (jSet d), setNenv s (jSet d), envLen⟩] else []

/-- R248: the set's environment, initial and certificate regions. -/
def jSetRegions (s : State) (a : Nat) : List Region :=
  [⟨setState s a, setStride s a, setNenv s a, setStride s a⟩, ⟨setInit s a, setStride s a, setNenv s a, setStride s a⟩,
   ⟨setCert s a, 64, setNenv s a, 64⟩]

/-- The regions that a jointed-body operation writes. -/
def jWrites (s : State) (d : Desc) : List Region :=
  (if jSteps d then [jEnvRegion s d, jCertRegion s d] else []) ++ jOutRegions s d

/-- R248: the fault of a set that keeps R225 to R227. -/
def jBodyFault (s : State) (d : Desc) : Option (Nat × Nat) :=
  if isLoop d ∧ jObsStride d < 16 + 4 * (jbNq (rdBodies s (jSet d)) + jbNv (rdBodies s (jSet d))) then some (0x151, 0)
  else if setNenv s (jSet d) < jEnv0 d + jCount s d then some (0x152, 0)
  else match accessFault s (jEnvRegion s d :: jInitRegions s d ++ jWrites s d) with
    | some e => some e
    | none =>
      match outFault s d (jWrites s d) with
      | some e => some e
      | none => if anyMeet (jOutRegions s d) (jSetRegions s (jSet d)) then some (0x153, 0) else none

/-- R248: the fault of a jointed-body operation. -/
def jFault (s : State) (d : Desc) : Option (Nat × Nat) :=
  let a := jSet d
  match accessFault s [⟨a, 0, 1, 192⟩] with
  | some e => some e
  | none =>
    if setBad s a then some (0x152, 0)
    else match accessFault s [⟨setBodies s a, 128, setNbodies s a, 128⟩] with
      | some e => some e
      | none => if bodiesBad s a then some (0x152, 0) else jBodyFault s d

/-! ### Batches (R238, R240) -/

/-- A jointed-body operation's progress. -/
def jbOf (o : Op) : JbWork :=
  match o.work with
  | .jb w => w
  | _ => ⟨[], [], 0, [], 0, false, 0, 0, 0⟩

/-- A jointed-body operation's progress changed. -/
def setJb (s : State) (ctx idx : Nat) (f : JbWork → JbWork) : State :=
  updOp s ctx idx (fun o => { o with work := .jb (f (jbOf o)) })

/-- R238: the batches of an operation. -/
def jBatches (s : State) (d : Desc) : List Nat :=
  (List.range 64).filter (fun b => decide (jEnv0 d / 256 ≤ b ∧ b * 256 < jEnv0 d + jCount s d))

/-- The environments of a batch of an operation. -/
def batchEnvs (s : State) (d : Desc) (b : Nat) : List Nat :=
  ((List.range 256).map (fun i => b * 256 + i)).filter (fun e => decide (jEnv0 d ≤ e ∧ e < jEnv0 d + jCount s d))

/-- The steps that a batch has done. -/
def batchDone (w : JbWork) (b : Nat) : Nat := ((w.doneOf.find? (fun p => p.1 == b)).map (fun p => p.2)).getD 0

/-- R238: a Cell's lowest batch that has steps to do and does not run. -/
def nextBatch (s : State) (o : Op) (cell : Nat) : Option Nat :=
  (jBatches s o.d).find? (fun b => cellOfUnit o.d b == cell && !(jbOf o).running.contains b &&
    decide (batchDone (jbOf o) b < jSubsteps o.d))

/-- R238: whether a Cell's vector unit runs a unit of a vector operation. -/
def unitOn (s : State) (cell : Nat) : Bool :=
  s.ops.any (fun o => match o.work with
    | .vec w => o.ended.isNone && w.running.any (fun u => cellOfUnit o.d u == cell)
    | _ => false)

/-- R238, R240: a Cell begins its next batch of an operation, unless its vector unit is busy or the slot has ended. -/
def beginBatch (s : State) (ctx idx cell : Nat) : State :=
  match findOp s ctx idx with
  | none => s
  | some o =>
    if slotOver s o || !(jbOf o).active || batchOn s cell || unitOn s cell then s
    else match nextBatch s o cell with
      | some b => setJb s ctx idx (fun w => { w with running := w.running ++ [b] })
      | none => s

/-- Every Cell in scope begins its next batch. -/
def beginBatches (s : State) (ctx idx : Nat) (d : Desc) : State :=
  (scopeCells d).foldl (fun t c => beginBatch t ctx idx c) s

/-- R242, R249: loops that run. -/
def loopsActive (s : State) : Nat := s.ops.countP (fun o => isLoop o.d && o.ended.isNone)

/-- A jointed-body operation begins: its faults, then its first batches. -/
def jbBegin (s : State) (ctx idx : Nat) : State :=
  match findOp s ctx idx with
  | none => s
  | some o =>
    match jFault s o.d with
    | some e => ctxFault s ctx idx e.1 e.2
    | none =>
      let s1 := setJb s ctx idx (fun _ => ⟨[], [], 0, [], 0, !isLoop o.d, 0, 0, 0⟩)
      beginBatches s1 ctx idx o.d

/-! ### The work of one environment -/

/-- R241: a step that did not end with DONE is noted. -/
def noteFail (s : State) (o : Op) (f : JbFail) : State :=
  setJb s o.ctx o.idx (fun w => { w with fails := w.fails ++ [f] })

/-- R228, R236, R241: what a step's end writes and counts. -/
def jbResult (s : State) (o : Op) (cell env : Nat) (r : JbRes) : State :=
  let a := envAddr s (jSet o.d) env
  let mill := millOfCell cell
  let contacts := fun (t : State) (n drops : Nat) =>
    countF (wrNat (wrNat t (a + 4) 1 n) (a + 5) 1 drops) mill Reg.jbCdrop_count 0 drops
  match r with
  | .stop ill reason col =>
    let st : Status := if ill then .illConditioned else .notPositive
    let s1 := wrBits (wrBits (wrNat s (a + 1) 1 (statusCode st)) a 7 4 reason) a 0 0 1
    let s2 := wrNat s1 (a + 2) 1 col
    noteFail (countF s2 mill Reg.jbFails_halts 0 1) o ⟨st, env, col + env * 2 ^ 16⟩
  | .infeasible n drops cert =>
    let at' := setCert s (jSet o.d) + env * 64
    let s1 := wrMem (contacts (wrNat s (a + 1) 1 (statusCode .infeasible)) n drops) (bytesWrites at' cert)
    noteFail (countF s1 mill Reg.jbFails_infeas 0 1) o ⟨.infeasible, env, at'⟩
  | .done n drops q v qdd =>
    let s1 := contacts (wrNat s (a + 1) 1 0) n drops
    let s2 := wrNat s1 (a + 8) 4 ((rdNat s (a + 8) 4 + 1) % 2 ^ 32)
    let s3 := wrMem s2 (vecWrites (a + 0x010) q ++ vecWrites (a + 0x128) v ++ vecWrites (a + 0x350) qdd)
    countF s3 mill Reg.jbSteps_count 0 1

/-- One environment's part of a batch. -/
def jbEnv (o : Op) (cell : Nat) (s : State) (env : Nat) : State :=
  let a := jSet o.d
  let st := rdSet s a
  let q := envQ s a env
  if jSteps o.d then
    if envHalted s a env then s
    else jbResult s o cell env
      (jbStep st env (st.words ++ rdWords s (envAddr s a env + 0x010) q.length) q (envV s a env) (envTau s a env))
  else if dOpcode o.d = 0x0410 then
    wrMem s (vecWrites (jOut o.d + (env - jEnv0 o.d) * 288) (inverseDyn st q (envV s a env) (envQdd s a env)))
  else
    let nv := jbNv st.bodies
    wrMem s (matWrites (jOut o.d + (env - jEnv0 o.d) * nv * 288) 288 (massMatrix st.bodies (allXf st.bodies q)))

/-- R241: of two failures, the one that the operation reports. -/
def worseFail (x y : JbFail) : JbFail :=
  if statusCode x.status < statusCode y.status then y
  else if statusCode y.status < statusCode x.status then x
  else if y.env < x.env then y else x

/-- R241, R243: how an operation's work ends. -/
def jbEnd (o : Op) : OpEnd :=
  let w := jbOf o
  let base := if w.overrun = 0 then normalEnd o else ⟨.tickOverrun, w.overrun⟩
  match w.fails with
  | [] => base
  | x :: r => let f := r.foldl worseFail x; worse base ⟨f.status, f.detail⟩

/-- Whether every batch has done its steps. -/
def batchesDone (s : State) (o : Op) : Bool :=
  (jBatches s o.d).all (fun b => batchDone (jbOf o) b == jSubsteps o.d)

/-- An operation other than a loop ends once every batch has done its steps. -/
def jbMaybeEnd (s : State) (ctx idx : Nat) : State :=
  match findOp s ctx idx with
  | none => s
  | some o =>
    if isLoop o.d || !batchesDone s o then s
    else if dCheck o.d = 2 ∧ o.run = 1 then updOp s ctx idx (fun p => { p with run := 2 })
    else endOp s ctx idx (jbEnd o)

/-- R238: vector units that waited for a batch's end on a Cell begin. -/
def wakeUnits (s : State) (cell : Nat) : State :=
  s.ops.foldl (fun t o => match o.work with
    | .vec w => if opRuns o && !(w.running.any (fun u => cellOfUnit o.d u == cell)) then beginUnit t o.ctx o.idx cell else t
    | _ => t) s

/-- R238: batches that waited for a Cell's vector unit begin, those of the oldest operation first.  DESIGN CHOICE: a unit of a
vector operation that waits goes before them, since the spec orders only the other case (log entry 74). -/
def wakeBatches (s : State) (cell : Nat) : State :=
  s.ops.foldl (fun t o => match o.work with
    | .jb _ => if opRuns o then beginBatch t o.ctx o.idx cell else t
    | _ => t) s

/-- R243: as the last batch of a loop step ends, the ticks that its item 2 has crossed are noted. -/
def noteLate (s : State) (ctx idx : Nat) : State :=
  match findOp s ctx idx with
  | none => s
  | some o => if batchesDone s o then setJb s ctx idx (fun w => { w with late := s.time.ticksTaken - w.from_ }) else s

/-- R238: a batch has finished a step and writes its records; waiting vector units, then waiting batches, begin on its
Cell. -/
def batchEnd (s : State) (o : Op) (b : Nat) : State :=
  let cell := cellOfUnit o.d b
  let s1 := (batchEnvs s o.d b).foldl (jbEnv o cell) s
  let s2 := setJb s1 o.ctx o.idx (fun w =>
    { w with doneOf := (b, batchDone w b + 1) :: w.doneOf.filter (fun p => p.1 != b)
             running := w.running.filter (fun c => c != b), completed := w.completed + 1 })
  jbMaybeEnd (wakeBatches (wakeUnits (noteLate s2 o.ctx o.idx) cell) cell) o.ctx o.idx

/-- JB_BATCH_DONE (R238): the batch that a Cell runs for an operation. -/
def execJbBatchDone (cell ctx idx : Nat) (s : State) : Host.Outcome State Fault Refusal :=
  .next (match findOp s ctx idx with
    | none => s
    | some o =>
      if !opRuns o || unitsHeld s || (cellGet s cell).stopped || opWaits s o then s
      else match (jbOf o).running.find? (fun b => cellOfUnit o.d b == cell) with
        | some b => batchEnd s o b
        | none => s)

/-- Every step of every batch that is left is done, batch by batch. -/
def batchesRun (s : State) (o : Op) : State :=
  if slotOver s o || unitsHeld s then s
  else (jBatches s o.d).foldl (fun t b => (List.range 16).foldl (fun u _ =>
    match findOp u o.ctx o.idx with
    | some p => if opRuns p && (jbOf p).active && decide (batchDone (jbOf p) b < jSubsteps p.d) then batchEnd u p b else u
    | none => u) t) s

/-- ENV_STEP (R231). -/
def execEnvStep (ctx idx : Nat) (s : State) : Host.Outcome State Fault Refusal :=
  .next (onOp s ctx idx 0x0400 (fun o => batchesRun s o))

/-- INV_DYN (R245). -/
def execInvDyn (ctx idx : Nat) (s : State) : Host.Outcome State Fault Refusal :=
  .next (onOp s ctx idx 0x0410 (fun o => batchesRun s o))

/-- MASS (R245). -/
def execMass (ctx idx : Nat) (s : State) : Host.Outcome State Fault Refusal :=
  .next (onOp s ctx idx 0x0420 (fun o => batchesRun s o))

/-! ### Loops (R242 to R244) -/

/-- R242: whether loop step k may begin. -/
def loopReady (s : State) (o : Op) : Bool :=
  let d := o.d
  let k := (jbOf o).k
  !(jbOf o).active && decide (k < jNstep d) &&
    waitHolds (semGet s (jActSem d)) ((jActBase d + k + 1) % 2 ^ 20) &&
    (jStartTick d == 0 || decide (jStartTick d + k * jTps d ≤ tickNow s))

/-- R243: an environment that asks for it is reset from its initial record. -/
def resetEnv (a : Nat) (s : State) (env : Nat) : State :=
  let e := envAddr s a env
  if rdBits s e 1 1 = 0 then s
  else
    let from' := setInit s a + env * setStride s a
    let w := rdNat s from' 4
    let clear := bits w 3 2 * 4 + bits w 31 24 * 2 ^ 24
    countA (wrMem s (natWrites e 4 clear ++ bytesWrites (e + 4) (rdBytes s (from' + 4) (envLen - 4)))) Reg.jbResets_count 1

/-- R243 items 1 and 2: a loop step begins. -/
def loopBegin (s : State) (o : Op) : State :=
  let a := jSet o.d
  let s1 := (List.range (setNenv s a)).foldl (resetEnv a) s
  let s2 := setJb s1 o.ctx o.idx (fun w => { w with active := true, doneOf := [], from_ := s.time.ticksTaken, late := 0 })
  beginBatches s2 o.ctx o.idx o.d

/-- ENV_LOOP_STEP_BEGIN (R243). -/
def execEnvLoopStepBegin (ctx idx : Nat) (s : State) : Host.Outcome State Fault Refusal :=
  .next (onOp s ctx idx 0x0430 (fun o => if loopReady s o then loopBegin s o else s))

/-- R244: the observation record of an environment. -/
def observe (o : Op) (s : State) (env : Nat) : State :=
  let a := jSet o.d
  let e := envAddr s a env
  let w := rdNat s e 4
  let body := leBytes 4 (w - bits w 1 1 * 2) ++ rdBytes s (e + 4) 4 ++ rdBytes s (e + 8) 4 ++ leBytes 4 ((jbOf o).k % 2 ^ 32) ++
    rdBytes s (e + 0x010) (4 * jbNq (rdBodies s a)) ++ rdBytes s (e + 0x128) (4 * jbNv (rdBodies s a))
  wrMem s (bytesWrites (jObs o.d + env * jObsStride o.d) (body ++ List.replicate (jObsStride o.d - body.length) 0))

/-- R243 items 3 and 4: a loop step ends. -/
def loopEnd (s : State) (o : Op) : State :=
  let w := jbOf o
  let late := w.late
  let s1 := (List.range (setNenv s (jSet o.d))).foldl (observe o) s
  let s2 := semAdd s1 (jObsSem o.d) 1
  let s3 := if late = 0 then s2 else countA s2 Reg.jbLoop_overrun 1
  let s4 := setJb s3 o.ctx o.idx (fun x => { x with active := false, k := x.k + 1, overrun := x.overrun + late })
  match findOp s4 o.ctx o.idx with
  | some p => if (jbOf p).k = jNstep p.d then endOp s4 o.ctx o.idx (jbEnd p) else s4
  | none => s4

/-- R243: whether a loop step's substeps have ended. -/
def loopStepDone (s : State) (o : Op) : Bool := (jbOf o).active && (jbOf o).running.isEmpty && batchesDone s o

/-- ENV_LOOP_STEP_END (R243). -/
def execEnvLoopStepEnd (ctx idx : Nat) (s : State) : Host.Outcome State Fault Refusal :=
  .next (onOp s ctx idx 0x0430 (fun o => if loopStepDone s o then loopEnd s o else s))

/-- R242: loop steps are run while they may begin, at most `fuel` of them: ACT_SEM lets at most 2¹⁹ begin, and one may be
under way. -/
def loopRun (ctx idx : Nat) : Nat → State → State
  | 0, s => s
  | fuel + 1, s =>
    match runningOp s ctx idx 0x0430 with
    | none => s
    | some o =>
      let s1 := if loopReady s o then loopBegin s o else s
      match runningOp s1 ctx idx 0x0430 with
      | none => s1
      | some p =>
        if !(jbOf p).active then s1
        else
          let s2 := batchesRun s1 p
          match runningOp s2 ctx idx 0x0430 with
          | some q => if loopStepDone s2 q then loopRun ctx idx fuel (loopEnd s2 q) else s2
          | none => s2

/-- ENV_LOOP (R242): every loop step whose conditions hold is run. -/
def execEnvLoop (ctx idx : Nat) (s : State) : Host.Outcome State Fault Refusal :=
  .next (loopRun ctx idx (2 ^ 19 + 1) s)

/-! ### Disturbances (R240) -/

/-- R240: every batch that runs on a Cell is dropped and run again, counting one re-run each. -/
def dropBatches (s : State) (cell : Nat) (brake : Bool) : State :=
  s.ops.foldl (fun t o =>
    let n := if o.ended.isSome then 0 else ((jbOf o).running.filter (fun b => cellOfUnit o.d b == cell)).length
    updOp t o.ctx o.idx (fun p => { p with reruns := p.reruns + n, brakes := p.brakes + (if brake then n else 0) })) s

end Sys2Proof.Machine
end

