-- ==== Sys2Proof/Machine/Mailbox.lean ====
section
/-!
DEFINITION. The mailbox commands (R571 to R573).
-/

namespace Sys2Proof.Machine

/-- What a command returns. -/
def mboxAnswer (s : State) (m : MboxOut) : State := { s with mbox := m }

/-- A return code with nothing else. -/
def mboxCode (s : State) (c : MboxCode) : State := mboxAnswer s ⟨c, 0, [], [], []⟩

/-- R564, R571: the mailbox answers unless the device is in reset. -/
def mboxServed (s : State) : Bool := decide (1 ≤ s.boot.stage)

/-- A hexadecimal digit as a character code. -/
def hexDigit (n : Nat) : Nat := if n < 10 then 48 + n else 55 + n

/-- R571: SEQ as 16 hexadecimal characters, most significant first. -/
def hexSeq (n : Nat) : List Byte := (List.range 16).map (fun i => BitVec.ofNat 8 (hexDigit (bits n (4 * (15 - i) + 3) (4 * (15 - i)))))

/-- GET_FW_INFO (R571): the running slot and the revisions of slot 1, copy A, and slot 2, copy B. -/
def execGetFwInfo (s : State) : Host.Outcome State Fault Refusal :=
  .next (
    if !mboxServed s then s
    else mboxAnswer s ⟨.success, (s.boot.fw.map (fun c => c + 1)).getD 0, [hexSeq (fwSeq s 0), hexSeq (fwSeq s 1)], [], []⟩)

/-- R571: whether a slot names a copy that does not run. -/
def slotIdle (s : State) (slot : Nat) : Bool := (slot == 1 || slot == 2) && s.boot.fw != some (slot - 1)

/-- R559, R571: the cause of a copy after a check. -/
def noteFw (s : State) (c : Nat) (x : FwSeen) : State :=
  let k := fwCauseOf s c x
  setBoot s (fun b => { b with fwCause := if c = 0 then (k, b.fwCause.2) else (b.fwCause.1, k) })

/-- TRANSFER_FW (R571): a part of an image is written to the copy of a slot that does not run; after the last part, the
copy is checked, with what the check finds beyond its bytes. -/
def execTransferFw (slot off : Nat) (data : List Byte) (last : Bool) (found : FwSeen) (s : State) :
    Host.Outcome State Fault Refusal :=
  .next (
    if !mboxServed s then s
    else if !slotIdle s slot || decide (0x4000000 < off + data.length) then mboxCode s .invalidInput
    else
      let s1 := { s with flash := memWriteAll s.flash (bytesWrites (fwBase (slot - 1) + off) data) }
      if !last then mboxCode s1 .success
      else mboxCode (noteFw s1 (slot - 1) found) (if fwCauseOf s1 (slot - 1) found = 0 then .success else .copyInvalid))

/-- ACTIVATE_FW (R571): online activation is not supported; offline, a slot that holds a valid copy is accepted. -/
def execActivateFw (online : Bool) (slot : Nat) (found : FwSeen) (s : State) : Host.Outcome State Fault Refusal :=
  .next (
    if !mboxServed s then s
    else if online then mboxCode s .unsupported
    else if (slot == 1 || slot == 2) && fwCauseOf s (slot - 1) found == 0 then mboxCode s .success
    else mboxCode s .invalidInput)

/-- R572: the bytes of a report. -/
def reportBytes (r : BootReport) : List Byte :=
  leBytes 8 r.ns ++ leBytes 1 (r.stage % 16) ++ leBytes 1 r.code ++ leBytes 2 r.detail ++ leBytes 4 0

/-- R572: the boot log. -/
def bootLogBytes (s : State) : List Byte :=
  leBytes 2 s.boot.log.length ++ leBytes 2 (nat01 s.boot.lost) ++ leBytes 12 0 ++ s.boot.log.flatMap reportBytes

/-- READ_BOOT_LOG (R571, R572). -/
def execReadBootLog (s : State) : Host.Outcome State Fault Refusal :=
  .next (if !mboxServed s then s else mboxAnswer s ⟨.success, 0, [], bootLogBytes s, []⟩)

/-- READ_PART_INFO (R571): served from stage 2. -/
def execReadPartInfo (s : State) : Host.Outcome State Fault Refusal :=
  .next (
    if !mboxServed s then s
    else if s.boot.stage < 2 then mboxCode s .unsupported
    else mboxAnswer s ⟨.success, 0, [], [],
      [(partSeq s 0, s.boot.partCause.1, s.boot.part == some 0), (partSeq s 1, s.boot.partCause.2, s.boot.part == some 1)]⟩)

/-- R554: a byte of the saved settings with the changes that are not written yet. -/
def draftByte (s : State) (off : Nat) : Byte :=
  match s.boot.draft.reverse.find? (fun w => w.1 == off) with
  | some w => w.2
  | none => memRead s.flash (partBase (partUse s) + off)

/-- R573: the changes that an item makes. -/
def settingWrites (s : State) (item value : Nat) : Option (List Host.Cell) :=
  match item with
  | 1 => some (natWrites 0x10100 1 (value % 4))
  | 2 => some (natWrites 0x10110 4 (value &&& 0xFFFF000F))
  | 3 => some (natWrites 0x10118 12 value)
  | 4 => some (natWrites 0x10124 2 (value % 4096))
  | 5 => some (((List.range 8).map (fun k => 0x10200 + 0x10000 * k) ++ (List.range 96).map (fun n => 0xA0200 + 0x100 * n)).map
      (fun a => (a, draftByte s a &&& 0xFE)))
  | _ => none

/-- WRITE_SETTING (R571, R573): served from stage 10. -/
def execWriteSetting (item value : Nat) (s : State) : Host.Outcome State Fault Refusal :=
  .next (
    if !mboxServed s then s
    else if s.boot.stage < 10 then mboxCode s .unsupported
    else match settingWrites s item value with
      | some ws => mboxCode (draftPut s ws) .success
      | none => mboxCode s .invalidInput)

/-- R571: the opcodes that the mailbox serves. -/
def mboxOpcodes : List Nat := [0x0200, 0x0201, 0x0202, 0xC000, 0xC001, 0xC002]

/-- MAILBOX_UNSUPPORTED (R571): a command with any other opcode. -/
def execMailboxUnsupported (opcode : Nat) (s : State) : Host.Outcome State Fault Refusal :=
  .next (if !mboxServed s || mboxOpcodes.contains opcode then s else mboxCode s .unsupported)

end Sys2Proof.Machine
end

