-- ==== Sys2Proof/Machine/Disturb.lean ====
section
/-!
DEFINITION. What a configuration write or a Brake does to the work that runs (R127, R173, R182, R217, R240, R268, R307,
R310, R333, R417, R529, R591).
-/

namespace Sys2Proof.Machine

/-- One part of an operation run again, which the tally record counts under BRAKE where a Brake dropped it. -/
def rerunOne (brake : Bool) (o : Op) : Op := { o with reruns := o.reruns + 1, brakes := o.brakes + nat01 brake }

/-- The operations that some test names, each with one part run again. -/
def rerunOps (s : State) (p : Op → Bool) (brake : Bool) : State :=
  { s with ops := s.ops.map (fun o => if opRuns o && p o then rerunOne brake o else o) }

/-- R268, R310, R529: whether a UPDATE unit, a segment or a Skidder transfer of an operation is in progress on a Cell. -/
def partOn (s : State) (cell : Nat) (o : Op) : Bool :=
  (scopeCells o.d).contains cell &&
    ((dOpcode o.d == 0x0610 && decide ((scopeCells o.d).findIdx (fun c => c == cell) < xNseg o.d)) || (dOpcode o.d == 0x0500 && (scopeCells o.d).headD 0 == cell) ||
      (dOpcode o.d == 0x0900 && updUnitOn s cell o))

/-- R529: the work of Cell `n` that a write to its block, or a Brake, disturbs. -/
def disturbCell (s : State) (n : Nat) (brake : Bool) : State :=
  rerunOps (dropBatches (dropUnits (truDropCell (dropTiles s n brake) n brake) n brake) n brake) (partOn s n) brake

/-- R529: the work of the Cells of Mill `m`, of its Truing Unit and of its Sawmill. -/
def disturbMill (s : State) (m : Nat) (brake : Bool) : State :=
  let s1 := (List.range 32).foldl (fun t i => disturbCell t (32 * m + i) brake) s
  rerunOps (disturbTruing s1 m brake) (fun o => dOpcode o.d == 0x0600 && oneMill o.d == m) brake

/-- R529: the work of the Landings: CONTRIBUTE lines, collectives and Derailleur pieces. -/
def disturbLanding (s : State) (brake : Bool) : State :=
  rerunOps (disturbReshard (disturbCollectives s brake) brake) (fun o => dOpcode o.d == 0x0221) brake

/-- R104, R127, R529: a write of JOB_SEED disturbs the tile runs of every Cell. -/
def disturbSeed (s : State) : State := (List.range 128).foldl (fun t c => truDropCell (dropTiles t c false) c false) s

/-- R591: a Brake drops the work of every unit. -/
def brakeDrop (s : State) : State := disturbLanding ((List.range 4).foldl (fun t m => disturbMill t m true) s) true

/-- R529: the work that a configuration write to a block disturbs. -/
def disturbBlock (s : State) (b : Blk) : State :=
  match b with
  | .dev => s
  | .cell n => disturbCell s n false
  | .mill m => disturbMill s m false
  | .landA => disturbLanding s false
  | .landB => disturbLanding s false

end Sys2Proof.Machine
end

