-- ==== Sys2Proof/Machine/Power.lean ====
section
/-!
DEFINITION. The power governor, temperatures, supply dips and the Brake, and the management and test ports (R578 to
R595).
-/

namespace Sys2Proof.Machine

/-- Power changed. -/
def setPower (s : State) (f : PowerRt → PowerRt) : State := { s with power := f s.power }

/-! ### Rails (R578, R579, R588) -/

/-- R579: V(k) in mV. -/
def millMv (k : Nat) : Nat := 620 + ceilDiv (60 * k) 11

/-- R588: the voltage that the thresholds of VDD_MILL count from: during a request, the lower of the old and the new. -/
def millRef (s : State) : Nat :=
  match s.power.avs with
  | some q => min (millMv q.1) (millMv q.2)
  | none => millMv (getD s Reg.pwrStatus_k)

/-- R578: the nominal voltage of a rail in µV. -/
def railNominal (s : State) (r : Nat) : Nat :=
  ([millRef s * 1000, 850000, 750000, 1100000, 400000, 1800000, 900000, 1800000] : List Nat).getD r 0

/-- R578: the warning threshold of a rail in µV: 95 % of nominal. -/
def railWarn (s : State) (r : Nat) : Nat := railNominal s r * 95 / 100

/-- R578: the reset threshold of a rail in µV: 90 % of nominal. -/
def railReset (s : State) (r : Nat) : Nat := railNominal s r * 90 / 100

/-- The rails whose voltage, in µV by rail number, passes a test. -/
def railsThat (uv : List Nat) (p : Nat → Nat → Bool) : List Nat := (List.range 8).filter (fun r => p r (uv.getD r 0))

/-- The mask of some rails. -/
def railMask (rs : List Nat) : Nat := rs.foldl (fun m r => m ||| 2 ^ r) 0

/-- R578: whether a rail is within its regulation band. -/
def railInBand (s : State) (r v : Nat) : Bool :=
  let n := railNominal s r
  let p := if r = 6 then 2 else 3
  decide (n * (100 - p) ≤ v * 100 ∧ v * 100 ≤ n * (100 + p))

/-! ### The governor (R587, R588) -/

/-- R588: the governor goes to step `k`: down, ACLK is lowered and then the voltage is requested; up, the voltage is
requested first. -/
def governorTo (s : State) (k : Nat) : State :=
  let old := s.power.k
  if k = old then s
  else
    let s1 := setPower s (fun p => { p with k := k, avs := some (old, k) })
    if k < getD s Reg.pwrStatus_k then setD s1 Reg.pwrStatus_k k else s1

/-- GOVERNOR_WINDOW (R587): a window ends with mean power `watts` and highest die temperature `tj`. -/
def execGovernorWindow (watts tj : Nat) (s : State) : Host.Outcome State Fault Refusal :=
  .next (
    if s.boot.stage = 0 then s
    else
      let k := s.power.k
      let cap := getD s Reg.pwrCtrl_cap
      let top := getD s Reg.pwrCtrl_aclkMax
      let lim := getD s Reg.pwrCtrl_tjLimit
      let s1 := setPower (setD (setD s Reg.pwrStatus_power (min 1023 watts)) Reg.temp_tj (min 255 tj)) (fun p => { p with tj := tj })
      let s2 := if k = 0 ∧ cap < watts then setD s1 Reg.pwrStatus_capMiss 1 else s1
      if 0 < k ∧ (cap < watts ∨ lim ≤ tj ∨ top < k) then governorTo s2 (k - 1)
      else if k < top ∧ watts + 20 ≤ cap ∧ tj + 3 ≤ lim then governorTo s2 (k + 1)
      else s2)

/-- AVS_COMPLETE (R588): the regulator has completed the request, and 5 µs later ACLK runs at the step. -/
def execAvsComplete (s : State) : Host.Outcome State Fault Refusal :=
  .next (
    match s.power.avs with
    | none => s
    | some _ => setD (setPower s (fun p => { p with avs := none })) Reg.pwrStatus_k s.power.k)

/-! ### The Brake (R591, R592) -/

/-- R591: a Brake begins. -/
def brakeStart (s : State) (mask : Nat) : State :=
  let s1 := setD (countD (brakeDrop s) Reg.brake_count 1) Reg.brake_rails mask
  let s2 := governorTo s1 (s1.power.k - getD s1 Reg.pwrCtrl_brakeSteps)
  set2 (setD s2 Reg.brake_active 1) devBase Reg.brakeTime_nsLo Reg.brakeTime_nsHi 0 s2.time.tai

/-- BRAKE_BEGIN (R591, R592): the rails read `uv` µV, some below warning and none below reset. -/
def execBrakeBegin (uv : List Nat) (s : State) : Host.Outcome State Fault Refusal :=
  .next (
    let low := railsThat uv (fun r v => decide (v < railWarn s r))
    if s.boot.stage = 0 || low.isEmpty || !(railsThat uv (fun r v => decide (v < railReset s r))).isEmpty then s
    else if getD s Reg.brake_active = 1 then setD s Reg.brake_rails (getD s Reg.brake_rails ||| railMask low)
    else brakeStart s (railMask low))

/-- R591: whether every rail is at or above its warning threshold plus 1 % of nominal. -/
def railsRecovered (s : State) (uv : List Nat) : Bool :=
  (railsThat uv (fun r v => decide (v * 100 < railNominal s r * 96))).isEmpty

/-- BRAKE_END (R591): for 20 µs the rails have read at least `uv` µV. -/
def execBrakeEnd (uv : List Nat) (s : State) : Host.Outcome State Fault Refusal :=
  .next (if getD s Reg.brake_active = 1 ∧ railsRecovered s uv then setD s Reg.brake_active 0 else s)

/-- RAIL_RESET (R593, R427): a rail below its reset threshold resets the device; loss of VDD_LAND clears the key store,
and changes to the part record that are not written are lost. -/
def execRailReset (uv : List Nat) (s : State) : Host.Outcome State Fault Refusal :=
  .next (
    match railsThat uv (fun r v => decide (v < railReset s r)) with
    | [] => s
    | r :: rest =>
      let s1 := deviceReset (setBoot s (fun b => { b with railLow := true, draft := [] })) 3 r
      let s2 := if (r :: rest).contains 2 then { s1 with keys := [] } else s1
      if (r :: rest).any (fun x => x == 2 || x == 7) then setBoot s2 (fun b => { b with portsOff := true }) else s2)

/-- RAILS_IN_BAND (R593): every rail is back within its band. -/
def execRailsInBand (uv : List Nat) (s : State) : Host.Outcome State Fault Refusal :=
  .next (
    if s.boot.railLow && (railsThat uv (fun r v => !railInBand s r v)).isEmpty then
      bootStart (setBoot s (fun b => { b with railLow := false, portsOff := false }))
    else s)

/-! ### Temperature (R590) -/

/-- R590: a state with two thresholds: set at or above one, cleared at or below the other. -/
def hysteresis (on off v : Nat) (old : Bool) : Bool := if on ≤ v then true else if v ≤ off then false else old

/-- R590: THERM_ALERT_N. -/
def alertNext (tj hbm : Nat) (old : Bool) : Bool :=
  if 105 ≤ tj ∨ 95 ≤ hbm then true else if tj ≤ 102 ∧ hbm ≤ 92 then false else old

/-- TEMPERATURE_CROSSING (R590): the highest die and HBM temperatures, in °C, have crossed a threshold. -/
def execTemperatureCrossing (tj hbm : Nat) (s : State) : Host.Outcome State Fault Refusal :=
  .next (
    let s1 := setPower s (fun p => { p with tj := tj, hbm := hbm, refresh := hysteresis 85 82 hbm p.refresh })
    if s.boot.stage = 0 then s1
    else if 125 ≤ tj ∨ 105 ≤ hbm then deviceReset (setBoot s1 (fun b => { b with trip := true })) 4 0
    else
      let s2 := setPower s1 (fun p => { p with alert := alertNext tj hbm p.alert })
      setD (setD (setD s2 Reg.temp_tj (min 255 tj)) Reg.temp_hbm (min 255 hbm)) Reg.pwrStatus_hold
        (nat01 (hysteresis 110 105 tj (thermalHold s))))

/-! ### The management port (R584) -/

/-- I3C_PRIVATE_READ (R584): BOOT_STATUS, PWR_STATUS, TEMP and BRAKE. -/
def execI3cPrivateRead (s : State) : Host.Outcome State Fault Refusal :=
  .next (
    if s.boot.portsOff then s
    else { s with readOut :=
      ⟨([0x0020, 0x0104, 0x0108, 0x010C] : List Nat).flatMap (fun r => leBytes 4 (wordOf s (devBase + r))), false⟩ })

/-- I3C_PRIVATE_WRITE (R584): acknowledged and ignored. -/
def execI3cPrivateWrite (_data : List Byte) (s : State) : Host.Outcome State Fault Refusal := .next s

/-! ### The test port (R585, R586) -/

/-- R585: the boundary-scan register covers the 17 single-ended signals at lands (47, 93) to (63, 93). -/
def boundaryMask : Nat := 2 ^ 17 - 1

/-- An instruction of the test port comes into force, while the port has its supplies (R586). -/
def jtagTake (s : State) (i : JtagInstr) (captured : Nat) : State :=
  if s.boot.portsOff then s else { s with jtag := { s.jtag with instr := i, captured := captured } }

/-- BYPASS (R585): the one-bit bypass register captures 0. -/
def execBypass (s : State) : Host.Outcome State Fault Refusal := .next (jtagTake s .bypass 0)

/-- IDCODE (R585). -/
def execIdcode (s : State) : Host.Outcome State Fault Refusal := .next (jtagTake s .idcode 0x1A7CE0FF)

/-- SAMPLE/PRELOAD (R585): the signals are sampled and the boundary-scan register is loaded. -/
def execSamplePreload (pins preload : Nat) (s : State) : Host.Outcome State Fault Refusal :=
  .next (let t := jtagTake s .samplePreload (pins &&& boundaryMask)
         if s.boot.portsOff then t else { t with jtag := { t.jtag with boundary := preload &&& boundaryMask } })

/-- EXTEST (R585): the signals are sampled, and driven from the boundary-scan register. -/
def execExtest (pins : Nat) (s : State) : Host.Outcome State Fault Refusal :=
  .next (jtagTake s .extest (pins &&& boundaryMask))

/-- CLAMP (R585): the pins are held from the boundary-scan register with bypass selected. -/
def execClamp (s : State) : Host.Outcome State Fault Refusal := .next (jtagTake s .clamp 0)

/-- HIGHZ (R585): the single-ended outputs are in high impedance. -/
def execHighz (s : State) : Host.Outcome State Fault Refusal := .next (jtagTake s .highz 0)

/-- What drives a single-ended output (R585, R586, R594). -/
inductive PinDrive where
  | highZ
  | level (high : Bool)
  | function
  deriving DecidableEq, Repr

/-- R585, R594: what drives the output at land (47 + i, 93): the test port where it has taken the pins, high impedance in
reset, its own function otherwise. -/
def pinDrive (s : State) (i : Nat) : PinDrive :=
  match s.jtag.instr with
  | .extest => .level (bit s.jtag.boundary i)
  | .clamp => .level (bit s.jtag.boundary i)
  | .highz => .highZ
  | _ => if s.boot.stage = 0 then .highZ else .function

end Sys2Proof.Machine
end

