-- ==== Sys2Proof/Machine/FetchChecks.lean ====
section
/-!
DEFINITION. The checks that a descriptor undergoes when it is fetched (R48, R49, R51, R88, R111, R131, R157, R163, R183,
R222, R248, R275 to R279, R302, R311, R364, R422, R484, R512): the lowest fault code whose condition holds.
-/

namespace Sys2Proof.Machine

/-- The codes of the conditions that hold. -/
def codesOf (cs : List (Nat × Bool)) : List Nat := (cs.filter (fun c => c.2)).map (fun c => c.1)

/-- R131: the lowest code of some. -/
def leastCode (cs : List Nat) : Option Nat := cs.foldl (fun m c => minOpt m (some c)) none

/-! ### Bodies (R51, code 0x01) -/

/-- The bits of the bodies that are not reserved, by opcode, as byte offset and bits; none where no operation has the opcode.
Bits that a body's table does not list are reserved. -/
def bodyUsed (op : Nat) : Option (List (Nat × Nat × Nat)) :=
  if op = 0x0100 ∨ op = 0x0101 then
    some [(0x20, 447, 0), (0x58, 23, 0), (0x5C, 23, 0), (0x60, 23, 0), (0x64, 7, 0), (0x66, 7, 0), (0x68, 7, 0), (0x6A, 7, 0),
      (0x6C, 8, 0), (0x6E, 15, 0), (0x70, 63, 0), (0x78, 27, 0), (0x7C, 31, 0)]
  else if op = 0x0200 then
    some ([(0x20, 43, 0), (0x28, 43, 0), (0x30, 43, 0), (0x38, 41, 0), (0x60, 7, 0), (0x62, 7, 0), (0x64, 7, 0), (0x66, 7, 0),
      (0x68, 31, 0), (0x6C, 27, 0), (0x70, 29, 0), (0x74, 26, 0), (0x78, 39, 0)] ++
      (List.range 8).map (fun s => (0x40 + 4 * s, 17, 0)))
  else if op = 0x0210 then
    some [(0x20, 41, 0), (0x28, 41, 0), (0x30, 41, 0), (0x38, 29, 0), (0x3C, 16, 0), (0x40, 7, 0), (0x44, 27, 0), (0x48, 41, 0)]
  else if op = 0x0220 then some [(0x20, 41, 0), (0x28, 25, 0), (0x2C, 7, 0), (0x2E, 7, 0), (0x30, 17, 0)]
  else if op = 0x0221 then some [(0x20, 41, 0), (0x28, 15, 0), (0x2A, 7, 0), (0x2C, 15, 0), (0x30, 25, 0)]
  else if op = 0x0300 then some [(0x20, 9, 0), (0x22, 7, 0), (0x24, 23, 0), (0x28, 31, 0), (0x2C, 31, 0)]
  else if op = 0x0310 ∨ op = 0x0311 ∨ op = 0x0330 ∨ op = 0x0340 then
    some [(0x20, 9, 0), (0x22, 5, 0), (0x23, 7, 0), (0x24, 31, 0), (0x28, 63, 0)]
  else if op = 0x0320 then some [(0x20, 9, 0), (0x22, 1, 0), (0x28, 63, 0), (0x30, 63, 0), (0x38, 23, 0)]
  else if op = 0x0400 ∨ op = 0x0410 ∨ op = 0x0420 then
    some [(0x20, 41, 0), (0x28, 13, 0), (0x2A, 14, 0), (0x2C, 4, 0), (0x30, 41, 0)]
  else if op = 0x0430 then
    some [(0x20, 41, 0), (0x28, 31, 0), (0x2C, 4, 0), (0x2E, 11, 0), (0x30, 11, 0), (0x34, 19, 0), (0x38, 63, 0), (0x40, 15, 0),
      (0x48, 41, 0), (0x50, 31, 0)]
  else if op = 0x0500 then some [(0x20, 63, 0), (0x28, 63, 0), (0x30, 15, 0), (0x34, 23, 0), (0x38, 31, 0)]
  else if op = 0x0510 ∨ op = 0x0511 then some [(0x20, 19, 0), (0x24, 20, 0)]
  else if op = 0x0600 then
    some [(0x20, 63, 0), (0x28, 63, 0), (0x30, 41, 0), (0x38, 31, 0), (0x3C, 7, 0), (0x3E, 4, 0), (0x3E, 11, 8), (0x40, 23, 0),
      (0x44, 23, 0), (0x48, 23, 0), (0x4C, 23, 0), (0x50, 23, 0), (0x54, 27, 0), (0x58, 63, 0), (0x60, 9, 0), (0x60, 25, 16)]
  else if op = 0x0610 then
    some [(0x20, 41, 0), (0x28, 63, 0), (0x30, 63, 0), (0x38, 7, 0), (0x3A, 15, 0), (0x3C, 23, 0), (0x40, 23, 0), (0x44, 23, 0),
      (0x48, 23, 0), (0x4C, 27, 0)]
  else if 0x0700 ≤ op ∧ op ≤ 0x0703 then
    some [(0x20, 41, 0), (0x28, 41, 0), (0x30, 41, 0), (0x38, 29, 0), (0x3C, 11, 0), (0x40, 7, 0), (0x42, 7, 0), (0x44, 31, 0),
      (0x48, 15, 0), (0x4C, 27, 0), (0x50, 39, 0)]
  else if op = 0x0710 then some [(0x20, 41, 0), (0x28, 31, 0)]
  else if op = 0x0800 ∨ op = 0x0810 ∨ op = 0x0820 ∨ op = 0x0830 ∨ op = 0x0840 ∨ op = 0x0850 ∨ op = 0x0860 then
    some [(0x20, 191, 0), (0x38, 2, 0), (0x38, 13, 8), (0x38, 21, 16), (0x3C, 31, 0), (0x40, 31, 0), (0x48, 255, 0), (0x68, 41, 0),
      (0x70, 41, 0), (0x78, 41, 0)]
  else if op = 0x0900 then
    some [(0x20, 19, 0), (0x24, 20, 0), (0x28, 63, 0), (0x30, 4, 0), (0x32, 11, 0), (0x34, 255, 0)]
  else if op = 0x0910 then some [(0x20, 19, 0), (0x24, 20, 0), (0x28, 3, 0), (0x2A, 255, 0)]
  else if op = 0x0920 ∨ op = 0x0921 then some [(0x20, 63, 0), (0x28, 19, 0), (0x2C, 20, 0), (0x30, 5, 0), (0x38, 63, 0)]
  else if op = 0x0A00 then some [(0x20, 31, 0), (0x28, 63, 0)]
  else if op = 0x0A10 then some [(0x20, 31, 0), (0x24, 0, 0), (0x28, 63, 0), (0x30, 41, 0)]
  else if op = 0x0A20 then some [(0x20, 63, 0), (0x28, 41, 0), (0x30, 23, 0), (0x34, 31, 0)]
  else if op = 0x0A30 then some [(0x20, 255, 0), (0x40, 41, 0), (0x48, 0, 0)]
  else if op = 0x0F00 then some []
  else if op = 0x0F10 ∨ op = 0x0F11 then some [(0x20, 63, 0), (0x28, 0, 0), (0x30, 41, 0)]
  else if op = 0x0F20 ∨ op = 0x0F21 ∨ op = 0x0F30 then some [(0x20, 63, 0), (0x28, 11, 0), (0x2A, 15, 0)]
  else none

/-- The bits that some fields cover. -/
def usedMask (fs : List (Nat × Nat × Nat)) : Nat :=
  fs.foldl (fun m f => m ||| ((2 ^ (f.2.1 + 1 - f.2.2) - 1) <<< (8 * f.1 + f.2.2))) 0

/-- R46, R47: the bits of the header that are not reserved. -/
def headerUsed : List (Nat × Nat × Nat) :=
  [(0x00, 15, 0), (0x02, 8, 0), (0x04, 31, 0), (0x08, 63, 0), (0x10, 15, 0), (0x12, 31, 0), (0x16, 7, 0), (0x18, 63, 0)]

/-- R51: whether a reserved bit of the header, or of the body of an operation, is set. -/
def reservedSet (d : Desc) : Bool :=
  match bodyUsed (dOpcode d) with
  | some fs => (d.toNat &&& (2 ^ 1024 - 1 - usedMask (headerUsed ++ fs))) != 0
  | none => (d.toNat &&& (2 ^ 256 - 1 - usedMask headerUsed)) != 0

/-! ### Scope (R48) -/

/-- R48: whether a scope is one of its three kinds and keeps the kind's conditions. -/
def scopeOk (d : Desc) : Bool :=
  (dKind d == 0 && dCellMask d == 0 && dMillMask d == 0 && dMill d == 0) ||
    (dKind d == 1 && dMillMask d != 0 && dCellMask d == 0 && dMill d == 0) ||
    (dKind d == 2 && dCellMask d != 0 && dMillMask d == 0)

/-- Whether exactly one bit of a mask of `w` bits is set. -/
def oneBit (w m : Nat) : Bool := (List.range w).countP (fun i => bit m i) == 1

/-- Whether an operation accepts a scope kind; classes 0x03 and 0x04 have a code of their own for it (R222, R248) (R53, R129, R174, R218, R245, R273, R305, R362, R415, R421, R482, R510). -/
def kindOk (d : Desc) : Bool :=
  let op := dOpcode d
  let k := dKind d
  if op / 256 = 1 ∨ op = 0x0200 ∨ op = 0x0210 ∨ op = 0x0610 ∨ op = 0x0900 then true
  else if op / 256 = 3 ∨ op / 256 = 4 then true
  else if op = 0x0500 then k == 2 && oneBit 32 (dCellMask d)
  else if op = 0x0600 then k == 1 && oneBit 4 (dMillMask d)
  else k == 0

/-! ### Format words (R88) -/

/-- R75: whether a format code allows a block scale. -/
def mxAllowed (f : Nat) : Bool := decide (f ≤ 4) || f == 6

/-- R88: whether a format word is invalid by itself (code 0x100). -/
def fwInvalid (w : Nat) : Bool := decide (12 ≤ w % 16) || (fwMx w && !mxAllowed (w % 16)) || (fwNoClip w && !fwMx w)

/-- R88: the codes of the word of an operand that is only read, in a position that accepts the codes `ok`. -/
def fwRead (ok : List Nat) (w : Nat) : List Nat :=
  codesOf [(0x100, fwInvalid w), (0x101, !ok.contains (w % 16)), (0x102, fwRnd w != 0)]

/-- R88: the codes of the word of an output; `stream` says whether the body gives a stream id. -/
def fwWrite (ok : List Nat) (stream : Bool) (w : Nat) : List Nat :=
  codesOf [(0x100, fwInvalid w), (0x101, !ok.contains (w % 16)), (0x102, fwRnd w == 3 || (fwRnd w == 2 && !stream))]

/-- R157: whether an output word asks for a narrowing conversion of a gradient without stochastic rounding. -/
def gradNarrow (stream : Bool) (tensor w : Nat) : Bool :=
  stream && tensor % 8 == 2 && w % 16 != 9 && w % 16 != 10 && fwRnd w != 2

/-- R49: whether a descriptor asks for check level 2 and regions that it fixes meet. -/
def levelMeets (d : Desc) (outs ins : List Region) : Bool := dCheck d == 2 && anyMeet outs ins

/-! ### Matrix operations (R111, R131, R222, R311) -/

/-- R111: the row of the table that a word of A or B belongs to: 0 for none. -/
def matRow (w : Nat) : Nat :=
  let f := w % 16
  if f ≤ 4 then 1 else if f = 6 ∧ fwMx w then 2 else if f = 5 ∨ f = 6 then 3 else if f = 7 ∨ f = 8 then 4
  else if f = 9 then 5 else if f = 10 then 6 else 0

/-- R111: the formats of C. -/
def matC (d : Desc) : List Nat :=
  let r := matRow (mFmtA d)
  if mPair d || r == 5 then [9] else if r = 3 then [11] else if r = 6 then [10] else [7, 8, 9]

/-- R111: the formats of D. -/
def matD (d : Desc) : List Nat :=
  let r := matRow (mFmtA d)
  if mPair d then [9] else if r = 3 then [6, 7, 8, 9, 11] else if r = 6 then [9, 10] else [0, 1, 2, 3, 4, 7, 8, 9]

/-- R111: whether A and B, or what D carries, break the table. -/
def matPairing (d : Desc) : Bool :=
  matRow (mFmtA d) == 0 || matRow (mFmtA d) != matRow (mFmtB d) || (mPair d && matRow (mFmtA d) != 4) ||
    (mPair d && fwRnd (mFmtD d) != 0) || (matRow (mFmtA d) == 3 && fwMx (mFmtD d))

/-- R111, R88: the codes of the format words of a matrix body. -/
def matFormats (d : Desc) : List Nat :=
  let ops := [0, 1, 2, 3, 4, 5, 6, 7, 8, 9, 10]
  fwRead ops (mFmtA d) ++ fwRead ops (mFmtB d) ++ (if mAccIn d then fwRead (matC d) (mFmtC d) else []) ++
    fwWrite (matD d) (mStream d) (mFmtD d) ++ codesOf [(0x101, matPairing d)]

/-- R131: the operand regions that B as read from memory has. -/
def matInputs (d : Desc) : List Region := regA d ++ (if mZb d then [] else regB d) ++ regC d

/-- R131: whether a slot that must be 0 is not. -/
def matSlots (d : Desc) : Bool :=
  (!fwMx (mFmtA d) && dfld d 0x28 63 0 != 0) || (!fwMx (mFmtB d) && dfld d 0x38 63 0 != 0) ||
    (!mAccIn d && (dfld d 0x40 63 0 != 0 || mFmtC d != 0)) || (!mPair d && !fwMx (mFmtD d) && dfld d 0x50 63 0 != 0)

/-- R82: whether a row of `n` elements of a format word breaks the row rules. -/
def rowRule (w n : Nat) : Bool :=
  (fmtWidth (fwFmtD w) == 4 && n % 2 != 0) || (fmtWidth (fwFmtD w) == 6 && n % 4 != 0)

/-- R131: the rows of 4-bit and 6-bit operands. -/
def matRows (d : Desc) : Bool :=
  rowRule (mFmtA d) (if mTransA d then mM d else mK d) || (!mZb d && rowRule (mFmtB d) (if mTransB d then mK d else mN d)) ||
    (mAccIn d && rowRule (mFmtC d) (mN d)) || rowRule (mFmtD d) (mN d)

/-- R131, R302: the extent of B: the panels, where ZB = 1 and their headers as memory holds them agree with the body. -/
def matB (s : State) (d : Desc) : List Region :=
  if mZb d then (if (panelFault s d).isNone then [panelRegion s d] else []) else regB d

/-- R131: whether an output meets an input other than under the exemption for D and C. -/
def matMeets (s : State) (d : Desc) : Bool :=
  let same : Bool := mAccIn d && dfld d 0x48 63 0 == dfld d 0x40 63 0 && mFmtD d % 16 == mFmtC d % 16
  anyMeet (regD d) (regA d ++ matB s d) ||
    anyMeet (if same then (regD d).tail else regD d) (regC d)

/-- R302, R311: whether B as panels breaks code 0x171. -/
def matPanels (d : Desc) : Bool :=
  mZb d && (slotPitch d 0x30 != 0 || mTransB d || dfld d 0x38 63 0 != 0 || decide (6 < mFmtB d % 16) ||
    (fwMx (mFmtB d) && mK d % 32 != 0))

/-- R222: whether SIDE_CTRL breaks code 0x142. -/
def matSide (s : State) (d : Desc) : Bool :=
  dfld d 0x6E 15 0 != 0 && (decide (1 < sideMode d) || decide (getA s Reg.sideCtrl_count ≤ sideEntry d) || !mStream d ||
    fmtIsInt (fwFmtD (mFmtA d)) || mFmtA d % 16 == 10)

/-- R131: whether the stream fields are out of range. -/
def matStreamBad (d : Desc) : Bool :=
  mStream d && (decide (mNg d < mN d) || decide (2 ^ 40 ≤ mOut0 d + (mM d - 1) * mNg d + mN d - 1) ||
    (mSrAcc d && decide (2 ^ 24 < (mK0 d + mK d) * matT (mPasses d))))

/-- The fetch checks of a matrix operation. -/
def matCodes (s : State) (d : Desc) : List Nat :=
  let regs := matInputs d ++ regD d
  matFormats d ++ codesOf [
    (0x05, levelMeets d (regD d) (matInputs d)),
    (0x110, mM d == 0 || mN d == 0 || mK d == 0 || matSlots d || regs.any (fun r => decide (r.pitch < r.len))),
    (0x111, mPasses d != 0 && (matRow (mFmtA d) != 5 || mPair d)),
    (0x112, regs.any (fun r => r.off % 16 != 0) || (mZb d && slotOff d 0x30 % 16 != 0) || matRows d),
    (0x113, mSrAcc d && (mAcc d != .f32 || mPair d)),
    (0x114, !mStream d && (mSrAcc d || fwRnd (mFmtD d) == 2)),
    (0x115, matStreamBad d),
    (0x116, matMeets s d),
    (0x142, matSide s d),
    (0x171, matPanels d)]

/-! ### Vector operations and the adder (R183) -/

/-- R167: the number of sources of a step operation; none where it is invalid. -/
def stepTakes (op : Nat) : Option Nat := if op = 0 ∨ 0x17 < op then none else some (stepArity op)

/-- The three source codes of step `k`. -/
def stepSources (d : Desc) (k : Nat) : List Nat := [bits (vStep d k) 9 6, bits (vStep d k) 13 10, bits (vStep d k) 17 14]

/-- R166: whether a source code may not be read by step `k`. -/
def sourceBad (k c : Nat) : Bool := c == 15 || (decide (3 ≤ c ∧ c ≤ 10) && decide (k ≤ c - 3))

/-- R183: whether step word `k` is at fault. -/
def stepBad (d : Desc) (k : Nat) : Bool :=
  if vSteps d < k then vStep d k != 0
  else match stepTakes (bits (vStep d k) 5 0) with
    | none => true
    | some n => ((stepSources d k).take n).any (sourceBad k) || ((stepSources d k).drop n).any (fun c => c != 0)

/-- The inputs that the steps of a chain read. -/
def stepReads (d : Desc) (x : Nat) : Bool :=
  (List.range (vSteps d + 1)).any (fun k => match stepTakes (bits (vStep d k) 5 0) with
    | some n => ((stepSources d k).take n).contains x
    | none => false)

/-- R183: whether input `x` is at fault. -/
def inputBad (d : Desc) (x : Nat) : Bool :=
  vOff d x % 16 != 0 || (vMode d x == 0 && (stepReads d x || vFmt d x != 0))

/-- The formats that vector operands accept. -/
def vecFormats : List Nat := [0, 1, 2, 3, 4, 5, 6, 7, 8, 9]

/-- R183: whether the counts of a chain are at fault. -/
def chainCounts (d : Desc) : Bool :=
  let wide : Bool := (List.range 3).any (fun x => vMode d x == 2 || vMode d x == 3)
  let rows : Bool := (List.range 3).any (fun x => vMode d x == 3)
  vN d == 0 || (vL d == 0 && (vRed d != 0 || wide)) || (vL d != 0 && (vRed d != 0 || rows) && vN d % vL d != 0)

/-- The fetch checks of CHAIN. -/
def chainCodes (d : Desc) : List Nat :=
  ((List.range 3).filter (fun x => vMode d x != 0)).flatMap (fun x => fwRead vecFormats (vFmt d x)) ++
    fwWrite vecFormats (vStream d) (vFmtY d) ++ codesOf [
      (0x05, levelMeets d (vWriteRegions d) (vReadRegions d)),
      (0x121, gradNarrow (vStream d) (vTensor d) (vFmtY d)),
      (0x130, chainCounts d),
      (0x131, (List.range 8).any (stepBad d)),
      (0x132, (List.range 3).any (inputBad d))]

/-- The fetch checks of REDUCE_TREE. -/
def treeCodes (d : Desc) : List Nat :=
  fwWrite vecFormats (vStream d) (vFmtY d) ++ codesOf [
    (0x05, levelMeets d (vWriteRegions d) (vReadRegions d)),
    (0x121, gradNarrow (vStream d) (vTensor d) (vFmtY d)),
    (0x130, rtN d == 0 || rtP d == 0 || decide (65536 < rtP d) || decide (rtStride d < 4 * rtN d) || rtStride d % 16 != 0),
    (0x132, rtX d % 16 != 0)]

/-- The fetch checks of SUM_OPEN. -/
def sumOpenCodes (d : Desc) : List Nat :=
  fwWrite [9, 11] false (dfld d 0x2E 15 0) ++ codesOf [(0x130, soLines d == 0 || soP d == 0 || decide (65536 < soP d)),
    (0x133, soTarget d % 64 != 0 || !(dfld d 0x2E 15 0 == 9 || dfld d 0x2E 15 0 == 11) || dElastic d)]

/-- The fetch checks of CONTRIBUTE. -/
def contributeCodes (d : Desc) : List Nat :=
  codesOf [(0x130, ctLines d == 0), (0x133, ctSrc d % 64 != 0 || dElastic d)]

/-! ### Truing (R222) -/

/-- Whether an FP32 code is an infinity or a NaN. -/
def codeNonFinite (c : Nat) : Bool := fvNonFinite (decodeCode .fp32 c)

/-- R220: whether the fields of CHOLESKY, LDLT, EIG or INVROOT are out of range or set where unused. -/
def factorFields (d : Desc) : Bool :=
  let op := dOpcode d
  let newton : Bool := op == 0x0340 && tMethod d == 0
  let sweeps : Bool := op == 0x0330 || (op == 0x0340 && tMethod d == 1)
  (if sweeps then tSweeps d == 0 else tSweeps d != 0) ||
    (op != 0x0340 && (tMethod d != 0 || dfld d 0x22 5 5 != 0)) ||
    (if newton then tMaxiter d == 0 else tMaxiter d != 0) ||
    (if newton then codeNonFinite (dfld d 0x24 31 0) || !fvLt fvZero (decodeCode .fp32 (dfld d 0x24 31 0))
     else dfld d 0x24 31 0 != 0) ||
    (!newton && tDeadline d != 0)

/-- R222: whether the fields of a Truing operation are at fault. -/
def truFields (s : State) (d : Desc) : Bool :=
  let op := dOpcode d
  decide (getA s Reg.truCtrl_count ≤ tRecord d) ||
    (if op = 0x0300 then decide (getA s Reg.sideCtrl_count ≤ sfEntry d) || sfR d == 0 || codeNonFinite (dfld d 0x28 31 0) ||
        codeNonFinite (dfld d 0x2C 31 0)
     else if op = 0x0320 then tsMode d == 3 || tsM d == 0 || slotOff d 0x28 % 16 != 0 || slotOff d 0x30 % 16 != 0
     else factorFields d)

/-- The fetch checks of a Truing operation. -/
def truCodes (s : State) (d : Desc) : List Nat :=
  codesOf [(0x140, !(dKind d == 1 && oneBit 4 (dMillMask d))), (0x141, truFields s d)]

/-! ### Jointed bodies (R248) -/

/-- R246, R247, R248: whether a field is out of range or unaligned. -/
def jbFields (d : Desc) : Bool :=
  let step : Bool := decide (1 ≤ dfld d 0x2C 4 0 ∧ dfld d 0x2C 4 0 ≤ 16)
  jSet d % 64 != 0 ||
    (if isLoop d then dElastic d || jNstep d == 0 || !step || jTps d == 0 || jObs d % 16 != 0 || jObsStride d % 16 != 0
     else dfld d 0x2A 14 0 == 0 || decide (16384 < dfld d 0x2A 14 0) ||
      (if dOpcode d = 0x0400 then !step || jOut d != 0 else dfld d 0x2C 4 0 != 0 || jOut d % 16 != 0))

/-- R247, R248: whether OBS_STRIDE of a loop is too small for its set, where the set keeps R225 and R226; one that does not
has a code of its own in execution. -/
def strideShort (s : State) (d : Desc) : Bool :=
  isLoop d && (accessFault s [⟨jSet d, 0, 1, 192⟩]).isNone && !setBad s (jSet d) &&
    (accessFault s [⟨setBodies s (jSet d), 128, setNbodies s (jSet d), 128⟩]).isNone && !bodiesBad s (jSet d) &&
    decide (jObsStride d < 16 + 4 * (jbNq (rdBodies s (jSet d)) + jbNv (rdBodies s (jSet d))))

/-- The fetch checks of a jointed-body operation. -/
def jbCodes (s : State) (d : Desc) : List Nat := codesOf [(0x150, dKind d != 1), (0x151, jbFields d || strideShort s d)]

/-! ### Memory and state (R279) -/

/-- Whether a region's rows overlap by their pitch. -/
def pitchShort (r : Region) : Bool := decide (1 < r.rows) && decide (r.pitch < r.len)

/-- R274, R279: the fetch checks of COPY. -/
def copyCodes (s : State) (d : Desc) : List Nat :=
  codesOf [(0x05, dCheck d == 2 && (cpChip d != s.chip || regionsMeet (cpSrc d) (cpDst d))),
    (0x160, dElastic d || cpRows d == 0 || cpBytes d % 16 != 0 || decide (cpBytes d < 16) || (cpSrc d).off % 16 != 0 ||
      (cpDst d).off % 16 != 0 || pitchShort (cpSrc d) || pitchShort (cpDst d))]

/-- R279: whether a range of parameters is out of range. -/
def rangeOut (s : State) (p0 n : Nat) : Bool := n == 0 || decide (2 ^ 20 < n) || decide (paramCount s < p0 + n)

/-- The FP32 fields that an optimiser uses, as byte offsets (R276). -/
def optFloats (opt : Nat) : List Nat :=
  if opt = 2 then [0x34, 0x38, 0x40, 0x44, 0x48, 0x4C, 0x50] else if opt = 0 then [] else [0x34, 0x38, 0x3C]

/-- R276: whether the fields of UPDATE are at fault. -/
def updFields (s : State) (d : Desc) : Bool :=
  let used := optFloats (uOpt d)
  rangeOut s (uParam0 d) (uCount d) || uOpt d == 0 || (uNest d && uOpt d == 2) || (!uRel d && uRelSem d != 0) ||
    used.any (fun o => codeNonFinite (dfld d o 31 0)) ||
    [0x34, 0x38, 0x3C, 0x40, 0x44, 0x48, 0x4C, 0x50].any (fun o => !used.contains o && dfld d o 31 0 != 0)

/-- R277: whether the fields of REPLICA_CMP are at fault. -/
def replicaFields (s : State) (d : Desc) : Bool :=
  rangeOut s (uParam0 d) (uCount d) || rcNpeer d == 0 ||
    (List.range 15).any (fun j => decide (rcNpeer d ≤ j) && dfld d (0x2C + 2 * j) 15 0 != 0)

/-- R278: whether the fields of EXPORT or IMPORT are at fault. -/
def shardFields (s : State) (d : Desc) : Bool :=
  exAddr d % 128 != 0 || (!exHost d && decide (2 ^ 42 ≤ exAddr d)) ||
    (if dOpcode d = 0x0920 then rangeOut s (exParam0 d) (exCount d) || (!exLog d && dfld d 0x38 63 0 != 0)
     else exParam0 d != 0 || exCount d != 0 || dfld d 0x30 3 0 != 0 || exLog d || dfld d 0x38 63 0 != 0)

/-- The fetch checks of the operations of classes 0x05 and 0x09 other than COPY. -/
def stateCodes (s : State) (d : Desc) : List Nat :=
  let op := dOpcode d
  codesOf [(0x160,
    if op = 0x0900 then updFields s d
    else dElastic d || (if op = 0x0910 then replicaFields s d else if op = 0x0920 ∨ op = 0x0921 then shardFields s d
      else rangeOut s (uParam0 d) (uCount d)))]

/-! ### Compression (R311) -/

/-- R307: the bytes that a block of `n` symbols may take. -/
def blockBound (w : Nat) (mx : Bool) (n : Nat) : Nat :=
  16 + (if mx then pad16Len (ceilDiv n 32) else 0) + pad16Len (rawSize w n)

/-- R307: the least DST_CAP. -/
def segBound (w : Nat) (mx : Bool) (blog n : Nat) : Nat :=
  let bs := 2 ^ (blog + 8)
  64 + 2 * 2 ^ w + (n / bs) * blockBound w mx bs + (if n % bs = 0 then 0 else blockBound w mx (n % bs))

/-- The element format code of the segment that COMPRESS writes. -/
def cEfmt (d : Desc) : Nat := if cQ d = 0 then cFmtSrc d % 16 else fmtCode (qFmt (cQ d))

/-- Whether that segment carries block scales. -/
def cMx (d : Desc) : Bool := cQ d != 0 || fwMx (cFmtSrc d)

/-- R307: the bound of the segment that COMPRESS writes. -/
def cBound (d : Desc) : Nat := segBound (symw (cEfmt d)) (cMx d) (cBlog d) (cRows d * cCols d)

/-- R306: whether the fields of one mode break it: SRC's rows, FMT_SRC, RESID and what the mode does not use. -/
def cMode (d : Desc) : Bool :=
  let src := slotPitch d 0x20
  let resid : Bool := cResid d
  if cQ d = 0 then
    let w := cFmtSrc d
    decide (6 < w % 16) || fwInvalid w || fwRnd w != 0 || fwNoClip w || cNoClip d || cSr d || cRotate d || cRotation d != 0 ||
      decide (src < packedLen (fmtWidth (fwFmtD w)) (cCols d)) || fwMx w != resid ||
      (fwMx w && decide (slotPitch d 0x28 < ceilDiv (cCols d) 32))
  else
    cFmtSrc d != 9 || decide (src < 4 * cCols d) || (resid && decide (slotPitch d 0x28 < 4 * cCols d))

/-- R306, R311: whether the fields of COMPRESS are at fault. -/
def cFields (d : Desc) : Bool :=
  dElastic d || cMode d || !decide (2 ≤ cBlog d ∧ cBlog d ≤ 8) || cRows d == 0 || cCols d == 0 ||
    decide (2 ^ 32 ≤ cRows d * cCols d) || decide (cGcols d < cCol0 d + cCols d) || cDst d % 16 != 0 ||
    slotOff d 0x20 % 16 != 0 || slotOff d 0x28 % 16 != 0 || (cMx d && cCols d % 32 != 0) ||
    decide (dfld d 0x38 31 0 < cBound d) ||
    (if cRotate d then cXl d == 0x3FF && cXr d == 0x3FF else cXl d != 0 || cXr d != 0)

/-- The fetch checks of COMPRESS. -/
def compressCodes (d : Desc) : List Nat :=
  fwRead (if cQ d = 0 then [0, 1, 2, 3, 4, 5, 6] else [9]) (cFmtSrc d) ++ codesOf [
    (0x05, dCheck d == 2 && ((cQ d != 0 && cResid d) || anyMeet [⟨cDst d, 0, 1, cBound d⟩] (cReads d))),
    (0x121, cQ d != 0 && cTensor d % 8 == 2 && !cSr d), (0x170, cFields d)]

/-- R308, R311: whether the fields of DECOMPRESS are at fault. -/
def xFields (d : Desc) : Bool :=
  let w := xFmt d
  dElastic d || fwInvalid w || fwRnd w != 0 || fwNoClip w || !(decide (w % 16 ≤ 6) || w % 16 == 9) || xNseg d == 0 ||
    xRows d == 0 || xCols d == 0 || dfld d 0x20 41 0 % 16 != 0 || slotOff d 0x28 % 16 != 0 ||
    decide (slotPitch d 0x28 < packedLen (fmtWidth (fwFmtD w)) (xCols d)) ||
    (if fwMx w then slotOff d 0x30 % 16 != 0 || decide (slotPitch d 0x30 < ceilDiv (xCols d) 32) else dfld d 0x30 63 0 != 0)

/-- The fetch checks of DECOMPRESS. -/
def decompressCodes (d : Desc) : List Nat :=
  fwWrite [0, 1, 2, 3, 4, 5, 6, 9] false (xFmt d) ++ codesOf [(0x170, xFields d)]

/-! ### Collectives and semaphores (R422) -/

/-- R414, R415: whether a collective reduces. -/
def gReduces (d : Desc) : Bool := dOpcode d == 0x0700 || dOpcode d == 0x0701

/-- R416: whether a format word is not FP32, BF16 or FP16 without block scales. -/
def gFmtBad (w : Nat) : Bool := !(([7, 8, 9] : List Nat).contains (w % 16)) || fwMx w

/-- R419, R422: whether a field of a collective is out of range or set where unused. -/
def gFields (s : State) (d : Desc) : Bool :=
  let axes := axesOf (gAxes d)
  let permute : Bool := dOpcode d == 0x0703
  dElastic d || gN d == 0 || gAxes d == 0 || gMethod d == 3 || gOp d == 3 || axes.any (fun a => axisLen s a == 1) ||
    gFmtBad (gFmtX d) || gFmtBad (gFmtY d) ||
    (!gReduces d && (gFmtX d % 16 != gFmtY d % 16 || fwRnd (gFmtX d) != 0 || fwRnd (gFmtY d) != 0 || gOp d != 0 || gStream d)) ||
    (!gStream d && (gTensor d != 0 || gOut0 d != 0 || gPurpose d != 0)) ||
    (permute && (axes.length != 1 || gMethod d != 0 || gShift d == 0 ||
      decide (axes.foldl (fun l a => l * axisLen s a) 1 ≤ gShift d))) ||
    (!permute && gShift d != 0) || (gMethod d != 2 && gGroup d != 0) ||
    (gMethod d == 2 && (gOp d != 0 || gFmtX d % 16 != 9 || gFmtY d % 16 != 9)) ||
    ((permute || gMethod d == 2) && gWork d != 0)

/-- R414, R418, R422: whether SRC, DST or WORK is unaligned, or WORK breaks R418. -/
def gAligned (s : State) (d : Desc) : Bool :=
  let w : Region := ⟨gWork d, 0, 1, workNeed s d⟩
  gSrc d % 16 != 0 || gDst d % 16 != 0 || gWork d % 64 != 0 || (gMethod d == 2 && gDst d % 64 != 0) ||
    (unmappedInRegion s w).isSome || (workNeed s d != 0 && anyMeet [w] [gSrcRegion d, gDstRegion d])

/-- The fetch checks of a collective other than RESHARD. -/
def collectCodes (s : State) (d : Desc) : List Nat :=
  fwRead [7, 8, 9] (gFmtX d) ++ fwWrite [7, 8, 9] (gStream d) (gFmtY d) ++ codesOf [
    (0x121, gReduces d && gradNarrow (gStream d) (gTensor d) (gFmtY d)),
    (0x1A0, gFields s d), (0x1A1, gAligned s d)]

/-- R421, R422: the fetch checks of SEM_ADD, SEM_SET and BARRIER. -/
def semCodes (d : Desc) : List Nat :=
  let op := dOpcode d
  codesOf [(0x1A0, dElastic d || (op != 0x0F20 && semTarget d != 0) ||
    (op == 0x0F30 && (semValue d != 0 || decide (63 < semId d))))]

/-! ### Ticks, rotations and tallies (R364, R484, R512) -/

/-- R363, R364: the fetch checks of TICK_WAIT and TIME_STAMP. -/
def tickCodes (d : Desc) : List Nat :=
  let tick := dfld d 0x20 63 0
  let mode := dfld d 0x28 0 0
  let dst := dfld d 0x30 41 0
  codesOf [(0x190, dElastic d),
    (0x191, if dOpcode d = 0x0F10 then dst != 0 || (mode == 1 && tick == 0) else tick != 0 || mode != 0 || dst % 32 != 0)]

/-- R483: whether a field of a class 0x08 body is set where its operation does not use it. -/
def rotUnused (d : Desc) : Bool :=
  let op := dOpcode d
  let part : Bool := op == 0x0840
  let join : Bool := part && rAction d == 0
  let split : Bool := part && rAction d == 1
  let drop : Bool := part && rAction d == 2
  let check : Bool := op == 0x0860
  (rRot d != 0 && (split || drop || check)) || (rStep d != 0 && op != 0x0820) ||
    (rCutoff d != 0 && (op != 0x0810 || rReplay d)) || (rAction d != 0 && !part) || (rReplay d && op != 0x0810) ||
    (rStand d != 0 && !(join || drop)) || (rSession d != 0 && !join) || ((rEta d != 0 || rMu d != 0) && op != 0x0820) ||
    (rMask d 0 != 0 && !(split || op == 0x0850)) || ([1, 2, 3].any (fun b => rMask d b != 0) && op != 0x0850) ||
    (rAddr d != 0 && !((op == 0x0810 && rReplay d) || check)) || (rEntry d != 0 && !check) || (dfld d 0x78 41 0 != 0 && !check)

/-- R484: the fetch checks of a class 0x08 operation. -/
def rotCodes (d : Desc) : List Nat :=
  codesOf [(0x1B0, dElastic d || dKind d != 0 || rotUnused d || (dOpcode d == 0x0840 && rAction d == 3) ||
    (dOpcode d == 0x0820 && (codeNonFinite (rEta d) || codeNonFinite (rMu d))) ||
    rAddr d % 64 != 0 || rEntry d % 64 != 0 || dfld d 0x78 41 0 % 64 != 0)]

/-- R510, R512: whether a field of a class 0x0A operation is out of range, unaligned or set where unused. -/
def tallyFieldsBad (d : Desc) : Bool :=
  let op := dOpcode d
  if op = 0x0A00 then tgTag d == 0
  else if op = 0x0A10 then tgTag d == 0 || tgLoss d % 4 != 0 || (!tgLossValid d && tgLoss d != 0)
  else if op = 0x0A20 then
    (dgSrc d).rows == 0 || (dgSrc d).len == 0 || (dgSrc d).off % 16 != 0 || (dgDst d).off % 16 != 0 || pitchShort (dgSrc d)
  else atDst d % 64 != 0

/-- The fetch checks of a class 0x0A operation. -/
def tallyCodes (d : Desc) : List Nat :=
  codesOf [(0x05, dOpcode d == 0x0A20 && levelMeets d [dgDst d] [dgSrc d]),
    (0x1C0, dElastic d || dKind d != 0 || dTag d != 0 || tallyFieldsBad d)]

/-! ### All operations (R51) -/

/-- R49: whether an operation is one that level 2 accepts. -/
def levelTwoOp (d : Desc) : Bool :=
  [0x0100, 0x0101, 0x0200, 0x0210, 0x0320, 0x0410, 0x0420, 0x0500, 0x0600, 0x0610, 0x0A20].contains (dOpcode d)

/-- The fetch checks of an operation's own chapter. -/
def bodyCodes (s : State) (d : Desc) : List Nat :=
  let op := dOpcode d
  let cls := op / 256
  if cls = 1 then matCodes s d
  else if op = 0x0200 then chainCodes d
  else if op = 0x0210 then treeCodes d
  else if op = 0x0220 then sumOpenCodes d
  else if op = 0x0221 then contributeCodes d
  else if cls = 3 then truCodes s d
  else if cls = 4 then jbCodes s d
  else if op = 0x0500 then copyCodes s d
  else if cls = 5 ∨ cls = 9 then stateCodes s d
  else if op = 0x0600 then compressCodes d
  else if op = 0x0610 then decompressCodes d
  else if op = 0x0710 then []
  else if cls = 7 then collectCodes s d
  else if cls = 8 then rotCodes d
  else if cls = 10 then tallyCodes d
  else if op = 0x0F10 ∨ op = 0x0F11 then tickCodes d
  else if op = 0x0F00 then []
  else semCodes d

/-- R51: the codes of a descriptor that ring `ctx` holds. -/
def fetchCodes (s : State) (ctx : Nat) (d : Desc) : List Nat :=
  let known : Bool := (bodyUsed (dOpcode d)).isSome
  codesOf [(0x01, reservedSet d), (0x02, !known), (0x03, dContext d != ctx), (0x04, !scopeOk d || (known && !kindOk d)),
    (0x05, dCheck d == 3 || (known && checkLevel d == 2 && !levelTwoOp d) || (dSignal d && dSignalValue d == 0))] ++
    (if known then bodyCodes s d else [])

/-- R51: the fault code with which a descriptor fails its fetch checks. -/
def fetchFault (s : State) (ctx : Nat) (d : Desc) : Option Nat := leastCode (fetchCodes s ctx d)

end Sys2Proof.Machine
end

