-- ==== Sys2Proof/Machine/Outputs.lean ====
section
/-!
DEFINITION. The regions that an operation reads and writes: output digests, the comparison that level 2 asks for, and
the training state that an operation writes (R49, R92, R155, R488).
-/

namespace Sys2Proof.Machine

/-! ### Matrix and vector operations -/

/-- R139: the Scaler binding that a matrix or vector operation takes at its beginning. -/
def bindOf (s : State) (d : Desc) : Option Bind :=
  if dOpcode d / 256 = 1 then sclBind s (mStream d) (mTensor d) (mFmtD d)
  else if dOpcode d = 0x0200 ∨ dOpcode d = 0x0210 then sclBind s (vStream d) (vTensor d) (vFmtY d) else none

/-- The units of a matrix or vector operation. -/
def unitsOf (d : Desc) : Nat := if dOpcode d / 256 = 1 then opTiles d else vUnits d

/-- R192: the sample rows and, apart, the scale rows that an operation gathers. -/
def sampleGroups (s : State) (d : Desc) : List (List Region) :=
  let rs := sideRegions s d
  let pick := fun (k : Nat) => (((List.range rs.length).zip rs).filter (fun p => p.1 % 2 == k)).map (fun p => p.2)
  (if fwMx (mFmtA d) then [pick 0, pick 1] else [rs]).filter (fun g => !g.isEmpty)

/-- The output regions of a matrix operation. -/
def matOutputs (d : Desc) : List (List Region) := if mPair d then (regD d).map (fun r => [r]) else [regD d]

/-! ### Rotations -/

/-- The output regions of a rotation operation. -/
def rotOutputs (s : State) (d : Desc) : List (List Region) :=
  let masters := fun (e : RotEntry) =>
    [[roleRegion s e.param 0], [roleRegion s e.twin 0], [roleRegion s e.twin 3], workRegions s e.param, workRegions s e.twin]
  let anchors := fun (e : RotEntry) => [[entryRegion s e e.anchor], [entryRegion s e e.anchorMom]]
  if dOpcode d = 0x0800 then (rotEntries s).flatMap (fun e => [[entryRegion s e e.delta], [roleRegion s e.param 5]])
  else if dOpcode d = 0x0810 then (rotEntries s).map (fun e => [entryRegion s e e.ownres])
  else if dOpcode d = 0x0820 then (rotEntries s).flatMap (fun e => masters e ++ anchors e)
  else if dOpcode d = 0x0830 then
    (basisPairs s).map (fun p => [bufRegion (facBuf s p.1 (facSel s p.1)) (facN s p.1)])
  else if dOpcode d = 0x0850 ∨ (dOpcode d = 0x0840 ∧ rAction d = 1) then
    (rotEntries s).flatMap (fun e => masters e ++ anchors e ++ [[entryRegion s e e.ownres]])
  else []

/-! ### All operations -/

/-- R411: the elements of DST that a chip writes, as regions of one element. -/
def ownedRegions (s : State) (d : Desc) : List Region :=
  let w := fmtWidth (fwFmtD (gFmtY d)) / 8
  ((List.range (gN d)).filter (gOwns s d)).map (fun e => ⟨gDst d + w * e, 0, 1, w⟩)

/-- The segments of a DECOMPRESS that pass check 1. -/
def xSegs (s : State) (d : Desc) : List Nat := segAddrs s (xNseg d) (dfld d 0x20 41 0)

/-- R49: the output regions of an operation, each with the scale rows that go with it (R488). -/
def opOutputs (s : State) (o : Op) : List (List Region) :=
  let d := o.d
  let c := dOpcode d
  let one := fun (r : Region) => [[r]]
  if c = 0x0100 ∨ c = 0x0101 then
    matOutputs d ++ sampleGroups s d ++ (mapRegions s d (bindOf s d) (opTiles d)).map (fun r => [r])
  else if c = 0x0200 ∨ c = 0x0210 then vWriteRegions d :: (mapRegions s d (bindOf s d) (vUnits d)).map (fun r => [r])
  else if c = 0x0220 then one (soRegion d)
  else if c = 0x0300 then one (facRegion (facStat s (tRecord d)) (facN s (tRecord d)))
  else if c = 0x0320 then (tsRegions s d).tail.map (fun r => [r])
  else if c / 256 = 3 then one (bufRegion (facBuf s (tRecord d) (facSel s (tRecord d))) (facN s (tRecord d)))
  else if c / 256 = 4 then (jWrites s d).map (fun r => [r])
  else if c = 0x0500 then (if cpChip d = s.chip then one (cpDst d) else [])
  else if c = 0x0510 then (uParams d).flatMap (fun p => (slowRoles s p).map (fun r => [roleRegion s p r]))
  else if c = 0x0600 then
    one ⟨cDst d, 0, 1, (segAt s (cDst d)).segBytes⟩ ++
      (if cQ d ≠ 0 ∧ slotOff d 0x28 ≠ 0 then (cReads d).tail.map (fun r => [r]) else [])
  else if c = 0x0610 then (xSegs s d).map (fun a => segRegions d (segAt s a))
  else if c = 0x0701 then [ownedRegions s d]
  else if c = 0x0700 ∨ c = 0x0702 ∨ c = 0x0703 then one (gDstRegion d)
  else if c / 256 = 8 then rotOutputs s d
  else if c = 0x0900 then
    (uParams d).flatMap (fun p => [[roleRegion s p 0], [roleRegion s p 3]] ++
      (if uOpt d = 2 then [[roleRegion s p 4]] else []) ++ [workRegions s p])
  else if c = 0x0920 then (if exHost d then [] else one ⟨exAddr d, 0, 1, exSpan (exRecords s o)⟩)
  else if c = 0x0921 then
    [roleRegion s (imParam s d) (imRole s d)] :: (if imRole s d = 0 then [workRegions s (imParam s d)] else [])
  else if c = 0x0A20 then one (dgDst d)
  else if c = 0x0F11 then one ⟨dfld d 0x30 41 0, 32, 1, 32⟩
  else []

/-- R328: the plan of a RESHARD. -/
def planRegion (s : State) (d : Desc) : Region := ⟨rsPlan d, 0, 1, 0x40 + 32 * plGroups s d + 32 * plPieces s d⟩

/-- R328: the pieces that a RESHARD sends. -/
def planSends (s : State) (d : Desc) : List Nat :=
  ((List.range (rsEnd s d - rsFirst d)).flatMap (fun i => grPieces s d (rsFirst d + i))).filter (fun k => !pcIn s d k)

/-- The input regions of an operation whose body or tables fix them. -/
def opInputs (s : State) (d : Desc) : List Region :=
  let c := dOpcode d
  if c = 0x0100 ∨ c = 0x0101 then regA d ++ (if mZb d then [panelRegion s d] else regB d) ++ regC d
  else if c = 0x0200 ∨ c = 0x0210 then vReadRegions d
  else if c = 0x0221 then [⟨ctSrc d, 0, 1, 64 * ctLines d⟩]
  else if c = 0x0300 then facRegion (facStat s (tRecord d)) (facN s (tRecord d)) :: smpRegions s d
  else if c = 0x0320 then (tsRegions s d).take 1 ++ [bufRegion (facBuf s (tRecord d) (facSel s (tRecord d))) (facN s (tRecord d))]
  else if c / 256 = 3 then [facRegion (facStat s (tRecord d)) (facN s (tRecord d))]
  else if c / 256 = 4 then
    [⟨jSet d, 0, 1, 192⟩, ⟨setBodies s (jSet d), 128, setNbodies s (jSet d), 128⟩, jEnvRegion s d] ++ jInitRegions s d
  else if c = 0x0500 then (if counterRegion (cpSrc d) then [] else [cpSrc d])
  else if c = 0x0511 then (uParams d).flatMap (fun p => (slowRoles s p).map (roleRegion s p))
  else if c = 0x0600 then cReads d
  else if c = 0x0610 then (xSegs s d).map (fun a => ⟨a, 0, 1, (segAt s a).segBytes⟩)
  else if c / 256 = 7 ∧ c ≤ 0x0703 then [gSrcRegion d]
  else if c / 256 = 8 then rotRegions s ++ rotShards s
  else if c = 0x0900 then (uParams d).flatMap (fun p => [roleRegion s p 0, roleRegion s p 2] ++ (slowRoles s p).map (roleRegion s p))
  else if c = 0x0920 then (paramRange (exParam0 d) (exCount d)).flatMap (fun p => (exRoles d).map (roleRegion s p))
  else if c = 0x0A20 then [dgSrc d]
  else if c = 0x0921 then (if exHost d then [] else [⟨exAddr d, 0, 1, 128 + 4 * imNrows s d * imNcols s d⟩])
  else if c = 0x0710 then planRegion s d :: (planSends s d).map (fun k => keyRegion s (pcKey s d k))
  else []

/-- R25, R181: the regions that an operation reads: its inputs, and the target of a SUM_OPEN that adds to what it
holds. -/
def opReads (s : State) (d : Desc) : List Region :=
  opInputs s d ++ (if dOpcode d = 0x0220 ∧ soInit d then [soRegion d] else [])

/-- R49: whether an output region of a level-2 operation meets one of its inputs; where an access would fault, that
fault comes instead. -/
def levelTwoMeets (s : State) (o : Op) : Bool :=
  checkLevel o.d == 2 && (accessFault s (opInputs s o.d ++ (opOutputs s o).flatten)).isNone &&
    anyMeet (opOutputs s o).flatten (opInputs s o.d)

/-- The regions among some that are not training state. -/
def outsideTraining (s : State) (gs : List (List Region)) : List (List Region) :=
  gs.filter (fun g => !anyMeet g (trainRegions s))

/-- The memory as it stands with an operation's held writes. -/
def overlaid (s : State) (o : Op) : State := { s with mem := memWriteAll s.mem o.writes }

/-- R49: the sum of the ring digests of output regions. -/
def runDigest (m : List Host.Cell) (gs : List (List Region)) : Nat := gs.foldl (fun a g => (a + regionsDigest m g) % ringP) 0

/-- R155: whether an operation holds its training-state writes until its step's decision: UPDATE, the Yarder's moves,
RESHARD, rotations and jointed bodies do not. -/
def holdsState (s : State) (o : Op) : Bool :=
  !dEval o.d && !([0x0900, 0x0510, 0x0511, 0x0710].contains (dOpcode o.d)) && dOpcode o.d / 256 != 8 &&
    dOpcode o.d / 256 != 4 &&
    (isTruWriter o || !o.writes.isEmpty || (dOpcode o.d == 0x0600 && !(cResidRows o.d).isEmpty) || anyMeet (opOutputs s o).flatten (trainRegions s))

end Sys2Proof.Machine
end

