-- ==== Sys2Proof/Machine/Rings.lean ====
section
/-!
DEFINITION. The life of a descriptor: fetch, beginning, the runs of a level-2 check, parking and resuming, and the end
(R45, R49, R51, R54 to R58, R61 to R64, R155, R357, R358, R600).
-/

namespace Sys2Proof.Machine

/-! ### Completion -/

/-- R62: whether an ending signals the descriptor's semaphore. -/
def descSignals (d : Desc) (st : Status) : Bool := dSignal d && (statusSignals st || dSignalAlways d)

/-- R57, R61: the semaphore is signalled where the ending calls for it, and the final entry is written. -/
def completeWith (s : State) (ctx idx : Nat) (d : Desc) (e : OpEnd) : State :=
  let sig := descSignals d e.status
  let s1 := if sig then semAdd s (dSignalId d) (dSignalValue d) else s
  writeEntry s1 ctx ⟨idx, e.status, true, sig, statusHalts e.status, dTag d, e.detail, dNotify d⟩

/-! ### Fetching (R45, R51) -/

/-- R33: the descriptor in a context's next submission slot. -/
def nextDesc (s : State) (x : Ctx) : Desc := BitVec.ofNat 1024 (rdHost s (x.sqBase + (x.sqHead % 2 ^ x.sqOrder) * 128) 128)

/-- R45, R44, R64, R73: whether a context's next descriptor is fetched. -/
def mayFetch (s : State) (x : Ctx) : Bool :=
  !x.loading && !x.halted && x.spilling == 0 && getA s Reg.ringCtrl_enable == 1 && decide (x.held.length < 8) &&
    x.sqHead != x.sqTail

/-- R45, R51: the copy of a context's next descriptor is complete: it is held, or it fails a fetch check and ends with
CTX_FAULT, for which a completion slot must be free (R58). -/
def fetchNext (s : State) (x : Ctx) : State :=
  let d := nextDesc s x
  let s1 := updCtx s x.num (fun y => { y with sqHead := (y.sqHead + 1) % 2 ^ 32 })
  match fetchFault s x.num d with
  | none => updCtx s1 x.num (fun y => { y with held := y.held ++ [⟨x.sqHead, d⟩] })
  | some code => if slotsFree x = 0 then s else noteIdle (completeWith s1 x.num x.sqHead d ⟨.ctxFault, code⟩) x.num

/-- DESCRIPTOR_FETCH (R45). -/
def execDescriptorFetch (ctx : Nat) (s : State) : Host.Outcome State Fault Refusal :=
  .next (match findCtx s ctx with
    | some x => if mayFetch s x then fetchNext s x else s
    | none => s)

/-! ### Units that operations share (R600) -/

/-- R600: the units where an operation can park: a Cell by its number, the Truing Unit of Mill m as 128 + m, the
Derailleur engine as 132; none where the operation cannot park. -/
def parkUnits (d : Desc) : List Nat :=
  let c := dOpcode d
  if c = 0x0100 ∨ c = 0x0101 ∨ c = 0x0200 ∨ c = 0x0210 ∨ c = 0x0900 then scopeCells d
  else if c / 256 = 3 then [128 + oneMill d]
  else if c = 0x0400 ∨ c = 0x0410 ∨ c = 0x0420 then ((scopeCells d).map (fun n => 128 + n / 32)).eraseDups
  else if c = 0x0710 then [132]
  else []

/-- R357: whether an operation runs as ELASTIC work. -/
def runsElastic (d : Desc) : Bool := dElastic d && !(parkUnits d).isEmpty

/-- R600: the units that an operation uses: digests and re-derivations run on the Cells' vector units (R158, R487). -/
def unitsUsed (d : Desc) : List Nat :=
  let c := dOpcode d
  if c / 256 = 3 then millCells (oneMill d) ++ parkUnits d
  else if c / 256 = 4 then scopeCells d ++ ((scopeCells d).map (fun n => 128 + n / 32)).eraseDups
  else if c = 0x0500 ∨ c = 0x0610 then scopeCells d
  else if c = 0x0910 ∨ c = 0x0920 ∨ c = 0x0921 ∨ c = 0x0A10 ∨ c = 0x0A20 then scopeCells d
  else if c = 0x0600 then (if cRotate d then millCells (oneMill d) else [])
  else if c = 0x0800 ∨ c = 0x0810 ∨ c = 0x0820 then scopeCells d
  else parkUnits d

/-- Whether two lists of units have one in common. -/
def shareUnit (us vs : List Nat) : Bool := us.any (fun u => vs.contains u)

/-- R358: the units on which an operation is parked. -/
def awayUnits (o : Op) : List Nat := if o.ended.isSome then [] else if o.parked then parkUnits o.d else o.away

/-- R358: whether a parked operation stands before ELASTIC work that has not begun. -/
def parkedBefore (s : State) (d : Desc) : Bool :=
  runsElastic d && s.ops.any (fun o => shareUnit (awayUnits o) (parkUnits d))

/-! ### Beginning (R54) -/

/-- The oldest descriptor that a tracked context holds, where the context may begin one. -/
def oldestHeld (s : State) (x : Ctx) : Option Held :=
  if x.loading || x.halted || x.spilling != 0 || getA s Reg.ringCtrl_enable != 1 then none else x.held.head?

/-- R390: whether an operation of a context has ended with DEVICE_FAULT, which halts the context at that descriptor's end. -/
def ctxFailing (s : State) (x : Ctx) : Bool :=
  s.ops.any (fun o => o.ctx == x.num && o.ended.map (fun e => e.status) == some .deviceFault)

/-- R54, R242, R390: whether a context's oldest held descriptor may begin. -/
def eligible (s : State) (x : Ctx) : Option Held :=
  match oldestHeld s x with
  | some h => if !ctxFailing s x && mayBegin s x h.d && !(isLoop h.d && decide (16 ≤ loopsActive s)) then some h else none
  | none => none

/-- R198: the basis records that a COMPRESS reads. -/
def compressBegin (s : State) (ctx idx : Nat) (d : Desc) : State :=
  if cQ d ≠ 0 ∧ cRotate d then
    updOp s ctx idx (fun o => { o with facs :=
      ([cXl d, cXr d].filter (fun x => x != 0x3FF && decide (x < facCount s))).eraseDups.map (facRead s) })
  else s

/-- What an operation does at its beginning. -/
def beginWork (s : State) (ctx idx : Nat) (d : Desc) : State :=
  let c := dOpcode d
  if c / 256 = 1 then matBegin s ctx idx
  else if c = 0x0200 ∨ c = 0x0210 then vecBegin s ctx idx
  else if c / 256 = 3 then truBegin s ctx idx
  else if c / 256 = 4 then jbBegin s ctx idx
  else if c = 0x0510 ∨ c = 0x0511 then yardBegin s ctx idx
  else if c = 0x0600 then compressBegin s ctx idx d
  else if c / 256 = 7 ∧ c ≤ 0x0703 then collectBegin s ctx idx
  else if c / 256 = 8 then rotBegin s ctx idx
  else if c = 0x0900 then updBegin s ctx idx
  else if c = 0x0A10 then tallyCloseBegin s ctx idx
  else if c = 0x0F11 then stampBegin s ctx idx
  else s

/-- The fault code with which an operation has ended, where it has ended with CTX_FAULT. -/
def faultCodeOf (s : State) (ctx idx : Nat) : Option Nat :=
  match (findOp s ctx idx).bind (fun o => o.ended) with
  | some e => if e.status = .ctxFault then some (e.detail % 2 ^ 16) else none
  | none => none

/-- R491, R493: an operation whose record is not open, or whose record has no room for the factors that it reads, ends
with CTX_FAULT; else the factors are added to the record. `t` is the state in which it has begun. -/
def beginTally (s t : State) (ctx idx : Nat) (d : Desc) : State :=
  if !tallyFound s d then ctxFault s ctx idx 0x1C1 0
  else match findOp t ctx idx with
    | none => t
    | some o => (tallyGens t d o.facs).getD (ctxFault s ctx idx 0x1C3 0)

/-- The operation that a held descriptor becomes as it begins, before its regions are noted. -/
def bareOp (s : State) (ctx : Nat) (h : Held) : Op :=
  { ctx := ctx, idx := h.idx, seq := s.opSeq, d := h.d, began := s.time.ticksTaken, tick := tickNow s
    slot := s.time.ticksTaken, ended := none, parked := false, away := [], everParked := false, parkNo := 0, reruns := 0
    checks := 0, brakes := 0, run := 1, digests := [], side := sideNone, writes := [], step := stepId s, facs := []
    extent := [], prods := 0, upsets := [], work := .none }

/-- R27: the regions that an operation reads and writes. -/
def opExtent (s : State) (o : Op) : List Region := opReads s o.d ++ (opOutputs s o).flatten

/-- The operation that a held descriptor becomes as it begins. -/
def newOp (s : State) (ctx : Nat) (h : Held) : Op :=
  let o := bareOp s ctx h
  { o with extent := opExtent s o }

/-- R54, R58: the oldest held descriptor of a context begins: its completion slots are reserved, and its operation
starts. -/
def beginHeld (s : State) (x : Ctx) (h : Held) : State :=
  let s1 := updCtx s x.num (fun y => { y with held := y.held.drop 1, reserved := y.reserved + slotsNeeded h.d })
  let o := newOp s x.num h
  let s2 := { s1 with ops := s1.ops ++ [o], opSeq := s1.opSeq + 1 }
  match splitRecord s2 with
  | some n => endOp s2 x.num h.idx ⟨.deviceFault, n⟩
  | none =>
    if levelTwoMeets s2 o then ctxFault s2 x.num h.idx 0x05 0
    else
      let t := beginWork s2 x.num h.idx h.d
      match faultCodeOf t x.num h.idx with
      | some code => if code = 0x1D0 ∨ code < 0x1C1 then t else beginTally s2 t x.num h.idx h.d
      | none => beginTally s2 t x.num h.idx h.d

/-- R358: whether STRICT work keeps some units: it has begun and not ended, or is eligible to begin. -/
def strictOn (s : State) (us : List Nat) : Bool :=
  s.ops.any (fun o => !runsElastic o.d && o.ended.isNone && shareUnit (unitsUsed o.d) us) ||
    s.rings.ctxs.any (fun x => match eligible s x with
      | some h => !runsElastic h.d && shareUnit (unitsUsed h.d) us
      | none => false)

/-- R214, R240: whether STRICT work of a Truing Unit holds back ELASTIC work of it that has not begun. -/
def strictBefore (s : State) (d : Desc) : Bool :=
  runsElastic d && (dOpcode d / 256 == 3 || dOpcode d / 256 == 4) && strictOn s (parkUnits d)

/-- DESCRIPTOR_BEGIN (R54). -/
def execDescriptorBegin (ctx : Nat) (s : State) : Host.Outcome State Fault Refusal :=
  .next (match findCtx s ctx with
    | some x =>
      (match eligible s x with
       | some h => if parkedBefore s h.d || strictBefore s h.d then s else beginHeld s x h
       | none => s)
    | none => s)

/-! ### Mending (R146) -/

/-- The format word of a Scaler stream's output. -/
def streamFmt (d : Desc) : Nat := if dOpcode d / 256 = 1 then mFmtD d else vFmtY d

/-- The packed rows of a unit of a matrix or vector operation. -/
def mendUnitRows (d : Desc) (u : Nat) : List (Nat × Nat) := if dOpcode d / 256 = 1 then tileRows d u else unitRows d u

/-- The Scaler binding that an operation holds. -/
def heldBind (o : Op) : Option Bind :=
  match o.work with
  | .mat w => w.bind
  | .vec w => w.bind
  | _ => none

/-- An operation whose binding has been settled. -/
def dropBind (o : Op) : Op :=
  match o.work with
  | .mat w => { o with work := .mat { w with bind := none } }
  | .vec w => { o with work := .vec { w with bind := none } }
  | _ => o

/-- R49, R146: the bumps of an operation take effect at once, or, at level 2, with the run that stands. -/
def settleBind (s : State) (o : Op) (b : Bind) : State :=
  if checkLevel o.d = 2 then updOp s o.ctx o.idx (fun p => { p with side := { p.side with bind := some b } }) else sclSettle s b

/-- R146: an operation's units are mended, in memory or in the training-state writes that it holds. -/
def mendOp (s : State) (o : Op) : State :=
  match heldBind o with
  | none => s
  | some b =>
    let t := sclMend (overlaid s o) b (fwFmtD (streamFmt o.d)) (mendUnitRows o.d)
    settleBind (updOp (holdOver s t o.ctx o.idx o.writes) o.ctx o.idx dropBind) o b

/-! ### Level 2 (R49) -/

/-- How a level-2 operation ends once its runs agree. -/
def levelEnd (o : Op) : OpEnd := if dOpcode o.d / 256 = 4 then jbEnd o else normalEnd o

/-- The bytes of `alt` that lie in output regions. -/
def altIn (gs : List (List Region)) (alt : List (Nat × Byte)) : List Host.Cell :=
  alt.filter (fun p => gs.flatten.any (fun r => inRegion r p.1))

/-- The checks that a run of a matrix operation makes where nothing fails: one for each tile on its Cell (R126). -/
def runChecks (d : Desc) : List (Nat × Nat) :=
  if dOpcode d / 256 = 1 then (opCells d).map (fun c => (c, (List.range (opTiles d)).countP (fun t => cellOfUnit d t == c))) else []

/-- R126, R132: the checks that run 2 or run 3 makes are counted in the Cells. -/
def countRunChecks (s : State) (d : Desc) : State :=
  (runChecks d).foldl (fun t p => event (countF t (cellBase p.1) Reg.matChecks_count 0 p.2) (cellBase p.1) 0x03 p.2) s

/-- R145: the units of a binding with the bumps that the unit map in memory `m` names: the last bump of a unit that fell
back is 2, or less where e + b had reached 127. -/
def mapUnits (s : State) (b : Bind) (m : List Host.Cell) : Bind :=
  if sclNarrow (sclFmtCode s b.entry) then
    { b with units := b.units.map (fun x =>
        let v := (memRead m (sclMap s b.entry + x.1 / 4)).toNat / 2 ^ (2 * (x.1 % 4)) % 4
        (x.1, if v = 3 then min 2 (127 - b.e).toNat else v, v == 3)) }
  else b

/-- R49: what run 3 gives beside its outputs: its bumps as its unit map says, and free values for its class counts,
STEP_AMAX values and flags, which follow from a computation that the model does not see (log entry 70). -/
def thirdSide (s : State) (o : Op) (m : List Host.Cell) : State × RunSide :=
  let x := o.side
  let v := fun (k : Nat) => Config.freeValue (s.free + k)
  let nf := x.fmt.length * 4
  let fmt := ((List.range x.fmt.length).zip x.fmt).map (fun p =>
    (p.2.1, ({ all := p.2.2.all, ovf := v (4 * p.1) % (p.2.2.all + 1), ftz := v (4 * p.1 + 1) % (p.2.2.all + 1)
               sub := v (4 * p.1 + 2) % (p.2.2.all + 1), nf := v (4 * p.1 + 3) % (p.2.2.all + 1) } : FmtCounts)))
  let bind := x.bind.map (fun b => mapUnits s b m)
  let falls := (bind.map (fun b => b.units.countP (fun u => u.2.2))).getD 0
  let ents := ((List.range x.ents.length).zip x.ents).map (fun p =>
    (p.2.1, if p.2.1 % 128 = 0x74 then p.2.2 else if p.2.1 % 128 = 0x7A then falls
      else if p.2.1 % 128 = 0x60 then v (nf + p.1) % 0x7F800000 else v (nf + p.1) % 2 ^ 32))
  let base := nf + x.ents.length
  let flags := (scopeCells o.d).filter (fun c => v (base + c) % 2 == 1)
  ({ s with free := s.free + base + 128 }, ⟨fmt, ents, flags, bind⟩)

/-- R49: run 2 or run 3 of an operation has ended; `alt` are the output bytes in which it departs from run 1. -/
def levelRunEnd (s0 : State) (o : Op) (alt : List (Nat × Byte)) : State :=
  let s := countRunChecks s0 o.d
  let gs := opOutputs (overlaid s o) o
  let m := memWriteAll s.mem o.writes
  let ws := altIn gs alt
  let d1 := runDigest m gs
  let dn := runDigest (memWriteAll m ws) gs
  if gs.isEmpty then endOp s o.ctx o.idx (levelEnd o)
  else if o.run = 2 then
    if dn = d1 then endOp s o.ctx o.idx (levelEnd o)
    else updOp s o.ctx o.idx (fun p => { p with run := 3, digests := [d1, dn] })
  else
    let again := fun (t : State) => updOp t o.ctx o.idx (fun p => { p with reruns := p.reruns + 1 })
    if dn = o.digests.getD 0 0 then endOp (again s) o.ctx o.idx (levelEnd { o with reruns := o.reruns + 1 })
    else if dn = o.digests.getD 1 0 then
      let r := thirdSide s o (memWriteAll m ws)
      let o3 := { o with reruns := 1, brakes := 0, checks := ((runChecks o.d).map (fun p => p.2)).sum, side := r.2 }
      let s1 := updOp r.1 o.ctx o.idx (fun p => { p with reruns := o3.reruns, brakes := o3.brakes, checks := o3.checks, side := o3.side })
      endOp (holdOver s1 (wrMem (overlaid s1 o) ws) o.ctx o.idx o.writes) o.ctx o.idx (levelEnd o3)
    else endWithRecord (again s) o.ctx o.idx .checkFail 0x02 0
      (digestWords (o.digests.getD 0 0) ++ digestWords (o.digests.getD 1 0) ++ digestWords dn)

/-- LEVEL2_RUN_END (R49). -/
def execLevel2RunEnd (ctx idx : Nat) (alt : List (Nat × Byte)) (s : State) : Host.Outcome State Fault Refusal :=
  .next (match findOp s ctx idx with
    | none => s
    | some o =>
      if o.ended.isSome || o.parked || o.run < 2 then s
      else
        let s1 := mendOp s o
        match findOp s1 ctx idx with
        | some p => levelRunEnd s1 p alt
        | none => s1)

/-! ### Parking and resuming (R358, R128, R173, R213, R240, R333) -/

/-- Whether an operation stands at a park point: nothing of it is in progress. -/
def atParkPoint (s : State) (o : Op) : Bool :=
  match o.work with
  | .mat w => w.tiles.isEmpty && w.failed.isNone
  | .vec w => w.running.isEmpty
  | .jb w => w.running.isEmpty
  | .drl w => !w.started || (roundDone s o && !w.voted)
  | _ => true

/-- DETAIL of PARKED; `progress` is what a Truing operation gives. -/
def parkDetail (o : Op) (progress : Nat) : Nat :=
  match o.work with
  | .mat w => w.drained.length
  | .vec w => w.doneUnits.length
  | .upd w => w.applied
  | .jb w => w.completed
  | .drl w => w.switched % 2 ^ 32 + (if w.started then w.round + 1 else 0) * 2 ^ 32
  | _ => progress

/-- The number that the next first parking takes. -/
def nextPark (s : State) : Nat := s.ops.foldl (fun n o => max n (o.parkNo + 1)) 1

/-- R61: the PARKED entry, for which one reserved slot is used. -/
def parkEntry (s : State) (o : Op) (detail : Nat) : State :=
  let s1 := writeEntry s o.ctx ⟨o.idx, .parked, false, false, false, dTag o.d, detail, dNotify o.d⟩
  updCtx s1 o.ctx (fun y => { y with reserved := y.reserved - 1 })

/-- R213: whether a Truing operation may park with a DETAIL; any other operation may. -/
def parkAllowed (s : State) (o : Op) (progress : Nat) : Bool := !isTruing o || (truParkAt s o progress && !truWaits s o)

/-- R358: an operation parks. -/
def parkOp (s : State) (o : Op) (progress : Nat) : State :=
  let n := if o.everParked then o.parkNo else nextPark s
  let s1 := updOp s o.ctx o.idx (fun p => { p with parked := true, away := [], everParked := true, parkNo := n })
  let s2 := if isTruing o then event (countF (parkSave s1 o) (tMill o.d) Reg.truParks_count 0 1) (tMill o.d) 0x04 1 else s1
  if o.everParked then s2 else parkEntry s2 o (parkDetail o progress)

/-- OPERATION_PARK (R358): `progress` is where a Truing operation stands, or the units done of the parameter that an UPDATE applies. -/
def execOperationPark (ctx idx progress : Nat) (s : State) : Host.Outcome State Fault Refusal :=
  .next (match findOp s ctx idx with
    | none => s
    | some o =>
      if o.ended.isNone && !o.parked && runsElastic o.d && slotOver s o && atParkPoint s o && parkAllowed s o progress then
        let s1 := if dOpcode o.d = 0x0900 then updPark s o progress else s
        match findOp s1 ctx idx with
        | some p => if p.ended.isNone then parkOp s1 p progress else s1
        | none => s1
      else s)

/-- R358: whether a parked operation may resume on a unit: no STRICT work keeps it, and no operation that parked before is parked
there. -/
def unitFree (s : State) (o : Op) (u : Nat) : Bool :=
  !strictOn s [u] && !s.ops.any (fun p => decide (p.parkNo < o.parkNo) && (awayUnits p).contains u)

/-- R358, R600: whether an operation resumes on each Cell apart: it works by tiles or vector units of its own. -/
def resumesApart (o : Op) : Bool :=
  match o.work with
  | .mat _ => true
  | .vec _ => true
  | _ => false

/-- R358: the units on which a parked operation resumes now. -/
def resumeUnits (s : State) (o : Op) : List Nat :=
  let us := awayUnits o
  let free := us.filter (unitFree s o)
  if resumesApart o || free.length = us.length then free else []

/-- What an operation takes up again as it resumes on some units. -/
def resumeWork (s : State) (o : Op) (us : List Nat) : State :=
  match o.work with
  | .mat _ => (us.filter (fun c => (opCells o.d).contains c)).foldl (fun t c => offerTile t c o.ctx o.idx) s
  | .vec _ => us.foldl (fun t c => beginUnit t o.ctx o.idx c) s
  | .jb _ => beginBatches s o.ctx o.idx o.d
  | _ => s

/-- OPERATION_RESUME (R358): a new slot begins, and in each unit that is free the operation goes on. -/
def execOperationResume (ctx idx : Nat) (s : State) : Host.Outcome State Fault Refusal :=
  .next (match findOp s ctx idx with
    | none => s
    | some o =>
      let us := resumeUnits s o
      if us.isEmpty then s
      else
        let s1 := updOp s ctx idx (fun p => { p with
          parked := false, away := (awayUnits o).filter (fun u => !us.contains u)
          slot := if o.parked then s.time.ticksTaken else p.slot })
        match findOp s1 ctx idx with
        | some p => if p.run = 1 then resumeWork s1 p us else s1
        | none => s1)

/-! ### The end (R57) -/

/-- Whether an operation with a status has no effect on memory left to make. -/
def discards (st : Status) : Bool := st == .ctxFault || st == .deviceFault

/-- R155, R496: whether an ended operation has its decision, where it needs one. -/
def endReady (s : State) (o : Op) (e : OpEnd) : Bool :=
  discards e.status || !holdsState s o || ((decisionOf s o.step).isSome && !closeBefore s o.step)

/-- R155: whether an ended operation's training-state writes are skipped. -/
def endSkips (s : State) (o : Op) (e : OpEnd) : Bool :=
  !discards e.status && holdsState s o && (decisionOf s o.step).getD false

/-- R146: whether the last unit of an ended operation was written, so that it is mended. -/
def endMends (o : Op) (e : OpEnd) : Bool := decide (statusCode e.status < 0x10) || (e.status == .checkFail && o.run == 3)

/-- R24 to R26: what ECC found in the operation's accesses is counted; an error that it cannot correct, found now or
poisoned before, is recorded and ends the operation with DEVICE_FAULT, where it has not faulted already. -/
def endEcc (s : State) (o : Op) (e : OpEnd) (ecc : Ecc) : State × OpEnd :=
  let s1 := hbmEcc s ecc
  let fault := fun (t : State) (off : Nat) =>
    (writeFault t ⟨0x0C, millOfStack (stackOf off), statusCode .deviceFault, o.ctx, o.idx, [off]⟩,
      (⟨.deviceFault, faultTail t⟩ : OpEnd))
  let poisoned := ((opReads s o.d).flatMap regionRows).foldl (fun a p => minOpt a (poisonIn s p.1 p.2)) none
  if discards e.status then (s1, e)
  else match ecc, poisoned with
    | .uncorrectable off, p =>
      if off < capacity s then fault s1 off
      else (match p with
        | some q => fault (hbmUncorrectable s1 q) q
        | none => (s1, e))
    | _, some q => fault (hbmUncorrectable s1 q) q
    | _, none => (s1, e)

/-- R357: STRICT work that would end with DONE or DONE_RECOMPUTED after its slot ends with TICK_OVERRUN; operations that
have no slot do not. -/
def endOverrun (s : State) (o : Op) (e : OpEnd) : OpEnd :=
  let c := dOpcode o.d
  let late := s.time.ticksTaken - o.began
  if runsElastic o.d || late = 0 || 1 < statusCode e.status || c / 256 = 10 || c / 256 = 8 || isLoop o.d || c = 0x0F00 ||
      c = 0x0F10 || c = 0x0F11 then e
  else ⟨.tickOverrun, late⟩

/-- R49, R492: whether an ending leaves output digests. -/
def endDigests (o : Op) (st : Status) : Bool :=
  decide (1 ≤ checkLevel o.d) && !discards st && st != .digestMismatch && st != .staleRejected && st != .tableFull &&
    st != .authFail && (st != .checkFail || checkLevel o.d == 2)

/-- The output regions that an ended operation has written. -/
def endOutputs (s : State) (o : Op) (e : OpEnd) (skip : Bool) : List (List Region) :=
  let fails := [0x0310, 0x0311, 0x0330, 0x0340].contains (dOpcode o.d) && decide (0x10 ≤ statusCode e.status)
  if fails then [] else if skip then outsideTraining s (opOutputs s o) else opOutputs s o

/-- R57: the operation is gone: its completion slots, skid entries and Cells are free, and a reset that waited for it
(R74) is done; its context may have become idle (R69). -/
def removeOp (s : State) (o : Op) : State :=
  let s1 := { s with ops := s.ops.filter (fun p => !isOp o.ctx o.idx p) }
  let s2 := updCtx s1 o.ctx (fun y => { y with reserved := y.reserved - (slotsNeeded o.d - nat01 o.everParked) })
  noteIdle (finishReset (skidFree (clearCells s2 o.ctx o.idx) o.ctx o.idx)) o.ctx

/-- R57: an operation whose work is complete ends. -/
def endNow (s : State) (o : Op) (e : OpEnd) (ecc : Ecc) : State :=
  let skip := endSkips s o e
  let r := endEcc s o (if skip then worse e ⟨.doneSkipped, 0⟩ else e) ecc
  let e1 := endOverrun r.1 o r.2
  let s0 := if discards e1.status then r.1 else applySide r.1 o.side
  let s1 := if discards e1.status || skip then s0 else importEnd (wrMem s0 o.writes) o
  let ds := if endDigests o e1.status then (endOutputs s1 o e1 skip).map (regionsDigest s1.mem) else []
  let s2 := if dOpcode o.d / 256 = 7 then closeAdder s1 o.ctx o.idx else s1
  removeOp (completeWith (replicaCount (tallyAdd s2 o e1.status ds) o e1.status) o.ctx o.idx o.d e1) o

/-- DESCRIPTOR_END (R57): `ecc` is what ECC found in the operation's accesses. -/
def execDescriptorEnd (ctx idx : Nat) (ecc : Ecc) (s : State) : Host.Outcome State Fault Refusal :=
  .next (match findOp s ctx idx with
    | none => s
    | some o =>
      match o.ended with
      | none => s
      | some e =>
        if !endReady s o e || opWaits s o then s
        else
          let s1 := if endMends o e then mendOp s o else s
          match findOp s1 ctx idx with
          | some p => endNow s1 p e ecc
          | none => s1)

end Sys2Proof.Machine
end

