-- ==== Sys2Proof/Machine/RegWrite.lean ====
section
/-!
DEFINITION. Host access to registers, doorbell pages, semaphores and barrier units: range rules, held low words, posted
writes, aliases, configuration writes, reads, and the rows that are a write of one register (R515 to R536).
-/

namespace Sys2Proof.Machine

/-! ### Words and their fields -/

/-- A field of a register word with its copy and a value for it. -/
structure FldVal where
  f : Fld
  k : Nat
  v : Nat
  deriving DecidableEq, Repr

/-- The copy of field `f` whose word lies at block offset `r`. -/
def copyAt (f : Fld) (r : Nat) : Nat := if f.stride = 0 then 0 else (r - f.off) / f.stride

/-- The fields of the word at block offset `r`, each with its bits of `data`. -/
def wordVals (b : Blk) (r data : Nat) : List FldVal :=
  (fldsAt b r).map (fun f => ⟨f, copyAt f r, bits data f.hi f.lo⟩)

/-- The value in force of a field of a block. -/
def valNow (s : State) (b : Blk) (x : FldVal) : Nat := getF s (blkBase b) x.f x.k

/-- R532, R533: the block offsets of the low words of writable two-word values. -/
def pairLows : Blk → List Nat
  | .landA => [0x1000, 0x1100, 0x1200, 0x1400, 0x1410, 0x1600, 0x1608, 0x1618, 0x1C20, 0x1D00, 0x1D08, 0x1D18, 0x1D28,
      0x1D40, 0x3200, 0x3220, 0x3404, 0x3600, 0x3F90] ++
      (List.range 16).flatMap (fun c => [0x1800 + 0x40 * c, 0x1808 + 0x40 * c, 0x1820 + 0x40 * c, 0x1830 + 0x40 * c])
  | .landB => [0x1C18]
  | _ => []

/-- R523: the block offsets of the words of values that span two or more words and that no write changes. -/
def wideWords : Blk → List Nat
  | .dev => [0x8, 0xC, 0x110, 0x114]
  | .cell _ => [0x210, 0x214, 0x218]
  | .mill _ => [0x410, 0x414]
  | .landA => [0x1C08, 0x1C0C, 0x1C10, 0x1C14, 0x1D50, 0x1D54, 0x3230, 0x3234, 0x3610, 0x3614, 0x3FA0, 0x3FA4]
  | .landB => []

/-- Whether the word at `r` is the low word of a writable two-word value. -/
def isLow (b : Blk) (r : Nat) : Bool := (pairLows b).contains r

/-- Whether the word at `r` is the high word of a writable two-word value. -/
def isHigh (b : Blk) (r : Nat) : Bool := decide (4 ≤ r) && (pairLows b).contains (r - 4)

/-- R525: whether a write of the word at `r` is posted. -/
def isPosted (b : Blk) (r : Nat) : Bool := (fldsAt b r).any (fun f => f.acc == .rwp)

/-! ### Range rules: whether a write of a field is taken -/

/-- Whether an operation whose opcode some test names has begun and not ended. -/
def opLive (s : State) (p : Nat → Bool) : Bool := s.ops.any (fun o => p (dOpcode o.d))

/-- R423: the operations of "Collectives, Semaphores and the Chain Network". -/
def fabricOp (c : Nat) : Bool := decide (0x700 ≤ c ∧ c ≤ 0x703) || c == 0xF20 || c == 0xF21 || c == 0xF30

/-- R72, R73: whether CTX_BASE and CTX_COUNT may be written. -/
def ringsStill (s : State) : Bool := getA s Reg.ringCtrl_enable == 0 && getA s Reg.ringCtrl_draining == 0

/-- R539: whether an event source code is one that R542 to R544 name. -/
def sourceOk (v : Nat) : Bool := decide (v ≤ 0x0B) || v == 0x0F

/-- R380, R393: the range rules of GROUP_CTRL of group `g`. -/
def takesGroup (s : State) (g : Nat) (x : FldVal) : Bool :=
  if x.f = Reg.groupCtrl_mode then groupIdle s g && !groupFifth s g x.v
  else if x.f = Reg.groupCtrl_minLinks then decide (1 ≤ x.v ∧ x.v ≤ 8)
  else true

/-- R316, R320, R423: the range rules of the axes, the Pannier channels and the route. -/
def takesJob (s : State) (x : FldVal) : Bool :=
  if x.f.off = 0x1700 ∨ x.f.off = 0x1704 then getA s Reg.axisCtrl_enable == 0
  else if x.f = Reg.axisCtrl_enable then
    (if x.v = 0 then !opLive s (fun c => c / 256 == 7) else getA s Reg.axisCtrl_enable == 0)
  else if 0x1800 ≤ x.f.off ∧ x.f.off < 0x1840 then
    panF s Reg.pan_enable x.k == 0 || (x.f == Reg.pan_enable && x.v == 0)
  else if x.f = Reg.routeCtrl_enable then x.v == 1 || !opLive s fabricOp
  else true

/-- R354, R391, R395, R431, R443, R450: the range rules of time, the stand, Far sessions and keys. -/
def takesLink (s : State) (x : FldVal) : Bool :=
  if x.f = Reg.tickCtrl_period then decide (1 ≤ x.v ∧ x.v ≤ 200) && getA s Reg.tickCtrl_run == 0
  else if x.f = Reg.standCtrl_armed then x.v == 0 || armReady s
  else if x.f = Reg.far_valid then x.v == 0 || sessF s Reg.far_valid x.k == 0
  else if x.f.off = 0x2E00 ∨ x.f.off = 0x2E04 then sessF s Reg.far_valid x.k == 0
  else if x.f = Reg.keyClear_slot then !slotInUse s x.v
  else if x.f = Reg.sess_nextSlot then stageOk s x.k x.v
  else if x.f = Reg.sess_graceMs then x.v != 0
  else true

/-- R72, R73, R185, R485, R513, R550, R569: the other range rules of the Landing A block. -/
def takesA (s : State) (x : FldVal) : Bool :=
  if x.f.off = 0x1000 ∨ x.f.off = 0x1004 then ringsStill s
  else if x.f = Reg.ctxCount_count then ringsStill s && decide (x.v ≤ 4352)
  else if x.f = Reg.ringCtrl_enable then x.v == 0 || (decide (10 ≤ s.boot.stage) && getA s Reg.ringCtrl_draining == 0)
  else if x.f = Reg.omaCtrl_overdueUs ∨ x.f = Reg.rotCtrl_h then x.v != 0
  else if x.f = Reg.faultCtrl_cap ∨ x.f = Reg.evdCtrl_cap then x.v != 1
  else takesJob s x && takesLink s x && takesGroup s x.k x

/-- R595: the range rules of PWR_CTRL. -/
def takesDev (x : FldVal) : Bool :=
  if x.f = Reg.pwrCtrl_cap then decide (300 ≤ x.v ∧ x.v ≤ 850)
  else if x.f = Reg.pwrCtrl_aclkMax then decide (x.v ≤ 33)
  else if x.f = Reg.pwrCtrl_tjLimit then decide (70 ≤ x.v ∧ x.v ≤ 105)
  else true

/-- Whether a write of a value to a field is taken under the field's own rules. -/
def fieldTakes (s : State) (b : Blk) (x : FldVal) : Bool :=
  if x.f = Reg.evsel_src then sourceOk x.v
  else match b with
    | .dev => takesDev x
    | .cell _ => true
    | .mill _ => true
    | .landA => takesA s x
    | .landB => (if x.f.off = 0x1C18 ∨ x.f.off = 0x1C1C then timeSetOk s else takesGroup s (6 + x.k) x)

/-! ### The effect of a write -/

/-- Fields whose effect stores their value itself. -/
def ownStore (b : Blk) (f : Fld) : Bool :=
  match b with
  | .landA => [Reg.ringCtrl_enable, Reg.sclCtrl_enable, Reg.axisCtrl_enable, Reg.slotCtrl_enable, Reg.routeCtrl_enable,
      Reg.groupCtrl_mode, Reg.linkCtrl_enable, Reg.standCtrl_armed, Reg.far_valid, Reg.sess_nextSlot,
      Reg.sess_authHalt].contains f
  | .landB => [Reg.groupCtrl_mode, Reg.linkCtrl_enable].contains f
  | _ => false

/-- One field stored: a count is cleared (R522), a W1C bit is cleared where its data bit is 1, an RW, RWV or RWP field
takes the value, an RO or WO field none. -/
def storeVal (b : Blk) (s : State) (x : FldVal) : State :=
  match x.f.acc with
  | .cnt =>
    let s1 := setF s (blkBase b) x.f x.k 0
    match b with
    | .mill m => if x.f = Reg.sawBytes_kib then { s1 with sawRest := sparseSet 0 m 0 s1.sawRest } else s1
    | _ => s1
  | .w1c => if ownStore b x.f then s else setF s (blkBase b) x.f x.k (valNow s b x - (valNow s b x &&& x.v))
  | .rw | .rwv | .rwp => if ownStore b x.f then s else setF s (blkBase b) x.f x.k x.v
  | .ro | .wo => s

/-- The poisoned lines of HBM, as the entries of a table at `a` with `n` entries of `size` bytes that meet them. -/
def poisonedEntries (s : State) (a size n : Nat) : List Nat :=
  (List.range n).filter (fun i => (poisonIn s (a + size * i) size).isSome)

/-- R73, R138, R317, R321, R354, R360, R423, R492: what a write of a control field of Landing A starts. -/
def controlEffect (old s : State) (x : FldVal) : State :=
  if x.f = Reg.ringCtrl_enable then (if x.v = 1 then setA s Reg.ringCtrl_enable 1 else ringDisable s)
  else if x.f = Reg.sclCtrl_enable then
    (if x.v = 1 then sclCheck s (poisonedEntries s (getA2 s Reg.sclBase_baseLo Reg.sclBase_baseHi) 128 (sclCount s))
     else setA s Reg.sclCtrl_enable 0)
  else if x.f = Reg.axisCtrl_enable then
    (if x.v = 1 then chainEffects (chainPump (axisEnable s)) else setA s Reg.axisCtrl_enable 0)
  else if x.f = Reg.slotCtrl_enable then (if x.v = 1 then slotEnable s else setA s Reg.slotCtrl_enable 0)
  else if x.f = Reg.routeCtrl_enable then (if x.v = 1 then routeEnable s else setA s Reg.routeCtrl_enable 0)
  else if x.f = Reg.pan_enable then (if x.v = 1 then panStart s x.k else s)
  else if x.f = Reg.tickCtrl_run then runChanged s (getA old Reg.tickCtrl_run == 1)
  else if x.f = Reg.tallyCtrl_enable then
    (if x.v = 1 ∧ getA old Reg.tallyCtrl_enable = 0 then
      { s with tally := { s.tally with prevHash := List.replicate 64 0 } } else s)
  else s

/-- R74: the action that a write of CTX_CTRL starts. -/
def ctxAction (s : State) (action : Nat) : State :=
  let c := getA s Reg.ctxCtrl_context
  if action = 1 then ctxResume s c
  else if action = 2 then ctxResumeAtHead s c (getA s Reg.ctxNewHead_head)
  else if action = 3 then ctxReset s c
  else s

/-- R391, R395, R426, R428, R431, R440, R443: what a write of a stand, session or key field of Landing A starts; the
start-up tests of a restarted DRBG end as `rng` says. -/
def keyEffect (rng : Bool) (old s : State) (x : FldVal) : State :=
  if x.f = Reg.standCtrl_armed then standArm s x.v
  else if x.f = Reg.far_valid then sessValid s x.k x.v
  else if x.f = Reg.keyImport_go then (if x.v = 1 then setA s Reg.keyImport_busy 1 else s)
  else if x.f = Reg.keyClear_slot then keyClear s x.v
  else if x.f = Reg.kerfCtrl_rngRestart then (if x.v = 1 then rngRestart s rng else s)
  else if x.f = Reg.sess_nextSlot then kerfStage s x.k x.v
  else if x.f = Reg.sess_authHalt then
    (if x.v = 1 ∧ sessF old Reg.sess_authHalt x.k = 1 then authResume s x.k else s)
  else if x.f = Reg.sess_roll then (if x.v = 1 then kerfRoll s x.k else s)
  else if x.f = Reg.ctxCtrl_action then ctxAction s x.v
  else s

/-- R380, R387, R392, R393: what a write of a link or group field starts; `n` is the first link of the Landing. -/
def linkEffect (n : Nat) (s : State) (x : FldVal) : State :=
  if x.f = Reg.linkCtrl_enable then linkEnable s (n + x.k) x.v
  else if x.f = Reg.groupCtrl_mode then groupMode s (n / 8 + x.k) x.v
  else if x.f = Reg.groupCtrl_retrain then (if x.v = 1 then groupRetrain s (n / 8 + x.k) else s)
  else s

/-- What a taken write of a field starts beyond its value. -/
def fieldEffect (rng : Bool) (old : State) (b : Blk) (s : State) (x : FldVal) : State :=
  match b with
  | .dev => s
  | .cell n => if x.f = Reg.expBuf_offset then cellSet s n { cellGet s n with panels := [] } else s
  | .mill _ => s
  | .landA =>
    if x.f = Reg.jobSeed_seedHi then disturbSeed s
    else if x.f = Reg.groupCtrl_minLinks then groupReview old s x.k
    else linkEffect 0 (keyEffect rng old (controlEffect old s x) x) x
  | .landB =>
    if x.f = Reg.timeSet_nsHi then timeSet s (get2 s landBBase Reg.timeSet_nsLo Reg.timeSet_nsHi 0)
    else if x.f = Reg.groupCtrl_minLinks then groupReview old s (6 + x.k)
    else linkEffect 48 s x

/-- R352, R380, R431, R443: what a refused write of a field sets. -/
def fieldRefused (b : Blk) (s : State) (x : FldVal) : State :=
  match b with
  | .landA =>
    if x.f = Reg.keyClear_slot then setA s Reg.keyClear_refused 1
    else if x.f = Reg.sess_nextSlot then sessPut s Reg.sess_err x.k 1
    else if x.f = Reg.groupCtrl_mode ∧ groupIdle s x.k then setG s Reg.groupCtrl_farRefused x.k 1
    else s
  | .landB =>
    if x.f = Reg.timeSet_nsHi then setB s Reg.timeCtrl_setRefused 1
    else if x.f = Reg.groupCtrl_mode ∧ groupIdle s (6 + x.k) then setG s Reg.groupCtrl_farRefused (6 + x.k) 1
    else s
  | _ => s

/-- Whether a write reaches a field: it is not RO, and its own rules take the value. -/
def valTaken (s : State) (b : Blk) (x : FldVal) : Bool := x.f.acc != .ro && fieldTakes s b x

/-- R528: whether a plain write of values to a word is not ignored: some field takes its value, and not only a W1C bit
that it leaves alone, or no field refuses. -/
def writeTaken (s : State) (b : Blk) (xs : List FldVal) : Bool :=
  let ws := xs.filter (fun x => x.f.acc != .ro)
  ws.any (fun x => fieldTakes s b x && (x.f.acc != .w1c || x.v != 0)) ||
    (!ws.isEmpty && ws.all (fieldTakes s b))

/-- R528, R529: the work that a write disturbs; OMA_CTRL (R185) and the device block disturb none. -/
def disturbWrite (s : State) (b : Blk) (xs : List FldVal) : State :=
  if xs.any (fun x => x.f == Reg.omaCtrl_overdueUs) && b == .landA then s else disturbBlock s b

/-- R524, R527: values reach fields: stored, then what they start, then what a refused one sets. -/
def putVals (rng : Bool) (s : State) (b : Blk) (xs : List FldVal) : State :=
  let ys := xs.filter (valTaken s b)
  let s1 := ys.foldl (storeVal b) s
  let s2 := ys.foldl (fieldEffect rng s b) s1
  (xs.filter (fun x => x.f.acc != .ro && !fieldTakes s b x)).foldl (fieldRefused b) s2

/-- R524: values reach the fields of a word (or of a two-word value); a write that is not ignored disturbs work. -/
def applyVals (rng : Bool) (s : State) (b : Blk) (xs : List FldVal) : State :=
  let s1 := putVals rng s b xs
  if writeTaken s b xs then disturbWrite s1 b xs else s1

/-- R524, R525: whether a field of a word whose writes are posted takes its value only with the word: an RWP field, or a WO
field that starts an action. -/
def heldBack (x : FldVal) : Bool := x.f.acc == .rwp || x.f.acc == .wo

/-- R521: the result of an alias write on an old value: 1 set, 2 clear, 3 toggle. -/
def aliasResult (how v d : Nat) : Nat :=
  if how = 1 then v ||| d else if how = 2 then v - (v &&& d) else v ^^^ d

/-- R521 to R523: the values that an alias write gives the RW, RWV and RWP fields of a word. -/
def aliasVals (s : State) (b : Blk) (how : Nat) (xs : List FldVal) : List FldVal :=
  (xs.filter (fun x => x.f.acc == .rw || x.f.acc == .rwv || x.f.acc == .rwp)).map (fun x =>
    { x with v := aliasResult how (valNow s b x) x.v })

/-- R523: an alias write is ignored where, after the range rules, it changes no field; else it acts as a plain write of
its result.  A refused result sets its flag where it differs from the value in force (log entry 51). -/
def applyAlias (rng : Bool) (s : State) (b : Blk) (how : Nat) (xs : List FldVal) : State :=
  let ys := (aliasVals s b how xs).filter (fun x => fieldTakes s b x || x.v != valNow s b x)
  if (ys.filter (fieldTakes s b)).all (fun x => x.v == valNow s b x) then
    (ys.filter (fun x => !fieldTakes s b x)).foldl (fieldRefused b) s
  else applyVals rng s b ys

/-! ### Posted writes (R525) -/

/-- R525: a posted write is taken: the values of its word, or of both words of a pair, apply. -/
def takeOne (rng : Bool) (s : State) (p : Posted) : State :=
  match blkOf p.addr with
  | none => s
  | some (b, r4) =>
    let r := r4 % 0x4000
    let how := r4 / 0x4000
    if isHigh b r then applyVals rng s b (wordVals b (r - 4) (p.data % 2 ^ 32) ++ wordVals b r (p.data / 2 ^ 32))
    else if how = 0 then
      let xs := wordVals b r p.data
      let s1 := putVals rng s b (xs.filter heldBack)
      if writeTaken s b xs then disturbWrite s1 b xs else s1
    else applyAlias rng s b how (wordVals b r p.data)

/-- R525: the domains take the posted writes that wait; how the start-up tests of a restarted DRBG end is a free
value. -/
def takePosted (s : State) : State :=
  s.posted.foldl (takeOne (Config.freeValue s.free % 2 == 1)) { s with posted := [], free := s.free + 1 }

/-- R339: whether an operation uses Cell `n`. -/
def cellUsed (s : State) (n : Nat) : Bool :=
  s.ops.any (fun o => o.ended.isNone && !o.parked && !o.away.contains n && (unitsUsed o.d).contains n)

/-- R339: an idle Cell stops its ACLK. -/
def stopIdle (s : State) : State :=
  let cells := s.cells.map (fun p => if cellUsed s p.1 then p else (p.1, { p.2 with stopped := true }))
  { s with cells := cells.filter (fun p => p.2 != cellIdle) }

/-! ### What one TCLK cycle brings (R338, R343, R544) -/

/-- R338, R544: a block takes the merge-class events that wait, and sees at least one of them: how many were absorbed is a free
value. -/
def mergeAt (s : State) (p : Nat × Nat) : State :=
  let k := Config.freeValue s.free % max 1 p.2
  let s1 := event (takeFree s) p.1 0x0F k
  if p.1 = landABase then countA s1 Reg.cdcMerged_count k
  else if p.1 = landBBase then countB s1 Reg.cdcMergedB_count k
  else s1

/-- R338: every block takes the merge-class events that wait. -/
def takeNotices (s : State) : State :=
  s.cross.notices.foldl mergeAt { s with cross := { s.cross with notices := [] } }

/-- R544: the reads and writes of a Yard or of a Mill's HBM in one cycle, whose number is a free value (log entry 43). -/
def countTraffic (s : State) (base : Nat) : State :=
  event (event { s with free := s.free + 2 } base 0x07 (Config.freeValue s.free)) base 0x08 (Config.freeValue (s.free + 1))

/-- R544: a block's clock runs for `f` FCLK or `a` ACLK cycles. -/
def blockCycles (f a : Nat) (s : State) (b : Blk) : State :=
  match b with
  | .dev => s
  | .cell n => if (cellGet s n).stopped then s else countTraffic (event s (blkBase b) 0x01 a) (blkBase b)
  | .mill _ => countTraffic (event s (blkBase b) 0x01 a) (blkBase b)
  | .landA => event s landABase 0x01 f
  | .landB => event s landBBase 0x01 f

/-- R539: the blocks in which a counter may count: those whose EVCTRL has been written. -/
def countingBlocks (s : State) : List Blk :=
  s.regs.filterMap (fun p => match blkOf p.1 with
    | some (b, r) => if r = 0x3F80 then some b else none
    | none => none)

/-- R336, R544, R579: the FCLK and ACLK cycles of one TCLK cycle: 2.2 of FCLK, and of ACLK as the governor's step says. -/
def tickClocks (s : State) : State :=
  let f := s.cross.fclk + 22
  let a := s.cross.aclk + 1650 + 50 * getD s Reg.pwrStatus_k
  (countingBlocks s).foldl (blockCycles (f / 10) (a / 1000))
    { s with cross := { s.cross with fclk := f % 10, aclk := a % 1000 } }

/-- R338, R343, R355, R525: one TCLK cycle with no command: the time unit counts, a due tick is taken, what crosses is taken,
and the posted writes are taken. -/
def idleCycle (s : State) : State :=
  let s1 := tickClocks (takeNotices (stopIdle (tickIfDue (tickTai s))))
  if s1.posted.isEmpty then s1 else takePosted s1

/-! ### Host writes (R515 to R528) -/

/-- R569: whether BAR 0 and BAR 2 are served: from the end of stage 1. -/
def hostLive (s : State) : Bool := decide (2 ≤ s.boot.stage)

/-- R519: whether the die of a block is awake; the device block always answers. -/
def dieAwake (s : State) : Blk → Bool
  | .dev => true
  | .cell n => bit (getD s Reg.dieReady_mills) (n / 32)
  | .mill m => bit (getD s Reg.dieReady_mills) m
  | .landA => getD s Reg.dieReady_landa == 1
  | .landB => getD s Reg.dieReady_landb == 1

/-- R525: BLOCK_STATUS.BUSY of a block. -/
def blkBusy (s : State) (b : Blk) : Bool := s.posted.any (fun p => (blkOf p.addr).map Prod.fst == some b)

/-- R526: whether the register at block offset `r4`, aliases included, has a BUSY field of its own that reads 1 while the
block's BUSY need not. -/
def ownBusy (s : State) (b : Blk) (r4 : Nat) : Bool :=
  b == .landA &&
    (let r := r4 % 0x4000
     (r == 0x1010 && getA s Reg.ctxCtrl_busy == 1) || (r == 0x3608 && getA s Reg.keyImport_busy == 1) ||
       (r == 0x320C && !s.tally.signing.isEmpty))

/-- R520: whether an access is an aligned one of 4 or 8 bytes. -/
def accessOk (off size : Nat) : Bool := (size == 4 && off % 4 == 0) || (size == 8 && off % 8 == 0)

/-- R520: the word accesses that an access is served as: offset and data. -/
def accessWords (off size data : Nat) : List (Nat × Nat) :=
  if size = 8 then [(off, data % 2 ^ 32), (off + 4, data / 2 ^ 32 % 2 ^ 32)] else [(off, data % 2 ^ 32)]

/-- A low word held aside until its high word is written (R533). -/
def holdLow (s : State) (a data : Nat) : State :=
  { s with heldLow := s.heldLow.filter (fun p => p.1 != a) ++ [(a, BitVec.ofNat 32 data)] }

/-- R533: the low word that a write of the high word at address `a + 4` applies. -/
def heldOf (s : State) (a : Nat) : Nat :=
  match s.heldLow.find? (fun p => p.1 == a) with
  | some p => p.2.toNat
  | none => wordOf s a

/-- A held low word is no longer held. -/
def dropLow (s : State) (a : Nat) : State := { s with heldLow := s.heldLow.filter (fun p => p.1 != a) }

/-- R533: a plain write of the high word of a pair: it applies with the held low word, or is posted. -/
def writeHigh (rng : Bool) (s : State) (b : Blk) (r data : Nat) : State :=
  let a := blkBase b + r
  let low := heldOf s (a - 4)
  let xs := wordVals b (r - 4) low ++ wordVals b r data
  if isPosted b r then { dropLow s (a - 4) with posted := s.posted ++ [⟨a, low + data * 2 ^ 32⟩] }
  else if writeTaken s b xs then applyVals rng (dropLow s (a - 4)) b xs
  else s

/-- R72, R320, R533: whether a low word may be held aside; TIME_SET (R352) is judged at its high word. -/
def lowTakes (s : State) (b : Blk) (xs : List FldVal) : Bool :=
  b == .landB || (xs.filter (fun x => x.f.acc != .ro)).any (fieldTakes s b)

/-- R518, R521 to R525, R533: a write of one word of a block that the busy gate let pass. -/
def writeWord (rng : Bool) (b : Blk) (s : State) (w : Nat × Nat) : State :=
  let r := w.1 % 0x4000
  let how := w.1 / 0x4000
  let xs := wordVals b r w.2
  if xs.isEmpty then s
  else if isLow b r || isHigh b r || (wideWords b).contains r then
    if how ≠ 0 then countF s (blkBase b) Reg.blockErr_badAccess 0 1
    else if isLow b r then (if lowTakes s b xs then holdLow s (blkBase b + r) w.2 else s)
    else if isHigh b r then writeHigh rng s b r w.2
    else applyVals rng s b xs
  else if isPosted b r then
    let s1 := if how = 0 then putVals rng s b (xs.filter (fun x => !heldBack x)) else s
    { s1 with posted := s1.posted ++ [⟨blkBase b + w.1, w.2⟩] }
  else if how = 0 then applyVals rng s b xs
  else applyAlias rng s b how xs

/-- R526: a write that met BUSY. -/
def dropWrite (s : State) (b : Blk) : State :=
  countF (setF s (blkBase b) Reg.blockStatus_dropped 0 1) (blkBase b) Reg.blockErr_busyWr 0 1

/-- R519, R520, R526: a host write to a block, at block offset `r4`. -/
def blkWrite (rng : Bool) (s : State) (b : Blk) (r4 size data : Nat) : State :=
  let ws := accessWords r4 size data
  if !dieAwake s b then countD s Reg.accessErr_notReady (if accessOk r4 size then ws.length else 1)
  else if !accessOk r4 size then countF s (blkBase b) Reg.blockErr_badAccess 0 1
  else if blkBusy s b || ws.any (fun w => ownBusy s b w.1) then dropWrite s b
  else ws.foldl (writeWord rng b) s

/-- R40: whether BAR 0 offset `x` lies in the doorbell pages. -/
def inPages (x : Nat) : Bool := decide (0x10000000 ≤ x ∧ x < 0x11100000)

/-- R40, R41, R43: a 4-byte write in a doorbell page. -/
def pageWrite (s : State) (w : Nat × Nat) : State :=
  let c := (w.1 - 0x10000000) / 0x1000
  if w.1 % 0x1000 = 0 then sqDoorbell s c w.2 else if w.1 % 0x1000 = 4 then cqDoorbell s c w.2 else s

/-- R515, R517, R520: a host write at BAR 0 offset `x`. -/
def bar0Write (rng : Bool) (s : State) (x size data : Nat) : State :=
  if 2 ^ 32 ≤ x then s
  else match blkOf (devBase + x) with
    | some (b, r4) => blkWrite rng s b r4 size data
    | none =>
      if !accessOk x size then countD s Reg.accessErr_unmapped 1
      else if inPages x then (accessWords x size data).foldl pageWrite s
      else countD s Reg.accessErr_unmapped (accessWords x size data).length

/-- R400, R410, R515: a host write at BAR 2 offset `x`. -/
def bar2Write (s : State) (x size data : Nat) : State :=
  if x < 0x8000 then semWrite s x size data
  else if 0x10000 ≤ x ∧ x < 0x11000 then
    if !accessOk x size then countA s Reg.semBadWr_count 1
    else if x % 0x40 = 0 then barrierWrite s ((x - 0x10000) / 0x40) (data % 2 ^ 32) else s
  else if x < 0x20000 then countD s Reg.accessErr_unmapped 1
  else s

/-- R515: a host write at BAR 4 offset `x`: the MSI-X table. -/
def bar4Write (s : State) (x size data : Nat) : State :=
  if x + size ≤ 0x8000 then { s with msixTable := memWriteAll s.msixTable (natWrites x size data) } else s

/-- R515: a host write over one of the windows. -/
def hostWrite (rng : Bool) (s : State) (bar off size data : Nat) : State :=
  if !hostLive s then s
  else if bar = 0 then bar0Write rng s off size data
  else if bar = 2 then bar2Write s off size data
  else if bar = 4 then bar4Write s off size data
  else s

/-- The outcome of the DRBG's start-up tests where no row names it: a free value. -/
def freeRng (s : State) : Bool := Config.freeValue s.free % 2 == 1

/-- REGISTER_WRITE (R524). -/
def execRegisterWrite (bar off size data : Nat) (s : State) : Host.Outcome State Fault Refusal :=
  .next (hostWrite (freeRng s) (takeFree s) bar off size data)

/-- ALIAS_WRITE (R521). -/
def execAliasWrite (bar off size data : Nat) (s : State) : Host.Outcome State Fault Refusal :=
  .next (hostWrite (freeRng s) (takeFree s) bar off size data)

/-! ### Rows that are a write of one register -/

/-- A 4-byte write of the word at block offset `r` arrives and, where it is posted, its domain takes it. -/
def rowWrite (rng : Bool) (s : State) (b : Blk) (r data : Nat) : State :=
  let s1 := hostWrite rng s 0 (blkBase b + r - devBase) 4 data
  s1.posted.foldl (takeOne rng) { s1 with posted := [] }

/-- The block of link or group that lies on Landing A or B. -/
def landBlk (onA : Bool) : Blk := if onA then .landA else .landB

/-- CTX_RESUME (R74). -/
def execCtxResume (ctx : Nat) (s : State) : Host.Outcome State Fault Refusal :=
  .next (rowWrite false s .landA 0x1010 (ctx % 8192 + 1 * 8192))

/-- CTX_RESUME_AT_HEAD (R74): the new head stands in CTX_NEW_HEAD. -/
def execCtxResumeAtHead (ctx : Nat) (s : State) : Host.Outcome State Fault Refusal :=
  .next (rowWrite false s .landA 0x1010 (ctx % 8192 + 2 * 8192))

/-- CTX_RESET (R74). -/
def execCtxReset (ctx : Nat) (s : State) : Host.Outcome State Fault Refusal :=
  .next (rowWrite false s .landA 0x1010 (ctx % 8192 + 3 * 8192))

/-- RING_DISABLE (R73). -/
def execRingDisable (s : State) : Host.Outcome State Fault Refusal := .next (rowWrite false s .landA 0x100C 0)

/-- JOB_SEED_HIGH_WRITE (R104). -/
def execJobSeedHighWrite (data : Nat) (s : State) : Host.Outcome State Fault Refusal :=
  .next (rowWrite false s .landA 0x1104 data)

/-- SCALER_ENABLE (R138): SCL_CTRL is written with ENABLE = 1. -/
def execScalerEnable (data : Nat) (s : State) : Host.Outcome State Fault Refusal :=
  .next (rowWrite false s .landA 0x1208 (data % 2 ^ 31 + 2 ^ 31))

/-- TICK_RUN_WRITE (R354): TICK_CTRL is written. -/
def execTickRunWrite (data : Nat) (s : State) : Host.Outcome State Fault Refusal :=
  .next (rowWrite false s .landA 0x1C00 data)

/-- TIME_SET (R352): the high word is written. -/
def execTimeSet (data : Nat) (s : State) : Host.Outcome State Fault Refusal :=
  .next (rowWrite false s .landB 0x1C1C data)

/-- SLOT_ENABLE (R360): SLOT_CTRL is written with ENABLE = 1. -/
def execSlotEnable (data : Nat) (s : State) : Host.Outcome State Fault Refusal :=
  .next (rowWrite false s .landA 0x1C28 (data % 2 ^ 31 + 2 ^ 31))

/-- AXIS_ENABLE (R317): AXIS_CTRL is written with ENABLE = 1. -/
def execAxisEnable (s : State) : Host.Outcome State Fault Refusal := .next (rowWrite false s .landA 0x1760 1)

/-- PANNIER_ENABLE (R321): the word of SLOTS, LIFO and NBLK is written with ENABLE = 1. -/
def execPannierEnable (channel data : Nat) (s : State) : Host.Outcome State Fault Refusal :=
  .next (if channel < 16 then rowWrite false s .landA (0x1814 + 0x40 * channel) (data % 2 ^ 31 + 2 ^ 31) else s)

/-- PANNIER_DISABLE (R325): the same word is written with ENABLE = 0; a transfer that runs ends first. -/
def execPannierDisable (channel data : Nat) (s : State) : Host.Outcome State Fault Refusal :=
  .next (if channel < 16 then rowWrite false s .landA (0x1814 + 0x40 * channel) (data % 2 ^ 31) else s)

/-- LINK_ENABLE_WRITE (R392): LINK_CTRL is written. -/
def execLinkEnableWrite (link data : Nat) (s : State) : Host.Outcome State Fault Refusal :=
  .next (if link < 96 then rowWrite false s (landBlk (link < 48)) (0x2024 + 0x40 * (link % 48)) data else s)

/-- GROUP_RETRAIN (R393): GROUP_CTRL is written with RETRAIN = 1. -/
def execGroupRetrain (group data : Nat) (s : State) : Host.Outcome State Fault Refusal :=
  .next (if group < 12 then rowWrite false s (landBlk (group < 6)) (0x2C00 + 0x10 * (group % 6)) (data ||| 0x20) else s)

/-- GROUP_MODE_WRITE (R380): GROUP_CTRL is written. -/
def execGroupModeWrite (group data : Nat) (s : State) : Host.Outcome State Fault Refusal :=
  .next (if group < 12 then rowWrite false s (landBlk (group < 6)) (0x2C00 + 0x10 * (group % 6)) data else s)

/-- STAND_ARM (R391): STAND_CTRL is written. -/
def execStandArm (data : Nat) (s : State) : Host.Outcome State Fault Refusal := .next (rowWrite false s .landA 0x2D00 data)

/-- FAR_SESSION_VALID_WRITE (R395): word 0 of a session is written. -/
def execFarSessionValidWrite (session data : Nat) (s : State) : Host.Outcome State Fault Refusal :=
  .next (if session < 64 then rowWrite false s .landA (0x2E00 + 0x10 * session) data else s)

/-- ROUTE_ENABLE (R423): ROUTE_CTRL is written with ENABLE = 1. -/
def execRouteEnable (data : Nat) (s : State) : Host.Outcome State Fault Refusal :=
  .next (rowWrite false s .landA 0x3400 (data ||| 2))

/-- KEY_IMPORT (R428): KEY_IMPORT is written. -/
def execKeyImport (data : Nat) (s : State) : Host.Outcome State Fault Refusal := .next (rowWrite false s .landA 0x3608 data)

/-- KEY_CLEAR (R431): KEY_CLEAR is written. -/
def execKeyClear (data : Nat) (s : State) : Host.Outcome State Fault Refusal := .next (rowWrite false s .landA 0x360C data)

/-- RNG_RESTART (R426): KERF_CTRL is written; `pass` says how the start-up tests end. -/
def execRngRestart (data : Nat) (pass : Bool) (s : State) : Host.Outcome State Fault Refusal :=
  .next (rowWrite pass s .landA 0x3684 data)

/-- KERF_STAGE_KEY (R443): word 1 of a session is written with NEXT_SLOT. -/
def execKerfStageKey (session slot : Nat) (s : State) : Host.Outcome State Fault Refusal :=
  .next (if session < 64 then rowWrite false s .landA (0x3704 + 0x10 * session) (slot % 256) else s)

/-- KERF_ROLL (R443): word 1 of a session is written with ROLL = 1, and NEXT_SLOT beside it. -/
def execKerfRoll (session slot : Nat) (s : State) : Host.Outcome State Fault Refusal :=
  .next (if session < 64 then rowWrite false s .landA (0x3704 + 0x10 * session) (slot % 256 + 2 ^ 9) else s)

/-- KERF_AUTH_HALT_CLEAR (R440): word 1 of a session is written with AUTH_HALT = 1, and NEXT_SLOT beside it. -/
def execKerfAuthHaltClear (session slot : Nat) (s : State) : Host.Outcome State Fault Refusal :=
  .next (if session < 64 then rowWrite false s .landA (0x3704 + 0x10 * session) (slot % 256 + 2 ^ 12) else s)

/-! ### Host reads (R517 to R520, R532) -/

/-- R535, R224, R184: the fields of a Cell or Mill that the machine forms when they are read. -/
def viewMill (s : State) (m : Nat) (f : Fld) : Option Nat :=
  if f = Reg.omaHeld_depth0 then some (heldBy s (2 * m))
  else if f = Reg.omaHeld_depth1 then some (heldBy s (2 * m + 1))
  else if f = Reg.truState_run then some (truRunCode s (s.ops.filter (onUnit m)))
  else if f = Reg.truState_parked then some (s.ops.countP (fun o => onUnit m o && o.parked))
  else none

/-- The fields of Landing A that the machine forms when they are read. -/
def viewA (s : State) (f : Fld) (k : Nat) : Option Nat :=
  if f = Reg.ovq_depth then some s.rings.ovq.length
  else if f = Reg.omaGroups_open then some s.groups.length
  else if f = Reg.jbLoop_active then some (loopsActive s)
  else if f = Reg.skidUsed_pages then some (skidPagesUsed s).length
  else if f = Reg.skidEntries_used then some s.skid.length
  else if f = Reg.timeNow_nsLo then some (s.time.tai % 2 ^ 32)
  else if f = Reg.timeNow_nsHi then some (s.time.tai / 2 ^ 32)
  else if f = Reg.ctxCtrl_busy then
    some (nat01 (getA s Reg.ctxCtrl_busy == 1 || s.posted.any (fun p => p.addr % 0x4000 == 0x1010 && decide (p.addr < landBBase))))
  else if f = Reg.linkCtrl_busy then
    some (nat01 (s.posted.any (fun p => p.addr % 0x4000 == 0x2024 + 0x40 * k && decide (landABase ≤ p.addr ∧ p.addr < landBBase))))
  else if f = Reg.far_unacked then some (farGet s k).num.retry.length
  else if f = Reg.keySlots_loaded then some s.keys.length
  else if f = Reg.sess_busy then some (nat01 (s.posted.any (fun p => p.addr % 0x4000 == 0x3704 + 0x10 * k)))
  else if f = Reg.rotReport_self then some (nat01 (isReporter s))
  else if f = Reg.tallySign_queued then some (s.tally.signing.length - 1)
  else if f = Reg.tallySign_busy then some (nat01 (!s.tally.signing.isEmpty))
  else if f = Reg.tallyState_open then some s.tally.recs.length
  else none

/-- The fields of Landing B that the machine forms when they are read. -/
def viewB (s : State) (f : Fld) (k : Nat) : Option Nat :=
  if f = Reg.holdover_sec then some (holdoverSec s)
  else if f = Reg.timeCtrl_busy then some (nat01 (s.posted.any (fun p => p.addr == landBBase + 0x1C1C)))
  else if f = Reg.linkCtrl_busy then
    some (nat01 (s.posted.any (fun p => p.addr % 0x4000 == 0x2024 + 0x40 * k && decide (landBBase ≤ p.addr))))
  else none

/-- The fields that the machine forms when they are read. -/
def viewFormed (s : State) (b : Blk) (f : Fld) (k : Nat) : Option Nat :=
  if f = Reg.blockId_kind then some (blockId b % 256)
  else if f = Reg.blockId_index then some (blockId b / 256)
  else if f = Reg.blockStatus_busy then some (nat01 (blkBusy s b))
  else match b with
    | .mill m => viewMill s m f
    | .landA => viewA s f k
    | .landB => viewB s f k
    | _ => none

/-- R524: a field as a read returns it: the value in force. -/
def viewField (s : State) (b : Blk) (f : Fld) (k : Nat) : Nat :=
  ((viewFormed s b f k).getD (getF s (blkBase b) f k)) % 2 ^ (f.hi + 1 - f.lo)

/-- R518, R524: the word that a read of block offset `r4` returns; an alias offset reads as its register. -/
def viewWord (s : State) (b : Blk) (r4 : Nat) : Nat :=
  let r := r4 % 0x4000
  (fldsAt b r).foldl (fun w f => w + viewField s b f (copyAt f r) * 2 ^ f.lo) 0

/-- The bytes of some words. -/
def wordBytes (ws : List Nat) : List Byte := ws.flatMap (leBytes 4)

/-- R519, R520: a host read of a block. -/
def blkRead (s : State) (b : Blk) (r4 size : Nat) : State :=
  let ws := accessWords r4 size 0
  if !dieAwake s b then
    answer (countD s Reg.accessErr_notReady (if accessOk r4 size then ws.length else 1)) (List.replicate size 0xFF) false
  else if !accessOk r4 size then
    answer (countF s (blkBase b) Reg.blockErr_badAccess 0 1) (List.replicate size 0) false
  else answer s (wordBytes (ws.map (fun w => viewWord s b w.1))) false

/-- R40: a word of a doorbell page; SQ_HEAD of a context that is not tracked, or whose load runs, is the one of its save
area. -/
def pageWord (s : State) (x : Nat) : Nat :=
  let c := (x - 0x10000000) / 0x1000
  if x % 0x1000 = 8 then
    (match findCtx s c with
     | some y => if y.loading then rdHost s (saveAddr s c + 0x40) 4 else y.sqHead
     | none => rdHost s (saveAddr s c + 0x40) 4)
  else if x % 0x1000 = 0xC then pageState s c
  else 0

/-- R515, R517, R520: a host read at BAR 0 offset `x`. -/
def bar0Read (s : State) (x size : Nat) : State :=
  let ws := accessWords x size 0
  match blkOf (devBase + x) with
  | some (b, r4) => blkRead s b r4 size
  | none =>
    if !accessOk x size then answer (countD s Reg.accessErr_unmapped 1) (List.replicate size 0) false
    else if inPages x then answer s (wordBytes (ws.map (fun w => pageWord s w.1))) false
    else answer (countD s Reg.accessErr_unmapped ws.length) (List.replicate size 0) false

/-- R410: a word of a barrier unit. -/
def barrierWord (s : State) (x : Nat) : Nat :=
  let u := barrierGet s ((x - 0x10000) / 0x40)
  if x % 0x40 = 0 then u.axes + nat01 u.valid * 2 ^ 31
  else if x % 0x40 = 8 then u.gen % 2 ^ 32
  else if x % 0x40 = 0xC then u.gen / 2 ^ 32
  else if x % 0x40 = 0x10 then nat01 u.arrived
  else 0

/-- R400, R410: a host read at BAR 2 offset `x`. -/
def bar2Read (s : State) (x size : Nat) : State :=
  let zero := List.replicate size (0 : Byte)
  if x < 0x8000 then
    if size = 8 ∧ x % 8 = 0 then answer s (leBytes 8 (semGet s (x / 8))) false
    else answer (countA s Reg.semBadWr_count 1) zero false
  else if 0x10000 ≤ x ∧ x < 0x11000 then
    if accessOk x size then answer s (wordBytes ((accessWords x size 0).map (fun w => barrierWord s w.1))) false
    else answer (countA s Reg.semBadWr_count 1) zero false
  else answer (countD s Reg.accessErr_unmapped 1) zero false

/-- R515: a host read over one of the windows; an access that no window serves changes nothing. -/
def hostRead (s : State) (bar off size : Nat) : State :=
  if !hostLive s then s
  else if bar = 0 ∧ off < 2 ^ 32 then bar0Read s off size
  else if bar = 2 ∧ off < 0x20000 then bar2Read s off size
  else if bar = 4 ∧ off < 0x10000 then answer s (memBytes s.msixTable off size) false
  else s

/-- REGISTER_READ (R517, R400). -/
def execRegisterRead (bar off size : Nat) (s : State) : Host.Outcome State Fault Refusal :=
  .next (hostRead s bar off size)

end Sys2Proof.Machine
end

