-- ==== Sys2Proof/Machine/Retire.lean ====
section
/-!
DEFINITION. The end of a retired granule's copy: the accesses that waited for it are served (R27).
-/

namespace Sys2Proof.Machine

/-- The offset and length of an access that waits. -/
def waitRange : HbmWait → Nat × Nat
  | .read off n _ => (off, n)
  | .write off d => (off, d.length)
  | .remote m =>
    match m.body with
    | .write off d _ => (off, d.length)
    | _ => (0, 0)

/-- R27: an access that waited is served. -/
def serveWait (s : State) (w : HbmWait) : State :=
  match w with
  | .read off n e => serveRead s off n e
  | .write off d => wrMem s (bytesWrites off d)
  | .remote m => deliverMsg s m 0 []

/-- RETIREMENT_COPY_DONE (R27): the accesses that waited for the granule are served from the spare slot. -/
def execRetirementCopyDone (granule : Nat) (s : State) : Host.Outcome State Fault Refusal :=
  .next (
    if !s.hbm.copying.contains granule then s
    else
      let s1 := { s with hbm := { s.hbm with copying := s.hbm.copying.filter (fun g => g != granule) } }
      let waits := fun (w : HbmWait) => accessWaits s1 (waitRange w).1 (waitRange w).2
      let s2 := { s1 with hbm := { s1.hbm with waiting := s1.hbm.waiting.filter waits } }
      (s1.hbm.waiting.filter (fun w => !waits w)).foldl serveWait s2)

end Sys2Proof.Machine
end

