-- ==== Sys2Proof/Machine/VecRun.lean ====
section
/-!
DEFINITION. The ends of vector units, and CHAIN and REDUCE_TREE as a whole: units written, and jointed-body batches that
waited for a Cell's vector unit (R165, R172, R176, R238).
-/

namespace Sys2Proof.Machine

/-- VECTOR_UNIT_DONE (R172): the unit that a Cell runs for an operation. -/
def execVectorUnitDone (cell ctx idx : Nat) (s : State) : Host.Outcome State Fault Refusal :=
  .next (match findOp s ctx idx with
    | none => s
    | some o =>
      if !opRuns o || unitsHeld s || (cellGet s cell).stopped then s
      else match (vecOf o).running.find? (fun u => cellOfUnit o.d u == cell) with
        | some u =>
          if opWaits s o then s
          else wakeBatches (onSide s ctx idx (fun t => holdTrain t (unitDone t o u) ctx idx)) cell
        | none => s)

/-- R172: what is left of a vector operation is done; batches that waited begin on its Cells (R238). -/
def vecWhole (s : State) (o : Op) : State :=
  (scopeCells o.d).foldl wakeBatches (onSide s o.ctx o.idx (fun t => holdTrain t (vecRunAll t o) o.ctx o.idx))

/-- CHAIN (R165). -/
def execChain (ctx idx : Nat) (s : State) : Host.Outcome State Fault Refusal := .next (onOp s ctx idx 0x0200 (vecWhole s))

/-- REDUCE_TREE (R176). -/
def execReduceTree (ctx idx : Nat) (s : State) : Host.Outcome State Fault Refusal := .next (onOp s ctx idx 0x0210 (vecWhole s))

end Sys2Proof.Machine
end

