-- ==== Sys2Proof/Machine/Dispatch.lean ====
section
/-!
DEFINITION. The dispatch of commands: one arm per constructor.
-/

namespace Sys2Proof.Machine

def exec (i : Instr) (s : State) : Host.Outcome State Fault Refusal :=
  match i with
  | .sqDoorbell ctx tail host => Sys2Proof.Machine.execSqDoorbell ctx tail host s
  | .contextLoadDone ctx => Sys2Proof.Machine.execContextLoadDone ctx s
  | .contextSpillDone ctx => Sys2Proof.Machine.execContextSpillDone ctx s
  | .overflowEntryLoad => Sys2Proof.Machine.execOverflowEntryLoad s
  | .cqDoorbell ctx head host => Sys2Proof.Machine.execCqDoorbell ctx head host s
  | .descriptorFetch ctx => Sys2Proof.Machine.execDescriptorFetch ctx s
  | .descriptorBegin ctx => Sys2Proof.Machine.execDescriptorBegin ctx s
  | .descriptorEnd ctx idx ecc => Sys2Proof.Machine.execDescriptorEnd ctx idx ecc s
  | .msixGapExpire vector => Sys2Proof.Machine.execMsixGapExpire vector s
  | .ctxResume ctx => Sys2Proof.Machine.execCtxResume ctx s
  | .ctxResumeAtHead ctx => Sys2Proof.Machine.execCtxResumeAtHead ctx s
  | .ctxReset ctx => Sys2Proof.Machine.execCtxReset ctx s
  | .ringDisable => Sys2Proof.Machine.execRingDisable s
  | .ringDrainEnd => Sys2Proof.Machine.execRingDrainEnd s
  | .nop ctx idx => Sys2Proof.Machine.execNop ctx idx s
  | .cxlMemRead off len ecc => Sys2Proof.Machine.execCxlMemRead off len ecc s
  | .cxlMemWrite off data => Sys2Proof.Machine.execCxlMemWrite off data s
  | .retirementCopyDone granule => Sys2Proof.Machine.execRetirementCopyDone granule s
  | .tickPathFail => Sys2Proof.Machine.execTickPathFail s
  | .jobSeedHighWrite data => Sys2Proof.Machine.execJobSeedHighWrite data s
  | .matmul ctx idx => Sys2Proof.Machine.execMatmul ctx idx s
  | .matmulPair ctx idx => Sys2Proof.Machine.execMatmulPair ctx idx s
  | .tileFillBegin cell => Sys2Proof.Machine.execTileFillBegin cell s
  | .tileFillEnd cell flips => Sys2Proof.Machine.execTileFillEnd cell flips s
  | .tileSumCheckDone cell => Sys2Proof.Machine.execTileSumCheckDone cell s
  | .tileDupCompareDone cell => Sys2Proof.Machine.execTileDupCompareDone cell s
  | .tileDrainEnd cell bank => Sys2Proof.Machine.execTileDrainEnd cell bank s
  | .level2RunEnd ctx idx alt => Sys2Proof.Machine.execLevel2RunEnd ctx idx alt s
  | .operationPark ctx idx progress => Sys2Proof.Machine.execOperationPark ctx idx progress s
  | .operationResume ctx idx => Sys2Proof.Machine.execOperationResume ctx idx s
  | .scalerEnable data => Sys2Proof.Machine.execScalerEnable data s
  | .chain ctx idx => Sys2Proof.Machine.execChain ctx idx s
  | .reduceTree ctx idx => Sys2Proof.Machine.execReduceTree ctx idx s
  | .sumOpen ctx idx => Sys2Proof.Machine.execSumOpen ctx idx s
  | .contribute ctx idx => Sys2Proof.Machine.execContribute ctx idx s
  | .vectorUnitDone cell ctx idx => Sys2Proof.Machine.execVectorUnitDone cell ctx idx s
  | .omaContribution group index line data src ctx idx => Sys2Proof.Machine.execOmaContribution group index line data src ctx idx s
  | .omaResendTimer group index line => Sys2Proof.Machine.execOmaResendTimer group index line s
  | .omaOverdue group line => Sys2Proof.Machine.execOmaOverdue group line s
  | .statFold ctx idx upsets => Sys2Proof.Machine.execStatFold ctx idx upsets s
  | .cholesky ctx idx upsets upset => Sys2Proof.Machine.execCholesky ctx idx upsets upset s
  | .ldlt ctx idx upsets upset => Sys2Proof.Machine.execLdlt ctx idx upsets upset s
  | .trsolve ctx idx upsets => Sys2Proof.Machine.execTrsolve ctx idx upsets s
  | .eig ctx idx upsets upset => Sys2Proof.Machine.execEig ctx idx upsets upset s
  | .invroot ctx idx upsets upset => Sys2Proof.Machine.execInvroot ctx idx upsets upset s
  | .truingWaitProceed ctx idx upsets upset => Sys2Proof.Machine.execTruingWaitProceed ctx idx upsets upset s
  | .invrootDeadline ctx idx iters => Sys2Proof.Machine.execInvrootDeadline ctx idx iters s
  | .envStep ctx idx => Sys2Proof.Machine.execEnvStep ctx idx s
  | .invDyn ctx idx => Sys2Proof.Machine.execInvDyn ctx idx s
  | .mass ctx idx => Sys2Proof.Machine.execMass ctx idx s
  | .envLoop ctx idx => Sys2Proof.Machine.execEnvLoop ctx idx s
  | .jbBatchDone cell ctx idx => Sys2Proof.Machine.execJbBatchDone cell ctx idx s
  | .envLoopStepBegin ctx idx => Sys2Proof.Machine.execEnvLoopStepBegin ctx idx s
  | .envLoopStepEnd ctx idx => Sys2Proof.Machine.execEnvLoopStepEnd ctx idx s
  | .copy ctx idx => Sys2Proof.Machine.execCopy ctx idx s
  | .prefetch ctx idx => Sys2Proof.Machine.execPrefetch ctx idx s
  | .evict ctx idx => Sys2Proof.Machine.execEvict ctx idx s
  | .yarderTransferDone ctx idx alt => Sys2Proof.Machine.execYarderTransferDone ctx idx alt s
  | .update ctx idx upsets => Sys2Proof.Machine.execUpdate ctx idx upsets s
  | .skidGrant => Sys2Proof.Machine.execSkidGrant s
  | .updateSkidApply ctx idx => Sys2Proof.Machine.execUpdateSkidApply ctx idx s
  | .replicaCmp ctx idx => Sys2Proof.Machine.execReplicaCmp ctx idx s
  | .replicaDigestReceive tag chip value => Sys2Proof.Machine.execReplicaDigestReceive tag chip value s
  | .exportOp ctx idx => Sys2Proof.Machine.execExport ctx idx s
  | .importOp ctx idx => Sys2Proof.Machine.execImport ctx idx s
  | .compress ctx idx upsets => Sys2Proof.Machine.execCompress ctx idx upsets s
  | .decompress ctx idx upsets => Sys2Proof.Machine.execDecompress ctx idx upsets s
  | .panelDecodeDone cell ctx idx stall => Sys2Proof.Machine.execPanelDecodeDone cell ctx idx stall s
  | .axisEnable => Sys2Proof.Machine.execAxisEnable s
  | .pannierEnable channel data => Sys2Proof.Machine.execPannierEnable channel data s
  | .pannierDisable channel data => Sys2Proof.Machine.execPannierDisable channel data s
  | .pannierSpillBegin channel => Sys2Proof.Machine.execPannierSpillBegin channel s
  | .pannierSpillDone channel => Sys2Proof.Machine.execPannierSpillDone channel s
  | .pannierFillBegin channel => Sys2Proof.Machine.execPannierFillBegin channel s
  | .pannierFillDone channel alt => Sys2Proof.Machine.execPannierFillDone channel alt s
  | .reshard ctx idx peers => Sys2Proof.Machine.execReshard ctx idx peers s
  | .derailleurPieceReceive piece => Sys2Proof.Machine.execDerailleurPieceReceive piece s
  | .derailleurRoundBegin ctx idx => Sys2Proof.Machine.execDerailleurRoundBegin ctx idx s
  | .tick => Sys2Proof.Machine.execTick s
  | .tickRunWrite data => Sys2Proof.Machine.execTickRunWrite data s
  | .tickWait ctx idx => Sys2Proof.Machine.execTickWait ctx idx s
  | .timeStamp ctx idx => Sys2Proof.Machine.execTimeStamp ctx idx s
  | .gnssPpsEdge => Sys2Proof.Machine.execGnssPpsEdge s
  | .gnssTodMessage message => Sys2Proof.Machine.execGnssTodMessage message s
  | .gnssPpsTimeout edge => Sys2Proof.Machine.execGnssPpsTimeout edge s
  | .timeExchangeTimer => Sys2Proof.Machine.execTimeExchangeTimer s
  | .timeFrame link kind seq stamp => Sys2Proof.Machine.execTimeFrame link kind seq stamp s
  | .leadFailover => Sys2Proof.Machine.execLeadFailover s
  | .ppsOutSecond => Sys2Proof.Machine.execPpsOutSecond s
  | .timeSet data => Sys2Proof.Machine.execTimeSet data s
  | .slotEnable data => Sys2Proof.Machine.execSlotEnable data s
  | .slotWindowOpen entry => Sys2Proof.Machine.execSlotWindowOpen entry s
  | .slotWindowClose entry => Sys2Proof.Machine.execSlotWindowClose entry s
  | .cellWake cell => Sys2Proof.Machine.execCellWake cell s
  | .frameSlot link session => Sys2Proof.Machine.execFrameSlot link session s
  | .frameReceive link corrected lost hit bytes msg => Sys2Proof.Machine.execFrameReceive link corrected lost hit bytes msg s
  | .retransmitTimeout far n => Sys2Proof.Machine.execRetransmitTimeout far n s
  | .farRouteLost session => Sys2Proof.Machine.execFarRouteLost session s
  | .farRouteReturn session => Sys2Proof.Machine.execFarRouteReturn session s
  | .linkTrainingDone link ok fast peerChip peerLink peerStand peerMode rtt => Sys2Proof.Machine.execLinkTrainingDone link ok fast peerChip peerLink peerStand peerMode rtt s
  | .linkSignalLoss link => Sys2Proof.Machine.execLinkSignalLoss link s
  | .linkRxTimeout link => Sys2Proof.Machine.execLinkRxTimeout link s
  | .linkEnableWrite link data => Sys2Proof.Machine.execLinkEnableWrite link data s
  | .groupRetrain group data => Sys2Proof.Machine.execGroupRetrain group data s
  | .groupModeWrite group data => Sys2Proof.Machine.execGroupModeWrite group data s
  | .standArm data => Sys2Proof.Machine.execStandArm data s
  | .farSessionValidWrite session data => Sys2Proof.Machine.execFarSessionValidWrite session data s
  | .routeEnable data => Sys2Proof.Machine.execRouteEnable data s
  | .semaphoreAdd off size data => Sys2Proof.Machine.execSemaphoreAdd off size data s
  | .semAdd ctx idx => Sys2Proof.Machine.execSemAdd ctx idx s
  | .semSet ctx idx => Sys2Proof.Machine.execSemSet ctx idx s
  | .barrier ctx idx => Sys2Proof.Machine.execBarrier ctx idx s
  | .barrierUnitWrite unit data => Sys2Proof.Machine.execBarrierUnitWrite unit data s
  | .chainContribution link op chan gen index value => Sys2Proof.Machine.execChainContribution link op chan gen index value s
  | .chainResult link op chan gen index value => Sys2Proof.Machine.execChainResult link op chan gen index value s
  | .chainRepeatTimer => Sys2Proof.Machine.execChainRepeatTimer s
  | .chainAnnounceTimer => Sys2Proof.Machine.execChainAnnounceTimer s
  | .chainAnnounce link rank state hopsLead hops0 chip active parent => Sys2Proof.Machine.execChainAnnounce link rank state hopsLead hops0 chip active parent s
  | .chainSettle => Sys2Proof.Machine.execChainSettle s
  | .standFaultFrame link chip faultLink cause => Sys2Proof.Machine.execStandFaultFrame link chip faultLink cause s
  | .allReduce ctx idx peers => Sys2Proof.Machine.execAllReduce ctx idx peers s
  | .reduceScatter ctx idx peers => Sys2Proof.Machine.execReduceScatter ctx idx peers s
  | .allGather ctx idx peers => Sys2Proof.Machine.execAllGather ctx idx peers s
  | .permute ctx idx peers => Sys2Proof.Machine.execPermute ctx idx peers s
  | .keyImport data => Sys2Proof.Machine.execKeyImport data s
  | .keyImportDone readOk oaepOk message => Sys2Proof.Machine.execKeyImportDone readOk oaepOk message s
  | .keyClear data => Sys2Proof.Machine.execKeyClear data s
  | .entropyHealthFail => Sys2Proof.Machine.execEntropyHealthFail s
  | .rngRestart data pass => Sys2Proof.Machine.execRngRestart data pass s
  | .kerfStageKey session slot => Sys2Proof.Machine.execKerfStageKey session slot s
  | .kerfRoll session slot => Sys2Proof.Machine.execKerfRoll session slot s
  | .kerfGraceExpire session => Sys2Proof.Machine.execKerfGraceExpire session s
  | .kerfAuthHaltClear session slot => Sys2Proof.Machine.execKerfAuthHaltClear session slot s
  | .form ctx idx => Sys2Proof.Machine.execForm ctx idx s
  | .merge ctx idx => Sys2Proof.Machine.execMerge ctx idx s
  | .mergeCutoff ctx idx => Sys2Proof.Machine.execMergeCutoff ctx idx s
  | .rotationBundleReceive bundle again => Sys2Proof.Machine.execRotationBundleReceive bundle again s
  | .mergeMaskReceive rotation chip masks digest => Sys2Proof.Machine.execMergeMaskReceive rotation chip masks digest s
  | .mergeSetReceive rotation sealed used => Sys2Proof.Machine.execMergeSetReceive rotation sealed used s
  | .apply ctx idx => Sys2Proof.Machine.execApply ctx idx s
  | .basis ctx idx factors => Sys2Proof.Machine.execBasis ctx idx factors s
  | .ledgerEntryWrite digests => Sys2Proof.Machine.execLedgerEntryWrite digests s
  | .ledgerEntryReceive entry => Sys2Proof.Machine.execLedgerEntryReceive entry s
  | .partnerJoin ctx idx => Sys2Proof.Machine.execPartnerJoin ctx idx s
  | .partnerSplit ctx idx highest => Sys2Proof.Machine.execPartnerSplit ctx idx highest s
  | .partnerDrop ctx idx => Sys2Proof.Machine.execPartnerDrop ctx idx s
  | .heal ctx idx anchors digests shards => Sys2Proof.Machine.execHeal ctx idx anchors digests shards s
  | .joinCheck ctx idx digests => Sys2Proof.Machine.execJoinCheck ctx idx digests s
  | .tallyOpen ctx idx => Sys2Proof.Machine.execTallyOpen ctx idx s
  | .tallyClose ctx idx => Sys2Proof.Machine.execTallyClose ctx idx s
  | .digest ctx idx => Sys2Proof.Machine.execDigest ctx idx s
  | .attest ctx idx => Sys2Proof.Machine.execAttest ctx idx s
  | .tallySignDone => Sys2Proof.Machine.execTallySignDone s
  | .voteScrub a upsets => Sys2Proof.Machine.execVoteScrub a upsets s
  | .registerWrite bar off size data => Sys2Proof.Machine.execRegisterWrite bar off size data s
  | .aliasWrite bar off size data => Sys2Proof.Machine.execAliasWrite bar off size data s
  | .eventDump => Sys2Proof.Machine.execEventDump s
  | .perstRelease => Sys2Proof.Machine.execPerstRelease s
  | .perstAssert => Sys2Proof.Machine.execPerstAssert s
  | .cxlHotReset => Sys2Proof.Machine.execCxlHotReset s
  | .bootStageEnd ns outcome => Sys2Proof.Machine.execBootStageEnd ns outcome s
  | .fwStartTimeout ns a b => Sys2Proof.Machine.execFwStartTimeout ns a b s
  | .partRecordWrite first second => Sys2Proof.Machine.execPartRecordWrite first second s
  | .getFwInfo => Sys2Proof.Machine.execGetFwInfo s
  | .transferFw slot off data last found => Sys2Proof.Machine.execTransferFw slot off data last found s
  | .activateFw online slot found => Sys2Proof.Machine.execActivateFw online slot found s
  | .readBootLog => Sys2Proof.Machine.execReadBootLog s
  | .readPartInfo => Sys2Proof.Machine.execReadPartInfo s
  | .writeSetting item value => Sys2Proof.Machine.execWriteSetting item value s
  | .mailboxUnsupported opcode => Sys2Proof.Machine.execMailboxUnsupported opcode s
  | .governorWindow watts tj => Sys2Proof.Machine.execGovernorWindow watts tj s
  | .avsComplete => Sys2Proof.Machine.execAvsComplete s
  | .brakeBegin uv => Sys2Proof.Machine.execBrakeBegin uv s
  | .brakeEnd uv => Sys2Proof.Machine.execBrakeEnd uv s
  | .railReset uv => Sys2Proof.Machine.execRailReset uv s
  | .temperatureCrossing tj hbm => Sys2Proof.Machine.execTemperatureCrossing tj hbm s
  | .i3cPrivateRead => Sys2Proof.Machine.execI3cPrivateRead s
  | .i3cPrivateWrite data => Sys2Proof.Machine.execI3cPrivateWrite data s
  | .bypass => Sys2Proof.Machine.execBypass s
  | .idcode => Sys2Proof.Machine.execIdcode s
  | .samplePreload pins preload => Sys2Proof.Machine.execSamplePreload pins preload s
  | .extest pins => Sys2Proof.Machine.execExtest pins s
  | .clamp => Sys2Proof.Machine.execClamp s
  | .highz => Sys2Proof.Machine.execHighz s
  | .railsInBand uv => Sys2Proof.Machine.execRailsInBand uv s
  | .registerRead bar off size => Sys2Proof.Machine.execRegisterRead bar off size s
  | .skidCopyDone => Sys2Proof.Machine.execSkidCopyDone s

end Sys2Proof.Machine
end

