-- ==== Sys2Proof/Safety.lean ====
section
/-!
DEFINITION. What a safe run is, in the terms that the statements use: every sparse part of the state is in its canonical form, and no
step stops.
-/

namespace Sys2Proof.Machine

/-- One copy of the registers is in canonical form: addresses rise, and no word listed holds its reset value. -/
def regsWf (m : List (Nat × Word)) : Bool := sparseWf resetWord m

/-- The registers, the memories and every table kept by number are in canonical form. -/
def State.canonical (s : State) : Bool :=
  regsWf s.regs && regsWf s.regs1 && regsWf s.regs2 && memWf s.mem && memWf s.hostMem && memWf s.flash &&
    memWf s.msixTable && sparseWf (fun _ => 0) s.sems && sparseWf (fun _ => cellIdle) s.cells &&
    sparseWf (fun _ => fmtCountsZero) s.sclFmt && sparseWf (fun _ => 0) s.sawRest &&
    sparseWf (fun _ => barrierIdle) s.barriers && sparseWf (fun _ => linkIdle) s.links &&
    sparseWf (fun _ => farIdle) s.far && sparseWf (fun _ => panIdle) s.pan && sparseWf (fun _ => 0) s.kerfOps &&
    sparseWf (fun _ => 0) s.sclLate && sparseWf (fun _ => fmtCountsZero) s.sclFmtLate

/-- An outcome that goes on: neither a fault nor a refusal. -/
def goesOn (o : Host.Outcome State Fault Refusal) : Prop := ∃ t, o = .next t

/-- Whether every field of a frame fits the bits that R370 gives it, and its TYPE is a valid one. -/
def frameFits (f : Frame) : Prop :=
  f.type ≤ 2 ∧ f.seq < 2 ^ 24 ∧ f.ack < 2 ^ 24 ∧ f.len < 2 ^ 10 ∧ f.epoch < 2 ^ 8 ∧ f.cls < 2 ^ 8 ∧ f.chip < 2 ^ 16 ∧
    f.stand < 2 ^ 6 ∧ f.session < 2 ^ 10

/-- Whether every field of a Chain frame fits the bits that R403 gives it. -/
def chainFits : ChainFrame → Prop
  | .empty => True
  | .contrib op chan gen index v => op < 4 ∧ chan < 2 ^ 8 ∧ gen < 2 ^ 16 ∧ index < 2 ^ 10 ∧ v < 2 ^ 32
  | .result op chan gen index v => op < 4 ∧ chan < 2 ^ 8 ∧ gen < 2 ^ 16 ∧ index < 2 ^ 10 ∧ v < 2 ^ 32
  | .fault chip link cause => chip < 2 ^ 16 ∧ link < 2 ^ 7 ∧ cause < 2 ^ 4
  | .time kind seq stamp => (kind = 4 ∨ kind = 5 ∨ kind = 6) ∧ seq < 2 ^ 12 ∧ stamp < 2 ^ 64
  | .announce rank state hopsLead hops0 chip active parent => rank < 4 ∧ state < 8 ∧ hopsLead < 2 ^ 11 ∧
      hops0 < 2 ^ 11 ∧ chip < 2 ^ 16 ∧ active < 2 ^ 16 ∧ parent < 2 ^ 16

/-- Whether every field of a segment header fits the bits that R289 gives it, and its format and block size are valid ones. -/
def segHdrFits (h : SegHdr) : Prop :=
  h.efmt ≤ 6 ∧ 2 ≤ h.blog ∧ h.blog ≤ 8 ∧ h.tensor < 2 ^ 28 ∧ h.nrows < 2 ^ 24 ∧ h.ncols < 2 ^ 24 ∧ h.row0 < 2 ^ 24 ∧
    h.col0 < 2 ^ 24 ∧ h.gcols < 2 ^ 24 ∧ h.rotation < 2 ^ 64 ∧ h.xl < 2 ^ 10 ∧ h.xr < 2 ^ 10 ∧ h.genL < 2 ^ 32 ∧
    h.genR < 2 ^ 32 ∧ h.nrows * h.ncols < 2 ^ 32 ∧ (h.mx = true → h.ncols % 32 = 0)

/-- Whether the block answers host writes to the registers of a block at once: the windows are served, its die is awake,
and no posted write waits. -/
def State.takesWrites (s : State) (b : Blk) : Bool := hostLive s && dieAwake s b && s.posted.isEmpty

/-- The state after some commands have run in order; none where one of them stops. -/
def runCommands : List Instr → State → Option State
  | [], s => some s
  | c :: r, s =>
    match exec c s with
    | .next t => runCommands r t
    | _ => none

end Sys2Proof.Machine
end

