-- ==== Sys2Proof/Certificates/Slice0/Obligations.lean ====
section
/-!
DEFINITION. The statements about the model, for the provers: one Prop per obligation of OBLIGATIONS.json.
-/

open Sys2Proof Sys2Proof.Machine

/-- R524, R561: A step runs the command at the front of the queue. -/
def Obligations.StepRunsFrontCommand : Prop :=
  ∀ (c : Instr) (rest : List Instr) (s : State),
    step { s with pending := c :: rest } = exec c { s with pending := rest } ∧
    step { s with pending := [] } = .next (idleCycle { s with pending := [] })

/-- R62, R528, R570: No command stops: every one leads to a next state, and leaves the queue and the chip's place alone.
-/
def Obligations.EveryCommandGoesOn : Prop :=
  ∀ (c : Instr) (s : State), ∃ t, exec c s = .next t ∧ t.pending = s.pending ∧ t.chip = s.chip ∧ t.stand = s.stand ∧
    s.free ≤ t.free ∧ (s.canonical = true → t.canonical = true)

/-- R17, R520, R561: Every step keeps the canonical form of the registers, the memories and the tables. -/
def Obligations.CanonicalFormIsInvariant : Prop :=
  ∀ s t : State, s.canonical = true → step s = .next t → t.canonical = true

/-- R17, R520, R561, R565, R587, R588: The state after reset: in canonical form, in reset, nothing in flight, and the
registers at the reset values that their tables give. -/
def Obligations.ResetIsCanonical : Prop :=
  State.reset.canonical = true ∧ State.reset.pending = [] ∧ State.reset.posted = [] ∧ State.reset.ops = [] ∧
    State.reset.rings.ctxs = [] ∧ State.reset.boot.perst = true ∧ State.reset.boot.stage = 0 ∧
    getA State.reset Reg.omaCtrl_overdueUs = 100 ∧ (∀ a, a < 6 → getF State.reset landABase Reg.axis_len a = 1) ∧
    getA State.reset Reg.tickCtrl_period = 5 ∧ getB State.reset Reg.timeCtrl_ppsWidth = 10 ∧
    (∀ g, g < 12 → getG State.reset Reg.groupCtrl_minLinks g = 8) ∧
    (∀ k, k < 64 → sessF State.reset Reg.far_secondary k = 15 ∧ sessF State.reset Reg.sess_graceMs k = 100) ∧
    getA State.reset Reg.rotCtrl_h = 1 ∧ getA State.reset Reg.rotCtrl2_graftWindow = 32 ∧
    getD State.reset Reg.devId_stepping = 1 ∧ getD State.reset Reg.devSize_cells = 128 ∧
    getD State.reset Reg.devSize_links = 96 ∧ getD State.reset Reg.pwrCtrl_cap = 850 ∧
    getD State.reset Reg.pwrCtrl_aclkMax = 33 ∧ getD State.reset Reg.pwrCtrl_tjLimit = 100 ∧
    getD State.reset Reg.pwrStatus_k = 33 ∧ State.reset.power.k = 33

/-- R41: A valid submission doorbell is accepted: the context's tail becomes T. -/
def Obligations.SubmissionDoorbellTakesTail : Prop :=
  ∀ (s : State) (c t : Nat) (host : List (Nat × List Byte)) (x : Ctx),
    c < getA s Reg.ctxCount_count → getA s Reg.ringCtrl_enable = 1 → findCtx s c = some x → x.loading = false →
    (x.sqTail + 2 ^ 32 - x.sqHead) % 2 ^ 32 ≤ (t % 2 ^ 32 + 2 ^ 32 - x.sqHead) % 2 ^ 32 →
    (t % 2 ^ 32 + 2 ^ 32 - x.sqHead) % 2 ^ 32 ≤ 2 ^ x.sqOrder →
    ∃ u, exec (.sqDoorbell c t host) s = .next u ∧
      findCtx u c = some { x with sqTail := t % 2 ^ 32, lastUse := s.rings.useClock + 1
                                  spilling := if x.spilling = 1 ∧ x.sqTail ≠ t % 2 ^ 32 then 2 else x.spilling } ∧
      (∀ k, k ≠ c → findCtx u k = findCtx s k) ∧
      u.rings = { s.rings with ctxs := u.rings.ctxs, useClock := s.rings.useClock + 1, idled := u.rings.idled } ∧
      u = { s with hostMem := memWriteAll s.hostMem (host.flatMap (fun w => bytesWrites w.1 w.2)), rings := u.rings
                   cross := (noteMerge s landABase).cross }

/-- R42: A submission doorbell that is not valid writes a CTX_FAULT entry with code 0x06 and halts the context. -/
def Obligations.SubmissionDoorbellRefused : Prop :=
  ∀ (s : State) (c t : Nat) (host : List (Nat × List Byte)) (x : Ctx),
    c < getA s Reg.ctxCount_count → getA s Reg.ringCtrl_enable = 1 → findCtx s c = some x → x.loading = false →
    ¬ ((x.sqTail + 2 ^ 32 - x.sqHead) % 2 ^ 32 ≤ (t % 2 ^ 32 + 2 ^ 32 - x.sqHead) % 2 ^ 32 ∧
      (t % 2 ^ 32 + 2 ^ 32 - x.sqHead) % 2 ^ 32 ≤ 2 ^ x.sqOrder) →
    ∃ u y, exec (.sqDoorbell c t host) s = .next u ∧ findCtx u c = some y ∧ y.halted = true ∧
      y = { x with halted := true, cqTail := (x.cqTail + 1) % 2 ^ 32, lastUse := y.lastUse } ∧
      u.hostMem = memWriteAll (memWriteAll s.hostMem (host.flatMap (fun w => bytesWrites w.1 w.2)))
        (bytesWrites (x.cqBase + (x.cqTail % 2 ^ x.cqOrder) * 32) (entryBytes s x
          ⟨t % 2 ^ 32, .ctxFault, true, false, true, 0, 0x06, false⟩)) ∧
      (∀ k, k ≠ c → findCtx u k = findCtx s k) ∧ u = { s with hostMem := u.hostMem, rings := u.rings, cross := u.cross }

/-- R44: A doorbell at or above CTX_COUNT, or with ENABLE 0, is ignored and counted in DB_IGNORED. -/
def Obligations.DoorbellsOutsideServiceIgnored : Prop :=
  ∀ (s : State) (c v : Nat) (host : List (Nat × List Byte)),
    (getA s Reg.ctxCount_count ≤ c ∨ getA s Reg.ringCtrl_enable = 0) →
    ∃ u, exec (.sqDoorbell c v host) s = .next u ∧ exec (.cqDoorbell c v host) s = .next u ∧
      u = { s with hostMem := memWriteAll s.hostMem (host.flatMap (fun w => bytesWrites w.1 w.2)), regs := u.regs
                   cross := (noteMerge s landABase).cross } ∧
      u.regs = (countA s Reg.dbIgnored_count 1).regs ∧
      (s.canonical = true → getA u Reg.dbIgnored_count = min (2 ^ 32 - 1) (getA s Reg.dbIgnored_count + 1))

/-- R43: A completion doorbell is valid up to the completion tail; one beyond it is counted and ignored. -/
def Obligations.CompletionDoorbellMovesHead : Prop :=
  ∀ (s : State) (c v : Nat) (host : List (Nat × List Byte)) (x : Ctx),
    c < getA s Reg.ctxCount_count → getA s Reg.ringCtrl_enable = 1 → findCtx s c = some x → x.loading = false →
    ((v % 2 ^ 32 + 2 ^ 32 - x.cqHead) % 2 ^ 32 ≤ (x.cqTail + 2 ^ 32 - x.cqHead) % 2 ^ 32 →
      ∃ u, exec (.cqDoorbell c v host) s = .next u ∧
        findCtx u c = some { x with cqHead := v % 2 ^ 32, lastUse := s.rings.useClock + 1 } ∧
        (∀ k, k ≠ c → findCtx u k = findCtx s k) ∧
        u = { s with hostMem := memWriteAll s.hostMem (host.flatMap (fun w => bytesWrites w.1 w.2)), rings := u.rings
                     cross := (noteMerge s landABase).cross }) ∧
    (¬ (v % 2 ^ 32 + 2 ^ 32 - x.cqHead) % 2 ^ 32 ≤ (x.cqTail + 2 ^ 32 - x.cqHead) % 2 ^ 32 →
      ∃ u, exec (.cqDoorbell c v host) s = .next u ∧ u.rings = s.rings ∧
        (s.canonical = true → getA u Reg.dbIgnored_count = min (2 ^ 32 - 1) (getA s Reg.dbIgnored_count + 1)) ∧
        u = { s with hostMem := memWriteAll s.hostMem (host.flatMap (fun w => bytesWrites w.1 w.2))
                     regs := (countA s Reg.dbIgnored_count 1).regs, cross := (noteMerge s landABase).cross })

/-- R34, R35, R38, R67, R69, R70, R598: CONTEXT_LOAD_DONE, CONTEXT_SPILL_DONE, OVERFLOW_ENTRY_LOAD and the doorbells of
contexts that are loading or not tracked. -/
def Obligations.ContextLoadSpillAndQueue : Prop :=
  (∀ (s : State) (c : Nat) (x : Ctx), findCtx s c = some x → x.loading = true →
    (hostPartOk s c = true → (devicePartZero s c = true ∨ checkOk s c = true) →
      ∃ u y, exec (.contextLoadDone c) s = .next u ∧ findCtx u c = some y ∧ y.loading = false ∧
        y.sqBase = rdHost s (saveAddr s c) 8 ∧ y.cqBase = rdHost s (saveAddr s c + 8) 8 ∧
        y.sqOrder = rdHost s (saveAddr s c + 0x10) 1 ∧ y.cqOrder = rdHost s (saveAddr s c + 0x11) 1 ∧
        y.vector = rdHost s (saveAddr s c + 0x12) 2 ∧ y.sqHead = rdHost s (saveAddr s c + 0x40) 4 ∧
        y.cqHead = rdHost s (saveAddr s c + 0x4C) 4 ∧ y.held = savedHeld s c ∧
        (∀ k, k ≠ c → findCtx u k = findCtx s k) ∧ u = { s with hostMem := u.hostMem, rings := u.rings, cross := u.cross }) ∧
    (hostPartOk s c = false →
      ∃ u, exec (.contextLoadDone c) s = .next u ∧ findCtx u c = none ∧ u.rings.refused.contains c = true ∧
        (∀ k, k ≠ c → findCtx u k = findCtx s k) ∧
        (s.canonical = true → getA u Reg.dbIgnored_count = min (2 ^ 32 - 1) (getA s Reg.dbIgnored_count + 1)) ∧
        u = { s with rings := u.rings, regs := (countA s Reg.dbIgnored_count 1).regs }) ∧
    (hostPartOk s c = true → devicePartZero s c = false → checkOk s c = false →
      ∃ u y, exec (.contextLoadDone c) s = .next u ∧ findCtx u c = some y ∧ y.halted = true ∧ y.loading = false ∧
        y.sqHead = 0 ∧ y.sqTail = 0 ∧ y.cqHead = 0 ∧ y.cqTail = 1 ∧ y.held = [] ∧
        u.hostMem = memWriteAll s.hostMem (bytesWrites (rdHost s (saveAddr s c + 8) 8)
          (entryBytes s { ctxOfSave s c with sqHead := 0, sqTail := 0, cqTail := 0, cqHead := 0, halted := false }
            ⟨x.tails.headD 0 % 2 ^ 32, .ctxFault, true, false, true, 0, 0x07, false⟩)) ∧
        (∀ k, k ≠ c → findCtx u k = findCtx s k) ∧ u = { s with hostMem := u.hostMem, rings := u.rings, cross := u.cross })) ∧
    (∀ (s : State) (c : Nat) (x : Ctx), findCtx s c = some x → x.spilling ≠ 0 → ctxBusy s c = false →
      ∃ u, exec (.contextSpillDone c) s = .next u ∧ findCtx u c = none ∧ (∀ k, k ≠ c → findCtx u k = findCtx s k) ∧
        u.hostMem = (writeSave s x (if x.halted then 5 else if x.spilling = 2 then 4 else 0)).hostMem ∧
        u.rings.ovq = (if x.spilling = 2 then s.rings.ovq ++ [⟨c, true, x.sqTail, x.lastUse⟩] else s.rings.ovq) ∧
        (s.canonical = true → getA u Reg.ctxSpills_count = min (2 ^ 32 - 1) (getA s Reg.ctxSpills_count + 1)) ∧
        u = { s with hostMem := u.hostMem, rings := u.rings, regs := u.regs }) ∧
    (∀ (s : State) (e : OvqEntry), s.rings.ovq.find? (entryReady s) = some e →
      (placesUsed s < 256 →
        exec .overflowEntryLoad s = .next { s with rings := { s.rings with
          ovq := s.rings.ovq.filter (fun f => f.ctx != e.ctx)
          ctxs := s.rings.ctxs ++ [loadingCtx e.ctx [e.tail] e.use] } }) ∧
      (∀ v, 256 ≤ placesUsed s → idleVictim s = some v →
        ∃ u, exec .overflowEntryLoad s = .next u ∧ u = { s with rings := u.rings } ∧
          u.rings.ovq = s.rings.ovq.filter (fun f => f.ctx != e.ctx) ∧
          u.rings.ctxs = s.rings.ctxs.map (fun x => if x.num == v.num then { x with spilling := 1 } else x) ++
            [loadingCtx e.ctx [e.tail] e.use])) ∧
    (∀ (s : State) (c t : Nat) (host : List (Nat × List Byte)), c < getA s Reg.ctxCount_count →
      getA s Reg.ringCtrl_enable = 1 →
      (∀ x, findCtx s c = some x → x.loading = true →
        ∃ u, exec (.sqDoorbell c t host) s = .next u ∧
          findCtx u c = some { x with tails := x.tails ++ [t], lastUse := s.rings.useClock + 1 } ∧
          (∀ k, k ≠ c → findCtx u k = findCtx s k) ∧
          u = { noteMerge (hostWrites s host) landABase with rings := u.rings }) ∧
      (findCtx s c = none → s.rings.ovq.any (fun e => e.ctx == c) = false → placesUsed s < 256 →
        exec (.sqDoorbell c t host) s = .next { noteMerge (hostWrites s host) landABase with rings := { s.rings with
          ctxs := s.rings.ctxs ++ [loadingCtx c [t % 2 ^ 32] (s.rings.useClock + 1)]
          useClock := s.rings.useClock + 1 } }) ∧
      (findCtx s c = none → s.rings.ovq.any (fun e => e.ctx == c) = false → makePlace s = none →
        ∃ u, exec (.sqDoorbell c t host) s = .next u ∧ u.rings.ctxs = s.rings.ctxs ∧
          u.rings.ovq = s.rings.ovq ++ [⟨c, false, t % 2 ^ 32, s.rings.useClock + 1⟩] ∧
          (s.canonical = true → getA u Reg.ctxOverflow_count = min (2 ^ 32 - 1) (getA s Reg.ctxOverflow_count + 1)) ∧
          u = { noteMerge (hostWrites s host) landABase with rings := u.rings, regs := u.regs }))

/-- R33, R36, R45, R51: DESCRIPTOR_FETCH copies the next descriptor whole and moves SQ_HEAD; one that fails its checks
ends with CTX_FAULT. -/
def Obligations.DescriptorFetchHoldsCopy : Prop :=
  ∀ (s : State) (c : Nat) (x : Ctx), findCtx s c = some x → mayFetch s x = true →
    let d : Desc := BitVec.ofNat 1024 (rdHost s (x.sqBase + (x.sqHead % 2 ^ x.sqOrder) * 128) 128)
    (fetchFault s c d = none →
      ∃ u, exec (.descriptorFetch c) s = .next u ∧
        findCtx u c = some { x with sqHead := (x.sqHead + 1) % 2 ^ 32, held := x.held ++ [⟨x.sqHead, d⟩] } ∧
        (∀ k, k ≠ c → findCtx u k = findCtx s k) ∧ u = { s with rings := u.rings } ∧
        u.rings = { s.rings with ctxs := u.rings.ctxs }) ∧
    (∀ f, fetchFault s c d = some f → slotsFree x ≠ 0 →
      ∃ u y, exec (.descriptorFetch c) s = .next u ∧ findCtx u c = some y ∧ y.halted = true ∧
        y.sqHead = (x.sqHead + 1) % 2 ^ 32 ∧ y.cqTail = (x.cqTail + 1) % 2 ^ 32 ∧ y.held = x.held ∧
        (∀ n, s.canonical = true → semGet u n = if descSignals d .ctxFault = true ∧ n = dSignalId d then
          (semGet s n + dSignalValue d) % 2 ^ 64 else semGet s n) ∧
        (∀ k, k ≠ c → findCtx u k = findCtx s k) ∧
        u.hostMem = memWriteAll s.hostMem (bytesWrites (x.cqBase + (x.cqTail % 2 ^ x.cqOrder) * 32)
          (entryBytes s { x with sqHead := y.sqHead } ⟨x.sqHead, .ctxFault, true, descSignals d .ctxFault, true, dTag d, f, dNotify d⟩)) ∧
        u = { s with hostMem := u.hostMem, rings := u.rings, sems := u.sems, cross := u.cross })

/-- R53, R54, R57, R58, R60, R61, R66, R73, R491, R505: DESCRIPTOR_BEGIN, NOP, DESCRIPTOR_END, MSIX_GAP_EXPIRE and
RING_DRAIN_END: what each of them changes. -/
def Obligations.DescriptorBeginAndEnd : Prop :=
  (∀ (s : State) (c : Nat) (x : Ctx) (h : Held), findCtx s c = some x → eligible s x = some h →
      parkedBefore s h.d = false → strictBefore s h.d = false → splitRecord s = none → dOpcode h.d / 256 = 0x0F →
      dOpcode h.d ≠ 0x0F11 → checkLevel h.d ≠ 2 → findOp s c h.idx = none →
      ∃ u, exec (.descriptorBegin c) s = .next u ∧
        findCtx u c = some { x with held := x.held.drop 1, reserved := x.reserved + (if dElastic h.d then 2 else 1) } ∧
        (∀ k, k ≠ c → findCtx u k = findCtx s k) ∧ u = { s with rings := u.rings, ops := u.ops, opSeq := s.opSeq + 1 } ∧
        (tallyFound s h.d = true → u.ops = s.ops ++ [newOp s c h]) ∧
        (tallyFound s h.d = false →
          u.ops = s.ops ++ [{ newOp s c h with ended := some ⟨.ctxFault, 0x1C1⟩ }])) ∧
    (∀ (s : State) (c n : Nat) (x : Ctx) (h : Held), findCtx s c = some x → eligible s x = some h →
      parkedBefore s h.d = false → strictBefore s h.d = false → splitRecord s = some n → findOp s c h.idx = none →
      ∃ u, exec (.descriptorBegin c) s = .next u ∧
        u.ops = s.ops ++ [{ newOp s c h with ended := some ⟨.deviceFault, n⟩ }] ∧
        findCtx u c = some { x with held := x.held.drop 1, reserved := x.reserved + (if dElastic h.d then 2 else 1) } ∧
        u = { s with rings := u.rings, ops := u.ops, opSeq := s.opSeq + 1 }) ∧
    (∀ (s : State) (c i : Nat) (o : Op), runningOp s c i 0x0F00 = some o →
      ∃ u, exec (.nop c i) s = .next u ∧ findOp u c i = some { o with ended := some ⟨.done, 0⟩ } ∧
        (∀ c' i', ¬ (c' = c ∧ i' = i) → findOp u c' i' = findOp s c' i') ∧ u = { s with ops := u.ops }) ∧
    (∀ (s : State) (c i : Nat) (o : Op) (e : OpEnd) (ecc : Ecc), findOp s c i = some o → o.ended = some e →
      endReady s o e = true → opWaits s o = false →
      ∃ u, exec (.descriptorEnd c i ecc) s = .next u ∧ findOp u c i = none) ∧
    (∀ (s : State) (c i : Nat) (x : Ctx) (o : Op) (e : OpEnd), s.canonical = true → findCtx s c = some x →
      findOp s c i = some o → o.ended = some e → e.status = .done → (dOpcode o.d = 0x0F00 ∨ dOpcode o.d = 0x0F10) →
      dTag o.d = 0 → o.work = .none → o.writes = [] → o.side = sideNone → endReady s o e = true → opWaits s o = false →
      getA s Reg.ctxCtrl_busy = 0 →
      ∃ u, exec (.descriptorEnd c i .ok) s = .next u ∧ u.ops = s.ops.filter (fun p => !isOp c i p) ∧
        findCtx u c = some { x with cqTail := (x.cqTail + 1) % 2 ^ 32, lastUse := s.rings.useClock + 1
                                    reserved := x.reserved - ((if dElastic o.d then 2 else 1) - (if o.everParked then 1 else 0)) } ∧
        (∀ k, k ≠ c → findCtx u k = findCtx s k) ∧
        u.hostMem = memWriteAll s.hostMem (bytesWrites (x.cqBase + (x.cqTail % 2 ^ x.cqOrder) * 32)
          (entryBytes s x ⟨i, .done, true, dSignal o.d, false, 0, e.detail, dNotify o.d⟩)) ∧
        (∀ n, semGet u n = if dSignal o.d = true ∧ n = dSignalId o.d then (semGet s n + dSignalValue o.d) % 2 ^ 64
          else semGet s n) ∧
        u = { s with hostMem := u.hostMem, sems := u.sems, rings := u.rings, ops := u.ops, cross := u.cross
                     cells := u.cells, skid := u.skid, skidQ := u.skidQ }) ∧
    (∀ (s : State) (v : Nat), s.rings.merged.contains v = true →
      (∀ p, s.rings.lastMsg.find? (fun q => q.1 == v) = some p → s.time.running = false ∨
        p.2 + getA s Reg.msixGap_us * 1000 ≤ s.time.tai) →
      exec (.msixGapExpire v) s = .next { s with rings := { s.rings with
        merged := s.rings.merged.filter (fun w => w != v)
        lastMsg := (v, s.time.tai) :: s.rings.lastMsg.filter (fun q => q.1 != v)
        msix := s.rings.msix ++ [v] } }) ∧
    (∀ s : State, s.canonical = true → getA s Reg.ringCtrl_draining = 1 → s.ops = [] →
      ∃ u, exec .ringDrainEnd s = .next u ∧ getA u Reg.ringCtrl_draining = 0 ∧ u.rings.ovq = [] ∧ u.rings.ctxs = [] ∧
        u = { s with hostMem := u.hostMem, rings := u.rings, cross := u.cross
                     regs := u.regs, regs1 := u.regs1, regs2 := u.regs2 })

/-- R19, R24, R25, R26, R27, R570: CXL.mem: a write stores its bytes and no others, a read answers them; unmapped,
waiting and poisoned accesses. -/
def Obligations.HostMemoryReadsWhatItWrote : Prop :=
  (∀ (s : State) (off : Nat) (data : List Byte), memWf s.mem = true → cxlMapped s off data.length = true →
    accessWaits s off data.length = false →
    ∃ t, exec (.cxlMemWrite off data) s = .next t ∧
      (∀ i, i < data.length → memRead t.mem (off + i) = data.getD i 0) ∧
      (∀ a, a < off ∨ off + data.length ≤ a → memRead t.mem a = memRead s.mem a) ∧
      t = { s with mem := t.mem, hbm := { s.hbm with poison := t.hbm.poison } } ∧
      (∀ l, t.hbm.poison.contains l = true ↔ s.hbm.poison.contains l = true ∧ ¬ (off ≤ 64 * l ∧ 64 * l + 64 ≤ off + data.length)) ∧
      (poisonIn t off data.length = none →
        exec (.cxlMemRead off data.length .ok) t = .next { t with readOut := ⟨data, false⟩ })) ∧
    (∀ (s : State) (off n : Nat) (ecc : Ecc), cxlMapped s off n = false →
      exec (.cxlMemRead off n ecc) s = .next { s with readOut := ⟨[], true⟩ }) ∧
    (∀ (s : State) (off : Nat) (data : List Byte), cxlMapped s off data.length = false →
      exec (.cxlMemWrite off data) s = .next (countF s (millBase 0) Reg.hbmUe_unmappedWr 0 1)) ∧
    (∀ (s : State) (off n : Nat) (ecc : Ecc), cxlMapped s off n = true → accessWaits s off n = true →
      exec (.cxlMemRead off n ecc) s = .next { s with hbm := { s.hbm with waiting := s.hbm.waiting ++ [.read off n ecc] } }) ∧
    (∀ (s : State) (off : Nat) (data : List Byte), cxlMapped s off data.length = true →
      accessWaits s off data.length = true →
      exec (.cxlMemWrite off data) s = .next { s with hbm := { s.hbm with waiting := s.hbm.waiting ++ [.write off data] } }) ∧
    (∀ (s : State) (off n p : Nat) (ecc : Ecc), s.canonical = true → cxlMapped s off n = true →
      accessWaits s off n = false → poisonIn s off n = some p →
      ∃ u, exec (.cxlMemRead off n ecc) s = .next u ∧ u.readOut = ⟨[], true⟩ ∧ u.mem = s.mem ∧
        getF u (millOfOff p) Reg.hbmUe_count 0 = min (2 ^ 16 - 1) (getF s (millOfOff p) Reg.hbmUe_count 0 + 1)) ∧
    (∀ (s : State) (off n a : Nat), s.canonical = true → cxlMapped s off n = true → accessWaits s off n = false →
      poisonIn s off n = none → a < capacity s →
      (∃ u, exec (.cxlMemRead off n (.corrected a)) s = .next u ∧ u.readOut = ⟨memBytes s.mem off n, false⟩ ∧
        getF u (millOfOff a) Reg.hbmCe_count 0 = min (2 ^ 32 - 1) (getF s (millOfOff a) Reg.hbmCe_count 0 + 1) ∧
        (sparseGet 0 (a / 4096) s.hbm.corrected + 1 ≠ 8 →
          u = { s with readOut := u.readOut, regs := u.regs, hbm := { s.hbm with corrected := u.hbm.corrected } })) ∧
      (∃ u, exec (.cxlMemRead off n (.uncorrectable a)) s = .next u ∧ u.readOut = ⟨[], true⟩ ∧
        u.hbm.poison.contains (a / 64) = true ∧
        getF u (millOfOff a) Reg.hbmUe_count 0 = min (2 ^ 16 - 1) (getF s (millOfOff a) Reg.hbmUe_count 0 + 1) ∧
        getF u (millOfOff a) Reg.hbmLastUe_valid 0 = 1 ∧
        u = { s with readOut := u.readOut, regs := u.regs, hbm := u.hbm, boot := u.boot })) ∧
    (∀ (s : State) (g : Nat), s.hbm.copying.contains g = true →
      let t := { s with hbm := { s.hbm with copying := s.hbm.copying.filter (fun k => k != g) } }
      let waits := fun w => accessWaits t (waitRange w).1 (waitRange w).2
      exec (.retirementCopyDone g) s = .next ((s.hbm.waiting.filter (fun w => !waits w)).foldl serveWait
        { t with hbm := { t.hbm with waiting := s.hbm.waiting.filter waits } }))

/-- R31, R353, R354, R355, R546: TICK takes the next tick once; TICK_PATH_FAIL ends every operation with DEVICE_FAULT
and stops the ticks. -/
def Obligations.TickIsTakenInOrder : Prop :=
  (∀ s : State, s.canonical = true → ticksRun s = true →
      ∃ u, exec .tick s = .next u ∧ tickNow u = s.time.nextTick % 2 ^ 64 ∧
        u.time = { s.time with tai := max s.time.tai (s.time.nextTick * tickPeriod s) % 2 ^ 64
                               ticksTaken := s.time.ticksTaken + 1, nextTick := s.time.nextTick + 1 } ∧
        ((getA s Reg.evdCtrl_every = 0 ∨ getA s Reg.evdCtrl_cap = 0 ∨ s.time.nextTick % getA s Reg.evdCtrl_every ≠ 0) →
          u.dumps = s.dumps) ∧
        (getA s Reg.evdCtrl_every ≠ 0 → getA s Reg.evdCtrl_cap ≠ 0 → s.time.nextTick % getA s Reg.evdCtrl_every = 0 →
          ∃ e, u.dumps = s.dumps ++ [(s.time.nextTick, s.time.nextTick * tickPeriod s, e)] ∧ e.length = 134 * 128) ∧
        u = { s with time := u.time, dumps := u.dumps, regs := u.regs }) ∧
    (∀ s : State, ticksRun s = false → exec .tick s = .next s) ∧
    (∀ s : State, ∃ u, exec .tickPathFail s = .next u ∧ u.ops.length = s.ops.length ∧
      (∀ o ∈ u.ops, o.ended.map (fun e => e.status) = some .deviceFault) ∧
      (∀ c i o, findOp s c i = some o → ∃ e, findOp u c i = some { o with ended := some e } ∧ e.status = .deviceFault) ∧
      u.time = { s.time with tickDead := true } ∧ ticksRun u = false ∧ exec .tick u = .next u ∧
      u = { s with ops := u.ops, time := u.time, mem := u.mem, hbm := { s.hbm with poison := u.hbm.poison }
                   regs := u.regs, rings := u.rings, cross := u.cross })

/-- R54, R155, R354, R362, R363: TICK_WAIT ends once its tick is taken; TIME_STAMP writes its 32 bytes and ends. -/
def Obligations.TickWaitAndTimeStamp : Prop :=
  (∀ (s : State) (c i : Nat) (o : Op), runningOp s c i 0x0F10 = some o →
      let k := if dfld o.d 0x28 0 0 = 0 then dfld o.d 0x20 63 0 else o.tick + dfld o.d 0x20 63 0
      (getA s Reg.tickCtrl_run = 1 → k ≤ tickNow s →
        ∃ u, exec (.tickWait c i) s = .next u ∧ findOp u c i = some { o with ended := some ⟨.done, 0⟩ } ∧
          (∀ c' i', ¬ (c' = c ∧ i' = i) → findOp u c' i' = findOp s c' i') ∧ u = { s with ops := u.ops }) ∧
      (getA s Reg.tickCtrl_run = 0 ∨ tickNow s < k → exec (.tickWait c i) s = .next s)) ∧
    (∀ s : State, let bs := stampBytes s
      bs.length = 32 ∧ leNat (bs.take 8) = s.time.tai % 2 ^ 64 ∧ leNat ((bs.drop 8).take 8) = tickNow s % 2 ^ 64 ∧
        leNat ((bs.drop 16).take 4) = timeStatusWord s % 2 ^ 32 ∧ leNat ((bs.drop 20).take 4) = holdoverSec s % 2 ^ 32 ∧
        leNat (bs.drop 24) = 0) ∧
    (∀ (s : State) (c : Nat) (x : Ctx) (h : Held), findCtx s c = some x → eligible s x = some h →
      parkedBefore s h.d = false → strictBefore s h.d = false → splitRecord s = none → dOpcode h.d = 0x0F11 →
      tallyFound s h.d = true → findOp s c h.idx = none →
      (checkLevel h.d ≠ 2) →
      ∃ u, exec (.descriptorBegin c) s = .next u ∧ u.ops = s.ops ++ [{ newOp s c h with work := .stamp (stampBytes s) }] ∧
        findCtx u c = some { x with held := x.held.drop 1, reserved := x.reserved + (if dElastic h.d then 2 else 1) } ∧
        u = { s with rings := u.rings, ops := u.ops, opSeq := s.opSeq + 1 }) ∧
    (∀ (s : State) (c i : Nat) (o : Op) (bs : List Byte), memWf s.mem = true → runningOp s c i 0x0F11 = some o →
      o.work = .stamp bs → bs.length = 32 →
      let a := dfld o.d 0x30 41 0
      accessFault s [⟨a, 0, 1, 32⟩] = none → outFault s o.d [⟨a, 0, 1, 32⟩] = none →
      ∃ u, exec (.timeStamp c i) s = .next u ∧
        (checkLevel o.d ≠ 2 → (findOp u c i).map (fun p => p.ended) = some (some (normalEnd o))) ∧
        (checkLevel o.d = 2 → (findOp u c i).map (fun p => (p.run, p.ended)) = some (2, none)) ∧
        (∀ c' i', ¬ (c' = c ∧ i' = i) → findOp u c' i' = findOp s c' i') ∧
        (∀ k, k < 32 → memRead u.mem (a + k) =
          if (trainRegions s).any (fun r => inRegion r (a + k)) then memRead s.mem (a + k) else bs.getD k 0) ∧
        (∀ b, b < a ∨ a + 32 ≤ b → memRead u.mem b = memRead s.mem b) ∧
        u = { s with mem := u.mem, hbm := { s.hbm with poison := u.hbm.poison }, ops := u.ops }) ∧
    (∀ (s : State) (c i : Nat) (o : Op) (bs : List Byte), runningOp s c i 0x0F11 = some o → o.work = .stamp bs →
      ∀ e, accessFault s [⟨dfld o.d 0x30 41 0, 0, 1, 32⟩] = some e → exec (.timeStamp c i) s = .next (ctxFault s c i e.1 e.2))

/-- R343, R345, R346: GNSS_TOD_MESSAGE, GNSS_PPS_EDGE and GNSS_PPS_TIMEOUT bring a Lead into lock and out of it. -/
def Obligations.LeadLocksToGnss : Prop :=
  (∀ (s : State) (m : List Byte), gnssUsed s = true → todOk m = true →
      let sec := leNat ((m.drop 3).take 6)
      (getB s Reg.timeStatus_state ≠ 2 ∨ sec = s.time.gnss.lastSec + 1) →
      exec (.gnssTodMessage m) s = .next { s with time := { s.time with gnss := { s.time.gnss with
        lastSec := sec, armed := true, missedTod := 0
        good := if sec = s.time.gnss.lastSec + 1 then s.time.gnss.good else 0 } } }) ∧
    (∀ (s : State) (m : List Byte), todOk m = false → exec (.gnssTodMessage m) s = exec (.gnssPpsTimeout false) s) ∧
    (∀ s : State, gnssUsed s = true → s.time.gnss.armed = false → getB s Reg.timeStatus_state ≠ 2 →
      exec .gnssPpsEdge s = .next { s with time := { s.time with gnss := { s.time.gnss with missedPps := 0, good := 0 } } }) ∧
    (∀ s : State, s.canonical = true → gnssUsed s = true → s.time.gnss.armed = true → getB s Reg.timeStatus_state ≠ 2 →
      let off : Int := (s.time.tai : Int) - ((s.time.gnss.lastSec * 1000000000 + getB s Reg.gnssDelay_ns : Nat) : Int)
      let steps := getB s Reg.timeStatus_state ≤ 1 ∧ getA s Reg.tickCtrl_run = 0 ∧ 99 < off.natAbs ∧ otherLeads s = false
      (off.natAbs < 100 ∨ steps) →
      ∃ u, exec .gnssPpsEdge s = .next u ∧ u.time.gnss.good = s.time.gnss.good + 1 ∧ u.time.gnss.armed = false ∧
        u.time.gnss.missedPps = 0 ∧ (2 ≤ s.time.gnss.good → getB u Reg.timeStatus_state = 2) ∧
        (s.time.gnss.good < 2 → getB u Reg.timeStatus_state = getB s Reg.timeStatus_state) ∧
        getB u Reg.timeOffset_ns = ofSigned 32 off ∧
        (steps → u.time.tai = (s.time.gnss.lastSec * 1000000000 + getB s Reg.gnssDelay_ns) % 2 ^ 64) ∧
        (¬ steps → u.time.tai = s.time.tai) ∧ u = { s with time := u.time, regs := u.regs }) ∧
    (∀ s : State, s.canonical = true → gnssUsed s = true → getB s Reg.timeStatus_state = 2 →
      ∃ u, exec (.gnssPpsTimeout true) s = .next u ∧
        getB u Reg.gnssErrs_ppsMissing = min (2 ^ 16 - 1) (getB s Reg.gnssErrs_ppsMissing + 1) ∧
        u.time.gnss.missedPps = s.time.gnss.missedPps + 1 ∧ u.time.gnss.armed = false ∧ u.time.gnss.good = 0 ∧
        (s.time.gnss.missedPps = 0 → getB u Reg.timeStatus_state = 2) ∧
        (1 ≤ s.time.gnss.missedPps → getB u Reg.timeStatus_state ≠ 2) ∧ u = { s with time := u.time, regs := u.regs }) ∧
    (∀ s : State, s.canonical = true → gnssUsed s = true → getB s Reg.timeStatus_state = 2 →
      ∃ u, exec (.gnssPpsTimeout false) s = .next u ∧
        getB u Reg.gnssErrs_todBad = min (2 ^ 16 - 1) (getB s Reg.gnssErrs_todBad + 1) ∧
        u.time.gnss.missedTod = s.time.gnss.missedTod + 1 ∧ u.time.gnss.lastSec = s.time.gnss.lastSec + 1 ∧
        (s.time.gnss.missedTod = 0 → getB u Reg.timeStatus_state = 2) ∧
        (1 ≤ s.time.gnss.missedTod → getB u Reg.timeStatus_state ≠ 2) ∧ u = { s with time := u.time, regs := u.regs })

/-- R343, R347, R349, R350, R351: TIME_EXCHANGE_TIMER, TIME_FRAME, LEAD_FAILOVER and PPS_OUT_SECOND. -/
def Obligations.FollowingAndFailover : Prop :=
  (∀ (s : State) (p : Neigh), timeParent s = some p → follows s = true →
      let q := (s.time.exchSeq + 1) % 4096
      exec .timeExchangeTimer s = .next (sendChain { s with time := { s.time with
        exchSeq := q, exch := some ⟨p.link, q, 0, 0, 0, 0⟩ } } p.link (.time 4 q 0))) ∧
    (∀ (s : State) (l q stamp : Nat), s.canonical = true →
      ∃ u, exec (.timeFrame l 4 q stamp) s = .next u ∧
        linkGet u l = { linkGet s l with chainq := (linkGet s l).chainq ++ [.time 5 q s.time.tai, .time 6 q 0] } ∧
        (∀ n, n ≠ l → linkGet u n = linkGet s n) ∧
        u = { s with links := u.links, time := { s.time with leadFrame := u.time.leadFrame } }) ∧
    (∀ (s : State) (x : TimeExch) (l q stamp : Nat), s.time.exch = some x → x.link = l → x.seq = q →
      (∃ u, exec (.timeFrame l 5 q stamp) s = .next u ∧
        u = { s with time := { s.time with exch := some { x with t2 := stamp, stage := 1 }, leadFrame := u.time.leadFrame } }) ∧
      (x.stage = 1 → s.canonical = true →
        let off : Int := Int.tdiv (((x.t2 : Int) - x.t1) - ((s.time.tai : Int) - stamp)) 2
        ∃ u, exec (.timeFrame l 6 q stamp) s = .next u ∧ u.time.exch = none ∧ getB u Reg.timeOffset_ns = ofSigned 32 off ∧
          (getA s Reg.tickCtrl_run = 0 → 1000 < off.natAbs → u.time.tai = ((s.time.tai : Int) + off).toNat % 2 ^ 64) ∧
          (getA s Reg.tickCtrl_run ≠ 0 ∨ off.natAbs ≤ 1000 → u.time.tai = s.time.tai ∧ u.time.slew = off) ∧
          (follows s = true → getB s Reg.timeStatus_state ≠ 2 → getB u Reg.timeStatus_state = 3) ∧
          (follows s = false ∨ getB s Reg.timeStatus_state = 2 →
            getB u Reg.timeStatus_state = getB s Reg.timeStatus_state) ∧
          u = { s with regs := u.regs, time := u.time })) ∧
    (∀ (s : State) (r n : Nat), s.canonical = true → activeLead s = some (r, n) →
      (getB s Reg.timeStatus_state = 5 → exec .leadFailover s = .next s) ∧
      (getB s Reg.timeStatus_state ≠ 5 → ∃ u, exec .leadFailover s = .next u ∧ getB u Reg.timeStatus_activeRank = r % 4 ∧
        getB u Reg.timeStatus_activeLead = n % 2 ^ 16 ∧ getB u Reg.timeStatus_state = getB s Reg.timeStatus_state ∧
        getB u Reg.timeFailovers_count = (if getB s Reg.timeStatus_activeLead = n ∧ getB s Reg.timeStatus_activeRank = r then
          getB s Reg.timeFailovers_count else min (2 ^ 32 - 1) (getB s Reg.timeFailovers_count + 1)) ∧
        u = { s with regs := u.regs, time := { s.time with leadFrame := u.time.leadFrame } })) ∧
    (∀ s : State, s.canonical = true → activeLead s = none → getB s Reg.timeStatus_activeLead = s.chip →
      getB s Reg.timeCtrl_lead = 1 → (getB s Reg.timeStatus_state = 2 ∨ getB s Reg.timeStatus_state = 3) →
      ∃ u, exec .leadFailover s = .next u ∧ getB u Reg.timeStatus_state = 4 ∧ u.time.holdFrom = s.time.tai ∧
        u = { s with regs := u.regs, time := u.time }) ∧
    (∀ s : State, 2 ≤ getB s Reg.timeStatus_state → getB s Reg.timeStatus_state ≤ 4 →
      (s.time.tai % 1000000000 = 0 → exec .ppsOutSecond s = .next { s with time := { s.time with
        ppsUntil := s.time.tai + getB s Reg.timeCtrl_ppsWidth * 10000 } }) ∧
      (s.time.tai % 1000000000 = 500000000 → exec .ppsOutSecond s = .next { s with time := { s.time with
        todOut := todMessage (s.time.tai / 1000000000 + 1) (getB s Reg.timeStatus_state != 4)
          (getB s Reg.timeStatus_state == 4) } })) ∧
    (∀ s : State, getB s Reg.timeStatus_state < 2 ∨ 4 < getB s Reg.timeStatus_state → exec .ppsOutSecond s = .next s)

/-- R338, R339, R359, R361: SLOT_WINDOW_OPEN, SLOT_WINDOW_CLOSE and CELL_WAKE. -/
def Obligations.SlotWindowsAndCellWake : Prop :=
  (∀ (s : State) (e : Nat), ticksRun s = true → getA s Reg.slotCtrl_enable = 1 → e < getA s Reg.slotCtrl_count →
      s.time.windows.contains e = false → (slotEntry s e).start ≤ s.time.tai % tickPeriod s →
      s.time.tai % tickPeriod s < (slotEntry s e).start + (slotEntry s e).len →
      let t : State := { s with time := { s.time with windows := s.time.windows ++ [e] } }
      exec (.slotWindowOpen e) s = .next (if slotQueued s (slotEntry s e) then t else countA t Reg.slotIdle_count 1)) ∧
    (∀ (s : State) (e : Nat), s.time.windows.contains e = true →
      let t : State := { s with time := { s.time with windows := s.time.windows.filter (fun k => k != e) } }
      exec (.slotWindowClose e) s = .next (if slotQueued s (slotEntry s e) then countA t Reg.slotSpill_count 1 else t)) ∧
    (∀ (s : State) (x : SlotEntry), slotQueued s x = true ↔
      ∃ m ∈ s.txq, m.slot = x.slot ∧ m.far = none ∧ routeGroups s m.chip &&& x.groups ≠ 0) ∧
    (∀ (s : State) (c : Nat), s.canonical = true → c < 128 →
      ∃ u, exec (.cellWake c) s = .next u ∧ cellGet u c = { cellGet s c with stopped := false } ∧
        (∀ k, k ≠ c → cellGet u k = cellGet s k) ∧ u = { s with cells := u.cells, cross := (noteMerge s (cellBase c)).cross })

/-- R400, R402, R421, R422: SEMAPHORE_ADD, SEM_ADD and SEM_SET change one semaphore, modulo 2^64. -/
def Obligations.SemaphoreAddsAndSets : Prop :=
  ∀ s : State, s.canonical = true →
    (∀ off data, off % 8 = 0 → off < 0x8000 →
      ∃ u, exec (.semaphoreAdd off 8 data) s = .next u ∧ semGet u (off / 8) = (semGet s (off / 8) + data) % 2 ^ 64 ∧
        (∀ m, m ≠ off / 8 → semGet u m = semGet s m) ∧ u = { s with sems := u.sems, cross := (noteMerge (noteMerge s landABase) landBBase).cross }) ∧
    (∀ off size data, ¬(size = 8 ∧ off % 8 = 0 ∧ off < 0x8000) →
      exec (.semaphoreAdd off size data) s = .next (countA s Reg.semBadWr_count 1)) ∧
    (∀ c i o, runningOp s c i 0x0F20 = some o → o.work = .none →
      (semTarget o.d = s.chip → ∃ u, exec (.semAdd c i) s = .next u ∧
        semGet u (semId o.d) = (semGet s (semId o.d) + semValue o.d) % 2 ^ 64 ∧
        (∀ m, m ≠ semId o.d → semGet u m = semGet s m) ∧
        u = { s with sems := u.sems, ops := (endOp s c i ⟨.done, 0⟩).ops, cross := (noteMerge (noteMerge s landABase) landBBase).cross }) ∧
      (semTarget o.d ≠ s.chip → targetFault s (semTarget o.d) (0x3FF00000000 + semId o.d * 8) = none →
        ∃ u, exec (.semAdd c i) s = .next u ∧ findOp u c i = some { o with work := .remote 1 false } ∧
          u.txq = s.txq ++ [⟨2, semTarget o.d, s.stand, none, 0,
            msgPayload 2 ⟨s.chip, c, i, .semAdd (semId o.d) (semValue o.d)⟩, ⟨s.chip, c, i, .semAdd (semId o.d) (semValue o.d)⟩⟩] ∧
          u = { s with txq := u.txq, ops := u.ops }) ∧
      (∀ e, semTarget o.d ≠ s.chip → targetFault s (semTarget o.d) (0x3FF00000000 + semId o.d * 8) = some e →
        exec (.semAdd c i) s = .next (ctxFault s c i e.1 e.2))) ∧
    (∀ c i o, runningOp s c i 0x0F21 = some o →
      ∃ u, exec (.semSet c i) s = .next u ∧ semGet u (semId o.d) = semValue o.d ∧
        (∀ m, m ≠ semId o.d → semGet u m = semGet s m) ∧
        u = { s with sems := u.sems, ops := (endOp s c i ⟨.done, 0⟩).ops, cross := (noteMerge (noteMerge s landABase) landBBase).cross })

/-- R400, R401: The state after two semaphore adds does not depend on their order. -/
def Obligations.SemaphoreAddsCommute : Prop :=
  ∀ (s : State) (off off' a b : Nat), s.canonical = true → off % 8 = 0 → off < 0x8000 → off' % 8 = 0 → off' < 0x8000 →
    ∃ t t' u, exec (.semaphoreAdd off 8 a) s = .next t ∧ exec (.semaphoreAdd off' 8 b) t = .next u ∧
      exec (.semaphoreAdd off' 8 b) s = .next t' ∧ exec (.semaphoreAdd off 8 a) t' = .next u

/-- R405, R406, R407, R410, R411: BARRIER_UNIT_WRITE and BARRIER: a unit is set up, and an operation arrives, waits or
completes. -/
def Obligations.BarrierUnitAndOperation : Prop :=
  ∀ s : State, s.canonical = true →
    (∀ b data, b < 64 → (barrierGet s b).arrived = false →
      ∃ u, exec (.barrierUnitWrite b data) s = .next u ∧
        barrierGet u b = ⟨bits data 5 0, bit data 31, if bit data 31 then 0 else (barrierGet s b).gen, false⟩ ∧
        (∀ k, k ≠ b → barrierGet u k = barrierGet s k) ∧
        (∀ x, x ∈ u.chain.insts ↔ x ∈ s.chain.insts ∧ ¬ (bit data 31 = true ∧ x.chan = b ∧ x.result.isSome = true)) ∧
        u = { s with barriers := u.barriers, chain := { s.chain with insts := u.chain.insts } }) ∧
    (∀ b data, (barrierGet s b).arrived = true ∨ 64 ≤ b → exec (.barrierUnitWrite b data) s = .next s) ∧
    (∀ c i o, runningOp s c i 0x0F30 = some o → o.work = .none →
      let b := barUnit o.d
      ((barrierGet s b).valid = false →
        ∃ u, exec (.barrier c i) s = .next u ∧ findOp u c i = some { o with ended := some ⟨.ctxFault, 0x1A3⟩ } ∧
          u = { s with ops := u.ops }) ∧
      ((barrierGet s b).valid = true → (barrierGet s b).arrived = true →
        ∃ u, exec (.barrier c i) s = .next u ∧ findOp u c i = some { o with work := .barrier false } ∧ u = { s with ops := u.ops }) ∧
      ((barrierGet s b).valid = true → (barrierGet s b).arrived = false → b < 64 →
        s.chain.insts.find? (isInst b (((barrierGet s b).gen + 1) % 65536) 0) = none →
        (treeReady s (barrierGet s b).axes = false →
          ∃ u, exec (.barrier c i) s = .next u ∧ findOp u c i = some { o with work := .barrier true } ∧
            barrierGet u b = { barrierGet s b with arrived := true } ∧ u = { s with barriers := u.barriers, ops := u.ops, chain := u.chain }) ∧
        (treeReady s (barrierGet s b).axes = true → treeKids s (barrierGet s b).axes = [] →
          treeParent s (barrierGet s b).axes = none → ((barrierGet s b).axes ≠ 0 ∨ s.chip = 0) →
          barrierOp s b true = none → barrierOp s b false = none →
          ∃ u, exec (.barrier c i) s = .next u ∧
            findOp u c i = some { o with work := .barrier true, ended := some ⟨.done, 0⟩ } ∧
            barrierGet u b = { barrierGet s b with gen := ((barrierGet s b).gen + 1) % 2 ^ 64 } ∧
            u = { s with barriers := u.barriers, ops := u.ops, chain := u.chain })))

/-- R403, R404, R407, R408: CHAIN_ANNOUNCE_TIMER, CHAIN_ANNOUNCE, CHAIN_REPEAT_TIMER and CHAIN_SETTLE. -/
def Obligations.ChainFramesOnEveryLink : Prop :=
  (∀ s : State, s.canonical = true → treeUpdate s = s →
      ∃ u, exec .chainAnnounceTimer s = .next u ∧
        (∀ n, n < 96 → linkUp s n = true → linkNear s n = true →
          linkGet u n = { linkGet s n with chainq := (linkGet s n).chainq ++ [announcement s] }) ∧
        (∀ n, ¬(n < 96 ∧ linkUp s n = true ∧ linkNear s n = true) → linkGet u n = linkGet s n) ∧
        u = { s with links := u.links }) ∧
    (∀ (s : State) (l rank st hl h0 chip act par : Nat), s.canonical = true →
      ∃ u, exec (.chainAnnounce l rank st hl h0 chip act par) s = .next u ∧
        u.chain.neigh = s.chain.neigh.filter (fun n => n.link != l) ++ [⟨l, chip, h0, hl, par⟩] ∧
        u.chain.insts = s.chain.insts ∧ ownHops0 u = getA u Reg.chainStatus_hops0 ∧
        ownParent u % 2 ^ 16 = getA u Reg.chainStatus_parent ∧
        u = { s with chain := u.chain, time := u.time, regs := u.regs }) ∧
    (∀ s : State, (∀ x ∈ s.chain.insts, x.sent = true → x.result = none → passed s x.sentAt 2000 = false) →
      exec .chainRepeatTimer s = .next s) ∧
    (∀ (s : State) (x : ChainInst) (v p n : Nat), s.canonical = true →
      s.chain.insts.filter (fun y => y.sent && y.result.isNone && passed s y.sentAt 2000) = [x] → instValue s x = some v →
      treeParent s (chanAxes s x.chan) = some p → linkTo s p = some n →
      ∃ u, exec .chainRepeatTimer s = .next u ∧
        linkGet u n = { linkGet s n with chainq := (linkGet s n).chainq ++ [.contrib x.op x.chan x.gen x.index v] } ∧
        (∀ k, k ≠ n → linkGet u k = linkGet s k) ∧
        getA u Reg.chainResends_count = min (2 ^ 32 - 1) (getA s Reg.chainResends_count + 1) ∧
        { x with sentAt := s.time.tai } ∈ u.chain.insts ∧ u = { s with links := u.links, chain := u.chain, regs := u.regs }) ∧
    (∀ s : State, ownHops0 s ≠ 2047 → ownHops0 s = getA s Reg.chainStatus_hops0 →
      ownParent s = getA s Reg.chainStatus_parent →
      (passed s s.chain.changedAt 1000000 = true → s.canonical = true → s.chain.insts = [] → s.ops = [] →
        ∃ u, exec .chainSettle s = .next u ∧ getA u Reg.chainStatus_settled = 1 ∧ u = { s with regs := u.regs }) ∧
      (passed s s.chain.changedAt 1000000 = true →
        exec .chainSettle s = .next (chainEffects (chainPump (setA s Reg.chainStatus_settled 1)))) ∧
      (passed s s.chain.changedAt 1000000 = false → exec .chainSettle s = .next (reshardTake s)))

/-- R403, R405, R406, R407: CHAIN_CONTRIBUTION and CHAIN_RESULT: a held result answers, a missing value waits, the root
combines, and a member takes the result once. -/
def Obligations.ChainReductionsCombine : Prop :=
  (∀ (s : State) (l op ch g ix v r : Nat), op < 3 → ch < 67 → (instGet s op ch g ix).result = some r →
      exec (.chainContribution l op ch g ix v) s = .next (chainEffects (sendChain s l (.result op ch g ix r)))) ∧
    (∀ (s : State) (l op ch g ix v : Nat), op < 3 → ch < 67 → (instGet s op ch g ix).result = none →
      let x := instGet s op ch g ix
      let y := { x with kids := x.kids.filter (fun p => p.1 != getL s Reg.linkPeer_chip l) ++ [(getL s Reg.linkPeer_chip l, v)] }
      exec (.chainContribution l op ch g ix v) s = .next (chainEffects (instPump (instPut s y) y)) ∧
      (instPut s y).chain.insts.find? (isInst y.chan y.gen y.index) = some y ∧
      (treeReady s (chanAxes s ch) = false → instPump (instPut s y) y = instPut s y) ∧
      (∀ a, x.sent = false → treeReady s (chanAxes s ch) = true → instValue s y = some a →
        treeParent s (chanAxes s ch) = none → (chanAxes s ch ≠ 0 ∨ s.chip = 0) →
        (instPump (instPut s y) y).chain.insts.find? (isInst y.chan y.gen y.index) = some { y with result := some a })) ∧
    (∀ (s : State) (l op ch g ix v : Nat), 3 ≤ op ∨ 67 ≤ ch →
      exec (.chainContribution l op ch g ix v) s = .next (chainEffects s)) ∧
    (∀ (s : State) (l op ch g ix v : Nat) (x : ChainInst), s.chain.insts.find? (isInst ch g ix) = some x →
      (x.result = none → exec (.chainResult l op ch g ix v) s = .next (chainEffects (instResult s x v)) ∧
        (instResult s x v).chain.insts.find? (isInst ch g ix) = some { x with result := some v }) ∧
      (x.result ≠ none → exec (.chainResult l op ch g ix v) s = .next (chainEffects s))) ∧
    (∀ (s : State) (l op ch g ix v : Nat), s.chain.insts.find? (isInst ch g ix) = none →
      exec (.chainResult l op ch g ix v) s = .next (chainEffects s)) ∧
    (∀ s : State, s.ops = [] → (∀ b, (barrierGet s b).arrived = false) → chainEffects s = s)

/-- R388, R389, R390, R408: STAND_FAULT_FRAME, LINK_SIGNAL_LOSS and LINK_RX_TIMEOUT: a link fails, and a stand fault
ends the work of an armed chip. -/
def Obligations.StandFaultEndsWork : Prop :=
  (∀ (s : State) (l chip n cause : Nat), s.canonical = true → getA s Reg.standCtrl_armed = 1 →
      ∃ u, exec (.standFaultFrame l chip n cause) s = .next u ∧
        (∀ o ∈ u.ops, o.ended.map (fun e => e.status) = some .deviceFault) ∧ u.ops.length = s.ops.length ∧ u.groups = [] ∧
        getA u Reg.standCtrl_armed = 0 ∧ getA u Reg.standCtrl_fault = 1 ∧ getA u Reg.standCtrl_faultChip = chip % 2 ^ 16 ∧
        getA u Reg.standFault_link = n % 2 ^ 7 ∧ getA u Reg.standFault_cause = cause % 2 ^ 4 ∧ u.chain.faultSeen = true ∧
        (s.chain.faultSeen = true → u.links = s.links) ∧
        (s.chain.faultSeen = false → ∀ k, k < 96 → linkUp s k = true → linkNear s k = true →
          linkGet u k = { linkGet s k with chainq := (linkGet s k).chainq ++ [.fault chip n cause] }) ∧
        u = { s with ops := u.ops, groups := [], resends := [], chain := u.chain, links := u.links, mem := u.mem
                     hbm := { s.hbm with poison := u.hbm.poison }, rings := u.rings, cross := u.cross
                     regs := u.regs, regs1 := u.regs1, regs2 := u.regs2 }) ∧
    (∀ (s : State) (l chip n cause : Nat), getA s Reg.standCtrl_armed = 0 →
      exec (.standFaultFrame l chip n cause) s = .next (standFaultPass s chip n cause) ∧
      (s.chain.faultSeen = true → standFaultPass s chip n cause = s)) ∧
    (∀ (s : State) (n : Nat), s.canonical = true → linkCarries s n = true → getA s Reg.standCtrl_armed = 0 →
      (∃ u, exec (.linkSignalLoss n) s = .next u ∧ getL u Reg.linkState_state n = 3 ∧ getL u Reg.linkState_cause n = 1 ∧
        (∀ k, k < 96 → k ≠ n → getL u Reg.linkState_state k = getL s Reg.linkState_state k) ∧
        u = { s with regs := u.regs, chain := u.chain, far := u.far }) ∧
      (passed s (linkGet s n).heard 100000 = true →
        ∃ u, exec (.linkRxTimeout n) s = .next u ∧ getL u Reg.linkState_state n = 3 ∧ getL u Reg.linkState_cause n = 3 ∧
        (∀ k, k < 96 → k ≠ n → getL u Reg.linkState_state k = getL s Reg.linkState_state k) ∧
        u = { s with regs := u.regs, chain := u.chain, far := u.far })) ∧
    (∀ (s : State) (n : Nat), passed s (linkGet s n).heard 100000 = false → exec (.linkRxTimeout n) s = .next s) ∧
    (∀ (s : State) (n : Nat), linkCarries s n = false →
      exec (.linkSignalLoss n) s = .next s ∧ exec (.linkRxTimeout n) s = .next s) ∧
    (∀ (s : State) (n : Nat), s.canonical = true → linkCarries s n = true → linkUp s n = true → linkNear s n = true →
      getA s Reg.standCtrl_armed = 1 →
      (∃ u, exec (.linkSignalLoss n) s = .next u ∧ getL u Reg.linkState_state n = 3 ∧ getA u Reg.standCtrl_armed = 0 ∧
        getA u Reg.standCtrl_fault = 1 ∧ getA u Reg.standCtrl_faultChip = s.chip % 2 ^ 16 ∧ getA u Reg.standFault_link = n ∧
        getA u Reg.standFault_cause = 1 ∧ ∀ o ∈ u.ops, o.ended.map (fun e => e.status) = some .deviceFault) ∧
      (passed s (linkGet s n).heard 100000 = true →
        ∃ u, exec (.linkRxTimeout n) s = .next u ∧ getL u Reg.linkState_state n = 3 ∧ getA u Reg.standCtrl_armed = 0 ∧
        getA u Reg.standCtrl_fault = 1 ∧ getA u Reg.standCtrl_faultChip = s.chip % 2 ^ 16 ∧ getA u Reg.standFault_link = n ∧
        getA u Reg.standFault_cause = 3 ∧ ∀ o ∈ u.ops, o.ended.map (fun e => e.status) = some .deviceFault))

/-- R370, R371, R403: A frame that is laid out as its 544 bytes reads back as itself, with both checks right. -/
def Obligations.LinkFramesRoundTrip : Prop :=
  ∀ (f : Frame) (c : ChainFrame), frameFits f → chainFits c →
    let bs := frameBytes f c
    bs.length = 544 ∧ frameCrcOk bs = true ∧ chainCrcOk bs = true ∧
      frameOf bs = { f with payload := pad512 f.payload } ∧ chainOf (byteNat bs 16 10) = c

/-- R433, R434, R435, R436, R438: A data frame sealed under a key, sent as bytes and read back, passes its tag and opens
to its plaintext. -/
def Obligations.KerfOpensWhatItSealed : Prop :=
  ∀ (k : KeySlot) (dir : Nat) (f : Frame) (plain : List Byte) (c : ChainFrame),
    k.kEnc.length = 32 → k.kMac.length = 32 → k.nonce < 2 ^ 64 → k.epoch < 2 ^ 8 → dir ≤ 1 → frameFits f →
    (f.type = 1 → 0 < plain.length → plain.length ≤ 488 →
      let g := kerfSeal k dir f plain
      let r := frameOf (frameBytes g c)
      g.enc = true ∧ g.epoch = k.epoch ∧ g.len = plain.length + 24 ∧ kerfOpens k dir r = true ∧ kerfPlain k dir r = plain) ∧
    (f.type = 0 → kerfOpens k dir (frameOf (frameBytes (kerfSealIdle k dir f) c)) = true)

/-- R347, R369, R370, R374, R376, R377, R388, R408, R436, R437, R444: FRAME_SLOT sends one frame on a link that carries
frames: a re-send, else new data, else TYPE 0, with the Chain frame that is due. -/
def Obligations.FrameSlotSends : Prop :=
  (∀ (s : State) (n k : Nat), linkCarries s n = false → exec (.frameSlot n k) s = .next s) ∧
    (∀ (s : State) (n k : Nat), s.canonical = true → linkCarries s n = true →
      let x := (linkGet s n).num
      let q := chainNext (linkGet s n).chainq
      let c := (stampOut s n q.1).2
      let put : List Byte → State → Prop := fun bs u => u.sent = (n, bs) ∧ u.time = (stampOut s n q.1).1.time ∧
        (∀ j, j ≠ n → linkGet u j = linkGet s j)
      (linkNear s n = true → linkUp s n = true →
        (∀ i m, nextResend x = none → x.retry.length < 256 → nextTx s n = some i → s.txq[i]? = some m →
          let bs := frameBytes (dataFrame x m 0) c
          ∃ u, exec (.frameSlot n k) s = .next u ∧ put bs u ∧ u.txq = s.txq.eraseIdx i ∧
            linkGet u n = { linkGet s n with chainq := q.2, num := { x with
              nextSeq := (x.nextSeq + 1) % 2 ^ 24, nak := false, retry := x.retry ++ [⟨x.nextSeq, bs, 0, m.msg⟩]
              sentAt := if x.retry.isEmpty then s.time.tai else x.sentAt } } ∧
            u.regs = (event s (landOf (decide (n < 48))) 0x02 1).regs ∧
            u = { s with sent := u.sent, txq := u.txq, links := u.links, regs := u.regs, time := u.time }) ∧
        (∀ f, nextResend x = some f → f.resends < 15 →
          ∃ u, exec (.frameSlot n k) s = .next u ∧ put (withChain f.bytes c) u ∧
            (linkGet u n).num.resendq = x.resendq.tail ∧ (linkGet u n).num.nextSeq = x.nextSeq ∧
            getL u Reg.linkResends_count n = min (2 ^ 32 - 1) (getL s Reg.linkResends_count n + 1) ∧
            u = { s with sent := u.sent, links := u.links, regs := u.regs, time := u.time }) ∧
        (∀ f, nextResend x = some f → f.resends = 15 → getA s Reg.standCtrl_armed = 0 →
          ∃ u, exec (.frameSlot n k) s = .next u ∧ put (withChain f.bytes c) u ∧ getL u Reg.linkState_state n = 3 ∧
            getL u Reg.linkState_cause n = 2)) ∧
      (linkNear s n = true → (linkUp s n = false ∨ (nextResend x = none ∧ (nextTx s n = none ∨ 256 ≤ x.retry.length))) →
        ∃ u, exec (.frameSlot n k) s = .next u ∧
          put (frameBytes (idleFrame x.ack x.nak x.holdOut (getL s Reg.linkPeer_chip n) s.stand 0) c) u ∧
          linkGet u n = { linkGet s n with chainq := q.2, num := { x with nak := false } } ∧
          u.regs = (event s (landOf (decide (n < 48))) 0x02 1).regs ∧
          u = { s with sent := u.sent, links := u.links, regs := u.regs, time := u.time }) ∧
      (linkNear s n = false → sessOn s n k = false →
        ∃ u, exec (.frameSlot n k) s = .next u ∧ put (frameBytes (idleFrame 0 false false 0 s.stand 0) c) u ∧
          linkGet u n = { linkGet s n with chainq := q.2 } ∧
          u = { s with sent := u.sent, links := u.links, regs := u.regs, time := u.time }) ∧
      (linkNear s n = false → sessOn s n k = true →
        let y := (farGet s k).num
        (sessEnc s k = false → nextResend y = none → s.txq.findIdx? (fun m => m.far == some k) = none →
          ∃ u, exec (.frameSlot n k) s = .next u ∧
            put (frameBytes (idleFrame y.ack y.nak y.holdOut (sessF s Reg.far_peerChip k) (sessF s Reg.far_peerStand k) k) c) u ∧
            farGet u k = { farGet s k with num := { y with nak := false } } ∧ (∀ j, j ≠ k → farGet u j = farGet s j) ∧
            u = { s with sent := u.sent, links := u.links, far := u.far, regs := u.regs, time := u.time }) ∧
        (∀ i m, nextResend y = none → groupKept s (n / 8) < 524288 → s.txq.findIdx? (fun m => m.far == some k) = some i →
          s.txq[i]? = some m →
          (sessEnc s k = false →
            let bs := frameBytes (dataFrame y m k) c
            ∃ u, exec (.frameSlot n k) s = .next u ∧ put bs u ∧ u.txq = s.txq.eraseIdx i ∧
              farGet u k = { farGet s k with num := { y with
                nextSeq := (y.nextSeq + 1) % 2 ^ 24, nak := false, retry := y.retry ++ [⟨y.nextSeq, bs, 0, m.msg⟩]
                sentAt := if y.retry.isEmpty then s.time.tai else y.sentAt } } ∧
              (∀ j, j ≠ k → farGet u j = farGet s j) ∧
              u = { s with sent := u.sent, txq := u.txq, links := u.links, far := u.far, regs := u.regs, time := u.time }) ∧
          (∀ key, sessEnc s k = true → sessF s Reg.sess_hasCur k = 1 → kerfStalled s = false →
            keyGet s (sessF s Reg.sess_curSlot k) = some key → key.nonce + 1 < 2 ^ 48 →
            let bs := frameBytes (kerfSeal key (sessDir s k) (dataFrame y m k) m.payload) c
            ∃ u, exec (.frameSlot n k) s = .next u ∧ put bs u ∧ u.txq = s.txq.eraseIdx i ∧
              keyGet u (sessF s Reg.sess_curSlot k) = some { key with nonce := key.nonce + 1 } ∧
              (∀ j, j ≠ k → farGet u j = farGet s j) ∧
              u = { s with sent := u.sent, txq := u.txq, links := u.links, far := u.far, keys := u.keys
                           kerfOps := u.kerfOps, regs := u.regs, time := u.time }))))

/-- R371, R372, R375, R377, R400, R402: FRAME_RECEIVE: uncorrectable and corrupted frames are counted and dropped; the
next frame in order takes effect once. -/
def Obligations.FrameReceiveTakesInOrder : Prop :=
  (∀ (s : State) (n cr lo : Nat) (hit : Bool) (bs : List Byte) (m : Msg), linkCarries s n = false →
      exec (.frameReceive n cr lo hit bs m) s = .next s) ∧
    (∀ (s : State) (n cr lo : Nat) (bs : List Byte) (m : Msg), s.canonical = true → linkCarries s n = true →
      ∃ u, exec (.frameReceive n cr lo true bs m) s = .next u ∧
        getL u Reg.linkCe_count n = min (2 ^ 32 - 1) (getL s Reg.linkCe_count n + cr) ∧
        getL u Reg.linkUe_count n = min (2 ^ 32 - 1) (getL s Reg.linkUe_count n + lo) ∧ u = { s with regs := u.regs }) ∧
    (∀ (s : State) (n cr lo : Nat) (bs : List Byte) (m : Msg), linkCarries s n = true → chainCrcOk bs = false →
      frameCrcOk bs = false →
      exec (.frameReceive n cr lo false bs m) s =
        .next (countL (countL (fecCount s n cr lo) Reg.linkCrc_chain n 1) Reg.linkCrc_frame n 1)) ∧
    (∀ (s : State) (n id v : Nat) (f : Frame) (m : Msg), s.canonical = true → linkCarries s n = true → frameFits f →
      f.type = 1 → f.enc = false → m.body = .semAdd id v →
      (linkNear s n = true → linkUp s n = true → f.stand = s.stand → f.chip = s.chip → (linkGet s n).num.held = [] →
        (linkGet s n).num.ack < 2 ^ 24 →
        let x := (linkGet s n).num
        (f.seq = (x.ack + 1) % 2 ^ 24 →
          ∃ u, exec (.frameReceive n 0 0 false (frameBytes f .empty) m) s = .next u ∧
            semGet u id = (semGet s id + v) % 2 ^ 64 ∧ (∀ j, j ≠ id → semGet u j = semGet s j) ∧
            linkGet u n = { linkGet s n with heard := s.time.tai, num := { applyAck s.time.tai x f.ack f.nak f.hold with
              ack := f.seq, nak := false, tookAt := s.time.tai } } ∧
            (∀ j, j ≠ n → linkGet u j = linkGet s j) ∧
            (∃ p, u.txq = s.txq ++ [⟨7, m.src, s.stand, none, 0, p, ⟨s.chip, m.ctx, m.idx, .ack⟩⟩]) ∧
            u = { s with links := u.links, sems := u.sems, txq := u.txq, regs := u.regs, cross := u.cross }) ∧
        (f.seq = x.ack →
          ∃ u, exec (.frameReceive n 0 0 false (frameBytes f .empty) m) s = .next u ∧ u.sems = s.sems ∧
            linkGet u n = { linkGet s n with heard := s.time.tai, num := applyAck s.time.tai x f.ack f.nak f.hold } ∧
            (∀ j, j ≠ n → linkGet u j = linkGet s j) ∧
            u = { s with links := u.links, regs := (countL s Reg.linkDup_count n 1).regs })) ∧
      (linkNear s n = false → f.session < 64 → sessF s Reg.far_valid f.session = 1 → sessEnc s f.session = false →
        sessF s Reg.sess_authHalt f.session = 0 → (farGet s f.session).num.held = [] →
        (farGet s f.session).num.ack < 2 ^ 24 →
        let x := (farGet s f.session).num
        f.seq = (x.ack + 1) % 2 ^ 24 →
          ∃ u, exec (.frameReceive n 0 0 false (frameBytes f .empty) m) s = .next u ∧
            semGet u id = (semGet s id + v) % 2 ^ 64 ∧ (∀ j, j ≠ id → semGet u j = semGet s j) ∧
            (farGet u f.session).num = { applyAck s.time.tai x f.ack f.nak f.hold with
              ack := f.seq, nak := false, tookAt := s.time.tai } ∧
            (∀ j, j ≠ f.session → farGet u j = farGet s j) ∧
            u = { s with links := u.links, far := u.far, sems := u.sems, txq := u.txq, regs := u.regs, cross := u.cross }))

/-- R377, R382, R383: RETRANSMIT_TIMEOUT, FAR_ROUTE_LOST and FAR_ROUTE_RETURN. -/
def Obligations.RetransmitAndFarRoutes : Prop :=
  ∀ s : State, s.canonical = true →
    (∀ n f r, n < 96 → linkUp s n = true → linkNear s n = true → (linkGet s n).num.retry = f :: r →
      (linkGet s n).num.peerHold = false → (linkGet s n).num.resendq.contains f.seq = false →
      (linkGet s n).num.held = [] → passed s (linkGet s n).num.sentAt (nearRetry s n) = true →
      ∃ u, exec (.retransmitTimeout false n) s = .next u ∧
        linkGet u n = { linkGet s n with num := { (linkGet s n).num with
          resendq := f.seq :: (linkGet s n).num.resendq, sentAt := s.time.tai } } ∧
        (∀ j, j ≠ n → linkGet u j = linkGet s j) ∧ u = { s with links := u.links }) ∧
    (∀ k f r, k < 64 → sessF s Reg.far_route k ≠ 0 → (farGet s k).num.retry = f :: r → (farGet s k).num.peerHold = false →
      (farGet s k).num.resendq.contains f.seq = false → (farGet s k).num.held = [] →
      passed s (farGet s k).num.sentAt (farRetry s k) = true →
      ∃ u, exec (.retransmitTimeout true k) s = .next u ∧
        farGet u k = { farGet s k with num := { (farGet s k).num with
          resendq := f.seq :: (farGet s k).num.resendq, sentAt := s.time.tai } } ∧
        (∀ j, j ≠ k → farGet u j = farGet s j) ∧ u = { s with far := u.far }) ∧
    (∀ n, n < 96 → linkUp s n = true → linkNear s n = true → (linkGet s n).num.retry = [] → (linkGet s n).num.held ≠ [] →
      passed s (linkGet s n).num.tookAt (nearRetry s n) = true →
      ∃ u, exec (.retransmitTimeout false n) s = .next u ∧
        linkGet u n = { linkGet s n with num := { (linkGet s n).num with nak := true, tookAt := s.time.tai } } ∧
        u = { s with links := u.links }) ∧
    (∀ k, k < 64 → passed s (farGet s k).heard 1000000 = true →
      (sessF s Reg.far_route k = 1 →
        ∃ u, exec (.farRouteLost k) s = .next u ∧ (∀ j, j ≠ k → farGet u j = farGet s j) ∧
          (groupRouteUp s (sessF s Reg.far_secondary k) = true → sessF u Reg.far_route k = 2 ∧
            farGet u k = { farGet s k with since := s.time.tai, heard := s.time.tai, num := seqRoute (farGet s k).num } ∧
            sessF u Reg.far_failovers k = min (2 ^ 32 - 1) (sessF s Reg.far_failovers k + 1)) ∧
          (groupRouteUp s (sessF s Reg.far_secondary k) = false → sessF u Reg.far_route k = 0 ∧ sessF u Reg.far_state k = 0 ∧
            farGet u k = { farGet s k with since := s.time.tai } ∧ sessF u Reg.far_failovers k = sessF s Reg.far_failovers k) ∧
          u = { s with far := u.far, regs := u.regs }) ∧
      (sessF s Reg.far_route k = 2 →
        ∃ u, exec (.farRouteLost k) s = .next u ∧ (∀ j, j ≠ k → farGet u j = farGet s j) ∧
          sessF u Reg.far_route k = (if groupRouteUp s (sessF s Reg.far_primary k) then 1 else 0) ∧
          u = { s with far := u.far, regs := u.regs })) ∧
    (∀ k, k < 64 → passed s (farGet s k).heard 1000000 = false ∨ sessF s Reg.far_route k = 0 →
      exec (.farRouteLost k) s = .next s) ∧
    (∀ k, k < 64 → sessF s Reg.far_route k = 2 → groupRouteUp s (sessF s Reg.far_primary k) = true →
      passed s (farGet s k).since 1000000000 = true →
      ∃ u, exec (.farRouteReturn k) s = .next u ∧ sessF u Reg.far_route k = 1 ∧
        farGet u k = { farGet s k with heard := s.time.tai, num := seqRoute (farGet s k).num } ∧
        sessF u Reg.far_failovers k = min (2 ^ 32 - 1) (sessF s Reg.far_failovers k + 1) ∧
        (∀ j, j ≠ k → farGet u j = farGet s j) ∧ u = { s with far := u.far, regs := u.regs }) ∧
    (∀ k, k < 64 → sessF s Reg.far_route k = 0 → sessF s Reg.far_valid k = 1 →
      groupRouteUp s (sessF s Reg.far_primary k) = true →
      ∃ u, exec (.farRouteReturn k) s = .next u ∧ sessF u Reg.far_route k = 1 ∧
        sessF u Reg.far_failovers k = sessF s Reg.far_failovers k ∧
        (∀ j, j ≠ k → farGet u j = farGet s j) ∧ u = { s with far := u.far, regs := u.regs }) ∧
    (∀ x : SeqState, (seqRoute x).resendq = x.retry.map (fun f => f.seq) ∧
      (seqRoute x).retry = x.retry.map (fun f => { f with resends := 0 }) ∧
      seqRoute x = { x with resendq := (seqRoute x).resendq, retry := (seqRoute x).retry })

/-- R384, R385, R386, R387, R388, R554: LINK_TRAINING_DONE: a link that trains goes UP, MISWIRED or FAILED with what the
exchange found. -/
def Obligations.LinkTrainingEnds : Prop :=
  ∀ (s : State) (n pc pl ps pm rtt : Nat) (fast : Bool), s.canonical = true → n < 96 →
    (getL s Reg.linkState_state n ≠ 1 → ∀ ok, exec (.linkTrainingDone n ok fast pc pl ps pm rtt) s = .next s) ∧
    (getL s Reg.linkState_state n = 1 →
      let frame : State → Prop := fun u => u = { s with regs := u.regs, links := u.links, far := u.far, chain := u.chain
                                                        boot := u.boot, free := u.free, rings := u.rings, cross := u.cross } ∧
        (∀ k, k < 96 → k ≠ n → getL u Reg.linkState_state k = getL s Reg.linkState_state k) ∧
        ((∀ k, k < 96 → k ≠ n → getL s Reg.linkState_state k ≠ 1) → getA u Reg.standCtrl_topoDone = 1)
      (pm = getG s Reg.groupCtrl_mode (n / 8) →
        ∃ u, exec (.linkTrainingDone n true fast pc pl ps pm rtt) s = .next u ∧ frame u ∧
          getL u Reg.linkPeer_chip n = pc % 2 ^ 16 ∧
          getL u Reg.linkPeer_link n = pl % 2 ^ 7 ∧ getL u Reg.linkPeer_stand n = ps % 2 ^ 6 ∧
          getL u Reg.linkPeer_valid n = 1 ∧ (linkGet u n).heard = s.time.tai ∧
          (linkNear s n = true → linkMiswired u n = true →
            getL u Reg.linkState_state n = 4 ∧ getL u Reg.linkState_cause n = 6) ∧
          ((linkNear s n && linkMiswired u n) = false → getL u Reg.linkState_state n = 2) ∧
          getL u Reg.linkState_fast n = (if fast && fastLink s n then 1 else 0) ∧
          ((fast && fastLink s n) = false → ∃ eq : List Byte, eq.length = 255 ∧
            u.boot.draft = s.boot.draft ++ bytesWrites (0x10100 + 0x90100 + 0x100 * n) (1 :: eq))) ∧
      (∃ u, exec (.linkTrainingDone n false fast pc pl ps pm rtt) s = .next u ∧ frame u ∧
        getL u Reg.linkState_state n = 3 ∧ getL u Reg.linkState_cause n = 5) ∧
      (pm ≠ getG s Reg.groupCtrl_mode (n / 8) →
        ∃ u, exec (.linkTrainingDone n true fast pc pl ps pm rtt) s = .next u ∧ frame u ∧
          getL u Reg.linkState_state n = 3 ∧ getL u Reg.linkState_cause n = 5))

/-- R517, R520, R521, R523, R524, R526, R528, R532, R534: REGISTER_WRITE, ALIAS_WRITE and REGISTER_READ: range rules,
aliases, BUSY, and what a read answers. -/
def Obligations.RegisterWriteReadAndAlias : Prop :=
  ∀ s : State, hostLive s = true →
    (∀ (b : Blk) (r data : Nat), s.takesWrites b = true → blkOf (blkBase b + r) = some (b, r) → r < 0x4000 → r % 4 = 0 →
      wordVals b r data ≠ [] → isLow b r = false → isHigh b r = false → (wideWords b).contains r = false →
      isPosted b r = false → ownBusy s b r = false → devBase ≤ blkBase b + r → data < 2 ^ 32 →
      let x := blkBase b + r - devBase
      exec (.registerWrite 0 x 4 data) s = .next (applyVals (freeRng s) (takeFree s) b (wordVals b r data)) ∧
      (∀ how, 1 ≤ how → how ≤ 3 → blkOf (blkBase b + r + how * 0x4000) = some (b, r + how * 0x4000) →
        exec (.aliasWrite 0 (x + how * 0x4000) 4 data) s =
          .next (applyAlias (freeRng s) (takeFree s) b how (wordVals b r data)))) ∧
    (∀ (b : Blk) (r4 size data : Nat), blkOf (blkBase b + r4) = some (b, r4) → devBase ≤ blkBase b + r4 →
      let x := blkBase b + r4 - devBase
      (dieAwake s b = true → accessOk r4 size = true → blkBusy s b = true →
        exec (.registerWrite 0 x size data) s = .next (dropWrite (takeFree s) b)) ∧
      (dieAwake s b = true → accessOk r4 size = false →
        exec (.registerWrite 0 x size data) s = .next (countF (takeFree s) (blkBase b) Reg.blockErr_badAccess 0 1)) ∧
      (dieAwake s b = false → size = 4 →
        exec (.registerWrite 0 x size data) s = .next (countD (takeFree s) Reg.accessErr_notReady 1) ∧
        exec (.registerRead 0 x 4) s =
          .next { countD s Reg.accessErr_notReady 1 with readOut := ⟨[0xFF, 0xFF, 0xFF, 0xFF], false⟩ })) ∧
    (∀ (x data : Nat), x < 2 ^ 32 → blkOf (devBase + x) = none → inPages x = false →
      exec (.registerWrite 0 x 4 data) s = .next (countD (takeFree s) Reg.accessErr_unmapped 1)) ∧
    (∀ (b : Blk) (r how : Nat), s.takesWrites b = true → r < 0x4000 → r % 4 = 0 → how ≤ 3 → devBase ≤ blkBase b + r →
      blkOf (blkBase b + r + how * 0x4000) = some (b, r + how * 0x4000) → blkBase b + r + how * 0x4000 - devBase < 2 ^ 32 →
      exec (.registerRead 0 (blkBase b + r + how * 0x4000 - devBase) 4) s =
        .next { s with readOut := ⟨leBytes 4 (viewWord s b r), false⟩ }) ∧
    (∀ (n : Nat), n < 4096 → exec (.registerRead 2 (8 * n) 8) s = .next { s with readOut := ⟨leBytes 8 (semGet s n), false⟩ })

/-- R517, R518, R524, R534: A register field that is written reads back, and no other field of its block changes. -/
def Obligations.RegisterFieldsStandAlone : Prop :=
  ∀ (s : State) (b : Blk) (f g : Fld) (k j v : Nat), s.canonical = true → f ∈ blkFields b → g ∈ blkFields b →
    k < f.copies → j < g.copies →
    getF (setF s (blkBase b) f k v) (blkBase b) f k = v % 2 ^ (f.hi + 1 - f.lo) ∧
    ((f, k) ≠ (g, j) → getF (setF s (blkBase b) f k v) (blkBase b) g j = getF s (blkBase b) g j)

/-- R73, R74, R104, R138, R528: CTX_RESUME, CTX_RESUME_AT_HEAD, CTX_RESET, RING_DISABLE, JOB_SEED_HIGH_WRITE and
SCALER_ENABLE. -/
def Obligations.RingRegisterRows : Prop :=
  ∀ s : State, s.canonical = true → s.takesWrites .landA = true →
    (∀ c x, c < 8192 → getA s Reg.ctxCtrl_busy = 0 → findCtx s c = some x → x.loading = false →
      let head := getA s Reg.ctxNewHead_head
      let within := decide ((head + 2 ^ 32 - oldestUnbegun x) % 2 ^ 32 ≤ (x.sqTail + 2 ^ 32 - oldestUnbegun x) % 2 ^ 32)
      let kept : State → Prop := fun t =>
        (∀ k, k ≠ c → findCtx t k = findCtx s k) ∧ t = { s with rings := t.rings, regs := t.regs }
      (x.halted = true →
        (∃ t, exec (.ctxResume c) s = .next (disturbLanding t false) ∧
          findCtx t c = some (resumedCtx s { x with halted := false }) ∧ kept t) ∧
        (within = true → ∃ t, exec (.ctxResumeAtHead c) s = .next (disturbLanding t false) ∧
          findCtx t c = some (resumedCtx s { x with halted := false, held := [], sqHead := head % 2 ^ 32 }) ∧ kept t) ∧
        (within = false → ∃ t, exec (.ctxResumeAtHead c) s = .next (disturbLanding t false) ∧ t = { s with regs := t.regs }) ∧
        (ctxBusy s c = true → ∃ t, exec (.ctxReset c) s = .next (disturbLanding t false) ∧ getA t Reg.ctxCtrl_busy = 1 ∧
          findCtx t c = some { x with held := [] } ∧ kept t)) ∧
      (x.halted = false → ∀ i ∈ [Instr.ctxResume c, .ctxResumeAtHead c, .ctxReset c],
        ∃ t, exec i s = .next (disturbLanding t false) ∧ t = { s with regs := t.regs }) ∧
      (x.spilling ≠ 1 → resumedCtx s { x with halted := false } = { x with halted := false })) ∧
    (∀ c x, c < 8192 → getA s Reg.ctxCtrl_busy = 0 → findCtx s c = none → spilledHalted s c = some x →
      s.rings.ovq.any (fun e => e.ctx == c) = false → placesUsed s < 256 →
      ∃ t, exec (.ctxResume c) s = .next (disturbLanding t false) ∧ findCtx t c = some { x with halted := false } ∧
        (∀ k, k ≠ c → findCtx t k = findCtx s k) ∧ t = { s with rings := t.rings, regs := t.regs }) ∧
    (∀ c, c < 8192 → getA s Reg.ctxCtrl_busy = 0 → resettable s c = true → ctxBusy s c = false →
      ∃ t, exec (.ctxReset c) s = .next (disturbLanding t false) ∧ findCtx t c = none ∧
        (∀ k, k ≠ c → findCtx t k = findCtx s k) ∧ resettable t c = false ∧
        (∀ i, i < 448 → memRead t.hostMem (saveAddr s c + 0x40 + i) = 0) ∧
        t = { s with rings := t.rings, regs := t.regs, hostMem := t.hostMem }) ∧
    (∃ t, exec .ringDisable s = .next (disturbLanding t false) ∧ getA t Reg.ringCtrl_enable = 0 ∧
      (getA s Reg.ringCtrl_enable = 1 → getA t Reg.ringCtrl_draining = 1) ∧ t = { s with regs := t.regs, regs1 := t.regs1, regs2 := t.regs2 }) ∧
    (∀ data, data < 2 ^ 32 →
      let low := heldOf s (landABase + 0x1100)
      let t := setA (setA (dropLow s (landABase + 0x1100)) Reg.jobSeed_seedLo low) Reg.jobSeed_seedHi data
      exec (.jobSeedHighWrite data) s = .next (disturbLanding (disturbSeed t) false) ∧
        getA2 t Reg.jobSeed_seedLo Reg.jobSeed_seedHi = low + data * 2 ^ 32) ∧
    (∀ data,
      let t := setA s Reg.sclCtrl_count (data % 2 ^ 10)
      let bad := (List.range (sclCount t)).find? (sclEntryBad t (poisonedEntries t (getA2 t Reg.sclBase_baseLo Reg.sclBase_baseHi) 128 (sclCount t)))
      (bad = none → exec (.scalerEnable data) s =
        .next (disturbLanding (setA (setA t Reg.sclCtrl_enable 1) Reg.sclCtrl_err 0) false)) ∧
      (∀ n, bad = some n → exec (.scalerEnable data) s =
        .next (disturbLanding (setA (setA (setA t Reg.sclCtrl_enable 0) Reg.sclCtrl_err 1) Reg.sclCtrl_errEntry n) false)))

/-- R317, R321, R325, R352, R354, R360, R423: TICK_RUN_WRITE, TIME_SET, SLOT_ENABLE, AXIS_ENABLE, PANNIER_ENABLE,
PANNIER_DISABLE and ROUTE_ENABLE. -/
def Obligations.TimeRegisterRows : Prop :=
  ∀ s : State, s.canonical = true →
    (s.takesWrites .landA = true →
      (∀ data, getA s Reg.tickCtrl_run = 0 → data / 2 ^ 31 % 2 = 1 → 1 ≤ data % 2 ^ 8 → data % 2 ^ 8 ≤ 200 →
        ∃ t, exec (.tickRunWrite data) s = .next (disturbLanding t false) ∧ getA t Reg.tickCtrl_run = 1 ∧
          getA t Reg.tickCtrl_period = data % 2 ^ 8 ∧ t.time = { s.time with nextTick := s.time.tai / tickPeriod t + 1 } ∧
          t = { s with time := t.time, regs := t.regs, regs1 := t.regs1, regs2 := t.regs2 }) ∧
      (∀ data, getA s Reg.tickCtrl_run = 1 → data / 2 ^ 31 % 2 = 0 →
        exec (.tickRunWrite data) s = .next (disturbLanding (setA s Reg.tickCtrl_run 0) false)) ∧
      (∀ data,
        let t := setA s Reg.slotCtrl_count (data % 2 ^ 9)
        exec (.slotEnable data) s = .next (disturbLanding (slotEnable t) false)) ∧
      (getA s Reg.axisCtrl_enable = 0 →
        (∀ a, axisFault s = some a →
          exec .axisEnable s = .next (disturbLanding (chainEffects (chainPump
            (setA (setA (setA s Reg.axisCtrl_enable 0) Reg.axisCtrl_err 1) Reg.axisCtrl_errAxis a))) false)) ∧
        (axisFault s = none →
          exec .axisEnable s = .next (disturbLanding (chainEffects (chainPump (axisEnable s))) false) ∧
          getA (axisEnable s) Reg.axisCtrl_enable = 1 ∧
          (∀ a, a < 6 → getF (axisEnable s) landABase Reg.axis_next a = axisNext s s.chip a % 2 ^ 16 ∧
            getF (axisEnable s) landABase Reg.axis_prev a = axisPrev s s.chip a % 2 ^ 16))) ∧
      (∀ data,
        let t := setA s Reg.routeCtrl_mode (data % 2)
        exec (.routeEnable data) s = .next (disturbLanding (routeEnable t) false)) ∧
      (∀ c data, c < 16 →
        let old := panF s Reg.pan_enable c
        (old = 0 → ∃ t, exec (.pannierEnable c data) s = .next (disturbLanding t false) ∧ panF t Reg.pan_enable c = 1 ∧
          panF t Reg.pan_slots c = data % 2 ^ 7 ∧ panF t Reg.pan_nblk c = data / 2 ^ 8 % 2 ^ 16 ∧
          panF t Reg.pan_outCount c = 0 ∧ panF t Reg.pan_inCount c = 0 ∧
          panF t Reg.pan_halted c = 0 ∧
          panGet t c = ⟨semGet s (panF s Reg.pan_outSem c), semGet s (panF s Reg.pan_inSem c), 0, 0,
            staleMove (panGet s c).spilling, staleMove (panGet s c).filling, (panGet s c).differed⟩ ∧
          (∀ k, k ≠ c → panGet t k = panGet s k) ∧ t = { s with pan := t.pan, regs := t.regs, regs1 := t.regs1, regs2 := t.regs2 }) ∧
        (old = 1 → exec (.pannierEnable c data) s = .next s) ∧
        (old = 1 → exec (.pannierDisable c data) s = .next (disturbLanding (setF s landABase Reg.pan_enable c 0) false)) ∧
        (old = 0 → ∃ t, exec (.pannierDisable c data) s = .next (disturbLanding t false) ∧ panF t Reg.pan_enable c = 0 ∧
          panF t Reg.pan_slots c = data % 2 ^ 7 ∧ panF t Reg.pan_nblk c = data / 2 ^ 8 % 2 ^ 16 ∧
          t = { s with regs := t.regs, regs1 := t.regs1, regs2 := t.regs2 }))) ∧
    (s.takesWrites .landB = true → ∀ data, data < 2 ^ 32 →
      let low := heldOf s (landBBase + 0x1C18)
      (timeSetOk s = true → ∃ t, exec (.timeSet data) s = .next (disturbLanding t false) ∧
        t.time.tai = (low + data * 2 ^ 32) % 2 ^ 64 ∧ getB t Reg.timeStatus_state = 5 ∧
        getB t Reg.timeStatus_activeLead = s.chip % 2 ^ 16) ∧
      (timeSetOk s = false → exec (.timeSet data) s =
        .next (setB (dropLow s (landBBase + 0x1C18)) Reg.timeCtrl_setRefused 1)))

/-- R380, R387, R391, R392, R393, R395: LINK_ENABLE_WRITE, GROUP_RETRAIN, GROUP_MODE_WRITE, STAND_ARM and
FAR_SESSION_VALID_WRITE. -/
def Obligations.LinkRegisterRows : Prop :=
  ∀ s : State, s.canonical = true →
    (∀ n data, n < 96 → s.takesWrites (landBlk (decide (n < 48))) = true →
      exec (.linkEnableWrite n data) s = .next (disturbLanding (linkEnable s n (data % 2)) false) ∧
      (data % 2 = 1 → getL s Reg.linkState_state n = 0 ∨ getL s Reg.linkState_state n = 3 →
        getL (linkEnable s n (data % 2)) Reg.linkState_state n = 1) ∧
      (data % 2 = 0 → getL s Reg.linkState_state n ≠ 0 →
        getL (linkEnable s n (data % 2)) Reg.linkState_state n = 3 ∧
        getL (linkEnable s n (data % 2)) Reg.linkState_cause n = 7)) ∧
    (∀ g data, g < 12 → s.takesWrites (landBlk (decide (g < 6))) = true →
      let least := if 1 ≤ data / 2 % 2 ^ 4 ∧ data / 2 % 2 ^ 4 ≤ 8 then data / 2 % 2 ^ 4 else getG s Reg.groupCtrl_minLinks g
      (data / 2 ^ 6 % 2 = 0 → groupIdle s g = false ∨ groupFifth s g (data % 2) = false →
        ∃ t, exec (.groupRetrain g data) s = .next (disturbLanding t false) ∧ getG t Reg.groupCtrl_minLinks g = least ∧
          getG t Reg.groupCtrl_mode g = (if groupIdle s g then data % 2 else getG s Reg.groupCtrl_mode g) ∧
          (∀ n, n < 96 → getL t Reg.linkState_state n =
            if n / 8 = g ∧ getL s Reg.linkCtrl_enable n = 1 then 1 else getL s Reg.linkState_state n) ∧
          getA t Reg.standCtrl_topoDone =
            nat01 ((List.range 96).all (fun n => getL t Reg.linkState_state n != 1))) ∧
      (groupIdle s g = true → groupFifth s g (data % 2) = false → data / 2 ^ 5 % 4 = 0 →
        ∃ t, exec (.groupModeWrite g data) s = .next (disturbLanding t false) ∧ getG t Reg.groupCtrl_mode g = data % 2 ∧
          getG t Reg.groupCtrl_minLinks g = least ∧
          (∀ h, h < 12 → h ≠ g → getG t Reg.groupCtrl_mode h = getG s Reg.groupCtrl_mode h) ∧
          t = { s with far := t.far, regs := t.regs, regs1 := t.regs1, regs2 := t.regs2 }) ∧
      (groupIdle s g = false → data / 2 ^ 5 % 4 = 0 →
        ∃ u, exec (.groupModeWrite g data) s = .next u ∧ getG u Reg.groupCtrl_mode g = getG s Reg.groupCtrl_mode g ∧
          getG u Reg.groupCtrl_minLinks g = least) ∧
      (groupIdle s g = true → groupFifth s g (data % 2) = true → data / 2 ^ 5 % 4 = 0 →
        ∃ u, exec (.groupModeWrite g data) s = .next u ∧ getG u Reg.groupCtrl_farRefused g = 1 ∧
          getG u Reg.groupCtrl_mode g = getG s Reg.groupCtrl_mode g)) ∧
    (s.takesWrites .landA = true →
      (∀ data, data % 2 = 0 → exec (.standArm data) s = .next (disturbLanding (setA s Reg.standCtrl_armed 0) false)) ∧
      (∀ data, data % 2 = 1 → armReady s = false → exec (.standArm data) s = .next s) ∧
      (∀ data, data % 2 = 1 → armReady s = true →
        ∃ t, exec (.standArm data) s = .next (disturbLanding t false) ∧ getA t Reg.standCtrl_armed = 1 ∧
          getA t Reg.standCtrl_fault = 0 ∧ getA t Reg.standCtrl_faultChip = 0 ∧ getA t Reg.standFault_cause = 0 ∧
          t.chain = { s.chain with faultSeen := false } ∧
          t = { s with chain := t.chain, regs := t.regs, regs1 := t.regs1, regs2 := t.regs2 }) ∧
      (∀ k data, k < 64 → sessF s Reg.far_valid k = 1 → data / 2 ^ 31 % 2 = 0 →
        ∃ t, exec (.farSessionValidWrite k data) s = .next (disturbLanding t false) ∧ sessF t Reg.far_valid k = 0 ∧
          sessF t Reg.far_route k = 0 ∧ farGet t k = farIdle ∧ (∀ j, j ≠ k → farGet t j = farGet s j) ∧
          sessF t Reg.far_peerChip k = sessF s Reg.far_peerChip k ∧
          t = { s with far := t.far, regs := t.regs, regs1 := t.regs1, regs2 := t.regs2 }) ∧
      (∀ k data, k < 64 → sessF s Reg.far_valid k = 1 → data / 2 ^ 31 % 2 = 1 → exec (.farSessionValidWrite k data) s = .next s) ∧
      (∀ k data, k < 64 → sessF s Reg.far_valid k = 0 → data / 2 ^ 31 % 2 = 0 →
        ∃ t, exec (.farSessionValidWrite k data) s = .next (disturbLanding t false) ∧ sessF t Reg.far_valid k = 0 ∧
          sessF t Reg.far_peerChip k = data % 2 ^ 16 ∧ sessF t Reg.far_peerStand k = data / 2 ^ 16 % 2 ^ 6) ∧
      (∀ k data, k < 64 → sessF s Reg.far_valid k = 0 → data / 2 ^ 31 % 2 = 1 →
        ∃ t, exec (.farSessionValidWrite k data) s = .next (disturbLanding t false) ∧
          sessF t Reg.far_peerChip k = data % 2 ^ 16 ∧ sessF t Reg.far_peerStand k = data / 2 ^ 16 % 2 ^ 6 ∧
          (sessGroupsOk s k = true → sessF t Reg.far_valid k = 1 ∧ sessF t Reg.far_err k = 0) ∧
          (sessGroupsOk s k = false → sessF t Reg.far_valid k = 0 ∧ sessF t Reg.far_err k = 1) ∧
          (∀ j, j < 64 → j ≠ k → sessF t Reg.far_valid j = sessF s Reg.far_valid j) ∧
          t = { s with far := t.far, regs := t.regs, regs1 := t.regs1, regs2 := t.regs2 }))

/-- R426, R428, R430, R431, R440, R443, R447: KEY_IMPORT, KEY_IMPORT_DONE, KEY_CLEAR, RNG_RESTART, ENTROPY_HEALTH_FAIL
and the Kerf rows of a session. -/
def Obligations.KeyRegisterRows : Prop :=
  ∀ s : State, s.canonical = true →
    (s.takesWrites .landA = true →
      (∀ data, getA s Reg.keyImport_busy = 1 → exec (.keyImport data) s = .next (dropWrite s .landA)) ∧
      (∀ data, getA s Reg.keyImport_busy = 0 →
        let t := setA s Reg.keyImport_slot (data % 2 ^ 8)
        exec (.keyImport data) s =
          .next (disturbLanding (if data / 2 ^ 8 % 2 = 1 then setA t Reg.keyImport_busy 1 else t) false)) ∧
      (∀ data, slotInUse s (data % 2 ^ 8) = false →
        ∃ t, exec (.keyClear data) s = .next (disturbLanding t false) ∧ keyGet t (data % 2 ^ 8) = none ∧
          (∀ k, k ≠ data % 2 ^ 8 → keyGet t k = keyGet s k) ∧ t = { s with keys := t.keys, regs := t.regs }) ∧
      (∀ data, slotInUse s (data % 2 ^ 8) = true →
        ∃ u, exec (.keyClear data) s = .next u ∧ getA u Reg.keyClear_refused = 1 ∧ u.keys = s.keys) ∧
      (∀ data, data % 2 = 0 → ∀ pass, exec (.rngRestart data pass) s = .next (disturbLanding s false)) ∧
      (∀ data, data % 2 = 1 →
        exec (.rngRestart data false) s = .next (disturbLanding s false) ∧
        ∃ t, exec (.rngRestart data true) s = .next (disturbLanding t false) ∧
          ((∀ k, k < 64 → (farGet s k).stalled = []) → getA t Reg.kerfStatus_rngFail = 0 ∧ getB t Reg.kerfStatus_rngFail = 0)) ∧
      (∀ k slot, k < 64 → slot < 256 → stageOk s k slot = true →
        ∃ t, exec (.kerfStageKey k slot) s = .next (disturbLanding t false) ∧ sessF t Reg.sess_nextSlot k = slot ∧
          sessF t Reg.sess_nextValid k = 1 ∧ t = { s with regs := t.regs }) ∧
      (∀ k slot, k < 64 → slot < 256 → stageOk s k slot = false →
        ∃ u, exec (.kerfStageKey k slot) s = .next u ∧ sessF u Reg.sess_err k = 1 ∧
          sessF u Reg.sess_nextSlot k = sessF s Reg.sess_nextSlot k ∧
          sessF u Reg.sess_nextValid k = sessF s Reg.sess_nextValid k) ∧
      (∀ k slot key, k < 64 → slot < 256 → stageOk s k slot = true → keyGet s slot = some key →
        (sessF s Reg.sess_prevLive k = 1 → ∃ t, exec (.kerfRoll k slot) s = .next (disturbLanding t false) ∧
          sessF t Reg.sess_rollPending k = 1 ∧ sessF t Reg.sess_curSlot k = sessF s Reg.sess_curSlot k ∧
          t = { s with regs := t.regs }) ∧
        (sessF s Reg.sess_prevLive k = 0 → ∃ t, exec (.kerfRoll k slot) s = .next (disturbLanding t false) ∧
          sessF t Reg.sess_curSlot k = slot ∧ sessF t Reg.sess_curEpoch k = key.epoch % 2 ^ 8 ∧ sessF t Reg.sess_hasCur k = 1 ∧
          sessF t Reg.sess_nextValid k = 0 ∧ (farGet t k).rolled = s.time.tai ∧
          (sessF s Reg.sess_hasCur k = 1 → sessF t Reg.sess_prevSlot k = sessF s Reg.sess_curSlot k ∧
            sessF t Reg.sess_prevLive k = 1) ∧
          t = { s with far := t.far, regs := t.regs, rings := t.rings, cross := t.cross })) ∧
      (∀ k slot, k < 64 → slot < 256 → stageOk s k slot = false → sessF s Reg.sess_nextValid k = 0 →
        ∃ u, exec (.kerfRoll k slot) s = .next u ∧ sessF u Reg.sess_err k = 1 ∧
          sessF u Reg.sess_curSlot k = sessF s Reg.sess_curSlot k ∧ sessF u Reg.sess_hasCur k = sessF s Reg.sess_hasCur k) ∧
      (∀ k slot, k < 64 → slot < 256 →
        ∃ t, exec (.kerfAuthHaltClear k slot) s = .next (disturbLanding t false) ∧ sessF t Reg.sess_authHalt k = 0 ∧
          sessF t Reg.sess_err k = (if stageOk s k slot then sessF s Reg.sess_err k else 1) ∧
          farGet t k = (if sessF s Reg.sess_authHalt k = 1 then
            { farGet s k with authCount := 0, num := { (farGet s k).num with
              resendq := (farGet s k).num.retry.map (fun f => f.seq) } } else farGet s k) ∧
          t = { s with far := t.far, regs := t.regs })) ∧
    (∀ (readOk oaepOk : Bool) (m : List Byte), getA s Reg.keyImport_busy = 1 →
      let slot := getA s Reg.keyImport_slot
      let r := keyResult s readOk oaepOk m slot
      ∃ u, exec (.keyImportDone readOk oaepOk m) s = .next u ∧ getA u Reg.keyImport_busy = 0 ∧
        getA u Reg.keyImport_result = r ∧
        (r = 0 → keyGet u slot = some (keySlotOf m) ∧ (∀ k, k ≠ slot → keyGet u k = keyGet s k) ∧ keySeq u = byteNat m 8 8) ∧
        (r ≠ 0 → u.keys = s.keys ∧ keySeq u = keySeq s) ∧ u = { s with keys := u.keys, regs := u.regs }) ∧
    (∃ u, exec .entropyHealthFail s = .next u ∧ getA u Reg.kerfStatus_rngFail = 1 ∧ getB u Reg.kerfStatus_rngFail = 1 ∧
      getA u Reg.kerfStatus_stall0 = 1 ∧ getB u Reg.kerfStatus_stall1 = 1 ∧
      u = { s with regs := u.regs, rings := u.rings, cross := u.cross }) ∧
    (∀ k, k < 64 → sessF s Reg.sess_prevLive k = 1 → graceOver s k = true → kerfStalled s = false →
      ∃ u, exec (.kerfGraceExpire k) s = .next u ∧
        (sessF s Reg.sess_rollPending k = 0 → sessF u Reg.sess_prevLive k = 0 ∧
          keyGet u (sessF s Reg.sess_prevSlot k) = none ∧
          (farGet u k).num.retry.map (fun f => f.seq) = (farGet s k).num.retry.map (fun f => f.seq)) ∧
        ((farGet s k).num.retry = [] →
          (∀ j, j ≠ sessF s Reg.sess_prevSlot k → keyGet u j = keyGet s j) ∧
          (∀ slot, sessF s Reg.sess_rollPending k = 1 → sessF s Reg.sess_nextValid k = 1 →
            slot = sessF s Reg.sess_nextSlot k → slot ≠ sessF s Reg.sess_prevSlot k → (keyGet s slot).isSome = true →
            sessF u Reg.sess_curSlot k = slot ∧ sessF u Reg.sess_rollPending k = 0) ∧
          u = { s with keys := u.keys, far := u.far, regs := u.regs, rings := u.rings, cross := u.cross })) ∧
    (∀ k, sessF s Reg.sess_prevLive k = 0 ∨ graceOver s k = false ∨ kerfStalled s = true →
      exec (.kerfGraceExpire k) s = .next s)

/-- R75, R76, R77, R78, R80, R81, R82, R89: An element that is decoded and converted back keeps its code, and packed
rows read back. -/
def Obligations.ElementsKeepTheirCodes : Prop :=
  (∀ (f : Fmt) (r : Rnd) (code : Nat), code < 2 ^ fmtWidth f → fvIsNan (decodeCode f code) = false →
      (convert f r (decodeCode f code)).1 = code) ∧
    (∀ (w i : Nat) (cs : List Nat), w = 4 ∨ w = 6 ∨ w = 8 ∨ w = 16 ∨ w = 32 ∨ w = 64 → (∀ c ∈ cs, c < 2 ^ w) →
      i < cs.length → (packRow w cs).length = packedLen w cs.length ∧
      packedGet (fun a => (packRow w cs).getD a 0) w i = cs.getD i 0)

/-- R111, R112, R114, R122, R123: A fault-free INT32 tile has the exact sums and passes its check; any single faulty
output is found in its row and column. -/
def Obligations.IntegerTilesAreCheckedExactly : Prop :=
  ∀ (x : MatSpec) (t : Nat), x.acc = .i32 → x.passes = 0 → (∀ i k, ∃ z : Int, x.a i k = fvOfInt z) →
    (∀ k j, ∃ z : Int, x.b k j = fvOfInt z) →
    (x.accIn = true → ∀ i j, ∃ z : Int, x.c i j = fvOfInt z ∧ -(2 ^ 31) ≤ z ∧ z < 2 ^ 31) → (tileRun x t).sat = false →
    let exact := fun (i j : Nat) => (if x.accIn then fvInt (x.c i j) else 0) +
      ((List.range x.k).map (fun k => fvInt (x.a i k) * fvInt (x.b k j))).sum
    (∀ (n i j : Nat), (tilePos x.m x.n t)[n]? = some (i, j) → ((tileRun x t).outs[n]?).map (decodeCode .int32) = some (fvOfInt (exact i j))) ∧
    sumCheckFails x t (tileRun x t) = ([], []) ∧
    (∀ (n i j e : Nat), (tilePos x.m x.n t)[n]? = some (i, j) → e % 2 ^ 32 ≠ 0 → sumCheckFails x t (tileRunFlips x t [(n, e)]) = ([i], [j]))

/-- R112, R114, R120, R125, R130, R155: A one-tile INT8 MATMUL into INT32 ends with DONE and its output rows hold the
exact products. -/
def Obligations.IntegerMatmulWritesExactProducts : Prop :=
  ∀ (s : State) (c i : Nat) (o : Op), memWf s.mem = true → runningOp s c i 0x0100 = some o →
    o.work = .mat ⟨[], [], none, none⟩ → o.reruns = 0 → o.away = [] → dCheck o.d ≤ 1 → mFmtA o.d = 6 → mFmtB o.d = 6 → mFmtD o.d = 11 →
    mPasses o.d = 0 → mAccIn o.d = false → mZb o.d = false → sideMode o.d ≠ 1 → 1 ≤ mM o.d → mM o.d ≤ 128 → 1 ≤ mN o.d →
    mN o.d ≤ 64 → mK o.d ≤ 65536 → 4 * mN o.d ≤ slotPitch o.d 0x48 → slotOver s o = false → unitsHeld s = false →
    trainRegions s = [] →
    let row := fun (r : Nat) => slotOff o.d 0x48 + r * slotPitch o.d 0x48
    ∃ u p, exec (.matmul c i) s = .next u ∧ findOp u c i = some p ∧ p.ended = some ⟨.done, 0⟩ ∧
      (∀ r j, r < mM o.d → j < mN o.d → memNat u.mem (row r + 4 * j) 4 =
        ofSigned 32 ((List.range (mK o.d)).map (fun k => fvInt (aVal s o.d r k) * fvInt (bVal s o.d k j))).sum) ∧
      (∀ a, (∀ r, r < mM o.d → a < row r ∨ row r + 4 * mN o.d ≤ a) → memRead u.mem a = memRead s.mem a)

/-- R109, R110, R112, R121, R123, R124, R125, R126, R303, R601, R602: TILE_FILL_BEGIN, TILE_FILL_END, the checks,
TILE_DRAIN_END and PANEL_DECODE_DONE take a tile one stage further. -/
def Obligations.TilesStepByStep : Prop :=
  ∀ s : State, s.canonical = true →
    (∀ cell q o t, let c := cellGet s cell
      c.filling = none → c.stopped = false → unitsHeld s = false → c.reruns = [] →
      (banksTaken s cell 0x10000 0 0).contains (1 - c.lastBank) = false → c.offers.find? (offerStands s cell) = some q →
      findOp s q.1 q.2 = some o → nextTile o cell = some t → sideMode o.d ≠ 1 →
      (offerReady s cell q = false → exec (.tileFillBegin cell) s = .next s) ∧
      (offerReady s cell q = true → ∃ u p, exec (.tileFillBegin cell) s = .next u ∧
        cellGet u cell = { c with filling := some (q.1, q.2, t), offers := c.offers.filter (fun x => x != q) } ∧
        (∀ k, k ≠ cell → cellGet u k = cellGet s k) ∧ findTile u q.1 q.2 t = some (p, newTile t cell (1 - c.lastBank)) ∧
        u = { s with cells := u.cells, ops := u.ops })) ∧
    (∀ cell q o x, let c := cellGet s cell
      c.filling = none → c.stopped = false → unitsHeld s = false → c.reruns.find? (runReady s cell) = some q →
      findTile s q.1 q.2.1 q.2.2 = some (o, x) → x.cell = cell → sideMode o.d ≠ 1 →
      ∃ u p, exec (.tileFillBegin cell) s = .next u ∧
        cellGet u cell = { c with filling := some q, reruns := c.reruns.filter (fun y => y != q) } ∧
        (∀ k, k ≠ cell → cellGet u k = cellGet s k) ∧
        findTile u q.1 q.2.1 q.2.2 = some (p, { x with stage := .filling, runs := x.runs + 1 })) ∧
    (∀ cell q o x flips, (cellGet s cell).filling = some q → findTile s q.1 q.2.1 q.2.2 = some (o, x) → x.cell = cell →
      let s1 := cellSet s cell { cellGet s cell with filling := none, lastBank := runBank x }
      let sp := matSpec s o (tilePanel s o x.cell x.t)
      let r := tileRunFlips sp x.t flips
      (opWaits s o = true → exec (.tileFillEnd cell flips) s = .next s) ∧
      (opWaits s o = false → exec (.tileFillEnd cell flips) s = .next (fillDone s1 o x flips) ∧
        (∃ p y, findTile (fillDone s1 o x flips) o.ctx o.idx x.t = some (p, y) ∧
          (x.dup = 0 → dupNeeded sp x.t r = false → y.stage = .sumCheck ∧ y.cur = r) ∧
          (x.dup = 0 → dupNeeded sp x.t r = true → y.stage = .waiting ∧ y.dup = 1 ∧ y.first = r ∧
            (cellGet (fillDone s1 o x flips) cell).reruns.contains (o.ctx, o.idx, x.t) = true) ∧
          (x.dup = 1 → y.stage = .dupCheck ∧ y.second = r) ∧ (1 < x.dup → y.stage = .dupCheck ∧ y.cur = r)))) ∧
    (∀ cell o x, tileIn s cell .sumCheck = some (o, x) → findTile s o.ctx o.idx x.t = some (o, x) →
      let bad := sumCheckFails (matSpec s o (tilePanel s o x.cell x.t)) x.t x.cur
      (bad = ([], []) → ∃ u p, exec (.tileSumCheckDone cell) s = .next u ∧
        findTile u o.ctx o.idx x.t = some (p, { x with stage := .draining }) ∧ p.checks = o.checks + 1 ∧
        u.cells = s.cells ∧ u = { s with ops := u.ops, regs := u.regs }) ∧
      (bad ≠ ([], []) → x.fails = 0 → ∃ u p, exec (.tileSumCheckDone cell) s = .next u ∧
        findTile u o.ctx o.idx x.t = some (p, { x with stage := .waiting, fails := 1 }) ∧ p.checks = o.checks + 1 ∧
        p.reruns = o.reruns + 1 ∧ (cellGet u x.cell).reruns.contains (o.ctx, o.idx, x.t) = true) ∧
      (bad ≠ ([], []) → x.fails ≠ 0 → (matOf o).failed = none → ∃ u p, exec (.tileSumCheckDone cell) s = .next u ∧
        findTile u o.ctx o.idx x.t = none ∧ findOp u o.ctx o.idx = some p ∧ p.checks = o.checks + 1 ∧
        (matOf p).failed = some ⟨.checkFail, faultTail s⟩)) ∧
    (∀ cell o x, tileIn s cell .dupCheck = some (o, x) → findTile s o.ctx o.idx x.t = some (o, x) →
      (x.dup = 1 → runsEqual x.first x.second = true → ∃ u p, exec (.tileDupCompareDone cell) s = .next u ∧
        findTile u o.ctx o.idx x.t = some (p, { x with stage := .draining, dup := 0, cur := x.first }) ∧
        p.checks = o.checks + 1 ∧ u = { s with ops := u.ops, regs := u.regs }) ∧
      (x.dup = 1 → runsEqual x.first x.second = false → ∃ u p, exec (.tileDupCompareDone cell) s = .next u ∧
        findTile u o.ctx o.idx x.t = some (p, { x with stage := .waiting, dup := 2, fails := x.fails + 1 }) ∧
        p.checks = o.checks + 1 ∧ p.reruns = o.reruns + 1) ∧
      (x.dup = 2 → (runsEqual x.cur x.first || runsEqual x.cur x.second) = true →
        ∃ u p, exec (.tileDupCompareDone cell) s = .next u ∧
        findTile u o.ctx o.idx x.t = some (p, { x with stage := .draining, dup := 0 }) ∧ p.checks = o.checks + 1) ∧
      (x.dup = 2 → (runsEqual x.cur x.first || runsEqual x.cur x.second) = false → (matOf o).failed = none →
        ∃ u p, exec (.tileDupCompareDone cell) s = .next u ∧ findTile u o.ctx o.idx x.t = none ∧
        findOp u o.ctx o.idx = some p ∧ (matOf p).failed = some ⟨.checkFail, faultTail s⟩)) ∧
    (∀ cell bank o x, s.ops.findSome? (fun o => match (matOf o).tiles.find?
          (fun x => x.cell == cell && x.bank == bank && x.stage == .draining) with
        | some x => some (o, x)
        | none => none) = some (o, x) → findTile s o.ctx o.idx x.t = some (o, x) →
      (opWaits s o = true → exec (.tileDrainEnd cell bank) s = .next s) ∧
      (opWaits s o = false → ∃ u p, exec (.tileDrainEnd cell bank) s = .next u ∧
        findOp u o.ctx o.idx = some p ∧ (matOf p).drained = (matOf o).drained ++ [x.t] ∧ findTile u o.ctx o.idx x.t = none ∧
        (checkLevel o.d ≠ 2 → u = holdTrain s (drainDone s o x) o.ctx o.idx) ∧
        (fwMx (mFmtD o.d) = false → mPair o.d = false → (matOf o).bind = none →
          ∀ a, (∀ r ∈ tileRows o.d x.t, a < r.1 ∨ r.1 + packedLen (fmtWidth (fwFmtD (mFmtD o.d))) r.2 ≤ a) →
            memRead u.mem a = memRead s.mem a))) ∧
    (∀ cell c i stall o t, findOp s c i = some o → opRuns o = true → mZb o.d = true →
      dOpcode o.d = 0x0100 ∨ dOpcode o.d = 0x0101 → (matOf o).failed = none → opWaits s o = false →
      panelWanted s o cell = some t → panelHeld s o cell (t % tileCols (mN o.d)) = none →
      let tj := t % tileCols (mN o.d)
      let s1 := event (countF s (cellBase cell) Reg.expStall_aclk 0 stall) (cellBase cell) 0x05 stall
      let read := readSegment (fun j => memRead s.mem (panelAddr s o.d tj + j))
      exec (.panelDecodeDone cell c i stall) s = .next (matMaybeEnd (decodePanel s1 o cell tj) c i) ∧
      (∀ h syms scales, read = .ok (h, syms, scales) →
        panelHeld (decodePanel s1 o cell tj) o cell tj = some ⟨c, i, tj, syms, scales⟩) ∧
      (∀ r, read = .error r → ∃ p, findOp (decodePanel s1 o cell tj) c i = some p ∧ (matOf p).failed = some (refuseEnd r tj)))

/-- R49, R61, R118, R357, R358: MATMUL_PAIR, LEVEL2_RUN_END, OPERATION_PARK and OPERATION_RESUME. -/
def Obligations.PairLevelTwoAndParking : Prop :=
  (∀ (s : State) (c i : Nat) (o : Op), runningOp s c i 0x0101 = some o →
      exec (.matmulPair c i) s = .next (onSide s c i (fun t => holdTrain t (matRunAll t o) c i)) ∧
      (checkLevel o.d ≠ 2 → exec (.matmulPair c i) s = .next (holdTrain s (matRunAll s o) c i))) ∧
    (∀ (s : State) (c i : Nat) (o : Op) (alt : List (Nat × Byte)), findOp s c i = some o → o.ended = none → o.parked = false →
      2 ≤ o.run → ∃ p, findOp (mendOp s o) c i = some p ∧ p.run = o.run ∧ p.digests = o.digests ∧
        exec (.level2RunEnd c i alt) s = .next (levelRunEnd (mendOp s o) p alt) ∧ (heldBind o = none → mendOp s o = s ∧ p = o)) ∧
    (∀ (s : State) (o : Op) (alt : List (Nat × Byte)), memWf s.mem = true → findOp s o.ctx o.idx = some o →
      let t := countRunChecks s o.d
      let gs := opOutputs (overlaid t o) o
      let m := memWriteAll s.mem o.writes
      let d1 := runDigest m gs
      let mn := memWriteAll m (altIn gs alt)
      let dn := runDigest mn gs
      (o.run = 2 → dn = d1 → levelRunEnd s o alt = endOp t o.ctx o.idx (levelEnd o)) ∧
      (o.run = 2 → dn ≠ d1 →
        levelRunEnd s o alt = updOp t o.ctx o.idx (fun p => { p with run := 3, digests := [d1, dn] })) ∧
      (o.run = 3 → gs ≠ [] → dn = o.digests.getD 0 0 → ∃ p, findOp (levelRunEnd s o alt) o.ctx o.idx = some p ∧
        p.ended = some (levelEnd { o with reruns := o.reruns + 1 }) ∧ p.writes = o.writes ∧ (levelRunEnd s o alt).mem = s.mem) ∧
      (o.run = 3 → gs ≠ [] → dn ≠ o.digests.getD 0 0 → dn = o.digests.getD 1 0 →
        ∃ p, findOp (levelRunEnd s o alt) o.ctx o.idx = some p ∧ p.ended = some (levelEnd p) ∧ p.reruns = 1 ∧
          ∀ a, memRead (overlaid (levelRunEnd s o alt) p).mem a = memRead mn a) ∧
      (o.run = 3 → gs ≠ [] → dn ≠ o.digests.getD 0 0 → dn ≠ o.digests.getD 1 0 →
        ∃ p, findOp (levelRunEnd s o alt) o.ctx o.idx = some p ∧
          p.ended = some ⟨.checkFail, faultTail t⟩ ∧ p.reruns = o.reruns + 1)) ∧
    (∀ (s : State) (c i g : Nat) (o : Op) (x : Ctx), findOp s c i = some o → findCtx s c = some x → o.ended = none →
      o.parked = false → runsElastic o.d = true → slotOver s o = true → atParkPoint s o = true → parkAllowed s o g = true →
      (dOpcode o.d = 0x0900 → g ≤ (updOf o).unit) →
      ∃ u p, exec (.operationPark c i g) s = .next u ∧ findOp u c i = some p ∧ p.parked = true ∧ p.everParked = true ∧
        p.work = o.work ∧ p.ended = none ∧ p.away = [] ∧
        (o.everParked = false → ∃ y, findCtx u c = some y ∧ y.cqTail = (x.cqTail + 1) % 2 ^ 32 ∧ y.reserved = x.reserved - 1 ∧
          y.halted = x.halted ∧ u.hostMem = memWriteAll s.hostMem (bytesWrites (x.cqBase + (x.cqTail % 2 ^ x.cqOrder) * 32)
            (entryBytes s x ⟨i, .parked, false, false, false, dTag o.d, parkDetail o g, dNotify o.d⟩))) ∧
        (o.everParked = true → u.hostMem = s.hostMem ∧ findCtx u c = some x) ∧
        (isTruing o = false → u.mem = s.mem)) ∧
    (∀ (s : State) (c i g : Nat) (o : Op), findOp s c i = some o →
      o.ended ≠ none ∨ o.parked = true ∨ runsElastic o.d = false ∨ slotOver s o = false ∨ atParkPoint s o = false ∨
        parkAllowed s o g = false → exec (.operationPark c i g) s = .next s) ∧
    (∀ (s : State) (c i : Nat) (o : Op), findOp s c i = some o →
      let us := resumeUnits s o
      (us = [] → exec (.operationResume c i) s = .next s) ∧
      (us ≠ [] → ∃ t p, findOp t c i = some p ∧
        p = { o with parked := false, away := (awayUnits o).filter (fun u => !us.contains u),
                     slot := if o.parked then s.time.ticksTaken else o.slot } ∧ t = { s with ops := t.ops } ∧
        exec (.operationResume c i) s = .next (if o.run = 1 then resumeWork t p us else t)))

/-- R164, R165, R170, R171, R172, R176: CHAIN, REDUCE_TREE and VECTOR_UNIT_DONE write the converted outputs of their
units and nothing else. -/
def Obligations.VectorWorkWritesItsRow : Prop :=
  ∀ s : State, memWf s.mem = true → unitsHeld s = false → trainRegions s = [] →
    (∀ c i o, findOp s c i = some o → opRuns o = true → dOpcode o.d = 0x0200 ∨ dOpcode o.d = 0x0210 →
      o.work = .vec ⟨[], [0], none⟩ → opWaits s o = false → o.away = [] → o.reruns = 0 → dCheck o.d ≤ 1 → fwMx (vFmtY o.d) = false → slotOver s o = false →
      1 ≤ vOuts o.d → vOuts o.d ≤ 8192 →
      let f := fwFmtD (vFmtY o.d)
      let n := packedLen (fmtWidth f) (vOuts o.d)
      ∃ u p, exec (if dOpcode o.d = 0x0200 then .chain c i else .reduceTree c i) s = .next u ∧ findOp u c i = some p ∧
        p.ended = some ⟨.done, 0⟩ ∧
        memBytes u.mem (vOut o.d) n = packRow (fmtWidth f) ((List.range (vOuts o.d)).map (fun j =>
          (convert f (vRnd s o j) (vOutput s o.d j).1).1)) ∧
        (∀ a, a < vOut o.d ∨ vOut o.d + n ≤ a → memRead u.mem a = memRead s.mem a)) ∧
    (∀ cell c i o k, findOp s c i = some o → opRuns o = true → (cellGet s cell).stopped = false →
      (vecOf o).running.find? (fun u => cellOfUnit o.d u == cell) = some k → (vecOf o).bind = none →
      fwMx (vFmtY o.d) = false →
      (opWaits s o = true → exec (.vectorUnitDone cell c i) s = .next s) ∧
      (opWaits s o = false → ∃ u p, exec (.vectorUnitDone cell c i) s = .next u ∧ findOp u c i = some p ∧
        (vecOf p).doneUnits = (vecOf o).doneUnits ++ [k] ∧
        (∀ a, (∀ r ∈ unitRows o.d k, a < r.1 ∨ r.1 + packedLen (fmtWidth (fwFmtD (vFmtY o.d))) r.2 ≤ a) →
          memRead u.mem a = memRead s.mem a)))

/-- R177, R178, R179: The contents of a line of an adder group do not depend on the order in which its contributions
arrive. -/
def Obligations.OrderedAdderIgnoresArrivalOrder : Prop :=
  ∀ (s : State) (g l src ctx idx : Nat) (x : SumGroup) (cs ds : List (Nat × List Byte)), memWf s.mem = true →
    groupGet s g = some x → l < x.lines → x.touched = [] → x.p ≤ 65 →
    heldBy s (stackOf (lineOff x l)) + 65 ≤ 2048 → cs.Perm ds → (cs.map Prod.fst).Nodup → (∀ c ∈ cs, c.1 < x.p) →
    ∃ t u, runCommands (cs.map (fun c => .omaContribution g c.1 l c.2 src ctx idx)) s = some t ∧
      runCommands (ds.map (fun c => .omaContribution g c.1 l c.2 src ctx idx)) s = some u ∧ t.mem = u.mem

/-- R177, R178, R179, R180, R181, R182, R183: SUM_OPEN, CONTRIBUTE, OMA_CONTRIBUTION, OMA_RESEND_TIMER and OMA_OVERDUE.
-/
def Obligations.AdderGroupsAndContributions : Prop :=
  ∀ s : State, s.canonical = true →
    (∀ c i o, runningOp s c i 0x0220 = some o → s.groups.any (fun x => x.ctx == c && x.idx == i) = false →
      let t := openGroup s c i (soGroup o.d) (soTarget o.d) (soLines o.d) (soInt o.d) (soP o.d) (soInit o.d)
      (∀ e, sumOpenFault s o.d = some e → exec (.sumOpen c i) s = .next (ctxFault s c i e.1 e.2)) ∧
      (sumOpenFault s o.d = none → exec (.sumOpen c i) s = .next t ∧
        t.groups = s.groups ++ [⟨soGroup o.d, c, i, soTarget o.d, soLines o.d, soInt o.d, soP o.d, soInit o.d, [], []⟩] ∧
        (∀ p, findOp t c i = some p → p.ended = none) ∧
        (soInit o.d = true → t = { s with groups := t.groups }) ∧
        (soInit o.d = false → trainRegions s = [] → ∀ a, memRead t.mem a =
          if soTarget o.d ≤ a ∧ a < soTarget o.d + 64 * soLines o.d then 0 else memRead s.mem a))) ∧
    (∀ g i l d src c k x, groupGet s g = some x → l < x.lines → i < x.p →
      let y := lineGet x l
      y.early = [] →
      (i < y.next → ∃ u, exec (.omaContribution g i l d src c k) s = .next u ∧ u = { s with groups := u.groups }) ∧
      (i = y.next → ∀ o, findOp s x.ctx x.idx = some o →
        let base := overlaid s o
        ∃ u p, exec (.omaContribution g i l d src c k) s = .next u ∧ findOp u x.ctx x.idx = some p ∧
          (∀ z, groupGet u g = some z → (lineGet z l).next = y.next + 1) ∧
          (∀ j, j < 16 → memNat (overlaid u p).mem (lineOff x l + 4 * j) 4 =
            (omaAdd x.int (rdNat base (lineOff x l + 4 * j) 4) (lineWord d j)).1 % 2 ^ 32) ∧
          (∀ a, a < lineOff x l ∨ lineOff x l + 64 ≤ a → memRead (overlaid u p).mem a = memRead base.mem a) ∧
          (trainRegions s = [] → o.writes = [] → p.writes = [])) ∧
      (y.next < i → i ≤ y.next + 64 → heldBy s (stackOf (lineOff x l)) < 2048 →
        ∃ u z, exec (.omaContribution g i l d src c k) s = .next u ∧ groupGet u g = some z ∧
          lineGet z l = { y with early := [⟨i, d, s.time.tai, src, c, k⟩] } ∧ u = { s with groups := u.groups }) ∧
      (y.next < i → y.next + 64 < i ∨ 2048 ≤ heldBy s (stackOf (lineOff x l)) →
        ∃ u, exec (.omaContribution g i l d src c k) s = .next u ∧
          (src = s.chip → u.resends = s.resends ++ [⟨g, i, l, s.chip, d, c, k, s.time.tai⟩] ∧ u.txq = s.txq) ∧
          (src ≠ s.chip → u.resends = s.resends ∧ u.txq.map (fun m => m.msg) =
            s.txq.map (fun m => m.msg) ++ [⟨s.chip, c, k, .refused g i l⟩]) ∧
          getF u (omaMill (stackOf (lineOff x l))) Reg.omaRefused_count 0 =
            min (fldTop Reg.omaRefused_count) (getF s (omaMill (stackOf (lineOff x l))) Reg.omaRefused_count 0 + 1) ∧
          u = { s with groups := u.groups, resends := u.resends, txq := u.txq, regs := u.regs })) ∧
    (∀ c i o, runningOp s c i 0x0221 = some o → o.work = .none →
      (∀ e, contributeFault s o.d = some e → exec (.contribute c i) s = .next (ctxFault s c i e.1 e.2)) ∧
      (contributeFault s o.d = none → ctChip o.d = s.chip →
        exec (.contribute c i) s = .next (ctSendAll (markUsed s (ctGroup o.d) (ctIndex o.d)) o)) ∧
      (contributeFault s o.d = none → ctChip o.d ≠ s.chip →
        let m : Msg := ⟨s.chip, c, i, .groupCheck (ctGroup o.d) (ctIndex o.d) (ctLines o.d)⟩
        ∃ u, exec (.contribute c i) s = .next u ∧ findOp u c i = some { o with work := .asking } ∧
          u.txq = s.txq ++ [⟨4, ctChip o.d, s.stand, none, 0, msgPayload 4 m, m⟩] ∧
          u = { s with ops := u.ops, txq := u.txq })) ∧
    (∀ c i o src bs, findOp s c i = some o → opRuns o = true → dOpcode o.d = 0x0221 → o.work = .asking →
      (∀ code off, code ≠ 0 → deliverMsg s ⟨src, c, i, .verdict code off⟩ 7 bs = ctxFault s c i code off) ∧
      (ctChip o.d ≠ s.chip →
        let u := deliverMsg s ⟨src, c, i, .verdict 0 0⟩ 7 bs
        findOp u c i = some { o with work := .remote (ctLines o.d) false } ∧
        u.txq = s.txq ++ (List.range (ctLines o.d)).map (fun l =>
          let m : Msg := ⟨s.chip, o.ctx, o.idx, .adder (ctGroup o.d) (ctIndex o.d) l (rdBytes s (ctSrc o.d + 64 * l) 64)⟩
          ⟨4, ctChip o.d, s.stand, none, 0, msgPayload 4 m, m⟩) ∧
        u = { s with ops := u.ops, txq := u.txq })) ∧
    (∀ g i l r, s.resends.find? (fun r => r.group == g && r.index == i && r.line == l) = some r →
      (timeCome s (r.at_ + 1000) = false → exec (.omaResendTimer g i l) s = .next s) ∧
      (timeCome s (r.at_ + 1000) = true → ∃ u, exec (.omaResendTimer g i l) s = .next u ∧
        (r.chip ≠ s.chip → u.resends = s.resends.filter (fun q => !(q.group == g && q.index == i && q.line == l)) ∧
          u.txq.map (fun m => m.msg) = s.txq.map (fun m => m.msg) ++ [⟨s.chip, r.ctx, r.idx, .adder g i l r.data⟩] ∧
          u = { s with resends := u.resends, txq := u.txq }) ∧
        (r.chip = s.chip → u = omaArrive { s with resends := s.resends.filter (fun q =>
          !(q.group == g && q.index == i && q.line == l)) } g i l r.data s.chip r.ctx r.idx))) ∧
    (∀ g l x t, groupGet s g = some x → overdueAt s (lineGet x l) = some t →
      (timeCome s t = false ∨ (lineGet x l).overdue = some (lineGet x l).next → exec (.omaOverdue g l) s = .next s) ∧
      (timeCome s t = true → (lineGet x l).overdue ≠ some (lineGet x l).next →
        ∃ u z, exec (.omaOverdue g l) s = .next u ∧ groupGet u g = some z ∧
          lineGet z l = { lineGet x l with overdue := some (lineGet x l).next } ∧
          getF u (omaMill (stackOf (lineOff x l))) Reg.omaOverdue_count 0 =
            min (fldTop Reg.omaOverdue_count) (getF s (omaMill (stackOf (lineOff x l))) Reg.omaOverdue_count 0 + 1) ∧
          u = { s with groups := u.groups, regs := u.regs }))

/-- R123, R124, R125, R189, R199, R202, R203, R205, R206, R209, R212, R216: CHOLESKY, LDLT, EIG, INVROOT,
INVROOT_DEADLINE and TRUING_WAIT_PROCEED end with one of the statuses that the rules name. -/
def Obligations.FactorisationsEnd : Prop :=
  ∀ (s : State) (c i : Nat),
    (∀ op o (ups : List TileUpset) (upset : Bool), op = 0x0310 ∨ op = 0x0311 ∨ op = 0x0330 ∨ op = 0x0340 →
      runningOp s c i op = some o → (op = 0x0340 → tMethod o.d = 1) → skippedAway o = false →
      let cmd := if op = 0x0310 then Instr.cholesky c i ups upset else if op = 0x0311 then .ldlt c i ups upset
        else if op = 0x0330 then .eig c i ups upset else .invroot c i ups upset
      (truReady s o = true → ∃ u p e, exec cmd s = .next u ∧ findOp u c i = some p ∧ p.ended = some e ∧
        e.status ∈ [Status.done, .doneRecomputed, .notPositive, .illConditioned, .checkFail]) ∧
      (truReady s o = false → exec cmd s = .next s) ∧
      exec (.truingWaitProceed c i ups upset) s = exec cmd s) ∧
    (∀ o ups upset, runningOp s c i 0x0300 = some o →
      exec (.truingWaitProceed c i ups upset) s = exec (.statFold c i ups) s) ∧
    (∀ o ups upset, runningOp s c i 0x0340 = some o → tMethod o.d = 0 → skippedAway o = false →
      let ends : State → Prop := fun u => ∃ p e, findOp u c i = some p ∧ p.ended = some e ∧
        e.status ∈ [Status.done, .doneRecomputed, .notPositive, .notConverged, .checkFail]
      exec (.truingWaitProceed c i ups upset) s = exec (.invroot c i ups upset) s ∧
      (truReady s o = true → nsDue s o = false → ∃ u, exec (.invroot c i ups upset) s = .next u ∧ ends u) ∧
      (truReady s o = false ∨ nsDue s o = true → exec (.invroot c i ups upset) s = .next s) ∧
      (∀ n, nsDue s o = true → truWaits s o = false → unitsHeld s = false →
        ∃ u, exec (.invrootDeadline c i n) s = .next u ∧ ends u) ∧
      (∀ n, nsDue s o = false ∨ truWaits s o = true ∨ unitsHeld s = true → exec (.invrootDeadline c i n) s = .next s)) ∧
    (∀ o cell x t, findOp s c i = some o → o.ended = none →
      let r := prodRun o x t o.prods
      let bad := fun (n : Nat) => decide (sumCheckFails x t (r n) ≠ ([], []))
      let same := fun (m n : Nat) => runsEqual (r m) (r n)
      let y := prodTile s c i cell x t
      let goes : Nat → Nat → Prop := fun n again => y.2 = r n ∧ ∃ p, findOp y.1 c i = some p ∧ p.ended = none ∧ p.reruns = o.reruns + again
      let fails : Prop := ∃ p, findOp y.1 c i = some p ∧ p.ended = some ⟨.checkFail, faultTail s⟩ ∧ p.reruns = o.reruns + 1
      (dupNeeded x t (r 1) = false → (bad 1 = false → goes 1 0) ∧ (bad 1 = true → bad 2 = false → goes 2 1) ∧
        (bad 1 = true → bad 2 = true → fails)) ∧
      (dupNeeded x t (r 1) = true → (same 1 2 = true → goes 1 0) ∧
        (same 1 2 = false → (same 3 1 || same 3 2) = true → goes 3 1) ∧
        (same 1 2 = false → (same 3 1 || same 3 2) = false → fails)))

/-- R196, R201, R208: STAT_FOLD leaves F symmetric and counts the fold; TRSOLVE writes the rows of X alone. -/
def Obligations.FoldsAndTriangularSolves : Prop :=
  ∀ (s : State) (c i : Nat) (o : Op) (ups : List TileUpset), memWf s.mem = true →
    (runningOp s c i 0x0300 = some o → truReady s o = false → exec (.statFold c i ups) s = .next s) ∧
    (runningOp s c i 0x0300 = some o → truReady s o = true → o.writes = [] →
      let x := tRecord o.d
      let n := facN s x
      facAddr s x + 0x3C ≤ facStat s x ∨ facStat s x + n * facPitch n ≤ facAddr s x + 0x38 →
      ∃ u p, exec (.statFold c i ups) s = .next u ∧ findOp u c i = some p ∧
        let elem := fun (r k : Nat) => memNat (overlaid u p).mem (facStat s x + r * facPitch n + 4 * k) 4
        p.ended.map (fun e => e.status) = some .checkFail ∨
          ((∀ r k, r < n → k < n → elem r k = elem k r) ∧
            memNat (overlaid u p).mem (facAddr s x + 0x38) 4 = (facFolds s x + 1) % 2 ^ 32 ∧
            (checkLevel o.d ≠ 2 → p.ended = some (normalEnd p)))) ∧
    (runningOp s c i 0x0320 = some o → truReady s o = false → exec (.trsolve c i ups) s = .next s) ∧
    (runningOp s c i 0x0320 = some o → truReady s o = true → o.facs ≠ [] → dCheck o.d ≤ 1 → skippedAway o = false →
      ∃ u p e, exec (.trsolve c i ups) s = .next u ∧ findOp u c i = some p ∧ p.ended = some e ∧
        e.status ∈ [Status.done, .doneRecomputed, .checkFail] ∧
        (let at_ := getA2 s Reg.faultBase_baseLo Reg.faultBase_baseHi + faultTail s % getA s Reg.faultCtrl_cap * 128
         e.status = .checkFail → ∀ a, a < at_ ∨ at_ + 128 ≤ a → memRead u.mem a = memRead s.mem a) ∧
        (e.status ≠ .checkFail → ∀ a, (∀ r ∈ o.facs, ∀ k, k < facN s r.num →
            a < slotOff o.d 0x30 + k * slotPitch o.d 0x30 ∨ slotOff o.d 0x30 + k * slotPitch o.d 0x30 + 4 * tsM o.d ≤ a) →
          memRead u.mem a = memRead s.mem a))

/-- R228, R231, R236, R238, R241, R245: JB_BATCH_DONE, ENV_STEP, INV_DYN and MASS: what the end of a batch writes, and
halted environments stay as they are. -/
def Obligations.JointedBodyBatches : Prop :=
  ∀ (s : State) (c i : Nat) (o : Op), memWf s.mem = true → unitsHeld s = false →
    (∀ cell b e, findOp s c i = some o → opRuns o = true → (cellGet s cell).stopped = false →
      (jbOf o).running.find? (fun b => cellOfUnit o.d b == cell) = some b → opWaits s o = false → batchEnvs s o.d b = [e] →
      let st := rdSet s (jSet o.d)
      let q := envQ s (jSet o.d) e
      let a := envAddr s (jSet o.d) e
      ∃ u p, exec (.jbBatchDone cell c i) s = .next u ∧ findOp u c i = some p ∧ batchDone (jbOf p) b = batchDone (jbOf o) b + 1 ∧
        (jbOf p).completed = (jbOf o).completed + 1 ∧
        (dOpcode o.d = 0x0410 → u.mem = memWriteAll s.mem (vecWrites (jOut o.d + (e - jEnv0 o.d) * 288)
          (inverseDyn st q (envV s (jSet o.d) e) (envQdd s (jSet o.d) e)))) ∧
        (dOpcode o.d = 0x0420 → u.mem = memWriteAll s.mem (matWrites
          (jOut o.d + (e - jEnv0 o.d) * jbNv st.bodies * 288) 288 (massMatrix st.bodies (allXf st.bodies q)))) ∧
        (dOpcode o.d = 0x0400 → envHalted s (jSet o.d) e = true → u.mem = s.mem) ∧
        (dOpcode o.d = 0x0400 → envHalted s (jSet o.d) e = false →
          let r := jbStep st e (st.words ++ rdWords s (a + 0x010) q.length) q (envV s (jSet o.d) e) (envTau s (jSet o.d) e)
          u.mem = (jbResult s o (cellOfUnit o.d b) e r).mem ∧
          (∀ n drops q' v qdd, r = .done n drops q' v qdd → memNat u.mem (a + 1) 1 = 0 ∧
            memNat u.mem (a + 8) 4 = (memNat s.mem (a + 8) 4 + 1) % 2 ^ 32))) ∧
    (∀ op, op = 0x0400 ∨ op = 0x0410 ∨ op = 0x0420 → runningOp s c i op = some o →
      o.work = .jb ⟨[], [], 0, [], 0, true, 0, 0, 0⟩ → o.reruns = 0 → dCheck o.d ≤ 1 → slotOver s o = false → 1 ≤ jSubsteps o.d →
      jSubsteps o.d ≤ 16 → 1 ≤ jCount s o.d → jEnv0 o.d + jCount s o.d ≤ 16384 →
      ∃ u p, exec (if op = 0x0400 then .envStep c i else if op = 0x0410 then .invDyn c i else .mass c i) s = .next u ∧
        findOp u c i = some p ∧ p.ended.isSome = true ∧
        (op = 0x0400 → (∀ e, jEnv0 o.d ≤ e → e < jEnv0 o.d + jCount s o.d → envHalted s (jSet o.d) e = true) →
          p.ended = some ⟨.done, 0⟩ ∧ u.mem = s.mem))

/-- R242, R243, R244: ENV_LOOP_STEP_BEGIN, ENV_LOOP_STEP_END and ENV_LOOP: a loop runs every step that may run, and
signals each. -/
def Obligations.EnvironmentLoops : Prop :=
  ∀ (s : State) (c i : Nat) (o : Op), s.canonical = true → runningOp s c i 0x0430 = some o →
    (loopReady s o = false → exec (.envLoopStepBegin c i) s = .next s) ∧
    (loopReady s o = true →
      ∃ u p, exec (.envLoopStepBegin c i) s = .next u ∧ findOp u c i = some p ∧ (jbOf p).active = true ∧
        (jbOf p).k = (jbOf o).k ∧ (jbOf p).doneOf = [] ∧ (jbOf p).from_ = s.time.ticksTaken ∧ u.sems = s.sems) ∧
    (loopStepDone s o = false → exec (.envLoopStepEnd c i) s = .next s) ∧
    (loopStepDone s o = true →
      ∃ u p, exec (.envLoopStepEnd c i) s = .next u ∧ findOp u c i = some p ∧ (jbOf p).active = false ∧
        (jbOf p).k = (jbOf o).k + 1 ∧ (jbOf p).overrun = (jbOf o).overrun + (jbOf o).late ∧
        semGet u (jObsSem o.d) = (semGet s (jObsSem o.d) + 1) % 2 ^ 64 ∧
        (∀ n, n ≠ jObsSem o.d → semGet u n = semGet s n) ∧ (p.ended.isSome = true ↔ (jbOf o).k + 1 = jNstep o.d)) ∧
    (jActSem o.d ≠ jObsSem o.d →
      ∃ u, exec (.envLoop c i) s = .next u ∧ ∀ p, runningOp u c i 0x0430 = some p → loopReady u p = false)

/-- R21, R155, R269, R274, R277, R509: COPY, REPLICA_CMP and REPLICA_DIGEST_RECEIVE: rows are moved whole, and equal
masters compare equal. -/
def Obligations.CopyAndReplicas : Prop :=
  (∀ (s : State) (c i : Nat) (o : Op), memWf s.mem = true → runningOp s c i 0x0500 = some o → o.work = .none →
      (unitsHeld s = true → exec (.copy c i) s = .next s) ∧
      (∀ e, unitsHeld s = false → copyFault s c o.d = some e → exec (.copy c i) s = .next (ctxFault s c i e.1 e.2)) ∧
      (unitsHeld s = false → cpBytes o.d % 16 = 0 → copyFault s c o.d = none →
      let rows := cpRowsRead s o.d
      let dst := fun (r k : Nat) => slotOff o.d 0x28 + r * slotPitch o.d 0x28 + k
      (cpChip o.d = s.chip → dCheck o.d ≤ 1 → (cpRows o.d ≤ 1 ∨ cpBytes o.d ≤ slotPitch o.d 0x28) →
        ∃ u p, exec (.copy c i) s = .next u ∧ findOp u c i = some p ∧ p = { o with ended := p.ended, writes := p.writes } ∧
          p.ended = some (normalEnd o) ∧
          (∀ r k, r < cpRows o.d → k < cpBytes o.d → memRead u.mem (dst r k) =
            if (trainRegions s).any (fun t => inRegion t (dst r k)) then memRead s.mem (dst r k)
            else (rows.getD r []).getD k 0) ∧
          (∀ a, (∀ r k, r < cpRows o.d → k < cpBytes o.d → a ≠ dst r k) → memRead u.mem a = memRead s.mem a) ∧
          (∀ x y, (x, y) ≠ (c, i) → findOp u x y = findOp s x y) ∧
          u = { s with mem := u.mem, hbm := { s.hbm with poison := u.hbm.poison }, regs := u.regs, ops := u.ops }) ∧
      (cpChip o.d ≠ s.chip → ∃ u, exec (.copy c i) s = .next u ∧ findOp u c i = some { o with work := .asking } ∧
          u.txq.map (fun m => (m.chip, m.msg)) = s.txq.map (fun m => (m.chip, m.msg)) ++
            [(cpChip o.d, ⟨s.chip, c, i, .writeCheck (cpDst o.d) (dEval o.d)⟩)] ∧
          u = { s with txq := u.txq, ops := u.ops }))) ∧
    (∀ (s : State) (c i src : Nat) (o : Op) (bs : List Byte), findOp s c i = some o → opRuns o = true →
      (o.work = .asking → dOpcode o.d = 0x0500 →
        let ms := cpMessages s o.d
        let u := deliverMsg s ⟨src, c, i, .verdict 0 0⟩ 7 bs
        findOp u c i = some { o with work := .remote ms.length false } ∧
        u.txq.map (fun m => (m.chip, m.msg)) = s.txq.map (fun m => (m.chip, m.msg)) ++
          ms.map (fun m => (cpChip o.d, (⟨s.chip, c, i, .write m.1 m.2 o.step⟩ : Msg))) ∧
        (∀ m ∈ ms, m.2.length ≤ 256) ∧ u = { s with txq := u.txq, regs := u.regs, ops := u.ops } ∧
        ∀ code off, code ≠ 0 → deliverMsg s ⟨src, c, i, .verdict code off⟩ 7 bs = ctxFault s c i code off) ∧
      (∀ n k skip, o.work = .remote n k → checkLevel o.d ≠ 2 →
        let u := deliverMsg s ⟨src, c, i, if skip then .ackSkip else .ack⟩ 7 bs
        (1 < n → findOp u c i = some { o with work := .remote (n - 1) (k || skip) }) ∧
        (n ≤ 1 → findOp u c i = some { o with work := .remote 0 (k || skip), ended := some (if k || skip then ⟨.doneSkipped, 0⟩
          else if o.reruns = 0 then ⟨.done, 0⟩ else ⟨.doneRecomputed, o.reruns⟩) }) ∧
        u = { s with ops := u.ops })) ∧
    (∀ (s : State) (c i : Nat) (o : Op) (e : Nat × Nat), runningOp s c i 0x0910 = some o → o.work = .none →
      replicaFault s o.d = some e → exec (.replicaCmp c i) s = .next (ctxFault s c i e.1 e.2)) ∧
    (∀ (s : State) (c i : Nat) (o : Op), runningOp s c i 0x0910 = some o → o.work = .none → replicaFault s o.d = none →
      (∃ q ∈ rcPeers o.d, replicaOf s (rcTag o.d) q = none) →
      ∃ u, exec (.replicaCmp c i) s = .next u ∧ findOp u c i = some { o with work := .replica (replicaValue s o.d) } ∧
        u.txq.map (fun m => (m.chip, m.msg)) = s.txq.map (fun m => (m.chip, m.msg)) ++
          (rcPeers o.d).map (fun q => (q, (⟨s.chip, c, i, .replica (rcTag o.d) (replicaValue s o.d)⟩ : Msg))) ∧
        u = { s with txq := u.txq, regs := u.regs, ops := u.ops }) ∧
    (∀ (s : State) (tag q : Nat) (v : List Byte),
      let waits := fun (x : Op) => opRuns x && dOpcode x.d == 0x0910 && rcTag x.d == tag && (rcPeers x.d).contains q
      (s.ops.find? waits = none → ∃ u, exec (.replicaDigestReceive tag q v) s = .next u ∧ replicaOf u tag q = some v ∧
        (∀ t x, (t, x) ≠ (tag, q) → replicaOf u t x = replicaOf s t x) ∧ u = { s with replicas := u.replicas }) ∧
      (∀ o w, s.ops.find? waits = some o → findOp s o.ctx o.idx = some o → o.work = .replica w →
        (∀ x ∈ rcPeers o.d, x ≠ q → replicaOf s tag x = some w) →
        ∃ u p, exec (.replicaDigestReceive tag q v) s = .next u ∧ findOp u o.ctx o.idx = some p ∧
          (v = w → p.ended = some (normalEnd o) ∧ u.mem = s.mem) ∧
          (v ≠ w → p.ended.map (fun e => e.status) = some .digestMismatch)))

/-- R253, R270, R271, R278: EXPORT and IMPORT: what an EXPORT of one role lays in host memory, an IMPORT of it takes
back unchanged. -/
def Obligations.ExportedShardsImport : Prop :=
  (∀ (s : State) (c i : Nat) (o : Op), memWf s.hostMem = true → runningOp s c i 0x0920 = some o →
      exHost o.d = true → dCheck o.d ≤ 1 → exportFault s o = none →
      ∃ u, exec (.exportOp c i) s = .next u ∧ findOp u c i = some { o with ended := some (normalEnd o) } ∧
        (∀ a, a < exAddr o.d → memRead u.hostMem a = memRead s.hostMem a) ∧
        u = { s with hostMem := u.hostMem, ops := u.ops } ∧
        (∀ role, exCount o.d = 1 → exRoles o.d = [role] → roleOff s (exParam0 o.d) role ≠ 0 → exParam0 o.d < paramCount s →
          ∀ d, exAddr d = exAddr o.d → exHost d = true →
            let p := exParam0 o.d
            ringDigest (imPayload u d) = imFld u d 0x40 16 ∧ imPayload u d = packedRole s p role ∧
              imParam u d = p ∧ imRole u d = role ∧ imRow0 u d = pRow0 s p ∧ imNrows u d = pNrows s p ∧
              imCol0 u d = pCol0 s p ∧ imNcols u d = pNcols s p ∧ imBad u d = false)) ∧
    (∀ (s : State) (c i : Nat) (o : Op), runningOp s c i 0x0920 = some o →
      (∀ e, exportFault s o = some e → exec (.exportOp c i) s = .next (ctxFault s c i e.1 e.2)) ∧
      (exHost o.d = false → dCheck o.d ≤ 1 → exportFault s o = none → trainRegions s = [] →
        ∃ u, exec (.exportOp c i) s = .next u ∧ findOp u c i = some { o with ended := some (normalEnd o) } ∧
          u.mem = memWriteAll s.mem (exWrites (exAddr o.d) (exRecords s o)) ∧
          u = { s with mem := u.mem, hbm := { s.hbm with poison := u.hbm.poison }, ops := u.ops })) ∧
    (∀ (s : State) (c i : Nat) (o : Op), runningOp s c i 0x0921 = some o → imReadFault s o.d = none →
      (ringDigest (imPayload s o.d) ≠ imFld s o.d 0x40 16 → ∃ u p, exec (.importOp c i) s = .next u ∧ findOp u c i = some p ∧
        p.ended = some ⟨.digestMismatch, faultTail s⟩ ∧ p.writes = o.writes) ∧
      (ringDigest (imPayload s o.d) = imFld s o.d 0x40 16 → dCheck o.d ≤ 1 → importFault s o.d = none →
        ∃ u p, exec (.importOp c i) s = .next u ∧ findOp u c i = some p ∧ p.ended = some (normalEnd p) ∧
          p.writes = o.writes ++ imWrites s o.d ∧ u = { s with ops := u.ops } ∧
          (imRole s o.d = 0 → imWrites s o.d ≠ [] → p.work = .imported (imParam s o.d) ∧
            ∀ t : State, importEnd t p =
              let r := rederive t (cellOfUnit o.d) false (imParam s o.d) (roleMat t (imParam s o.d) 0)
              wrMem r.1 r.2) ∧
          (imRole s o.d ≠ 0 → p.work = o.work)))

/-- R258, R259, R260, R261, R279: PREFETCH, EVICT and YARDER_TRANSFER_DONE: the last transfer of an operation moves the
state and its marks. -/
def Obligations.YarderMovesState : Prop :=
  ∀ (s : State) (c i : Nat) (o : Op), s.canonical = true → findOp s c i = some o → opRuns o = true → opWaits s o = false → dCheck o.d ≤ 1 →
    s.ops.filter (fun x => dOpcode x.d == 0x0510 || dOpcode x.d == 0x0511) = [o] →
    (yardOf o).1 + 1 = uCount o.d →
    let p := uParam0 o.d + (yardOf o).1
    let rec0 := paramAddr s p
    ((yardOf o).2 = true → dOpcode o.d = 0x0511 →
      let bs := (slowRoles s p).flatMap (packedRole s p)
      ∃ u q, exec (.evict c i) s = .next u ∧ exec (.yarderTransferDone c i []) s = .next u ∧ findOp u c i = some q ∧
        q.ended = some (normalEnd o) ∧ memBytes u.hostMem (pSlow s p) bs.length = bs ∧
        (∀ a, a < pSlow s p ∨ pSlow s p + bs.length ≤ a → memRead u.hostMem a = memRead s.hostMem a) ∧
        memNat u.mem (rec0 + 0x60) 16 = ringDigest bs % 2 ^ 128 ∧ pPresent u p = false ∧ pMoving u p = false ∧
        (∀ a, a ≠ rec0 + 0x4A → (a < rec0 + 0x60 ∨ rec0 + 0x70 ≤ a) → memRead u.mem a = memRead s.mem a)) ∧
    ((yardOf o).2 = true → dOpcode o.d = 0x0510 → ∀ alt,
      let n := roleBytes s p
      let bs := fetched (memBytes s.hostMem (pSlow s p) (n * (slowRoles s p).length)) alt
      let cmd := fun (x : Instr) => x = .yarderTransferDone c i alt ∨ (alt = [] ∧ x = .prefetch c i)
      (ringDigest bs = pSlowDigest s p →
        (∀ r ∈ slowRoles s p, regionsMeet (roleRegion s p r) (recordRegion s p 1) = false) →
        (∀ r ∈ slowRoles s p, ∀ r' ∈ slowRoles s p, r ≠ r' → regionsMeet (roleRegion s p r) (roleRegion s p r') = false) →
        ∃ u q, (∀ x, cmd x → exec x s = .next u) ∧ findOp u c i = some q ∧ q.ended = some (normalEnd o) ∧
          (∀ k, k < (slowRoles s p).length →
            regionBytes u.mem (roleRegion s p ((slowRoles s p).getD k 0)) = (bs.drop (n * k)).take n) ∧
          pPresent u p = true ∧ pMoving u p = false ∧ u.hostMem = s.hostMem ∧
          (∀ a, a ≠ rec0 + 0x4A → (∀ r ∈ slowRoles s p, inRegion (roleRegion s p r) a = false) →
            memRead u.mem a = memRead s.mem a)) ∧
      (ringDigest bs ≠ pSlowDigest s p →
        ∃ u q, (∀ x, cmd x → exec x s = .next u) ∧ findOp u c i = some q ∧
          q.ended.map (fun e => e.status) = some .digestMismatch)) ∧
    ((yardOf o).2 = false → yardWants s o p = true → pMoving s p = false → thermalHold s = false →
      (isFetch o = true ∨ s.ops.any (updCovers p) = false) → yardBusy s = false →
      let t := yardPump (uCount o.d + 1) s c i
      pMoving t p = true ∧ pPresent t p = pPresent s p ∧ ∃ q, findOp t c i = some q ∧ yardOf q = ((yardOf o).1, true))

/-- R189, R255, R257, R262, R263, R266, R267, R276: UPDATE, UPDATE_SKID_APPLY, SKID_GRANT, SKID_COPY_DONE and the
parking of an UPDATE: the last gathered parameter is applied and the UPDATE ends. -/
def Obligations.UpdateAppliesParameters : Prop :=
  (∀ (s : State) (c i : Nat) (o : Op) (skip : Bool), s.canonical = true → runningOp s c i 0x0900 = some o →
      slotOver s o = false → unitsHeld s = false → updMayApply s o = true → auditDue s (uStep o.d) = false →
      (updOf o).gathered = uCount o.d → (updOf o).applied + 1 = uCount o.d →
      decisionOf s (uStep o.d) = some skip → (∀ x ∈ s.ops, isOp c i x = true → x.upsets = []) →
      (uOpt o.d = 3 → prodFailed (updForm s o) c i = false) →
      let p := uParam0 o.d + (updOf o).applied
      let n := pNcols s p
      let m := pNrows s p
      let record : Region := ⟨paramAddr s p, 0, 1, 128⟩
      let states := [roleRegion s p 0, roleRegion s p 3] ++ (if uOpt o.d = 2 then [roleRegion s p 4] else [])
      let out := states ++ record :: workRegions s p
      uZero o.d = false ∨ p ∉ (updOf o).late →
      ∃ u q, exec (.update c i []) s = .next u ∧ exec (.updateSkidApply c i) s = .next u ∧
        (uOpt o.d ≠ 3 → ∀ ups, exec (.update c i ups) s = .next u) ∧ findOp u c i = some q ∧
        q.ended = some (updEnd q skip) ∧ (uOpt o.d ≠ 3 → q.reruns = o.reruns) ∧
        memNat u.mem (paramAddr s p + 0x58) 8 = uStep o.d ∧
        (skip = true → ∀ a, a < paramAddr s p + 0x58 ∨ paramAddr s p + 0x60 ≤ a → memRead u.mem a = memRead s.mem a) ∧
        (skip = false → (∀ r ∈ states, regionsMeet r record = false) →
          ∀ a, (∀ r ∈ out, a < r.off ∨ regionEnd r ≤ a) → memRead u.mem a = memRead s.mem a) ∧
        (skip = false → uOpt o.d ≠ 3 → (∀ r ∈ out.tail, regionsMeet (roleRegion s p 0) r = false) →
          (∀ r ∈ states, regionsMeet r record = false) →
          ∀ r k, r < m → k < n → 8192 * (updOf o).unit ≤ r * n + k →
            memBytes u.mem (pMaster s p + r * f32Pitch n + 4 * k) 4 =
              leBytes 4 (code32 (updElem o.d (matAt (roleMat s p 0) r k) (matAt (packedMat n m (updGrad s o p)) r k)
                (matAt (roleMat s p 3) r k) (matAt (if uOpt o.d = 2 then roleMat s p 4 else []) r k)).1))) ∧
    (∀ (s : State) (c i : Nat) (o : Op) (ups : List TileUpset), runningOp s c i 0x0900 = some o → slotOver s o = false →
      unitsHeld s = false → updMayApply s o = true → auditDue s (uStep o.d) = false → (updOf o).gathered = uCount o.d →
      prodFailed (updForm (updOp s c i (fun x => { x with upsets := ups })) { o with upsets := ups }) c i = true →
      ∃ u q, exec (.update c i ups) s = .next u ∧ findOp u c i = some q ∧
        q.ended.map (fun e => e.status) = some .checkFail ∧
        (∀ e ∈ u.skid, (e.ctx, e.idx) ≠ (c, i))) ∧
    (∀ (s : State) (c i g : Nat) (o : Op) (w : UpdWork), findOp s c i = some o → o.ended = none → o.parked = false →
      dOpcode o.d = 0x0900 → o.work = .upd w → runsElastic o.d = true → slotOver s o = true →
      (unitsHeld s || opWaits s o || !updMayApply s o || decide (g ≤ w.unit)) = true →
      ∃ u q, exec (.operationPark c i g) s = .next u ∧ findOp u c i = some q ∧ q.parked = true ∧ q.work = o.work ∧
        u.mem = s.mem ∧ u.skid = s.skid ∧ parkDetail o g = w.applied) ∧
    (∀ (s : State) (c i g : Nat) (o : Op) (w : UpdWork), s.canonical = true → findOp s c i = some o → o.ended = none →
      o.parked = false → dOpcode o.d = 0x0900 → o.work = .upd w → runsElastic o.d = true → slotOver s o = true →
      unitsHeld s = false → opWaits s o = false → updMayApply s o = true → auditDue s (uStep o.d) = false →
      decisionOf s (uStep o.d) = some false → uOpt o.d ≠ 3 →
      let p := uParam0 o.d + w.applied
      let n := pNcols s p
      w.unit < g → g < updUnitCount s p → uZero o.d = false ∨ p ∉ w.late →
      (∀ r ∈ [roleRegion s p 3] ++ (if uOpt o.d = 2 then [roleRegion s p 4] else []), regionsMeet (roleRegion s p 0) r = false) →
      ∃ u q v, exec (.operationPark c i g) s = .next u ∧ findOp u c i = some q ∧ q.parked = true ∧ q.ended = none ∧
        q.work = .upd v ∧ v.unit = g ∧ v.applied = w.applied ∧ v.gathered = w.gathered ∧ u.skid = s.skid ∧
        ∀ r k, r < pNrows s p → k < n → 8192 * w.unit ≤ r * n + k → r * n + k < 8192 * g →
          memBytes u.mem (pMaster s p + r * f32Pitch n + 4 * k) 4 =
            leBytes 4 (code32 (updElem o.d (matAt (roleMat s p 0) r k) (matAt (packedMat n (pNrows s p) (updGrad s o p)) r k)
              (matAt (roleMat s p 3) r k) (matAt (if uOpt o.d = 2 then roleMat s p 4 else []) r k)).1)) ∧
    (∀ (s : State) (q : SkidReq) (rest : List SkidReq), s.skidQ = q :: rest →
      (skidFits s q.need = true → ∃ u, exec .skidGrant s = .next u ∧ u.skidQ = rest ∧
        u.skid = s.skid ++ [⟨q.ctx, q.idx, q.param, freePages s q.need, false⟩] ∧
        u = { s with skidQ := rest, skid := u.skid, regs := u.regs }) ∧
      (skidFits s q.need = false → exec .skidGrant s = .next s)) ∧
    (∀ (s : State) (e : SkidEntry) (o : Op), memWf s.mem = true → s.skid.find? (fun e => !e.copied) = some e →
      findOp s e.ctx e.idx = some o → unitsHeld s = false →
      ∃ u, exec .skidCopyDone s = .next u ∧ { e with copied := true } ∈ u.skid ∧
        (uZero o.d = false → e.pages.Nodup → e.pages.length = skidNeed s e.param →
          (e.pages.tail.flatMap (fun g => memBytes u.mem (skidPage s g) 4096)).take (4 * pNrows s e.param * pNcols s e.param) =
            packedRole s e.param 2))

/-- R320, R321, R322, R323, R324, R325: PANNIER_SPILL_BEGIN, PANNIER_SPILL_DONE, PANNIER_FILL_BEGIN and
PANNIER_FILL_DONE move blocks and check their digests. -/
def Obligations.PannierSpillsAndFills : Prop :=
  (∀ (s : State) (c : Nat), c < 16 → thermalHold s = false →
      (spillMayBegin s c = true →
        exec (.pannierSpillBegin c) s = .next (panSet s c { panGet s c with spilling := some (spillMove s c) })) ∧
      (spillMayBegin s c = false → exec (.pannierSpillBegin c) s = .next s) ∧
      (fillMayBegin s c = true →
        exec (.pannierFillBegin c) s = .next (panSet s c { panGet s c with filling := some (fillMove s c), differed := 0 })) ∧
      (fillMayBegin s c = false → exec (.pannierFillBegin c) s = .next s)) ∧
    (∀ (s : State) (c : Nat),
      ((panGet s c).spilling.all (moveWaits s) = true → exec (.pannierSpillDone c) s = .next s) ∧
      ((panGet s c).filling.all (moveWaits s) = true → ∀ alt, exec (.pannierFillDone c alt) s = .next s)) ∧
    (∀ (s : State) (c : Nat) (m : PanMove), s.canonical = true → c < 16 → (panGet s c).spilling = some m → moveWaits s m = false →
      let x := panGet s c
      let k := if m.stale then x.spills else x.spills + 1
      let d := rdBytes s m.hbm m.len
      ∃ u, exec (.pannierSpillDone c) s = .next u ∧ panGet u c = { x with spills := k, spilling := none } ∧
        (∀ j, j ≠ c → panGet u j = panGet s j) ∧ panF u Reg.pan_outCount c = k % 2 ^ 32 ∧
        memBytes u.hostMem m.slow m.len = d ∧
        (∀ a, a < m.slow ∨ m.slow + m.len ≤ a → memRead u.hostMem a = memRead s.hostMem a) ∧
        memNat u.mem m.dig 16 = ringDigest d ∧
        (∀ a, a < m.dig ∨ m.dig + 16 ≤ a → memRead u.mem a = memRead s.mem a) ∧
        semGet u m.sem = (semGet s m.sem + 1) % 2 ^ 64 ∧ (∀ j, j ≠ m.sem → semGet u j = semGet s j) ∧
        ringDigest (fetched (memBytes u.hostMem m.slow m.len) []) = rdNat u m.dig 16) ∧
    (∀ (s : State) (c : Nat) (m : PanMove) (alt : List (Nat × Byte)), s.canonical = true → c < 16 →
      (panGet s c).filling = some m → moveWaits s m = false →
      let x := panGet s c
      let j := if m.stale then x.fills else x.fills + 1
      let d := fetched (memBytes s.hostMem m.slow m.len) alt
      ∃ u, exec (.pannierFillDone c alt) s = .next u ∧ (∀ k, k ≠ c → panGet u k = panGet s k) ∧ u.hostMem = s.hostMem ∧
        (x.differed < 3 ∨ ringDigest d = rdNat s m.dig 16 → memBytes u.mem m.hbm m.len = d ∧
          ∀ a, a < m.hbm ∨ m.hbm + m.len ≤ a → memRead u.mem a = memRead s.mem a) ∧
        (ringDigest d = rdNat s m.dig 16 →
          panGet u c = { x with fills := j, filling := none } ∧ panF u Reg.pan_inCount c = j % 2 ^ 32 ∧
          semGet u m.sem = (semGet s m.sem + 1) % 2 ^ 64 ∧ (∀ k, k ≠ m.sem → semGet u k = semGet s k)) ∧
        (ringDigest d ≠ rdNat s m.dig 16 → u.sems = s.sems ∧
          (x.differed < 3 → panGet u c = { x with differed := x.differed + 1 } ∧
            panF u Reg.pan_refetch c = min 255 (panF s Reg.pan_refetch c + 1)) ∧
          (3 ≤ x.differed → panGet u c = { x with filling := none } ∧ panF u Reg.pan_err c = 1 ∧ panF u Reg.pan_halted c = 1)))

/-- R281, R289, R290, R291, R292, R294, R296, R297, R298, R306, R309: A segment that is coded reads back as itself;
COMPRESS writes one, DECOMPRESS writes its symbols out. -/
def Obligations.SegmentsReadBack : Prop :=
  (∀ (h : SegHdr) (syms scales : List Nat), segHdrFits h → syms.length = h.nrows * h.ncols → (∀ x ∈ syms, x < 2 ^ symw h.efmt) →
      scales.length = (if h.mx then syms.length / 32 else 0) → (∀ x ∈ scales, x < 256) →
      let e := (encodeSegment h syms scales).1
      e.length < 2 ^ 32 → readSegment (fun i => e.getD i 0) = .ok ({ h with segBytes := e.length, nsyms := syms.length }, syms, scales)) ∧
    (∀ (s : State) (c i : Nat) (o : Op) (ups : List TileUpset), memWf s.mem = true → runningOp s c i 0x0600 = some o →
      dCheck o.d ≤ 1 →
      let s0 := updOp s c i (fun q => { q with upsets := ups })
      let x := if cQ o.d = 0 then packSegment s0 o else quantSegment s0 o
      compressFault s o 0 = none → prodFailed x.st c i = false → compressFault s o x.bytes.length = none →
      ∃ u p, exec (.compress c i ups) s = .next u ∧ findOp u c i = some p ∧ p.ended = some (normalEnd p) ∧
        (cQ o.d = 0 ∨ cRotate o.d = false → p.reruns = o.reruns) ∧
        (∀ a, a < cDst o.d ∨ cDst o.d + x.bytes.length ≤ a → memRead u.mem a = memRead s.mem a) ∧
        (anyMeet [⟨cDst o.d, 0, 1, x.bytes.length⟩] (trainRegions s) = false →
          memBytes u.mem (cDst o.d) x.bytes.length = x.bytes ∧
          (cQ o.d = 0 → cRotate o.d = false → fmtCode (fwFmtD (cFmtSrc o.d)) ≤ 6 → 2 ≤ cBlog o.d → cBlog o.d ≤ 8 →
            (fwMx (cFmtSrc o.d) = true → cCols o.d % 32 = 0) → cRows o.d * cCols o.d < 2 ^ 32 → x.bytes.length < 2 ^ 32 →
            ∃ h syms scales, readSegment (fun k => memRead u.mem (cDst o.d + k)) = .ok (h, syms, scales) ∧
              h.tensor = cTensor o.d ∧ h.nrows = cRows o.d ∧ h.ncols = cCols o.d ∧ h.row0 = cRow0 o.d ∧ h.col0 = cCol0 o.d ∧
              ∀ r k, r < cRows o.d → k < cCols o.d → syms.getD (r * cCols o.d + k) 0 =
                memCode s (slotOff o.d 0x20 + r * slotPitch o.d 0x20) (fmtWidth (fwFmtD (cFmtSrc o.d))) k))) ∧
    (∀ (s : State) (c i : Nat) (o : Op) (ups : List TileUpset), memWf s.mem = true → runningOp s c i 0x0600 = some o →
      dCheck o.d ≤ 1 → cQ o.d ≠ 0 → compressFault s o 0 = none →
      prodFailed (quantSegment (updOp s c i (fun q => { q with upsets := ups })) o).st c i = true →
      ∃ u p, exec (.compress c i ups) s = .next u ∧ findOp u c i = some p ∧ p.ended.map (fun e => e.status) = some .checkFail) ∧
    (∀ (s : State) (c i : Nat) (o : Op) (ups : List TileUpset), memWf s.mem = true → runningOp s c i 0x0610 = some o →
      dCheck o.d ≤ 1 → skippedAway o = false →
      let as := segAddrs s (xNseg o.d) (dfld o.d 0x20 41 0)
      decompressFault s o.d as = none →
      ∃ u p e, exec (.decompress c i ups) s = .next u ∧ findOp u c i = some p ∧ p.ended = some e ∧
        (e.status = .done ∨ e.status = .doneRecomputed ∨ e.status = .streamOverrun ∨ e.status = .streamUnderrun ∨
          (xF32 o.d = true ∧ e.status = .checkFail)) ∧
        (∀ a h syms, xNseg o.d = 1 → as = [a] → readSegment (fun k => memRead s.mem (a + k)) = .ok (h, syms, []) →
          xF32 o.d = false → h.mx = false → packedLen (fmtWidth (fwFmtD (xFmt o.d))) (xCols o.d) ≤ slotPitch o.d 0x28 →
          anyMeet [⟨slotOff o.d 0x28, slotPitch o.d 0x28, xRows o.d, slotPitch o.d 0x28⟩] (trainRegions s) = false →
          e = normalEnd o ∧ ∀ r k, r < h.nrows → k < h.ncols →
            memCode u (slotOff o.d 0x28 + (h.row0 - xRow0 o.d + r) * slotPitch o.d 0x28) (fmtWidth (fwFmtD (xFmt o.d)))
              (h.col0 - xCol0 o.d + k) = syms.getD (r * h.ncols + k) 0))

/-- R412, R413, R414, R415, R416, R422: ALL_REDUCE, REDUCE_SCATTER, ALL_GATHER and PERMUTE end with the results of R415
in DST. -/
def Obligations.CollectivesWriteTheirResults : Prop :=
  ∀ (s : State) (c i op : Nat) (peers : List (Nat × Desc × List Byte × List Byte)) (o : Op), memWf s.mem = true →
    0x0700 ≤ op → op ≤ 0x0703 → runningOp s c i op = some o → collectFault s o = none → dCheck o.d ≤ 1 →
    let parts := peers.map (fun p => (p.1, p.2.1, p.2.2.1))
    let cmd := if op = 0x0700 then Instr.allReduce c i peers else if op = 0x0701 then .reduceScatter c i parts
      else if op = 0x0702 then .allGather c i parts else .permute c i parts
    let ms : List Member := ⟨s.chip, o.d, rdBytes s (gSrcRegion o.d).off (gSrcRegion o.d).len, []⟩ ::
      ((peers.filter (fun p => p.1 != s.chip)).map (fun p => ⟨p.1, p.2.1, p.2.2.1, if op = 0x0700 then p.2.2.2 else []⟩))
    let w := fmtWidth (fwFmtD (gFmtY o.d)) / 8
    let own := ownerOf (gN o.d) (gLens s o.d)
    let work : Region := ⟨gWork o.d, 0, 1, workNeed s o.d⟩
    (membersHere s o.d ms = false → exec cmd s = .next s) ∧
    (membersHere s o.d ms = true →
      (∃ m ∈ ms, m.chip ∈ gGroupChips s o.d ∧ gKey m.d ≠ gKey o.d) →
      exec cmd s = .next (closeAdder (ctxFault s c i 0x1A4 0) c i)) ∧
    (membersHere s o.d ms = true → (∀ m ∈ ms, m.chip ∈ gGroupChips s o.d → gKey m.d = gKey o.d) →
      ∃ u p, exec cmd s = .next u ∧ findOp u c i = some p ∧ p.ended = some (normalEnd o) ∧
        u.groups = s.groups.filter (fun x => !(x.ctx == c && x.idx == i)) ∧
        (op = 0x0702 ∨ op = 0x0703 ∨ gBind o = none →
          ∀ a, a < gDst o.d ∨ gDst o.d + gN o.d * w ≤ a → a < gWork o.d ∨ gWork o.d + workNeed s o.d ≤ a →
            memRead u.mem a = memRead s.mem a) ∧
        (anyMeet [gDstRegion o.d] (work :: trainRegions s) = false → ∀ e, e < gN o.d →
          let got := memNat u.mem (gDst o.d + w * e) w
          let sum := (convert (fwFmtD (gFmtY o.d)) (gRnd s o e) (reduced s o.d ms e)).1 % 2 ^ (8 * w)
          (op = 0x0702 → got = srcCode o.d (memberAt s o.d ms (own e)) e % 2 ^ (8 * w)) ∧
          (op = 0x0703 → got = srcCode o.d (memberAt s o.d ms
            [((gOwn s o.d).headD 0 + (gLens s o.d).headD 1 - gShift o.d % (gLens s o.d).headD 1) % (gLens s o.d).headD 1]) e
              % 2 ^ (8 * w)) ∧
          (op = 0x0700 ∨ op = 0x0701 → gBind o = none → gOwns s o.d e = true → got = sum) ∧
          (op = 0x0700 → gOwns s o.d e = false → got = gatherCode s o.d ms e % 2 ^ (8 * w)) ∧
          (op = 0x0701 → gOwns s o.d e = false → got = memNat s.mem (gDst o.d + w * e) w)))

/-- R328, R329, R330, R331, R420: RESHARD, DERAILLEUR_PIECE_RECEIVE and DERAILLEUR_ROUND_BEGIN: pieces land, rounds
follow, the last group's vote ends it. -/
def Obligations.ReshardPiecesRoundsAndSwitch : Prop :=
  ∀ (s : State) (o : Op), runningReshard s = some o → findOp s o.ctx o.idx = some o →
    let w := drlOf o
    (∀ peers v, opWaits s o = false → planBad s o.d = false → membersDiffer s o.d peers = false → s.early = [] → o.work = .drl w → w.started = true →
      w.voted = true → w.group + 1 = rsEnd s o.d → chainResult s 66 w.group 0 = some v →
      (v ≠ 0 → rsEnd (switchGroup s o) o.d = rsEnd s o.d →
        ∃ u p, exec (.reshard o.ctx o.idx peers) s = .next u ∧ findOp u o.ctx o.idx = some p ∧ p.ended = some (normalEnd o) ∧
          u.mem = (switchGroup s o).mem) ∧
      (v = 0 → ∃ u p, exec (.reshard o.ctx o.idx peers) s = .next u ∧ findOp u o.ctx o.idx = some p ∧
        p.ended.map (fun e => e.status) = some .digestMismatch)) ∧
    (∀ p k, w.started = true → pieceFor s o.d w.group p = some k → k ∉ w.landed → k ∉ w.failed →
      let s1 := landPiece s o.d w.group p.key p.values
      let good := ringDigest (regionBytes s1.mem (keyRegion (targetsOf s1 o.d w.group) p.key)) = p.digest
      ∃ t u q, exec (.derailleurPieceReceive p) s = .next u ∧ u = reshardTake t ∧ findOp t o.ctx o.idx = some q ∧
        t.mem = s1.mem ∧
        (good → (drlOf q).landed = w.landed ++ [k] ∧
          (p.src, (⟨s.chip, o.ctx, o.idx, .pieceAns p.key true⟩ : Msg)) ∈ t.txq.map (fun m => (m.chip, m.msg))) ∧
        (¬ good → k ∉ w.again → (drlOf q).again = w.again ++ [k] ∧ (drlOf q).landed = w.landed ∧
          (p.src, (⟨s.chip, o.ctx, o.idx, .pieceAns p.key false⟩ : Msg)) ∈ t.txq.map (fun m => (m.chip, m.msg)))) ∧
    (opWaits s o = false → w.started = true → w.voted = false → roundDone s o = true → slotOver s o = false → w.round + 1 < grRounds s o.d w.group →
      ∃ u q, exec (.derailleurRoundBegin o.ctx o.idx) s = .next u ∧ findOp u o.ctx o.idx = some q ∧
        (drlOf q).round = w.round + 1 ∧ (drlOf q).group = w.group ∧
        ∀ k ∈ grPieces s o.d w.group, pcRound s o.d k = w.round + 1 → pcIn s o.d k = false → pcLocal s o.d k = false →
          k ∈ (drlOf q).sending) ∧
    (∀ (t : State) (p : PieceMsg), runningReshard t = none →
      exec (.derailleurPieceReceive p) t = .next { t with early := t.early ++ [p] })

/-- R455, R456, R457, R459, R460, R461, R462, R463, R464, R465, R467, R472: FORM, MERGE, MERGE_CUTOFF, the mask, set and
bundle messages, APPLY and BASIS: what each of them leaves. -/
def Obligations.RotationsFormMergeAndApply : Prop :=
  (∀ (s : State) (c i : Nat) (o : Op), s.canonical = true → runningOp s c i 0x0800 = some o → dCheck o.d ≤ 1 →
      ∃ u p, exec (.form c i) s = .next u ∧ findOp u c i = some p ∧ p.ended = some (normalEnd p) ∧
        (formRotates o = false → p.reruns = o.reruns) ∧ rotId u = (rRot o.d + 1) % 2 ^ 64 ∧ u.rot.afterSplit = false ∧
        (∀ e, rotEntries s = [e] → prodFailed (formRun s o) c i = false → findOp s 0x10000 0 = none →
          regionsMeet (entryRegion s e e.delta) ⟨getA2 s Reg.rotStage_baseLo Reg.rotStage_baseHi, 0, 1,
            4096 * getA s Reg.rotStagePages_pages⟩ = false →
          regionsMeet (entryRegion s e e.delta) (roleRegion s e.param 5) = false →
          regionsMeet (entryRegion s e e.delta) (recordRegion s e.param 1) = false →
          regionsMeet (roleRegion s e.param 5) (recordRegion s e.param 1) = false →
          ∀ r k, r < pNrows s e.param → r < pNrows s e.twin → k < pNcols s e.param → k < pNcols s e.twin →
            memBytes u.mem (e.delta + r * f32Pitch (pNcols s e.param) + 4 * k) 4 =
              leBytes 4 (code32 (r32 (fvSub (matAt (roleMat s e.twin 0) r k) (matAt (roleMat s e.param 0) r k)))))) ∧
    (∀ (s : State) (c i : Nat) (o : Op), s.canonical = true → runningOp s c i 0x0810 = some o →
      (o.work = .none → rReplay o.d = false →
        ((ownFormed s (rRot o.d) = false ∨ allArrived s (rRot o.d) = false) → exec (.merge c i) s = .next s) ∧
        (isReporter s = false → ownFormed s (rRot o.d) = true → mergeReady s o = none →
          (allArrived s (rRot o.d) = true ∨ cutoffTaken s o = true) →
          ∃ u, (allArrived s (rRot o.d) = true → exec (.merge c i) s = .next u) ∧
            (cutoffTaken s o = true → exec (.mergeCutoff c i) s = .next u) ∧
            findOp u c i = some { o with work := .rot 1 none } ∧
            u.rot.masked = some (max (rRot o.d) (s.rot.masked.getD 0)) ∧
            u.rot.contribs = s.rot.contribs.filter (fun b => !decide (b.rotation + rotStale s < rRot o.d)) ∧
            u.txq.map (fun m => (m.cls, m.chip, m.payload)) = s.txq.map (fun m => (m.cls, m.chip, m.payload)) ++
              [(0x81, getA s Reg.rotReport_chip, (mergeMask (dropStale s (rRot o.d)) (rRot o.d)).flatMap (leBytes 1))])) ∧
      (o.work = .none → rReplay o.d = true →
        let r := rRot o.d
        let m := replaySet s o.d
        let rejected := (rosterOf s r).find? (fun k => decide (8 ≤ m.used.getD k 0xFF))
        (setHeld s m = false → exec (.merge c i) s = .next s) ∧
        (setHeld s m = true → ∃ u p, exec (.merge c i) s = .next u ∧ findOp u c i = some p ∧ p.work = .rot 2 rejected ∧
          u.rot.set = none ∧ u.rot.contribs = (dropUsed s m).rot.contribs ∧
          u.rot.ledger = s.rot.ledger ++ (if isReporter s then
            [⟨0, r, rotStep s r, standMask (rosterOf s r), rdNat s (rAddr o.d + 0x30) 8, m.used, none⟩] else []))) ∧
      (∀ m rj, o.work = .rot 1 rj → s.rot.ready = none → mergeReady s o = some m →
        let waits := fun (t : State) => t.txq.any (fun x => x.cls == 0x83 && x.msg.ctx == c && x.msg.idx == i)
        let rejected := (rosterOf s (rRot o.d)).find? (fun k => decide (8 ≤ m.used.getD k 0xFF))
        ∃ u p, exec (.merge c i) s = .next u ∧ findOp u c i = some p ∧ p.work = .rot 2 rejected ∧ u.rot.set = none ∧
          u.rot.contribs = (dropUsed s m).rot.contribs ∧ (waits u = true → p.ended = none) ∧
          (waits u = false → p.ended = some (match rejected with
            | some k => worse (normalEnd o) ⟨.staleRejected, k⟩
            | none => normalEnd o)))) ∧
    (∀ (s : State) (r sealed chip : Nat) (used masks : List Nat) (dig : List Byte),
      (isReporter s = true → exec (.mergeSetReceive r sealed used) s = .next s) ∧
      (isReporter s = false → exec (.mergeSetReceive r sealed used) s =
          .next { s with rot := { s.rot with set := some ⟨r, used, sealed⟩, sealed := sealed } } ∧
        exec (.mergeMaskReceive r chip masks dig) s = .next s) ∧
      (isReporter s = true → masks ≠ [] →
        let s1 := setRot s (fun t => { t with masks := t.masks.filter (fun m => !(m.1 == r && m.2.1 == chip)) ++ [(r, chip, masks)] })
        (formSet s1 r = none → exec (.mergeMaskReceive r chip masks []) s = .next s1) ∧
        (∀ m, formSet s1 r = some m → ∃ u, exec (.mergeMaskReceive r chip masks []) s = .next u ∧
          (ledgerRoom s = true → u.rot.set = some m ∧ u.rot.sealed = m.sealed ∧ u.rot.ready = none ∧
            u.rot.ledger = s.rot.ledger ++ [⟨0, r, rotStep s r, standMask (rosterOf s r), mergeCutoff s r, m.used, none⟩]) ∧
          (ledgerRoom s = false → u.rot.set = s.rot.set ∧ u.rot.ready = some m ∧ u.rot.ledger = s.rot.ledger)))) ∧
    (∀ (s : State) (bs : List Byte) (again : List (List (List Byte))),
      let k := byteNat bs 2 1 % 64
      let kind := byteNat bs 3 1 % 2
      let r := byteNat bs 8 8
      let ros := bundleRoster s kind r (byteNat bs 0x10 8)
      let own := if kind = 0 then ros.idxOf s.stand else ros.idxOf k
      let es := sliceEntries s ros.length own
      let ok := byteNat bs 0 2 = 0x5254 ∧ byteNat bs 0x18 4 = bs.length ∧ standMask ros = byteNat bs 0x10 8 ∧ k ∈ ros ∧
        (kind = 0 → s.stand ∈ ros) ∧ byteNat bs 4 4 = es.length
      (stageFits s bs = false → exec (.rotationBundleReceive bs again) s = .next s) ∧
      (stageFits s bs = true → ¬ ok → exec (.rotationBundleReceive bs again) s = .next (countA s Reg.rotRefused_other 1)) ∧
      (∀ segs, stageFits s bs = true → ok → (decodeBundle bs kind r ros.length own es 32 again s).2 = .ok segs →
        ∃ u, exec (.rotationBundleReceive bs again) s = .next u ∧
          (kind = 0 → heldContrib u k r = some ⟨k, r, ros, segs, ceilDiv bs.length 4096⟩ ∧ u.rot.merged = s.rot.merged ∧
            ∀ x y, (x, y) ≠ (k, r) → heldContrib u x y = heldContrib s x y) ∧
          (kind = 1 → u.rot.contribs = s.rot.contribs ∧ k ∉ missingOwners u r))) ∧
    (∀ (s : State) (c i : Nat) (o : Op), s.canonical = true → runningOp s c i 0x0820 = some o →
      ((missingOwners s (rRot o.d)).any (standHalted s) = true → exec (.apply c i) s = .next (endOp s c i ⟨.authFail, 0⟩)) ∧
      ((missingOwners s (rRot o.d)).any (standHalted s) = false →
        applyWaits s o = true → exec (.apply c i) s = .next s) ∧
      (applyWaits s o = false →
        ∃ u p, exec (.apply c i) s = .next u ∧ findOp u c i = some p ∧ p.ended = some (normalEnd o) ∧
          u.rot.applied = some (rRot o.d) ∧
          (∀ e x, s.rot.sealed ≤ s.rot.anchored → rotEntries s = [e] → mergedMat s (rRot o.d) e = some x →
            let a := entryRegion s e (roleOff s e.twin 0)
            let other := entryRegion s e (roleOff s e.param 0) :: (workRegions s e.param ++ workRegions s e.twin)
            (∀ q ∈ other, regionsMeet a q = false) →
            (∀ q ∈ a :: entryRegion s e (roleOff s e.twin 3) :: other, ∀ t ∈ [recordRegion s e.param 1, recordRegion s e.twin 1],
              regionsMeet q t = false) →
            ∀ r k, r < pNrows s e.param → k < pNcols s e.param →
              memBytes u.mem (roleOff s e.twin 0 + r * f32Pitch (pNcols s e.param) + 4 * k) 4 =
                leBytes 4 (code32 (outerStep (decodeCode .fp32 (rMu o.d)) (decodeCode .fp32 (rEta o.d))
                  (matAt (roleMat s e.twin 3) r k) (matAt (roleMat s e.twin 0) r k) (matAt x r k)).2)))) ∧
    (∀ (s : State) (c i : Nat) (o : Op) (factors : List (Nat × List Byte)), runningOp s c i 0x0830 = some o → dCheck o.d ≤ 1 →
      (basisStand s (rRot o.d) = s.stand ∨ ∀ p ∈ basisPairs s, ∃ f ∈ factors, f.1 = p.1) →
      (∀ p ∈ basisPairs s, ∀ q ∈ s.ops, isOp c i q = false → readsCand s p.1 q = false) →
      ∃ u p, exec (.basis c i factors) s = .next u ∧ findOp u c i = some p ∧ p.ended = some (normalEnd o) ∧
        u.rot.basisRun = true ∧ u.rot.basisRot = rRot o.d)

/-- R468, R470, R471, R473, R474, R476, R477, R478, R479: LEDGER_ENTRY_WRITE and RECEIVE, PARTNER_JOIN, SPLIT and DROP,
HEAL and JOIN_CHECK: what each of them leaves. -/
def Obligations.PartnersLedgerAndHeal : Prop :=
  (∀ (s : State) (it : LedgerItem) (rest : List LedgerItem) (given : List (Nat × List Byte)) (com : List Byte),
      s.canonical = true → isReporter s = true → s.rot.ready = none → s.rot.ledger = it :: rest → ledgerFits s = true →
      ledgerDigests s it given = some com →
      let bs := ledgerBody s it com ++ signatureOf (ledgerBody s it com)
      let a := getA2 s Reg.ledgerBase_baseLo Reg.ledgerBase_baseHi + s.rot.entryNo % getA s Reg.ledgerCap_count * 768
      ∃ u, exec (.ledgerEntryWrite given) s = .next u ∧ u.rot.ledger = rest ∧ u.rot.entryNo = s.rot.entryNo + 1 ∧
        u.rot.prevHash = sha512 (ledgerBody s it com) ∧ getA u Reg.ledgerTail_entry = (s.rot.entryNo + 1) % 2 ^ 32 ∧
        (it.kind ≠ 0 ∨ s.rot.common = [] → memBytes u.mem a bs.length = bs ∧
          ∀ b, b < a ∨ a + bs.length ≤ b → memRead u.mem b = memRead s.mem b)) ∧
    (∀ (s : State) (entry : List Byte), s.canonical = true →
      let k := byteNat entry 6 1 % 64
      let r := byteNat entry 0x10 8
      let fits := isReporter s = true ∧ byteNat entry 5 1 = 0 ∧ byteNat entry 0 4 = 0x4C474452
      (¬ fits ∨ partOf s k = none → exec (.ledgerEntryReceive entry) s = .next s) ∧
      (∀ e, fits → partOf s k = some e → ∃ u, exec (.ledgerEntryReceive entry) s = .next u ∧
        partF u Reg.part_lastRot e = r % 2 ^ 32 ∧
        (∀ d, k ≠ s.stand → (r, s.stand, d) ∈ s.rot.common → d ≠ (entry.drop 0x80).take 64 →
          getA u Reg.rotStatus_digestBad = 1 ∧ u.rot.mismatch.isSome = true))) ∧
    (∀ (s : State) (c i : Nat) (o : Op), s.canonical = true → runningOp s c i 0x0840 = some o → dCheck o.d ≤ 1 →
      (rAction o.d = 0 → emptyPart s = none → exec (.partnerJoin c i) s = .next (endOp s c i ⟨.tableFull, 0⟩)) ∧
      (∀ e, rAction o.d = 0 → emptyPart s = some e → ∃ u p, exec (.partnerJoin c i) s = .next u ∧ findOp u c i = some p ∧
        p.ended = some (normalEnd o) ∧ partF u Reg.part_state e = 1 ∧ partF u Reg.part_stand e = rStand o.d ∧
        partF u Reg.part_joinRot e = rRot o.d % 2 ^ 32 ∧ partF u Reg.part_lastRot e = 0 ∧ partF u Reg.part_lostRot e = 0 ∧
        partF u Reg.part_session e = (if rStand o.d = s.stand then 0 else rSession o.d) ∧
        (∀ k, k < 64 → k ≠ e → partF u Reg.part_state k = partF s Reg.part_state k) ∧ u.mem = s.mem) ∧
      (∀ e, rAction o.d = 2 → partOf s (rStand o.d) = some e → ∃ u p, exec (.partnerDrop c i) s = .next u ∧
        findOp u c i = some p ∧ p.ended = some (normalEnd o) ∧ partF u Reg.part_state e = 0 ∧
        (∀ k, k < 64 → k ≠ e → partF u Reg.part_state k = partF s Reg.part_state k) ∧ u.mem = s.mem ∧ u.rot = s.rot) ∧
      (∀ n, rAction o.d = 1 → n ≤ s.rot.anchored → closeUnread s o = false →
        ∃ u p, exec (.partnerSplit c i n) s = .next u ∧ findOp u c i = some p ∧ p.ended = some (normalEnd o) ∧
          getA u Reg.rotStatus_split = 1 ∧ u.rot.basisRun = false ∧ u.rot.afterSplit = true ∧ u.rot.anchored = s.rot.anchored ∧
          (∀ k e, k ∈ outsideOf s (rMask o.d 0) → partOf s k = some e → partF u Reg.part_state e = 2) ∧
          (∀ q ∈ s.ops, rotWaiting q = true → (q.ctx, q.idx) ≠ (c, i) → ∃ t ∈ u.ops, t.ctx = q.ctx ∧ t.idx = q.idx ∧
            t.ended.map (fun e => e.status) = some .staleRejected))) ∧
    (∀ (s : State) (c i : Nat) (o : Op) (anchors : List (Nat × Nat)) (digests : List (Nat × List Byte))
        (shards : List (Nat × Nat × List Byte)), s.canonical = true → runningOp s c i 0x0850 = some o → dCheck o.d ≤ 1 →
      let all := (healBranches o.d).flatten
      (all.any (standHalted s) = true → exec (.heal c i anchors digests shards) s = .next (endOp s c i ⟨.authFail, 0⟩)) ∧
      (all.any (standHalted s) = false → (∃ k ∈ all, k ≠ s.stand ∧ ∀ p ∈ anchors, p.1 ≠ k) →
        exec (.heal c i anchors digests shards) s = .next s) ∧
      (∀ ds, all.any (standHalted s) = false → closeUnread s o = false → (∀ k ∈ all, k ≠ s.stand → ∃ p ∈ anchors, p.1 = k) →
        (∀ p ∈ anchors, p.1 ∈ all → p.2 ≤ s.rot.anchored) → allDigests s all digests = some ds →
        let graft := (∀ d ∈ ds, d = ds.headD []) ∧ rRot o.d + 1 - s.rot.anchored ≤ getA s Reg.rotCtrl2_graftWindow
        (¬ graft ∨ ∀ e ∈ rotEntries s, ∀ b ∈ healBranches o.d, (branchA s e b shards).isSome = true) →
        ∃ u p, exec (.heal c i anchors digests shards) s = .next u ∧ findOp u c i = some p ∧ p.ended = some (normalEnd o) ∧
          (graft → getA u Reg.rotStatus_outcome = 1 ∧ getA u Reg.rotStatus_split = 0 ∧ rotId u = rRot o.d % 2 ^ 64 ∧
            ∀ k e, k ∈ all → partOf s k = some e → partF u Reg.part_state e = 1 ∧ partF u Reg.part_joinRot e = rRot o.d % 2 ^ 32) ∧
          (¬ graft → getA u Reg.rotStatus_outcome = (if s.stand ∈ keptBranch (healBranches o.d) then 2 else 3) ∧ u.mem = s.mem))) ∧
    (∀ (s : State) (c i : Nat) (o : Op) (digests : List (Nat × List Byte)), runningOp s c i 0x0860 = some o →
      dCheck o.d ≤ 1 →
      let body := rdBytes s (rEntry o.d) 256
      let good := chainVerifies s (rCert o.d) body (rdBytes s (rEntry o.d + 256) 512) = true ∧
        joinDigest s digests = (body.drop 0x80).take 64
      ∃ u p, exec (.joinCheck c i digests) s = .next u ∧ findOp u c i = some p ∧
        (good → p.ended = some (normalEnd o) ∧ (s.rot.entryNo = 0 → u.rot.prevHash = sha512 body)) ∧
        (¬ good → p.ended.map (fun e => e.status) = some .digestMismatch))

/-- R151, R155, R490, R491, R492, R494, R495, R501, R504, R505, R510, R547: TALLY_OPEN, TALLY_CLOSE, TALLY_SIGN_DONE,
DIGEST, ATTEST, VOTE_SCRUB and EVENT_DUMP: what each of them leaves. -/
def Obligations.TallySignAttestAndVote : Prop :=
  (∀ (s : State) (c i : Nat) (o : Op), memWf s.mem = true → runningOp s c i 0x0A00 = some o →
      let a := tallySlot s (tgTag o.d)
      (tallyKept s = true → s.tally.signing.any (fun q => q.2 == a) = true → exec (.tallyOpen c i) s = .next s) ∧
      (s.tally.signing.any (fun q => q.2 == a) = false → tallyOpenFault s o.d = none →
        ∃ u, exec (.tallyOpen c i) s = .next u ∧ findOp u c i = some { o with ended := some ⟨.done, 0⟩ } ∧
          u.tally = { s.tally with recs := s.tally.recs ++ [⟨tgTag o.d, tgStep o.d, false, 0, 0, 0, 0, 0, 0, 0, []⟩] } ∧
          memNat u.mem a 4 = 0x594C4154 ∧ memNat u.mem (a + 8) 8 = tgStep o.d ∧ memNat u.mem (a + 0x18) 4 = tgTag o.d ∧
          (∀ b, a + 32 ≤ b → b < a + 36864 → memRead u.mem b = 0) ∧
          (∀ b, b < a ∨ a + 36864 ≤ b → memRead u.mem b = memRead s.mem b) ∧
          u = { s with mem := u.mem, hbm := { s.hbm with poison := u.hbm.poison }, tally := u.tally, ops := u.ops })) ∧
    (∀ (s : State) (c i : Nat) (o : Op), s.canonical = true → runningOp s c i 0x0A10 = some o →
      let w := closeOf o
      let st := tgStep o.d
      (w.asked = false → w.nf = none → closeResults (closeAsk s o) st = none →
        ∃ u p, exec (.tallyClose c i) s = .next u ∧ findOp u c i = some p ∧ (closeOf p).asked = true ∧
          (closeOf p).local_ = anyFlag s ∧ ∀ k, k < 128 → (cellGet u k).nf = false) ∧
      (∀ flag maxes, w.asked = true → w.nf = none → w.kept = false → closeResults s st = some (flag, maxes) →
        let skip := flag % 2 == 1 && getA s Reg.nfCtrl_policy == 0
        ∃ u p, exec (.tallyClose c i) s = .next u ∧ findOp u c i = some p ∧ p.ended = some ⟨.done, 0⟩ ∧
          getA u Reg.nfStatus_flag = flag % 2 ∧ stepId u = (st + 1) % 2 ^ 64 ∧ (st, skip) ∈ u.decisions ∧
          (∀ q, q.1 ≠ st → (q ∈ u.decisions ↔ q ∈ s.decisions)) ∧
          (skip = true → getA u Reg.nfStatus_skipped = min 65535 (getA s Reg.nfStatus_skipped + 1))) ∧
      (w.asked = true → w.nf.isSome = true → w.kept = true → w.masters = none →
        (s.ops.any (closeWaitsFor o) = true ∨ unitsHeld s = true) → exec (.tallyClose c i) s = .next s) ∧
      (∀ r, w.asked = true → w.nf.isSome = true → w.kept = true → w.masters.isSome = true →
        s.ops.any (fun p => dTag p.d == tgTag o.d) = false → tallyRec s (tgTag o.d) = some r →
        let a := tallySlot s r.tag
        ∃ u p, exec (.tallyClose c i) s = .next u ∧ findOp u c i = some p ∧ p.ended = some ⟨.done, 0⟩ ∧
          tallyRec u (tgTag o.d) = none ∧ u.tally.prevHash = sha512 (resultBytes u a) ∧
          memNat u.mem (a + 8) 8 = r.step % 2 ^ 64 ∧ memNat u.mem (a + 0x18) 4 = r.tag % 2 ^ 32 ∧
          (s.tally.signing = [] → u.tally.signing = if signDue s r.step then [(r.step, a)] else []))) ∧
    (∀ (s : State) (st a : Nat) (rest : List (Nat × Nat)), memWf s.mem = true → s.tally.signing = (st, a) :: rest →
      ∃ u, exec .tallySignDone s = .next u ∧ u.tally = { s.tally with signing := rest } ∧
        memBytes u.mem (a + 0x8200) 512 = signatureOf (rdBytes s a 0x8200) ∧ memNat u.mem (a + 0x8400) 1 = 1 ∧
        (∀ b, b < a + 0x8200 ∨ a + 0x8401 ≤ b → memRead u.mem b = memRead s.mem b)) ∧
    (∀ (s : State) (c i : Nat) (o : Op), memWf s.mem = true → runningOp s c i 0x0A20 = some o → unitsHeld s = false →
      dCheck o.d ≤ 1 → accessFault s [dgSrc o.d, dgDst o.d] = none → outFault s o.d [dgDst o.d] = none →
      let a := dfld o.d 0x28 41 0
      ∃ u p, exec (.digest c i) s = .next u ∧ findOp u c i = some p ∧ p.ended = some (normalEnd o) ∧
        (anyMeet [dgDst o.d] (trainRegions s) = false → memNat u.mem a 16 = regionsDigest s.mem [dgSrc o.d]) ∧
        (∀ b, b < a ∨ a + 16 ≤ b → memRead u.mem b = memRead s.mem b)) ∧
    (∀ (s : State) (c i : Nat) (o : Op), memWf s.mem = true → runningOp s c i 0x0A30 = some o →
      accessFault s [attestRegion s o.d] = none → outFault s o.d [attestRegion s o.d] = none →
      ∃ u p, exec (.attest c i) s = .next u ∧ findOp u c i = some p ∧ p.ended = some ⟨.done, 0⟩ ∧
        (anyMeet [attestRegion s o.d] (trainRegions s) = false →
          memBytes u.mem (atDst o.d) (attestBytes s o.d).length = attestBytes s o.d) ∧
        (∀ b, b < atDst o.d ∨ atDst o.d + (attestBytes s o.d).length ≤ b → memRead u.mem b = memRead s.mem b)) ∧
    (∀ (s : State) (b : Blk) (f : Fld) (a v k mask : Nat), s.canonical = true → blkOf (blkBase b) = some (b, 0) →
      (f, a) ∈ votedWords b → k < 3 → fieldCopies s f a = (v, v, v) →
      ∃ u, exec (.voteScrub (blkBase b) [(k, a, mask)]) s = .next u ∧ fieldCopies u f a = (v, v, v)) ∧
    (∀ (s : State) (b : Blk) (f : Fld) (a : Nat), s.canonical = true → blkOf (blkBase b) = some (b, 0) →
      (f, a) ∈ votedWords b → isSplit (fieldCopies s f a) = true → (∀ p ∈ s.tally.splits, p.1 ≠ a) →
      ∃ u, exec (.voteScrub (blkBase b) []) s = .next u ∧ getF u (blkBase b) Reg.voteFix_split 0 = 1 ∧
        u.ops.length = s.ops.length ∧ ∀ o ∈ u.ops, o.ended.map (fun e => e.status) = some .deviceFault) ∧
    (∀ (s : State) (tick time : Nat) (es : List Byte) (rest : List (Nat × Nat × List Byte)), s.canonical = true →
      s.dumps = (tick, time, es) :: rest →
      let n := dumpTail s
      let cap := getA s Reg.evdCtrl_cap
      let a := getA2 s Reg.evdBase_baseLo Reg.evdBase_baseHi + n % cap * 17408
      let bs := dumpBytes s n tick time es
      ∃ u, exec .eventDump s = .next u ∧ u.dumps = rest ∧ dumpTail u = (n + 1) % 2 ^ 64 ∧
        ((n + 2 ^ 32 - getA s Reg.evdHead_index) % 2 ^ 32 < cap → inHbm s a 17408 = true →
          memBytes u.mem a bs.length = bs ∧ getA u Reg.evdLost_count = getA s Reg.evdLost_count ∧
          ∀ b, b < a ∨ a + bs.length ≤ b → memRead u.mem b = memRead s.mem b) ∧
        (cap ≤ (n + 2 ^ 32 - getA s Reg.evdHead_index) % 2 ^ 32 ∨ inHbm s a 17408 = false → u.mem = s.mem ∧
          getA u Reg.evdLost_count = min (2 ^ 32 - 1) (getA s Reg.evdLost_count + 1)))

/-- R552, R556, R557, R559, R560, R561, R562, R563, R564, R565, R571, R573: The resets, BOOT_STAGE_END,
FW_START_TIMEOUT, PART_RECORD_WRITE and the seven mailbox commands. -/
def Obligations.BringUpAndMailbox : Prop :=
  (∀ s : State, s.boot.perst = false → exec .perstRelease s = .next s) ∧
    (∀ s : State, s.canonical = true → s.boot.perst = true → s.boot.railLow = false →
      (s.boot.trip = false ∨ s.power.tj < 100) →
      ∃ u, exec .perstRelease s = .next u ∧ u.boot.stage = 1 ∧ u.boot.halted = false ∧ u.boot.log = [⟨0, 1, 0, 0⟩] ∧
        getD u Reg.bootStatus_stage = 1 ∧ getD u Reg.bootStatus_code = 0 ∧ u = { s with boot := u.boot, regs := u.regs }) ∧
    (∀ s : State, ∃ u, exec .perstAssert s = .next u ∧ u.boot.stage = 0 ∧ u.boot.perst = true ∧
      getD u Reg.resetCause_cause = 1 ∧ u.ops = [] ∧ u.rings = State.reset.rings ∧ u.mem = State.reset.mem ∧
      u.sems = State.reset.sems ∧ u.flash = s.flash ∧ u.keys = s.keys ∧ u.hostMem = s.hostMem ∧ u.pending = s.pending) ∧
    (∀ s : State, (s.boot.stage = 0 → exec .cxlHotReset s = .next s) ∧
      (s.boot.stage ≠ 0 → s.boot.perst = false → s.boot.railLow = false → s.boot.trip = false →
        ∃ u, exec .cxlHotReset s = .next u ∧ u.boot.stage = 1 ∧ getD u Reg.resetCause_cause = 2 ∧ u.ops = [] ∧
          u.mem = State.reset.mem ∧ u.flash = s.flash ∧ u.keys = s.keys ∧ u.hostMem = s.hostMem)) ∧
    (∀ (s : State) (ns : Nat) (e : StageEnd), s.boot.halted = true → exec (.bootStageEnd ns e) s = .next s) ∧
    (∀ (s : State) (ns : Nat), s.canonical = true → s.boot.halted = false →
      let passes := fun (e : StageEnd) (n : Nat) => s.boot.stage = n →
        ∃ u, exec (.bootStageEnd ns e) s = .next u ∧ u.boot.stage = n + 1 ∧ u.boot.halted = false ∧
          getD u Reg.bootStatus_stage = n + 1 ∧ u.flash = s.flash
      let halts := fun (e : StageEnd) (n code detail : Nat) => s.boot.stage = n →
        ∃ u, exec (.bootStageEnd ns e) s = .next u ∧ u.boot.stage = n ∧ u.boot.halted = true ∧
          getD u Reg.bootStatus_stage = n ∧ getD u Reg.bootStatus_code = code ∧ getD u Reg.bootStatus_detail = min 65535 detail
      passes (.supply 0 true) 1 ∧ halts (.supply 0 false) 1 0x82 0 ∧
      (∀ m ok, m % 256 ≠ 0 → halts (.supply m ok) 1 0x81 (m % 256)) ∧
      (∀ x y, let p := (partCauseOf s 0 x, partCauseOf s 1 y)
        (∀ k, chooseCopy p (partSeq s) = some k → passes (.part x y) 2 ∧ (s.boot.stage = 2 →
          ∃ u, exec (.bootStageEnd ns (.part x y)) s = .next u ∧ u.boot.part = some k ∧
            getD u Reg.devId_variant = partVariant s k ∧ getD u Reg.hbmGranules_count = granulesOf (partVariant s k))) ∧
        (chooseCopy p (partSeq s) = none → halts (.part x y) 2 0x83 (p.1 + 256 * p.2))) ∧
      (∀ x y, let p := (fwCauseOf s 0 x, fwCauseOf s 1 y)
        (∀ k, chooseCopy p (fwSeq s) = some k → passes (.firmware x y) 3) ∧
        (chooseCopy p (fwSeq s) = none → halts (.firmware x y) 3 0x84 (p.1 + 256 * p.2))) ∧
      passes (.clocks none) 4 ∧ (∀ p, halts (.clocks (some p)) 4 0x85 p) ∧
      passes (.mills 0) 5 ∧ (∀ m, m % 16 ≠ 0 → halts (.mills m) 5 0x86 (m % 16)) ∧
      (∀ sweep density data, (∀ k, k < 8 → density.getD k 0 = if getD s Reg.devId_variant = 1 then 72 else 36) →
        passes (.training sweep 0 density data) 6) ∧
      passes (.test []) 7 ∧ passes .links 8 ∧
      (let timed := getB s Reg.timeStatus_state = 2 ∨ getB s Reg.timeStatus_state = 3 ∨ getB s Reg.timeStatus_state = 5
       (timed ∨ acquireOver s ns = true → passes .time 9) ∧
       (¬ timed → acquireOver s ns = false → s.boot.stage = 9 → exec (.bootStageEnd ns .time) s = .next s))) ∧
    (∀ (s : State) (ns k : Nat) (a b : FwSeen), s.canonical = true → s.boot.stage = 3 → s.boot.halted = false →
      chooseCopy (fwCauseOf s 0 a, fwCauseOf s 1 b) (fwSeq s) = some k →
      ∃ u, exec (.fwStartTimeout ns a b) s = .next u ∧ u.boot.fwDead = s.boot.fwDead ++ [k] ∧ u.boot.stage = 3 ∧
        (u.boot.halted = true ↔ (if k = 0 then fwCauseOf s 1 b else fwCauseOf s 0 a) ≠ 0) ∧
        (u.boot.halted = true → getD u Reg.bootStatus_code = 0x84)) ∧
    (∀ (s : State) (first second : List (Nat × Byte)),
      (partDue s = false → exec (.partRecordWrite first second) s = .next s) ∧
      (partDue s = true →
        let f := signedCopy s
        ∃ u, exec (.partRecordWrite first second) s = .next u ∧ u.boot.wroteAt = some s.time.tai ∧
          (readBack s f first = f ∨ readBack s f second = f → u.flash = f ∧ u.boot.part = some (1 - partUse s) ∧
            u.boot.draft = [] ∧ u.boot.heldBack = false) ∧
          (readBack s f first ≠ f → readBack s f second ≠ f → u.flash = readBack s f second ∧ u.boot.part = s.boot.part ∧
            u.boot.draft = s.boot.draft ∧ u.boot.heldBack = true))) ∧
    (∀ (s : State) (slot off item value op : Nat) (data : List Byte) (last online : Bool) (x : FwSeen), s.boot.stage = 0 →
      ∀ c ∈ [Instr.getFwInfo, .transferFw slot off data last x, .activateFw online slot x, .readBootLog, .readPartInfo,
        .writeSetting item value, .mailboxUnsupported op], exec c s = .next s) ∧
    (∀ (s : State), 1 ≤ s.boot.stage →
      exec .getFwInfo s = .next { s with mbox := ⟨.success, (s.boot.fw.map (fun c => c + 1)).getD 0,
        [hexSeq (fwSeq s 0), hexSeq (fwSeq s 1)], [], []⟩ } ∧
      exec .readBootLog s = .next { s with mbox := ⟨.success, 0, [], bootLogBytes s, []⟩ } ∧
      (s.boot.stage = 1 → exec .readPartInfo s = .next { s with mbox := ⟨.unsupported, 0, [], [], []⟩ }) ∧
      (2 ≤ s.boot.stage → exec .readPartInfo s = .next { s with mbox := ⟨.success, 0, [], [],
        [(partSeq s 0, s.boot.partCause.1, s.boot.part == some 0), (partSeq s 1, s.boot.partCause.2, s.boot.part == some 1)]⟩ }) ∧
      (∀ slot x, exec (.activateFw true slot x) s = .next { s with mbox := ⟨.unsupported, 0, [], [], []⟩ } ∧
        exec (.activateFw false slot x) s = .next { s with mbox :=
          ⟨if (slot = 1 ∨ slot = 2) ∧ fwCauseOf s (slot - 1) x = 0 then .success else .invalidInput, 0, [], [], []⟩ }) ∧
      (∀ op, op ∉ mboxOpcodes → exec (.mailboxUnsupported op) s = .next { s with mbox := ⟨.unsupported, 0, [], [], []⟩ }) ∧
      (∀ slot off data last x, (slotIdle s slot = false ∨ 0x4000000 < off + data.length) →
        exec (.transferFw slot off data last x) s = .next { s with mbox := ⟨.invalidInput, 0, [], [], []⟩ }) ∧
      (∀ slot off data x, memWf s.flash = true → slotIdle s slot = true → off + data.length ≤ 0x4000000 →
        let a := fwBase (slot - 1) + off
        ∃ u t, exec (.transferFw slot off data false x) s = .next u ∧ u = { s with flash := u.flash, mbox := u.mbox } ∧
          u.mbox.code = .success ∧ memBytes u.flash a data.length = data ∧
          (∀ b, b < a ∨ a + data.length ≤ b → memRead u.flash b = memRead s.flash b) ∧
          exec (.transferFw slot off data true x) s = .next t ∧ t.flash = u.flash ∧
          t.mbox.code = (if fwCauseOf u (slot - 1) x = 0 then .success else .copyInvalid)) ∧
      (∀ item value, (s.boot.stage < 10 → exec (.writeSetting item value) s = .next { s with mbox := ⟨.unsupported, 0, [], [], []⟩ }) ∧
        (10 ≤ s.boot.stage → (item < 1 ∨ 5 < item) →
          exec (.writeSetting item value) s = .next { s with mbox := ⟨.invalidInput, 0, [], [], []⟩ }) ∧
        (10 ≤ s.boot.stage → 1 ≤ item → item ≤ 5 →
          ∃ u ws, settingWrites s item value = some ws ∧ exec (.writeSetting item value) s = .next u ∧ u.mbox.code = .success ∧
            u = { draftPut s ws with mbox := u.mbox })))

/-- R427, R578, R584, R585, R587, R588, R590, R591, R592, R593, R586, R594: The governor, the regulator, the Brake, the
rails, temperatures, the management port and the test port. -/
def Obligations.PowerTemperatureAndPorts : Prop :=
  (∀ (s : State) (watts tj : Nat), (s.boot.stage = 0 → exec (.governorWindow watts tj) s = .next s) ∧
      (s.boot.stage ≠ 0 → s.canonical = true →
        let k := s.power.k
        let down := 0 < k ∧ (getD s Reg.pwrCtrl_cap < watts ∨ getD s Reg.pwrCtrl_tjLimit ≤ tj ∨ getD s Reg.pwrCtrl_aclkMax < k)
        let up := k < getD s Reg.pwrCtrl_aclkMax ∧ watts + 20 ≤ getD s Reg.pwrCtrl_cap ∧ tj + 3 ≤ getD s Reg.pwrCtrl_tjLimit
        ∃ u, exec (.governorWindow watts tj) s = .next u ∧ getD u Reg.pwrStatus_power = min 1023 watts ∧
          getD u Reg.temp_tj = min 255 tj ∧ u.power.tj = tj ∧
          (k = 0 → getD s Reg.pwrCtrl_cap < watts → getD u Reg.pwrStatus_capMiss = 1) ∧
          (down → u.power.k = k - 1 ∧ u.power.avs = some (k, k - 1) ∧
            getD u Reg.pwrStatus_k = min (getD s Reg.pwrStatus_k) (k - 1)) ∧
          (¬ down → up → u.power.k = k + 1 ∧ u.power.avs = some (k, k + 1) ∧
            getD u Reg.pwrStatus_k = min (getD s Reg.pwrStatus_k) (k + 1)) ∧
          (¬ down → ¬ up → u.power.k = k ∧ u.power.avs = s.power.avs ∧ getD u Reg.pwrStatus_k = getD s Reg.pwrStatus_k) ∧
          u = { s with power := u.power, regs := u.regs })) ∧
    (∀ s : State, (s.power.avs = none → exec .avsComplete s = .next s) ∧
      (s.canonical = true → s.power.avs.isSome = true →
        ∃ u, exec .avsComplete s = .next u ∧ u.power = { s.power with avs := none } ∧
          getD u Reg.pwrStatus_k = s.power.k % 64 ∧ u = { s with power := u.power, regs := u.regs })) ∧
    (∀ (s : State) (uv : List Nat), s.canonical = true →
      let low := railsThat uv (fun r v => decide (v < railWarn s r))
      let dead := railsThat uv (fun r v => decide (v < railReset s r))
      (s.boot.stage = 0 ∨ low = [] ∨ dead ≠ [] → exec (.brakeBegin uv) s = .next s) ∧
      (s.boot.stage ≠ 0 → low ≠ [] → dead = [] → ∃ u, exec (.brakeBegin uv) s = .next u ∧ getD u Reg.brake_active = 1 ∧
        (getD s Reg.brake_active = 0 → getD u Reg.brake_rails = railMask low ∧
          getD u Reg.brake_count = min 65535 (getD s Reg.brake_count + 1) ∧
          get2 u devBase Reg.brakeTime_nsLo Reg.brakeTime_nsHi 0 = s.time.tai % 2 ^ 64 ∧
          u.power.k = s.power.k - getD s Reg.pwrCtrl_brakeSteps) ∧
        (getD s Reg.brake_active = 1 → getD u Reg.brake_rails = (getD s Reg.brake_rails ||| railMask low) % 256 ∧
          u = { s with regs := u.regs })) ∧
      (getD s Reg.brake_active = 1 → railsRecovered s uv = true →
        ∃ u, exec (.brakeEnd uv) s = .next u ∧ getD u Reg.brake_active = 0 ∧ u = { s with regs := u.regs }) ∧
      (getD s Reg.brake_active = 0 ∨ railsRecovered s uv = false → exec (.brakeEnd uv) s = .next s) ∧
      (dead = [] → exec (.railReset uv) s = .next s) ∧
      (∀ r rest, dead = r :: rest → ∃ u, exec (.railReset uv) s = .next u ∧ u.boot.stage = 0 ∧ u.boot.railLow = true ∧
        u.boot.draft = [] ∧ u.ops = [] ∧ u.mem = State.reset.mem ∧ u.flash = s.flash ∧ getD u Reg.resetCause_cause = 3 ∧
        getD u Reg.resetCause_rail = r ∧ u.keys = (if 2 ∈ dead then [] else s.keys)) ∧
      (s.boot.railLow = true → s.boot.perst = false → s.boot.trip = false →
        railsThat uv (fun r v => !railInBand s r v) = [] →
        ∃ u, exec (.railsInBand uv) s = .next u ∧ u.boot.stage = 1 ∧ u.boot.railLow = false ∧ u.boot.halted = false) ∧
      (s.boot.railLow = false ∨ railsThat uv (fun r v => !railInBand s r v) ≠ [] → exec (.railsInBand uv) s = .next s)) ∧
    (∀ (s : State) (tj hbm : Nat), s.canonical = true →
      ∃ u, exec (.temperatureCrossing tj hbm) s = .next u ∧ u.power.tj = tj ∧ u.power.hbm = hbm ∧
        u.power.refresh = hysteresis 85 82 hbm s.power.refresh ∧
        (s.boot.stage ≠ 0 → (125 ≤ tj ∨ 105 ≤ hbm) → u.boot.stage = 0 ∧ u.boot.trip = true ∧ u.ops = [] ∧
          getD u Reg.resetCause_cause = 4) ∧
        (s.boot.stage ≠ 0 → tj < 125 → hbm < 105 → u.power.alert = alertNext tj hbm s.power.alert ∧
          thermalHold u = hysteresis 110 105 tj (thermalHold s) ∧ getD u Reg.temp_tj = tj ∧ getD u Reg.temp_hbm = hbm ∧
          u = { s with power := u.power, regs := u.regs })) ∧
    (∀ (s : State) (data : List Byte), exec (.i3cPrivateWrite data) s = .next s ∧
      (s.boot.portsOff = true → exec .i3cPrivateRead s = .next s) ∧
      (s.boot.portsOff = false → ∃ u, exec .i3cPrivateRead s = .next u ∧ u.readOut.data.length = 16 ∧
        leNat (u.readOut.data.take 4) = wordOf s (devBase + 0x20) % 2 ^ 32 ∧
        leNat ((u.readOut.data.drop 4).take 4) = wordOf s (devBase + 0x104) % 2 ^ 32 ∧
        leNat ((u.readOut.data.drop 8).take 4) = wordOf s (devBase + 0x108) % 2 ^ 32 ∧
        leNat ((u.readOut.data.drop 12).take 4) = wordOf s (devBase + 0x10C) % 2 ^ 32 ∧ u = { s with readOut := u.readOut })) ∧
    (∀ (s : State) (pins preload : Nat), s.boot.portsOff = true →
      ∀ c ∈ [Instr.bypass, .idcode, .samplePreload pins preload, .extest pins, .clamp, .highz], exec c s = .next s) ∧
    (∀ (s : State) (pins preload k : Nat), s.boot.portsOff = false → k < 17 →
      let after := fun (c : Instr) (j : JtagInstr) (p : PinDrive) (captured : Nat) =>
        ∃ u, exec c s = .next u ∧ u.jtag.instr = j ∧ pinDrive u k = p ∧ u.jtag.captured = captured ∧ u = { s with jtag := u.jtag }
      let own := if s.boot.stage = 0 then PinDrive.highZ else .function
      let held := PinDrive.level (bit s.jtag.boundary k)
      after .bypass .bypass own 0 ∧ after .idcode .idcode own 0x1A7CE0FF ∧
        after (.samplePreload pins preload) .samplePreload own (pins % 2 ^ 17) ∧
        after (.extest pins) .extest held (pins % 2 ^ 17) ∧ after .clamp .clamp held 0 ∧ after .highz .highz .highZ 0 ∧
        (∀ u, exec (.samplePreload pins preload) s = .next u → u.jtag.boundary = preload % 2 ^ 17))
end

