-- ==== Sys2Proof/Laws/Memory.lean ====
section
/-!
SUPPORT. Laws of sparse lists and byte memories: a read after a write, and the canonical form that every write keeps.
-/

namespace Sys2Proof.Machine

section Sparse
variable {α : Type} [DecidableEq α]

/-- A list in canonical form from `hi` on is so from any lower bound on. -/
theorem sparseWfFrom_mono {dflt : Nat → α} {lo hi : Nat} (h : lo ≤ hi) {m : List (Nat × α)}
    (hm : sparseWfFrom dflt hi m = true) : sparseWfFrom dflt lo m = true := by
  cases m with
  | nil => rfl
  | cons p r =>
    obtain ⟨j, v⟩ := p
    simp only [sparseWfFrom, Bool.and_eq_true, decide_eq_true_eq] at hm ⊢
    exact ⟨⟨Nat.le_trans h hm.1.1, hm.1.2⟩, hm.2⟩

/-- A write at or above the lower bound keeps the canonical form from that bound on. -/
theorem sparseSet_wfFrom (dflt : Nat → α) (k : Nat) (v : α) (m : List (Nat × α)) (lo : Nat) (hk : lo ≤ k)
    (hm : sparseWfFrom dflt lo m = true) : sparseWfFrom dflt lo (sparseSet (dflt k) k v m) = true := by
  induction m generalizing lo with
  | nil =>
    unfold sparseSet
    split
    · rfl
    · next h => simp [sparseWfFrom, hk, h]
  | cons p r ih =>
    obtain ⟨j, w⟩ := p
    simp only [sparseWfFrom, Bool.and_eq_true, decide_eq_true_eq] at hm
    obtain ⟨⟨h1, h2⟩, h3⟩ := hm
    unfold sparseSet
    split
    · next e =>
      subst e
      split
      · exact sparseWfFrom_mono (Nat.le_succ_of_le h1) h3
      · next hv => simp [sparseWfFrom, hk, hv, h3]
    · next ne =>
      split
      · next lt =>
        split
        · simp [sparseWfFrom, h1, h2, h3]
        · next hv =>
          simp only [sparseWfFrom, Bool.and_eq_true, decide_eq_true_eq]
          exact ⟨⟨hk, hv⟩, ⟨lt, h2⟩, h3⟩
      · next nlt =>
        simp only [sparseWfFrom, Bool.and_eq_true, decide_eq_true_eq]
        exact ⟨⟨h1, h2⟩, ih (j + 1) (by omega) h3⟩

/-- Writing one key keeps the canonical form. -/
theorem sparseSet_wf (dflt : Nat → α) (k : Nat) (v : α) (m : List (Nat × α)) (hm : sparseWf dflt m = true) :
    sparseWf dflt (sparseSet (dflt k) k v m) = true := sparseSet_wfFrom dflt k v m 0 (Nat.zero_le k) hm

/-- In a canonical list, no key lies below its lower bound. -/
theorem sparseGet_below {dflt : Nat → α} {lo k : Nat} (d : α) (h : k < lo) {m : List (Nat × α)}
    (hm : sparseWfFrom dflt lo m = true) : sparseGet d k m = d := by
  cases m with
  | nil => rfl
  | cons p r =>
    obtain ⟨j, v⟩ := p
    simp only [sparseWfFrom, Bool.and_eq_true, decide_eq_true_eq] at hm
    have h1 : j ≠ k := by omega
    have h2 : k < j := by omega
    simp [sparseGet, h1, h2]

/-- A read after a write at the same key gives the value written. -/
theorem sparseGet_set_same (dflt : Nat → α) (k : Nat) (v : α) (m : List (Nat × α)) (lo : Nat)
    (hm : sparseWfFrom dflt lo m = true) : sparseGet (dflt k) k (sparseSet (dflt k) k v m) = v := by
  induction m generalizing lo with
  | nil =>
    unfold sparseSet
    split
    · next h => simp [sparseGet, h]
    · simp [sparseGet]
  | cons p r ih =>
    obtain ⟨j, w⟩ := p
    simp only [sparseWfFrom, Bool.and_eq_true, decide_eq_true_eq] at hm
    unfold sparseSet
    split
    · next e =>
      subst e
      split
      · next h => rw [sparseGet_below (dflt j) (Nat.lt_succ_self j) hm.2, h]
      · simp [sparseGet]
    · next ne =>
      split
      · next lt =>
        split
        · next h => simp [sparseGet, ne, lt, h]
        · simp [sparseGet]
      · next nlt => simpa [sparseGet, ne, nlt] using ih (j + 1) hm.2

/-- A write leaves every other key as it reads. -/
theorem sparseGet_set_other (dflt : Nat → α) {k a : Nat} (h : a ≠ k) (d v : α) (m : List (Nat × α)) (lo : Nat)
    (hm : sparseWfFrom dflt lo m = true) : sparseGet d a (sparseSet (dflt k) k v m) = sparseGet d a m := by
  induction m generalizing lo with
  | nil =>
    unfold sparseSet
    split
    · rfl
    · simp [sparseGet, Ne.symm h]
  | cons p r ih =>
    obtain ⟨j, w⟩ := p
    simp only [sparseWfFrom, Bool.and_eq_true, decide_eq_true_eq] at hm
    unfold sparseSet
    split
    · next e =>
      subst e
      split
      · by_cases lt : a < j
        · simp [sparseGet, Ne.symm h, lt, sparseGet_below d (Nat.lt_succ_of_lt lt) hm.2]
        · simp [sparseGet, Ne.symm h, lt]
      · simp [sparseGet, Ne.symm h]
    · next ne =>
      split
      · next lt =>
        split
        · rfl
        · by_cases la : a < k
          · have h1 : j ≠ a := by omega
            have h2 : a < j := by omega
            simp [sparseGet, Ne.symm h, la, h1, h2]
          · simp [sparseGet, Ne.symm h, la]
      · next nlt =>
        have := ih (j + 1) hm.2
        simp [sparseGet, this]

/-- Changing the values of a list and dropping those that have become the default keeps the canonical form. -/
theorem sparseWf_mapFilter (d : α) (g : Nat × α → α) (m : List (Nat × α)) (h : sparseWf (fun _ => d) m = true) :
    sparseWf (fun _ => d) ((m.map (fun p => (p.1, g p))).filter (fun p => p.2 != d)) = true := by
  have H : ∀ lo, sparseWfFrom (fun _ => d) lo m = true →
      sparseWfFrom (fun _ => d) lo ((m.map (fun p => (p.1, g p))).filter (fun p => p.2 != d)) = true := by
    clear h
    induction m with
    | nil => exact fun _ _ => rfl
    | cons p r ih =>
      intro lo hm
      obtain ⟨j, w⟩ := p
      simp only [sparseWfFrom, Bool.and_eq_true, decide_eq_true_eq] at hm
      have h3 := ih (j + 1) hm.2
      by_cases e : g (j, w) = d
      · simpa [e] using sparseWfFrom_mono (Nat.le_succ_of_le hm.1.1) h3
      · simpa [e, sparseWfFrom, hm.1.1] using h3
  exact H 0 h

/-- Dropping entries keeps the canonical form. -/
theorem sparseWf_filter (dflt : Nat → α) (q : Nat × α → Bool) (m : List (Nat × α)) (h : sparseWf dflt m = true) :
    sparseWf dflt (m.filter q) = true := by
  have H : ∀ lo, sparseWfFrom dflt lo m = true → sparseWfFrom dflt lo (m.filter q) = true := by
    clear h
    induction m with
    | nil => exact fun _ _ => rfl
    | cons p r ih =>
      intro lo hm
      obtain ⟨j, w⟩ := p
      simp only [sparseWfFrom, Bool.and_eq_true, decide_eq_true_eq] at hm
      have h3 := ih (j + 1) hm.2
      by_cases e : q (j, w) = true
      · simpa [e, sparseWfFrom, hm.1.1, hm.1.2] using h3
      · simpa [e] using sparseWfFrom_mono (Nat.le_succ_of_le hm.1.1) h3
  exact H 0 h

end Sparse

/-! ### Byte memories -/

/-- A byte written keeps the canonical form. -/
theorem memWrite_wf (m : List Host.Cell) (a : Nat) (b : Byte) (h : memWf m = true) : memWf (memWrite m a b) = true :=
  sparseSet_wf (fun _ => memDefault) a b m h

/-- Bytes written at consecutive addresses keep the canonical form. -/
theorem memWriteBytes_wf (bs : List Byte) (m : List Host.Cell) (a : Nat) (h : memWf m = true) :
    memWf (memWriteBytes m a bs) = true := by
  induction bs generalizing m a with
  | nil => exact h
  | cons b r ih => exact ih _ _ (memWrite_wf m a b h)

/-- A list of writes keeps the canonical form. -/
theorem memWriteAll_wf (ws : List Host.Cell) (m : List Host.Cell) (h : memWf m = true) :
    memWf (memWriteAll m ws) = true := by
  induction ws generalizing m with
  | nil => exact h
  | cons w r ih => exact ih _ (memWrite_wf m w.1 w.2 h)

/-- Reading the byte just written gives it. -/
theorem memRead_write_same (m : List Host.Cell) (a : Nat) (b : Byte) (h : memWf m = true) :
    memRead (memWrite m a b) a = b := sparseGet_set_same (fun _ => memDefault) a b m 0 h

/-- A byte written leaves every other address as it reads. -/
theorem memRead_write_other (m : List Host.Cell) {a c : Nat} (b : Byte) (hc : c ≠ a) (h : memWf m = true) :
    memRead (memWrite m a b) c = memRead m c := sparseGet_set_other (fun _ => memDefault) hc memDefault b m 0 h

/-- A list of writes leaves every address that it does not name as it reads. -/
theorem memRead_writeAll_other (ws : List Host.Cell) (m : List Host.Cell) (c : Nat) (hc : ∀ w ∈ ws, w.1 ≠ c)
    (h : memWf m = true) : memRead (memWriteAll m ws) c = memRead m c := by
  induction ws generalizing m with
  | nil => rfl
  | cons w r ih =>
    have hw : c ≠ w.1 := fun e => hc w (by simp) e.symm
    rw [memWriteAll, ih _ (fun x hx => hc x (by simp [hx])) (memWrite_wf m w.1 w.2 h), memRead_write_other m w.2 hw h]

end Sys2Proof.Machine
end

