-- ==== Sys2Proof/Laws/Kept.lean ====
section
/-!
SUPPORT. What every operation of the model keeps: the queue, the chip's place, the order of the free values and the canonical
form of every sparse part. First the means, then the operations of Regs, Ops, Tables, Hbm, Scaler, Matrix, Sawmill,
Vector, Params, Update.
-/

namespace Sys2Proof.Machine

/-- The canonical form of a state, part by part. -/
theorem State.canonical_iff (s : State) : s.canonical = true ↔
    (regsWf s.regs = true ∧ regsWf s.regs1 = true ∧ regsWf s.regs2 = true ∧ memWf s.mem = true ∧ memWf s.hostMem =
    true ∧
      memWf s.flash = true ∧ memWf s.msixTable = true ∧ sparseWf (fun _ => 0) s.sems = true ∧
      sparseWf (fun _ => cellIdle) s.cells = true ∧ sparseWf (fun _ => fmtCountsZero) s.sclFmt = true ∧
      sparseWf (fun _ => 0) s.sawRest = true ∧ sparseWf (fun _ => barrierIdle) s.barriers = true ∧
      sparseWf (fun _ => linkIdle) s.links = true ∧ sparseWf (fun _ => farIdle) s.far = true ∧
      sparseWf (fun _ => panIdle) s.pan = true ∧ sparseWf (fun _ => 0) s.kerfOps = true ∧
      sparseWf (fun _ => 0) s.sclLate = true ∧ sparseWf (fun _ => fmtCountsZero) s.sclFmtLate = true) := by
  simp [State.canonical, and_assoc]

/-- From `z` on, `s` has the same queue and place, has drawn no fewer free values, and is canonical if `z` is. -/
def Kept (z s : State) : Prop :=
  s.pending = z.pending ∧ s.chip = z.chip ∧ s.stand = z.stand ∧ z.free ≤ s.free ∧
    (z.canonical = true → s.canonical = true)

/-- Every state keeps itself. -/
theorem Kept.refl (s : State) : Kept s s := ⟨rfl, rfl, rfl, Nat.le_refl _, fun h => h⟩

/-- A change that keeps the parts of `Kept` one by one keeps it. -/
theorem Kept.of {z s t : State} (h : Kept z s) (hp : t.pending = s.pending) (hc : t.chip = s.chip)
    (hst : t.stand = s.stand)
    (hf : s.free ≤ t.free) (hk : s.canonical = true → t.canonical = true) : Kept z t := by
  obtain ⟨h1, h2, h3, h4, h5⟩ := h
  exact ⟨hp.trans h1, hc.trans h2, hst.trans h3, Nat.le_trans h4 hf, fun c => hk (h5 c)⟩

/-- A field of one copy of the registers written keeps the canonical form. -/
theorem putF_wf (m : List (Nat × Word)) (a : Nat) (f : Fld) (v : Nat) (h : regsWf m = true) : regsWf
    (putF m a f v) = true :=
  sparseSet_wf resetWord a _ m h

/-- What an update of any other field keeps. -/
theorem Kept.upd {z s : State} (h : Kept z s) (heldLow_ : List (Nat × Word)) (posted_ : List Posted) (hbm_ : Hbm)
    (rings_ : Rings) (ops_ : List Op) (opSeq_ : Nat) (sclAside_ : Bool) (decisions_ : List (Nat × Bool))
    (heldWrites_ : List HeldWrite) (time_ : TimeRt) (cross_ : CrossRt) (dumps_ : List (Nat × Nat × List Byte))
    (chain_ : ChainRt) (groups_ : List SumGroup) (resends_ : List Resend) (keys_ : List (Nat × KeySlot))
    (skidQ_ : List SkidReq) (skid_ : List SkidEntry) (replicas_ : List Replica) (early_ : List PieceMsg)
    (rot_ : RotRt) (tally_ : TallyRt) (boot_ : BootRt) (mbox_ : MboxOut) (power_ : PowerRt) (jtag_ : JtagRt)
    (sent_ : Nat × List Byte) (txq_ : List TxMsg) (rx_ : List (Nat × List Byte)) (readOut_ : ReadOut)  :
    Kept z ⟨s.pending, s.regs, s.regs1, s.regs2, heldLow_, posted_, s.mem, s.hostMem, s.flash, s.msixTable, hbm_,
    s.sems, rings_, ops_, opSeq_, s.cells, s.sclFmt, sclAside_, s.sclLate, s.sclFmtLate, s.sawRest, decisions_,
    heldWrites_, s.chip, s.stand, time_, cross_, dumps_, s.barriers, chain_, s.links, s.far, groups_, resends_,
    keys_, skidQ_, skid_, replicas_, early_, rot_, tally_, boot_, mbox_, power_, jtag_, s.kerfOps, s.pan, sent_,
    txq_, rx_, s.free, readOut_⟩ := h
/-- What writes to local memory keep. -/
theorem Kept.mem {z s : State} (h : Kept z s) (heldLow_ : List (Nat × Word)) (posted_ : List Posted) (hbm_ : Hbm)
    (rings_ : Rings) (ops_ : List Op) (opSeq_ : Nat) (sclAside_ : Bool) (decisions_ : List (Nat × Bool))
    (heldWrites_ : List HeldWrite) (time_ : TimeRt) (cross_ : CrossRt) (dumps_ : List (Nat × Nat × List Byte))
    (chain_ : ChainRt) (groups_ : List SumGroup) (resends_ : List Resend) (keys_ : List (Nat × KeySlot))
    (skidQ_ : List SkidReq) (skid_ : List SkidEntry) (replicas_ : List Replica) (early_ : List PieceMsg)
    (rot_ : RotRt) (tally_ : TallyRt) (boot_ : BootRt) (mbox_ : MboxOut) (power_ : PowerRt) (jtag_ : JtagRt)
    (sent_ : Nat × List Byte) (txq_ : List TxMsg) (rx_ : List (Nat × List Byte)) (readOut_ : ReadOut)
    (ws : List Host.Cell) :
    Kept z ⟨s.pending, s.regs, s.regs1, s.regs2, heldLow_, posted_, memWriteAll s.mem ws, s.hostMem, s.flash,
    s.msixTable, hbm_, s.sems, rings_, ops_, opSeq_, s.cells, s.sclFmt, sclAside_, s.sclLate, s.sclFmtLate,
    s.sawRest, decisions_, heldWrites_, s.chip, s.stand, time_, cross_, dumps_, s.barriers, chain_, s.links, s.far,
    groups_, resends_, keys_, skidQ_, skid_, replicas_, early_, rot_, tally_, boot_, mbox_, power_, jtag_, s.kerfOps,
    s.pan, sent_, txq_, rx_, s.free, readOut_⟩ := by
  obtain ⟨h1, h2, h3, h4, h5⟩ := h
  refine ⟨h1, h2, h3, h4, fun c => ?_⟩
  have h6 := h5 c
  rw [State.canonical_iff] at *
  obtain ⟨k1, k2, k3, k4, k5, k6, k7, k8, k9, k10, k11, k12, k13, k14, k15, k16, k17, k18⟩ := h6
  exact ⟨k1, k2, k3, memWriteAll_wf ws _ k4, k5, k6, k7, k8, k9, k10, k11, k12, k13, k14, k15, k16, k17, k18⟩

/-- What writes to the flash keep. -/
theorem Kept.flash {z s : State} (h : Kept z s) (heldLow_ : List (Nat × Word)) (posted_ : List Posted)
    (hbm_ : Hbm) (rings_ : Rings) (ops_ : List Op) (opSeq_ : Nat) (sclAside_ : Bool) (decisions_ : List
    (Nat × Bool)) (heldWrites_ : List HeldWrite) (time_ : TimeRt) (cross_ : CrossRt) (dumps_ : List
    (Nat × Nat × List Byte)) (chain_ : ChainRt) (groups_ : List SumGroup) (resends_ : List Resend) (keys_ : List
    (Nat × KeySlot)) (skidQ_ : List SkidReq) (skid_ : List SkidEntry) (replicas_ : List Replica)
    (early_ : List PieceMsg) (rot_ : RotRt) (tally_ : TallyRt) (boot_ : BootRt) (mbox_ : MboxOut)
    (power_ : PowerRt) (jtag_ : JtagRt) (sent_ : Nat × List Byte) (txq_ : List TxMsg) (rx_ : List
    (Nat × List Byte)) (readOut_ : ReadOut) (ws : List Host.Cell) :
    Kept z ⟨s.pending, s.regs, s.regs1, s.regs2, heldLow_, posted_, s.mem, s.hostMem, memWriteAll s.flash ws,
    s.msixTable, hbm_, s.sems, rings_, ops_, opSeq_, s.cells, s.sclFmt, sclAside_, s.sclLate, s.sclFmtLate,
    s.sawRest, decisions_, heldWrites_, s.chip, s.stand, time_, cross_, dumps_, s.barriers, chain_, s.links, s.far,
    groups_, resends_, keys_, skidQ_, skid_, replicas_, early_, rot_, tally_, boot_, mbox_, power_, jtag_, s.kerfOps,
    s.pan, sent_, txq_, rx_, s.free, readOut_⟩ := by
  obtain ⟨h1, h2, h3, h4, h5⟩ := h
  refine ⟨h1, h2, h3, h4, fun c => ?_⟩
  have h6 := h5 c
  rw [State.canonical_iff] at *
  obtain ⟨k1, k2, k3, k4, k5, k6, k7, k8, k9, k10, k11, k12, k13, k14, k15, k16, k17, k18⟩ := h6
  exact ⟨k1, k2, k3, k4, k5, memWriteAll_wf ws _ k6, k7, k8, k9, k10, k11, k12, k13, k14, k15, k16, k17, k18⟩

/-- What writes to the MSI-X table keep. -/
theorem Kept.msixTable {z s : State} (h : Kept z s) (heldLow_ : List (Nat × Word)) (posted_ : List Posted)
    (hbm_ : Hbm) (rings_ : Rings) (ops_ : List Op) (opSeq_ : Nat) (sclAside_ : Bool) (decisions_ : List
    (Nat × Bool)) (heldWrites_ : List HeldWrite) (time_ : TimeRt) (cross_ : CrossRt) (dumps_ : List
    (Nat × Nat × List Byte)) (chain_ : ChainRt) (groups_ : List SumGroup) (resends_ : List Resend) (keys_ : List
    (Nat × KeySlot)) (skidQ_ : List SkidReq) (skid_ : List SkidEntry) (replicas_ : List Replica)
    (early_ : List PieceMsg) (rot_ : RotRt) (tally_ : TallyRt) (boot_ : BootRt) (mbox_ : MboxOut)
    (power_ : PowerRt) (jtag_ : JtagRt) (sent_ : Nat × List Byte) (txq_ : List TxMsg) (rx_ : List
    (Nat × List Byte)) (readOut_ : ReadOut) (ws : List Host.Cell) :
    Kept z ⟨s.pending, s.regs, s.regs1, s.regs2, heldLow_, posted_, s.mem, s.hostMem, s.flash, memWriteAll
    s.msixTable ws, hbm_, s.sems, rings_, ops_, opSeq_, s.cells, s.sclFmt, sclAside_, s.sclLate, s.sclFmtLate,
    s.sawRest, decisions_, heldWrites_, s.chip, s.stand, time_, cross_, dumps_, s.barriers, chain_, s.links, s.far,
    groups_, resends_, keys_, skidQ_, skid_, replicas_, early_, rot_, tally_, boot_, mbox_, power_, jtag_, s.kerfOps,
    s.pan, sent_, txq_, rx_, s.free, readOut_⟩ := by
  obtain ⟨h1, h2, h3, h4, h5⟩ := h
  refine ⟨h1, h2, h3, h4, fun c => ?_⟩
  have h6 := h5 c
  rw [State.canonical_iff] at *
  obtain ⟨k1, k2, k3, k4, k5, k6, k7, k8, k9, k10, k11, k12, k13, k14, k15, k16, k17, k18⟩ := h6
  exact ⟨k1, k2, k3, k4, k5, k6, memWriteAll_wf ws _ k7, k8, k9, k10, k11, k12, k13, k14, k15, k16, k17, k18⟩

/-- What writing a voted field keeps. -/
theorem Kept.regs {z s : State} (h : Kept z s) (heldLow_ : List (Nat × Word)) (posted_ : List Posted)
    (hbm_ : Hbm) (rings_ : Rings) (ops_ : List Op) (opSeq_ : Nat) (sclAside_ : Bool) (decisions_ : List
    (Nat × Bool)) (heldWrites_ : List HeldWrite) (time_ : TimeRt) (cross_ : CrossRt) (dumps_ : List
    (Nat × Nat × List Byte)) (chain_ : ChainRt) (groups_ : List SumGroup) (resends_ : List Resend) (keys_ : List
    (Nat × KeySlot)) (skidQ_ : List SkidReq) (skid_ : List SkidEntry) (replicas_ : List Replica)
    (early_ : List PieceMsg) (rot_ : RotRt) (tally_ : TallyRt) (boot_ : BootRt) (mbox_ : MboxOut)
    (power_ : PowerRt) (jtag_ : JtagRt) (sent_ : Nat × List Byte) (txq_ : List TxMsg) (rx_ : List
    (Nat × List Byte)) (readOut_ : ReadOut) (a : Nat) (f : Fld) (v : Nat) :
    Kept z ⟨s.pending, putF s.regs a f v, putF s.regs1 a f v, putF s.regs2 a f v, heldLow_, posted_, s.mem,
    s.hostMem, s.flash, s.msixTable, hbm_, s.sems, rings_, ops_, opSeq_, s.cells, s.sclFmt, sclAside_, s.sclLate,
    s.sclFmtLate, s.sawRest, decisions_, heldWrites_, s.chip, s.stand, time_, cross_, dumps_, s.barriers, chain_,
    s.links, s.far, groups_, resends_, keys_, skidQ_, skid_, replicas_, early_, rot_, tally_, boot_, mbox_, power_,
    jtag_, s.kerfOps, s.pan, sent_, txq_, rx_, s.free, readOut_⟩ := by
  obtain ⟨h1, h2, h3, h4, h5⟩ := h
  refine ⟨h1, h2, h3, h4, fun c => ?_⟩
  have h6 := h5 c
  rw [State.canonical_iff] at *
  obtain ⟨k1, k2, k3, k4, k5, k6, k7, k8, k9, k10, k11, k12, k13, k14, k15, k16, k17, k18⟩ := h6
  exact ⟨putF_wf _ _ _ _ k1, putF_wf _ _ _ _ k2, putF_wf _ _ _ _ k3, k4, k5, k6, k7, k8, k9, k10, k11, k12, k13, k14,
    k15, k16, k17, k18⟩

/-- What writing a semaphore keeps. -/
theorem Kept.sems {z s : State} (h : Kept z s) (heldLow_ : List (Nat × Word)) (posted_ : List Posted)
    (hbm_ : Hbm) (rings_ : Rings) (ops_ : List Op) (opSeq_ : Nat) (sclAside_ : Bool) (decisions_ : List
    (Nat × Bool)) (heldWrites_ : List HeldWrite) (time_ : TimeRt) (cross_ : CrossRt) (dumps_ : List
    (Nat × Nat × List Byte)) (chain_ : ChainRt) (groups_ : List SumGroup) (resends_ : List Resend) (keys_ : List
    (Nat × KeySlot)) (skidQ_ : List SkidReq) (skid_ : List SkidEntry) (replicas_ : List Replica)
    (early_ : List PieceMsg) (rot_ : RotRt) (tally_ : TallyRt) (boot_ : BootRt) (mbox_ : MboxOut)
    (power_ : PowerRt) (jtag_ : JtagRt) (sent_ : Nat × List Byte) (txq_ : List TxMsg) (rx_ : List
    (Nat × List Byte)) (readOut_ : ReadOut) (n : Nat) (v : Nat) :
    Kept z ⟨s.pending, s.regs, s.regs1, s.regs2, heldLow_, posted_, s.mem, s.hostMem, s.flash, s.msixTable, hbm_,
    sparseSet 0 n v s.sems, rings_, ops_, opSeq_, s.cells, s.sclFmt, sclAside_, s.sclLate, s.sclFmtLate, s.sawRest,
    decisions_, heldWrites_, s.chip, s.stand, time_, cross_, dumps_, s.barriers, chain_, s.links, s.far, groups_,
    resends_, keys_, skidQ_, skid_, replicas_, early_, rot_, tally_, boot_, mbox_, power_, jtag_, s.kerfOps, s.pan,
    sent_, txq_, rx_, s.free, readOut_⟩ := by
  obtain ⟨h1, h2, h3, h4, h5⟩ := h
  refine ⟨h1, h2, h3, h4, fun c => ?_⟩
  have h6 := h5 c
  rw [State.canonical_iff] at *
  obtain ⟨k1, k2, k3, k4, k5, k6, k7, k8, k9, k10, k11, k12, k13, k14, k15, k16, k17, k18⟩ := h6
  exact ⟨k1, k2, k3, k4, k5, k6, k7, sparseSet_wf
    (fun _ => 0) n v _ k8, k9, k10, k11, k12, k13, k14, k15, k16, k17, k18⟩

/-- What writing a Cell keeps. -/
theorem Kept.cells {z s : State} (h : Kept z s) (heldLow_ : List (Nat × Word)) (posted_ : List Posted)
    (hbm_ : Hbm) (rings_ : Rings) (ops_ : List Op) (opSeq_ : Nat) (sclAside_ : Bool) (decisions_ : List
    (Nat × Bool)) (heldWrites_ : List HeldWrite) (time_ : TimeRt) (cross_ : CrossRt) (dumps_ : List
    (Nat × Nat × List Byte)) (chain_ : ChainRt) (groups_ : List SumGroup) (resends_ : List Resend) (keys_ : List
    (Nat × KeySlot)) (skidQ_ : List SkidReq) (skid_ : List SkidEntry) (replicas_ : List Replica)
    (early_ : List PieceMsg) (rot_ : RotRt) (tally_ : TallyRt) (boot_ : BootRt) (mbox_ : MboxOut)
    (power_ : PowerRt) (jtag_ : JtagRt) (sent_ : Nat × List Byte) (txq_ : List TxMsg) (rx_ : List
    (Nat × List Byte)) (readOut_ : ReadOut) (n : Nat) (v : CellRt) :
    Kept z ⟨s.pending, s.regs, s.regs1, s.regs2, heldLow_, posted_, s.mem, s.hostMem, s.flash, s.msixTable, hbm_,
    s.sems, rings_, ops_, opSeq_, sparseSet cellIdle n v s.cells, s.sclFmt, sclAside_, s.sclLate, s.sclFmtLate,
    s.sawRest, decisions_, heldWrites_, s.chip, s.stand, time_, cross_, dumps_, s.barriers, chain_, s.links, s.far,
    groups_, resends_, keys_, skidQ_, skid_, replicas_, early_, rot_, tally_, boot_, mbox_, power_, jtag_, s.kerfOps,
    s.pan, sent_, txq_, rx_, s.free, readOut_⟩ := by
  obtain ⟨h1, h2, h3, h4, h5⟩ := h
  refine ⟨h1, h2, h3, h4, fun c => ?_⟩
  have h6 := h5 c
  rw [State.canonical_iff] at *
  obtain ⟨k1, k2, k3, k4, k5, k6, k7, k8, k9, k10, k11, k12, k13, k14, k15, k16, k17, k18⟩ := h6
  exact ⟨k1, k2, k3, k4, k5, k6, k7, k8, sparseSet_wf
    (fun _ => cellIdle) n v _ k9, k10, k11, k12, k13, k14, k15, k16, k17, k18⟩

/-- What writing a format's counts keeps. -/
theorem Kept.sclFmt {z s : State} (h : Kept z s) (heldLow_ : List (Nat × Word)) (posted_ : List Posted)
    (hbm_ : Hbm) (rings_ : Rings) (ops_ : List Op) (opSeq_ : Nat) (sclAside_ : Bool) (decisions_ : List
    (Nat × Bool)) (heldWrites_ : List HeldWrite) (time_ : TimeRt) (cross_ : CrossRt) (dumps_ : List
    (Nat × Nat × List Byte)) (chain_ : ChainRt) (groups_ : List SumGroup) (resends_ : List Resend) (keys_ : List
    (Nat × KeySlot)) (skidQ_ : List SkidReq) (skid_ : List SkidEntry) (replicas_ : List Replica)
    (early_ : List PieceMsg) (rot_ : RotRt) (tally_ : TallyRt) (boot_ : BootRt) (mbox_ : MboxOut)
    (power_ : PowerRt) (jtag_ : JtagRt) (sent_ : Nat × List Byte) (txq_ : List TxMsg) (rx_ : List
    (Nat × List Byte)) (readOut_ : ReadOut) (n : Nat) (v : FmtCounts) :
    Kept z ⟨s.pending, s.regs, s.regs1, s.regs2, heldLow_, posted_, s.mem, s.hostMem, s.flash, s.msixTable, hbm_,
    s.sems, rings_, ops_, opSeq_, s.cells, sparseSet fmtCountsZero n v s.sclFmt, sclAside_, s.sclLate, s.sclFmtLate,
    s.sawRest, decisions_, heldWrites_, s.chip, s.stand, time_, cross_, dumps_, s.barriers, chain_, s.links, s.far,
    groups_, resends_, keys_, skidQ_, skid_, replicas_, early_, rot_, tally_, boot_, mbox_, power_, jtag_, s.kerfOps,
    s.pan, sent_, txq_, rx_, s.free, readOut_⟩ := by
  obtain ⟨h1, h2, h3, h4, h5⟩ := h
  refine ⟨h1, h2, h3, h4, fun c => ?_⟩
  have h6 := h5 c
  rw [State.canonical_iff] at *
  obtain ⟨k1, k2, k3, k4, k5, k6, k7, k8, k9, k10, k11, k12, k13, k14, k15, k16, k17, k18⟩ := h6
  exact ⟨k1, k2, k3, k4, k5, k6, k7, k8, k9, sparseSet_wf
    (fun _ => fmtCountsZero) n v _ k10, k11, k12, k13, k14, k15, k16, k17, k18⟩

/-- What writing a Mill's rest keeps. -/
theorem Kept.sawRest {z s : State} (h : Kept z s) (heldLow_ : List (Nat × Word)) (posted_ : List Posted)
    (hbm_ : Hbm) (rings_ : Rings) (ops_ : List Op) (opSeq_ : Nat) (sclAside_ : Bool) (decisions_ : List
    (Nat × Bool)) (heldWrites_ : List HeldWrite) (time_ : TimeRt) (cross_ : CrossRt) (dumps_ : List
    (Nat × Nat × List Byte)) (chain_ : ChainRt) (groups_ : List SumGroup) (resends_ : List Resend) (keys_ : List
    (Nat × KeySlot)) (skidQ_ : List SkidReq) (skid_ : List SkidEntry) (replicas_ : List Replica)
    (early_ : List PieceMsg) (rot_ : RotRt) (tally_ : TallyRt) (boot_ : BootRt) (mbox_ : MboxOut)
    (power_ : PowerRt) (jtag_ : JtagRt) (sent_ : Nat × List Byte) (txq_ : List TxMsg) (rx_ : List
    (Nat × List Byte)) (readOut_ : ReadOut) (n : Nat) (v : Nat) :
    Kept z ⟨s.pending, s.regs, s.regs1, s.regs2, heldLow_, posted_, s.mem, s.hostMem, s.flash, s.msixTable, hbm_,
    s.sems, rings_, ops_, opSeq_, s.cells, s.sclFmt, sclAside_, s.sclLate, s.sclFmtLate, sparseSet 0 n v s.sawRest,
    decisions_, heldWrites_, s.chip, s.stand, time_, cross_, dumps_, s.barriers, chain_, s.links, s.far, groups_,
    resends_, keys_, skidQ_, skid_, replicas_, early_, rot_, tally_, boot_, mbox_, power_, jtag_, s.kerfOps, s.pan,
    sent_, txq_, rx_, s.free, readOut_⟩ := by
  obtain ⟨h1, h2, h3, h4, h5⟩ := h
  refine ⟨h1, h2, h3, h4, fun c => ?_⟩
  have h6 := h5 c
  rw [State.canonical_iff] at *
  obtain ⟨k1, k2, k3, k4, k5, k6, k7, k8, k9, k10, k11, k12, k13, k14, k15, k16, k17, k18⟩ := h6
  exact ⟨k1, k2, k3, k4, k5, k6, k7, k8, k9, k10, sparseSet_wf
    (fun _ => 0) n v _ k11, k12, k13, k14, k15, k16, k17, k18⟩

/-- What writing a barrier unit keeps. -/
theorem Kept.barriers {z s : State} (h : Kept z s) (heldLow_ : List (Nat × Word)) (posted_ : List Posted)
    (hbm_ : Hbm) (rings_ : Rings) (ops_ : List Op) (opSeq_ : Nat) (sclAside_ : Bool) (decisions_ : List
    (Nat × Bool)) (heldWrites_ : List HeldWrite) (time_ : TimeRt) (cross_ : CrossRt) (dumps_ : List
    (Nat × Nat × List Byte)) (chain_ : ChainRt) (groups_ : List SumGroup) (resends_ : List Resend) (keys_ : List
    (Nat × KeySlot)) (skidQ_ : List SkidReq) (skid_ : List SkidEntry) (replicas_ : List Replica)
    (early_ : List PieceMsg) (rot_ : RotRt) (tally_ : TallyRt) (boot_ : BootRt) (mbox_ : MboxOut)
    (power_ : PowerRt) (jtag_ : JtagRt) (sent_ : Nat × List Byte) (txq_ : List TxMsg) (rx_ : List
    (Nat × List Byte)) (readOut_ : ReadOut) (n : Nat) (v : BarrierRt) :
    Kept z ⟨s.pending, s.regs, s.regs1, s.regs2, heldLow_, posted_, s.mem, s.hostMem, s.flash, s.msixTable, hbm_,
    s.sems, rings_, ops_, opSeq_, s.cells, s.sclFmt, sclAside_, s.sclLate, s.sclFmtLate, s.sawRest, decisions_,
    heldWrites_, s.chip, s.stand, time_, cross_, dumps_, sparseSet barrierIdle n v s.barriers, chain_, s.links,
    s.far, groups_, resends_, keys_, skidQ_, skid_, replicas_, early_, rot_, tally_, boot_, mbox_, power_, jtag_,
    s.kerfOps, s.pan, sent_, txq_, rx_, s.free, readOut_⟩ := by
  obtain ⟨h1, h2, h3, h4, h5⟩ := h
  refine ⟨h1, h2, h3, h4, fun c => ?_⟩
  have h6 := h5 c
  rw [State.canonical_iff] at *
  obtain ⟨k1, k2, k3, k4, k5, k6, k7, k8, k9, k10, k11, k12, k13, k14, k15, k16, k17, k18⟩ := h6
  exact ⟨k1, k2, k3, k4, k5, k6, k7, k8, k9, k10, k11, sparseSet_wf
    (fun _ => barrierIdle) n v _ k12, k13, k14, k15, k16, k17, k18⟩

/-- What writing a link keeps. -/
theorem Kept.links {z s : State} (h : Kept z s) (heldLow_ : List (Nat × Word)) (posted_ : List Posted)
    (hbm_ : Hbm) (rings_ : Rings) (ops_ : List Op) (opSeq_ : Nat) (sclAside_ : Bool) (decisions_ : List
    (Nat × Bool)) (heldWrites_ : List HeldWrite) (time_ : TimeRt) (cross_ : CrossRt) (dumps_ : List
    (Nat × Nat × List Byte)) (chain_ : ChainRt) (groups_ : List SumGroup) (resends_ : List Resend) (keys_ : List
    (Nat × KeySlot)) (skidQ_ : List SkidReq) (skid_ : List SkidEntry) (replicas_ : List Replica)
    (early_ : List PieceMsg) (rot_ : RotRt) (tally_ : TallyRt) (boot_ : BootRt) (mbox_ : MboxOut)
    (power_ : PowerRt) (jtag_ : JtagRt) (sent_ : Nat × List Byte) (txq_ : List TxMsg) (rx_ : List
    (Nat × List Byte)) (readOut_ : ReadOut) (n : Nat) (v : LinkRt) :
    Kept z ⟨s.pending, s.regs, s.regs1, s.regs2, heldLow_, posted_, s.mem, s.hostMem, s.flash, s.msixTable, hbm_,
    s.sems, rings_, ops_, opSeq_, s.cells, s.sclFmt, sclAside_, s.sclLate, s.sclFmtLate, s.sawRest, decisions_,
    heldWrites_, s.chip, s.stand, time_, cross_, dumps_, s.barriers, chain_, sparseSet linkIdle n v s.links, s.far,
    groups_, resends_, keys_, skidQ_, skid_, replicas_, early_, rot_, tally_, boot_, mbox_, power_, jtag_, s.kerfOps,
    s.pan, sent_, txq_, rx_, s.free, readOut_⟩ := by
  obtain ⟨h1, h2, h3, h4, h5⟩ := h
  refine ⟨h1, h2, h3, h4, fun c => ?_⟩
  have h6 := h5 c
  rw [State.canonical_iff] at *
  obtain ⟨k1, k2, k3, k4, k5, k6, k7, k8, k9, k10, k11, k12, k13, k14, k15, k16, k17, k18⟩ := h6
  exact ⟨k1, k2, k3, k4, k5, k6, k7, k8, k9, k10, k11, k12, sparseSet_wf
    (fun _ => linkIdle) n v _ k13, k14, k15, k16, k17, k18⟩

/-- What writing a Far session keeps. -/
theorem Kept.far {z s : State} (h : Kept z s) (heldLow_ : List (Nat × Word)) (posted_ : List Posted) (hbm_ : Hbm)
    (rings_ : Rings) (ops_ : List Op) (opSeq_ : Nat) (sclAside_ : Bool) (decisions_ : List (Nat × Bool))
    (heldWrites_ : List HeldWrite) (time_ : TimeRt) (cross_ : CrossRt) (dumps_ : List (Nat × Nat × List Byte))
    (chain_ : ChainRt) (groups_ : List SumGroup) (resends_ : List Resend) (keys_ : List (Nat × KeySlot))
    (skidQ_ : List SkidReq) (skid_ : List SkidEntry) (replicas_ : List Replica) (early_ : List PieceMsg)
    (rot_ : RotRt) (tally_ : TallyRt) (boot_ : BootRt) (mbox_ : MboxOut) (power_ : PowerRt) (jtag_ : JtagRt)
    (sent_ : Nat × List Byte) (txq_ : List TxMsg) (rx_ : List (Nat × List Byte)) (readOut_ : ReadOut) (n : Nat)
    (v : FarRt) :
    Kept z ⟨s.pending, s.regs, s.regs1, s.regs2, heldLow_, posted_, s.mem, s.hostMem, s.flash, s.msixTable, hbm_,
    s.sems, rings_, ops_, opSeq_, s.cells, s.sclFmt, sclAside_, s.sclLate, s.sclFmtLate, s.sawRest, decisions_,
    heldWrites_, s.chip, s.stand, time_, cross_, dumps_, s.barriers, chain_, s.links, sparseSet farIdle n v s.far,
    groups_, resends_, keys_, skidQ_, skid_, replicas_, early_, rot_, tally_, boot_, mbox_, power_, jtag_, s.kerfOps,
    s.pan, sent_, txq_, rx_, s.free, readOut_⟩ := by
  obtain ⟨h1, h2, h3, h4, h5⟩ := h
  refine ⟨h1, h2, h3, h4, fun c => ?_⟩
  have h6 := h5 c
  rw [State.canonical_iff] at *
  obtain ⟨k1, k2, k3, k4, k5, k6, k7, k8, k9, k10, k11, k12, k13, k14, k15, k16, k17, k18⟩ := h6
  exact ⟨k1, k2, k3, k4, k5, k6, k7, k8, k9, k10, k11, k12, k13, sparseSet_wf
    (fun _ => farIdle) n v _ k14, k15, k16, k17, k18⟩

/-- What writing a Pannier channel keeps. -/
theorem Kept.pan {z s : State} (h : Kept z s) (heldLow_ : List (Nat × Word)) (posted_ : List Posted) (hbm_ : Hbm)
    (rings_ : Rings) (ops_ : List Op) (opSeq_ : Nat) (sclAside_ : Bool) (decisions_ : List (Nat × Bool))
    (heldWrites_ : List HeldWrite) (time_ : TimeRt) (cross_ : CrossRt) (dumps_ : List (Nat × Nat × List Byte))
    (chain_ : ChainRt) (groups_ : List SumGroup) (resends_ : List Resend) (keys_ : List (Nat × KeySlot))
    (skidQ_ : List SkidReq) (skid_ : List SkidEntry) (replicas_ : List Replica) (early_ : List PieceMsg)
    (rot_ : RotRt) (tally_ : TallyRt) (boot_ : BootRt) (mbox_ : MboxOut) (power_ : PowerRt) (jtag_ : JtagRt)
    (sent_ : Nat × List Byte) (txq_ : List TxMsg) (rx_ : List (Nat × List Byte)) (readOut_ : ReadOut) (n : Nat)
    (v : PanRt) :
    Kept z ⟨s.pending, s.regs, s.regs1, s.regs2, heldLow_, posted_, s.mem, s.hostMem, s.flash, s.msixTable, hbm_,
    s.sems, rings_, ops_, opSeq_, s.cells, s.sclFmt, sclAside_, s.sclLate, s.sclFmtLate, s.sawRest, decisions_,
    heldWrites_, s.chip, s.stand, time_, cross_, dumps_, s.barriers, chain_, s.links, s.far, groups_, resends_,
    keys_, skidQ_, skid_, replicas_, early_, rot_, tally_, boot_, mbox_, power_, jtag_, s.kerfOps, sparseSet panIdle
    n v s.pan, sent_, txq_, rx_, s.free, readOut_⟩ := by
  obtain ⟨h1, h2, h3, h4, h5⟩ := h
  refine ⟨h1, h2, h3, h4, fun c => ?_⟩
  have h6 := h5 c
  rw [State.canonical_iff] at *
  obtain ⟨k1, k2, k3, k4, k5, k6, k7, k8, k9, k10, k11, k12, k13, k14, k15, k16, k17, k18⟩ := h6
  exact ⟨k1, k2, k3, k4, k5, k6, k7, k8, k9, k10, k11, k12, k13, k14, sparseSet_wf
    (fun _ => panIdle) n v _ k15, k16, k17, k18⟩

/-- What writing a Landing's count keeps. -/
theorem Kept.kerfOps {z s : State} (h : Kept z s) (heldLow_ : List (Nat × Word)) (posted_ : List Posted)
    (hbm_ : Hbm) (rings_ : Rings) (ops_ : List Op) (opSeq_ : Nat) (sclAside_ : Bool) (decisions_ : List
    (Nat × Bool)) (heldWrites_ : List HeldWrite) (time_ : TimeRt) (cross_ : CrossRt) (dumps_ : List
    (Nat × Nat × List Byte)) (chain_ : ChainRt) (groups_ : List SumGroup) (resends_ : List Resend) (keys_ : List
    (Nat × KeySlot)) (skidQ_ : List SkidReq) (skid_ : List SkidEntry) (replicas_ : List Replica)
    (early_ : List PieceMsg) (rot_ : RotRt) (tally_ : TallyRt) (boot_ : BootRt) (mbox_ : MboxOut)
    (power_ : PowerRt) (jtag_ : JtagRt) (sent_ : Nat × List Byte) (txq_ : List TxMsg) (rx_ : List
    (Nat × List Byte)) (readOut_ : ReadOut) (n : Nat) (v : Nat) :
    Kept z ⟨s.pending, s.regs, s.regs1, s.regs2, heldLow_, posted_, s.mem, s.hostMem, s.flash, s.msixTable, hbm_,
    s.sems, rings_, ops_, opSeq_, s.cells, s.sclFmt, sclAside_, s.sclLate, s.sclFmtLate, s.sawRest, decisions_,
    heldWrites_, s.chip, s.stand, time_, cross_, dumps_, s.barriers, chain_, s.links, s.far, groups_, resends_,
    keys_, skidQ_, skid_, replicas_, early_, rot_, tally_, boot_, mbox_, power_, jtag_, sparseSet 0 n v s.kerfOps,
    s.pan, sent_, txq_, rx_, s.free, readOut_⟩ := by
  obtain ⟨h1, h2, h3, h4, h5⟩ := h
  refine ⟨h1, h2, h3, h4, fun c => ?_⟩
  have h6 := h5 c
  rw [State.canonical_iff] at *
  obtain ⟨k1, k2, k3, k4, k5, k6, k7, k8, k9, k10, k11, k12, k13, k14, k15, k16, k17, k18⟩ := h6
  exact ⟨k1, k2, k3, k4, k5, k6, k7, k8, k9, k10, k11, k12, k13, k14, k15, sparseSet_wf
    (fun _ => 0) n v _ k16, k17, k18⟩

/-- What writing a count of the next step keeps. -/
theorem Kept.sclLate {z s : State} (h : Kept z s) (heldLow_ : List (Nat × Word)) (posted_ : List Posted)
    (hbm_ : Hbm) (rings_ : Rings) (ops_ : List Op) (opSeq_ : Nat) (sclAside_ : Bool) (decisions_ : List
    (Nat × Bool)) (heldWrites_ : List HeldWrite) (time_ : TimeRt) (cross_ : CrossRt) (dumps_ : List
    (Nat × Nat × List Byte)) (chain_ : ChainRt) (groups_ : List SumGroup) (resends_ : List Resend) (keys_ : List
    (Nat × KeySlot)) (skidQ_ : List SkidReq) (skid_ : List SkidEntry) (replicas_ : List Replica)
    (early_ : List PieceMsg) (rot_ : RotRt) (tally_ : TallyRt) (boot_ : BootRt) (mbox_ : MboxOut)
    (power_ : PowerRt) (jtag_ : JtagRt) (sent_ : Nat × List Byte) (txq_ : List TxMsg) (rx_ : List
    (Nat × List Byte)) (readOut_ : ReadOut) (n : Nat) (v : Nat) :
    Kept z ⟨s.pending, s.regs, s.regs1, s.regs2, heldLow_, posted_, s.mem, s.hostMem, s.flash, s.msixTable, hbm_,
    s.sems, rings_, ops_, opSeq_, s.cells, s.sclFmt, sclAside_, sparseSet 0 n v s.sclLate, s.sclFmtLate, s.sawRest,
    decisions_, heldWrites_, s.chip, s.stand, time_, cross_, dumps_, s.barriers, chain_, s.links, s.far, groups_,
    resends_, keys_, skidQ_, skid_, replicas_, early_, rot_, tally_, boot_, mbox_, power_, jtag_, s.kerfOps, s.pan,
    sent_, txq_, rx_, s.free, readOut_⟩ := by
  obtain ⟨h1, h2, h3, h4, h5⟩ := h
  refine ⟨h1, h2, h3, h4, fun c => ?_⟩
  have h6 := h5 c
  rw [State.canonical_iff] at *
  obtain ⟨k1, k2, k3, k4, k5, k6, k7, k8, k9, k10, k11, k12, k13, k14, k15, k16, k17, k18⟩ := h6
  exact ⟨k1, k2, k3, k4, k5, k6, k7, k8, k9, k10, k11, k12, k13, k14, k15, k16, sparseSet_wf
    (fun _ => 0) n v _ k17, k18⟩

/-- What writing a format's counts of the next step keeps. -/
theorem Kept.sclFmtLate {z s : State} (h : Kept z s) (heldLow_ : List (Nat × Word)) (posted_ : List Posted)
    (hbm_ : Hbm) (rings_ : Rings) (ops_ : List Op) (opSeq_ : Nat) (sclAside_ : Bool) (decisions_ : List
    (Nat × Bool)) (heldWrites_ : List HeldWrite) (time_ : TimeRt) (cross_ : CrossRt) (dumps_ : List
    (Nat × Nat × List Byte)) (chain_ : ChainRt) (groups_ : List SumGroup) (resends_ : List Resend) (keys_ : List
    (Nat × KeySlot)) (skidQ_ : List SkidReq) (skid_ : List SkidEntry) (replicas_ : List Replica)
    (early_ : List PieceMsg) (rot_ : RotRt) (tally_ : TallyRt) (boot_ : BootRt) (mbox_ : MboxOut)
    (power_ : PowerRt) (jtag_ : JtagRt) (sent_ : Nat × List Byte) (txq_ : List TxMsg) (rx_ : List
    (Nat × List Byte)) (readOut_ : ReadOut) (n : Nat) (v : FmtCounts) :
    Kept z ⟨s.pending, s.regs, s.regs1, s.regs2, heldLow_, posted_, s.mem, s.hostMem, s.flash, s.msixTable, hbm_,
    s.sems, rings_, ops_, opSeq_, s.cells, s.sclFmt, sclAside_, s.sclLate, sparseSet fmtCountsZero n v s.sclFmtLate,
    s.sawRest, decisions_, heldWrites_, s.chip, s.stand, time_, cross_, dumps_, s.barriers, chain_, s.links, s.far,
    groups_, resends_, keys_, skidQ_, skid_, replicas_, early_, rot_, tally_, boot_, mbox_, power_, jtag_, s.kerfOps,
    s.pan, sent_, txq_, rx_, s.free, readOut_⟩ := by
  obtain ⟨h1, h2, h3, h4, h5⟩ := h
  refine ⟨h1, h2, h3, h4, fun c => ?_⟩
  have h6 := h5 c
  rw [State.canonical_iff] at *
  obtain ⟨k1, k2, k3, k4, k5, k6, k7, k8, k9, k10, k11, k12, k13, k14, k15, k16, k17, k18⟩ := h6
  exact ⟨k1, k2, k3, k4, k5, k6, k7, k8, k9, k10, k11, k12, k13, k14, k15, k16, k17, sparseSet_wf
    (fun _ => fmtCountsZero) n v _ k18⟩

/-- What clearing the counts by format keeps. -/
theorem Kept.noFmt {z s : State} (h : Kept z s) (heldLow_ : List (Nat × Word)) (posted_ : List Posted)
    (hbm_ : Hbm) (rings_ : Rings) (ops_ : List Op) (opSeq_ : Nat) (sclAside_ : Bool) (decisions_ : List
    (Nat × Bool)) (heldWrites_ : List HeldWrite) (time_ : TimeRt) (cross_ : CrossRt) (dumps_ : List
    (Nat × Nat × List Byte)) (chain_ : ChainRt) (groups_ : List SumGroup) (resends_ : List Resend) (keys_ : List
    (Nat × KeySlot)) (skidQ_ : List SkidReq) (skid_ : List SkidEntry) (replicas_ : List Replica)
    (early_ : List PieceMsg) (rot_ : RotRt) (tally_ : TallyRt) (boot_ : BootRt) (mbox_ : MboxOut)
    (power_ : PowerRt) (jtag_ : JtagRt) (sent_ : Nat × List Byte) (txq_ : List TxMsg) (rx_ : List
    (Nat × List Byte)) (readOut_ : ReadOut)  :
    Kept z ⟨s.pending, s.regs, s.regs1, s.regs2, heldLow_, posted_, s.mem, s.hostMem, s.flash, s.msixTable, hbm_,
    s.sems, rings_, ops_, opSeq_, s.cells, [], sclAside_, s.sclLate, s.sclFmtLate, s.sawRest, decisions_,
    heldWrites_, s.chip, s.stand, time_, cross_, dumps_, s.barriers, chain_, s.links, s.far, groups_, resends_,
    keys_, skidQ_, skid_, replicas_, early_, rot_, tally_, boot_, mbox_, power_, jtag_, s.kerfOps, s.pan, sent_,
    txq_, rx_, s.free, readOut_⟩ := by
  obtain ⟨h1, h2, h3, h4, h5⟩ := h
  refine ⟨h1, h2, h3, h4, fun c => ?_⟩
  have h6 := h5 c
  rw [State.canonical_iff] at *
  obtain ⟨k1, k2, k3, k4, k5, k6, k7, k8, k9, k10, k11, k12, k13, k14, k15, k16, k17, k18⟩ := h6
  exact ⟨k1, k2, k3, k4, k5, k6, k7, k8, k9, rfl, k11, k12, k13, k14, k15, k16, k17, k18⟩

/-- What drawing free values keeps. -/
theorem Kept.drew {z s : State} (h : Kept z s) (heldLow_ : List (Nat × Word)) (posted_ : List Posted)
    (hbm_ : Hbm) (rings_ : Rings) (ops_ : List Op) (opSeq_ : Nat) (sclAside_ : Bool) (decisions_ : List
    (Nat × Bool)) (heldWrites_ : List HeldWrite) (time_ : TimeRt) (cross_ : CrossRt) (dumps_ : List
    (Nat × Nat × List Byte)) (chain_ : ChainRt) (groups_ : List SumGroup) (resends_ : List Resend) (keys_ : List
    (Nat × KeySlot)) (skidQ_ : List SkidReq) (skid_ : List SkidEntry) (replicas_ : List Replica)
    (early_ : List PieceMsg) (rot_ : RotRt) (tally_ : TallyRt) (boot_ : BootRt) (mbox_ : MboxOut)
    (power_ : PowerRt) (jtag_ : JtagRt) (sent_ : Nat × List Byte) (txq_ : List TxMsg) (rx_ : List
    (Nat × List Byte)) (readOut_ : ReadOut) (n : Nat) :
    Kept z ⟨s.pending, s.regs, s.regs1, s.regs2, heldLow_, posted_, s.mem, s.hostMem, s.flash, s.msixTable, hbm_,
    s.sems, rings_, ops_, opSeq_, s.cells, s.sclFmt, sclAside_, s.sclLate, s.sclFmtLate, s.sawRest, decisions_,
    heldWrites_, s.chip, s.stand, time_, cross_, dumps_, s.barriers, chain_, s.links, s.far, groups_, resends_,
    keys_, skidQ_, skid_, replicas_, early_, rot_, tally_, boot_, mbox_, power_, jtag_, s.kerfOps, s.pan, sent_,
    txq_, rx_, s.free + n, readOut_⟩ := by
  obtain ⟨h1, h2, h3, h4, h5⟩ := h
  exact ⟨h1, h2, h3, Nat.le_add_right_of_le h4, h5⟩

/-- What clearing the counts of the next step keeps. -/
theorem Kept.noLate {z s : State} (h : Kept z s) (heldLow_ : List (Nat × Word)) (posted_ : List Posted)
    (hbm_ : Hbm) (rings_ : Rings) (ops_ : List Op) (opSeq_ : Nat) (sclAside_ : Bool) (decisions_ : List
    (Nat × Bool)) (heldWrites_ : List HeldWrite) (time_ : TimeRt) (cross_ : CrossRt) (dumps_ : List
    (Nat × Nat × List Byte)) (chain_ : ChainRt) (groups_ : List SumGroup) (resends_ : List Resend) (keys_ : List
    (Nat × KeySlot)) (skidQ_ : List SkidReq) (skid_ : List SkidEntry) (replicas_ : List Replica)
    (early_ : List PieceMsg) (rot_ : RotRt) (tally_ : TallyRt) (boot_ : BootRt) (mbox_ : MboxOut)
    (power_ : PowerRt) (jtag_ : JtagRt) (sent_ : Nat × List Byte) (txq_ : List TxMsg) (rx_ : List
    (Nat × List Byte)) (readOut_ : ReadOut)  :
    Kept z ⟨s.pending, s.regs, s.regs1, s.regs2, heldLow_, posted_, s.mem, s.hostMem, s.flash, s.msixTable, hbm_,
    s.sems, rings_, ops_, opSeq_, s.cells, s.sclFmt, sclAside_, [], [], s.sawRest, decisions_, heldWrites_, s.chip,
    s.stand, time_, cross_, dumps_, s.barriers, chain_, s.links, s.far, groups_, resends_, keys_, skidQ_, skid_,
    replicas_, early_, rot_, tally_, boot_, mbox_, power_, jtag_, s.kerfOps, s.pan, sent_, txq_, rx_, s.free,
    readOut_⟩ := by
  obtain ⟨h1, h2, h3, h4, h5⟩ := h
  refine ⟨h1, h2, h3, h4, fun c => ?_⟩
  have h6 := h5 c
  rw [State.canonical_iff] at *
  obtain ⟨k1, k2, k3, k4, k5, k6, k7, k8, k9, k10, k11, k12, k13, k14, k15, k16, k17, k18⟩ := h6
  exact ⟨k1, k2, k3, k4, k5, k6, k7, k8, k9, k10, k11, k12, k13, k14, k15, k16, rfl, rfl⟩


/-- A fold keeps what each of its steps keeps. -/
theorem foldl_kept {z : State} {β : Type} (f : State → β → State) (l : List β) (s : State) (hs : Kept z s)
    (hf : ∀ t x, Kept z t → Kept z (f t x)) : Kept z (l.foldl f s) := by
  induction l generalizing s with
  | nil => exact hs
  | cons a r ih => exact ih _ (hf s a hs)

/-- A fold that carries a value beside the state keeps what each of its steps keeps. -/
theorem foldl1_kept {z : State} {β γ : Type} (f : State × γ → β → State × γ) (l : List β) (p : State × γ)
    (hp : Kept z p.1)
    (hf : ∀ t x, Kept z t.1 → Kept z (f t x).1) : Kept z (l.foldl f p).1 := by
  induction l generalizing p with
  | nil => exact hp
  | cons a r ih => exact ih _ (hf p a hp)

/-- A fold over an eigendecomposition keeps what each of its steps keeps. -/
theorem foldlEig_kept {z : State} {β : Type} (f : EigSt → β → EigSt) (l : List β) (p : EigSt) (hp : Kept z p.st)
    (hf : ∀ t x, Kept z t.st → Kept z (f t x).st) : Kept z (l.foldl f p).st := by
  induction l generalizing p with
  | nil => exact hp
  | cons a r ih => exact ih _ (hf p a hp)

/-! ### Regs -/

theorem setF_kept {z : State} (s : State) (base : Nat) (f : Fld) (k v : Nat) (hs : Kept z s) : Kept z
    (setF s base f k v) := by
  unfold setF
  dsimp +zetaHave only
  split
  · exact Kept.regs hs ..
  · refine hs.of rfl rfl rfl (Nat.le_refl _) (fun h => ?_)
    rw [State.canonical_iff] at *
    exact ⟨putF_wf _ _ _ _ h.1, h.2⟩

theorem countF_kept {z : State} (s : State) (base : Nat) (f : Fld) (k n : Nat) (hs : Kept z s) :
    Kept z (countF s base f k n) := by
  unfold countF
  repeat' (first | with_reducible assumption | with_reducible apply setF_kept)

theorem set2_kept {z : State} (s : State) (base : Nat) (lo hi : Fld) (k v : Nat) (hs : Kept z s) :
    Kept z (set2 s base lo hi k v) := by
  unfold set2
  repeat' (first | with_reducible assumption | with_reducible apply setF_kept)

theorem setA_kept {z : State} (s : State) (f : Fld) (v : Nat) (hs : Kept z s) :
    Kept z (setA s f v) := by
  unfold setA
  repeat' (first | with_reducible assumption | with_reducible apply setF_kept)

theorem countA_kept {z : State} (s : State) (f : Fld) (n : Nat) (hs : Kept z s) :
    Kept z (countA s f n) := by
  unfold countA
  repeat' (first | with_reducible assumption | with_reducible apply countF_kept)

theorem setB_kept {z : State} (s : State) (f : Fld) (v : Nat) (hs : Kept z s) :
    Kept z (setB s f v) := by
  unfold setB
  repeat' (first | with_reducible assumption | with_reducible apply setF_kept)

theorem countB_kept {z : State} (s : State) (f : Fld) (n : Nat) (hs : Kept z s) :
    Kept z (countB s f n) := by
  unfold countB
  repeat' (first | with_reducible assumption | with_reducible apply countF_kept)

theorem setD_kept {z : State} (s : State) (f : Fld) (v : Nat) (hs : Kept z s) :
    Kept z (setD s f v) := by
  unfold setD
  repeat' (first | with_reducible assumption | with_reducible apply setF_kept)

theorem countD_kept {z : State} (s : State) (f : Fld) (n : Nat) (hs : Kept z s) :
    Kept z (countD s f n) := by
  unfold countD
  repeat' (first | with_reducible assumption | with_reducible apply countF_kept)

theorem setL_kept {z : State} (s : State) (f : Fld) (n v : Nat) (hs : Kept z s) :
    Kept z (setL s f n v) := by
  unfold setL
  repeat' (first | with_reducible assumption | with_reducible apply setF_kept)

theorem countL_kept {z : State} (s : State) (f : Fld) (n c : Nat) (hs : Kept z s) :
    Kept z (countL s f n c) := by
  unfold countL
  repeat' (first | with_reducible assumption | with_reducible apply countF_kept)

theorem setG_kept {z : State} (s : State) (f : Fld) (g v : Nat) (hs : Kept z s) :
    Kept z (setG s f g v) := by
  unfold setG
  repeat' (first | with_reducible assumption | with_reducible apply setF_kept)

theorem bumpCounter_kept {z : State} (s : State) (base i n : Nat) (hs : Kept z s) :
    Kept z (bumpCounter s base i n) := by
  unfold bumpCounter
  repeat' (first | with_reducible assumption | with_reducible apply setF_kept | dsimp +zetaHave only | split)

theorem event_kept {z : State} (s : State) (base src n : Nat) (hs : Kept z s) :
    Kept z (event s base src n) := by
  unfold event
  repeat' (first
    | with_reducible assumption | intro _ | with_reducible apply bumpCounter_kept
    | with_reducible apply foldl_kept | dsimp +zetaHave only | split)

/-! ### Ops -/

theorem wrMem_kept {z : State} (s : State) (ws : List Host.Cell) (hs : Kept z s) : Kept z
    (wrMem s ws) := Kept.mem hs ..

theorem wrNat_kept {z : State} (s : State) (a n v : Nat) (hs : Kept z s) :
    Kept z (wrNat s a n v) := by
  unfold wrNat
  repeat' (first | with_reducible assumption | with_reducible apply wrMem_kept)

theorem wrHost_kept {z : State} (s : State) (ws : List Host.Cell) (hs : Kept z s) : Kept z (wrHost s ws) := by
  refine hs.of rfl rfl rfl (Nat.le_refl _) (fun h => ?_)
  rw [State.canonical_iff] at *
  exact ⟨h.1, h.2.1, h.2.2.1, h.2.2.2.1, memWriteAll_wf ws _ h.2.2.2.2.1, h.2.2.2.2.2⟩

theorem hostWrites_kept {z : State} (s : State) (ws : List (Nat × List Byte)) (hs : Kept z s) :
    Kept z (hostWrites s ws) := by
  unfold hostWrites
  repeat' (first | with_reducible assumption | with_reducible apply wrHost_kept)

theorem countSha_kept {z : State} (s : State) (n : Nat) (hs : Kept z s) :
    Kept z (countSha s n) := by
  unfold countSha
  repeat' (first | with_reducible assumption | with_reducible apply event_kept)

theorem takeFree_kept {z : State} (s : State) (hs : Kept z s) : Kept z (takeFree s) :=
  hs.of rfl rfl rfl (Nat.le_succ _) (fun h => h)

theorem noteMerge_kept {z : State} (s : State) (base : Nat) (hs : Kept z s) :
    Kept z (noteMerge s base) := by
  unfold noteMerge
  repeat' (first
    | with_reducible assumption | dsimp +zetaHave only | fail_if_no_progress with_reducible apply Kept.upd)

theorem sendVector_kept {z : State} (s : State) (v : Nat) (hs : Kept z s) :
    Kept z (sendVector s v) := by
  unfold sendVector
  repeat' (first
    | with_reducible assumption | with_reducible apply noteMerge_kept | dsimp +zetaHave only | split
    | fail_if_no_progress with_reducible apply Kept.upd)

theorem writeFault_kept {z : State} (s : State) (r : FaultRec) (hs : Kept z s) :
    Kept z (writeFault s r) := by
  unfold writeFault
  repeat' (first
    | with_reducible assumption | with_reducible apply set2_kept | with_reducible apply countA_kept
    | with_reducible apply wrMem_kept | with_reducible apply sendVector_kept | dsimp +zetaHave only | split)

theorem semSet_kept {z : State} (s : State) (n v : Nat) (hs : Kept z s) :
    Kept z (semSet s n v) := by
  unfold semSet
  repeat' (first
    | with_reducible assumption | with_reducible apply noteMerge_kept | dsimp +zetaHave only
    | fail_if_no_progress with_reducible apply Kept.upd | with_reducible apply Kept.sems)

theorem semAdd_kept {z : State} (s : State) (n v : Nat) (hs : Kept z s) :
    Kept z (semAdd s n v) := by
  unfold semAdd
  repeat' (first | with_reducible assumption | with_reducible apply semSet_kept)

theorem updCtx_kept {z : State} (s : State) (c : Nat) (f : Ctx → Ctx) (hs : Kept z s) :
    Kept z (updCtx s c f) := by
  unfold updCtx
  repeat' (first
    | with_reducible assumption | dsimp +zetaHave only | split | fail_if_no_progress with_reducible apply Kept.upd)

theorem updOp_kept {z : State} (s : State) (ctx idx : Nat) (f : Op → Op) (hs : Kept z s) :
    Kept z (updOp s ctx idx f) := by
  unfold updOp
  repeat' (first
    | with_reducible assumption | dsimp +zetaHave only | split | fail_if_no_progress with_reducible apply Kept.upd)

theorem onOp_kept {z : State} (s : State) (ctx idx opcode : Nat) (f : Op → State) (hs : Kept z s)
    (hf : ∀ x0, Kept z (f x0)) :
    Kept z (onOp s ctx idx opcode f) := by
  unfold onOp
  repeat' (first | with_reducible assumption | apply hf | split)

theorem endOp_kept {z : State} (s : State) (ctx idx : Nat) (e : OpEnd) (hs : Kept z s) :
    Kept z (endOp s ctx idx e) := by
  unfold endOp
  repeat' (first | with_reducible assumption | with_reducible apply updOp_kept)

theorem ctxFault_kept {z : State} (s : State) (ctx idx code off : Nat) (hs : Kept z s) :
    Kept z (ctxFault s ctx idx code off) := by
  unfold ctxFault
  repeat' (first | with_reducible assumption | with_reducible apply endOp_kept)

theorem faultOr_kept {z : State} (s : State) (ctx idx : Nat) (e : Option (Nat × Nat)) (t : State) (hs : Kept z s)
    (ht : Kept z t) :
    Kept z (faultOr s ctx idx e t) := by
  unfold faultOr
  repeat' (first | with_reducible assumption | with_reducible apply ctxFault_kept | dsimp +zetaHave only | split)

theorem endWithRecord_kept {z : State} (s : State) (ctx idx : Nat) (st : Status) (kind unit : Nat)
    (words : List Nat) (hs : Kept z s) :
    Kept z (endWithRecord s ctx idx st kind unit words) := by
  unfold endWithRecord
  repeat' (first | with_reducible assumption | with_reducible apply writeFault_kept | with_reducible apply endOp_kept)

theorem finishOp_kept {z : State} (s : State) (ctx idx : Nat) (hs : Kept z s) :
    Kept z (finishOp s ctx idx) := by
  unfold finishOp
  repeat' (first | with_reducible assumption | with_reducible apply updOp_kept)

theorem freeBytes_kept {z : State} (s : State) (a n : Nat) (hs : Kept z s) :
    Kept z (freeBytes s a n) := by
  unfold freeBytes
  repeat' (first
    | with_reducible assumption | with_reducible apply wrMem_kept | dsimp +zetaHave only
    | fail_if_no_progress with_reducible apply Kept.upd | with_reducible apply Kept.drew)

theorem faultAll_kept {z : State} (s : State) (kind : Nat) (words : List Nat) (hs : Kept z s) :
    Kept z (faultAll s kind words) := by
  unfold faultAll
  repeat' (first
    | with_reducible assumption | intro _ | with_reducible apply endWithRecord_kept
    | with_reducible apply foldl_kept | dsimp +zetaHave only | split)

theorem cellSet_kept {z : State} (s : State) (n : Nat) (c : CellRt) (hs : Kept z s) :
    Kept z (cellSet s n c) := by
  unfold cellSet
  repeat' (first
    | with_reducible assumption | dsimp +zetaHave only | fail_if_no_progress with_reducible apply Kept.upd
    | with_reducible apply Kept.cells)

theorem flagCell_kept {z : State} (s : State) (n : Nat) (b : Bool) (hs : Kept z s) :
    Kept z (flagCell s n b) := by
  unfold flagCell
  repeat' (first | with_reducible assumption | with_reducible apply cellSet_kept | dsimp +zetaHave only | split)

/-! ### Tables -/

theorem wrBits_kept {z : State} (s : State) (a hi lo v : Nat) (hs : Kept z s) :
    Kept z (wrBits s a hi lo v) := by
  unfold wrBits
  repeat' (first | with_reducible assumption | with_reducible apply wrMem_kept)

theorem holdWrites_kept {z : State} (s : State) (ctx idx : Nat) (ws : List Host.Cell) (hs : Kept z s) :
    Kept z (holdWrites s ctx idx ws) := by
  unfold holdWrites
  repeat' (first | with_reducible assumption | with_reducible apply updOp_kept)

theorem holdTrain_kept {z : State} (s t : State) (ctx idx : Nat) (hs : Kept z s) (ht : Kept z t) :
    Kept z (holdTrain s t ctx idx) := by
  unfold holdTrain
  repeat' (first
    | with_reducible assumption | with_reducible apply holdWrites_kept | dsimp +zetaHave only | split
    | fail_if_no_progress with_reducible apply Kept.upd | with_reducible apply Kept.mem)

theorem holdOver_kept {z : State} (s t : State) (ctx idx : Nat) (held : List Host.Cell) (hs : Kept z s)
    (ht : Kept z t) :
    Kept z (holdOver s t ctx idx held) := by
  unfold holdOver
  repeat' (first
    | with_reducible assumption | with_reducible apply updOp_kept | dsimp +zetaHave only | split
    | fail_if_no_progress with_reducible apply Kept.upd | with_reducible apply Kept.mem)

/-! ### Hbm -/

theorem draftPut_kept {z : State} (s : State) (ws : List Host.Cell) (hs : Kept z s) :
    Kept z (draftPut s ws) := by
  unfold draftPut
  repeat' (first
    | with_reducible assumption | dsimp +zetaHave only | fail_if_no_progress with_reducible apply Kept.upd)

theorem setUsed_kept {z : State} (s : State) (st n : Nat) (hs : Kept z s) :
    Kept z (setUsed s st n) := by
  unfold setUsed
  repeat' (first | with_reducible assumption | with_reducible apply setF_kept)

theorem enterRetired_kept {z : State} (s : State) (st slot : Nat) (hs : Kept z s) :
    Kept z (enterRetired s st slot) := by
  unfold enterRetired
  repeat' (first
    | with_reducible assumption | with_reducible apply draftPut_kept | with_reducible apply setUsed_kept
    | dsimp +zetaHave only | fail_if_no_progress with_reducible apply Kept.upd)

theorem retireGranule_kept {z : State} (s : State) (off : Nat) (hs : Kept z s) :
    Kept z (retireGranule s off) := by
  unfold retireGranule
  repeat' (first
    | with_reducible assumption | with_reducible apply setF_kept | with_reducible apply enterRetired_kept
    | dsimp +zetaHave only | split | fail_if_no_progress with_reducible apply Kept.upd)

theorem hbmCorrected_kept {z : State} (s : State) (off : Nat) (hs : Kept z s) :
    Kept z (hbmCorrected s off) := by
  unfold hbmCorrected
  repeat' (first
    | with_reducible assumption | with_reducible apply countF_kept | with_reducible apply event_kept
    | with_reducible apply retireGranule_kept | dsimp +zetaHave only | split
    | fail_if_no_progress with_reducible apply Kept.upd)

theorem hbmUncorrectable_kept {z : State} (s : State) (off : Nat) (hs : Kept z s) : Kept z
    (hbmUncorrectable s off) := by
  have h2 : Kept z (setF (set2 (countF s (millOfOff off) Reg.hbmUe_count 0 1) (millOfOff off) Reg.hbmLastUe_offsetLo
      Reg.hbmLastUe_offsetHi 0 off) (millOfOff off) Reg.hbmLastUe_valid 0 1) :=
    setF_kept _ _ _ _ _ (set2_kept _ _ _ _ _ _ (countF_kept _ _ _ _ _ hs))
  unfold hbmUncorrectable
  dsimp +zetaHave only
  generalize setF (set2 (countF s (millOfOff off) Reg.hbmUe_count 0 1) (millOfOff off) Reg.hbmLastUe_offsetLo
      Reg.hbmLastUe_offsetHi 0 off) (millOfOff off) Reg.hbmLastUe_valid 0 1 = s2 at h2 ⊢
  apply retireGranule_kept
  with_reducible apply Kept.upd
  exact h2

theorem hbmEcc_kept {z : State} (s : State) (e : Ecc) (hs : Kept z s) :
    Kept z (hbmEcc s e) := by
  unfold hbmEcc
  repeat' (first
    | with_reducible assumption | with_reducible apply hbmCorrected_kept
    | with_reducible apply hbmUncorrectable_kept | split)

theorem answer_kept {z : State} (s : State) (d : List Byte) (poison : Bool) (hs : Kept z s) :
    Kept z (answer s d poison) := by
  unfold answer
  repeat' (first
    | with_reducible assumption | dsimp +zetaHave only | fail_if_no_progress with_reducible apply Kept.upd)

theorem serveRead_kept {z : State} (s : State) (off n : Nat) (e : Ecc) (hs : Kept z s) :
    Kept z (serveRead s off n e) := by
  unfold serveRead
  repeat' (first
    | with_reducible assumption | with_reducible apply hbmUncorrectable_kept | with_reducible apply hbmEcc_kept
    | with_reducible apply answer_kept | split)

/-! ### Scaler -/

theorem setSclCnt_kept {z : State} (s : State) (n off size v : Nat) (hs : Kept z s) :
    Kept z (setSclCnt s n off size v) := by
  unfold setSclCnt
  repeat' (first
    | with_reducible assumption | with_reducible apply wrNat_kept | dsimp +zetaHave only | split
    | fail_if_no_progress with_reducible apply Kept.upd | with_reducible apply Kept.sclLate)

theorem addSclCnt_kept {z : State} (s : State) (n off size v : Nat) (hs : Kept z s) :
    Kept z (addSclCnt s n off size v) := by
  unfold addSclCnt
  repeat' (first | with_reducible assumption | with_reducible apply setSclCnt_kept)

theorem addFmt_kept {z : State} (s : State) (code : Nat) (d : FmtCounts) (hs : Kept z s) :
    Kept z (addFmt s code d) := by
  unfold addFmt
  repeat' (first
    | with_reducible assumption | dsimp +zetaHave only | split | fail_if_no_progress with_reducible apply Kept.upd
    | with_reducible apply Kept.sclFmt | with_reducible apply Kept.sclFmtLate)

theorem countConv_kept {z : State} (s : State) (cell : Nat) (eval : Bool) (bd : Option Bind) (code : Nat)
    (cs : List Cls) (hs : Kept z s) :
    Kept z (countConv s cell eval bd code cs) := by
  unfold countConv
  repeat' (first
    | with_reducible assumption | intro _ | with_reducible apply event_kept | with_reducible apply addSclCnt_kept
    | with_reducible apply addFmt_kept | with_reducible apply foldl_kept | with_reducible apply foldl1_kept
    | dsimp +zetaHave only | split)

theorem raiseAmax_kept {z : State} (s : State) (eval : Bool) (bd : Option Bind) (rs : List FVal) (hs : Kept z s) :
    Kept z (raiseAmax s eval bd rs) := by
  unfold raiseAmax
  repeat' (first
    | with_reducible assumption | intro _ | with_reducible apply setSclCnt_kept | with_reducible apply foldl_kept
    | with_reducible apply foldl1_kept | dsimp +zetaHave only | split)

theorem writeMap_kept {z : State} (s : State) (entry u v : Nat) (hs : Kept z s) :
    Kept z (writeMap s entry u v) := by
  unfold writeMap
  repeat' (first | with_reducible assumption | with_reducible apply wrNat_kept)

theorem writeShadow_kept {z : State} (s : State) (entry : Nat) (rs : List FVal) (gidx : List Nat) (hs : Kept z s) :
    Kept z (writeShadow s entry rs gidx) := by
  unfold writeShadow
  repeat' (first | with_reducible assumption | with_reducible apply wrMem_kept | dsimp +zetaHave only | split)

theorem flagConv_kept {z : State} (s : State) (cell : Nat) (eval : Bool) (f : Fmt) (xs : List (FVal × Rnd))
    (cs : List Nat) (hs : Kept z s) :
    Kept z (flagConv s cell eval f xs cs) := by
  unfold flagConv
  repeat' (first | with_reducible assumption | with_reducible apply event_kept | with_reducible apply flagCell_kept)

theorem unitOut_kept {z : State} (s : State) (cell : Nat) (eval : Bool) (bd : Option Bind) (u : Nat) (f : Fmt)
    (xs : List (FVal × Rnd)) (gidx : List Nat) (hs : Kept z s) :
    Kept z (unitOut s cell eval bd u f xs gidx).1 := by
  unfold unitOut
  repeat' (first
    | with_reducible assumption | with_reducible apply flagCell_kept | with_reducible apply addSclCnt_kept
    | with_reducible apply countConv_kept | with_reducible apply raiseAmax_kept
    | with_reducible apply writeMap_kept | with_reducible apply writeShadow_kept
    | with_reducible apply flagConv_kept | dsimp +zetaHave only | split)

theorem blocksOut_kept {z : State} (s : State) (cell : Nat) (eval : Bool) (f : Fmt) (noClip : Bool) (bs : List
    (List (FVal × Rnd))) (hs : Kept z s) :
    Kept z (blocksOut s cell eval f noClip bs).1 := by
  unfold blocksOut
  repeat' (first
    | with_reducible assumption | with_reducible apply event_kept | with_reducible apply flagCell_kept
    | with_reducible apply countConv_kept)

theorem mendRows_kept {z : State} (s : State) (f : Fmt) (rows : List (Nat × Nat)) (k : Int) (hs : Kept z s) :
    Kept z (mendRows s f rows k) := by
  unfold mendRows
  repeat' (first
    | with_reducible assumption | intro _ | with_reducible apply wrMem_kept | with_reducible apply foldl_kept)

theorem sclMend_kept {z : State} (s : State) (b : Bind) (f : Fmt) (rowsOf : Nat → List (Nat × Nat)) (hs : Kept z s) :
    Kept z (sclMend s b f rowsOf) := by
  unfold sclMend
  repeat' (first
    | with_reducible assumption | intro _ | with_reducible apply mendRows_kept | with_reducible apply foldl_kept
    | dsimp +zetaHave only | split)

theorem sclSettle_kept {z : State} (s : State) (b : Bind) (hs : Kept z s) :
    Kept z (sclSettle s b) := by
  unfold sclSettle
  repeat' (first
    | with_reducible assumption | with_reducible apply wrNat_kept | with_reducible apply addSclCnt_kept
    | dsimp +zetaHave only | split)

theorem setFlags_kept {z : State} (s : State) (on : List Nat) (hs : Kept z s) :
    Kept z (setFlags s on) := by
  unfold setFlags
  repeat' (first
    | with_reducible assumption | intro _ | with_reducible apply cellSet_kept | with_reducible apply foldl_kept
    | dsimp +zetaHave only | split)

theorem onSide_kept {z : State} (s : State) (ctx idx : Nat) (f : State → State) (hs : Kept z s)
    (hf : ∀ x0, Kept z x0 → Kept z (f x0)) : Kept z (onSide s ctx idx f) := by
  unfold onSide
  split
  · exact hf _ hs
  · split
    · exact hf _ hs
    · dsimp +zetaHave only
      apply updOp_kept
      apply setFlags_kept
      have h1 : Kept z (f (setFlags { s with sclAside := true, sclLate := [], sclFmtLate := [] } [])) :=
        hf _ (setFlags_kept _ _ (Kept.noLate hs ..))
      generalize f (setFlags { s with sclAside := true, sclLate := [], sclFmtLate := [] } []) = t at h1 ⊢
      obtain ⟨h1, h2, h3, h4, h5⟩ := h1
      refine ⟨h1, h2, h3, h4, fun c => ?_⟩
      have h6 := h5 c
      have h7 := hs.2.2.2.2 c
      rw [State.canonical_iff] at *
      obtain ⟨k1, k2, k3, k4, k5, k6, k7, k8, k9, k10, k11, k12, k13, k14, k15, k16, k17, k18⟩ := h6
      obtain ⟨-, -, -, -, -, -, -, -, -, -, -, -, -, -, -, -, m17, m18⟩ := h7
      exact ⟨k1, k2, k3, k4, k5, k6, k7, k8, k9, k10, k11, k12, k13, k14, k15, k16, m17, m18⟩

theorem applySide_kept {z : State} (s : State) (x : RunSide) (hs : Kept z s) :
    Kept z (applySide s x) := by
  unfold applySide
  repeat' (first
    | with_reducible assumption | intro _ | with_reducible apply flagCell_kept
    | with_reducible apply setSclCnt_kept | with_reducible apply addSclCnt_kept | with_reducible apply addFmt_kept
    | with_reducible apply sclSettle_kept | with_reducible apply foldl_kept | with_reducible apply foldl1_kept
    | dsimp +zetaHave only | split)

theorem sclCheck_kept {z : State} (s : State) (unreadable : List Nat) (hs : Kept z s) :
    Kept z (sclCheck s unreadable) := by
  unfold sclCheck
  repeat' (first | with_reducible assumption | with_reducible apply setA_kept | split)

theorem sclHistoryStep_kept {z : State} (s : State) (n standMax : Nat) (hs : Kept z s) :
    Kept z (sclHistoryStep s n standMax) := by
  unfold sclHistoryStep
  repeat' (first
    | with_reducible assumption | intro _ | with_reducible apply wrNat_kept | with_reducible apply wrBits_kept)

theorem sclHistorySteps_kept {z : State} (s : State) (maxes : List Nat) (hs : Kept z s) :
    Kept z (sclHistorySteps s maxes) := by
  unfold sclHistorySteps
  repeat' (first
    | with_reducible assumption | intro _ | with_reducible apply sclHistoryStep_kept
    | with_reducible apply foldl_kept | with_reducible apply foldl1_kept | dsimp +zetaHave only | split)

theorem sclClear_kept {z : State} (s : State) (hs : Kept z s) : Kept z (sclClear s) := by
  have h1 : Kept z ((sclEntries s).foldl (fun t n => wrMem t (bytesWrites (sclAddr t n + 0x60)
      ([0x60, 0x64, 0x68, 0x6C, 0x70, 0x74, 0x78, 0x7A].flatMap
        (fun off => leBytes (cntSize off) (sparseGet 0 (n * 128 + off) s.sclLate))))) s) :=
    foldl_kept _ _ _ hs (fun t x ht => wrMem_kept _ _ ht)
  unfold sclClear
  dsimp +zetaHave only
  generalize (sclEntries s).foldl _ s = t at h1 ⊢
  obtain ⟨h1, h2, h3, h4, h5⟩ := h1
  refine ⟨h1, h2, h3, h4, fun c => ?_⟩
  have h6 := h5 c
  have h7 := hs.2.2.2.2 c
  rw [State.canonical_iff] at *
  obtain ⟨k1, k2, k3, k4, k5, k6, k7, k8, k9, k10, k11, k12, k13, k14, k15, k16, k17, k18⟩ := h6
  exact ⟨k1, k2, k3, k4, k5, k6, k7, k8, k9, h7.2.2.2.2.2.2.2.2.2.2.2.2.2.2.2.2.2, k11, k12, k13, k14, k15, k16, rfl,
    rfl⟩

/-! ### Matrix -/

theorem setMat_kept {z : State} (s : State) (ctx idx : Nat) (f : MatWork → MatWork) (hs : Kept z s) :
    Kept z (setMat s ctx idx f) := by
  unfold setMat
  repeat' (first | with_reducible assumption | with_reducible apply updOp_kept)

theorem setTile_kept {z : State} (s : State) (ctx idx t : Nat) (f : Tile → Tile) (hs : Kept z s) :
    Kept z (setTile s ctx idx t f) := by
  unfold setTile
  repeat' (first | with_reducible assumption | with_reducible apply setMat_kept)

theorem opReruns_kept {z : State} (s : State) (ctx idx n : Nat) (hs : Kept z s) :
    Kept z (opReruns s ctx idx n) := by
  unfold opReruns
  repeat' (first | with_reducible assumption | with_reducible apply updOp_kept)

theorem opChecks_kept {z : State} (s : State) (ctx idx n : Nat) (hs : Kept z s) :
    Kept z (opChecks s ctx idx n) := by
  unfold opChecks
  repeat' (first | with_reducible assumption | with_reducible apply updOp_kept)

theorem offerTile_kept {z : State} (s : State) (cell ctx idx : Nat) (hs : Kept z s) :
    Kept z (offerTile s cell ctx idx) := by
  unfold offerTile
  repeat' (first | with_reducible assumption | with_reducible apply cellSet_kept | dsimp +zetaHave only | split)

theorem offerAll_kept {z : State} (s : State) (o : Op) (hs : Kept z s) :
    Kept z (offerAll s o) := by
  unfold offerAll
  repeat' (first
    | with_reducible assumption | intro _ | with_reducible apply offerTile_kept | with_reducible apply foldl_kept)

theorem countRefused_kept {z : State} (s : State) (cell : Nat) (r : Refuse) (hs : Kept z s) :
    Kept z (countRefused s cell r) := by
  unfold countRefused
  repeat' (first | with_reducible assumption | with_reducible apply countF_kept)

theorem holdPanel_kept {z : State} (s : State) (cell : Nat) (p : PanelBuf) (hs : Kept z s) :
    Kept z (holdPanel s cell p) := by
  unfold holdPanel
  repeat' (first | with_reducible assumption | with_reducible apply cellSet_kept)

theorem yardPanels_kept {z : State} (s : State) (d : Desc) (cell : Nat) (hs : Kept z s) :
    Kept z (yardPanels s d cell) := by
  unfold yardPanels
  repeat' (first | with_reducible assumption | with_reducible apply freeBytes_kept)

theorem decodePanel_kept {z : State} (s : State) (o : Op) (cell tj : Nat) (hs : Kept z s) :
    Kept z (decodePanel s o cell tj) := by
  unfold decodePanel
  repeat' (first
    | with_reducible assumption | with_reducible apply event_kept | with_reducible apply setMat_kept
    | with_reducible apply countRefused_kept | with_reducible apply holdPanel_kept
    | with_reducible apply yardPanels_kept | dsimp +zetaHave only | split)

theorem clearCells_kept {z : State} (s : State) (ctx idx : Nat) (hs : Kept z s) : Kept z (clearCells s ctx idx) := by
  unfold clearCells
  refine hs.of rfl rfl rfl (Nat.le_refl _) (fun h => ?_)
  rw [State.canonical_iff] at *
  obtain ⟨k1, k2, k3, k4, k5, k6, k7, k8, k9, k⟩ := h
  exact ⟨k1, k2, k3, k4, k5, k6, k7, k8, sparseWf_mapFilter cellIdle _ _ k9, k⟩

theorem matMaybeEnd_kept {z : State} (s : State) (ctx idx : Nat) (hs : Kept z s) :
    Kept z (matMaybeEnd s ctx idx) := by
  unfold matMaybeEnd
  repeat' (first
    | with_reducible assumption | with_reducible apply endOp_kept | with_reducible apply finishOp_kept
    | with_reducible apply clearCells_kept | dsimp +zetaHave only | split)

theorem sideWrite_kept {z : State} (s : State) (d : Desc) (i r : Nat) (hs : Kept z s) :
    Kept z (sideWrite s d i r) := by
  unfold sideWrite
  repeat' (first | with_reducible assumption | with_reducible apply wrMem_kept | dsimp +zetaHave only | split)

theorem sideDrop_kept {z : State} (s : State) (d : Desc) (cell : Nat) (hs : Kept z s) :
    Kept z (sideDrop s d cell) := by
  unfold sideDrop
  repeat' (first | with_reducible assumption | with_reducible apply countF_kept | with_reducible apply wrBits_kept)

theorem sideGather_kept {z : State} (s : State) (o : Op) (x : Tile) (first : Bool) (hs : Kept z s) :
    Kept z (sideGather s o x first) := by
  unfold sideGather
  repeat' (first
    | with_reducible assumption | intro _ | with_reducible apply sideWrite_kept
    | with_reducible apply sideDrop_kept | with_reducible apply foldl_kept | with_reducible apply foldl1_kept
    | dsimp +zetaHave only | split)

theorem beginTile_kept {z : State} (s : State) (o : Op) (t cell bank : Nat) (hs : Kept z s) :
    Kept z (beginTile s o t cell bank) := by
  unfold beginTile
  repeat' (first
    | with_reducible assumption | with_reducible apply setMat_kept | with_reducible apply sideGather_kept)

theorem beginRun_kept {z : State} (s : State) (o : Op) (x : Tile) (hs : Kept z s) :
    Kept z (beginRun s o x) := by
  unfold beginRun
  repeat' (first
    | with_reducible assumption | with_reducible apply cellSet_kept | with_reducible apply setTile_kept
    | with_reducible apply sideGather_kept)

theorem fillBegin_kept {z : State} (s : State) (cell : Nat) (hs : Kept z s) :
    Kept z (fillBegin s cell) := by
  unfold fillBegin
  repeat' (first
    | with_reducible assumption | with_reducible apply cellSet_kept | with_reducible apply beginTile_kept
    | with_reducible apply beginRun_kept | dsimp +zetaHave only | split)

theorem queueRun_kept {z : State} (s : State) (o : Op) (x : Tile) (hs : Kept z s) :
    Kept z (queueRun s o x) := by
  unfold queueRun
  repeat' (first | with_reducible assumption | with_reducible apply cellSet_kept | dsimp +zetaHave only | split)

theorem fillDone_kept {z : State} (s : State) (o : Op) (x : Tile) (flips : List (Nat × Nat)) (hs : Kept z s) :
    Kept z (fillDone s o x flips) := by
  unfold fillDone
  repeat' (first
    | with_reducible assumption | with_reducible apply event_kept | with_reducible apply setTile_kept
    | with_reducible apply offerTile_kept | with_reducible apply queueRun_kept | dsimp +zetaHave only | split)

theorem countCheckOn_kept {z : State} (s : State) (ctx idx cell : Nat) (failed : Bool) (hs : Kept z s) :
    Kept z (countCheckOn s ctx idx cell failed) := by
  unfold countCheckOn
  repeat' (first
    | with_reducible assumption | with_reducible apply countF_kept | with_reducible apply event_kept
    | with_reducible apply opChecks_kept | dsimp +zetaHave only | split)

theorem countCheck_kept {z : State} (s : State) (o : Op) (x : Tile) (failed : Bool) (hs : Kept z s) :
    Kept z (countCheck s o x failed) := by
  unfold countCheck
  repeat' (first | with_reducible assumption | with_reducible apply countCheckOn_kept)

theorem tileFails_kept {z : State} (s : State) (o : Op) (x : Tile) (row col : Nat) (hs : Kept z s) :
    Kept z (tileFails s o x row col) := by
  unfold tileFails
  repeat' (first
    | with_reducible assumption | with_reducible apply countF_kept | with_reducible apply writeFault_kept
    | with_reducible apply setMat_kept | with_reducible apply matMaybeEnd_kept | dsimp +zetaHave only | split)

theorem tileAgain_kept {z : State} (s : State) (o : Op) (x : Tile) (f : Tile → Tile) (hs : Kept z s) :
    Kept z (tileAgain s o x f) := by
  unfold tileAgain
  repeat' (first
    | with_reducible assumption | with_reducible apply event_kept | with_reducible apply setTile_kept
    | with_reducible apply opReruns_kept | with_reducible apply queueRun_kept)

theorem sumDone_kept {z : State} (s : State) (o : Op) (x : Tile) (hs : Kept z s) :
    Kept z (sumDone s o x) := by
  unfold sumDone
  repeat' (first
    | with_reducible assumption | with_reducible apply setTile_kept | with_reducible apply countCheck_kept
    | with_reducible apply tileFails_kept | with_reducible apply tileAgain_kept | dsimp +zetaHave only | split)

theorem dupDone_kept {z : State} (s : State) (o : Op) (x : Tile) (hs : Kept z s) :
    Kept z (dupDone s o x) := by
  unfold dupDone
  repeat' (first
    | with_reducible assumption | with_reducible apply setTile_kept | with_reducible apply countCheck_kept
    | with_reducible apply tileFails_kept | with_reducible apply tileAgain_kept | dsimp +zetaHave only | split)

theorem writeTile_kept {z : State} (s : State) (o : Op) (x : Tile) (hs : Kept z s) :
    Kept z (writeTile s o x) := by
  unfold writeTile
  repeat' (first
    | with_reducible assumption | intro _ | with_reducible apply event_kept | with_reducible apply wrMem_kept
    | with_reducible apply flagCell_kept | with_reducible apply unitOut_kept | with_reducible apply blocksOut_kept
    | with_reducible apply setMat_kept | with_reducible apply foldl_kept | with_reducible apply foldl1_kept
    | dsimp +zetaHave only | split)

theorem satDrained_kept {z : State} (s : State) (o : Op) (x : Tile) (hs : Kept z s) :
    Kept z (satDrained s o x) := by
  unfold satDrained
  repeat' (first
    | with_reducible assumption | with_reducible apply setF_kept | with_reducible apply countF_kept
    | dsimp +zetaHave only | split)

theorem drainDone_kept {z : State} (s : State) (o : Op) (x : Tile) (hs : Kept z s) :
    Kept z (drainDone s o x) := by
  unfold drainDone
  repeat' (first
    | with_reducible assumption | with_reducible apply setMat_kept | with_reducible apply matMaybeEnd_kept
    | with_reducible apply writeTile_kept | with_reducible apply satDrained_kept)

theorem driveTile_kept {z : State} (s : State) (o : Op) (x : Tile) (hs : Kept z s) :
    Kept z (driveTile s o x) := by
  unfold driveTile
  repeat' (first
    | with_reducible assumption | with_reducible apply setMat_kept | with_reducible apply decodePanel_kept
    | with_reducible apply matMaybeEnd_kept | with_reducible apply beginRun_kept
    | with_reducible apply fillDone_kept | with_reducible apply sumDone_kept | with_reducible apply dupDone_kept
    | with_reducible apply drainDone_kept | dsimp +zetaHave only | split)

theorem driveLoop_kept {z : State} (a0 : Nat) (a1 : State) (a2 : Nat) (a3 : Nat) (a4 : Nat) (ha1 : Kept z a1) :
    Kept z (driveLoop a0 a1 a2 a3 a4) := by
  induction a0 generalizing a1 a2 a3 a4 with
  | zero =>
    unfold driveLoop
    repeat' (first | with_reducible assumption)
  | succ n ih =>
    unfold driveLoop
    repeat' (first
      | with_reducible apply ih | with_reducible assumption | with_reducible apply driveTile_kept | split)

theorem runTile_kept {z : State} (s : State) (ctx idx t : Nat) (hs : Kept z s) :
    Kept z (runTile s ctx idx t) := by
  unfold runTile
  repeat' (first
    | with_reducible assumption | with_reducible apply decodePanel_kept | with_reducible apply matMaybeEnd_kept
    | with_reducible apply beginTile_kept | with_reducible apply driveLoop_kept | dsimp +zetaHave only | split)

theorem matRunAll_kept {z : State} (s : State) (o : Op) (hs : Kept z s) :
    Kept z (matRunAll s o) := by
  unfold matRunAll
  repeat' (first
    | with_reducible assumption | intro _ | with_reducible apply runTile_kept | with_reducible apply foldl_kept
    | dsimp +zetaHave only | split)

theorem matBegin_kept {z : State} (s : State) (ctx idx : Nat) (hs : Kept z s) :
    Kept z (matBegin s ctx idx) := by
  unfold matBegin
  repeat' (first
    | with_reducible assumption | intro _ | with_reducible apply updOp_kept | with_reducible apply endOp_kept
    | with_reducible apply ctxFault_kept | with_reducible apply offerAll_kept
    | with_reducible apply countRefused_kept | with_reducible apply foldl_kept | with_reducible apply foldl1_kept
    | dsimp +zetaHave only | split)

theorem dropTile_kept {z : State} (s : State) (o : Op) (x : Tile) (brake : Bool) (hs : Kept z s) :
    Kept z (dropTile s o x brake) := by
  unfold dropTile
  repeat' (first
    | with_reducible assumption | with_reducible apply countF_kept | with_reducible apply event_kept
    | with_reducible apply takeFree_kept | with_reducible apply updOp_kept | with_reducible apply cellSet_kept
    | with_reducible apply setTile_kept | with_reducible apply queueRun_kept | dsimp +zetaHave only | split)

theorem dropTiles_kept {z : State} (s : State) (cell : Nat) (brake : Bool) (hs : Kept z s) :
    Kept z (dropTiles s cell brake) := by
  unfold dropTiles
  repeat' (first
    | with_reducible assumption | intro _ | with_reducible apply dropTile_kept | with_reducible apply foldl_kept
    | dsimp +zetaHave only | split)

theorem prodMacs_kept {z : State} (s : State) (cell : Nat) (x : MatSpec) (hs : Kept z s) :
    Kept z (prodMacs s cell x) := by
  unfold prodMacs
  repeat' (first | with_reducible assumption | with_reducible apply event_kept)

theorem prodAgain_kept {z : State} (s : State) (ctx idx cell : Nat) (hs : Kept z s) :
    Kept z (prodAgain s ctx idx cell) := by
  unfold prodAgain
  repeat' (first | with_reducible assumption | with_reducible apply event_kept | with_reducible apply opReruns_kept)

theorem prodFails_kept {z : State} (s : State) (ctx idx cell t runs : Nat) (p : Nat × Nat) (hs : Kept z s) :
    Kept z (prodFails s ctx idx cell t runs p) := by
  unfold prodFails
  repeat' (first
    | with_reducible assumption | with_reducible apply countF_kept | with_reducible apply endWithRecord_kept)

theorem prodFlag_kept {z : State} (s : State) (cell : Nat) (hit : Bool) (hs : Kept z s) :
    Kept z (prodFlag s cell hit) := by
  unfold prodFlag
  repeat' (first | with_reducible assumption | with_reducible apply event_kept | with_reducible apply flagCell_kept)

theorem prodFree_kept {z : State} (s : State) (ctx idx cell : Nat) (x : MatSpec) (t : Nat) (hs : Kept z s) :
    Kept z (prodFree s ctx idx cell x t).1 := by
  unfold prodFree
  repeat' (first
    | with_reducible assumption | with_reducible apply countCheckOn_kept | with_reducible apply prodMacs_kept
    | with_reducible apply prodFlag_kept | dsimp +zetaHave only | split)

theorem prodSum_kept {z : State} (s : State) (o : Op) (cell : Nat) (x : MatSpec) (t k : Nat) (hs : Kept z s) :
    Kept z (prodSum s o cell x t k).1 := by
  unfold prodSum
  repeat' (first
    | with_reducible assumption | with_reducible apply countCheckOn_kept | with_reducible apply prodMacs_kept
    | with_reducible apply prodAgain_kept | with_reducible apply prodFails_kept | dsimp +zetaHave only | split)

theorem prodDup_kept {z : State} (s : State) (o : Op) (cell : Nat) (x : MatSpec) (t k : Nat) (hs : Kept z s) :
    Kept z (prodDup s o cell x t k).1 := by
  unfold prodDup
  repeat' (first
    | with_reducible assumption | with_reducible apply countCheckOn_kept | with_reducible apply prodMacs_kept
    | with_reducible apply prodAgain_kept | with_reducible apply prodFails_kept | dsimp +zetaHave only | split)

theorem prodTile_kept {z : State} (s : State) (ctx idx cell : Nat) (x : MatSpec) (t : Nat) (hs : Kept z s) :
    Kept z (prodTile s ctx idx cell x t).1 := by
  unfold prodTile
  repeat' (first
    | with_reducible assumption | with_reducible apply updOp_kept | with_reducible apply prodMacs_kept
    | with_reducible apply prodFlag_kept | with_reducible apply prodFree_kept | with_reducible apply prodSum_kept
    | with_reducible apply prodDup_kept | dsimp +zetaHave only | split)

theorem arrProduct_kept {z : State} (s : State) (ctx idx : Nat) (cells : List Nat) (x : MatSpec)
    (keep : Nat → Bool) (hs : Kept z s) :
    Kept z (arrProduct s ctx idx cells x keep).1 := by
  unfold arrProduct
  repeat' (first
    | with_reducible assumption | intro _ | with_reducible apply prodTile_kept | with_reducible apply foldl_kept
    | with_reducible apply foldl1_kept)

theorem withUpsets_kept {z : State} (s : State) (ctx idx : Nat) (us : List TileUpset) (f : State → State)
    (hs : Kept z s) (hf : ∀ x0, Kept z x0 → Kept z (f x0)) :
    Kept z (withUpsets s ctx idx us f) := by
  unfold withUpsets
  repeat' (first | with_reducible assumption | with_reducible apply updOp_kept | apply hf)

theorem arrMul_kept {z : State} (s : State) (ctx idx : Nat) (cells : List Nat) (m n k : Nat) (a b : Mat)
    (c : Option Mat) (hs : Kept z s) :
    Kept z (arrMul s ctx idx cells m n k a b c).1 := by
  unfold arrMul
  repeat' (first | with_reducible assumption | with_reducible apply arrProduct_kept)

/-! ### Sawmill -/

theorem wrElem_kept {z : State} (s : State) (off w i code : Nat) (hs : Kept z s) :
    Kept z (wrElem s off w i code) := by
  unfold wrElem
  repeat' (first | with_reducible assumption | with_reducible apply wrNat_kept | dsimp +zetaHave only | split)

theorem toF32_kept {z : State} (s : State) (cell : Nat) (eval : Bool) (a : Mat) (hs : Kept z s) :
    Kept z (toF32 s cell eval a).1 := by
  unfold toF32
  repeat' (first
    | with_reducible assumption | with_reducible apply countConv_kept | with_reducible apply flagConv_kept)

theorem quantBack_kept {z : State} (s : State) (cell : Nat) (eval : Bool) (f : Fmt) (q : Quant) (hs : Kept z s) :
    Kept z (quantBack s cell eval f q).1 := by
  unfold quantBack
  repeat' (first | with_reducible assumption | with_reducible apply countConv_kept | with_reducible apply toF32_kept)

theorem leftProd_kept {z : State} (s : State) (ctx idx : Nat) (cells : List Nat) (m n : Nat) (l : Option Mat)
    (a : Mat) (hs : Kept z s) :
    Kept z (leftProd s ctx idx cells m n l a).1 := by
  unfold leftProd
  repeat' (first | with_reducible assumption | with_reducible apply arrMul_kept | split)

theorem rightProd_kept {z : State} (s : State) (ctx idx : Nat) (cells : List Nat) (m n : Nat) (a : Mat)
    (r : Option Mat) (hs : Kept z s) :
    Kept z (rightProd s ctx idx cells m n a r).1 := by
  unfold rightProd
  repeat' (first | with_reducible assumption | with_reducible apply arrMul_kept | split)

theorem packSegment_kept {z : State} (s : State) (o : Op) (hs : Kept z s) :
    Kept z (packSegment s o).st := by
  unfold packSegment
  repeat' (first | with_reducible assumption)

theorem quantSegment_kept {z : State} (s : State) (o : Op) (hs : Kept z s) :
    Kept z (quantSegment s o).st := by
  unfold quantSegment
  repeat' (first
    | with_reducible assumption | with_reducible apply quantBack_kept | with_reducible apply leftProd_kept
    | with_reducible apply rightProd_kept)

theorem countSaw_kept {z : State} (s : State) (mill bytes coded stored : Nat) (hs : Kept z s) :
    Kept z (countSaw s mill bytes coded stored) := by
  unfold countSaw
  repeat' (first
    | with_reducible assumption | with_reducible apply countF_kept | with_reducible apply event_kept
    | dsimp +zetaHave only | fail_if_no_progress with_reducible apply Kept.upd | with_reducible apply Kept.sawRest)

theorem compressRun_kept {z : State} (s : State) (o : Op) (hs : Kept z s) :
    Kept z (compressRun s o) := by
  unfold compressRun
  repeat' (first
    | with_reducible assumption | with_reducible apply wrMem_kept | with_reducible apply ctxFault_kept
    | with_reducible apply finishOp_kept | with_reducible apply holdWrites_kept
    | with_reducible apply holdTrain_kept | with_reducible apply packSegment_kept
    | with_reducible apply quantSegment_kept | with_reducible apply countSaw_kept | dsimp +zetaHave only | split)

theorem segValues_kept {z : State} (s : State) (o : Op) (cell : Nat) (h : SegHdr) (syms scales : List Nat)
    (hs : Kept z s) :
    Kept z (segValues s o cell h syms scales).1 := by
  unfold segValues
  repeat' (first
    | with_reducible assumption | with_reducible apply toF32_kept | with_reducible apply leftProd_kept
    | with_reducible apply rightProd_kept | dsimp +zetaHave only | split)

theorem writeSegment_kept {z : State} (s : State) (o : Op) (cell : Nat) (h : SegHdr) (syms scales : List Nat)
    (hs : Kept z s) :
    Kept z (writeSegment s o cell h syms scales) := by
  unfold writeSegment
  repeat' (first
    | with_reducible assumption | intro _ | with_reducible apply wrMem_kept | with_reducible apply wrNat_kept
    | with_reducible apply wrElem_kept | with_reducible apply segValues_kept | with_reducible apply foldl_kept
    | with_reducible apply foldl1_kept | dsimp +zetaHave only | split)

theorem decodeOne_kept {z : State} (s : State) (o : Op) (k a : Nat) (hs : Kept z s) :
    Kept z (decodeOne s o k a).1 := by
  unfold decodeOne
  repeat' (first
    | with_reducible assumption | with_reducible apply event_kept | with_reducible apply countRefused_kept
    | with_reducible apply writeSegment_kept | dsimp +zetaHave only | split)

theorem decodeSegments_kept {z : State} (s : State) (o : Op) (a0 : Nat) (a1 : List Nat) (hs : Kept z s) :
    Kept z (decodeSegments s o a0 a1).1 := by
  induction a1 generalizing s a0 with
  | nil =>
    have e : decodeSegments s o a0 [] = if a0 < xNseg o.d then
        ((List.range (xNseg o.d - a0)).foldl (fun t i => countRefused t (cellOfUnit o.d (a0 + i)) ⟨true, 0⟩) s,
          some (a0, ⟨true, 0xFFFFFFFF⟩)) else (s, none) := by delta decodeSegments; rfl
    rw [e]
    split
    · exact foldl_kept _ _ _ hs (fun t x ht => countRefused_kept _ _ _ ht)
    · exact hs
  | cons a r ih =>
    have e : (decodeSegments s o a0 (a :: r)).1 = (decodeSegments (decodeOne s o a0 a).1 o (a0 + 1) r).1 := by
      delta decodeSegments; rfl
    rw [e]
    exact ih _ _ (decodeOne_kept _ _ _ _ hs)

theorem decompressRun_kept {z : State} (s : State) (o : Op) (as : List Nat) (hs : Kept z s) :
    Kept z (decompressRun s o as) := by
  unfold decompressRun
  repeat' (first
    | with_reducible assumption | with_reducible apply endOp_kept | with_reducible apply finishOp_kept
    | with_reducible apply holdTrain_kept | with_reducible apply decodeSegments_kept | dsimp +zetaHave only
    | split)

/-! ### Vector -/

theorem setVec_kept {z : State} (s : State) (ctx idx : Nat) (f : VecWork → VecWork) (hs : Kept z s) :
    Kept z (setVec s ctx idx f) := by
  unfold setVec
  repeat' (first | with_reducible assumption | with_reducible apply updOp_kept)

theorem unitWork_kept {z : State} (s : State) (o : Op) (u : Nat) (hs : Kept z s) :
    Kept z (unitWork s o u) := by
  unfold unitWork
  repeat' (first
    | with_reducible assumption | with_reducible apply event_kept | with_reducible apply wrMem_kept
    | with_reducible apply flagCell_kept | with_reducible apply unitOut_kept | with_reducible apply blocksOut_kept
    | with_reducible apply setVec_kept | dsimp +zetaHave only | split)

theorem beginUnit_kept {z : State} (s : State) (ctx idx cell : Nat) (hs : Kept z s) :
    Kept z (beginUnit s ctx idx cell) := by
  unfold beginUnit
  repeat' (first | with_reducible assumption | with_reducible apply setVec_kept | dsimp +zetaHave only | split)

theorem vecMaybeEnd_kept {z : State} (s : State) (ctx idx : Nat) (hs : Kept z s) :
    Kept z (vecMaybeEnd s ctx idx) := by
  unfold vecMaybeEnd
  repeat' (first | with_reducible assumption | with_reducible apply finishOp_kept | split)

theorem unitDone_kept {z : State} (s : State) (o : Op) (u : Nat) (hs : Kept z s) :
    Kept z (unitDone s o u) := by
  unfold unitDone
  repeat' (first
    | with_reducible assumption | with_reducible apply setVec_kept | with_reducible apply unitWork_kept
    | with_reducible apply beginUnit_kept | with_reducible apply vecMaybeEnd_kept)

theorem vecRunAll_kept {z : State} (s : State) (o : Op) (hs : Kept z s) :
    Kept z (vecRunAll s o) := by
  unfold vecRunAll
  repeat' (first
    | with_reducible assumption | intro _ | with_reducible apply unitDone_kept | with_reducible apply foldl_kept
    | dsimp +zetaHave only | split)

theorem vecBegin_kept {z : State} (s : State) (ctx idx : Nat) (hs : Kept z s) :
    Kept z (vecBegin s ctx idx) := by
  unfold vecBegin
  repeat' (first
    | with_reducible assumption | intro _ | with_reducible apply updOp_kept | with_reducible apply ctxFault_kept
    | with_reducible apply beginUnit_kept | with_reducible apply foldl_kept | with_reducible apply foldl1_kept
    | dsimp +zetaHave only | split)

theorem dropUnits_kept {z : State} (s : State) (cell : Nat) (brake : Bool) (hs : Kept z s) :
    Kept z (dropUnits s cell brake) := by
  unfold dropUnits
  repeat' (first
    | with_reducible assumption | intro _ | with_reducible apply updOp_kept | with_reducible apply foldl_kept)

/-! ### Params -/

theorem rederive_kept {z : State} (s : State) (cellOf : Nat → Nat) (eval : Bool) (p : Nat) (a : Mat) (hs : Kept z s) :
    Kept z (rederive s cellOf eval p a).1 := by
  unfold rederive
  repeat' (first
    | with_reducible assumption | intro _ | with_reducible apply unitOut_kept
    | with_reducible apply blocksOut_kept | with_reducible apply foldl_kept | with_reducible apply foldl1_kept
    | dsimp +zetaHave only | split)

theorem auditCounts_kept {z : State} (s : State) (cellOf : Nat → Nat) (p : Nat) (hs : Kept z s) :
    Kept z (auditCounts s cellOf p) := by
  unfold auditCounts
  repeat' (first
    | with_reducible assumption | intro _ | with_reducible apply countConv_kept | with_reducible apply foldl_kept)

theorem auditAll_kept {z : State} (s : State) (cellOf : Nat → Nat) (a0 : List Nat) (hs : Kept z s) :
    Kept z (auditAll s cellOf a0).1 := by
  induction a0 generalizing s with
  | nil => exact hs
  | cons p r ih =>
    have h1 := countA_kept _ Reg.auditCount_count 1 (auditCounts_kept s cellOf p hs)
    rw [auditAll]
    generalize countA (auditCounts s cellOf p) Reg.auditCount_count 1 = s1 at h1 ⊢
    split
    · exact ih _ h1
    · exact h1

/-! ### Update -/

theorem setUpd_kept {z : State} (s : State) (ctx idx : Nat) (f : UpdWork → UpdWork) (hs : Kept z s) :
    Kept z (setUpd s ctx idx f) := by
  unfold setUpd
  repeat' (first | with_reducible assumption | with_reducible apply updOp_kept)

theorem relCheck_kept {z : State} (s : State) (ctx idx : Nat) (hs : Kept z s) :
    Kept z (relCheck s ctx idx) := by
  unfold relCheck
  repeat' (first
    | with_reducible assumption | with_reducible apply semAdd_kept | with_reducible apply setUpd_kept
    | dsimp +zetaHave only | split)

theorem zeroGrad_kept {z : State} (s : State) (d : Desc) (p : Nat) (hs : Kept z s) :
    Kept z (zeroGrad s d p) := by
  unfold zeroGrad
  repeat' (first | with_reducible assumption | with_reducible apply wrMem_kept | split)

theorem skidGrant_kept {z : State} (s : State) (q : SkidReq) (hs : Kept z s) :
    Kept z (skidGrant s q) := by
  unfold skidGrant
  repeat' (first
    | with_reducible assumption | with_reducible apply setA_kept | dsimp +zetaHave only
    | fail_if_no_progress with_reducible apply Kept.upd)

theorem skidFree_kept {z : State} (s : State) (ctx idx : Nat) (hs : Kept z s) :
    Kept z (skidFree s ctx idx) := by
  unfold skidFree
  repeat' (first
    | with_reducible assumption | dsimp +zetaHave only | fail_if_no_progress with_reducible apply Kept.upd)

theorem updGather_kept {z : State} (a0 : Nat) (a1 : State) (a2 : Nat) (a3 : Nat) (ha1 : Kept z a1) :
    Kept z (updGather a0 a1 a2 a3) := by
  induction a0 generalizing a1 a2 a3 with
  | zero =>
    unfold updGather
    repeat' (first | with_reducible assumption)
  | succ n ih =>
    unfold updGather
    repeat' (first
      | with_reducible apply ih | with_reducible assumption | with_reducible apply countA_kept
      | with_reducible apply setUpd_kept | with_reducible apply relCheck_kept | with_reducible apply zeroGrad_kept
      | with_reducible apply skidGrant_kept | dsimp +zetaHave only | split
      | fail_if_no_progress with_reducible apply Kept.upd)

theorem skidCopied_kept {z : State} (s : State) (e : SkidEntry) (hs : Kept z s) :
    Kept z (skidCopied s e) := by
  unfold skidCopied
  repeat' (first
    | with_reducible assumption | with_reducible apply wrMem_kept | with_reducible apply setUpd_kept
    | with_reducible apply relCheck_kept | with_reducible apply zeroGrad_kept
    | with_reducible apply updGather_kept | dsimp +zetaHave only | split
    | fail_if_no_progress with_reducible apply Kept.upd)

theorem updPrecond_kept {z : State} (s : State) (o : Op) (p : Nat) (g : Mat) (hs : Kept z s) :
    Kept z (updPrecond s o p g).1 := by
  unfold updPrecond
  repeat' (first
    | with_reducible assumption | with_reducible apply leftProd_kept | with_reducible apply rightProd_kept)

theorem flagUnits_kept {z : State} (s : State) (d : Desc) (units : List Nat) (hs : Kept z s) :
    Kept z (flagUnits s d units) := by
  unfold flagUnits
  repeat' (first
    | with_reducible assumption | intro _ | with_reducible apply event_kept | with_reducible apply flagCell_kept
    | with_reducible apply foldl_kept)

theorem updForm_kept {z : State} (s : State) (o : Op) (hs : Kept z s) :
    Kept z (updForm s o) := by
  unfold updForm
  repeat' (first
    | with_reducible assumption | with_reducible apply setUpd_kept | with_reducible apply relCheck_kept
    | with_reducible apply zeroGrad_kept | with_reducible apply skidFree_kept
    | with_reducible apply updPrecond_kept | dsimp +zetaHave only | split)

theorem updUnits_kept {z : State} (s : State) (o : Op) (k : Nat) (skip : Bool) (hs : Kept z s) :
    Kept z (updUnits s o k skip) := by
  unfold updUnits
  repeat' (first
    | with_reducible assumption | with_reducible apply wrMem_kept | with_reducible apply setUpd_kept
    | with_reducible apply flagUnits_kept | dsimp +zetaHave only | split)

theorem updDone_kept {z : State} (s : State) (o : Op) (skip : Bool) (hs : Kept z s) :
    Kept z (updDone s o skip) := by
  unfold updDone
  repeat' (first
    | with_reducible assumption | with_reducible apply wrMem_kept | with_reducible apply endOp_kept
    | with_reducible apply rederive_kept | with_reducible apply setUpd_kept | dsimp +zetaHave only | split
    | fail_if_no_progress with_reducible apply Kept.upd)

theorem updApply_kept {z : State} (s : State) (o : Op) (k : Nat) (hs : Kept z s) :
    Kept z (updApply s o k) := by
  unfold updApply
  repeat' (first
    | with_reducible assumption | with_reducible apply updForm_kept | with_reducible apply updUnits_kept
    | with_reducible apply updDone_kept | dsimp +zetaHave only | split)

theorem updAudit_kept {z : State} (s : State) (o : Op) (hs : Kept z s) : Kept z (updAudit s o).1 := by
  unfold updAudit
  split
  · exact hs
  · extract_lets s0
    have h0 : Kept z s0 := setUpd_kept _ _ _ _ hs
    clear_value s0
    have h1 := auditAll_kept s0 (cellOfUnit o.d) (uParams o.d) h0
    cases h : auditAll s0 (cellOfUnit o.d) (uParams o.d) with
    | mk s1 q =>
      rw [h] at h1
      cases q with
      | none => exact h1
      | some q => exact skidFree_kept _ _ _ (endWithRecord_kept _ _ _ _ _ _ _ h1)

theorem updRun_kept {z : State} (a0 : Nat) (a1 : State) (a2 : Nat) (a3 : Nat) (ha1 : Kept z a1) :
    Kept z (updRun a0 a1 a2 a3) := by
  induction a0 generalizing a1 a2 a3 with
  | zero =>
    unfold updRun
    repeat' (first | with_reducible assumption)
  | succ n ih =>
    unfold updRun
    repeat' (first
      | with_reducible apply ih | with_reducible assumption | with_reducible apply updApply_kept
      | with_reducible apply updAudit_kept | dsimp +zetaHave only | split)

theorem updPark_kept {z : State} (s : State) (o : Op) (k : Nat) (hs : Kept z s) :
    Kept z (updPark s o k) := by
  unfold updPark
  repeat' (first
    | with_reducible assumption | with_reducible apply updApply_kept | with_reducible apply updAudit_kept
    | dsimp +zetaHave only | split)

theorem updBegin_kept {z : State} (s : State) (ctx idx : Nat) (hs : Kept z s) :
    Kept z (updBegin s ctx idx) := by
  unfold updBegin
  repeat' (first
    | with_reducible assumption | with_reducible apply updOp_kept | with_reducible apply faultOr_kept
    | with_reducible apply updGather_kept | dsimp +zetaHave only | split)

end Sys2Proof.Machine
end

