-- ==== Sys2Proof/Laws/KeptArrays.lean ====
section
/-!
SUPPORT. What the operations of Pannier, Contexts, Time, Fabric, Moves, Chain, Derail, Oma keep.
-/

namespace Sys2Proof.Machine

/-! ### Pannier -/

theorem panSet_kept {z : State} (s : State) (c : Nat) (x : PanRt) (hs : Kept z s) :
    Kept z (panSet s c x) := by
  unfold panSet
  repeat' (first
    | with_reducible assumption | dsimp +zetaHave only | fail_if_no_progress with_reducible apply Kept.upd
    | with_reducible apply Kept.pan)

theorem panStart_kept {z : State} (s : State) (c : Nat) (hs : Kept z s) :
    Kept z (panStart s c) := by
  unfold panStart
  repeat' (first | with_reducible assumption | with_reducible apply setF_kept | with_reducible apply panSet_kept)

theorem spillDone_kept {z : State} (s : State) (c : Nat) (m : PanMove) (hs : Kept z s) :
    Kept z (spillDone s c m) := by
  unfold spillDone
  repeat' (first
    | with_reducible assumption | with_reducible apply setF_kept | with_reducible apply event_kept
    | with_reducible apply wrNat_kept | with_reducible apply wrHost_kept | with_reducible apply semAdd_kept
    | with_reducible apply panSet_kept)

theorem panHalt_kept {z : State} (s : State) (c j : Nat) (hs : Kept z s) :
    Kept z (panHalt s c j) := by
  unfold panHalt
  repeat' (first
    | with_reducible assumption | with_reducible apply setF_kept | with_reducible apply writeFault_kept
    | with_reducible apply panSet_kept)

theorem panFillDone_kept {z : State} (s : State) (c : Nat) (m : PanMove) (alt : List (Nat × Byte)) (hs : Kept z s) :
    Kept z (panFillDone s c m alt) := by
  unfold panFillDone
  repeat' (first
    | with_reducible assumption | with_reducible apply setF_kept | with_reducible apply countF_kept
    | with_reducible apply event_kept | with_reducible apply wrMem_kept | with_reducible apply semAdd_kept
    | with_reducible apply panSet_kept | with_reducible apply panHalt_kept | dsimp +zetaHave only | split)

/-! ### Contexts -/

theorem writeSave_kept {z : State} (s : State) (x : Ctx) (state : Nat) (hs : Kept z s) :
    Kept z (writeSave s x state) := by
  unfold writeSave
  repeat' (first | with_reducible assumption | with_reducible apply wrHost_kept)

theorem touchCtx_kept {z : State} (s : State) (c : Nat) (hs : Kept z s) :
    Kept z (touchCtx s c) := by
  unfold touchCtx
  repeat' (first
    | with_reducible assumption | with_reducible apply updCtx_kept | dsimp +zetaHave only
    | fail_if_no_progress with_reducible apply Kept.upd)

theorem writeEntry_kept {z : State} (s : State) (c : Nat) (e : Entry) (hs : Kept z s) :
    Kept z (writeEntry s c e) := by
  unfold writeEntry
  repeat' (first
    | with_reducible assumption | with_reducible apply wrHost_kept | with_reducible apply sendVector_kept
    | with_reducible apply updCtx_kept | with_reducible apply touchCtx_kept | dsimp +zetaHave only | split)

theorem noteIdle_kept {z : State} (s : State) (c : Nat) (hs : Kept z s) :
    Kept z (noteIdle s c) := by
  unfold noteIdle
  repeat' (first
    | with_reducible assumption | dsimp +zetaHave only | split | fail_if_no_progress with_reducible apply Kept.upd)

theorem takeTail_kept {z : State} (s : State) (c t : Nat) (hs : Kept z s) :
    Kept z (takeTail s c t) := by
  unfold takeTail
  repeat' (first
    | with_reducible assumption | with_reducible apply updCtx_kept | with_reducible apply writeEntry_kept
    | dsimp +zetaHave only | split)

theorem takeTails_kept {z : State} (s : State) (c : Nat) (ts : List Nat) (hs : Kept z s) :
    Kept z (takeTails s c ts) := by
  unfold takeTails
  repeat' (first
    | with_reducible assumption | intro _ | with_reducible apply takeTail_kept | with_reducible apply foldl_kept)

theorem trackCtx_kept {z : State} (s : State) (x : Ctx) (hs : Kept z s) :
    Kept z (trackCtx s x) := by
  unfold trackCtx
  repeat' (first
    | with_reducible assumption | dsimp +zetaHave only | fail_if_no_progress with_reducible apply Kept.upd)

theorem finishLoad_kept {z : State} (s : State) (c : Nat) (tails : List Nat) (hs : Kept z s) :
    Kept z (finishLoad s c tails) := by
  unfold finishLoad
  repeat' (first
    | with_reducible assumption | with_reducible apply countA_kept | with_reducible apply writeEntry_kept
    | with_reducible apply takeTails_kept | with_reducible apply trackCtx_kept | dsimp +zetaHave only | split
    | fail_if_no_progress with_reducible apply Kept.upd)

theorem startLoad_kept {z : State} (s : State) (c : Nat) (tails : List Nat) (use : Nat) (hs : Kept z s) :
    Kept z (startLoad s c tails use) := by
  unfold startLoad
  repeat' (first
    | with_reducible assumption | dsimp +zetaHave only | fail_if_no_progress with_reducible apply Kept.upd)

theorem startSpill_kept {z : State} (s : State) (c how : Nat) (hs : Kept z s) :
    Kept z (startSpill s c how) := by
  unfold startSpill
  repeat' (first
    | with_reducible assumption | with_reducible apply updCtx_kept | dsimp +zetaHave only
    | fail_if_no_progress with_reducible apply Kept.upd)

theorem queueEntry_kept {z : State} (s : State) (e : OvqEntry) (hs : Kept z s) :
    Kept z (queueEntry s e) := by
  unfold queueEntry
  repeat' (first
    | with_reducible assumption | with_reducible apply setA_kept | dsimp +zetaHave only
    | fail_if_no_progress with_reducible apply Kept.upd)

theorem makePlace_kept {z : State} (s u : State) (h : makePlace s = some u) (hs : Kept z s) : Kept z u := by
  unfold makePlace at h
  split at h
  · cases h; exact hs
  · split at h
    · cases h; exact startSpill_kept _ _ _ hs
    · split at h
      · cases h; exact startSpill_kept _ _ _ hs
      · cases h

theorem tickUse_kept {z : State} (s : State) (hs : Kept z s) :
    Kept z (tickUse s) := by
  unfold tickUse
  repeat' (first
    | with_reducible assumption | dsimp +zetaHave only | fail_if_no_progress with_reducible apply Kept.upd)

theorem updEntry_kept {z : State} (s : State) (c : Nat) (f : OvqEntry → OvqEntry) (hs : Kept z s) :
    Kept z (updEntry s c f) := by
  unfold updEntry
  repeat' (first
    | with_reducible assumption | dsimp +zetaHave only | split | fail_if_no_progress with_reducible apply Kept.upd)

theorem placeContext_kept {z : State} (s0 : State) (c t : Nat) (hs0 : Kept z s0) : Kept z (placeContext s0 c t) := by
  have h0 := tickUse_kept s0 hs0
  unfold placeContext
  dsimp +zetaHave only
  split
  · exact updEntry_kept _ _ _ h0
  · cases h : makePlace (tickUse s0) with
    | some u => exact startLoad_kept _ _ _ _ (makePlace_kept _ _ h h0)
    | none => exact countA_kept _ _ _ (queueEntry_kept _ _ h0)

theorem sqDoorbell_kept {z : State} (s0 : State) (c t : Nat) (hs0 : Kept z s0) :
    Kept z (sqDoorbell s0 c t) := by
  unfold sqDoorbell
  repeat' (first
    | with_reducible assumption | with_reducible apply countA_kept | with_reducible apply noteMerge_kept
    | with_reducible apply updCtx_kept | with_reducible apply touchCtx_kept | with_reducible apply noteIdle_kept
    | with_reducible apply takeTail_kept | with_reducible apply placeContext_kept | dsimp +zetaHave only | split)

theorem spillOut_kept {z : State} (s : State) (x : Ctx) (how : Nat) (hs : Kept z s) :
    Kept z (spillOut s x how) := by
  unfold spillOut
  repeat' (first
    | with_reducible assumption | with_reducible apply countA_kept | with_reducible apply writeSave_kept
    | with_reducible apply queueEntry_kept | dsimp +zetaHave only | split
    | fail_if_no_progress with_reducible apply Kept.upd)

theorem loadEntry_kept {z : State} (s : State) (e : OvqEntry) (hs : Kept z s) :
    Kept z (loadEntry s e) := by
  unfold loadEntry
  repeat' (first
    | with_reducible assumption | with_reducible apply startLoad_kept | dsimp +zetaHave only
    | fail_if_no_progress with_reducible apply Kept.upd)

theorem cqUntracked_kept {z : State} (s : State) (c h : Nat) (hs : Kept z s) :
    Kept z (cqUntracked s c h) := by
  unfold cqUntracked
  repeat' (first
    | with_reducible assumption | with_reducible apply countA_kept | with_reducible apply writeSave_kept
    | dsimp +zetaHave only | split | fail_if_no_progress with_reducible apply Kept.upd)

theorem cqDoorbell_kept {z : State} (s0 : State) (c h : Nat) (hs0 : Kept z s0) :
    Kept z (cqDoorbell s0 c h) := by
  unfold cqDoorbell
  repeat' (first
    | with_reducible assumption | with_reducible apply countA_kept | with_reducible apply noteMerge_kept
    | with_reducible apply updCtx_kept | with_reducible apply touchCtx_kept | with_reducible apply tickUse_kept
    | with_reducible apply updEntry_kept | with_reducible apply cqUntracked_kept | dsimp +zetaHave only | split)

theorem placeResumed_kept {z : State} (s : State) (y : Ctx) (hs : Kept z s) : Kept z (placeResumed s y) := by
  unfold placeResumed
  dsimp +zetaHave only
  cases h : makePlace s with
  | some u =>
    have hu := makePlace_kept _ _ h hs
    exact takeTails_kept _ _ _ (trackCtx_kept _ _ (Kept.upd hu ..))
  | none =>
    have h2 : Kept z ({ (writeSave s y 4) with rings := { (writeSave s y 4).rings with
        saved := (writeSave s y 4).rings.saved.filter (fun z => z.num != y.num) ++
          (if y.held.isEmpty then [] else [y]) } } : State) := Kept.upd (writeSave_kept _ _ _ hs) ..
    dsimp only
    split
    · exact updEntry_kept _ _ _ h2
    · exact queueEntry_kept _ _ h2

theorem onHalted_kept {z : State} (s : State) (c : Nat) (f : Ctx → Option Ctx) (hs : Kept z s) :
    Kept z (onHalted s c f) := by
  unfold onHalted
  repeat' (first
    | with_reducible assumption | with_reducible apply updCtx_kept | with_reducible apply placeResumed_kept
    | dsimp +zetaHave only | split)

theorem ctxResume_kept {z : State} (s : State) (c : Nat) (hs : Kept z s) :
    Kept z (ctxResume s c) := by
  unfold ctxResume
  repeat' (first | with_reducible assumption | with_reducible apply onHalted_kept)

theorem ctxResumeAtHead_kept {z : State} (s : State) (c head : Nat) (hs : Kept z s) :
    Kept z (ctxResumeAtHead s c head) := by
  unfold ctxResumeAtHead
  repeat' (first | with_reducible assumption | with_reducible apply onHalted_kept)

theorem resetContext_kept {z : State} (s : State) (c : Nat) (hs : Kept z s) :
    Kept z (resetContext s c) := by
  unfold resetContext
  repeat' (first
    | with_reducible assumption | with_reducible apply wrHost_kept | dsimp +zetaHave only
    | fail_if_no_progress with_reducible apply Kept.upd)

theorem ctxReset_kept {z : State} (s : State) (c : Nat) (hs : Kept z s) :
    Kept z (ctxReset s c) := by
  unfold ctxReset
  repeat' (first
    | with_reducible assumption | with_reducible apply setA_kept | with_reducible apply updCtx_kept
    | with_reducible apply resetContext_kept | dsimp +zetaHave only | split)

theorem finishReset_kept {z : State} (s : State) (hs : Kept z s) :
    Kept z (finishReset s) := by
  unfold finishReset
  repeat' (first
    | with_reducible assumption | with_reducible apply setA_kept | with_reducible apply resetContext_kept
    | dsimp +zetaHave only | split)

theorem ringDisable_kept {z : State} (s : State) (hs : Kept z s) :
    Kept z (ringDisable s) := by
  unfold ringDisable
  repeat' (first | with_reducible assumption | with_reducible apply setA_kept | split)

theorem writeBack_kept {z : State} (s : State) (c : Nat) (tails : List Nat) (hs : Kept z s) :
    Kept z (writeBack s c tails) := by
  unfold writeBack
  repeat' (first
    | with_reducible assumption | with_reducible apply writeSave_kept | with_reducible apply finishLoad_kept
    | dsimp +zetaHave only | split | fail_if_no_progress with_reducible apply Kept.upd)

theorem drainSpill_kept {z : State} (s : State) (x : Ctx) (hs : Kept z s) :
    Kept z (drainSpill s x) := by
  unfold drainSpill
  repeat' (first
    | with_reducible assumption | with_reducible apply finishLoad_kept | with_reducible apply spillOut_kept
    | dsimp +zetaHave only | split)

/-! ### Time -/

theorem setTai_kept {z : State} (s : State) (t : Nat) (hs : Kept z s) :
    Kept z (setTai s t) := by
  unfold setTai
  repeat' (first
    | with_reducible assumption | dsimp +zetaHave only | fail_if_no_progress with_reducible apply Kept.upd)

theorem takeTick_kept {z : State} (s : State) (k : Nat) (hs : Kept z s) :
    Kept z (takeTick s k) := by
  unfold takeTick
  repeat' (first
    | with_reducible assumption | with_reducible apply set2_kept | dsimp +zetaHave only | split
    | fail_if_no_progress with_reducible apply Kept.upd)

theorem runChanged_kept {z : State} (s : State) (wasRun : Bool) (hs : Kept z s) :
    Kept z (runChanged s wasRun) := by
  unfold runChanged
  repeat' (first
    | with_reducible assumption | dsimp +zetaHave only | split | fail_if_no_progress with_reducible apply Kept.upd)

theorem tickTai_kept {z : State} (s : State) (hs : Kept z s) :
    Kept z (tickTai s) := by
  unfold tickTai
  repeat' (first
    | with_reducible assumption | dsimp +zetaHave only | split | fail_if_no_progress with_reducible apply Kept.upd)

theorem tickIfDue_kept {z : State} (s : State) (hs : Kept z s) :
    Kept z (tickIfDue s) := by
  unfold tickIfDue
  repeat' (first | with_reducible assumption | with_reducible apply takeTick_kept | split)

theorem stampBegin_kept {z : State} (s : State) (ctx idx : Nat) (hs : Kept z s) :
    Kept z (stampBegin s ctx idx) := by
  unfold stampBegin
  repeat' (first | with_reducible assumption | with_reducible apply updOp_kept)

theorem linkSet_kept {z : State} (s : State) (n : Nat) (l : LinkRt) (hs : Kept z s) :
    Kept z (linkSet s n l) := by
  unfold linkSet
  repeat' (first
    | with_reducible assumption | dsimp +zetaHave only | fail_if_no_progress with_reducible apply Kept.upd
    | with_reducible apply Kept.links)

theorem sendChain_kept {z : State} (s : State) (n : Nat) (f : ChainFrame) (hs : Kept z s) :
    Kept z (sendChain s n f) := by
  unfold sendChain
  repeat' (first | with_reducible assumption | with_reducible apply linkSet_kept)

theorem sendChainAll_kept {z : State} (s : State) (f : ChainFrame) (hs : Kept z s) :
    Kept z (sendChainAll s f) := by
  unfold sendChainAll
  repeat' (first
    | with_reducible assumption | intro _ | with_reducible apply sendChain_kept | with_reducible apply foldl_kept)

theorem setActive_kept {z : State} (s : State) (l : Nat × Nat) (hs : Kept z s) :
    Kept z (setActive s l) := by
  unfold setActive
  repeat' (first
    | with_reducible assumption | with_reducible apply setB_kept | with_reducible apply countB_kept
    | dsimp +zetaHave only | split | fail_if_no_progress with_reducible apply Kept.upd)

theorem enterHoldover_kept {z : State} (s : State) (hs : Kept z s) :
    Kept z (enterHoldover s) := by
  unfold enterHoldover
  repeat' (first
    | with_reducible assumption | with_reducible apply setB_kept | dsimp +zetaHave only
    | fail_if_no_progress with_reducible apply Kept.upd)

theorem loseLock_kept {z : State} (s : State) (hs : Kept z s) :
    Kept z (loseLock s) := by
  unfold loseLock
  repeat' (first
    | with_reducible assumption | with_reducible apply setB_kept | with_reducible apply setActive_kept
    | with_reducible apply enterHoldover_kept | dsimp +zetaHave only | split
    | fail_if_no_progress with_reducible apply Kept.upd)

theorem setGnss_kept {z : State} (s : State) (g : Gnss) (hs : Kept z s) :
    Kept z (setGnss s g) := by
  unfold setGnss
  repeat' (first
    | with_reducible assumption | dsimp +zetaHave only | fail_if_no_progress with_reducible apply Kept.upd)

theorem stepBy_kept {z : State} (s : State) (off : Int) (hs : Kept z s) :
    Kept z (stepBy s off) := by
  unfold stepBy
  repeat' (first
    | with_reducible assumption | dsimp +zetaHave only | fail_if_no_progress with_reducible apply Kept.upd)

theorem slewBy_kept {z : State} (s : State) (off : Int) (hs : Kept z s) :
    Kept z (slewBy s off) := by
  unfold slewBy
  repeat' (first
    | with_reducible assumption | dsimp +zetaHave only | fail_if_no_progress with_reducible apply Kept.upd)

theorem followBy_kept {z : State} (s : State) (off : Int) (hs : Kept z s) :
    Kept z (followBy s off) := by
  unfold followBy
  repeat' (first
    | with_reducible assumption | with_reducible apply stepBy_kept | with_reducible apply slewBy_kept | split)

theorem ppsMeasured_kept {z : State} (s : State) (off : Int) (hs : Kept z s) :
    Kept z (ppsMeasured s off) := by
  unfold ppsMeasured
  repeat' (first
    | with_reducible assumption | with_reducible apply setB_kept | with_reducible apply countB_kept
    | with_reducible apply setActive_kept | with_reducible apply loseLock_kept | with_reducible apply setGnss_kept
    | with_reducible apply stepBy_kept | with_reducible apply slewBy_kept | dsimp +zetaHave only | split)

theorem badMessage_kept {z : State} (s : State) (hs : Kept z s) :
    Kept z (badMessage s) := by
  unfold badMessage
  repeat' (first
    | with_reducible assumption | with_reducible apply countB_kept | with_reducible apply loseLock_kept
    | with_reducible apply setGnss_kept | dsimp +zetaHave only | split)

theorem stampOut_kept {z : State} (s : State) (link : Nat) (f : ChainFrame) (hs : Kept z s) :
    Kept z (stampOut s link f).1 := by
  unfold stampOut
  repeat' (first
    | with_reducible assumption | dsimp +zetaHave only | split | fail_if_no_progress with_reducible apply Kept.upd)

theorem leadFrameSeen_kept {z : State} (s : State) (link : Nat) (hs : Kept z s) :
    Kept z (leadFrameSeen s link) := by
  unfold leadFrameSeen
  repeat' (first
    | with_reducible assumption | dsimp +zetaHave only | split | fail_if_no_progress with_reducible apply Kept.upd)

theorem timeFrame_kept {z : State} (s0 : State) (link kind seq stamp : Nat) (hs0 : Kept z s0) :
    Kept z (timeFrame s0 link kind seq stamp) := by
  unfold timeFrame
  repeat' (first
    | with_reducible assumption | with_reducible apply setB_kept | with_reducible apply sendChain_kept
    | with_reducible apply followBy_kept | with_reducible apply leadFrameSeen_kept | dsimp +zetaHave only | split
    | fail_if_no_progress with_reducible apply Kept.upd)

theorem timeSet_kept {z : State} (s : State) (ns : Nat) (hs : Kept z s) :
    Kept z (timeSet s ns) := by
  unfold timeSet
  repeat' (first
    | with_reducible assumption | with_reducible apply setB_kept | with_reducible apply setTai_kept
    | dsimp +zetaHave only | split)

theorem slotEnable_kept {z : State} (s : State) (hs : Kept z s) :
    Kept z (slotEnable s) := by
  unfold slotEnable
  repeat' (first | with_reducible assumption | with_reducible apply setA_kept | dsimp +zetaHave only | split)

/-! ### Fabric -/

theorem axisPublish_kept {z : State} (s : State) (hs : Kept z s) :
    Kept z (axisPublish s) := by
  unfold axisPublish
  repeat' (first
    | with_reducible assumption | intro _ | with_reducible apply setF_kept | with_reducible apply foldl_kept)

theorem markMiswired_kept {z : State} (s : State) (hs : Kept z s) :
    Kept z (markMiswired s) := by
  unfold markMiswired
  repeat' (first
    | with_reducible assumption | intro _ | with_reducible apply setL_kept | with_reducible apply foldl_kept
    | with_reducible apply foldl1_kept | dsimp +zetaHave only | split)

theorem axisEnable_kept {z : State} (s : State) (hs : Kept z s) :
    Kept z (axisEnable s) := by
  unfold axisEnable
  repeat' (first
    | with_reducible assumption | with_reducible apply setA_kept | with_reducible apply axisPublish_kept
    | with_reducible apply markMiswired_kept | split)

theorem sendMsg_kept {z : State} (s : State) (cls chip slot : Nat) (m : Msg) (hs : Kept z s) :
    Kept z (sendMsg s cls chip slot m) := by
  unfold sendMsg
  repeat' (first
    | with_reducible assumption | dsimp +zetaHave only | fail_if_no_progress with_reducible apply Kept.upd)

theorem routeEnable_kept {z : State} (s : State) (hs : Kept z s) :
    Kept z (routeEnable s) := by
  unfold routeEnable
  repeat' (first | with_reducible assumption | with_reducible apply setA_kept | split)

theorem ackMsg_kept {z : State} (s : State) (m : Msg) (hs : Kept z s) :
    Kept z (ackMsg s m) := by
  unfold ackMsg
  repeat' (first | with_reducible assumption | with_reducible apply sendMsg_kept)

theorem sendVerdict_kept {z : State} (s : State) (m : Msg) (e : Option (Nat × Nat)) (hs : Kept z s) :
    Kept z (sendVerdict s m e) := by
  unfold sendVerdict
  repeat' (first | with_reducible assumption | with_reducible apply sendMsg_kept)

theorem remoteDone_kept {z : State} (s : State) (ctx idx : Nat) (skip : Bool) (hs : Kept z s) :
    Kept z (remoteDone s ctx idx skip) := by
  unfold remoteDone
  repeat' (first
    | with_reducible assumption | with_reducible apply updOp_kept | with_reducible apply finishOp_kept
    | dsimp +zetaHave only | split)

theorem semWrite_kept {z : State} (s : State) (off size data : Nat) (hs : Kept z s) :
    Kept z (semWrite s off size data) := by
  unfold semWrite
  repeat' (first
    | with_reducible assumption | with_reducible apply countA_kept | with_reducible apply semAdd_kept | split)

/-! ### Moves -/

theorem cpSendAll_kept {z : State} (s : State) (o : Op) (hs : Kept z s) :
    Kept z (cpSendAll s o) := by
  unfold cpSendAll
  repeat' (first
    | with_reducible assumption | intro _ | with_reducible apply event_kept | with_reducible apply updOp_kept
    | with_reducible apply sendMsg_kept | with_reducible apply foldl_kept)

theorem cpOwn_kept {z : State} (s : State) (o : Op) (hs : Kept z s) :
    Kept z (cpOwn s o) := by
  unfold cpOwn
  repeat' (first
    | with_reducible assumption | with_reducible apply event_kept | with_reducible apply wrMem_kept
    | with_reducible apply finishOp_kept | with_reducible apply holdTrain_kept)

theorem writeLand_kept {z : State} (s : State) (m : Msg) (off : Nat) (data : List Byte) (step : Nat) (hs : Kept z s) :
    Kept z (writeLand s m off data step) := by
  unfold writeLand
  repeat' (first
    | with_reducible assumption | with_reducible apply wrMem_kept | with_reducible apply sendMsg_kept
    | with_reducible apply ackMsg_kept | dsimp +zetaHave only | split
    | fail_if_no_progress with_reducible apply Kept.upd)

theorem heldDecide_kept {z : State} (s : State) (h : HeldWrite) (hs : Kept z s) :
    Kept z (heldDecide s h) := by
  unfold heldDecide
  repeat' (first
    | with_reducible assumption | with_reducible apply wrMem_kept | with_reducible apply sendMsg_kept
    | with_reducible apply ackMsg_kept | dsimp +zetaHave only | split
    | fail_if_no_progress with_reducible apply Kept.upd)

theorem releaseHeld_kept {z : State} (s : State) (hs : Kept z s) :
    Kept z (releaseHeld s) := by
  unfold releaseHeld
  repeat' (first
    | with_reducible assumption | intro _ | with_reducible apply heldDecide_kept | with_reducible apply foldl_kept
    | dsimp +zetaHave only | fail_if_no_progress with_reducible apply Kept.upd)

theorem setYard_kept {z : State} (s : State) (ctx idx n : Nat) (m : Bool) (hs : Kept z s) :
    Kept z (setYard s ctx idx n m) := by
  unfold setYard
  repeat' (first | with_reducible assumption | with_reducible apply updOp_kept)

theorem setMoving_kept {z : State} (s : State) (p : Nat) (present moving : Bool) (hs : Kept z s) :
    Kept z (setMoving s p present moving) := by
  unfold setMoving
  repeat' (first | with_reducible assumption | with_reducible apply wrBits_kept)

theorem yardPump_kept {z : State} (a0 : Nat) (a1 : State) (a2 : Nat) (a3 : Nat) (ha1 : Kept z a1) :
    Kept z (yardPump a0 a1 a2 a3) := by
  induction a0 generalizing a1 a2 a3 with
  | zero =>
    unfold yardPump
    repeat' (first | with_reducible assumption)
  | succ n ih =>
    unfold yardPump
    repeat' (first
      | with_reducible apply ih | with_reducible assumption | with_reducible apply finishOp_kept
      | with_reducible apply setYard_kept | with_reducible apply setMoving_kept | dsimp +zetaHave only | split)

theorem yardBegin_kept {z : State} (s : State) (ctx idx : Nat) (hs : Kept z s) :
    Kept z (yardBegin s ctx idx) := by
  unfold yardBegin
  repeat' (first
    | with_reducible assumption | with_reducible apply faultOr_kept | with_reducible apply setYard_kept
    | with_reducible apply yardPump_kept | split)

theorem fetchFailed_kept {z : State} (s : State) (o : Op) (p dig : Nat) (hs : Kept z s) :
    Kept z (fetchFailed s o p dig) := by
  unfold fetchFailed
  repeat' (first
    | with_reducible assumption | intro _ | with_reducible apply endOp_kept
    | with_reducible apply endWithRecord_kept | with_reducible apply skidFree_kept
    | with_reducible apply setMoving_kept | with_reducible apply foldl_kept)

theorem fetchDone_kept {z : State} (s : State) (o : Op) (alt : List (Nat × Byte)) (hs : Kept z s) :
    Kept z (fetchDone s o alt) := by
  unfold fetchDone
  repeat' (first
    | with_reducible assumption | with_reducible apply countA_kept | with_reducible apply event_kept
    | with_reducible apply wrMem_kept | with_reducible apply setYard_kept | with_reducible apply setMoving_kept
    | with_reducible apply fetchFailed_kept | dsimp +zetaHave only | split)

theorem evictDone_kept {z : State} (s : State) (o : Op) (hs : Kept z s) :
    Kept z (evictDone s o) := by
  unfold evictDone
  repeat' (first
    | with_reducible assumption | with_reducible apply countA_kept | with_reducible apply event_kept
    | with_reducible apply wrNat_kept | with_reducible apply wrHost_kept | with_reducible apply setYard_kept
    | with_reducible apply setMoving_kept)

theorem transferDone_kept {z : State} (s : State) (o : Op) (alt : List (Nat × Byte)) (hs : Kept z s) :
    Kept z (transferDone s o alt) := by
  unfold transferDone
  repeat' (first
    | with_reducible assumption | with_reducible apply fetchDone_kept | with_reducible apply evictDone_kept
    | split)

theorem yardPumpAll_kept {z : State} (s : State) (hs : Kept z s) :
    Kept z (yardPumpAll s) := by
  unfold yardPumpAll
  repeat' (first
    | with_reducible assumption | intro _ | with_reducible apply yardPump_kept | with_reducible apply foldl_kept)

theorem yardRun_kept {z : State} (a0 : Nat) (a1 : State) (a2 : Nat) (a3 : Nat) (ha1 : Kept z a1) :
    Kept z (yardRun a0 a1 a2 a3) := by
  induction a0 generalizing a1 a2 a3 with
  | zero =>
    unfold yardRun
    repeat' (first | with_reducible assumption)
  | succ n ih =>
    unfold yardRun
    repeat' (first
      | with_reducible apply ih | with_reducible assumption | with_reducible apply yardPump_kept
      | with_reducible apply transferDone_kept | dsimp +zetaHave only | split)

theorem importEnd_kept {z : State} (s : State) (o : Op) (hs : Kept z s) :
    Kept z (importEnd s o) := by
  unfold importEnd
  repeat' (first
    | with_reducible assumption | with_reducible apply wrMem_kept | with_reducible apply rederive_kept
    | dsimp +zetaHave only | split)

theorem replicaTake_kept {z : State} (s : State) (tag chip : Nat) (v : List Byte) (hs : Kept z s) :
    Kept z (replicaTake s tag chip v) := by
  unfold replicaTake
  repeat' (first
    | with_reducible assumption | dsimp +zetaHave only | fail_if_no_progress with_reducible apply Kept.upd)

theorem replicaCompare_kept {z : State} (s : State) (ctx idx : Nat) (hs : Kept z s) :
    Kept z (replicaCompare s ctx idx) := by
  unfold replicaCompare
  repeat' (first
    | with_reducible assumption | with_reducible apply endOp_kept | with_reducible apply endWithRecord_kept
    | dsimp +zetaHave only | split | fail_if_no_progress with_reducible apply Kept.upd)

theorem replicaCount_kept {z : State} (s : State) (o : Op) (st : Status) (hs : Kept z s) :
    Kept z (replicaCount s o st) := by
  unfold replicaCount
  repeat' (first | with_reducible assumption | with_reducible apply countA_kept | split)

theorem replicaStart_kept {z : State} (s : State) (ctx idx : Nat) (o : Op) (hs : Kept z s) :
    Kept z (replicaStart s ctx idx o) := by
  unfold replicaStart
  repeat' (first
    | with_reducible assumption | intro _ | with_reducible apply countSha_kept | with_reducible apply updOp_kept
    | with_reducible apply sendMsg_kept | with_reducible apply replicaCompare_kept
    | with_reducible apply foldl_kept)

theorem replicaArrive_kept {z : State} (s : State) (tag chip : Nat) (v : List Byte) (hs : Kept z s) :
    Kept z (replicaArrive s tag chip v) := by
  unfold replicaArrive
  repeat' (first
    | with_reducible assumption | with_reducible apply replicaTake_kept | with_reducible apply replicaCompare_kept
    | dsimp +zetaHave only | split)

/-! ### Chain -/

theorem treeUpdate_kept {z : State} (s : State) (hs : Kept z s) :
    Kept z (treeUpdate s) := by
  unfold treeUpdate
  repeat' (first
    | with_reducible assumption | with_reducible apply setA_kept | dsimp +zetaHave only | split
    | fail_if_no_progress with_reducible apply Kept.upd)

theorem leadPut_kept {z : State} (s : State) (c rank state : Nat) (hs : Kept z s) :
    Kept z (leadPut s c rank state) := by
  unfold leadPut
  repeat' (first
    | with_reducible assumption | dsimp +zetaHave only | fail_if_no_progress with_reducible apply Kept.upd)

theorem leadNamed_kept {z : State} (s : State) (rank state active : Nat) (hs : Kept z s) :
    Kept z (leadNamed s rank state active) := by
  unfold leadNamed
  repeat' (first | with_reducible assumption | with_reducible apply leadPut_kept | dsimp +zetaHave only | split)

theorem hearLead_kept {z : State} (s : State) (rank state hopsLead chip active : Nat) (hs : Kept z s) :
    Kept z (hearLead s rank state hopsLead chip active) := by
  unfold hearLead
  repeat' (first
    | with_reducible assumption | with_reducible apply setB_kept | with_reducible apply setActive_kept
    | with_reducible apply leadPut_kept | with_reducible apply leadNamed_kept | dsimp +zetaHave only | split
    | fail_if_no_progress with_reducible apply Kept.upd)

theorem takeAnnounce_kept {z : State} (s : State) (link rank state hopsLead hops0 chip active parent : Nat)
    (hs : Kept z s) :
    Kept z (takeAnnounce s link rank state hopsLead hops0 chip active parent) := by
  unfold takeAnnounce
  repeat' (first
    | with_reducible assumption | with_reducible apply treeUpdate_kept | with_reducible apply hearLead_kept
    | dsimp +zetaHave only | fail_if_no_progress with_reducible apply Kept.upd)

theorem barrierSet_kept {z : State} (s : State) (b : Nat) (x : BarrierRt) (hs : Kept z s) :
    Kept z (barrierSet s b x) := by
  unfold barrierSet
  repeat' (first
    | with_reducible assumption | dsimp +zetaHave only | fail_if_no_progress with_reducible apply Kept.upd
    | with_reducible apply Kept.barriers)

theorem sendChainTo_kept {z : State} (s : State) (chip : Nat) (f : ChainFrame) (hs : Kept z s) :
    Kept z (sendChainTo s chip f) := by
  unfold sendChainTo
  repeat' (first | with_reducible assumption | with_reducible apply sendChain_kept | split)

theorem instPut_kept {z : State} (s : State) (x : ChainInst) (hs : Kept z s) :
    Kept z (instPut s x) := by
  unfold instPut
  repeat' (first
    | with_reducible assumption | dsimp +zetaHave only | fail_if_no_progress with_reducible apply Kept.upd)

theorem instResult_kept {z : State} (s : State) (x : ChainInst) (v : Nat) (hs : Kept z s) :
    Kept z (instResult s x v) := by
  unfold instResult
  repeat' (first
    | with_reducible assumption | intro _ | with_reducible apply sendChainTo_kept
    | with_reducible apply instPut_kept | with_reducible apply foldl_kept)

theorem instPump_kept {z : State} (s : State) (x : ChainInst) (hs : Kept z s) :
    Kept z (instPump s x) := by
  unfold instPump
  repeat' (first
    | with_reducible assumption | with_reducible apply sendChainTo_kept | with_reducible apply instPut_kept
    | with_reducible apply instResult_kept | dsimp +zetaHave only | split)

theorem chainGive_kept {z : State} (s : State) (op chan gen index v : Nat) (hs : Kept z s) :
    Kept z (chainGive s op chan gen index v) := by
  unfold chainGive
  repeat' (first | with_reducible assumption | with_reducible apply instPut_kept | with_reducible apply instPump_kept)

theorem takeContribution_kept {z : State} (s : State) (link op chan gen index v : Nat) (hs : Kept z s) :
    Kept z (takeContribution s link op chan gen index v) := by
  unfold takeContribution
  repeat' (first
    | with_reducible assumption | with_reducible apply sendChain_kept | with_reducible apply instPut_kept
    | with_reducible apply instPump_kept | dsimp +zetaHave only | split)

theorem takeResult_kept {z : State} (s : State) (chan gen index v : Nat) (hs : Kept z s) :
    Kept z (takeResult s chan gen index v) := by
  unfold takeResult
  repeat' (first | with_reducible assumption | with_reducible apply instResult_kept | split)

theorem chainPump_kept {z : State} (s : State) (hs : Kept z s) :
    Kept z (chainPump s) := by
  unfold chainPump
  repeat' (first
    | with_reducible assumption | intro _ | with_reducible apply instPump_kept | with_reducible apply foldl_kept)

theorem repeatContribution_kept {z : State} (s : State) (x : ChainInst) (hs : Kept z s) :
    Kept z (repeatContribution s x) := by
  unfold repeatContribution
  repeat' (first
    | with_reducible assumption | with_reducible apply countA_kept | with_reducible apply event_kept
    | with_reducible apply sendChainTo_kept | with_reducible apply instPut_kept | dsimp +zetaHave only | split)

theorem barrierArrive_kept {z : State} (s : State) (ctx idx b : Nat) (hs : Kept z s) :
    Kept z (barrierArrive s ctx idx b) := by
  unfold barrierArrive
  repeat' (first
    | with_reducible assumption | with_reducible apply updOp_kept | with_reducible apply barrierSet_kept
    | with_reducible apply chainGive_kept)

theorem barrierTake_kept {z : State} (a0 : Nat) (a1 : State) (a2 : Nat) (ha1 : Kept z a1) :
    Kept z (barrierTake a0 a1 a2) := by
  induction a0 generalizing a1 a2 with
  | zero =>
    unfold barrierTake
    repeat' (first | with_reducible assumption)
  | succ n ih =>
    unfold barrierTake
    repeat' (first
      | with_reducible apply ih | with_reducible assumption | with_reducible apply endOp_kept
      | with_reducible apply barrierSet_kept | with_reducible apply barrierArrive_kept | dsimp +zetaHave only
      | split)

theorem barriersTake_kept {z : State} (s : State) (hs : Kept z s) :
    Kept z (barriersTake s) := by
  unfold barriersTake
  repeat' (first
    | with_reducible assumption | intro _ | with_reducible apply barrierTake_kept
    | with_reducible apply foldl_kept)

theorem barrierAnew_kept {z : State} (s : State) (b : Nat) (hs : Kept z s) :
    Kept z (barrierAnew s b) := by
  unfold barrierAnew
  repeat' (first
    | with_reducible assumption | dsimp +zetaHave only | fail_if_no_progress with_reducible apply Kept.upd)

theorem barrierWrite_kept {z : State} (s : State) (b data : Nat) (hs : Kept z s) :
    Kept z (barrierWrite s b data) := by
  unfold barrierWrite
  repeat' (first
    | with_reducible assumption | with_reducible apply barrierSet_kept | with_reducible apply barrierAnew_kept
    | dsimp +zetaHave only | split)

theorem chainSettle_kept {z : State} (s : State) (hs : Kept z s) :
    Kept z (chainSettle s) := by
  unfold chainSettle
  repeat' (first
    | with_reducible assumption | with_reducible apply setA_kept | with_reducible apply treeUpdate_kept
    | with_reducible apply chainPump_kept | with_reducible apply barriersTake_kept | split)

/-! ### Derail -/

theorem targetsOf_kept {z : State} (s : State) (d : Desc) (g : Nat) (hs : Kept z s) :
    Kept z (targetsOf s d g) := by
  unfold targetsOf
  repeat' (first | with_reducible assumption | with_reducible apply wrMem_kept)

theorem setDrl_kept {z : State} (s : State) (ctx idx : Nat) (f : DrlWork → DrlWork) (hs : Kept z s) :
    Kept z (setDrl s ctx idx f) := by
  unfold setDrl
  repeat' (first | with_reducible assumption | with_reducible apply updOp_kept)

theorem sendPiece_kept {z : State} (s : State) (o : Op) (k : Nat) (hs : Kept z s) :
    Kept z (sendPiece s o k) := by
  unfold sendPiece
  repeat' (first | with_reducible assumption | with_reducible apply sendMsg_kept)

theorem landPiece_kept {z : State} (s : State) (d : Desc) (g : Nat) (x : PieceKey) (v : List Byte) (hs : Kept z s) :
    Kept z (landPiece s d g x v) := by
  unfold landPiece
  repeat' (first | with_reducible assumption | with_reducible apply wrMem_kept)

theorem markLanded_kept {z : State} (s : State) (o : Op) (k : Nat) (hs : Kept z s) :
    Kept z (markLanded s o k) := by
  unfold markLanded
  repeat' (first | with_reducible assumption | with_reducible apply countA_kept | with_reducible apply setDrl_kept)

theorem sendRound_kept {z : State} (s : State) (o : Op) (g r : Nat) (hs : Kept z s) :
    Kept z (sendRound s o g r) := by
  unfold sendRound
  repeat' (first
    | with_reducible assumption | intro _ | with_reducible apply setDrl_kept | with_reducible apply sendPiece_kept
    | with_reducible apply landPiece_kept | with_reducible apply markLanded_kept | with_reducible apply foldl_kept
    | with_reducible apply foldl1_kept | dsimp +zetaHave only | split)

theorem answerPiece_kept {z : State} (s : State) (o : Op) (p : PieceMsg) (ok : Bool) (hs : Kept z s) :
    Kept z (answerPiece s o p ok) := by
  unfold answerPiece
  repeat' (first | with_reducible assumption | with_reducible apply sendMsg_kept)

theorem takePiece_kept {z : State} (s : State) (o : Op) (k : Nat) (p : PieceMsg) (hs : Kept z s) :
    Kept z (takePiece s o k p) := by
  unfold takePiece
  repeat' (first
    | with_reducible assumption | with_reducible apply countA_kept | with_reducible apply targetsOf_kept
    | with_reducible apply setDrl_kept | with_reducible apply landPiece_kept
    | with_reducible apply markLanded_kept | with_reducible apply answerPiece_kept | dsimp +zetaHave only | split)

theorem pieceArrive_kept {z : State} (s : State) (p : PieceMsg) (hs : Kept z s) :
    Kept z (pieceArrive s p) := by
  unfold pieceArrive
  repeat' (first
    | with_reducible assumption | with_reducible apply takePiece_kept | dsimp +zetaHave only | split
    | fail_if_no_progress with_reducible apply Kept.upd)

theorem earlyArrive_kept {z : State} (s : State) (hs : Kept z s) :
    Kept z (earlyArrive s) := by
  unfold earlyArrive
  repeat' (first
    | with_reducible assumption | intro _ | with_reducible apply pieceArrive_kept
    | with_reducible apply foldl_kept | dsimp +zetaHave only | fail_if_no_progress with_reducible apply Kept.upd)

theorem pieceAnswer_kept {z : State} (s : State) (peer : Nat) (x : PieceKey) (ok : Bool) (hs : Kept z s) :
    Kept z (pieceAnswer s peer x ok) := by
  unfold pieceAnswer
  repeat' (first
    | with_reducible assumption | with_reducible apply setDrl_kept | with_reducible apply sendPiece_kept
    | dsimp +zetaHave only | split)

theorem switchParam_kept {z : State} (s : State) (o : Op) (t : State) (p : Nat) (hs : Kept z s) (ht : Kept z t) :
    Kept z (switchParam s o t p) := by
  unfold switchParam
  repeat' (first
    | with_reducible assumption | with_reducible apply wrMem_kept | with_reducible apply rederive_kept
    | with_reducible apply setMoving_kept | dsimp +zetaHave only | split)

theorem switchGroup_kept {z : State} (s : State) (o : Op) (hs : Kept z s) :
    Kept z (switchGroup s o) := by
  unfold switchGroup
  repeat' (first
    | with_reducible assumption | intro _ | with_reducible apply countA_kept | with_reducible apply targetsOf_kept
    | with_reducible apply setDrl_kept | with_reducible apply switchParam_kept | with_reducible apply foldl_kept)

theorem voteFailed_kept {z : State} (s : State) (o : Op) (hs : Kept z s) :
    Kept z (voteFailed s o) := by
  unfold voteFailed
  repeat' (first
    | with_reducible assumption | intro _ | with_reducible apply countA_kept
    | with_reducible apply endWithRecord_kept)

theorem startGroup_kept {z : State} (s : State) (o : Op) (hs : Kept z s) :
    Kept z (startGroup s o) := by
  unfold startGroup
  repeat' (first
    | with_reducible assumption | with_reducible apply ctxFault_kept | with_reducible apply setDrl_kept
    | with_reducible apply sendRound_kept | with_reducible apply earlyArrive_kept | dsimp +zetaHave only | split
    | fail_if_no_progress with_reducible apply Kept.upd)

theorem nextRound_kept {z : State} (s : State) (o : Op) (hs : Kept z s) :
    Kept z (nextRound s o) := by
  unfold nextRound
  repeat' (first | with_reducible assumption | with_reducible apply setDrl_kept | with_reducible apply sendRound_kept)

theorem drlPump_kept {z : State} (a0 : Nat) (a1 : State) (a2 : Nat) (a3 : Nat) (ha1 : Kept z a1) :
    Kept z (drlPump a0 a1 a2 a3) := by
  induction a0 generalizing a1 a2 a3 with
  | zero =>
    unfold drlPump
    repeat' (first | with_reducible assumption)
  | succ n ih =>
    unfold drlPump
    repeat' (first
      | with_reducible apply ih | with_reducible assumption | with_reducible apply endOp_kept
      | with_reducible apply chainGive_kept | with_reducible apply setDrl_kept
      | with_reducible apply switchGroup_kept | with_reducible apply voteFailed_kept
      | with_reducible apply startGroup_kept | with_reducible apply nextRound_kept | dsimp +zetaHave only | split)

theorem reshardTake_kept {z : State} (s : State) (hs : Kept z s) :
    Kept z (reshardTake s) := by
  unfold reshardTake
  repeat' (first | with_reducible assumption | with_reducible apply drlPump_kept | split)

theorem disturbReshard_kept {z : State} (s : State) (brake : Bool) (hs : Kept z s) :
    Kept z (disturbReshard s brake) := by
  unfold disturbReshard
  repeat' (first
    | with_reducible assumption | intro _ | with_reducible apply updOp_kept | with_reducible apply sendPiece_kept
    | with_reducible apply foldl_kept | with_reducible apply foldl1_kept | dsimp +zetaHave only | split)

/-! ### Oma -/

theorem groupUpd_kept {z : State} (s : State) (g : Nat) (f : SumGroup → SumGroup) (hs : Kept z s) :
    Kept z (groupUpd s g f) := by
  unfold groupUpd
  repeat' (first
    | with_reducible assumption | dsimp +zetaHave only | split | fail_if_no_progress with_reducible apply Kept.upd)

theorem linePut_kept {z : State} (s : State) (g : Nat) (y : SumLine) (hs : Kept z s) :
    Kept z (linePut s g y) := by
  unfold linePut
  repeat' (first | with_reducible assumption | with_reducible apply groupUpd_kept)

theorem omaSat_kept {z : State} (s : State) (mill n : Nat) (hs : Kept z s) :
    Kept z (omaSat s mill n) := by
  unfold omaSat
  repeat' (first
    | with_reducible assumption | with_reducible apply setF_kept | with_reducible apply countF_kept | split)

theorem omaApply_kept {z : State} (s : State) (x : SumGroup) (y : SumLine) (d : List Byte) (hs : Kept z s) :
    Kept z (omaApply s x y d) := by
  unfold omaApply
  repeat' (first
    | with_reducible assumption | with_reducible apply event_kept | with_reducible apply wrMem_kept
    | with_reducible apply flagCell_kept | with_reducible apply holdOver_kept | with_reducible apply omaSat_kept
    | dsimp +zetaHave only | fail_if_no_progress with_reducible apply Kept.upd | with_reducible apply Kept.mem)

theorem omaAck_kept {z : State} (s : State) (src ctx idx : Nat) (hs : Kept z s) :
    Kept z (omaAck s src ctx idx) := by
  unfold omaAck
  repeat' (first
    | with_reducible assumption | with_reducible apply sendMsg_kept | with_reducible apply remoteDone_kept | split)

theorem omaDrain_kept {z : State} (a0 : Nat) (a1 : State) (a2 : Nat) (a3 : Nat) (ha1 : Kept z a1) :
    Kept z (omaDrain a0 a1 a2 a3) := by
  induction a0 generalizing a1 a2 a3 with
  | zero =>
    unfold omaDrain
    repeat' (first | with_reducible assumption)
  | succ n ih =>
    unfold omaDrain
    repeat' (first
      | with_reducible apply ih | with_reducible assumption | with_reducible apply linePut_kept
      | with_reducible apply omaApply_kept | with_reducible apply omaAck_kept | dsimp +zetaHave only | split)

theorem groupMaybeEnd_kept {z : State} (s : State) (g : Nat) (hs : Kept z s) :
    Kept z (groupMaybeEnd s g) := by
  unfold groupMaybeEnd
  repeat' (first
    | with_reducible assumption | with_reducible apply finishOp_kept | dsimp +zetaHave only | split
    | fail_if_no_progress with_reducible apply Kept.upd)

theorem omaTake_kept {z : State} (s : State) (g i l : Nat) (d : List Byte) (src ctx idx : Nat) (hs : Kept z s) :
    Kept z (omaTake s g i l d src ctx idx) := by
  unfold omaTake
  repeat' (first
    | with_reducible assumption | with_reducible apply countF_kept | with_reducible apply event_kept
    | with_reducible apply sendMsg_kept | with_reducible apply linePut_kept | with_reducible apply omaApply_kept
    | with_reducible apply omaAck_kept | with_reducible apply omaDrain_kept
    | with_reducible apply groupMaybeEnd_kept | dsimp +zetaHave only | split
    | fail_if_no_progress with_reducible apply Kept.upd)

theorem markUsed_kept {z : State} (s : State) (g i : Nat) (hs : Kept z s) :
    Kept z (markUsed s g i) := by
  unfold markUsed
  repeat' (first | with_reducible assumption | with_reducible apply groupUpd_kept)

theorem omaArrive_kept {z : State} (s : State) (g i l : Nat) (d : List Byte) (src ctx idx : Nat) (hs : Kept z s) :
    Kept z (omaArrive s g i l d src ctx idx) := by
  unfold omaArrive
  repeat' (first | with_reducible assumption | with_reducible apply omaTake_kept | with_reducible apply markUsed_kept)

theorem zeroRegion_kept {z : State} (s : State) (ctx idx : Nat) (r : Region) (hs : Kept z s) :
    Kept z (zeroRegion s ctx idx r) := by
  unfold zeroRegion
  repeat' (first | with_reducible assumption | with_reducible apply wrMem_kept | with_reducible apply holdTrain_kept)

theorem openGroup_kept {z : State} (s : State) (ctx idx g target lines : Nat) (int : Bool) (p : Nat)
    (init : Bool) (hs : Kept z s) :
    Kept z (openGroup s ctx idx g target lines int p init) := by
  unfold openGroup
  repeat' (first
    | with_reducible assumption | with_reducible apply zeroRegion_kept | dsimp +zetaHave only | split
    | fail_if_no_progress with_reducible apply Kept.upd)

theorem ctSend_kept {z : State} (s : State) (o : Op) (l : Nat) (hs : Kept z s) :
    Kept z (ctSend s o l) := by
  unfold ctSend
  repeat' (first
    | with_reducible assumption | with_reducible apply sendMsg_kept | with_reducible apply omaArrive_kept
    | dsimp +zetaHave only | split)

theorem ctSendAll_kept {z : State} (s : State) (o : Op) (hs : Kept z s) :
    Kept z (ctSendAll s o) := by
  unfold ctSendAll
  repeat' (first
    | with_reducible assumption | intro _ | with_reducible apply updOp_kept | with_reducible apply ctSend_kept
    | with_reducible apply foldl_kept)

theorem groupAsked_kept {z : State} (s : State) (m : Msg) (g i lines : Nat) (hs : Kept z s) :
    Kept z (groupAsked s m g i lines) := by
  unfold groupAsked
  repeat' (first
    | with_reducible assumption | with_reducible apply sendVerdict_kept | with_reducible apply markUsed_kept
    | split)

theorem closeGroups_kept {z : State} (s : State) (hs : Kept z s) :
    Kept z (closeGroups s) := by
  unfold closeGroups
  repeat' (first
    | with_reducible assumption | dsimp +zetaHave only | fail_if_no_progress with_reducible apply Kept.upd)

end Sys2Proof.Machine
end

