-- ==== Sys2Proof/Laws/KeptLinks.lean ====
section
/-!
SUPPORT. What the operations of Kerf, Links, BringUp, Truing, Rotations keep.
-/

namespace Sys2Proof.Machine

/-! ### Kerf -/

theorem farSet_kept {z : State} (s : State) (k : Nat) (x : FarRt) (hs : Kept z s) :
    Kept z (farSet s k x) := by
  unfold farSet
  repeat' (first
    | with_reducible assumption | dsimp +zetaHave only | fail_if_no_progress with_reducible apply Kept.upd
    | with_reducible apply Kept.far)

theorem sessPut_kept {z : State} (s : State) (f : Fld) (k v : Nat) (hs : Kept z s) :
    Kept z (sessPut s f k v) := by
  unfold sessPut
  repeat' (first | with_reducible assumption | with_reducible apply setF_kept)

theorem sessState_kept {z : State} (s : State) (k : Nat) (hs : Kept z s) :
    Kept z (sessState s k) := by
  unfold sessState
  repeat' (first | with_reducible assumption | with_reducible apply sessPut_kept)

theorem sessRoute_kept {z : State} (s : State) (k route : Nat) (hs : Kept z s) :
    Kept z (sessRoute s k route) := by
  unfold sessRoute
  repeat' (first
    | with_reducible assumption | with_reducible apply farSet_kept | with_reducible apply sessPut_kept
    | with_reducible apply sessState_kept)

theorem sessRise_kept {z : State} (s : State) (k : Nat) (hs : Kept z s) :
    Kept z (sessRise s k) := by
  unfold sessRise
  repeat' (first | with_reducible assumption | with_reducible apply sessRoute_kept | split)

theorem sessRiseAll_kept {z : State} (s : State) (hs : Kept z s) :
    Kept z (sessRiseAll s) := by
  unfold sessRiseAll
  repeat' (first
    | with_reducible assumption | intro _ | with_reducible apply sessRise_kept | with_reducible apply foldl_kept)

theorem sessMove_kept {z : State} (s : State) (k route : Nat) (hs : Kept z s) :
    Kept z (sessMove s k route) := by
  unfold sessMove
  repeat' (first
    | with_reducible assumption | with_reducible apply countF_kept | with_reducible apply sessRoute_kept
    | dsimp +zetaHave only | split)

theorem markPrimary_kept {z : State} (s : State) (k : Nat) (hs : Kept z s) :
    Kept z (markPrimary s k) := by
  unfold markPrimary
  repeat' (first | with_reducible assumption | with_reducible apply farSet_kept)

theorem loseRoute_kept {z : State} (s : State) (k : Nat) (hs : Kept z s) :
    Kept z (loseRoute s k) := by
  unfold loseRoute
  repeat' (first
    | with_reducible assumption | with_reducible apply sessMove_kept | with_reducible apply markPrimary_kept
    | split)

theorem groupReview_kept {z : State} (old s : State) (g : Nat) (hold : Kept z old) (hs : Kept z s) :
    Kept z (groupReview old s g) := by
  unfold groupReview
  repeat' (first
    | with_reducible assumption | intro _ | with_reducible apply sessRiseAll_kept
    | with_reducible apply markPrimary_kept | with_reducible apply loseRoute_kept
    | with_reducible apply foldl_kept | with_reducible apply foldl1_kept | dsimp +zetaHave only | split)

theorem keyPut_kept {z : State} (s : State) (slot : Nat) (k : KeySlot) (hs : Kept z s) :
    Kept z (keyPut s slot k) := by
  unfold keyPut
  repeat' (first
    | with_reducible assumption | dsimp +zetaHave only | fail_if_no_progress with_reducible apply Kept.upd)

theorem keyErase_kept {z : State} (s : State) (slot : Nat) (hs : Kept z s) :
    Kept z (keyErase s slot) := by
  unfold keyErase
  repeat' (first
    | with_reducible assumption | dsimp +zetaHave only | fail_if_no_progress with_reducible apply Kept.upd)

theorem keyImportEnd_kept {z : State} (s : State) (readOk oaepOk : Bool) (m : List Byte) (hs : Kept z s) :
    Kept z (keyImportEnd s readOk oaepOk m) := by
  unfold keyImportEnd
  repeat' (first
    | with_reducible assumption | with_reducible apply set2_kept | with_reducible apply setA_kept
    | with_reducible apply keyPut_kept | dsimp +zetaHave only | split)

theorem keyClear_kept {z : State} (s : State) (slot : Nat) (hs : Kept z s) :
    Kept z (keyClear s slot) := by
  unfold keyClear
  repeat' (first
    | with_reducible assumption | with_reducible apply setA_kept | with_reducible apply keyErase_kept | split)

theorem kerfCount_kept {z : State} (s : State) (land n : Nat) (hs : Kept z s) :
    Kept z (kerfCount s land n) := by
  unfold kerfCount
  repeat' (first
    | with_reducible assumption | with_reducible apply countF_kept | with_reducible apply event_kept
    | dsimp +zetaHave only | fail_if_no_progress with_reducible apply Kept.upd | with_reducible apply Kept.kerfOps)

theorem rollNeeded_kept {z : State} (s : State) (k : Nat) (hs : Kept z s) :
    Kept z (rollNeeded s k) := by
  unfold rollNeeded
  repeat' (first
    | with_reducible assumption | with_reducible apply sendVector_kept | with_reducible apply sessPut_kept | split)

theorem doRoll_kept {z : State} (s : State) (k : Nat) (hs : Kept z s) :
    Kept z (doRoll s k) := by
  unfold doRoll
  repeat' (first
    | with_reducible assumption | with_reducible apply farSet_kept | with_reducible apply sessPut_kept
    | with_reducible apply sessState_kept | with_reducible apply rollNeeded_kept | dsimp +zetaHave only | split)

theorem kerfRoll_kept {z : State} (s : State) (k : Nat) (hs : Kept z s) :
    Kept z (kerfRoll s k) := by
  unfold kerfRoll
  repeat' (first
    | with_reducible assumption | with_reducible apply sessPut_kept | with_reducible apply doRoll_kept | split)

theorem kerfStage_kept {z : State} (s : State) (k slot : Nat) (hs : Kept z s) :
    Kept z (kerfStage s k slot) := by
  unfold kerfStage
  repeat' (first | with_reducible assumption | with_reducible apply sessPut_kept | split)

theorem rebuildFrame_kept {z : State} (s : State) (k : Nat) (prev : KeySlot) (kf : KeptFrame) (hs : Kept z s) :
    Kept z (rebuildFrame s k prev kf).1 := by
  unfold rebuildFrame
  repeat' (first
    | with_reducible assumption | with_reducible apply keyPut_kept | with_reducible apply kerfCount_kept
    | with_reducible apply rollNeeded_kept | dsimp +zetaHave only | split)

theorem retirePrev_kept {z : State} (s : State) (k : Nat) (hs : Kept z s) :
    Kept z (retirePrev s k) := by
  unfold retirePrev
  repeat' (first
    | with_reducible assumption | intro _ | with_reducible apply farSet_kept | with_reducible apply sessPut_kept
    | with_reducible apply keyErase_kept | with_reducible apply doRoll_kept
    | with_reducible apply rebuildFrame_kept | with_reducible apply foldl_kept | with_reducible apply foldl1_kept
    | dsimp +zetaHave only | split)

theorem retireIfDone_kept {z : State} (s : State) (k : Nat) (hs : Kept z s) :
    Kept z (retireIfDone s k) := by
  unfold retireIfDone
  repeat' (first | with_reducible assumption | with_reducible apply retirePrev_kept | dsimp +zetaHave only | split)

theorem rollByFrame_kept {z : State} (s : State) (k : Nat) (hs : Kept z s) :
    Kept z (rollByFrame s k) := by
  unfold rollByFrame
  repeat' (first
    | with_reducible assumption | with_reducible apply sessPut_kept | with_reducible apply doRoll_kept
    | with_reducible apply retirePrev_kept)

theorem authResume_kept {z : State} (s : State) (k : Nat) (hs : Kept z s) :
    Kept z (authResume s k) := by
  unfold authResume
  repeat' (first | with_reducible assumption | with_reducible apply farSet_kept | with_reducible apply sessPut_kept)

/-! ### Links -/

theorem chainEffects_kept {z : State} (s : State) (hs : Kept z s) :
    Kept z (chainEffects s) := by
  unfold chainEffects
  repeat' (first
    | with_reducible assumption | with_reducible apply barriersTake_kept | with_reducible apply reshardTake_kept)

theorem standFaultTake_kept {z : State} (s : State) (chip link cause : Nat) (hs : Kept z s) :
    Kept z (standFaultTake s chip link cause) := by
  unfold standFaultTake
  repeat' (first
    | with_reducible assumption | with_reducible apply setA_kept | with_reducible apply sendVector_kept
    | with_reducible apply faultAll_kept | with_reducible apply closeGroups_kept)

theorem standFaultPass_kept {z : State} (s : State) (chip link cause : Nat) (hs : Kept z s) :
    Kept z (standFaultPass s chip link cause) := by
  unfold standFaultPass
  repeat' (first
    | with_reducible assumption | with_reducible apply sendChainAll_kept | dsimp +zetaHave only | split
    | fail_if_no_progress with_reducible apply Kept.upd)

theorem standFaultSeen_kept {z : State} (s : State) (chip link cause : Nat) (hs : Kept z s) :
    Kept z (standFaultSeen s chip link cause) := by
  unfold standFaultSeen
  repeat' (first
    | with_reducible assumption | with_reducible apply standFaultTake_kept
    | with_reducible apply standFaultPass_kept | dsimp +zetaHave only | split)

theorem takeChain_kept {z : State} (s : State) (link : Nat) (f : ChainFrame) (hs : Kept z s) :
    Kept z (takeChain s link f) := by
  cases f with
  | empty => exact hs
  | contrib op chan gen index v => exact chainEffects_kept _ (takeContribution_kept _ _ _ _ _ _ _ hs)
  | result op chan gen index v => exact chainEffects_kept _ (takeResult_kept _ _ _ _ _ hs)
  | fault chip n cause => exact standFaultSeen_kept _ _ _ _ hs
  | time kind seq stamp => exact timeFrame_kept _ _ _ _ _ hs
  | announce rank state hopsLead hops0 chip active parent => exact takeAnnounce_kept _ _ _ _ _ _ _ _ _ hs

theorem linkFail_kept {z : State} (s : State) (n cause : Nat) (hs : Kept z s) :
    Kept z (linkFail s n cause) := by
  unfold linkFail
  repeat' (first
    | with_reducible assumption | with_reducible apply setL_kept | with_reducible apply treeUpdate_kept
    | with_reducible apply groupReview_kept | with_reducible apply standFaultSeen_kept | dsimp +zetaHave only
    | split)

theorem topoCheck_kept {z : State} (s : State) (hs : Kept z s) :
    Kept z (topoCheck s) := by
  unfold topoCheck
  repeat' (first
    | with_reducible assumption | with_reducible apply setA_kept | with_reducible apply sendVector_kept
    | dsimp +zetaHave only | split)

theorem linkTrain_kept {z : State} (s : State) (n : Nat) (hs : Kept z s) :
    Kept z (linkTrain s n) := by
  unfold linkTrain
  repeat' (first | with_reducible assumption | with_reducible apply setA_kept | with_reducible apply setL_kept)

theorem linkIdentity_kept {z : State} (s : State) (n chip link stand rtt : Nat) (hs : Kept z s) :
    Kept z (linkIdentity s n chip link stand rtt) := by
  unfold linkIdentity
  repeat' (first | with_reducible assumption | with_reducible apply setL_kept)

theorem linkHear_kept {z : State} (s : State) (n : Nat) (hs : Kept z s) :
    Kept z (linkHear s n) := by
  unfold linkHear
  repeat' (first | with_reducible assumption | with_reducible apply linkSet_kept)

theorem linkTrained_kept {z : State} (s : State) (n mode : Nat) (hs : Kept z s) :
    Kept z (linkTrained s n mode) := by
  unfold linkTrained
  repeat' (first
    | with_reducible assumption | with_reducible apply setL_kept | with_reducible apply groupReview_kept
    | with_reducible apply linkFail_kept | split)

theorem saveTraining_kept {z : State} (s : State) (n : Nat) (hs : Kept z s) :
    Kept z (saveTraining s n) := by
  unfold saveTraining
  repeat' (first
    | with_reducible assumption | with_reducible apply draftPut_kept | dsimp +zetaHave only
    | fail_if_no_progress with_reducible apply Kept.upd | with_reducible apply Kept.drew)

theorem linkEnable_kept {z : State} (s : State) (n v : Nat) (hs : Kept z s) :
    Kept z (linkEnable s n v) := by
  unfold linkEnable
  repeat' (first
    | with_reducible assumption | with_reducible apply setL_kept | with_reducible apply linkFail_kept
    | with_reducible apply topoCheck_kept | with_reducible apply linkTrain_kept | dsimp +zetaHave only | split)

theorem groupRetrain_kept {z : State} (s : State) (g : Nat) (hs : Kept z s) :
    Kept z (groupRetrain s g) := by
  unfold groupRetrain
  repeat' (first
    | with_reducible assumption | intro _ | with_reducible apply setA_kept | with_reducible apply treeUpdate_kept
    | with_reducible apply groupReview_kept | with_reducible apply topoCheck_kept
    | with_reducible apply linkTrain_kept | with_reducible apply foldl_kept)

theorem groupMode_kept {z : State} (s : State) (g mode : Nat) (hs : Kept z s) :
    Kept z (groupMode s g mode) := by
  unfold groupMode
  repeat' (first
    | with_reducible assumption | intro _ | with_reducible apply setL_kept | with_reducible apply setG_kept
    | with_reducible apply foldl_kept)

theorem standArm_kept {z : State} (s : State) (v : Nat) (hs : Kept z s) :
    Kept z (standArm s v) := by
  unfold standArm
  repeat' (first
    | with_reducible assumption | with_reducible apply setA_kept | dsimp +zetaHave only | split
    | fail_if_no_progress with_reducible apply Kept.upd)

theorem nearSet_kept {z : State} (s : State) (n : Nat) (x : SeqState) (hs : Kept z s) :
    Kept z (nearSet s n x) := by
  unfold nearSet
  repeat' (first | with_reducible assumption | with_reducible apply linkSet_kept)

theorem sessSet_kept {z : State} (s : State) (k : Nat) (x : SeqState) (hs : Kept z s) :
    Kept z (sessSet s k x) := by
  unfold sessSet
  repeat' (first | with_reducible assumption | with_reducible apply farSet_kept)

theorem putFrame_kept {z : State} (s : State) (n : Nat) (bs : List Byte) (hs : Kept z s) :
    Kept z (putFrame s n bs) := by
  unfold putFrame
  repeat' (first
    | with_reducible assumption | with_reducible apply event_kept | dsimp +zetaHave only
    | fail_if_no_progress with_reducible apply Kept.upd)

theorem resendFrame_kept {z : State} (s : State) (n : Nat) (x : SeqState) (f : KeptFrame)
    (put : State → SeqState → State) (c : ChainFrame) (hs : Kept z s) (hput : ∀ x0 x1, Kept z x0 → Kept z
    (put x0 x1)) :
    Kept z (resendFrame s n x f put c) := by
  unfold resendFrame
  repeat' (first
    | with_reducible assumption | with_reducible apply countL_kept | with_reducible apply event_kept
    | with_reducible apply putFrame_kept | apply hput)

theorem nearSlot_kept {z : State} (s : State) (n : Nat) (c : ChainFrame) (hs : Kept z s) :
    Kept z (nearSlot s n c) := by
  unfold nearSlot
  repeat' (first
    | with_reducible assumption | intro _ | with_reducible apply linkFail_kept | with_reducible apply nearSet_kept
    | with_reducible apply putFrame_kept | with_reducible apply resendFrame_kept | dsimp +zetaHave only | split
    | fail_if_no_progress with_reducible apply Kept.upd)

theorem farEmpty_kept {z : State} (s : State) (n : Nat) (c : ChainFrame) (hs : Kept z s) :
    Kept z (farEmpty s n c) := by
  unfold farEmpty
  repeat' (first | with_reducible assumption | with_reducible apply putFrame_kept)

theorem resentCheck_kept {z : State} (s : State) (k r : Nat) (hs : Kept z s) :
    Kept z (resentCheck s k r) := by
  unfold resentCheck
  repeat' (first | with_reducible assumption | with_reducible apply loseRoute_kept | split)

theorem farPlainData_kept {z : State} (s : State) (n k : Nat) (c : ChainFrame) (i : Nat) (m : TxMsg) (hs : Kept z s) :
    Kept z (farPlainData s n k c i m) := by
  unfold farPlainData
  repeat' (first
    | with_reducible assumption | with_reducible apply sessSet_kept | with_reducible apply putFrame_kept
    | dsimp +zetaHave only | fail_if_no_progress with_reducible apply Kept.upd)

theorem farSealedData_kept {z : State} (s : State) (n k : Nat) (c : ChainFrame) (i : Nat) (m : TxMsg)
    (slot : Nat) (key : KeySlot) (hs : Kept z s) :
    Kept z (farSealedData s n k c i m slot key) := by
  unfold farSealedData
  repeat' (first
    | with_reducible assumption | with_reducible apply keyPut_kept | with_reducible apply kerfCount_kept
    | with_reducible apply rollNeeded_kept | with_reducible apply sessSet_kept
    | with_reducible apply putFrame_kept | dsimp +zetaHave only | split
    | fail_if_no_progress with_reducible apply Kept.upd)

theorem sessSlot_kept {z : State} (s : State) (n k : Nat) (c : ChainFrame) (hs : Kept z s) :
    Kept z (sessSlot s n k c) := by
  unfold sessSlot
  repeat' (first
    | with_reducible assumption | intro _ | with_reducible apply kerfCount_kept
    | with_reducible apply sessSet_kept | with_reducible apply putFrame_kept
    | with_reducible apply resendFrame_kept | with_reducible apply farEmpty_kept
    | with_reducible apply resentCheck_kept | with_reducible apply farPlainData_kept
    | with_reducible apply farSealedData_kept | dsimp +zetaHave only | split)

theorem takeVerdict_kept {z : State} (s : State) (ctx idx code off : Nat) (hs : Kept z s) :
    Kept z (takeVerdict s ctx idx code off) := by
  unfold takeVerdict
  repeat' (first
    | with_reducible assumption | with_reducible apply ctxFault_kept | with_reducible apply cpSendAll_kept
    | with_reducible apply ctSendAll_kept | split)

theorem writeArrive_kept {z : State} (s : State) (m : Msg) (off : Nat) (data : List Byte) (step : Nat)
    (hs : Kept z s) :
    Kept z (writeArrive s m off data step) := by
  unfold writeArrive
  repeat' (first
    | with_reducible assumption | with_reducible apply sendVerdict_kept | with_reducible apply writeLand_kept
    | dsimp +zetaHave only | split | fail_if_no_progress with_reducible apply Kept.upd)

theorem deliverMsg_kept {z : State} (s : State) (m : Msg) (cls : Nat) (payload : List Byte) (hs : Kept z s) :
    Kept z (deliverMsg s m cls payload) := by
  unfold deliverMsg
  repeat' (first
    | with_reducible assumption | with_reducible apply semAdd_kept | with_reducible apply ackMsg_kept
    | with_reducible apply sendVerdict_kept | with_reducible apply remoteDone_kept
    | with_reducible apply replicaArrive_kept | with_reducible apply pieceArrive_kept
    | with_reducible apply pieceAnswer_kept | with_reducible apply reshardTake_kept
    | with_reducible apply omaArrive_kept | with_reducible apply groupAsked_kept
    | with_reducible apply takeVerdict_kept | with_reducible apply writeArrive_kept | dsimp +zetaHave only | split
    | fail_if_no_progress with_reducible apply Kept.upd)

theorem forwardFrame_kept {z : State} (s : State) (f : Frame) (m : Msg) (hs : Kept z s) :
    Kept z (forwardFrame s f m) := by
  unfold forwardFrame
  repeat' (first
    | with_reducible assumption | with_reducible apply countA_kept | dsimp +zetaHave only | split
    | fail_if_no_progress with_reducible apply Kept.upd)

theorem deliverNear_kept {z : State} (s : State) (n : Nat) (k : KeptFrame) (hs : Kept z s) :
    Kept z (deliverNear s n k) := by
  unfold deliverNear
  repeat' (first
    | with_reducible assumption | with_reducible apply countL_kept | with_reducible apply event_kept
    | with_reducible apply deliverMsg_kept | with_reducible apply forwardFrame_kept | dsimp +zetaHave only | split)

theorem nearTake_kept {z : State} (s : State) (n : Nat) (bs : List Byte) (m : Msg) (hs : Kept z s) :
    Kept z (nearTake s n bs m) := by
  unfold nearTake
  repeat' (first
    | with_reducible assumption | intro _ | with_reducible apply countL_kept | with_reducible apply nearSet_kept
    | with_reducible apply deliverNear_kept | with_reducible apply foldl_kept | with_reducible apply foldl1_kept
    | dsimp +zetaHave only | split)

theorem nearFrame_kept {z : State} (s : State) (n : Nat) (bs : List Byte) (m : Msg) (hs : Kept z s) :
    Kept z (nearFrame s n bs m) := by
  unfold nearFrame
  repeat' (first
    | with_reducible assumption | with_reducible apply countL_kept | with_reducible apply linkFail_kept
    | with_reducible apply linkHear_kept | with_reducible apply nearSet_kept | with_reducible apply nearTake_kept
    | dsimp +zetaHave only | split)

theorem deliverFar_kept {z : State} (s : State) (n : Nat) (k : KeptFrame) (hs : Kept z s) :
    Kept z (deliverFar s n k) := by
  unfold deliverFar
  repeat' (first | with_reducible assumption | with_reducible apply event_kept | with_reducible apply deliverMsg_kept)

theorem farTake_kept {z : State} (s : State) (n k : Nat) (bs : List Byte) (m : Msg) (hs : Kept z s) :
    Kept z (farTake s n k bs m) := by
  unfold farTake
  repeat' (first
    | with_reducible assumption | intro _ | with_reducible apply sessSet_kept
    | with_reducible apply deliverFar_kept | with_reducible apply foldl_kept)

theorem authFail_kept {z : State} (s : State) (k : Nat) (f : Frame) (hs : Kept z s) :
    Kept z (authFail s k f) := by
  unfold authFail
  repeat' (first
    | with_reducible assumption | with_reducible apply countF_kept | with_reducible apply sendVector_kept
    | with_reducible apply farSet_kept | with_reducible apply sessPut_kept | dsimp +zetaHave only | split)

theorem authPass_kept {z : State} (s : State) (n k named : Nat) (bs : List Byte) (m : Msg) (key : KeySlot)
    (hs : Kept z s) :
    Kept z (authPass s n k named bs m key) := by
  unfold authPass
  repeat' (first
    | with_reducible assumption | with_reducible apply farSet_kept | with_reducible apply retireIfDone_kept
    | with_reducible apply rollByFrame_kept | with_reducible apply farTake_kept | dsimp +zetaHave only | split)

theorem farSealed_kept {z : State} (s : State) (n k : Nat) (bs : List Byte) (m : Msg) (hs : Kept z s) :
    Kept z (farSealed s n k bs m) := by
  unfold farSealed
  repeat' (first
    | with_reducible assumption | with_reducible apply countF_kept | with_reducible apply countL_kept
    | with_reducible apply farSet_kept | with_reducible apply kerfCount_kept | with_reducible apply authFail_kept
    | with_reducible apply authPass_kept | dsimp +zetaHave only | split)

theorem sessHeard_kept {z : State} (s : State) (n k : Nat) (hs : Kept z s) :
    Kept z (sessHeard s n k) := by
  unfold sessHeard
  repeat' (first | with_reducible assumption | with_reducible apply farSet_kept | dsimp +zetaHave only | split)

theorem farSession_kept {z : State} (s : State) (n k : Nat) (bs : List Byte) (m : Msg) (hs : Kept z s) :
    Kept z (farSession s n k bs m) := by
  unfold farSession
  repeat' (first
    | with_reducible assumption | with_reducible apply countF_kept | with_reducible apply countL_kept
    | with_reducible apply sessSet_kept | with_reducible apply farTake_kept | with_reducible apply farSealed_kept
    | dsimp +zetaHave only | split)

theorem farTraining_kept {z : State} (s : State) (n k : Nat) (f : Frame) (m : Msg) (hs : Kept z s) :
    Kept z (farTraining s n k f m) := by
  unfold farTraining
  repeat' (first
    | with_reducible assumption | with_reducible apply linkFail_kept | with_reducible apply sessSet_kept
    | dsimp +zetaHave only | split)

theorem farFrame_kept {z : State} (s : State) (n : Nat) (bs : List Byte) (m : Msg) (hs : Kept z s) :
    Kept z (farFrame s n bs m) := by
  unfold farFrame
  repeat' (first
    | with_reducible assumption | with_reducible apply linkHear_kept | with_reducible apply sessHeard_kept
    | with_reducible apply farSession_kept | with_reducible apply farTraining_kept | dsimp +zetaHave only | split)

theorem fecCount_kept {z : State} (s : State) (n corrected lost : Nat) (hs : Kept z s) :
    Kept z (fecCount s n corrected lost) := by
  unfold fecCount
  repeat' (first
    | with_reducible assumption | with_reducible apply countL_kept | with_reducible apply event_kept
    | dsimp +zetaHave only | split)

theorem sessValid_kept {z : State} (s : State) (k v : Nat) (hs : Kept z s) :
    Kept z (sessValid s k v) := by
  unfold sessValid
  repeat' (first
    | with_reducible assumption | with_reducible apply farSet_kept | with_reducible apply sessPut_kept
    | with_reducible apply sessRise_kept | dsimp +zetaHave only | split)

theorem takeStalled_kept {z : State} (s : State) (k : Nat) (hs : Kept z s) :
    Kept z (takeStalled s k) := by
  unfold takeStalled
  repeat' (first
    | with_reducible assumption | intro _ | with_reducible apply farSet_kept | with_reducible apply farFrame_kept
    | with_reducible apply foldl_kept)

theorem retireLate_kept {z : State} (s : State) (k : Nat) (hs : Kept z s) :
    Kept z (retireLate s k) := by
  unfold retireLate
  repeat' (first | with_reducible assumption | with_reducible apply retirePrev_kept | split)

theorem rngRestart_kept {z : State} (s : State) (pass : Bool) (hs : Kept z s) :
    Kept z (rngRestart s pass) := by
  unfold rngRestart
  repeat' (first
    | with_reducible assumption | intro _ | with_reducible apply setF_kept | with_reducible apply takeStalled_kept
    | with_reducible apply retireLate_kept | with_reducible apply foldl_kept | with_reducible apply foldl1_kept
    | dsimp +zetaHave only | split)

/-! ### BringUp -/

theorem setBoot_kept {z : State} (s : State) (f : BootRt → BootRt) (hs : Kept z s) :
    Kept z (setBoot s f) := by
  unfold setBoot
  repeat' (first
    | with_reducible assumption | dsimp +zetaHave only | fail_if_no_progress with_reducible apply Kept.upd)

theorem report_kept {z : State} (s : State) (ns stage code detail : Nat) (hs : Kept z s) :
    Kept z (report s ns stage code detail) := by
  unfold report
  repeat' (first | with_reducible assumption | with_reducible apply setD_kept | with_reducible apply setBoot_kept)

theorem bootHalt_kept {z : State} (s : State) (ns stage code detail : Nat) (hs : Kept z s) :
    Kept z (bootHalt s ns stage code detail) := by
  unfold bootHalt
  repeat' (first | with_reducible assumption | with_reducible apply setBoot_kept | with_reducible apply report_kept)

theorem startAcquire_kept {z : State} (s : State) (hs : Kept z s) :
    Kept z (startAcquire s) := by
  unfold startAcquire
  repeat' (first | with_reducible assumption | with_reducible apply setB_kept | split)

theorem raiseMinSeq_kept {z : State} (s : State) (hs : Kept z s) :
    Kept z (raiseMinSeq s) := by
  unfold raiseMinSeq
  repeat' (first | with_reducible assumption | with_reducible apply draftPut_kept | split)

theorem stagePass_kept {z : State} (s : State) (ns stage code detail : Nat) (hs : Kept z s) :
    Kept z (stagePass s ns stage code detail) := by
  unfold stagePass
  repeat' (first
    | with_reducible assumption | intro _ | with_reducible apply linkTrain_kept
    | with_reducible apply setBoot_kept | with_reducible apply report_kept
    | with_reducible apply startAcquire_kept | with_reducible apply raiseMinSeq_kept
    | with_reducible apply foldl_kept | with_reducible apply foldl1_kept | dsimp +zetaHave only | split)

theorem deviceReset_kept {z : State} (s : State) (cause rail : Nat) (hs : Kept z s) : Kept z
    (deviceReset s cause rail) := by
  unfold deviceReset
  refine setD_kept _ _ _ (setD_kept _ _ _ ?_)
  refine hs.of rfl rfl rfl (Nat.le_refl _) (fun h => ?_)
  rw [State.canonical_iff] at *
  exact ⟨rfl, rfl, rfl, rfl, h.2.2.2.2.1, h.2.2.2.2.2.1, rfl, rfl, rfl, rfl, rfl, rfl, rfl, rfl, rfl, rfl, rfl, rfl⟩

theorem bootStart_kept {z : State} (s : State) (hs : Kept z s) :
    Kept z (bootStart s) := by
  unfold bootStart
  repeat' (first
    | with_reducible assumption | with_reducible apply setBoot_kept | with_reducible apply report_kept
    | dsimp +zetaHave only | split)

theorem loadPart_kept {z : State} (s : State) (hs : Kept z s) :
    Kept z (loadPart s) := by
  unfold loadPart
  repeat' (first
    | with_reducible assumption | intro _ | with_reducible apply set2_kept | with_reducible apply setB_kept
    | with_reducible apply setD_kept | with_reducible apply setL_kept | with_reducible apply setG_kept
    | with_reducible apply setUsed_kept | with_reducible apply foldl_kept)

theorem endPart_kept {z : State} (s : State) (ns : Nat) (x y : CopySeen) (hs : Kept z s) :
    Kept z (endPart s ns x y) := by
  unfold endPart
  repeat' (first
    | with_reducible assumption | with_reducible apply setBoot_kept | with_reducible apply bootHalt_kept
    | with_reducible apply stagePass_kept | with_reducible apply loadPart_kept | dsimp +zetaHave only | split)

theorem endFirmware_kept {z : State} (s : State) (ns : Nat) (x y : FwSeen) (hs : Kept z s) :
    Kept z (endFirmware s ns x y) := by
  unfold endFirmware
  repeat' (first
    | with_reducible assumption | with_reducible apply setBoot_kept | with_reducible apply bootHalt_kept
    | with_reducible apply stagePass_kept | dsimp +zetaHave only | split)

theorem applyRetired_kept {z : State} (s : State) (hs : Kept z s) :
    Kept z (applyRetired s) := by
  unfold applyRetired
  repeat' (first
    | with_reducible assumption | dsimp +zetaHave only | fail_if_no_progress with_reducible apply Kept.upd)

theorem endTraining_kept {z : State} (s : State) (ns sweepBad trainBad : Nat) (density : List Nat) (data : List
    (Nat × List Byte)) (hs : Kept z s) :
    Kept z (endTraining s ns sweepBad trainBad density data) := by
  unfold endTraining
  repeat' (first
    | with_reducible assumption | with_reducible apply draftPut_kept | with_reducible apply bootHalt_kept
    | with_reducible apply stagePass_kept | with_reducible apply applyRetired_kept | dsimp +zetaHave only | split)

theorem applyRepair_kept {z : State} (s : State) (hs : Kept z s) :
    Kept z (applyRepair s) := by
  unfold applyRepair
  repeat' (first | with_reducible assumption | with_reducible apply setBoot_kept)

theorem testSlot_kept {z : State} (acc : State × List Nat × Nat) (p : Nat × Nat) (hacc : Kept z acc.1) :
    Kept z (testSlot acc p).1 := by
  unfold testSlot
  repeat' (first
    | with_reducible assumption | with_reducible apply enterRetired_kept | dsimp +zetaHave only | split
    | fail_if_no_progress with_reducible apply Kept.upd)

theorem endTest_kept {z : State} (s : State) (ns : Nat) (bad : List (Nat × Nat)) (hs : Kept z s) :
    Kept z (endTest s ns bad) := by
  unfold endTest
  repeat' (first
    | with_reducible assumption | intro _ | with_reducible apply bootHalt_kept
    | with_reducible apply stagePass_kept | with_reducible apply testSlot_kept | with_reducible apply foldl_kept
    | with_reducible apply foldl1_kept | dsimp +zetaHave only | split)

theorem endClocks_kept {z : State} (s : State) (ns : Nat) (pll : Option Nat) (hs : Kept z s) :
    Kept z (endClocks s ns pll) := by
  unfold endClocks
  repeat' (first
    | with_reducible assumption | with_reducible apply setD_kept | with_reducible apply bootHalt_kept
    | with_reducible apply stagePass_kept | dsimp +zetaHave only | split
    | fail_if_no_progress with_reducible apply Kept.upd)

theorem endAcquire_kept {z : State} (s : State) (ns : Nat) (hs : Kept z s) :
    Kept z (endAcquire s ns) := by
  unfold endAcquire
  repeat' (first | with_reducible assumption | with_reducible apply stagePass_kept | dsimp +zetaHave only | split)

theorem endStage_kept {z : State} (s : State) (ns : Nat) (e : StageEnd) (hs : Kept z s) :
    Kept z (endStage s ns e) := by
  unfold endStage
  repeat' (first
    | with_reducible assumption | with_reducible apply setD_kept | with_reducible apply bootHalt_kept
    | with_reducible apply stagePass_kept | with_reducible apply endPart_kept
    | with_reducible apply endFirmware_kept | with_reducible apply endTraining_kept
    | with_reducible apply applyRepair_kept | with_reducible apply endTest_kept
    | with_reducible apply endClocks_kept | with_reducible apply endAcquire_kept | dsimp +zetaHave only | split)

theorem partWritten_kept {z : State} (s : State) (f : List Host.Cell) (hs : Kept z s)
    (hf : s.canonical = true → memWf f = true) :
    Kept z (partWritten s f) := by
  unfold partWritten
  refine setBoot_kept _ _ ?_
  refine hs.of rfl rfl rfl (Nat.le_refl _) (fun h => ?_)
  have h0 := hf h
  rw [State.canonical_iff] at *
  exact ⟨h.1, h.2.1, h.2.2.1, h.2.2.2.1, h.2.2.2.2.1, h0, h.2.2.2.2.2.2⟩

/-! ### Truing -/

theorem truBegin_kept {z : State} (s : State) (ctx idx : Nat) (hs : Kept z s) :
    Kept z (truBegin s ctx idx) := by
  unfold truBegin
  repeat' (first
    | with_reducible assumption | with_reducible apply countF_kept | with_reducible apply updOp_kept
    | with_reducible apply faultOr_kept | dsimp +zetaHave only | split)

theorem truFlag_kept {z : State} (s : State) (o : Op) (b : Bool) (hs : Kept z s) :
    Kept z (truFlag s o b) := by
  unfold truFlag
  repeat' (first | with_reducible assumption | with_reducible apply event_kept | with_reducible apply flagCell_kept)

theorem statFold_kept {z : State} (s : State) (o : Op) (hs : Kept z s) :
    Kept z (statFold s o) := by
  unfold statFold
  repeat' (first
    | with_reducible assumption | with_reducible apply wrMem_kept | with_reducible apply wrNat_kept
    | with_reducible apply finishOp_kept | with_reducible apply holdTrain_kept
    | with_reducible apply arrProduct_kept | with_reducible apply truFlag_kept | dsimp +zetaHave only | split)

theorem facPanel_kept {z : State} (o : Op) (x n : Nat) (ldl : Bool) (thr : FVal)
    (acc : State × PanSt × List Host.Cell) (p : Nat) (hacc : Kept z acc.1) :
    Kept z (facPanel o x n ldl thr acc p).1 := by
  unfold facPanel
  repeat' (first
    | with_reducible assumption | intro _ | with_reducible apply arrProduct_kept | with_reducible apply foldl_kept
    | with_reducible apply foldl1_kept | dsimp +zetaHave only | split)

theorem facTry_kept {z : State} (s : State) (o : Op) (ldl : Bool) (lam : FVal) (hs : Kept z s) :
    Kept z (facTry s o ldl lam).st := by
  unfold facTry
  repeat' (first
    | with_reducible assumption | intro _ | with_reducible apply facPanel_kept | with_reducible apply foldl_kept
    | with_reducible apply foldl1_kept | dsimp +zetaHave only | split)

theorem eigPair_kept {z : State} (o : Op) (n : Nat) (e : EigSt) (uw : Nat × Nat) (he : Kept z e.st) :
    Kept z (eigPair o n e uw).st := by
  unfold eigPair
  repeat' (first | with_reducible assumption | with_reducible apply arrMul_kept | dsimp +zetaHave only | split)

theorem eigRun_kept {z : State} (s : State) (o : Op) (af : Mat) (hs : Kept z s) :
    Kept z (eigRun s o af).1.st := by
  unfold eigRun
  repeat' (first
    | with_reducible assumption | intro _ | with_reducible apply eigPair_kept | with_reducible apply foldl_kept
    | with_reducible apply foldl1_kept | with_reducible apply foldlEig_kept)

theorem eigTry_kept {z : State} (s : State) (o : Op) (lam : FVal) (hs : Kept z s) :
    Kept z (eigTry s o lam).st := by
  unfold eigTry
  repeat' (first | with_reducible assumption | with_reducible apply eigRun_kept)

theorem rootTry_kept {z : State} (s : State) (o : Op) (lam : FVal) (hs : Kept z s) :
    Kept z (rootTry s o lam).st := by
  unfold rootTry
  repeat' (first
    | with_reducible assumption | with_reducible apply arrMul_kept | with_reducible apply eigRun_kept
    | dsimp +zetaHave only | split)

theorem tryRun_kept {z : State} (s : State) (o : Op) (lam : FVal) (hs : Kept z s) :
    Kept z (tryRun s o lam).st := by
  unfold tryRun
  repeat' (first
    | with_reducible assumption | with_reducible apply facTry_kept | with_reducible apply eigTry_kept
    | with_reducible apply rootTry_kept | split)

theorem wrCand_kept {z : State} (s : State) (x : Nat) (c : Option (Mat × List FVal)) (hs : Kept z s) :
    Kept z (wrCand s x c) := by
  unfold wrCand
  repeat' (first | with_reducible assumption | with_reducible apply wrMem_kept | split)

theorem wrTry_kept {z : State} (s : State) (x t col status lam : Nat) (hs : Kept z s) :
    Kept z (wrTry s x t col status lam) := by
  unfold wrTry
  repeat' (first | with_reducible assumption | with_reducible apply wrNat_kept)

theorem wrLast_kept {z : State} (s : State) (x col status : Nat) (hs : Kept z s) :
    Kept z (wrLast s x col status) := by
  unfold wrLast
  repeat' (first | with_reducible assumption | with_reducible apply wrNat_kept)

theorem wrTries_kept {z : State} (s : State) (x n : Nat) (hs : Kept z s) :
    Kept z (wrTries s x n) := by
  unfold wrTries
  repeat' (first | with_reducible assumption | with_reducible apply wrBits_kept)

theorem promote_kept {z : State} (s : State) (x kind folds lam iters tries : Nat) (hs : Kept z s) :
    Kept z (promote s x kind folds lam iters tries) := by
  unfold promote
  repeat' (first | with_reducible assumption | with_reducible apply wrNat_kept | with_reducible apply wrBits_kept)

theorem recordStop_kept {z : State} (s : State) (o : Op) (t : Nat) (lam : FVal) (st : Stop) (hs : Kept z s) :
    Kept z (recordStop s o t lam st) := by
  unfold recordStop
  repeat' (first
    | with_reducible assumption | with_reducible apply countF_kept | with_reducible apply wrNat_kept
    | with_reducible apply wrBits_kept | with_reducible apply wrTry_kept | with_reducible apply wrLast_kept
    | with_reducible apply wrTries_kept | dsimp +zetaHave only | split)

theorem nextLambda_kept {z : State} (s : State) (x : Nat) (lam : FVal) (md : Option FVal) (hs : Kept z s) :
    Kept z (nextLambda s x lam md).1 := by
  unfold nextLambda
  repeat' (first | with_reducible assumption | with_reducible apply takeFree_kept | split)

theorem doTry_kept {z : State} (s : State) (o : Op) (lam : FVal) (hs : Kept z s) :
    Kept z (doTry s o lam).1 := by
  unfold doTry
  repeat' (first
    | with_reducible assumption | with_reducible apply event_kept | with_reducible apply wrMem_kept
    | with_reducible apply tryRun_kept | with_reducible apply wrCand_kept | dsimp +zetaHave only | split)

theorem tryPromote_kept {z : State} (s : State) (o : Op) (t folds : Nat) (lam : FVal) (hs : Kept z s) :
    Kept z (tryPromote s o t folds lam) := by
  unfold tryPromote
  repeat' (first
    | with_reducible assumption | with_reducible apply endOp_kept | with_reducible apply promote_kept
    | dsimp +zetaHave only | split)

theorem tryEnd_kept {z : State} (s : State) (o : Op) (t folds : Nat) (lam : FVal) (upset : Bool) (hs : Kept z s) :
    Kept z (tryEnd s o t folds lam upset) := by
  unfold tryEnd
  repeat' (first
    | with_reducible assumption | with_reducible apply countF_kept | with_reducible apply wrNat_kept
    | with_reducible apply endWithRecord_kept | with_reducible apply opReruns_kept
    | with_reducible apply wrTry_kept | with_reducible apply wrLast_kept | with_reducible apply wrTries_kept
    | with_reducible apply doTry_kept | with_reducible apply tryPromote_kept | dsimp +zetaHave only | split)

theorem tryLoop_kept {z : State} (o : Op) (folds : Nat) (upset : Bool) (a0 : Nat) (a1 : State) (a2 : Nat)
    (a3 : FVal) (a4 : Option FVal) (ha1 : Kept z a1) :
    Kept z (tryLoop o folds upset a0 a1 a2 a3 a4) := by
  induction a0 generalizing a1 a2 a3 a4 with
  | zero =>
    unfold tryLoop
    repeat' (first | with_reducible assumption)
  | succ n ih =>
    unfold tryLoop
    repeat' (first
      | with_reducible apply ih | with_reducible assumption | with_reducible apply countF_kept
      | with_reducible apply endOp_kept | with_reducible apply recordStop_kept
      | with_reducible apply nextLambda_kept | with_reducible apply doTry_kept | with_reducible apply tryEnd_kept
      | dsimp +zetaHave only | split)

theorem truFactor_kept {z : State} (s : State) (o : Op) (upset : Bool) (hs : Kept z s) :
    Kept z (truFactor s o upset) := by
  unfold truFactor
  repeat' (first
    | with_reducible assumption | with_reducible apply holdTrain_kept | with_reducible apply tryLoop_kept)

theorem truRunFactor_kept {z : State} (s : State) (o : Op) (upsets : List TileUpset) (upset : Bool) (hs : Kept z s) :
    Kept z (truRunFactor s o upsets upset) := by
  unfold truRunFactor
  repeat' (first
    | with_reducible assumption | intro _ | with_reducible apply withUpsets_kept
    | with_reducible apply truFactor_kept | dsimp +zetaHave only | split)

theorem nsPut_kept {z : State} (y : NsSt) (i : Nat) (m : Mat) (hy : Kept z y.st) :
    Kept z (nsPut y i m).st := by
  unfold nsPut
  repeat' (first | with_reducible assumption)

theorem nsMul_kept {z : State} (o : Op) (n : Nat) (y : NsSt) (i j : Nat) (hy : Kept z y.st) :
    Kept z (nsMul o n y i j).1.st := by
  unfold nsMul
  repeat' (first | with_reducible assumption | with_reducible apply arrMul_kept)

theorem nsIter_kept {z : State} (o : Op) (n : Nat) (y : NsSt) (hy : Kept z y.st) :
    Kept z (nsIter o n y).st := by
  unfold nsIter
  repeat' (first
    | with_reducible assumption | with_reducible apply nsPut_kept | with_reducible apply nsMul_kept
    | dsimp +zetaHave only | split)

theorem nsLoop_kept {z : State} (o : Op) (record n : Nat) (tol : FVal) (a0 : Nat) (a1 : Nat) (a2 : NsSt)
    (ha2 : Kept z a2.st) :
    Kept z (nsLoop o record n tol a0 a1 a2).2.2.st := by
  induction a0 generalizing a1 a2 with
  | zero =>
    unfold nsLoop
    repeat' (first | with_reducible assumption)
  | succ n ih =>
    unfold nsLoop
    repeat' (first
      | with_reducible apply ih | with_reducible assumption | with_reducible apply nsIter_kept
      | dsimp +zetaHave only | split)

theorem nsRecord_kept {z : State} (s : State) (o : Op) (col status : Nat) (hs : Kept z s) :
    Kept z (nsRecord s o col status) := by
  unfold nsRecord
  repeat' (first | with_reducible assumption | with_reducible apply wrTry_kept | with_reducible apply wrTries_kept)

theorem nsFail_kept {z : State} (s : State) (o : Op) (k : Nat) (hs : Kept z s) :
    Kept z (nsFail s o k) := by
  unfold nsFail
  repeat' (first
    | with_reducible assumption | with_reducible apply countF_kept | with_reducible apply endOp_kept
    | with_reducible apply wrLast_kept | with_reducible apply nsRecord_kept)

theorem nsCheck_kept {z : State} (s : State) (o : Op) (k : Nat) (hs : Kept z s) :
    Kept z (nsCheck s o k) := by
  unfold nsCheck
  repeat' (first
    | with_reducible assumption | with_reducible apply wrNat_kept | with_reducible apply endOp_kept
    | with_reducible apply wrLast_kept | with_reducible apply promote_kept | with_reducible apply nsRecord_kept
    | with_reducible apply nsFail_kept | dsimp +zetaHave only | split)

theorem nsRun_kept {z : State} (s : State) (o : Op) (limit : Option Nat) (hs : Kept z s) :
    Kept z (nsRun s o limit) := by
  unfold nsRun
  repeat' (first
    | with_reducible assumption | with_reducible apply event_kept | with_reducible apply wrMem_kept
    | with_reducible apply takeFree_kept | with_reducible apply endOp_kept | with_reducible apply recordStop_kept
    | with_reducible apply nsPut_kept | with_reducible apply nsLoop_kept | with_reducible apply nsFail_kept
    | with_reducible apply nsCheck_kept | dsimp +zetaHave only | split)

theorem rootRun_kept {z : State} (s : State) (o : Op) (upsets : List TileUpset) (upset : Bool) (hs : Kept z s) :
    Kept z (rootRun s o upsets upset) := by
  unfold rootRun
  repeat' (first
    | with_reducible assumption | intro _ | with_reducible apply holdTrain_kept
    | with_reducible apply withUpsets_kept | with_reducible apply truRunFactor_kept
    | with_reducible apply nsRun_kept | dsimp +zetaHave only | split)

theorem solveBlock_kept {z : State} (o : Op) (n m : Nat) (trans : Bool) (l : Mat) (rr : Nat → FVal)
    (acc : State × Mat) (p : Nat) (hacc : Kept z acc.1) :
    Kept z (solveBlock o n m trans l rr acc p).1 := by
  unfold solveBlock
  repeat' (first | with_reducible assumption | with_reducible apply arrMul_kept | dsimp +zetaHave only | split)

theorem triSolve_kept {z : State} (s : State) (o : Op) (n m : Nat) (trans : Bool) (l : Mat) (rr : Nat → FVal)
    (b : Mat) (hs : Kept z s) :
    Kept z (triSolve s o n m trans l rr b).1 := by
  unfold triSolve
  repeat' (first
    | with_reducible assumption | intro _ | with_reducible apply solveBlock_kept | with_reducible apply foldl_kept
    | with_reducible apply foldl1_kept)

theorem trsolve_kept {z : State} (s : State) (o : Op) (r : FacRead) (hs : Kept z s) :
    Kept z (trsolve s o r).1 := by
  unfold trsolve
  repeat' (first
    | with_reducible assumption | with_reducible apply event_kept | with_reducible apply triSolve_kept
    | dsimp +zetaHave only | split)

theorem trsolveEnd_kept {z : State} (s : State) (o : Op) (r : FacRead) (hs : Kept z s) :
    Kept z (trsolveEnd s o r) := by
  unfold trsolveEnd
  repeat' (first
    | with_reducible assumption | with_reducible apply wrMem_kept | with_reducible apply finishOp_kept
    | with_reducible apply holdTrain_kept | with_reducible apply trsolve_kept | dsimp +zetaHave only | split)

theorem trsolveRun_kept {z : State} (s : State) (o : Op) (upsets : List TileUpset) (hs : Kept z s) :
    Kept z (trsolveRun s o upsets) := by
  unfold trsolveRun
  repeat' (first
    | with_reducible assumption | intro _ | with_reducible apply onSide_kept
    | with_reducible apply withUpsets_kept | with_reducible apply trsolveEnd_kept | dsimp +zetaHave only | split)

theorem truProceed_kept {z : State} (s : State) (o : Op) (upsets : List TileUpset) (upset : Bool) (hs : Kept z s) :
    Kept z (truProceed s o upsets upset) := by
  unfold truProceed
  repeat' (first
    | with_reducible assumption | intro _ | with_reducible apply withUpsets_kept
    | with_reducible apply statFold_kept | with_reducible apply truRunFactor_kept
    | with_reducible apply rootRun_kept | dsimp +zetaHave only | split)

theorem parkSave_kept {z : State} (s : State) (o : Op) (hs : Kept z s) :
    Kept z (parkSave s o) := by
  unfold parkSave
  repeat' (first
    | with_reducible assumption | with_reducible apply takeFree_kept | with_reducible apply freeBytes_kept)

theorem truDropTiles_kept {z : State} (s : State) (cell : Nat) (brake : Bool) (o : Op) (hs : Kept z s) :
    Kept z (truDropTiles s cell brake o) := by
  unfold truDropTiles
  repeat' (first
    | with_reducible assumption | with_reducible apply countF_kept | with_reducible apply event_kept
    | with_reducible apply takeFree_kept | with_reducible apply updOp_kept | dsimp +zetaHave only | split)

theorem truDropCell_kept {z : State} (s : State) (cell : Nat) (brake : Bool) (hs : Kept z s) :
    Kept z (truDropCell s cell brake) := by
  unfold truDropCell
  repeat' (first
    | with_reducible assumption | intro _ | with_reducible apply truDropTiles_kept
    | with_reducible apply foldl_kept)

theorem disturbTruing_kept {z : State} (s : State) (m : Nat) (brake : Bool) (hs : Kept z s) :
    Kept z (disturbTruing s m brake) := by
  unfold disturbTruing
  repeat' (first
    | with_reducible assumption | dsimp +zetaHave only | split | fail_if_no_progress with_reducible apply Kept.upd)

/-! ### Rotations -/

theorem setRot_kept {z : State} (s : State) (f : RotRt → RotRt) (hs : Kept z s) :
    Kept z (setRot s f) := by
  unfold setRot
  repeat' (first
    | with_reducible assumption | dsimp +zetaHave only | fail_if_no_progress with_reducible apply Kept.upd)

theorem partPut_kept {z : State} (s : State) (f : Fld) (k v : Nat) (hs : Kept z s) :
    Kept z (partPut s f k v) := by
  unfold partPut
  repeat' (first | with_reducible assumption | with_reducible apply setF_kept)

theorem sendStand_kept {z : State} (s : State) (cls k chip : Nat) (bs : List Byte) (ctx idx : Nat) (hs : Kept z s) :
    Kept z (sendStand s cls k chip bs ctx idx) := by
  unfold sendStand
  repeat' (first
    | with_reducible assumption | dsimp +zetaHave only | fail_if_no_progress with_reducible apply Kept.upd)

theorem sendLocal_kept {z : State} (s : State) (cls chip : Nat) (bs : List Byte) (hs : Kept z s) :
    Kept z (sendLocal s cls chip bs) := by
  unfold sendLocal
  repeat' (first
    | with_reducible assumption | dsimp +zetaHave only | fail_if_no_progress with_reducible apply Kept.upd)

theorem quantSlice_kept {z : State} (s : State) (o : Op) (e : RotEntry) (q tensor r r0 : Nat) (rotated : Bool)
    (src resid : Mat) (hs : Kept z s) :
    Kept z (quantSlice s o e q tensor r r0 rotated src resid).st := by
  unfold quantSlice
  repeat' (first
    | with_reducible assumption | with_reducible apply countA_kept | with_reducible apply event_kept
    | with_reducible apply quantBack_kept | with_reducible apply leftProd_kept
    | with_reducible apply rightProd_kept)

theorem firstGood_kept {z : State} (s : State) (a0 : List (List Byte)) (hs : Kept z s) :
    Kept z (firstGood s a0).1 := by
  induction a0 generalizing s with
  | nil =>
    unfold firstGood
    repeat' (first | with_reducible assumption)
  | cons x r ih =>
    unfold firstGood
    repeat' (first
      | with_reducible apply ih | with_reducible assumption | with_reducible apply countA_kept
      | dsimp +zetaHave only | split)

theorem exchValues_kept {z : State} (s : State) (h : SegHdr) (syms scales : List Nat) (hs : Kept z s) :
    Kept z (exchValues s h syms scales).1 := by
  unfold exchValues
  repeat' (first
    | with_reducible assumption | with_reducible apply leftProd_kept | with_reducible apply rightProd_kept
    | dsimp +zetaHave only | split)

theorem decodeEntry_kept {z : State} (bs : List Byte) (kind r m i : Nat) (e : RotEntry) (at' : Nat) (again : List
    (List Byte)) (s : State) (hs : Kept z s) :
    Kept z (decodeEntry bs kind r m i e at' again s).1 := by
  unfold decodeEntry
  repeat' (first
    | with_reducible assumption | with_reducible apply firstGood_kept | with_reducible apply exchValues_kept
    | dsimp +zetaHave only | split)

theorem decodeBundle_kept {z : State} (bs : List Byte) (kind r m i : Nat) (a0 : List RotEntry) (a1 : Nat)
    (a2 : List (List (List Byte)))
    (a3 : State) (ha3 : Kept z a3) : Kept z (decodeBundle bs kind r m i a0 a1 a2 a3).1 := by
  induction a0 generalizing a1 a2 a3 with
  | nil => exact ha3
  | cons e es ih =>
    have h1 := decodeEntry_kept bs kind r m i e a1 (a2.headD []) a3 ha3
    have h2 : decodeBundle bs kind r m i (e :: es) a1 a2 a3 =
        (match (decodeEntry bs kind r m i e a1 (a2.headD []) a3).2 with
          | .error b => ((decodeEntry bs kind r m i e a1 (a2.headD []) a3).1, .error b)
          | .ok (x, n) => ((decodeBundle bs kind r m i es (a1 + n) a2.tail
              (decodeEntry bs kind r m i e a1 (a2.headD []) a3).1).1,
              consSeg x (decodeBundle bs kind r m i es (a1 + n) a2.tail
                (decodeEntry bs kind r m i e a1 (a2.headD []) a3).1).2)) := by delta decodeBundle; rfl
    rw [h2]
    generalize decodeEntry bs kind r m i e a1 (a2.headD []) a3 = w at h1 ⊢
    cases w.2 with
    | error b => exact h1
    | ok x => exact ih _ _ _ h1

theorem countBad_kept {z : State} (s : State) (x : BundleBad) (hs : Kept z s) :
    Kept z (countBad s x) := by
  unfold countBad
  repeat' (first | with_reducible assumption | with_reducible apply countA_kept | split)

theorem stageBundle_kept {z : State} (s : State) (pages : Nat) (hs : Kept z s) :
    Kept z (stageBundle s pages) := by
  unfold stageBundle
  repeat' (first | with_reducible assumption | with_reducible apply freeBytes_kept)

theorem takeBundle_kept {z : State} (s : State) (bs : List Byte) (again : List (List (List Byte))) (hs : Kept z s) :
    Kept z (takeBundle s bs again) := by
  unfold takeBundle
  repeat' (first
    | with_reducible assumption | with_reducible apply countA_kept | with_reducible apply setRot_kept
    | with_reducible apply decodeBundle_kept | with_reducible apply countBad_kept
    | with_reducible apply stageBundle_kept | dsimp +zetaHave only | split)

theorem reportDigest_kept {z : State} (s : State) (r : Nat) (v : List Byte) (hs : Kept z s) :
    Kept z (reportDigest s r v) := by
  unfold reportDigest
  repeat' (first
    | with_reducible assumption | with_reducible apply setRot_kept | with_reducible apply sendLocal_kept
    | dsimp +zetaHave only | split)

theorem formEntry_kept {z : State} (o : Op) (r m : Nat) (acc : State × List (List (List Byte))) (e : RotEntry)
    (hacc : Kept z acc.1) :
    Kept z (formEntry o r m acc e).1 := by
  unfold formEntry
  repeat' (first
    | with_reducible assumption | intro _ | with_reducible apply wrMem_kept | with_reducible apply quantSlice_kept
    | with_reducible apply foldl_kept | with_reducible apply foldl1_kept | dsimp +zetaHave only | split)

theorem sendBundles_kept {z : State} (s : State) (cls kind r mask : Nat) (ctx idx : Nat) (bs : List (Nat × List
    (List Byte))) (hs : Kept z s) :
    Kept z (sendBundles s cls kind r mask ctx idx bs) := by
  unfold sendBundles
  repeat' (first
    | with_reducible assumption | intro _ | with_reducible apply sendStand_kept
    | with_reducible apply takeBundle_kept | with_reducible apply foldl_kept | dsimp +zetaHave only | split)

theorem formRun_kept {z : State} (s : State) (o : Op) (hs : Kept z s) :
    Kept z (formRun s o) := by
  unfold formRun
  repeat' (first
    | with_reducible assumption | intro _ | with_reducible apply set2_kept | with_reducible apply countSha_kept
    | with_reducible apply setRot_kept | with_reducible apply reportDigest_kept
    | with_reducible apply formEntry_kept | with_reducible apply sendBundles_kept
    | with_reducible apply foldl_kept | with_reducible apply foldl1_kept)

theorem dropStale_kept {z : State} (s : State) (r : Nat) (hs : Kept z s) :
    Kept z (dropStale s r) := by
  unfold dropStale
  repeat' (first | with_reducible assumption | with_reducible apply countA_kept | with_reducible apply setRot_kept)

theorem ledgerAdd_kept {z : State} (s : State) (i : LedgerItem) (hs : Kept z s) :
    Kept z (ledgerAdd s i) := by
  unfold ledgerAdd
  repeat' (first | with_reducible assumption | with_reducible apply setRot_kept | dsimp +zetaHave only | split)

theorem takeSet_kept {z : State} (s : State) (m : MergeSet) (hs : Kept z s) :
    Kept z (takeSet s m) := by
  unfold takeSet
  repeat' (first | with_reducible assumption | with_reducible apply setRot_kept)

theorem releaseSet_kept {z : State} (s : State) (cutoff : Nat) (hs : Kept z s) :
    Kept z (releaseSet s cutoff) := by
  unfold releaseSet
  repeat' (first
    | with_reducible assumption | intro _ | with_reducible apply countA_kept | with_reducible apply setRot_kept
    | with_reducible apply sendLocal_kept | with_reducible apply ledgerAdd_kept
    | with_reducible apply takeSet_kept | with_reducible apply foldl_kept | with_reducible apply foldl1_kept
    | dsimp +zetaHave only | split)

theorem takeMask_kept {z : State} (s : State) (r chip : Nat) (mask : List Nat) (hs : Kept z s) :
    Kept z (takeMask s r chip mask) := by
  unfold takeMask
  repeat' (first
    | with_reducible assumption | with_reducible apply setRot_kept | with_reducible apply releaseSet_kept
    | dsimp +zetaHave only | split)

theorem sendMask_kept {z : State} (s : State) (r : Nat) (hs : Kept z s) :
    Kept z (sendMask s r) := by
  unfold sendMask
  repeat' (first
    | with_reducible assumption | with_reducible apply setRot_kept | with_reducible apply sendLocal_kept
    | with_reducible apply takeMask_kept | dsimp +zetaHave only | split)

theorem dropUsed_kept {z : State} (s : State) (m : MergeSet) (hs : Kept z s) :
    Kept z (dropUsed s m) := by
  unfold dropUsed
  repeat' (first | with_reducible assumption | with_reducible apply setRot_kept)

theorem freshRoster_kept {z : State} (s : State) (mask : Nat) (hs : Kept z s) :
    Kept z (freshRoster s mask) := by
  unfold freshRoster
  repeat' (first
    | with_reducible assumption | with_reducible apply wrMem_kept | with_reducible apply setRot_kept
    | dsimp +zetaHave only | split)

theorem mergeEntry_kept {z : State} (o : Op) (r m i : Nat) (used : List RotBundle) (acc : State × List
    (List Byte)) (e : RotEntry) (hacc : Kept z acc.1) :
    Kept z (mergeEntry o r m i used acc e).1 := by
  unfold mergeEntry
  repeat' (first
    | with_reducible assumption | with_reducible apply wrMem_kept | with_reducible apply quantSlice_kept
    | dsimp +zetaHave only | split)

theorem mergeWork_kept {z : State} (s : State) (o : Op) (m : MergeSet) (hs : Kept z s) :
    Kept z (mergeWork s o m) := by
  unfold mergeWork
  repeat' (first
    | with_reducible assumption | intro _ | with_reducible apply updOp_kept | with_reducible apply setRot_kept
    | with_reducible apply sendBundles_kept | with_reducible apply dropUsed_kept
    | with_reducible apply freshRoster_kept | with_reducible apply mergeEntry_kept
    | with_reducible apply foldl_kept | with_reducible apply foldl1_kept)

theorem mergeMaybeEnd_kept {z : State} (s : State) (ctx idx : Nat) (hs : Kept z s) :
    Kept z (mergeMaybeEnd s ctx idx) := by
  unfold mergeMaybeEnd
  repeat' (first | with_reducible assumption | with_reducible apply endOp_kept | dsimp +zetaHave only | split)

theorem mergeRun_kept {z : State} (s : State) (o : Op) (cut : Bool) (hs : Kept z s) :
    Kept z (mergeRun s o cut) := by
  unfold mergeRun
  repeat' (first
    | with_reducible assumption | with_reducible apply updOp_kept | with_reducible apply dropStale_kept
    | with_reducible apply ledgerAdd_kept | with_reducible apply releaseSet_kept
    | with_reducible apply sendMask_kept | with_reducible apply mergeWork_kept
    | with_reducible apply mergeMaybeEnd_kept | dsimp +zetaHave only | split)

theorem showAnchor_kept {z : State} (s : State) (hs : Kept z s) :
    Kept z (showAnchor s) := by
  unfold showAnchor
  repeat' (first | with_reducible assumption | with_reducible apply set2_kept)

theorem anchorStep_kept {z : State} (s t : State) (h : anchorStep s = some t) (hs : Kept z s) : Kept z t := by
  unfold anchorStep at h
  dsimp +zetaHave only at h
  cases h1 : s.rot.rates.find? (fun p => p.1 == s.rot.anchored) with
  | none =>
    rw [h1] at h
    cases h
  | some rate =>
    rw [h1] at h
    dsimp only at h
    split at h
    · cases h
      repeat' (first
        | with_reducible assumption | with_reducible apply showAnchor_kept | with_reducible apply setRot_kept
        | with_reducible apply wrMem_kept)
    · cases h

theorem anchorTo_kept {z : State} (upTo : Nat) (a0 : Nat) (s : State) (hs : Kept z s) :
    Kept z (anchorTo upTo a0 s) := by
  induction a0 generalizing s with
  | zero => exact hs
  | succ n ih =>
    unfold anchorTo
    split
    · cases h : anchorStep s with
      | none => exact hs
      | some t => exact ih _ (anchorStep_kept s t h hs)
    · exact hs

theorem rederiveNow_kept {z : State} (s : State) (o : Op) (p : Nat) (hs : Kept z s) :
    Kept z (rederiveNow s o p) := by
  unfold rederiveNow
  repeat' (first | with_reducible assumption | with_reducible apply wrMem_kept | with_reducible apply rederive_kept)

theorem applyEntry_kept {z : State} (o : Op) (s : State) (e : RotEntry) (hs : Kept z s) :
    Kept z (applyEntry o s e) := by
  unfold applyEntry
  repeat' (first
    | with_reducible assumption | with_reducible apply wrMem_kept | with_reducible apply flagUnits_kept
    | with_reducible apply rederiveNow_kept)

theorem applyRun_kept {z : State} (s : State) (o : Op) (hs : Kept z s) :
    Kept z (applyRun s o) := by
  unfold applyRun
  repeat' (first
    | with_reducible assumption | intro _ | with_reducible apply endOp_kept | with_reducible apply authFail_kept
    | with_reducible apply setRot_kept | with_reducible apply anchorTo_kept | with_reducible apply applyEntry_kept
    | with_reducible apply foldl_kept | with_reducible apply foldl1_kept | dsimp +zetaHave only | split)

theorem takeFactor_kept {z : State} (s : State) (x : Nat) (bs : List Byte) (hs : Kept z s) :
    Kept z (takeFactor s x bs) := by
  unfold takeFactor
  repeat' (first | with_reducible assumption | with_reducible apply wrMem_kept | with_reducible apply promote_kept)

theorem basisRunNow_kept {z : State} (s : State) (o : Op) (factors : List (Nat × List Byte)) (hs : Kept z s) :
    Kept z (basisRunNow s o factors) := by
  unfold basisRunNow
  repeat' (first
    | with_reducible assumption | intro _ | with_reducible apply finishOp_kept | with_reducible apply setRot_kept
    | with_reducible apply sendStand_kept | with_reducible apply takeFactor_kept | with_reducible apply foldl_kept
    | with_reducible apply foldl1_kept | dsimp +zetaHave only | split)

theorem digestBad_kept {z : State} (s : State) (r other : Nat) (hs : Kept z s) :
    Kept z (digestBad s r other) := by
  unfold digestBad
  repeat' (first
    | with_reducible assumption | with_reducible apply setA_kept | with_reducible apply writeFault_kept
    | with_reducible apply setRot_kept)

theorem noteCommon_kept {z : State} (s : State) (r k : Nat) (d : List Byte) (hs : Kept z s) :
    Kept z (noteCommon s r k d) := by
  unfold noteCommon
  repeat' (first
    | with_reducible assumption | intro _ | with_reducible apply setRot_kept | with_reducible apply digestBad_kept
    | with_reducible apply foldl_kept)

theorem setLast_kept {z : State} (s : State) (k r : Nat) (hs : Kept z s) :
    Kept z (setLast s k r) := by
  unfold setLast
  repeat' (first | with_reducible assumption | with_reducible apply partPut_kept | split)

theorem ledgerWrite_kept {z : State} (s : State) (i : LedgerItem) (common : List Byte) (hs : Kept z s) :
    Kept z (ledgerWrite s i common) := by
  unfold ledgerWrite
  repeat' (first
    | with_reducible assumption | intro _ | with_reducible apply setA_kept | with_reducible apply wrMem_kept
    | with_reducible apply setRot_kept | with_reducible apply sendStand_kept
    | with_reducible apply noteCommon_kept | with_reducible apply setLast_kept | with_reducible apply foldl_kept
    | with_reducible apply foldl1_kept | dsimp +zetaHave only | split)

theorem putPart_kept {z : State} (s : State) (e stand state session join : Nat) (hs : Kept z s) :
    Kept z (putPart s e stand state session join) := by
  unfold putPart
  repeat' (first | with_reducible assumption | with_reducible apply partPut_kept)

theorem partnerJoin_kept {z : State} (s : State) (o : Op) (hs : Kept z s) :
    Kept z (partnerJoin s o) := by
  unfold partnerJoin
  repeat' (first
    | with_reducible assumption | with_reducible apply endOp_kept | with_reducible apply finishOp_kept
    | with_reducible apply setRot_kept | with_reducible apply ledgerAdd_kept | with_reducible apply putPart_kept
    | dsimp +zetaHave only | split)

theorem splitEntry_kept {z : State} (o : Op) (s : State) (e : RotEntry) (hs : Kept z s) :
    Kept z (splitEntry o s e) := by
  unfold splitEntry
  repeat' (first
    | with_reducible assumption | with_reducible apply wrMem_kept | with_reducible apply rederiveNow_kept)

theorem partnerSplit_kept {z : State} (s : State) (o : Op) (highest : Nat) (hs : Kept z s) :
    Kept z (partnerSplit s o highest) := by
  unfold partnerSplit
  repeat' (first
    | with_reducible assumption | intro _ | with_reducible apply setA_kept | with_reducible apply endOp_kept
    | with_reducible apply finishOp_kept | with_reducible apply setRot_kept | with_reducible apply partPut_kept
    | with_reducible apply ledgerAdd_kept | with_reducible apply anchorTo_kept
    | with_reducible apply splitEntry_kept | with_reducible apply foldl_kept | with_reducible apply foldl1_kept
    | dsimp +zetaHave only | split)

theorem graftEntry_kept {z : State} (o : Op) (bs : List (List Nat)) (shards : List (Nat × Nat × List Byte))
    (s : State) (e : RotEntry) (hs : Kept z s) :
    Kept z (graftEntry o bs shards s e) := by
  unfold graftEntry
  repeat' (first
    | with_reducible assumption | intro _ | with_reducible apply wrMem_kept
    | with_reducible apply rederiveNow_kept)

theorem healGraft_kept {z : State} (s : State) (o : Op) (bs : List (List Nat)) (shards : List
    (Nat × Nat × List Byte)) (a : Nat) (hs : Kept z s) :
    Kept z (healGraft s o bs shards a) := by
  unfold healGraft
  repeat' (first
    | with_reducible assumption | intro _ | with_reducible apply set2_kept | with_reducible apply setA_kept
    | with_reducible apply finishOp_kept | with_reducible apply showAnchor_kept | with_reducible apply setRot_kept
    | with_reducible apply partPut_kept
    | with_reducible apply ledgerAdd_kept | with_reducible apply graftEntry_kept | with_reducible apply foldl_kept
    | with_reducible apply foldl1_kept | dsimp +zetaHave only | split)

theorem healRun_kept {z : State} (s : State) (o : Op) (anchors : List (Nat × Nat)) (digests : List
    (Nat × List Byte)) (shards : List (Nat × Nat × List Byte)) (hs : Kept z s) :
    Kept z (healRun s o anchors digests shards) := by
  unfold healRun
  repeat' (first
    | with_reducible assumption | intro _ | with_reducible apply setA_kept | with_reducible apply endOp_kept
    | with_reducible apply finishOp_kept | with_reducible apply authFail_kept
    | with_reducible apply ledgerAdd_kept | with_reducible apply anchorTo_kept
    | with_reducible apply healGraft_kept | with_reducible apply foldl_kept | with_reducible apply foldl1_kept
    | dsimp +zetaHave only | split)

theorem joinCheck_kept {z : State} (s : State) (o : Op) (digests : List (Nat × List Byte)) (hs : Kept z s) :
    Kept z (joinCheck s o digests) := by
  unfold joinCheck
  repeat' (first
    | with_reducible assumption | with_reducible apply countSha_kept | with_reducible apply endWithRecord_kept
    | with_reducible apply finishOp_kept | with_reducible apply setRot_kept | dsimp +zetaHave only | split)

theorem rotBegin_kept {z : State} (s : State) (ctx idx : Nat) (hs : Kept z s) :
    Kept z (rotBegin s ctx idx) := by
  unfold rotBegin
  repeat' (first
    | with_reducible assumption | with_reducible apply updOp_kept | with_reducible apply endOp_kept
    | with_reducible apply ctxFault_kept | with_reducible apply setRot_kept | dsimp +zetaHave only | split)

end Sys2Proof.Machine
end

