-- ==== Sys2Proof/Laws/KeptRings.lean ====
section
/-!
SUPPORT. What the operations of Tally, Collect, EventDump, JointedBody, Mailbox, Disturb, Power, Outputs, Rings, RegWrite,
Retire, VecRun keep.
-/

namespace Sys2Proof.Machine

/-! ### Tally -/

theorem updTally_kept {z : State} (s : State) (tag : Nat) (f : Tally → Tally) (hs : Kept z s) :
    Kept z (updTally s tag f) := by
  unfold updTally
  repeat' (first
    | with_reducible assumption | dsimp +zetaHave only | split | fail_if_no_progress with_reducible apply Kept.upd)

theorem tallyGens_kept {z : State} (s : State) (d : Desc) (fs : List FacRead) (t : State)
    (h : tallyGens s d fs = some t)
    (hs : Kept z s) : Kept z t := by
  unfold tallyGens at h
  by_cases h0 : dTag d = 0 ∨ dEval d ∨ fs.isEmpty
  · rw [if_pos h0] at h
    cases h
    exact hs
  · rw [if_neg h0] at h
    cases h1 : tallyRec s (dTag d) with
    | none =>
      rw [h1] at h
      cases h
      exact hs
    | some r =>
      rw [h1] at h
      dsimp only at h
      split at h
      · cases h
      · cases h
        exact updTally_kept _ _ _ hs

theorem tallyAdd_kept {z : State} (s : State) (o : Op) (status : Status) (digests : List Nat) (hs : Kept z s) :
    Kept z (tallyAdd s o status digests) := by
  unfold tallyAdd
  repeat' (first
    | with_reducible assumption | intro _ | with_reducible apply updTally_kept | with_reducible apply foldl_kept
    | with_reducible apply foldl1_kept | dsimp +zetaHave only | split)

theorem setClose_kept {z : State} (s : State) (ctx idx : Nat) (f : CloseWork → CloseWork) (hs : Kept z s) :
    Kept z (setClose s ctx idx f) := by
  unfold setClose
  repeat' (first | with_reducible assumption | with_reducible apply updOp_kept)

theorem tallyCloseBegin_kept {z : State} (s : State) (ctx idx : Nat) (hs : Kept z s) :
    Kept z (tallyCloseBegin s ctx idx) := by
  unfold tallyCloseBegin
  repeat' (first
    | with_reducible assumption | with_reducible apply ctxFault_kept | with_reducible apply updTally_kept
    | with_reducible apply setClose_kept | dsimp +zetaHave only | split)

theorem clearFlags_kept {z : State} (s : State) (hs : Kept z s) :
    Kept z (clearFlags s) := by
  unfold clearFlags
  repeat' (first
    | with_reducible assumption | intro _ | with_reducible apply cellSet_kept | with_reducible apply foldl_kept)

theorem closeAsk_kept {z : State} (s : State) (o : Op) (hs : Kept z s) :
    Kept z (closeAsk s o) := by
  unfold closeAsk
  repeat' (first
    | with_reducible assumption | intro _ | with_reducible apply chainGive_kept
    | with_reducible apply setClose_kept | with_reducible apply clearFlags_kept | with_reducible apply foldl_kept
    | with_reducible apply foldl1_kept | dsimp +zetaHave only | fail_if_no_progress with_reducible apply Kept.upd
    | with_reducible apply Kept.noLate)

theorem closeStep_kept {z : State} (s : State) (o : Op) (flag : Nat) (maxes : List Nat) (hs : Kept z s) :
    Kept z (closeStep s o flag maxes) := by
  unfold closeStep
  repeat' (first
    | with_reducible assumption | with_reducible apply set2_kept | with_reducible apply setA_kept
    | with_reducible apply countA_kept | with_reducible apply wrMem_kept
    | with_reducible apply sclHistorySteps_kept | with_reducible apply sclClear_kept
    | with_reducible apply setClose_kept | dsimp +zetaHave only | split
    | fail_if_no_progress with_reducible apply Kept.upd)

theorem queueSign_kept {z : State} (s : State) (st slot : Nat) (hs : Kept z s) :
    Kept z (queueSign s st slot) := by
  unfold queueSign
  repeat' (first
    | with_reducible assumption | with_reducible apply countA_kept | dsimp +zetaHave only | split
    | fail_if_no_progress with_reducible apply Kept.upd)

theorem closeWrite_kept {z : State} (s : State) (o : Op) (hs : Kept z s) :
    Kept z (closeWrite s o) := by
  unfold closeWrite
  repeat' (first
    | with_reducible assumption | with_reducible apply wrMem_kept | with_reducible apply countSha_kept
    | with_reducible apply endOp_kept | with_reducible apply queueSign_kept | dsimp +zetaHave only | split
    | fail_if_no_progress with_reducible apply Kept.upd)

theorem closeTail_kept {z : State} (s : State) (o : Op) (hs : Kept z s) :
    Kept z (closeTail s o) := by
  unfold closeTail
  repeat' (first
    | with_reducible assumption | with_reducible apply countSha_kept | with_reducible apply releaseHeld_kept
    | with_reducible apply setClose_kept | with_reducible apply closeWrite_kept | dsimp +zetaHave only | split)

theorem closeRun_kept {z : State} (s : State) (o : Op) (hs : Kept z s) :
    Kept z (closeRun s o) := by
  unfold closeRun
  repeat' (first
    | with_reducible assumption | with_reducible apply endOp_kept | with_reducible apply releaseHeld_kept
    | with_reducible apply closeAsk_kept | with_reducible apply closeStep_kept
    | with_reducible apply closeTail_kept | dsimp +zetaHave only | split)

theorem fieldSplit_kept {z : State} (s : State) (b : Blk) (a : Nat) (hs : Kept z s) :
    Kept z (fieldSplit s b a) := by
  unfold fieldSplit
  repeat' (first
    | with_reducible assumption | with_reducible apply setF_kept | with_reducible apply writeFault_kept
    | dsimp +zetaHave only | split | fail_if_no_progress with_reducible apply Kept.upd)

theorem scrubField_kept {z : State} (b : Blk) (s : State) (q : Fld × Nat) (hs : Kept z s) :
    Kept z (scrubField b s q) := by
  unfold scrubField
  repeat' (first
    | with_reducible assumption | with_reducible apply countF_kept | with_reducible apply fieldSplit_kept
    | dsimp +zetaHave only | split | fail_if_no_progress with_reducible apply Kept.upd
    | with_reducible apply Kept.regs)

theorem flipWord_kept {z : State} (s : State) (u : Nat × Nat × Nat) (hs : Kept z s) : Kept z (flipWord s u) := by
  unfold flipWord
  dsimp +zetaHave only
  split
  · refine hs.of rfl rfl rfl (Nat.le_refl _) (fun h => ?_)
    rw [State.canonical_iff] at *
    exact ⟨sparseSet_wf resetWord _ _ _ h.1, h.2⟩
  · split
    · refine hs.of rfl rfl rfl (Nat.le_refl _) (fun h => ?_)
      rw [State.canonical_iff] at *
      exact ⟨h.1, sparseSet_wf resetWord _ _ _ h.2.1, h.2.2⟩
    · refine hs.of rfl rfl rfl (Nat.le_refl _) (fun h => ?_)
      rw [State.canonical_iff] at *
      exact ⟨h.1, h.2.1, sparseSet_wf resetWord _ _ _ h.2.2.1, h.2.2.2⟩

theorem scrubBlock_kept {z : State} (s : State) (b : Blk) (hs : Kept z s) :
    Kept z (scrubBlock s b) := by
  unfold scrubBlock
  repeat' (first
    | with_reducible assumption | intro _ | with_reducible apply scrubField_kept | with_reducible apply foldl_kept
    | with_reducible apply foldl1_kept | dsimp +zetaHave only | fail_if_no_progress with_reducible apply Kept.upd)

/-! ### Collect -/

theorem wrElems_kept {z : State} (s : State) (d : Desc) (cs : List (Nat × Nat)) (hs : Kept z s) :
    Kept z (wrElems s d cs) := by
  unfold wrElems
  repeat' (first | with_reducible assumption | with_reducible apply wrMem_kept)

theorem gAdder_kept {z : State} (s : State) (d : Desc) (vals : List (Nat × FVal)) (hs : Kept z s) :
    Kept z (gAdder s d vals) := by
  unfold gAdder
  repeat' (first
    | with_reducible assumption | intro _ | with_reducible apply event_kept | with_reducible apply flagCell_kept
    | with_reducible apply foldl_kept | with_reducible apply foldl1_kept | dsimp +zetaHave only | split)

theorem sendMembers_kept {z : State} (s : State) (o : Op) (bs : List Byte) (hs : Kept z s) :
    Kept z (sendMembers s o bs) := by
  unfold sendMembers
  repeat' (first
    | with_reducible assumption | intro _ | with_reducible apply sendMsg_kept | with_reducible apply foldl_kept)

theorem sendSums_kept {z : State} (s : State) (o : Op) (ms : List Member) (hs : Kept z s) :
    Kept z (sendSums s o ms) := by
  unfold sendSums
  repeat' (first
    | with_reducible assumption | intro _ | with_reducible apply sendMsg_kept | with_reducible apply foldl_kept
    | with_reducible apply foldl1_kept | dsimp +zetaHave only | split)

theorem freeWork_kept {z : State} (s : State) (d : Desc) (hs : Kept z s) :
    Kept z (freeWork s d) := by
  unfold freeWork
  repeat' (first | with_reducible assumption | with_reducible apply freeBytes_kept | split)

theorem runReduce_kept {z : State} (s0 : State) (o : Op) (ms : List Member) (hs0 : Kept z s0) :
    Kept z (runReduce s0 o ms) := by
  unfold runReduce
  repeat' (first
    | with_reducible assumption | with_reducible apply unitOut_kept | with_reducible apply wrElems_kept
    | with_reducible apply gAdder_kept | with_reducible apply sendMembers_kept
    | with_reducible apply sendSums_kept | dsimp +zetaHave only | split)

theorem runGather_kept {z : State} (s : State) (o : Op) (ms : List Member) (hs : Kept z s) :
    Kept z (runGather s o ms) := by
  unfold runGather
  repeat' (first | with_reducible assumption | with_reducible apply wrElems_kept)

theorem runPermute_kept {z : State} (s : State) (o : Op) (ms : List Member) (hs : Kept z s) :
    Kept z (runPermute s o ms) := by
  unfold runPermute
  repeat' (first | with_reducible assumption | with_reducible apply wrElems_kept)

theorem openAdder_kept {z : State} (s : State) (o : Op) (hs : Kept z s) :
    Kept z (openAdder s o) := by
  unfold openAdder
  repeat' (first
    | with_reducible assumption | dsimp +zetaHave only | split | fail_if_no_progress with_reducible apply Kept.upd)

theorem closeAdder_kept {z : State} (s : State) (ctx idx : Nat) (hs : Kept z s) :
    Kept z (closeAdder s ctx idx) := by
  unfold closeAdder
  repeat' (first
    | with_reducible assumption | dsimp +zetaHave only | fail_if_no_progress with_reducible apply Kept.upd)

theorem runCollective_kept {z : State} (s : State) (ctx idx opcode : Nat) (peers : List Member) (hs : Kept z s) :
    Kept z (runCollective s ctx idx opcode peers) := by
  unfold runCollective
  repeat' (first
    | with_reducible assumption | intro _ | with_reducible apply onOp_kept | with_reducible apply ctxFault_kept
    | with_reducible apply finishOp_kept | with_reducible apply holdTrain_kept
    | with_reducible apply freeWork_kept | with_reducible apply runReduce_kept
    | with_reducible apply runGather_kept | with_reducible apply runPermute_kept
    | with_reducible apply closeAdder_kept | dsimp +zetaHave only | split)

theorem collectBegin_kept {z : State} (s : State) (ctx idx : Nat) (hs : Kept z s) :
    Kept z (collectBegin s ctx idx) := by
  unfold collectBegin
  repeat' (first
    | with_reducible assumption | with_reducible apply updOp_kept | with_reducible apply ctxFault_kept
    | with_reducible apply sendMembers_kept | with_reducible apply openAdder_kept | dsimp +zetaHave only | split)

theorem disturbCollectives_kept {z : State} (s : State) (brake : Bool) (hs : Kept z s) :
    Kept z (disturbCollectives s brake) := by
  unfold disturbCollectives
  repeat' (first
    | with_reducible assumption | dsimp +zetaHave only | split | fail_if_no_progress with_reducible apply Kept.upd)

/-! ### EventDump -/

theorem writeDump_kept {z : State} (s : State) (q : Nat × Nat × List Byte) (hs : Kept z s) :
    Kept z (writeDump s q) := by
  unfold writeDump
  repeat' (first
    | with_reducible assumption | with_reducible apply set2_kept | with_reducible apply countA_kept
    | with_reducible apply wrMem_kept | dsimp +zetaHave only | split)

/-! ### JointedBody -/

theorem setJb_kept {z : State} (s : State) (ctx idx : Nat) (f : JbWork → JbWork) (hs : Kept z s) :
    Kept z (setJb s ctx idx f) := by
  unfold setJb
  repeat' (first | with_reducible assumption | with_reducible apply updOp_kept)

theorem beginBatch_kept {z : State} (s : State) (ctx idx cell : Nat) (hs : Kept z s) :
    Kept z (beginBatch s ctx idx cell) := by
  unfold beginBatch
  repeat' (first | with_reducible assumption | with_reducible apply setJb_kept | dsimp +zetaHave only | split)

theorem beginBatches_kept {z : State} (s : State) (ctx idx : Nat) (d : Desc) (hs : Kept z s) :
    Kept z (beginBatches s ctx idx d) := by
  unfold beginBatches
  repeat' (first
    | with_reducible assumption | intro _ | with_reducible apply beginBatch_kept | with_reducible apply foldl_kept)

theorem jbBegin_kept {z : State} (s : State) (ctx idx : Nat) (hs : Kept z s) :
    Kept z (jbBegin s ctx idx) := by
  unfold jbBegin
  repeat' (first
    | with_reducible assumption | with_reducible apply ctxFault_kept | with_reducible apply setJb_kept
    | with_reducible apply beginBatches_kept | dsimp +zetaHave only | split)

theorem noteFail_kept {z : State} (s : State) (o : Op) (f : JbFail) (hs : Kept z s) :
    Kept z (noteFail s o f) := by
  unfold noteFail
  repeat' (first | with_reducible assumption | with_reducible apply setJb_kept)

theorem jbResult_kept {z : State} (s : State) (o : Op) (cell env : Nat) (r : JbRes) (hs : Kept z s) :
    Kept z (jbResult s o cell env r) := by
  unfold jbResult
  repeat' (first
    | with_reducible assumption | with_reducible apply countF_kept | with_reducible apply wrMem_kept
    | with_reducible apply wrNat_kept | with_reducible apply wrBits_kept | with_reducible apply noteFail_kept
    | dsimp +zetaHave only | split)

theorem jbEnv_kept {z : State} (o : Op) (cell : Nat) (s : State) (env : Nat) (hs : Kept z s) :
    Kept z (jbEnv o cell s env) := by
  unfold jbEnv
  repeat' (first
    | with_reducible assumption | with_reducible apply wrMem_kept | with_reducible apply jbResult_kept
    | dsimp +zetaHave only | split)

theorem jbMaybeEnd_kept {z : State} (s : State) (ctx idx : Nat) (hs : Kept z s) :
    Kept z (jbMaybeEnd s ctx idx) := by
  unfold jbMaybeEnd
  repeat' (first
    | with_reducible assumption | with_reducible apply updOp_kept | with_reducible apply endOp_kept
    | dsimp +zetaHave only | split)

theorem wakeUnits_kept {z : State} (s : State) (cell : Nat) (hs : Kept z s) :
    Kept z (wakeUnits s cell) := by
  unfold wakeUnits
  repeat' (first
    | with_reducible assumption | intro _ | with_reducible apply beginUnit_kept | with_reducible apply foldl_kept
    | dsimp +zetaHave only | split)

theorem wakeBatches_kept {z : State} (s : State) (cell : Nat) (hs : Kept z s) :
    Kept z (wakeBatches s cell) := by
  unfold wakeBatches
  repeat' (first
    | with_reducible assumption | intro _ | with_reducible apply beginBatch_kept | with_reducible apply foldl_kept
    | dsimp +zetaHave only | split)

theorem noteLate_kept {z : State} (s : State) (ctx idx : Nat) (hs : Kept z s) :
    Kept z (noteLate s ctx idx) := by
  unfold noteLate
  repeat' (first | with_reducible assumption | with_reducible apply setJb_kept | dsimp +zetaHave only | split)

theorem batchEnd_kept {z : State} (s : State) (o : Op) (b : Nat) (hs : Kept z s) :
    Kept z (batchEnd s o b) := by
  unfold batchEnd
  repeat' (first
    | with_reducible assumption | intro _ | with_reducible apply setJb_kept | with_reducible apply jbEnv_kept
    | with_reducible apply jbMaybeEnd_kept | with_reducible apply wakeUnits_kept
    | with_reducible apply wakeBatches_kept | with_reducible apply noteLate_kept | with_reducible apply foldl_kept)

theorem batchesRun_kept {z : State} (s : State) (o : Op) (hs : Kept z s) :
    Kept z (batchesRun s o) := by
  unfold batchesRun
  repeat' (first
    | with_reducible assumption | intro _ | with_reducible apply batchEnd_kept | with_reducible apply foldl_kept
    | dsimp +zetaHave only | split)

theorem resetEnv_kept {z : State} (a : Nat) (s : State) (env : Nat) (hs : Kept z s) :
    Kept z (resetEnv a s env) := by
  unfold resetEnv
  repeat' (first
    | with_reducible assumption | with_reducible apply countA_kept | with_reducible apply wrMem_kept
    | dsimp +zetaHave only | split)

theorem loopBegin_kept {z : State} (s : State) (o : Op) (hs : Kept z s) :
    Kept z (loopBegin s o) := by
  unfold loopBegin
  repeat' (first
    | with_reducible assumption | intro _ | with_reducible apply setJb_kept
    | with_reducible apply beginBatches_kept | with_reducible apply resetEnv_kept
    | with_reducible apply foldl_kept)

theorem observe_kept {z : State} (o : Op) (s : State) (env : Nat) (hs : Kept z s) :
    Kept z (observe o s env) := by
  unfold observe
  repeat' (first | with_reducible assumption | with_reducible apply wrMem_kept)

theorem loopEnd_kept {z : State} (s : State) (o : Op) (hs : Kept z s) :
    Kept z (loopEnd s o) := by
  unfold loopEnd
  repeat' (first
    | with_reducible assumption | intro _ | with_reducible apply countA_kept | with_reducible apply semAdd_kept
    | with_reducible apply endOp_kept | with_reducible apply setJb_kept | with_reducible apply observe_kept
    | with_reducible apply foldl_kept | with_reducible apply foldl1_kept | dsimp +zetaHave only | split)

theorem loopRun_kept {z : State} (ctx idx : Nat) (a0 : Nat) (a1 : State) (ha1 : Kept z a1) :
    Kept z (loopRun ctx idx a0 a1) := by
  induction a0 generalizing a1 with
  | zero =>
    unfold loopRun
    repeat' (first | with_reducible assumption)
  | succ n ih =>
    unfold loopRun
    repeat' (first
      | with_reducible apply ih | with_reducible assumption | with_reducible apply batchesRun_kept
      | with_reducible apply loopBegin_kept | with_reducible apply loopEnd_kept | dsimp +zetaHave only | split)

theorem dropBatches_kept {z : State} (s : State) (cell : Nat) (brake : Bool) (hs : Kept z s) :
    Kept z (dropBatches s cell brake) := by
  unfold dropBatches
  repeat' (first
    | with_reducible assumption | intro _ | with_reducible apply updOp_kept | with_reducible apply foldl_kept)

/-! ### Mailbox -/

theorem mboxAnswer_kept {z : State} (s : State) (m : MboxOut) (hs : Kept z s) :
    Kept z (mboxAnswer s m) := by
  unfold mboxAnswer
  repeat' (first
    | with_reducible assumption | dsimp +zetaHave only | fail_if_no_progress with_reducible apply Kept.upd)

theorem mboxCode_kept {z : State} (s : State) (c : MboxCode) (hs : Kept z s) :
    Kept z (mboxCode s c) := by
  unfold mboxCode
  repeat' (first | with_reducible assumption | with_reducible apply mboxAnswer_kept)

theorem noteFw_kept {z : State} (s : State) (c : Nat) (x : FwSeen) (hs : Kept z s) :
    Kept z (noteFw s c x) := by
  unfold noteFw
  repeat' (first | with_reducible assumption | with_reducible apply setBoot_kept)

/-! ### Disturb -/

theorem rerunOps_kept {z : State} (s : State) (p : Op → Bool) (brake : Bool) (hs : Kept z s) :
    Kept z (rerunOps s p brake) := by
  unfold rerunOps
  repeat' (first
    | with_reducible assumption | dsimp +zetaHave only | split | fail_if_no_progress with_reducible apply Kept.upd)

theorem disturbCell_kept {z : State} (s : State) (n : Nat) (brake : Bool) (hs : Kept z s) :
    Kept z (disturbCell s n brake) := by
  unfold disturbCell
  repeat' (first
    | with_reducible assumption | with_reducible apply dropTiles_kept | with_reducible apply dropUnits_kept
    | with_reducible apply truDropCell_kept | with_reducible apply dropBatches_kept
    | with_reducible apply rerunOps_kept)

theorem disturbMill_kept {z : State} (s : State) (m : Nat) (brake : Bool) (hs : Kept z s) :
    Kept z (disturbMill s m brake) := by
  unfold disturbMill
  repeat' (first
    | with_reducible assumption | intro _ | with_reducible apply disturbTruing_kept
    | with_reducible apply rerunOps_kept | with_reducible apply disturbCell_kept | with_reducible apply foldl_kept)

theorem disturbLanding_kept {z : State} (s : State) (brake : Bool) (hs : Kept z s) :
    Kept z (disturbLanding s brake) := by
  unfold disturbLanding
  repeat' (first
    | with_reducible assumption | with_reducible apply disturbReshard_kept
    | with_reducible apply disturbCollectives_kept | with_reducible apply rerunOps_kept)

theorem disturbSeed_kept {z : State} (s : State) (hs : Kept z s) :
    Kept z (disturbSeed s) := by
  unfold disturbSeed
  repeat' (first
    | with_reducible assumption | intro _ | with_reducible apply dropTiles_kept
    | with_reducible apply truDropCell_kept | with_reducible apply foldl_kept)

theorem brakeDrop_kept {z : State} (s : State) (hs : Kept z s) :
    Kept z (brakeDrop s) := by
  unfold brakeDrop
  repeat' (first
    | with_reducible assumption | intro _ | with_reducible apply disturbMill_kept
    | with_reducible apply disturbLanding_kept | with_reducible apply foldl_kept)

theorem disturbBlock_kept {z : State} (s : State) (b : Blk) (hs : Kept z s) :
    Kept z (disturbBlock s b) := by
  unfold disturbBlock
  repeat' (first
    | with_reducible assumption | with_reducible apply disturbCell_kept | with_reducible apply disturbMill_kept
    | with_reducible apply disturbLanding_kept | split)

/-! ### Power -/

theorem setPower_kept {z : State} (s : State) (f : PowerRt → PowerRt) (hs : Kept z s) :
    Kept z (setPower s f) := by
  unfold setPower
  repeat' (first
    | with_reducible assumption | dsimp +zetaHave only | fail_if_no_progress with_reducible apply Kept.upd)

theorem governorTo_kept {z : State} (s : State) (k : Nat) (hs : Kept z s) :
    Kept z (governorTo s k) := by
  unfold governorTo
  repeat' (first
    | with_reducible assumption | with_reducible apply setD_kept | with_reducible apply setPower_kept
    | dsimp +zetaHave only | split)

theorem brakeStart_kept {z : State} (s : State) (mask : Nat) (hs : Kept z s) :
    Kept z (brakeStart s mask) := by
  unfold brakeStart
  repeat' (first
    | with_reducible assumption | with_reducible apply set2_kept | with_reducible apply setD_kept
    | with_reducible apply countD_kept | with_reducible apply brakeDrop_kept
    | with_reducible apply governorTo_kept)

theorem jtagTake_kept {z : State} (s : State) (i : JtagInstr) (captured : Nat) (hs : Kept z s) :
    Kept z (jtagTake s i captured) := by
  unfold jtagTake
  repeat' (first
    | with_reducible assumption | dsimp +zetaHave only | split | fail_if_no_progress with_reducible apply Kept.upd)

/-! ### Outputs -/

theorem overlaid_kept {z : State} (s : State) (o : Op) (hs : Kept z s) :
    Kept z (overlaid s o) := by
  unfold overlaid
  repeat' (first
    | with_reducible assumption | dsimp +zetaHave only | fail_if_no_progress with_reducible apply Kept.upd
    | with_reducible apply Kept.mem)

/-! ### Rings -/

theorem completeWith_kept {z : State} (s : State) (ctx idx : Nat) (d : Desc) (e : OpEnd) (hs : Kept z s) :
    Kept z (completeWith s ctx idx d e) := by
  unfold completeWith
  repeat' (first
    | with_reducible assumption | with_reducible apply semAdd_kept | with_reducible apply writeEntry_kept
    | dsimp +zetaHave only | split)

theorem fetchNext_kept {z : State} (s : State) (x : Ctx) (hs : Kept z s) :
    Kept z (fetchNext s x) := by
  unfold fetchNext
  repeat' (first
    | with_reducible assumption | with_reducible apply updCtx_kept | with_reducible apply ctxFault_kept
    | with_reducible apply noteIdle_kept | with_reducible apply completeWith_kept | dsimp +zetaHave only | split)

theorem compressBegin_kept {z : State} (s : State) (ctx idx : Nat) (d : Desc) (hs : Kept z s) :
    Kept z (compressBegin s ctx idx d) := by
  unfold compressBegin
  repeat' (first | with_reducible assumption | with_reducible apply updOp_kept | dsimp +zetaHave only | split)

theorem beginWork_kept {z : State} (s : State) (ctx idx : Nat) (d : Desc) (hs : Kept z s) :
    Kept z (beginWork s ctx idx d) := by
  unfold beginWork
  repeat' (first
    | with_reducible assumption | with_reducible apply matBegin_kept | with_reducible apply vecBegin_kept
    | with_reducible apply updBegin_kept | with_reducible apply stampBegin_kept
    | with_reducible apply yardBegin_kept | with_reducible apply truBegin_kept
    | with_reducible apply rotBegin_kept | with_reducible apply tallyCloseBegin_kept
    | with_reducible apply collectBegin_kept | with_reducible apply jbBegin_kept
    | with_reducible apply compressBegin_kept | dsimp +zetaHave only | split)

theorem beginTally_kept {z : State} (s t : State) (ctx idx : Nat) (d : Desc) (hs : Kept z s) (ht : Kept z t) :
    Kept z (beginTally s t ctx idx d) := by
  unfold beginTally
  split
  · exact ctxFault_kept _ _ _ _ _ hs
  · split
    · exact ht
    · next o _ =>
      cases h : tallyGens t d o.facs with
      | none => exact ctxFault_kept _ _ _ _ _ hs
      | some u => exact tallyGens_kept _ _ _ _ h ht

theorem beginHeld_kept {z : State} (s : State) (x : Ctx) (h : Held) (hs : Kept z s) :
    Kept z (beginHeld s x h) := by
  unfold beginHeld
  repeat' (first
    | with_reducible assumption | with_reducible apply updCtx_kept | with_reducible apply endOp_kept
    | with_reducible apply ctxFault_kept | with_reducible apply beginWork_kept
    | with_reducible apply beginTally_kept | dsimp +zetaHave only | split
    | fail_if_no_progress with_reducible apply Kept.upd)

theorem settleBind_kept {z : State} (s : State) (o : Op) (b : Bind) (hs : Kept z s) :
    Kept z (settleBind s o b) := by
  unfold settleBind
  repeat' (first
    | with_reducible assumption | with_reducible apply updOp_kept | with_reducible apply sclSettle_kept
    | dsimp +zetaHave only | split)

theorem mendOp_kept {z : State} (s : State) (o : Op) (hs : Kept z s) :
    Kept z (mendOp s o) := by
  unfold mendOp
  repeat' (first
    | with_reducible assumption | with_reducible apply updOp_kept | with_reducible apply holdOver_kept
    | with_reducible apply sclMend_kept | with_reducible apply overlaid_kept
    | with_reducible apply settleBind_kept | dsimp +zetaHave only | split)

theorem countRunChecks_kept {z : State} (s : State) (d : Desc) (hs : Kept z s) :
    Kept z (countRunChecks s d) := by
  unfold countRunChecks
  repeat' (first
    | with_reducible assumption | intro _ | with_reducible apply countF_kept | with_reducible apply event_kept
    | with_reducible apply foldl_kept)

theorem thirdSide_kept {z : State} (s : State) (o : Op) (m : List Host.Cell) (hs : Kept z s) :
    Kept z (thirdSide s o m).1 := by
  unfold thirdSide
  dsimp +zetaHave only
  rw [Nat.add_assoc]
  exact Kept.drew hs ..

theorem levelRunEnd_kept {z : State} (s0 : State) (o : Op) (alt : List (Nat × Byte)) (hs0 : Kept z s0) :
    Kept z (levelRunEnd s0 o alt) := by
  unfold levelRunEnd
  repeat' (first
    | with_reducible assumption | with_reducible apply wrMem_kept | with_reducible apply updOp_kept
    | with_reducible apply endOp_kept | with_reducible apply endWithRecord_kept
    | with_reducible apply holdOver_kept | with_reducible apply overlaid_kept
    | with_reducible apply countRunChecks_kept | with_reducible apply thirdSide_kept | dsimp +zetaHave only
    | split)

theorem parkEntry_kept {z : State} (s : State) (o : Op) (detail : Nat) (hs : Kept z s) :
    Kept z (parkEntry s o detail) := by
  unfold parkEntry
  repeat' (first
    | with_reducible assumption | with_reducible apply updCtx_kept | with_reducible apply writeEntry_kept)

theorem parkOp_kept {z : State} (s : State) (o : Op) (progress : Nat) (hs : Kept z s) :
    Kept z (parkOp s o progress) := by
  unfold parkOp
  repeat' (first
    | with_reducible assumption | with_reducible apply countF_kept | with_reducible apply event_kept
    | with_reducible apply updOp_kept | with_reducible apply parkSave_kept | with_reducible apply parkEntry_kept
    | dsimp +zetaHave only | split)

theorem resumeWork_kept {z : State} (s : State) (o : Op) (us : List Nat) (hs : Kept z s) :
    Kept z (resumeWork s o us) := by
  unfold resumeWork
  repeat' (first
    | with_reducible assumption | intro _ | with_reducible apply offerTile_kept
    | with_reducible apply beginUnit_kept | with_reducible apply beginBatches_kept
    | with_reducible apply foldl_kept | dsimp +zetaHave only | split)

theorem endEcc_kept {z : State} (s : State) (o : Op) (e : OpEnd) (ecc : Ecc) (hs : Kept z s) :
    Kept z (endEcc s o e ecc).1 := by
  unfold endEcc
  repeat' (first
    | with_reducible assumption | intro _ | with_reducible apply writeFault_kept
    | with_reducible apply hbmUncorrectable_kept | with_reducible apply hbmEcc_kept
    | with_reducible apply foldl_kept | with_reducible apply foldl1_kept | dsimp +zetaHave only | split)

theorem removeOp_kept {z : State} (s : State) (o : Op) (hs : Kept z s) :
    Kept z (removeOp s o) := by
  unfold removeOp
  repeat' (first
    | with_reducible assumption | with_reducible apply updCtx_kept | with_reducible apply clearCells_kept
    | with_reducible apply skidFree_kept | with_reducible apply noteIdle_kept
    | with_reducible apply finishReset_kept | dsimp +zetaHave only
    | fail_if_no_progress with_reducible apply Kept.upd)

theorem endNow_kept {z : State} (s : State) (o : Op) (e : OpEnd) (ecc : Ecc) (hs : Kept z s) :
    Kept z (endNow s o e ecc) := by
  unfold endNow
  repeat' (first
    | with_reducible assumption | with_reducible apply wrMem_kept | with_reducible apply applySide_kept
    | with_reducible apply importEnd_kept | with_reducible apply replicaCount_kept
    | with_reducible apply tallyAdd_kept | with_reducible apply closeAdder_kept
    | with_reducible apply completeWith_kept | with_reducible apply endEcc_kept
    | with_reducible apply removeOp_kept | dsimp +zetaHave only | split)

/-! ### RegWrite -/

theorem storeVal_kept {z : State} (b : Blk) (s : State) (x : FldVal) (hs : Kept z s) :
    Kept z (storeVal b s x) := by
  unfold storeVal
  repeat' (first
    | with_reducible assumption | with_reducible apply setF_kept | dsimp +zetaHave only | split
    | fail_if_no_progress with_reducible apply Kept.upd | with_reducible apply Kept.sawRest)

theorem controlEffect_kept {z : State} (old s : State) (x : FldVal) (hold : Kept z old) (hs : Kept z s) :
    Kept z (controlEffect old s x) := by
  unfold controlEffect
  repeat' (first
    | with_reducible assumption | with_reducible apply setA_kept | with_reducible apply sclCheck_kept
    | with_reducible apply panStart_kept | with_reducible apply ringDisable_kept
    | with_reducible apply runChanged_kept | with_reducible apply slotEnable_kept
    | with_reducible apply axisEnable_kept | with_reducible apply routeEnable_kept
    | with_reducible apply chainPump_kept | with_reducible apply chainEffects_kept | dsimp +zetaHave only | split
    | fail_if_no_progress with_reducible apply Kept.upd)

theorem ctxAction_kept {z : State} (s : State) (action : Nat) (hs : Kept z s) :
    Kept z (ctxAction s action) := by
  unfold ctxAction
  repeat' (first
    | with_reducible assumption | with_reducible apply ctxResume_kept | with_reducible apply ctxResumeAtHead_kept
    | with_reducible apply ctxReset_kept | dsimp +zetaHave only | split)

theorem keyEffect_kept {z : State} (rng : Bool) (old s : State) (x : FldVal) (hold : Kept z old) (hs : Kept z s) :
    Kept z (keyEffect rng old s x) := by
  unfold keyEffect
  repeat' (first
    | with_reducible assumption | with_reducible apply setA_kept | with_reducible apply keyClear_kept
    | with_reducible apply kerfRoll_kept | with_reducible apply kerfStage_kept
    | with_reducible apply authResume_kept | with_reducible apply standArm_kept
    | with_reducible apply sessValid_kept | with_reducible apply rngRestart_kept
    | with_reducible apply ctxAction_kept | split)

theorem linkEffect_kept {z : State} (n : Nat) (s : State) (x : FldVal) (hs : Kept z s) :
    Kept z (linkEffect n s x) := by
  unfold linkEffect
  repeat' (first
    | with_reducible assumption | with_reducible apply linkEnable_kept | with_reducible apply groupRetrain_kept
    | with_reducible apply groupMode_kept | split)

theorem fieldEffect_kept {z : State} (rng : Bool) (old : State) (b : Blk) (s : State) (x : FldVal)
    (hold : Kept z old) (hs : Kept z s) :
    Kept z (fieldEffect rng old b s x) := by
  unfold fieldEffect
  repeat' (first
    | with_reducible assumption | with_reducible apply cellSet_kept | with_reducible apply timeSet_kept
    | with_reducible apply groupReview_kept | with_reducible apply disturbSeed_kept
    | with_reducible apply controlEffect_kept | with_reducible apply keyEffect_kept
    | with_reducible apply linkEffect_kept | dsimp +zetaHave only | split)

theorem fieldRefused_kept {z : State} (b : Blk) (s : State) (x : FldVal) (hs : Kept z s) :
    Kept z (fieldRefused b s x) := by
  unfold fieldRefused
  repeat' (first
    | with_reducible assumption | with_reducible apply setA_kept | with_reducible apply setB_kept
    | with_reducible apply setG_kept | with_reducible apply sessPut_kept | split)

theorem disturbWrite_kept {z : State} (s : State) (b : Blk) (xs : List FldVal) (hs : Kept z s) :
    Kept z (disturbWrite s b xs) := by
  unfold disturbWrite
  repeat' (first | with_reducible assumption | with_reducible apply disturbBlock_kept | dsimp +zetaHave only | split)

theorem putVals_kept {z : State} (rng : Bool) (s : State) (b : Blk) (xs : List FldVal) (hs : Kept z s) :
    Kept z (putVals rng s b xs) := by
  unfold putVals
  repeat' (first
    | with_reducible assumption | intro _ | with_reducible apply storeVal_kept
    | with_reducible apply fieldEffect_kept | with_reducible apply fieldRefused_kept
    | with_reducible apply foldl_kept)

theorem applyVals_kept {z : State} (rng : Bool) (s : State) (b : Blk) (xs : List FldVal) (hs : Kept z s) :
    Kept z (applyVals rng s b xs) := by
  unfold applyVals
  repeat' (first
    | with_reducible assumption | with_reducible apply disturbWrite_kept | with_reducible apply putVals_kept
    | dsimp +zetaHave only | split)

theorem applyAlias_kept {z : State} (rng : Bool) (s : State) (b : Blk) (how : Nat) (xs : List FldVal)
    (hs : Kept z s) :
    Kept z (applyAlias rng s b how xs) := by
  unfold applyAlias
  repeat' (first
    | with_reducible assumption | intro _ | with_reducible apply fieldRefused_kept
    | with_reducible apply applyVals_kept | with_reducible apply foldl_kept | dsimp +zetaHave only | split)

theorem takeOne_kept {z : State} (rng : Bool) (s : State) (p : Posted) (hs : Kept z s) :
    Kept z (takeOne rng s p) := by
  unfold takeOne
  repeat' (first
    | with_reducible assumption | with_reducible apply disturbWrite_kept | with_reducible apply putVals_kept
    | with_reducible apply applyVals_kept | with_reducible apply applyAlias_kept | dsimp +zetaHave only | split)

theorem takePosted_kept {z : State} (s : State) (hs : Kept z s) : Kept z (takePosted s) :=
  foldl_kept _ _ _ (hs.of rfl rfl rfl (Nat.le_succ _) (fun h => h)) (fun t x ht => takeOne_kept _ t x ht)

theorem stopIdle_kept {z : State} (s : State) (hs : Kept z s) : Kept z (stopIdle s) := by
  have e : (s.cells.map (fun p => if cellUsed s p.1 then p else (p.1, { p.2 with stopped := true }))) =
      s.cells.map (fun p => (p.1, if cellUsed s p.1 then p.2 else { p.2 with stopped := true })) :=
    List.map_congr_left (fun p _ => by split <;> rfl)
  unfold stopIdle
  dsimp +zetaHave only
  rw [e]
  refine hs.of rfl rfl rfl (Nat.le_refl _) (fun h => ?_)
  rw [State.canonical_iff] at *
  obtain ⟨k1, k2, k3, k4, k5, k6, k7, k8, k9, k⟩ := h
  exact ⟨k1, k2, k3, k4, k5, k6, k7, k8, sparseWf_mapFilter cellIdle _ _ k9, k⟩

theorem mergeAt_kept {z : State} (s : State) (p : Nat × Nat) (hs : Kept z s) :
    Kept z (mergeAt s p) := by
  unfold mergeAt
  repeat' (first
    | with_reducible assumption | with_reducible apply countA_kept | with_reducible apply countB_kept
    | with_reducible apply event_kept | with_reducible apply takeFree_kept | dsimp +zetaHave only | split)

theorem takeNotices_kept {z : State} (s : State) (hs : Kept z s) :
    Kept z (takeNotices s) := by
  unfold takeNotices
  repeat' (first
    | with_reducible assumption | intro _ | with_reducible apply mergeAt_kept | with_reducible apply foldl_kept
    | dsimp +zetaHave only | fail_if_no_progress with_reducible apply Kept.upd)

theorem countTraffic_kept {z : State} (s : State) (base : Nat) (hs : Kept z s) :
    Kept z (countTraffic s base) := by
  unfold countTraffic
  repeat' (first
    | with_reducible assumption | with_reducible apply event_kept | dsimp +zetaHave only
    | fail_if_no_progress with_reducible apply Kept.upd | with_reducible apply Kept.drew)

theorem blockCycles_kept {z : State} (f a : Nat) (s : State) (b : Blk) (hs : Kept z s) :
    Kept z (blockCycles f a s b) := by
  unfold blockCycles
  repeat' (first
    | with_reducible assumption | with_reducible apply event_kept | with_reducible apply countTraffic_kept | split)

theorem tickClocks_kept {z : State} (s : State) (hs : Kept z s) :
    Kept z (tickClocks s) := by
  unfold tickClocks
  repeat' (first
    | with_reducible assumption | intro _ | with_reducible apply blockCycles_kept
    | with_reducible apply foldl_kept | with_reducible apply foldl1_kept | dsimp +zetaHave only
    | fail_if_no_progress with_reducible apply Kept.upd)

theorem idleCycle_kept {z : State} (s : State) (hs : Kept z s) :
    Kept z (idleCycle s) := by
  unfold idleCycle
  repeat' (first
    | with_reducible assumption | with_reducible apply tickTai_kept | with_reducible apply tickIfDue_kept
    | with_reducible apply takePosted_kept | with_reducible apply stopIdle_kept
    | with_reducible apply takeNotices_kept | with_reducible apply tickClocks_kept | dsimp +zetaHave only | split)

theorem holdLow_kept {z : State} (s : State) (a data : Nat) (hs : Kept z s) :
    Kept z (holdLow s a data) := by
  unfold holdLow
  repeat' (first
    | with_reducible assumption | dsimp +zetaHave only | fail_if_no_progress with_reducible apply Kept.upd)

theorem dropLow_kept {z : State} (s : State) (a : Nat) (hs : Kept z s) :
    Kept z (dropLow s a) := by
  unfold dropLow
  repeat' (first
    | with_reducible assumption | dsimp +zetaHave only | fail_if_no_progress with_reducible apply Kept.upd)

theorem writeHigh_kept {z : State} (rng : Bool) (s : State) (b : Blk) (r data : Nat) (hs : Kept z s) :
    Kept z (writeHigh rng s b r data) := by
  unfold writeHigh
  repeat' (first
    | with_reducible assumption | with_reducible apply applyVals_kept | with_reducible apply dropLow_kept
    | dsimp +zetaHave only | split | fail_if_no_progress with_reducible apply Kept.upd)

theorem writeWord_kept {z : State} (rng : Bool) (b : Blk) (s : State) (w : Nat × Nat) (hs : Kept z s) :
    Kept z (writeWord rng b s w) := by
  unfold writeWord
  repeat' (first
    | with_reducible assumption | with_reducible apply countF_kept | with_reducible apply putVals_kept
    | with_reducible apply applyVals_kept | with_reducible apply applyAlias_kept
    | with_reducible apply holdLow_kept | with_reducible apply writeHigh_kept | dsimp +zetaHave only | split
    | fail_if_no_progress with_reducible apply Kept.upd)

theorem dropWrite_kept {z : State} (s : State) (b : Blk) (hs : Kept z s) :
    Kept z (dropWrite s b) := by
  unfold dropWrite
  repeat' (first | with_reducible assumption | with_reducible apply setF_kept | with_reducible apply countF_kept)

theorem blkWrite_kept {z : State} (rng : Bool) (s : State) (b : Blk) (r4 size data : Nat) (hs : Kept z s) :
    Kept z (blkWrite rng s b r4 size data) := by
  unfold blkWrite
  repeat' (first
    | with_reducible assumption | intro _ | with_reducible apply countF_kept | with_reducible apply countD_kept
    | with_reducible apply writeWord_kept | with_reducible apply dropWrite_kept | with_reducible apply foldl_kept
    | dsimp +zetaHave only | split)

theorem pageWrite_kept {z : State} (s : State) (w : Nat × Nat) (hs : Kept z s) :
    Kept z (pageWrite s w) := by
  unfold pageWrite
  repeat' (first
    | with_reducible assumption | with_reducible apply sqDoorbell_kept | with_reducible apply cqDoorbell_kept
    | dsimp +zetaHave only | split)

theorem bar0Write_kept {z : State} (rng : Bool) (s : State) (x size data : Nat) (hs : Kept z s) :
    Kept z (bar0Write rng s x size data) := by
  unfold bar0Write
  repeat' (first
    | with_reducible assumption | intro _ | with_reducible apply countD_kept | with_reducible apply blkWrite_kept
    | with_reducible apply pageWrite_kept | with_reducible apply foldl_kept | with_reducible apply foldl1_kept
    | split)

theorem bar2Write_kept {z : State} (s : State) (x size data : Nat) (hs : Kept z s) :
    Kept z (bar2Write s x size data) := by
  unfold bar2Write
  repeat' (first
    | with_reducible assumption | with_reducible apply countA_kept | with_reducible apply countD_kept
    | with_reducible apply semWrite_kept | with_reducible apply barrierWrite_kept | split)

theorem bar4Write_kept {z : State} (s : State) (x size data : Nat) (hs : Kept z s) :
    Kept z (bar4Write s x size data) := by
  unfold bar4Write
  repeat' (first
    | with_reducible assumption | dsimp +zetaHave only | split | fail_if_no_progress with_reducible apply Kept.upd
    | with_reducible apply Kept.msixTable)

theorem hostWrite_kept {z : State} (rng : Bool) (s : State) (bar off size data : Nat) (hs : Kept z s) :
    Kept z (hostWrite rng s bar off size data) := by
  unfold hostWrite
  repeat' (first
    | with_reducible assumption | with_reducible apply bar0Write_kept | with_reducible apply bar2Write_kept
    | with_reducible apply bar4Write_kept | split)

theorem rowWrite_kept {z : State} (rng : Bool) (s : State) (b : Blk) (r data : Nat) (hs : Kept z s) :
    Kept z (rowWrite rng s b r data) := by
  unfold rowWrite
  repeat' (first
    | with_reducible assumption | intro _ | with_reducible apply takeOne_kept
    | with_reducible apply hostWrite_kept | with_reducible apply foldl_kept | dsimp +zetaHave only
    | fail_if_no_progress with_reducible apply Kept.upd)

theorem blkRead_kept {z : State} (s : State) (b : Blk) (r4 size : Nat) (hs : Kept z s) :
    Kept z (blkRead s b r4 size) := by
  unfold blkRead
  repeat' (first
    | with_reducible assumption | with_reducible apply countF_kept | with_reducible apply countD_kept
    | with_reducible apply answer_kept | dsimp +zetaHave only | split)

theorem bar0Read_kept {z : State} (s : State) (x size : Nat) (hs : Kept z s) :
    Kept z (bar0Read s x size) := by
  unfold bar0Read
  repeat' (first
    | with_reducible assumption | with_reducible apply countD_kept | with_reducible apply answer_kept
    | with_reducible apply blkRead_kept | dsimp +zetaHave only | split)

theorem bar2Read_kept {z : State} (s : State) (x size : Nat) (hs : Kept z s) :
    Kept z (bar2Read s x size) := by
  unfold bar2Read
  repeat' (first
    | with_reducible assumption | with_reducible apply countA_kept | with_reducible apply countD_kept
    | with_reducible apply answer_kept | dsimp +zetaHave only | split)

theorem hostRead_kept {z : State} (s : State) (bar off size : Nat) (hs : Kept z s) :
    Kept z (hostRead s bar off size) := by
  unfold hostRead
  repeat' (first
    | with_reducible assumption | with_reducible apply answer_kept | with_reducible apply bar0Read_kept
    | with_reducible apply bar2Read_kept | split)

/-! ### Retire -/

theorem serveWait_kept {z : State} (s : State) (w : HbmWait) (hs : Kept z s) :
    Kept z (serveWait s w) := by
  unfold serveWait
  repeat' (first
    | with_reducible assumption | with_reducible apply wrMem_kept | with_reducible apply serveRead_kept
    | with_reducible apply deliverMsg_kept | split)

/-! ### VecRun -/

theorem vecWhole_kept {z : State} (s : State) (o : Op) (hs : Kept z s) :
    Kept z (vecWhole s o) := by
  unfold vecWhole
  repeat' (first
    | with_reducible assumption | intro _ | with_reducible apply holdTrain_kept | with_reducible apply onSide_kept
    | with_reducible apply vecRunAll_kept | with_reducible apply wakeBatches_kept
    | with_reducible apply foldl_kept)

/-! ### The part record's copy -/

/-- The signed copy is canonical where the flash is. -/
theorem signedCopy_wf (s : State) (h : memWf s.flash = true) : memWf (signedCopy s) = true :=
  memWriteAll_wf _ _ (memWriteAll_wf _ _ (memWriteAll_wf _ _ (memWriteAll_wf _ _ (sparseWf_filter _ _ _ h))))

/-- A copy reads back canonical where it is written canonical. -/
theorem readBack_wf (s : State) (f : List Host.Cell) (alt : List (Nat × Byte)) (h : memWf f = true) :
    memWf (readBack s f alt) = true := memWriteAll_wf _ _ h

end Sys2Proof.Machine
end

