-- ==== Sys2Proof/Laws/Regs.lean ====
section
/-!
SUPPORT. Laws of register fields: a field reads back as written, and a write leaves every other field as it reads.
-/

namespace Sys2Proof.Machine

/-- The parts of a natural number below, in and above a field. -/
theorem setBits_eq (w hi lo v : Nat) : setBits w hi lo v =
    w / 2 ^ (lo + (hi + 1 - lo)) * 2 ^ (lo + (hi + 1 - lo)) + (v % 2 ^ (hi + 1 - lo)) * 2 ^ lo + w % 2 ^ lo := by
  unfold setBits bits
  rw [Nat.shiftRight_eq_div_pow]
  generalize hi + 1 - lo = n
  have h1 : w = w / 2 ^ lo * 2 ^ lo + w % 2 ^ lo := by rw [Nat.mul_comm]; exact (Nat.div_add_mod w (2 ^ lo)).symm
  have h2 : w / 2 ^ lo = w / 2 ^ lo / 2 ^ n * 2 ^ n + w / 2 ^ lo % 2 ^ n := by
    rw [Nat.mul_comm]; exact (Nat.div_add_mod _ _).symm
  have h3 : w / 2 ^ lo / 2 ^ n = w / 2 ^ (lo + n) := by rw [Nat.div_div_eq_div_mul, Nat.pow_add]
  rw [h3] at h2
  have h4 : w / 2 ^ lo * 2 ^ lo = w / 2 ^ (lo + n) * 2 ^ (lo + n) + w / 2 ^ lo % 2 ^ n * 2 ^ lo := by
    conv_lhs => rw [h2]
    rw [Nat.add_mul, Nat.mul_assoc, ← Nat.pow_add, Nat.add_comm n lo]
  omega

/-- A field replaced reads as its new value. -/
theorem bits_setBits_same (w hi lo v : Nat) : bits (setBits w hi lo v) hi lo = v % 2 ^ (hi + 1 - lo) := by
  rw [setBits_eq]
  unfold bits
  rw [Nat.shiftRight_eq_div_pow]
  generalize hi + 1 - lo = n
  have hp : 0 < 2 ^ lo := Nat.two_pow_pos lo
  have e : w / 2 ^ (lo + n) * 2 ^ (lo + n) + v % 2 ^ n * 2 ^ lo + w % 2 ^ lo =
      2 ^ lo * (2 ^ n * (w / 2 ^ (lo + n)) + v % 2 ^ n) + w % 2 ^ lo := by
    rw [Nat.mul_add, Nat.pow_add]; ring
  rw [e, Nat.mul_add_div hp, Nat.div_eq_of_lt (Nat.mod_lt _ hp), Nat.add_zero, Nat.mul_add_mod, Nat.mod_mod]

/-- A field replaced leaves the fields above it. -/
theorem bits_setBits_above (w hi lo v hi' lo' : Nat) (hl : lo ≤ hi) (h : hi < lo') :
    bits (setBits w hi lo v) hi' lo' = bits w hi' lo' := by
  have e : setBits w hi lo v / 2 ^ lo' = w / 2 ^ lo' := by
    rw [setBits_eq]
    obtain ⟨k, rfl⟩ := Nat.exists_eq_add_of_le (show lo + (hi + 1 - lo) ≤ lo' by omega)
    generalize hi + 1 - lo = n
    have hp : 0 < 2 ^ (lo + n) := Nat.two_pow_pos _
    have hx : (v % 2 ^ n) * 2 ^ lo + w % 2 ^ lo < 2 ^ (lo + n) := by
      have a := Nat.mod_lt v (Nat.two_pow_pos n)
      have b := Nat.mod_lt w (Nat.two_pow_pos lo)
      calc (v % 2 ^ n) * 2 ^ lo + w % 2 ^ lo < (v % 2 ^ n) * 2 ^ lo + 2 ^ lo := by omega
        _ = (v % 2 ^ n + 1) * 2 ^ lo := by ring
        _ ≤ 2 ^ n * 2 ^ lo := Nat.mul_le_mul_right _ (by omega)
        _ = 2 ^ (lo + n) := by rw [← Nat.pow_add, Nat.add_comm]
    rw [Nat.pow_add _ (lo + n) k, ← Nat.div_div_eq_div_mul, ← Nat.div_div_eq_div_mul]
    congr 1
    rw [Nat.add_assoc, Nat.mul_comm, Nat.mul_add_div hp, Nat.div_eq_of_lt hx, Nat.add_zero]
  unfold bits
  rw [Nat.shiftRight_eq_div_pow, Nat.shiftRight_eq_div_pow, e]

/-- A field replaced leaves the fields below it. -/
theorem bits_setBits_below (w hi lo v hi' lo' : Nat) (hl : lo' ≤ hi') (h : hi' < lo) :
    bits (setBits w hi lo v) hi' lo' = bits w hi' lo' := by
  unfold bits
  rw [Nat.shiftRight_eq_div_pow, Nat.shiftRight_eq_div_pow]
  have e : ∀ x, x / 2 ^ lo' % 2 ^ (hi' + 1 - lo') = x % 2 ^ (hi' + 1) / 2 ^ lo' := by
    intro x
    have : hi' + 1 = lo' + (hi' + 1 - lo') := by omega
    conv_rhs => rw [this, Nat.pow_add]
    rw [Nat.mod_mul_right_div_self]
  rw [e, e]
  congr 1
  rw [setBits_eq]
  obtain ⟨k, rfl⟩ := Nat.exists_eq_add_of_le (show hi' + 1 ≤ lo by omega)
  generalize hi + 1 - (hi' + 1 + k) = n
  have e2 : w / 2 ^ (hi' + 1 + k + n) * 2 ^ (hi' + 1 + k + n) + v % 2 ^ n * 2 ^ (hi' + 1 + k) + w % 2 ^ (hi' + 1 + k) =
      2 ^ (hi' + 1) * (2 ^ k * 2 ^ n * (w / 2 ^ (hi' + 1 + k + n)) + 2 ^ k * (v % 2 ^ n)) + w % 2 ^ (hi' + 1 + k) := by
    rw [Nat.pow_add _ (hi' + 1 + k) n, Nat.pow_add _ (hi' + 1) k]; ring
  rw [e2, Nat.mul_add_mod, Nat.pow_add _ (hi' + 1) k, Nat.mod_mul_right_mod]

/-- A word with a field replaced is a word. -/
theorem setBits_lt (w hi lo v : Nat) (hw : w < 2 ^ 32) (hl : lo ≤ hi) (hh : hi < 32) : setBits w hi lo v < 2 ^ 32 := by
  rw [setBits_eq]
  obtain ⟨k, hk⟩ := Nat.exists_eq_add_of_le (show lo + (hi + 1 - lo) ≤ 32 by omega)
  generalize hi + 1 - lo = n at hk ⊢
  have a := Nat.mod_lt v (Nat.two_pow_pos n)
  have b := Nat.mod_lt w (Nat.two_pow_pos lo)
  have hx : (v % 2 ^ n) * 2 ^ lo + w % 2 ^ lo < 2 ^ (lo + n) := by
    calc (v % 2 ^ n) * 2 ^ lo + w % 2 ^ lo < (v % 2 ^ n) * 2 ^ lo + 2 ^ lo := by omega
      _ = (v % 2 ^ n + 1) * 2 ^ lo := by ring
      _ ≤ 2 ^ n * 2 ^ lo := Nat.mul_le_mul_right _ (by omega)
      _ = 2 ^ (lo + n) := by rw [← Nat.pow_add, Nat.add_comm]
  have hd : w / 2 ^ (lo + n) < 2 ^ k := by
    apply Nat.div_lt_of_lt_mul
    rw [← Nat.pow_add, ← hk]; exact hw
  calc w / 2 ^ (lo + n) * 2 ^ (lo + n) + v % 2 ^ n * 2 ^ lo + w % 2 ^ lo
      < w / 2 ^ (lo + n) * 2 ^ (lo + n) + 2 ^ (lo + n) := by omega
    _ = (w / 2 ^ (lo + n) + 1) * 2 ^ (lo + n) := by ring
    _ ≤ 2 ^ k * 2 ^ (lo + n) := Nat.mul_le_mul_right _ (by omega)
    _ = 2 ^ 32 := by rw [← Nat.pow_add, Nat.add_comm, ← hk]

/-! ### One copy of the registers -/

/-- A stored word is a word. -/
theorem rawWord_lt (m : List (Nat × Word)) (a : Nat) : rawWord m a < 2 ^ 32 := BitVec.isLt _

/-- The word whose field has been replaced. -/
theorem rawWord_putF_same (m : List (Nat × Word)) (a : Nat) (f : Fld) (v : Nat) (hm : regsWf m = true) (hl : f.lo ≤ f.hi)
    (hh : f.hi < 32) : rawWord (putF m a f v) a = setBits (rawWord m a) f.hi f.lo v := by
  have h := sparseGet_set_same resetWord a (BitVec.ofNat 32 (setBits (rawWord m a) f.hi f.lo v)) m 0 hm
  unfold putF
  rw [rawWord, h, BitVec.toNat_ofNat]
  exact Nat.mod_eq_of_lt (setBits_lt _ _ _ _ (rawWord_lt m a) hl hh)

/-- Every other word stays. -/
theorem rawWord_putF_other (m : List (Nat × Word)) {a b : Nat} (f : Fld) (v : Nat) (hm : regsWf m = true) (h : b ≠ a) :
    rawWord (putF m a f v) b = rawWord m b := by
  have h := sparseGet_set_other resetWord h (resetWord b) (BitVec.ofNat 32 (setBits (rawWord m a) f.hi f.lo v)) m 0 hm
  exact congrArg BitVec.toNat h

/-! ### Fields -/

/-- The three copies of the registers are canonical in a canonical state. -/
theorem State.canonical_regs {s : State} (h : s.canonical = true) :
    regsWf s.regs = true ∧ regsWf s.regs1 = true ∧ regsWf s.regs2 = true := by
  simp only [State.canonical, Bool.and_eq_true] at h
  tauto

/-- A field reads back as written, cut to its width. -/
theorem getF_setF_same (s : State) (base : Nat) (f : Fld) (k v : Nat) (hc : s.canonical = true) (hl : f.lo ≤ f.hi)
    (hh : f.hi < 32) : getF (setF s base f k v) base f k = v % 2 ^ (f.hi + 1 - f.lo) := by
  obtain ⟨h0, h1, h2⟩ := State.canonical_regs hc
  unfold getF setF
  by_cases e : f.acc = .rwv
  · simp only [e, if_true]
    rw [rawWord_putF_same _ _ _ _ h0 hl hh, rawWord_putF_same _ _ _ _ h1 hl hh, rawWord_putF_same _ _ _ _ h2 hl hh]
    simp [bits_setBits_same, vote]
  · simp only [e, if_false]
    rw [rawWord_putF_same _ _ _ _ h0 hl hh, bits_setBits_same]

/-- A write of a field leaves a field of another word as it reads. -/
theorem getF_setF_other (s : State) (base base' : Nat) (f g : Fld) (k j v : Nat) (hc : s.canonical = true)
    (h : fldAddr base' g j ≠ fldAddr base f k) : getF (setF s base f k v) base' g j = getF s base' g j := by
  obtain ⟨h0, h1, h2⟩ := State.canonical_regs hc
  unfold getF setF
  by_cases e : f.acc = .rwv
  · simp only [e, if_true]
    rw [rawWord_putF_other _ _ _ h0 h, rawWord_putF_other _ _ _ h1 h, rawWord_putF_other _ _ _ h2 h]
  · simp only [e, if_false]
    rw [rawWord_putF_other _ _ _ h0 h]

/-- A write of a field leaves a field of the same word, of other bits, as it reads. -/
theorem getF_setF_beside (s : State) (base : Nat) (f g : Fld) (k j v : Nat) (hc : s.canonical = true) (hl : f.lo ≤ f.hi)
    (hh : f.hi < 32) (hg : g.lo ≤ g.hi) (hd : f.hi < g.lo ∨ g.hi < f.lo) :
    getF (setF s base f k v) base g j = getF s base g j := by
  by_cases h : fldAddr base g j = fldAddr base f k
  · obtain ⟨h0, h1, h2⟩ := State.canonical_regs hc
    have key : ∀ m, regsWf m = true →
        bits (rawWord (putF m (fldAddr base f k) f v) (fldAddr base f k)) g.hi g.lo =
          bits (rawWord m (fldAddr base f k)) g.hi g.lo := by
      intro m hm
      rw [rawWord_putF_same _ _ _ _ hm hl hh]
      rcases hd with hd | hd
      · exact bits_setBits_above _ _ _ _ _ _ hl hd
      · exact bits_setBits_below _ _ _ _ _ _ hg hd
    unfold getF setF
    by_cases e : f.acc = .rwv
    · simp only [e, if_true, h]
      rw [key _ h0, key _ h1, key _ h2]
    · simp only [e, if_false, h]
      rw [key _ h0]
  · exact getF_setF_other s base base f g k j v hc h

/-- A count raised reads as the saturated sum. -/
theorem getF_countF_same (s : State) (base : Nat) (f : Fld) (k n : Nat) (hc : s.canonical = true) (hl : f.lo ≤ f.hi)
    (hh : f.hi < 32) : getF (countF s base f k n) base f k = min (2 ^ (f.hi + 1 - f.lo) - 1) (getF s base f k + n) := by
  unfold countF
  rw [getF_setF_same s base f k _ hc hl hh]
  unfold satAdd fldTop
  apply Nat.mod_eq_of_lt
  have := Nat.two_pow_pos (f.hi + 1 - f.lo)
  omega

/-- A field lies below two to the power of its width. -/
theorem getF_lt (s : State) (base : Nat) (f : Fld) (k : Nat) : getF s base f k < 2 ^ (f.hi + 1 - f.lo) := by
  have h : ∀ x, bits x f.hi f.lo < 2 ^ (f.hi + 1 - f.lo) := fun x => Nat.mod_lt _ (Nat.two_pow_pos _)
  unfold getF
  dsimp only
  split
  · unfold vote
    split
    · exact h _
    · exact h _
  · exact h _

end Sys2Proof.Machine
end

