-- ==== Sys2Proof/Laws/State.lean ====
section
/-!
SUPPORT. What each principal update leaves as it is: one lemma per field of State and update, so that no proof unfolds a
record update.
-/

namespace Sys2Proof.Machine

section Untouched
variable (s : State)

/-! ### wrMem -/

@[simp] theorem wrMem_pending (ws : List Host.Cell) : (wrMem s ws).pending = s.pending := rfl
@[simp] theorem wrMem_regs (ws : List Host.Cell) : (wrMem s ws).regs = s.regs := rfl
@[simp] theorem wrMem_regs1 (ws : List Host.Cell) : (wrMem s ws).regs1 = s.regs1 := rfl
@[simp] theorem wrMem_regs2 (ws : List Host.Cell) : (wrMem s ws).regs2 = s.regs2 := rfl
@[simp] theorem wrMem_heldLow (ws : List Host.Cell) : (wrMem s ws).heldLow = s.heldLow := rfl
@[simp] theorem wrMem_posted (ws : List Host.Cell) : (wrMem s ws).posted = s.posted := rfl
@[simp] theorem wrMem_hostMem (ws : List Host.Cell) : (wrMem s ws).hostMem = s.hostMem := rfl
@[simp] theorem wrMem_flash (ws : List Host.Cell) : (wrMem s ws).flash = s.flash := rfl
@[simp] theorem wrMem_msixTable (ws : List Host.Cell) : (wrMem s ws).msixTable = s.msixTable := rfl
@[simp] theorem wrMem_sems (ws : List Host.Cell) : (wrMem s ws).sems = s.sems := rfl
@[simp] theorem wrMem_rings (ws : List Host.Cell) : (wrMem s ws).rings = s.rings := rfl
@[simp] theorem wrMem_ops (ws : List Host.Cell) : (wrMem s ws).ops = s.ops := rfl
@[simp] theorem wrMem_opSeq (ws : List Host.Cell) : (wrMem s ws).opSeq = s.opSeq := rfl
@[simp] theorem wrMem_cells (ws : List Host.Cell) : (wrMem s ws).cells = s.cells := rfl
@[simp] theorem wrMem_sclFmt (ws : List Host.Cell) : (wrMem s ws).sclFmt = s.sclFmt := rfl
@[simp] theorem wrMem_sclAside (ws : List Host.Cell) : (wrMem s ws).sclAside = s.sclAside := rfl
@[simp] theorem wrMem_sclLate (ws : List Host.Cell) : (wrMem s ws).sclLate = s.sclLate := rfl
@[simp] theorem wrMem_sclFmtLate (ws : List Host.Cell) : (wrMem s ws).sclFmtLate = s.sclFmtLate := rfl
@[simp] theorem wrMem_sawRest (ws : List Host.Cell) : (wrMem s ws).sawRest = s.sawRest := rfl
@[simp] theorem wrMem_decisions (ws : List Host.Cell) : (wrMem s ws).decisions = s.decisions := rfl
@[simp] theorem wrMem_heldWrites (ws : List Host.Cell) : (wrMem s ws).heldWrites = s.heldWrites := rfl
@[simp] theorem wrMem_chip (ws : List Host.Cell) : (wrMem s ws).chip = s.chip := rfl
@[simp] theorem wrMem_stand (ws : List Host.Cell) : (wrMem s ws).stand = s.stand := rfl
@[simp] theorem wrMem_time (ws : List Host.Cell) : (wrMem s ws).time = s.time := rfl
@[simp] theorem wrMem_cross (ws : List Host.Cell) : (wrMem s ws).cross = s.cross := rfl
@[simp] theorem wrMem_dumps (ws : List Host.Cell) : (wrMem s ws).dumps = s.dumps := rfl
@[simp] theorem wrMem_barriers (ws : List Host.Cell) : (wrMem s ws).barriers = s.barriers := rfl
@[simp] theorem wrMem_chain (ws : List Host.Cell) : (wrMem s ws).chain = s.chain := rfl
@[simp] theorem wrMem_links (ws : List Host.Cell) : (wrMem s ws).links = s.links := rfl
@[simp] theorem wrMem_far (ws : List Host.Cell) : (wrMem s ws).far = s.far := rfl
@[simp] theorem wrMem_groups (ws : List Host.Cell) : (wrMem s ws).groups = s.groups := rfl
@[simp] theorem wrMem_resends (ws : List Host.Cell) : (wrMem s ws).resends = s.resends := rfl
@[simp] theorem wrMem_keys (ws : List Host.Cell) : (wrMem s ws).keys = s.keys := rfl
@[simp] theorem wrMem_skidQ (ws : List Host.Cell) : (wrMem s ws).skidQ = s.skidQ := rfl
@[simp] theorem wrMem_skid (ws : List Host.Cell) : (wrMem s ws).skid = s.skid := rfl
@[simp] theorem wrMem_replicas (ws : List Host.Cell) : (wrMem s ws).replicas = s.replicas := rfl
@[simp] theorem wrMem_early (ws : List Host.Cell) : (wrMem s ws).early = s.early := rfl
@[simp] theorem wrMem_rot (ws : List Host.Cell) : (wrMem s ws).rot = s.rot := rfl
@[simp] theorem wrMem_tally (ws : List Host.Cell) : (wrMem s ws).tally = s.tally := rfl
@[simp] theorem wrMem_boot (ws : List Host.Cell) : (wrMem s ws).boot = s.boot := rfl
@[simp] theorem wrMem_mbox (ws : List Host.Cell) : (wrMem s ws).mbox = s.mbox := rfl
@[simp] theorem wrMem_power (ws : List Host.Cell) : (wrMem s ws).power = s.power := rfl
@[simp] theorem wrMem_jtag (ws : List Host.Cell) : (wrMem s ws).jtag = s.jtag := rfl
@[simp] theorem wrMem_kerfOps (ws : List Host.Cell) : (wrMem s ws).kerfOps = s.kerfOps := rfl
@[simp] theorem wrMem_pan (ws : List Host.Cell) : (wrMem s ws).pan = s.pan := rfl
@[simp] theorem wrMem_sent (ws : List Host.Cell) : (wrMem s ws).sent = s.sent := rfl
@[simp] theorem wrMem_txq (ws : List Host.Cell) : (wrMem s ws).txq = s.txq := rfl
@[simp] theorem wrMem_rx (ws : List Host.Cell) : (wrMem s ws).rx = s.rx := rfl
@[simp] theorem wrMem_free (ws : List Host.Cell) : (wrMem s ws).free = s.free := rfl
@[simp] theorem wrMem_readOut (ws : List Host.Cell) : (wrMem s ws).readOut = s.readOut := rfl

/-! ### wrHost -/

@[simp] theorem wrHost_pending (ws : List Host.Cell) : (wrHost s ws).pending = s.pending := rfl
@[simp] theorem wrHost_regs (ws : List Host.Cell) : (wrHost s ws).regs = s.regs := rfl
@[simp] theorem wrHost_regs1 (ws : List Host.Cell) : (wrHost s ws).regs1 = s.regs1 := rfl
@[simp] theorem wrHost_regs2 (ws : List Host.Cell) : (wrHost s ws).regs2 = s.regs2 := rfl
@[simp] theorem wrHost_heldLow (ws : List Host.Cell) : (wrHost s ws).heldLow = s.heldLow := rfl
@[simp] theorem wrHost_posted (ws : List Host.Cell) : (wrHost s ws).posted = s.posted := rfl
@[simp] theorem wrHost_mem (ws : List Host.Cell) : (wrHost s ws).mem = s.mem := rfl
@[simp] theorem wrHost_flash (ws : List Host.Cell) : (wrHost s ws).flash = s.flash := rfl
@[simp] theorem wrHost_msixTable (ws : List Host.Cell) : (wrHost s ws).msixTable = s.msixTable := rfl
@[simp] theorem wrHost_hbm (ws : List Host.Cell) : (wrHost s ws).hbm = s.hbm := rfl
@[simp] theorem wrHost_sems (ws : List Host.Cell) : (wrHost s ws).sems = s.sems := rfl
@[simp] theorem wrHost_rings (ws : List Host.Cell) : (wrHost s ws).rings = s.rings := rfl
@[simp] theorem wrHost_ops (ws : List Host.Cell) : (wrHost s ws).ops = s.ops := rfl
@[simp] theorem wrHost_opSeq (ws : List Host.Cell) : (wrHost s ws).opSeq = s.opSeq := rfl
@[simp] theorem wrHost_cells (ws : List Host.Cell) : (wrHost s ws).cells = s.cells := rfl
@[simp] theorem wrHost_sclFmt (ws : List Host.Cell) : (wrHost s ws).sclFmt = s.sclFmt := rfl
@[simp] theorem wrHost_sclAside (ws : List Host.Cell) : (wrHost s ws).sclAside = s.sclAside := rfl
@[simp] theorem wrHost_sclLate (ws : List Host.Cell) : (wrHost s ws).sclLate = s.sclLate := rfl
@[simp] theorem wrHost_sclFmtLate (ws : List Host.Cell) : (wrHost s ws).sclFmtLate = s.sclFmtLate := rfl
@[simp] theorem wrHost_sawRest (ws : List Host.Cell) : (wrHost s ws).sawRest = s.sawRest := rfl
@[simp] theorem wrHost_decisions (ws : List Host.Cell) : (wrHost s ws).decisions = s.decisions := rfl
@[simp] theorem wrHost_heldWrites (ws : List Host.Cell) : (wrHost s ws).heldWrites = s.heldWrites := rfl
@[simp] theorem wrHost_chip (ws : List Host.Cell) : (wrHost s ws).chip = s.chip := rfl
@[simp] theorem wrHost_stand (ws : List Host.Cell) : (wrHost s ws).stand = s.stand := rfl
@[simp] theorem wrHost_time (ws : List Host.Cell) : (wrHost s ws).time = s.time := rfl
@[simp] theorem wrHost_cross (ws : List Host.Cell) : (wrHost s ws).cross = s.cross := rfl
@[simp] theorem wrHost_dumps (ws : List Host.Cell) : (wrHost s ws).dumps = s.dumps := rfl
@[simp] theorem wrHost_barriers (ws : List Host.Cell) : (wrHost s ws).barriers = s.barriers := rfl
@[simp] theorem wrHost_chain (ws : List Host.Cell) : (wrHost s ws).chain = s.chain := rfl
@[simp] theorem wrHost_links (ws : List Host.Cell) : (wrHost s ws).links = s.links := rfl
@[simp] theorem wrHost_far (ws : List Host.Cell) : (wrHost s ws).far = s.far := rfl
@[simp] theorem wrHost_groups (ws : List Host.Cell) : (wrHost s ws).groups = s.groups := rfl
@[simp] theorem wrHost_resends (ws : List Host.Cell) : (wrHost s ws).resends = s.resends := rfl
@[simp] theorem wrHost_keys (ws : List Host.Cell) : (wrHost s ws).keys = s.keys := rfl
@[simp] theorem wrHost_skidQ (ws : List Host.Cell) : (wrHost s ws).skidQ = s.skidQ := rfl
@[simp] theorem wrHost_skid (ws : List Host.Cell) : (wrHost s ws).skid = s.skid := rfl
@[simp] theorem wrHost_replicas (ws : List Host.Cell) : (wrHost s ws).replicas = s.replicas := rfl
@[simp] theorem wrHost_early (ws : List Host.Cell) : (wrHost s ws).early = s.early := rfl
@[simp] theorem wrHost_rot (ws : List Host.Cell) : (wrHost s ws).rot = s.rot := rfl
@[simp] theorem wrHost_tally (ws : List Host.Cell) : (wrHost s ws).tally = s.tally := rfl
@[simp] theorem wrHost_boot (ws : List Host.Cell) : (wrHost s ws).boot = s.boot := rfl
@[simp] theorem wrHost_mbox (ws : List Host.Cell) : (wrHost s ws).mbox = s.mbox := rfl
@[simp] theorem wrHost_power (ws : List Host.Cell) : (wrHost s ws).power = s.power := rfl
@[simp] theorem wrHost_jtag (ws : List Host.Cell) : (wrHost s ws).jtag = s.jtag := rfl
@[simp] theorem wrHost_kerfOps (ws : List Host.Cell) : (wrHost s ws).kerfOps = s.kerfOps := rfl
@[simp] theorem wrHost_pan (ws : List Host.Cell) : (wrHost s ws).pan = s.pan := rfl
@[simp] theorem wrHost_sent (ws : List Host.Cell) : (wrHost s ws).sent = s.sent := rfl
@[simp] theorem wrHost_txq (ws : List Host.Cell) : (wrHost s ws).txq = s.txq := rfl
@[simp] theorem wrHost_rx (ws : List Host.Cell) : (wrHost s ws).rx = s.rx := rfl
@[simp] theorem wrHost_free (ws : List Host.Cell) : (wrHost s ws).free = s.free := rfl
@[simp] theorem wrHost_readOut (ws : List Host.Cell) : (wrHost s ws).readOut = s.readOut := rfl

/-! ### semSet -/

@[simp] theorem semSet_pending (n v : Nat) : (semSet s n v).pending = s.pending := rfl
@[simp] theorem semSet_regs (n v : Nat) : (semSet s n v).regs = s.regs := rfl
@[simp] theorem semSet_regs1 (n v : Nat) : (semSet s n v).regs1 = s.regs1 := rfl
@[simp] theorem semSet_regs2 (n v : Nat) : (semSet s n v).regs2 = s.regs2 := rfl
@[simp] theorem semSet_heldLow (n v : Nat) : (semSet s n v).heldLow = s.heldLow := rfl
@[simp] theorem semSet_posted (n v : Nat) : (semSet s n v).posted = s.posted := rfl
@[simp] theorem semSet_mem (n v : Nat) : (semSet s n v).mem = s.mem := rfl
@[simp] theorem semSet_hostMem (n v : Nat) : (semSet s n v).hostMem = s.hostMem := rfl
@[simp] theorem semSet_flash (n v : Nat) : (semSet s n v).flash = s.flash := rfl
@[simp] theorem semSet_msixTable (n v : Nat) : (semSet s n v).msixTable = s.msixTable := rfl
@[simp] theorem semSet_hbm (n v : Nat) : (semSet s n v).hbm = s.hbm := rfl
@[simp] theorem semSet_rings (n v : Nat) : (semSet s n v).rings = s.rings := rfl
@[simp] theorem semSet_ops (n v : Nat) : (semSet s n v).ops = s.ops := rfl
@[simp] theorem semSet_opSeq (n v : Nat) : (semSet s n v).opSeq = s.opSeq := rfl
@[simp] theorem semSet_cells (n v : Nat) : (semSet s n v).cells = s.cells := rfl
@[simp] theorem semSet_sclFmt (n v : Nat) : (semSet s n v).sclFmt = s.sclFmt := rfl
@[simp] theorem semSet_sclAside (n v : Nat) : (semSet s n v).sclAside = s.sclAside := rfl
@[simp] theorem semSet_sclLate (n v : Nat) : (semSet s n v).sclLate = s.sclLate := rfl
@[simp] theorem semSet_sclFmtLate (n v : Nat) : (semSet s n v).sclFmtLate = s.sclFmtLate := rfl
@[simp] theorem semSet_sawRest (n v : Nat) : (semSet s n v).sawRest = s.sawRest := rfl
@[simp] theorem semSet_decisions (n v : Nat) : (semSet s n v).decisions = s.decisions := rfl
@[simp] theorem semSet_heldWrites (n v : Nat) : (semSet s n v).heldWrites = s.heldWrites := rfl
@[simp] theorem semSet_chip (n v : Nat) : (semSet s n v).chip = s.chip := rfl
@[simp] theorem semSet_stand (n v : Nat) : (semSet s n v).stand = s.stand := rfl
@[simp] theorem semSet_time (n v : Nat) : (semSet s n v).time = s.time := rfl
@[simp] theorem semSet_dumps (n v : Nat) : (semSet s n v).dumps = s.dumps := rfl
@[simp] theorem semSet_barriers (n v : Nat) : (semSet s n v).barriers = s.barriers := rfl
@[simp] theorem semSet_chain (n v : Nat) : (semSet s n v).chain = s.chain := rfl
@[simp] theorem semSet_links (n v : Nat) : (semSet s n v).links = s.links := rfl
@[simp] theorem semSet_far (n v : Nat) : (semSet s n v).far = s.far := rfl
@[simp] theorem semSet_groups (n v : Nat) : (semSet s n v).groups = s.groups := rfl
@[simp] theorem semSet_resends (n v : Nat) : (semSet s n v).resends = s.resends := rfl
@[simp] theorem semSet_keys (n v : Nat) : (semSet s n v).keys = s.keys := rfl
@[simp] theorem semSet_skidQ (n v : Nat) : (semSet s n v).skidQ = s.skidQ := rfl
@[simp] theorem semSet_skid (n v : Nat) : (semSet s n v).skid = s.skid := rfl
@[simp] theorem semSet_replicas (n v : Nat) : (semSet s n v).replicas = s.replicas := rfl
@[simp] theorem semSet_early (n v : Nat) : (semSet s n v).early = s.early := rfl
@[simp] theorem semSet_rot (n v : Nat) : (semSet s n v).rot = s.rot := rfl
@[simp] theorem semSet_tally (n v : Nat) : (semSet s n v).tally = s.tally := rfl
@[simp] theorem semSet_boot (n v : Nat) : (semSet s n v).boot = s.boot := rfl
@[simp] theorem semSet_mbox (n v : Nat) : (semSet s n v).mbox = s.mbox := rfl
@[simp] theorem semSet_power (n v : Nat) : (semSet s n v).power = s.power := rfl
@[simp] theorem semSet_jtag (n v : Nat) : (semSet s n v).jtag = s.jtag := rfl
@[simp] theorem semSet_kerfOps (n v : Nat) : (semSet s n v).kerfOps = s.kerfOps := rfl
@[simp] theorem semSet_pan (n v : Nat) : (semSet s n v).pan = s.pan := rfl
@[simp] theorem semSet_sent (n v : Nat) : (semSet s n v).sent = s.sent := rfl
@[simp] theorem semSet_txq (n v : Nat) : (semSet s n v).txq = s.txq := rfl
@[simp] theorem semSet_rx (n v : Nat) : (semSet s n v).rx = s.rx := rfl
@[simp] theorem semSet_free (n v : Nat) : (semSet s n v).free = s.free := rfl
@[simp] theorem semSet_readOut (n v : Nat) : (semSet s n v).readOut = s.readOut := rfl

/-! ### updCtx -/

@[simp] theorem updCtx_pending (c : Nat) (f : Ctx → Ctx) : (updCtx s c f).pending = s.pending := rfl
@[simp] theorem updCtx_regs (c : Nat) (f : Ctx → Ctx) : (updCtx s c f).regs = s.regs := rfl
@[simp] theorem updCtx_regs1 (c : Nat) (f : Ctx → Ctx) : (updCtx s c f).regs1 = s.regs1 := rfl
@[simp] theorem updCtx_regs2 (c : Nat) (f : Ctx → Ctx) : (updCtx s c f).regs2 = s.regs2 := rfl
@[simp] theorem updCtx_heldLow (c : Nat) (f : Ctx → Ctx) : (updCtx s c f).heldLow = s.heldLow := rfl
@[simp] theorem updCtx_posted (c : Nat) (f : Ctx → Ctx) : (updCtx s c f).posted = s.posted := rfl
@[simp] theorem updCtx_mem (c : Nat) (f : Ctx → Ctx) : (updCtx s c f).mem = s.mem := rfl
@[simp] theorem updCtx_hostMem (c : Nat) (f : Ctx → Ctx) : (updCtx s c f).hostMem = s.hostMem := rfl
@[simp] theorem updCtx_flash (c : Nat) (f : Ctx → Ctx) : (updCtx s c f).flash = s.flash := rfl
@[simp] theorem updCtx_msixTable (c : Nat) (f : Ctx → Ctx) : (updCtx s c f).msixTable = s.msixTable := rfl
@[simp] theorem updCtx_hbm (c : Nat) (f : Ctx → Ctx) : (updCtx s c f).hbm = s.hbm := rfl
@[simp] theorem updCtx_sems (c : Nat) (f : Ctx → Ctx) : (updCtx s c f).sems = s.sems := rfl
@[simp] theorem updCtx_ops (c : Nat) (f : Ctx → Ctx) : (updCtx s c f).ops = s.ops := rfl
@[simp] theorem updCtx_opSeq (c : Nat) (f : Ctx → Ctx) : (updCtx s c f).opSeq = s.opSeq := rfl
@[simp] theorem updCtx_cells (c : Nat) (f : Ctx → Ctx) : (updCtx s c f).cells = s.cells := rfl
@[simp] theorem updCtx_sclFmt (c : Nat) (f : Ctx → Ctx) : (updCtx s c f).sclFmt = s.sclFmt := rfl
@[simp] theorem updCtx_sclAside (c : Nat) (f : Ctx → Ctx) : (updCtx s c f).sclAside = s.sclAside := rfl
@[simp] theorem updCtx_sclLate (c : Nat) (f : Ctx → Ctx) : (updCtx s c f).sclLate = s.sclLate := rfl
@[simp] theorem updCtx_sclFmtLate (c : Nat) (f : Ctx → Ctx) : (updCtx s c f).sclFmtLate = s.sclFmtLate := rfl
@[simp] theorem updCtx_sawRest (c : Nat) (f : Ctx → Ctx) : (updCtx s c f).sawRest = s.sawRest := rfl
@[simp] theorem updCtx_decisions (c : Nat) (f : Ctx → Ctx) : (updCtx s c f).decisions = s.decisions := rfl
@[simp] theorem updCtx_heldWrites (c : Nat) (f : Ctx → Ctx) : (updCtx s c f).heldWrites = s.heldWrites := rfl
@[simp] theorem updCtx_chip (c : Nat) (f : Ctx → Ctx) : (updCtx s c f).chip = s.chip := rfl
@[simp] theorem updCtx_stand (c : Nat) (f : Ctx → Ctx) : (updCtx s c f).stand = s.stand := rfl
@[simp] theorem updCtx_time (c : Nat) (f : Ctx → Ctx) : (updCtx s c f).time = s.time := rfl
@[simp] theorem updCtx_cross (c : Nat) (f : Ctx → Ctx) : (updCtx s c f).cross = s.cross := rfl
@[simp] theorem updCtx_dumps (c : Nat) (f : Ctx → Ctx) : (updCtx s c f).dumps = s.dumps := rfl
@[simp] theorem updCtx_barriers (c : Nat) (f : Ctx → Ctx) : (updCtx s c f).barriers = s.barriers := rfl
@[simp] theorem updCtx_chain (c : Nat) (f : Ctx → Ctx) : (updCtx s c f).chain = s.chain := rfl
@[simp] theorem updCtx_links (c : Nat) (f : Ctx → Ctx) : (updCtx s c f).links = s.links := rfl
@[simp] theorem updCtx_far (c : Nat) (f : Ctx → Ctx) : (updCtx s c f).far = s.far := rfl
@[simp] theorem updCtx_groups (c : Nat) (f : Ctx → Ctx) : (updCtx s c f).groups = s.groups := rfl
@[simp] theorem updCtx_resends (c : Nat) (f : Ctx → Ctx) : (updCtx s c f).resends = s.resends := rfl
@[simp] theorem updCtx_keys (c : Nat) (f : Ctx → Ctx) : (updCtx s c f).keys = s.keys := rfl
@[simp] theorem updCtx_skidQ (c : Nat) (f : Ctx → Ctx) : (updCtx s c f).skidQ = s.skidQ := rfl
@[simp] theorem updCtx_skid (c : Nat) (f : Ctx → Ctx) : (updCtx s c f).skid = s.skid := rfl
@[simp] theorem updCtx_replicas (c : Nat) (f : Ctx → Ctx) : (updCtx s c f).replicas = s.replicas := rfl
@[simp] theorem updCtx_early (c : Nat) (f : Ctx → Ctx) : (updCtx s c f).early = s.early := rfl
@[simp] theorem updCtx_rot (c : Nat) (f : Ctx → Ctx) : (updCtx s c f).rot = s.rot := rfl
@[simp] theorem updCtx_tally (c : Nat) (f : Ctx → Ctx) : (updCtx s c f).tally = s.tally := rfl
@[simp] theorem updCtx_boot (c : Nat) (f : Ctx → Ctx) : (updCtx s c f).boot = s.boot := rfl
@[simp] theorem updCtx_mbox (c : Nat) (f : Ctx → Ctx) : (updCtx s c f).mbox = s.mbox := rfl
@[simp] theorem updCtx_power (c : Nat) (f : Ctx → Ctx) : (updCtx s c f).power = s.power := rfl
@[simp] theorem updCtx_jtag (c : Nat) (f : Ctx → Ctx) : (updCtx s c f).jtag = s.jtag := rfl
@[simp] theorem updCtx_kerfOps (c : Nat) (f : Ctx → Ctx) : (updCtx s c f).kerfOps = s.kerfOps := rfl
@[simp] theorem updCtx_pan (c : Nat) (f : Ctx → Ctx) : (updCtx s c f).pan = s.pan := rfl
@[simp] theorem updCtx_sent (c : Nat) (f : Ctx → Ctx) : (updCtx s c f).sent = s.sent := rfl
@[simp] theorem updCtx_txq (c : Nat) (f : Ctx → Ctx) : (updCtx s c f).txq = s.txq := rfl
@[simp] theorem updCtx_rx (c : Nat) (f : Ctx → Ctx) : (updCtx s c f).rx = s.rx := rfl
@[simp] theorem updCtx_free (c : Nat) (f : Ctx → Ctx) : (updCtx s c f).free = s.free := rfl
@[simp] theorem updCtx_readOut (c : Nat) (f : Ctx → Ctx) : (updCtx s c f).readOut = s.readOut := rfl

/-! ### updOp -/

@[simp] theorem updOp_pending (ctx idx : Nat) (f : Op → Op) : (updOp s ctx idx f).pending = s.pending := rfl
@[simp] theorem updOp_regs (ctx idx : Nat) (f : Op → Op) : (updOp s ctx idx f).regs = s.regs := rfl
@[simp] theorem updOp_regs1 (ctx idx : Nat) (f : Op → Op) : (updOp s ctx idx f).regs1 = s.regs1 := rfl
@[simp] theorem updOp_regs2 (ctx idx : Nat) (f : Op → Op) : (updOp s ctx idx f).regs2 = s.regs2 := rfl
@[simp] theorem updOp_heldLow (ctx idx : Nat) (f : Op → Op) : (updOp s ctx idx f).heldLow = s.heldLow := rfl
@[simp] theorem updOp_posted (ctx idx : Nat) (f : Op → Op) : (updOp s ctx idx f).posted = s.posted := rfl
@[simp] theorem updOp_mem (ctx idx : Nat) (f : Op → Op) : (updOp s ctx idx f).mem = s.mem := rfl
@[simp] theorem updOp_hostMem (ctx idx : Nat) (f : Op → Op) : (updOp s ctx idx f).hostMem = s.hostMem := rfl
@[simp] theorem updOp_flash (ctx idx : Nat) (f : Op → Op) : (updOp s ctx idx f).flash = s.flash := rfl
@[simp] theorem updOp_msixTable (ctx idx : Nat) (f : Op → Op) : (updOp s ctx idx f).msixTable = s.msixTable := rfl
@[simp] theorem updOp_hbm (ctx idx : Nat) (f : Op → Op) : (updOp s ctx idx f).hbm = s.hbm := rfl
@[simp] theorem updOp_sems (ctx idx : Nat) (f : Op → Op) : (updOp s ctx idx f).sems = s.sems := rfl
@[simp] theorem updOp_rings (ctx idx : Nat) (f : Op → Op) : (updOp s ctx idx f).rings = s.rings := rfl
@[simp] theorem updOp_opSeq (ctx idx : Nat) (f : Op → Op) : (updOp s ctx idx f).opSeq = s.opSeq := rfl
@[simp] theorem updOp_cells (ctx idx : Nat) (f : Op → Op) : (updOp s ctx idx f).cells = s.cells := rfl
@[simp] theorem updOp_sclFmt (ctx idx : Nat) (f : Op → Op) : (updOp s ctx idx f).sclFmt = s.sclFmt := rfl
@[simp] theorem updOp_sclAside (ctx idx : Nat) (f : Op → Op) : (updOp s ctx idx f).sclAside = s.sclAside := rfl
@[simp] theorem updOp_sclLate (ctx idx : Nat) (f : Op → Op) : (updOp s ctx idx f).sclLate = s.sclLate := rfl
@[simp] theorem updOp_sclFmtLate (ctx idx : Nat) (f : Op → Op) : (updOp s ctx idx f).sclFmtLate = s.sclFmtLate := rfl
@[simp] theorem updOp_sawRest (ctx idx : Nat) (f : Op → Op) : (updOp s ctx idx f).sawRest = s.sawRest := rfl
@[simp] theorem updOp_decisions (ctx idx : Nat) (f : Op → Op) : (updOp s ctx idx f).decisions = s.decisions := rfl
@[simp] theorem updOp_heldWrites (ctx idx : Nat) (f : Op → Op) : (updOp s ctx idx f).heldWrites = s.heldWrites := rfl
@[simp] theorem updOp_chip (ctx idx : Nat) (f : Op → Op) : (updOp s ctx idx f).chip = s.chip := rfl
@[simp] theorem updOp_stand (ctx idx : Nat) (f : Op → Op) : (updOp s ctx idx f).stand = s.stand := rfl
@[simp] theorem updOp_time (ctx idx : Nat) (f : Op → Op) : (updOp s ctx idx f).time = s.time := rfl
@[simp] theorem updOp_cross (ctx idx : Nat) (f : Op → Op) : (updOp s ctx idx f).cross = s.cross := rfl
@[simp] theorem updOp_dumps (ctx idx : Nat) (f : Op → Op) : (updOp s ctx idx f).dumps = s.dumps := rfl
@[simp] theorem updOp_barriers (ctx idx : Nat) (f : Op → Op) : (updOp s ctx idx f).barriers = s.barriers := rfl
@[simp] theorem updOp_chain (ctx idx : Nat) (f : Op → Op) : (updOp s ctx idx f).chain = s.chain := rfl
@[simp] theorem updOp_links (ctx idx : Nat) (f : Op → Op) : (updOp s ctx idx f).links = s.links := rfl
@[simp] theorem updOp_far (ctx idx : Nat) (f : Op → Op) : (updOp s ctx idx f).far = s.far := rfl
@[simp] theorem updOp_groups (ctx idx : Nat) (f : Op → Op) : (updOp s ctx idx f).groups = s.groups := rfl
@[simp] theorem updOp_resends (ctx idx : Nat) (f : Op → Op) : (updOp s ctx idx f).resends = s.resends := rfl
@[simp] theorem updOp_keys (ctx idx : Nat) (f : Op → Op) : (updOp s ctx idx f).keys = s.keys := rfl
@[simp] theorem updOp_skidQ (ctx idx : Nat) (f : Op → Op) : (updOp s ctx idx f).skidQ = s.skidQ := rfl
@[simp] theorem updOp_skid (ctx idx : Nat) (f : Op → Op) : (updOp s ctx idx f).skid = s.skid := rfl
@[simp] theorem updOp_replicas (ctx idx : Nat) (f : Op → Op) : (updOp s ctx idx f).replicas = s.replicas := rfl
@[simp] theorem updOp_early (ctx idx : Nat) (f : Op → Op) : (updOp s ctx idx f).early = s.early := rfl
@[simp] theorem updOp_rot (ctx idx : Nat) (f : Op → Op) : (updOp s ctx idx f).rot = s.rot := rfl
@[simp] theorem updOp_tally (ctx idx : Nat) (f : Op → Op) : (updOp s ctx idx f).tally = s.tally := rfl
@[simp] theorem updOp_boot (ctx idx : Nat) (f : Op → Op) : (updOp s ctx idx f).boot = s.boot := rfl
@[simp] theorem updOp_mbox (ctx idx : Nat) (f : Op → Op) : (updOp s ctx idx f).mbox = s.mbox := rfl
@[simp] theorem updOp_power (ctx idx : Nat) (f : Op → Op) : (updOp s ctx idx f).power = s.power := rfl
@[simp] theorem updOp_jtag (ctx idx : Nat) (f : Op → Op) : (updOp s ctx idx f).jtag = s.jtag := rfl
@[simp] theorem updOp_kerfOps (ctx idx : Nat) (f : Op → Op) : (updOp s ctx idx f).kerfOps = s.kerfOps := rfl
@[simp] theorem updOp_pan (ctx idx : Nat) (f : Op → Op) : (updOp s ctx idx f).pan = s.pan := rfl
@[simp] theorem updOp_sent (ctx idx : Nat) (f : Op → Op) : (updOp s ctx idx f).sent = s.sent := rfl
@[simp] theorem updOp_txq (ctx idx : Nat) (f : Op → Op) : (updOp s ctx idx f).txq = s.txq := rfl
@[simp] theorem updOp_rx (ctx idx : Nat) (f : Op → Op) : (updOp s ctx idx f).rx = s.rx := rfl
@[simp] theorem updOp_free (ctx idx : Nat) (f : Op → Op) : (updOp s ctx idx f).free = s.free := rfl
@[simp] theorem updOp_readOut (ctx idx : Nat) (f : Op → Op) : (updOp s ctx idx f).readOut = s.readOut := rfl

/-! ### endOp -/

@[simp] theorem endOp_pending (ctx idx : Nat) (e : OpEnd) : (endOp s ctx idx e).pending = s.pending := rfl
@[simp] theorem endOp_regs (ctx idx : Nat) (e : OpEnd) : (endOp s ctx idx e).regs = s.regs := rfl
@[simp] theorem endOp_regs1 (ctx idx : Nat) (e : OpEnd) : (endOp s ctx idx e).regs1 = s.regs1 := rfl
@[simp] theorem endOp_regs2 (ctx idx : Nat) (e : OpEnd) : (endOp s ctx idx e).regs2 = s.regs2 := rfl
@[simp] theorem endOp_heldLow (ctx idx : Nat) (e : OpEnd) : (endOp s ctx idx e).heldLow = s.heldLow := rfl
@[simp] theorem endOp_posted (ctx idx : Nat) (e : OpEnd) : (endOp s ctx idx e).posted = s.posted := rfl
@[simp] theorem endOp_mem (ctx idx : Nat) (e : OpEnd) : (endOp s ctx idx e).mem = s.mem := rfl
@[simp] theorem endOp_hostMem (ctx idx : Nat) (e : OpEnd) : (endOp s ctx idx e).hostMem = s.hostMem := rfl
@[simp] theorem endOp_flash (ctx idx : Nat) (e : OpEnd) : (endOp s ctx idx e).flash = s.flash := rfl
@[simp] theorem endOp_msixTable (ctx idx : Nat) (e : OpEnd) : (endOp s ctx idx e).msixTable = s.msixTable := rfl
@[simp] theorem endOp_hbm (ctx idx : Nat) (e : OpEnd) : (endOp s ctx idx e).hbm = s.hbm := rfl
@[simp] theorem endOp_sems (ctx idx : Nat) (e : OpEnd) : (endOp s ctx idx e).sems = s.sems := rfl
@[simp] theorem endOp_rings (ctx idx : Nat) (e : OpEnd) : (endOp s ctx idx e).rings = s.rings := rfl
@[simp] theorem endOp_opSeq (ctx idx : Nat) (e : OpEnd) : (endOp s ctx idx e).opSeq = s.opSeq := rfl
@[simp] theorem endOp_cells (ctx idx : Nat) (e : OpEnd) : (endOp s ctx idx e).cells = s.cells := rfl
@[simp] theorem endOp_sclFmt (ctx idx : Nat) (e : OpEnd) : (endOp s ctx idx e).sclFmt = s.sclFmt := rfl
@[simp] theorem endOp_sclAside (ctx idx : Nat) (e : OpEnd) : (endOp s ctx idx e).sclAside = s.sclAside := rfl
@[simp] theorem endOp_sclLate (ctx idx : Nat) (e : OpEnd) : (endOp s ctx idx e).sclLate = s.sclLate := rfl
@[simp] theorem endOp_sclFmtLate (ctx idx : Nat) (e : OpEnd) : (endOp s ctx idx e).sclFmtLate = s.sclFmtLate := rfl
@[simp] theorem endOp_sawRest (ctx idx : Nat) (e : OpEnd) : (endOp s ctx idx e).sawRest = s.sawRest := rfl
@[simp] theorem endOp_decisions (ctx idx : Nat) (e : OpEnd) : (endOp s ctx idx e).decisions = s.decisions := rfl
@[simp] theorem endOp_heldWrites (ctx idx : Nat) (e : OpEnd) : (endOp s ctx idx e).heldWrites = s.heldWrites := rfl
@[simp] theorem endOp_chip (ctx idx : Nat) (e : OpEnd) : (endOp s ctx idx e).chip = s.chip := rfl
@[simp] theorem endOp_stand (ctx idx : Nat) (e : OpEnd) : (endOp s ctx idx e).stand = s.stand := rfl
@[simp] theorem endOp_time (ctx idx : Nat) (e : OpEnd) : (endOp s ctx idx e).time = s.time := rfl
@[simp] theorem endOp_cross (ctx idx : Nat) (e : OpEnd) : (endOp s ctx idx e).cross = s.cross := rfl
@[simp] theorem endOp_dumps (ctx idx : Nat) (e : OpEnd) : (endOp s ctx idx e).dumps = s.dumps := rfl
@[simp] theorem endOp_barriers (ctx idx : Nat) (e : OpEnd) : (endOp s ctx idx e).barriers = s.barriers := rfl
@[simp] theorem endOp_chain (ctx idx : Nat) (e : OpEnd) : (endOp s ctx idx e).chain = s.chain := rfl
@[simp] theorem endOp_links (ctx idx : Nat) (e : OpEnd) : (endOp s ctx idx e).links = s.links := rfl
@[simp] theorem endOp_far (ctx idx : Nat) (e : OpEnd) : (endOp s ctx idx e).far = s.far := rfl
@[simp] theorem endOp_groups (ctx idx : Nat) (e : OpEnd) : (endOp s ctx idx e).groups = s.groups := rfl
@[simp] theorem endOp_resends (ctx idx : Nat) (e : OpEnd) : (endOp s ctx idx e).resends = s.resends := rfl
@[simp] theorem endOp_keys (ctx idx : Nat) (e : OpEnd) : (endOp s ctx idx e).keys = s.keys := rfl
@[simp] theorem endOp_skidQ (ctx idx : Nat) (e : OpEnd) : (endOp s ctx idx e).skidQ = s.skidQ := rfl
@[simp] theorem endOp_skid (ctx idx : Nat) (e : OpEnd) : (endOp s ctx idx e).skid = s.skid := rfl
@[simp] theorem endOp_replicas (ctx idx : Nat) (e : OpEnd) : (endOp s ctx idx e).replicas = s.replicas := rfl
@[simp] theorem endOp_early (ctx idx : Nat) (e : OpEnd) : (endOp s ctx idx e).early = s.early := rfl
@[simp] theorem endOp_rot (ctx idx : Nat) (e : OpEnd) : (endOp s ctx idx e).rot = s.rot := rfl
@[simp] theorem endOp_tally (ctx idx : Nat) (e : OpEnd) : (endOp s ctx idx e).tally = s.tally := rfl
@[simp] theorem endOp_boot (ctx idx : Nat) (e : OpEnd) : (endOp s ctx idx e).boot = s.boot := rfl
@[simp] theorem endOp_mbox (ctx idx : Nat) (e : OpEnd) : (endOp s ctx idx e).mbox = s.mbox := rfl
@[simp] theorem endOp_power (ctx idx : Nat) (e : OpEnd) : (endOp s ctx idx e).power = s.power := rfl
@[simp] theorem endOp_jtag (ctx idx : Nat) (e : OpEnd) : (endOp s ctx idx e).jtag = s.jtag := rfl
@[simp] theorem endOp_kerfOps (ctx idx : Nat) (e : OpEnd) : (endOp s ctx idx e).kerfOps = s.kerfOps := rfl
@[simp] theorem endOp_pan (ctx idx : Nat) (e : OpEnd) : (endOp s ctx idx e).pan = s.pan := rfl
@[simp] theorem endOp_sent (ctx idx : Nat) (e : OpEnd) : (endOp s ctx idx e).sent = s.sent := rfl
@[simp] theorem endOp_txq (ctx idx : Nat) (e : OpEnd) : (endOp s ctx idx e).txq = s.txq := rfl
@[simp] theorem endOp_rx (ctx idx : Nat) (e : OpEnd) : (endOp s ctx idx e).rx = s.rx := rfl
@[simp] theorem endOp_free (ctx idx : Nat) (e : OpEnd) : (endOp s ctx idx e).free = s.free := rfl
@[simp] theorem endOp_readOut (ctx idx : Nat) (e : OpEnd) : (endOp s ctx idx e).readOut = s.readOut := rfl

/-! ### cellSet -/

@[simp] theorem cellSet_pending (n : Nat) (c : CellRt) : (cellSet s n c).pending = s.pending := rfl
@[simp] theorem cellSet_regs (n : Nat) (c : CellRt) : (cellSet s n c).regs = s.regs := rfl
@[simp] theorem cellSet_regs1 (n : Nat) (c : CellRt) : (cellSet s n c).regs1 = s.regs1 := rfl
@[simp] theorem cellSet_regs2 (n : Nat) (c : CellRt) : (cellSet s n c).regs2 = s.regs2 := rfl
@[simp] theorem cellSet_heldLow (n : Nat) (c : CellRt) : (cellSet s n c).heldLow = s.heldLow := rfl
@[simp] theorem cellSet_posted (n : Nat) (c : CellRt) : (cellSet s n c).posted = s.posted := rfl
@[simp] theorem cellSet_mem (n : Nat) (c : CellRt) : (cellSet s n c).mem = s.mem := rfl
@[simp] theorem cellSet_hostMem (n : Nat) (c : CellRt) : (cellSet s n c).hostMem = s.hostMem := rfl
@[simp] theorem cellSet_flash (n : Nat) (c : CellRt) : (cellSet s n c).flash = s.flash := rfl
@[simp] theorem cellSet_msixTable (n : Nat) (c : CellRt) : (cellSet s n c).msixTable = s.msixTable := rfl
@[simp] theorem cellSet_hbm (n : Nat) (c : CellRt) : (cellSet s n c).hbm = s.hbm := rfl
@[simp] theorem cellSet_sems (n : Nat) (c : CellRt) : (cellSet s n c).sems = s.sems := rfl
@[simp] theorem cellSet_rings (n : Nat) (c : CellRt) : (cellSet s n c).rings = s.rings := rfl
@[simp] theorem cellSet_ops (n : Nat) (c : CellRt) : (cellSet s n c).ops = s.ops := rfl
@[simp] theorem cellSet_opSeq (n : Nat) (c : CellRt) : (cellSet s n c).opSeq = s.opSeq := rfl
@[simp] theorem cellSet_sclFmt (n : Nat) (c : CellRt) : (cellSet s n c).sclFmt = s.sclFmt := rfl
@[simp] theorem cellSet_sclAside (n : Nat) (c : CellRt) : (cellSet s n c).sclAside = s.sclAside := rfl
@[simp] theorem cellSet_sclLate (n : Nat) (c : CellRt) : (cellSet s n c).sclLate = s.sclLate := rfl
@[simp] theorem cellSet_sclFmtLate (n : Nat) (c : CellRt) : (cellSet s n c).sclFmtLate = s.sclFmtLate := rfl
@[simp] theorem cellSet_sawRest (n : Nat) (c : CellRt) : (cellSet s n c).sawRest = s.sawRest := rfl
@[simp] theorem cellSet_decisions (n : Nat) (c : CellRt) : (cellSet s n c).decisions = s.decisions := rfl
@[simp] theorem cellSet_heldWrites (n : Nat) (c : CellRt) : (cellSet s n c).heldWrites = s.heldWrites := rfl
@[simp] theorem cellSet_chip (n : Nat) (c : CellRt) : (cellSet s n c).chip = s.chip := rfl
@[simp] theorem cellSet_stand (n : Nat) (c : CellRt) : (cellSet s n c).stand = s.stand := rfl
@[simp] theorem cellSet_time (n : Nat) (c : CellRt) : (cellSet s n c).time = s.time := rfl
@[simp] theorem cellSet_cross (n : Nat) (c : CellRt) : (cellSet s n c).cross = s.cross := rfl
@[simp] theorem cellSet_dumps (n : Nat) (c : CellRt) : (cellSet s n c).dumps = s.dumps := rfl
@[simp] theorem cellSet_barriers (n : Nat) (c : CellRt) : (cellSet s n c).barriers = s.barriers := rfl
@[simp] theorem cellSet_chain (n : Nat) (c : CellRt) : (cellSet s n c).chain = s.chain := rfl
@[simp] theorem cellSet_links (n : Nat) (c : CellRt) : (cellSet s n c).links = s.links := rfl
@[simp] theorem cellSet_far (n : Nat) (c : CellRt) : (cellSet s n c).far = s.far := rfl
@[simp] theorem cellSet_groups (n : Nat) (c : CellRt) : (cellSet s n c).groups = s.groups := rfl
@[simp] theorem cellSet_resends (n : Nat) (c : CellRt) : (cellSet s n c).resends = s.resends := rfl
@[simp] theorem cellSet_keys (n : Nat) (c : CellRt) : (cellSet s n c).keys = s.keys := rfl
@[simp] theorem cellSet_skidQ (n : Nat) (c : CellRt) : (cellSet s n c).skidQ = s.skidQ := rfl
@[simp] theorem cellSet_skid (n : Nat) (c : CellRt) : (cellSet s n c).skid = s.skid := rfl
@[simp] theorem cellSet_replicas (n : Nat) (c : CellRt) : (cellSet s n c).replicas = s.replicas := rfl
@[simp] theorem cellSet_early (n : Nat) (c : CellRt) : (cellSet s n c).early = s.early := rfl
@[simp] theorem cellSet_rot (n : Nat) (c : CellRt) : (cellSet s n c).rot = s.rot := rfl
@[simp] theorem cellSet_tally (n : Nat) (c : CellRt) : (cellSet s n c).tally = s.tally := rfl
@[simp] theorem cellSet_boot (n : Nat) (c : CellRt) : (cellSet s n c).boot = s.boot := rfl
@[simp] theorem cellSet_mbox (n : Nat) (c : CellRt) : (cellSet s n c).mbox = s.mbox := rfl
@[simp] theorem cellSet_power (n : Nat) (c : CellRt) : (cellSet s n c).power = s.power := rfl
@[simp] theorem cellSet_jtag (n : Nat) (c : CellRt) : (cellSet s n c).jtag = s.jtag := rfl
@[simp] theorem cellSet_kerfOps (n : Nat) (c : CellRt) : (cellSet s n c).kerfOps = s.kerfOps := rfl
@[simp] theorem cellSet_pan (n : Nat) (c : CellRt) : (cellSet s n c).pan = s.pan := rfl
@[simp] theorem cellSet_sent (n : Nat) (c : CellRt) : (cellSet s n c).sent = s.sent := rfl
@[simp] theorem cellSet_txq (n : Nat) (c : CellRt) : (cellSet s n c).txq = s.txq := rfl
@[simp] theorem cellSet_rx (n : Nat) (c : CellRt) : (cellSet s n c).rx = s.rx := rfl
@[simp] theorem cellSet_free (n : Nat) (c : CellRt) : (cellSet s n c).free = s.free := rfl
@[simp] theorem cellSet_readOut (n : Nat) (c : CellRt) : (cellSet s n c).readOut = s.readOut := rfl

/-! ### barrierSet -/

@[simp] theorem barrierSet_pending (b : Nat) (x : BarrierRt) : (barrierSet s b x).pending = s.pending := rfl
@[simp] theorem barrierSet_regs (b : Nat) (x : BarrierRt) : (barrierSet s b x).regs = s.regs := rfl
@[simp] theorem barrierSet_regs1 (b : Nat) (x : BarrierRt) : (barrierSet s b x).regs1 = s.regs1 := rfl
@[simp] theorem barrierSet_regs2 (b : Nat) (x : BarrierRt) : (barrierSet s b x).regs2 = s.regs2 := rfl
@[simp] theorem barrierSet_heldLow (b : Nat) (x : BarrierRt) : (barrierSet s b x).heldLow = s.heldLow := rfl
@[simp] theorem barrierSet_posted (b : Nat) (x : BarrierRt) : (barrierSet s b x).posted = s.posted := rfl
@[simp] theorem barrierSet_mem (b : Nat) (x : BarrierRt) : (barrierSet s b x).mem = s.mem := rfl
@[simp] theorem barrierSet_hostMem (b : Nat) (x : BarrierRt) : (barrierSet s b x).hostMem = s.hostMem := rfl
@[simp] theorem barrierSet_flash (b : Nat) (x : BarrierRt) : (barrierSet s b x).flash = s.flash := rfl
@[simp] theorem barrierSet_msixTable (b : Nat) (x : BarrierRt) : (barrierSet s b x).msixTable = s.msixTable := rfl
@[simp] theorem barrierSet_hbm (b : Nat) (x : BarrierRt) : (barrierSet s b x).hbm = s.hbm := rfl
@[simp] theorem barrierSet_sems (b : Nat) (x : BarrierRt) : (barrierSet s b x).sems = s.sems := rfl
@[simp] theorem barrierSet_rings (b : Nat) (x : BarrierRt) : (barrierSet s b x).rings = s.rings := rfl
@[simp] theorem barrierSet_ops (b : Nat) (x : BarrierRt) : (barrierSet s b x).ops = s.ops := rfl
@[simp] theorem barrierSet_opSeq (b : Nat) (x : BarrierRt) : (barrierSet s b x).opSeq = s.opSeq := rfl
@[simp] theorem barrierSet_cells (b : Nat) (x : BarrierRt) : (barrierSet s b x).cells = s.cells := rfl
@[simp] theorem barrierSet_sclFmt (b : Nat) (x : BarrierRt) : (barrierSet s b x).sclFmt = s.sclFmt := rfl
@[simp] theorem barrierSet_sclAside (b : Nat) (x : BarrierRt) : (barrierSet s b x).sclAside = s.sclAside := rfl
@[simp] theorem barrierSet_sclLate (b : Nat) (x : BarrierRt) : (barrierSet s b x).sclLate = s.sclLate := rfl
@[simp] theorem barrierSet_sclFmtLate (b : Nat) (x : BarrierRt) : (barrierSet s b x).sclFmtLate = s.sclFmtLate := rfl
@[simp] theorem barrierSet_sawRest (b : Nat) (x : BarrierRt) : (barrierSet s b x).sawRest = s.sawRest := rfl
@[simp] theorem barrierSet_decisions (b : Nat) (x : BarrierRt) : (barrierSet s b x).decisions = s.decisions := rfl
@[simp] theorem barrierSet_heldWrites (b : Nat) (x : BarrierRt) : (barrierSet s b x).heldWrites = s.heldWrites := rfl
@[simp] theorem barrierSet_chip (b : Nat) (x : BarrierRt) : (barrierSet s b x).chip = s.chip := rfl
@[simp] theorem barrierSet_stand (b : Nat) (x : BarrierRt) : (barrierSet s b x).stand = s.stand := rfl
@[simp] theorem barrierSet_time (b : Nat) (x : BarrierRt) : (barrierSet s b x).time = s.time := rfl
@[simp] theorem barrierSet_cross (b : Nat) (x : BarrierRt) : (barrierSet s b x).cross = s.cross := rfl
@[simp] theorem barrierSet_dumps (b : Nat) (x : BarrierRt) : (barrierSet s b x).dumps = s.dumps := rfl
@[simp] theorem barrierSet_chain (b : Nat) (x : BarrierRt) : (barrierSet s b x).chain = s.chain := rfl
@[simp] theorem barrierSet_links (b : Nat) (x : BarrierRt) : (barrierSet s b x).links = s.links := rfl
@[simp] theorem barrierSet_far (b : Nat) (x : BarrierRt) : (barrierSet s b x).far = s.far := rfl
@[simp] theorem barrierSet_groups (b : Nat) (x : BarrierRt) : (barrierSet s b x).groups = s.groups := rfl
@[simp] theorem barrierSet_resends (b : Nat) (x : BarrierRt) : (barrierSet s b x).resends = s.resends := rfl
@[simp] theorem barrierSet_keys (b : Nat) (x : BarrierRt) : (barrierSet s b x).keys = s.keys := rfl
@[simp] theorem barrierSet_skidQ (b : Nat) (x : BarrierRt) : (barrierSet s b x).skidQ = s.skidQ := rfl
@[simp] theorem barrierSet_skid (b : Nat) (x : BarrierRt) : (barrierSet s b x).skid = s.skid := rfl
@[simp] theorem barrierSet_replicas (b : Nat) (x : BarrierRt) : (barrierSet s b x).replicas = s.replicas := rfl
@[simp] theorem barrierSet_early (b : Nat) (x : BarrierRt) : (barrierSet s b x).early = s.early := rfl
@[simp] theorem barrierSet_rot (b : Nat) (x : BarrierRt) : (barrierSet s b x).rot = s.rot := rfl
@[simp] theorem barrierSet_tally (b : Nat) (x : BarrierRt) : (barrierSet s b x).tally = s.tally := rfl
@[simp] theorem barrierSet_boot (b : Nat) (x : BarrierRt) : (barrierSet s b x).boot = s.boot := rfl
@[simp] theorem barrierSet_mbox (b : Nat) (x : BarrierRt) : (barrierSet s b x).mbox = s.mbox := rfl
@[simp] theorem barrierSet_power (b : Nat) (x : BarrierRt) : (barrierSet s b x).power = s.power := rfl
@[simp] theorem barrierSet_jtag (b : Nat) (x : BarrierRt) : (barrierSet s b x).jtag = s.jtag := rfl
@[simp] theorem barrierSet_kerfOps (b : Nat) (x : BarrierRt) : (barrierSet s b x).kerfOps = s.kerfOps := rfl
@[simp] theorem barrierSet_pan (b : Nat) (x : BarrierRt) : (barrierSet s b x).pan = s.pan := rfl
@[simp] theorem barrierSet_sent (b : Nat) (x : BarrierRt) : (barrierSet s b x).sent = s.sent := rfl
@[simp] theorem barrierSet_txq (b : Nat) (x : BarrierRt) : (barrierSet s b x).txq = s.txq := rfl
@[simp] theorem barrierSet_rx (b : Nat) (x : BarrierRt) : (barrierSet s b x).rx = s.rx := rfl
@[simp] theorem barrierSet_free (b : Nat) (x : BarrierRt) : (barrierSet s b x).free = s.free := rfl
@[simp] theorem barrierSet_readOut (b : Nat) (x : BarrierRt) : (barrierSet s b x).readOut = s.readOut := rfl

/-! ### linkSet -/

@[simp] theorem linkSet_pending (n : Nat) (l : LinkRt) : (linkSet s n l).pending = s.pending := rfl
@[simp] theorem linkSet_regs (n : Nat) (l : LinkRt) : (linkSet s n l).regs = s.regs := rfl
@[simp] theorem linkSet_regs1 (n : Nat) (l : LinkRt) : (linkSet s n l).regs1 = s.regs1 := rfl
@[simp] theorem linkSet_regs2 (n : Nat) (l : LinkRt) : (linkSet s n l).regs2 = s.regs2 := rfl
@[simp] theorem linkSet_heldLow (n : Nat) (l : LinkRt) : (linkSet s n l).heldLow = s.heldLow := rfl
@[simp] theorem linkSet_posted (n : Nat) (l : LinkRt) : (linkSet s n l).posted = s.posted := rfl
@[simp] theorem linkSet_mem (n : Nat) (l : LinkRt) : (linkSet s n l).mem = s.mem := rfl
@[simp] theorem linkSet_hostMem (n : Nat) (l : LinkRt) : (linkSet s n l).hostMem = s.hostMem := rfl
@[simp] theorem linkSet_flash (n : Nat) (l : LinkRt) : (linkSet s n l).flash = s.flash := rfl
@[simp] theorem linkSet_msixTable (n : Nat) (l : LinkRt) : (linkSet s n l).msixTable = s.msixTable := rfl
@[simp] theorem linkSet_hbm (n : Nat) (l : LinkRt) : (linkSet s n l).hbm = s.hbm := rfl
@[simp] theorem linkSet_sems (n : Nat) (l : LinkRt) : (linkSet s n l).sems = s.sems := rfl
@[simp] theorem linkSet_rings (n : Nat) (l : LinkRt) : (linkSet s n l).rings = s.rings := rfl
@[simp] theorem linkSet_ops (n : Nat) (l : LinkRt) : (linkSet s n l).ops = s.ops := rfl
@[simp] theorem linkSet_opSeq (n : Nat) (l : LinkRt) : (linkSet s n l).opSeq = s.opSeq := rfl
@[simp] theorem linkSet_cells (n : Nat) (l : LinkRt) : (linkSet s n l).cells = s.cells := rfl
@[simp] theorem linkSet_sclFmt (n : Nat) (l : LinkRt) : (linkSet s n l).sclFmt = s.sclFmt := rfl
@[simp] theorem linkSet_sclAside (n : Nat) (l : LinkRt) : (linkSet s n l).sclAside = s.sclAside := rfl
@[simp] theorem linkSet_sclLate (n : Nat) (l : LinkRt) : (linkSet s n l).sclLate = s.sclLate := rfl
@[simp] theorem linkSet_sclFmtLate (n : Nat) (l : LinkRt) : (linkSet s n l).sclFmtLate = s.sclFmtLate := rfl
@[simp] theorem linkSet_sawRest (n : Nat) (l : LinkRt) : (linkSet s n l).sawRest = s.sawRest := rfl
@[simp] theorem linkSet_decisions (n : Nat) (l : LinkRt) : (linkSet s n l).decisions = s.decisions := rfl
@[simp] theorem linkSet_heldWrites (n : Nat) (l : LinkRt) : (linkSet s n l).heldWrites = s.heldWrites := rfl
@[simp] theorem linkSet_chip (n : Nat) (l : LinkRt) : (linkSet s n l).chip = s.chip := rfl
@[simp] theorem linkSet_stand (n : Nat) (l : LinkRt) : (linkSet s n l).stand = s.stand := rfl
@[simp] theorem linkSet_time (n : Nat) (l : LinkRt) : (linkSet s n l).time = s.time := rfl
@[simp] theorem linkSet_cross (n : Nat) (l : LinkRt) : (linkSet s n l).cross = s.cross := rfl
@[simp] theorem linkSet_dumps (n : Nat) (l : LinkRt) : (linkSet s n l).dumps = s.dumps := rfl
@[simp] theorem linkSet_barriers (n : Nat) (l : LinkRt) : (linkSet s n l).barriers = s.barriers := rfl
@[simp] theorem linkSet_chain (n : Nat) (l : LinkRt) : (linkSet s n l).chain = s.chain := rfl
@[simp] theorem linkSet_far (n : Nat) (l : LinkRt) : (linkSet s n l).far = s.far := rfl
@[simp] theorem linkSet_groups (n : Nat) (l : LinkRt) : (linkSet s n l).groups = s.groups := rfl
@[simp] theorem linkSet_resends (n : Nat) (l : LinkRt) : (linkSet s n l).resends = s.resends := rfl
@[simp] theorem linkSet_keys (n : Nat) (l : LinkRt) : (linkSet s n l).keys = s.keys := rfl
@[simp] theorem linkSet_skidQ (n : Nat) (l : LinkRt) : (linkSet s n l).skidQ = s.skidQ := rfl
@[simp] theorem linkSet_skid (n : Nat) (l : LinkRt) : (linkSet s n l).skid = s.skid := rfl
@[simp] theorem linkSet_replicas (n : Nat) (l : LinkRt) : (linkSet s n l).replicas = s.replicas := rfl
@[simp] theorem linkSet_early (n : Nat) (l : LinkRt) : (linkSet s n l).early = s.early := rfl
@[simp] theorem linkSet_rot (n : Nat) (l : LinkRt) : (linkSet s n l).rot = s.rot := rfl
@[simp] theorem linkSet_tally (n : Nat) (l : LinkRt) : (linkSet s n l).tally = s.tally := rfl
@[simp] theorem linkSet_boot (n : Nat) (l : LinkRt) : (linkSet s n l).boot = s.boot := rfl
@[simp] theorem linkSet_mbox (n : Nat) (l : LinkRt) : (linkSet s n l).mbox = s.mbox := rfl
@[simp] theorem linkSet_power (n : Nat) (l : LinkRt) : (linkSet s n l).power = s.power := rfl
@[simp] theorem linkSet_jtag (n : Nat) (l : LinkRt) : (linkSet s n l).jtag = s.jtag := rfl
@[simp] theorem linkSet_kerfOps (n : Nat) (l : LinkRt) : (linkSet s n l).kerfOps = s.kerfOps := rfl
@[simp] theorem linkSet_pan (n : Nat) (l : LinkRt) : (linkSet s n l).pan = s.pan := rfl
@[simp] theorem linkSet_sent (n : Nat) (l : LinkRt) : (linkSet s n l).sent = s.sent := rfl
@[simp] theorem linkSet_txq (n : Nat) (l : LinkRt) : (linkSet s n l).txq = s.txq := rfl
@[simp] theorem linkSet_rx (n : Nat) (l : LinkRt) : (linkSet s n l).rx = s.rx := rfl
@[simp] theorem linkSet_free (n : Nat) (l : LinkRt) : (linkSet s n l).free = s.free := rfl
@[simp] theorem linkSet_readOut (n : Nat) (l : LinkRt) : (linkSet s n l).readOut = s.readOut := rfl

/-! ### farSet -/

@[simp] theorem farSet_pending (k : Nat) (x : FarRt) : (farSet s k x).pending = s.pending := rfl
@[simp] theorem farSet_regs (k : Nat) (x : FarRt) : (farSet s k x).regs = s.regs := rfl
@[simp] theorem farSet_regs1 (k : Nat) (x : FarRt) : (farSet s k x).regs1 = s.regs1 := rfl
@[simp] theorem farSet_regs2 (k : Nat) (x : FarRt) : (farSet s k x).regs2 = s.regs2 := rfl
@[simp] theorem farSet_heldLow (k : Nat) (x : FarRt) : (farSet s k x).heldLow = s.heldLow := rfl
@[simp] theorem farSet_posted (k : Nat) (x : FarRt) : (farSet s k x).posted = s.posted := rfl
@[simp] theorem farSet_mem (k : Nat) (x : FarRt) : (farSet s k x).mem = s.mem := rfl
@[simp] theorem farSet_hostMem (k : Nat) (x : FarRt) : (farSet s k x).hostMem = s.hostMem := rfl
@[simp] theorem farSet_flash (k : Nat) (x : FarRt) : (farSet s k x).flash = s.flash := rfl
@[simp] theorem farSet_msixTable (k : Nat) (x : FarRt) : (farSet s k x).msixTable = s.msixTable := rfl
@[simp] theorem farSet_hbm (k : Nat) (x : FarRt) : (farSet s k x).hbm = s.hbm := rfl
@[simp] theorem farSet_sems (k : Nat) (x : FarRt) : (farSet s k x).sems = s.sems := rfl
@[simp] theorem farSet_rings (k : Nat) (x : FarRt) : (farSet s k x).rings = s.rings := rfl
@[simp] theorem farSet_ops (k : Nat) (x : FarRt) : (farSet s k x).ops = s.ops := rfl
@[simp] theorem farSet_opSeq (k : Nat) (x : FarRt) : (farSet s k x).opSeq = s.opSeq := rfl
@[simp] theorem farSet_cells (k : Nat) (x : FarRt) : (farSet s k x).cells = s.cells := rfl
@[simp] theorem farSet_sclFmt (k : Nat) (x : FarRt) : (farSet s k x).sclFmt = s.sclFmt := rfl
@[simp] theorem farSet_sclAside (k : Nat) (x : FarRt) : (farSet s k x).sclAside = s.sclAside := rfl
@[simp] theorem farSet_sclLate (k : Nat) (x : FarRt) : (farSet s k x).sclLate = s.sclLate := rfl
@[simp] theorem farSet_sclFmtLate (k : Nat) (x : FarRt) : (farSet s k x).sclFmtLate = s.sclFmtLate := rfl
@[simp] theorem farSet_sawRest (k : Nat) (x : FarRt) : (farSet s k x).sawRest = s.sawRest := rfl
@[simp] theorem farSet_decisions (k : Nat) (x : FarRt) : (farSet s k x).decisions = s.decisions := rfl
@[simp] theorem farSet_heldWrites (k : Nat) (x : FarRt) : (farSet s k x).heldWrites = s.heldWrites := rfl
@[simp] theorem farSet_chip (k : Nat) (x : FarRt) : (farSet s k x).chip = s.chip := rfl
@[simp] theorem farSet_stand (k : Nat) (x : FarRt) : (farSet s k x).stand = s.stand := rfl
@[simp] theorem farSet_time (k : Nat) (x : FarRt) : (farSet s k x).time = s.time := rfl
@[simp] theorem farSet_cross (k : Nat) (x : FarRt) : (farSet s k x).cross = s.cross := rfl
@[simp] theorem farSet_dumps (k : Nat) (x : FarRt) : (farSet s k x).dumps = s.dumps := rfl
@[simp] theorem farSet_barriers (k : Nat) (x : FarRt) : (farSet s k x).barriers = s.barriers := rfl
@[simp] theorem farSet_chain (k : Nat) (x : FarRt) : (farSet s k x).chain = s.chain := rfl
@[simp] theorem farSet_links (k : Nat) (x : FarRt) : (farSet s k x).links = s.links := rfl
@[simp] theorem farSet_groups (k : Nat) (x : FarRt) : (farSet s k x).groups = s.groups := rfl
@[simp] theorem farSet_resends (k : Nat) (x : FarRt) : (farSet s k x).resends = s.resends := rfl
@[simp] theorem farSet_keys (k : Nat) (x : FarRt) : (farSet s k x).keys = s.keys := rfl
@[simp] theorem farSet_skidQ (k : Nat) (x : FarRt) : (farSet s k x).skidQ = s.skidQ := rfl
@[simp] theorem farSet_skid (k : Nat) (x : FarRt) : (farSet s k x).skid = s.skid := rfl
@[simp] theorem farSet_replicas (k : Nat) (x : FarRt) : (farSet s k x).replicas = s.replicas := rfl
@[simp] theorem farSet_early (k : Nat) (x : FarRt) : (farSet s k x).early = s.early := rfl
@[simp] theorem farSet_rot (k : Nat) (x : FarRt) : (farSet s k x).rot = s.rot := rfl
@[simp] theorem farSet_tally (k : Nat) (x : FarRt) : (farSet s k x).tally = s.tally := rfl
@[simp] theorem farSet_boot (k : Nat) (x : FarRt) : (farSet s k x).boot = s.boot := rfl
@[simp] theorem farSet_mbox (k : Nat) (x : FarRt) : (farSet s k x).mbox = s.mbox := rfl
@[simp] theorem farSet_power (k : Nat) (x : FarRt) : (farSet s k x).power = s.power := rfl
@[simp] theorem farSet_jtag (k : Nat) (x : FarRt) : (farSet s k x).jtag = s.jtag := rfl
@[simp] theorem farSet_kerfOps (k : Nat) (x : FarRt) : (farSet s k x).kerfOps = s.kerfOps := rfl
@[simp] theorem farSet_pan (k : Nat) (x : FarRt) : (farSet s k x).pan = s.pan := rfl
@[simp] theorem farSet_sent (k : Nat) (x : FarRt) : (farSet s k x).sent = s.sent := rfl
@[simp] theorem farSet_txq (k : Nat) (x : FarRt) : (farSet s k x).txq = s.txq := rfl
@[simp] theorem farSet_rx (k : Nat) (x : FarRt) : (farSet s k x).rx = s.rx := rfl
@[simp] theorem farSet_free (k : Nat) (x : FarRt) : (farSet s k x).free = s.free := rfl
@[simp] theorem farSet_readOut (k : Nat) (x : FarRt) : (farSet s k x).readOut = s.readOut := rfl

/-! ### panSet -/

@[simp] theorem panSet_pending (c : Nat) (x : PanRt) : (panSet s c x).pending = s.pending := rfl
@[simp] theorem panSet_regs (c : Nat) (x : PanRt) : (panSet s c x).regs = s.regs := rfl
@[simp] theorem panSet_regs1 (c : Nat) (x : PanRt) : (panSet s c x).regs1 = s.regs1 := rfl
@[simp] theorem panSet_regs2 (c : Nat) (x : PanRt) : (panSet s c x).regs2 = s.regs2 := rfl
@[simp] theorem panSet_heldLow (c : Nat) (x : PanRt) : (panSet s c x).heldLow = s.heldLow := rfl
@[simp] theorem panSet_posted (c : Nat) (x : PanRt) : (panSet s c x).posted = s.posted := rfl
@[simp] theorem panSet_mem (c : Nat) (x : PanRt) : (panSet s c x).mem = s.mem := rfl
@[simp] theorem panSet_hostMem (c : Nat) (x : PanRt) : (panSet s c x).hostMem = s.hostMem := rfl
@[simp] theorem panSet_flash (c : Nat) (x : PanRt) : (panSet s c x).flash = s.flash := rfl
@[simp] theorem panSet_msixTable (c : Nat) (x : PanRt) : (panSet s c x).msixTable = s.msixTable := rfl
@[simp] theorem panSet_hbm (c : Nat) (x : PanRt) : (panSet s c x).hbm = s.hbm := rfl
@[simp] theorem panSet_sems (c : Nat) (x : PanRt) : (panSet s c x).sems = s.sems := rfl
@[simp] theorem panSet_rings (c : Nat) (x : PanRt) : (panSet s c x).rings = s.rings := rfl
@[simp] theorem panSet_ops (c : Nat) (x : PanRt) : (panSet s c x).ops = s.ops := rfl
@[simp] theorem panSet_opSeq (c : Nat) (x : PanRt) : (panSet s c x).opSeq = s.opSeq := rfl
@[simp] theorem panSet_cells (c : Nat) (x : PanRt) : (panSet s c x).cells = s.cells := rfl
@[simp] theorem panSet_sclFmt (c : Nat) (x : PanRt) : (panSet s c x).sclFmt = s.sclFmt := rfl
@[simp] theorem panSet_sclAside (c : Nat) (x : PanRt) : (panSet s c x).sclAside = s.sclAside := rfl
@[simp] theorem panSet_sclLate (c : Nat) (x : PanRt) : (panSet s c x).sclLate = s.sclLate := rfl
@[simp] theorem panSet_sclFmtLate (c : Nat) (x : PanRt) : (panSet s c x).sclFmtLate = s.sclFmtLate := rfl
@[simp] theorem panSet_sawRest (c : Nat) (x : PanRt) : (panSet s c x).sawRest = s.sawRest := rfl
@[simp] theorem panSet_decisions (c : Nat) (x : PanRt) : (panSet s c x).decisions = s.decisions := rfl
@[simp] theorem panSet_heldWrites (c : Nat) (x : PanRt) : (panSet s c x).heldWrites = s.heldWrites := rfl
@[simp] theorem panSet_chip (c : Nat) (x : PanRt) : (panSet s c x).chip = s.chip := rfl
@[simp] theorem panSet_stand (c : Nat) (x : PanRt) : (panSet s c x).stand = s.stand := rfl
@[simp] theorem panSet_time (c : Nat) (x : PanRt) : (panSet s c x).time = s.time := rfl
@[simp] theorem panSet_cross (c : Nat) (x : PanRt) : (panSet s c x).cross = s.cross := rfl
@[simp] theorem panSet_dumps (c : Nat) (x : PanRt) : (panSet s c x).dumps = s.dumps := rfl
@[simp] theorem panSet_barriers (c : Nat) (x : PanRt) : (panSet s c x).barriers = s.barriers := rfl
@[simp] theorem panSet_chain (c : Nat) (x : PanRt) : (panSet s c x).chain = s.chain := rfl
@[simp] theorem panSet_links (c : Nat) (x : PanRt) : (panSet s c x).links = s.links := rfl
@[simp] theorem panSet_far (c : Nat) (x : PanRt) : (panSet s c x).far = s.far := rfl
@[simp] theorem panSet_groups (c : Nat) (x : PanRt) : (panSet s c x).groups = s.groups := rfl
@[simp] theorem panSet_resends (c : Nat) (x : PanRt) : (panSet s c x).resends = s.resends := rfl
@[simp] theorem panSet_keys (c : Nat) (x : PanRt) : (panSet s c x).keys = s.keys := rfl
@[simp] theorem panSet_skidQ (c : Nat) (x : PanRt) : (panSet s c x).skidQ = s.skidQ := rfl
@[simp] theorem panSet_skid (c : Nat) (x : PanRt) : (panSet s c x).skid = s.skid := rfl
@[simp] theorem panSet_replicas (c : Nat) (x : PanRt) : (panSet s c x).replicas = s.replicas := rfl
@[simp] theorem panSet_early (c : Nat) (x : PanRt) : (panSet s c x).early = s.early := rfl
@[simp] theorem panSet_rot (c : Nat) (x : PanRt) : (panSet s c x).rot = s.rot := rfl
@[simp] theorem panSet_tally (c : Nat) (x : PanRt) : (panSet s c x).tally = s.tally := rfl
@[simp] theorem panSet_boot (c : Nat) (x : PanRt) : (panSet s c x).boot = s.boot := rfl
@[simp] theorem panSet_mbox (c : Nat) (x : PanRt) : (panSet s c x).mbox = s.mbox := rfl
@[simp] theorem panSet_power (c : Nat) (x : PanRt) : (panSet s c x).power = s.power := rfl
@[simp] theorem panSet_jtag (c : Nat) (x : PanRt) : (panSet s c x).jtag = s.jtag := rfl
@[simp] theorem panSet_kerfOps (c : Nat) (x : PanRt) : (panSet s c x).kerfOps = s.kerfOps := rfl
@[simp] theorem panSet_sent (c : Nat) (x : PanRt) : (panSet s c x).sent = s.sent := rfl
@[simp] theorem panSet_txq (c : Nat) (x : PanRt) : (panSet s c x).txq = s.txq := rfl
@[simp] theorem panSet_rx (c : Nat) (x : PanRt) : (panSet s c x).rx = s.rx := rfl
@[simp] theorem panSet_free (c : Nat) (x : PanRt) : (panSet s c x).free = s.free := rfl
@[simp] theorem panSet_readOut (c : Nat) (x : PanRt) : (panSet s c x).readOut = s.readOut := rfl

/-! ### setBoot -/

@[simp] theorem setBoot_pending (f : BootRt → BootRt) : (setBoot s f).pending = s.pending := rfl
@[simp] theorem setBoot_regs (f : BootRt → BootRt) : (setBoot s f).regs = s.regs := rfl
@[simp] theorem setBoot_regs1 (f : BootRt → BootRt) : (setBoot s f).regs1 = s.regs1 := rfl
@[simp] theorem setBoot_regs2 (f : BootRt → BootRt) : (setBoot s f).regs2 = s.regs2 := rfl
@[simp] theorem setBoot_heldLow (f : BootRt → BootRt) : (setBoot s f).heldLow = s.heldLow := rfl
@[simp] theorem setBoot_posted (f : BootRt → BootRt) : (setBoot s f).posted = s.posted := rfl
@[simp] theorem setBoot_mem (f : BootRt → BootRt) : (setBoot s f).mem = s.mem := rfl
@[simp] theorem setBoot_hostMem (f : BootRt → BootRt) : (setBoot s f).hostMem = s.hostMem := rfl
@[simp] theorem setBoot_flash (f : BootRt → BootRt) : (setBoot s f).flash = s.flash := rfl
@[simp] theorem setBoot_msixTable (f : BootRt → BootRt) : (setBoot s f).msixTable = s.msixTable := rfl
@[simp] theorem setBoot_hbm (f : BootRt → BootRt) : (setBoot s f).hbm = s.hbm := rfl
@[simp] theorem setBoot_sems (f : BootRt → BootRt) : (setBoot s f).sems = s.sems := rfl
@[simp] theorem setBoot_rings (f : BootRt → BootRt) : (setBoot s f).rings = s.rings := rfl
@[simp] theorem setBoot_ops (f : BootRt → BootRt) : (setBoot s f).ops = s.ops := rfl
@[simp] theorem setBoot_opSeq (f : BootRt → BootRt) : (setBoot s f).opSeq = s.opSeq := rfl
@[simp] theorem setBoot_cells (f : BootRt → BootRt) : (setBoot s f).cells = s.cells := rfl
@[simp] theorem setBoot_sclFmt (f : BootRt → BootRt) : (setBoot s f).sclFmt = s.sclFmt := rfl
@[simp] theorem setBoot_sclAside (f : BootRt → BootRt) : (setBoot s f).sclAside = s.sclAside := rfl
@[simp] theorem setBoot_sclLate (f : BootRt → BootRt) : (setBoot s f).sclLate = s.sclLate := rfl
@[simp] theorem setBoot_sclFmtLate (f : BootRt → BootRt) : (setBoot s f).sclFmtLate = s.sclFmtLate := rfl
@[simp] theorem setBoot_sawRest (f : BootRt → BootRt) : (setBoot s f).sawRest = s.sawRest := rfl
@[simp] theorem setBoot_decisions (f : BootRt → BootRt) : (setBoot s f).decisions = s.decisions := rfl
@[simp] theorem setBoot_heldWrites (f : BootRt → BootRt) : (setBoot s f).heldWrites = s.heldWrites := rfl
@[simp] theorem setBoot_chip (f : BootRt → BootRt) : (setBoot s f).chip = s.chip := rfl
@[simp] theorem setBoot_stand (f : BootRt → BootRt) : (setBoot s f).stand = s.stand := rfl
@[simp] theorem setBoot_time (f : BootRt → BootRt) : (setBoot s f).time = s.time := rfl
@[simp] theorem setBoot_cross (f : BootRt → BootRt) : (setBoot s f).cross = s.cross := rfl
@[simp] theorem setBoot_dumps (f : BootRt → BootRt) : (setBoot s f).dumps = s.dumps := rfl
@[simp] theorem setBoot_barriers (f : BootRt → BootRt) : (setBoot s f).barriers = s.barriers := rfl
@[simp] theorem setBoot_chain (f : BootRt → BootRt) : (setBoot s f).chain = s.chain := rfl
@[simp] theorem setBoot_links (f : BootRt → BootRt) : (setBoot s f).links = s.links := rfl
@[simp] theorem setBoot_far (f : BootRt → BootRt) : (setBoot s f).far = s.far := rfl
@[simp] theorem setBoot_groups (f : BootRt → BootRt) : (setBoot s f).groups = s.groups := rfl
@[simp] theorem setBoot_resends (f : BootRt → BootRt) : (setBoot s f).resends = s.resends := rfl
@[simp] theorem setBoot_keys (f : BootRt → BootRt) : (setBoot s f).keys = s.keys := rfl
@[simp] theorem setBoot_skidQ (f : BootRt → BootRt) : (setBoot s f).skidQ = s.skidQ := rfl
@[simp] theorem setBoot_skid (f : BootRt → BootRt) : (setBoot s f).skid = s.skid := rfl
@[simp] theorem setBoot_replicas (f : BootRt → BootRt) : (setBoot s f).replicas = s.replicas := rfl
@[simp] theorem setBoot_early (f : BootRt → BootRt) : (setBoot s f).early = s.early := rfl
@[simp] theorem setBoot_rot (f : BootRt → BootRt) : (setBoot s f).rot = s.rot := rfl
@[simp] theorem setBoot_tally (f : BootRt → BootRt) : (setBoot s f).tally = s.tally := rfl
@[simp] theorem setBoot_mbox (f : BootRt → BootRt) : (setBoot s f).mbox = s.mbox := rfl
@[simp] theorem setBoot_power (f : BootRt → BootRt) : (setBoot s f).power = s.power := rfl
@[simp] theorem setBoot_jtag (f : BootRt → BootRt) : (setBoot s f).jtag = s.jtag := rfl
@[simp] theorem setBoot_kerfOps (f : BootRt → BootRt) : (setBoot s f).kerfOps = s.kerfOps := rfl
@[simp] theorem setBoot_pan (f : BootRt → BootRt) : (setBoot s f).pan = s.pan := rfl
@[simp] theorem setBoot_sent (f : BootRt → BootRt) : (setBoot s f).sent = s.sent := rfl
@[simp] theorem setBoot_txq (f : BootRt → BootRt) : (setBoot s f).txq = s.txq := rfl
@[simp] theorem setBoot_rx (f : BootRt → BootRt) : (setBoot s f).rx = s.rx := rfl
@[simp] theorem setBoot_free (f : BootRt → BootRt) : (setBoot s f).free = s.free := rfl
@[simp] theorem setBoot_readOut (f : BootRt → BootRt) : (setBoot s f).readOut = s.readOut := rfl

/-! ### setPower -/

@[simp] theorem setPower_pending (f : PowerRt → PowerRt) : (setPower s f).pending = s.pending := rfl
@[simp] theorem setPower_regs (f : PowerRt → PowerRt) : (setPower s f).regs = s.regs := rfl
@[simp] theorem setPower_regs1 (f : PowerRt → PowerRt) : (setPower s f).regs1 = s.regs1 := rfl
@[simp] theorem setPower_regs2 (f : PowerRt → PowerRt) : (setPower s f).regs2 = s.regs2 := rfl
@[simp] theorem setPower_heldLow (f : PowerRt → PowerRt) : (setPower s f).heldLow = s.heldLow := rfl
@[simp] theorem setPower_posted (f : PowerRt → PowerRt) : (setPower s f).posted = s.posted := rfl
@[simp] theorem setPower_mem (f : PowerRt → PowerRt) : (setPower s f).mem = s.mem := rfl
@[simp] theorem setPower_hostMem (f : PowerRt → PowerRt) : (setPower s f).hostMem = s.hostMem := rfl
@[simp] theorem setPower_flash (f : PowerRt → PowerRt) : (setPower s f).flash = s.flash := rfl
@[simp] theorem setPower_msixTable (f : PowerRt → PowerRt) : (setPower s f).msixTable = s.msixTable := rfl
@[simp] theorem setPower_hbm (f : PowerRt → PowerRt) : (setPower s f).hbm = s.hbm := rfl
@[simp] theorem setPower_sems (f : PowerRt → PowerRt) : (setPower s f).sems = s.sems := rfl
@[simp] theorem setPower_rings (f : PowerRt → PowerRt) : (setPower s f).rings = s.rings := rfl
@[simp] theorem setPower_ops (f : PowerRt → PowerRt) : (setPower s f).ops = s.ops := rfl
@[simp] theorem setPower_opSeq (f : PowerRt → PowerRt) : (setPower s f).opSeq = s.opSeq := rfl
@[simp] theorem setPower_cells (f : PowerRt → PowerRt) : (setPower s f).cells = s.cells := rfl
@[simp] theorem setPower_sclFmt (f : PowerRt → PowerRt) : (setPower s f).sclFmt = s.sclFmt := rfl
@[simp] theorem setPower_sclAside (f : PowerRt → PowerRt) : (setPower s f).sclAside = s.sclAside := rfl
@[simp] theorem setPower_sclLate (f : PowerRt → PowerRt) : (setPower s f).sclLate = s.sclLate := rfl
@[simp] theorem setPower_sclFmtLate (f : PowerRt → PowerRt) : (setPower s f).sclFmtLate = s.sclFmtLate := rfl
@[simp] theorem setPower_sawRest (f : PowerRt → PowerRt) : (setPower s f).sawRest = s.sawRest := rfl
@[simp] theorem setPower_decisions (f : PowerRt → PowerRt) : (setPower s f).decisions = s.decisions := rfl
@[simp] theorem setPower_heldWrites (f : PowerRt → PowerRt) : (setPower s f).heldWrites = s.heldWrites := rfl
@[simp] theorem setPower_chip (f : PowerRt → PowerRt) : (setPower s f).chip = s.chip := rfl
@[simp] theorem setPower_stand (f : PowerRt → PowerRt) : (setPower s f).stand = s.stand := rfl
@[simp] theorem setPower_time (f : PowerRt → PowerRt) : (setPower s f).time = s.time := rfl
@[simp] theorem setPower_cross (f : PowerRt → PowerRt) : (setPower s f).cross = s.cross := rfl
@[simp] theorem setPower_dumps (f : PowerRt → PowerRt) : (setPower s f).dumps = s.dumps := rfl
@[simp] theorem setPower_barriers (f : PowerRt → PowerRt) : (setPower s f).barriers = s.barriers := rfl
@[simp] theorem setPower_chain (f : PowerRt → PowerRt) : (setPower s f).chain = s.chain := rfl
@[simp] theorem setPower_links (f : PowerRt → PowerRt) : (setPower s f).links = s.links := rfl
@[simp] theorem setPower_far (f : PowerRt → PowerRt) : (setPower s f).far = s.far := rfl
@[simp] theorem setPower_groups (f : PowerRt → PowerRt) : (setPower s f).groups = s.groups := rfl
@[simp] theorem setPower_resends (f : PowerRt → PowerRt) : (setPower s f).resends = s.resends := rfl
@[simp] theorem setPower_keys (f : PowerRt → PowerRt) : (setPower s f).keys = s.keys := rfl
@[simp] theorem setPower_skidQ (f : PowerRt → PowerRt) : (setPower s f).skidQ = s.skidQ := rfl
@[simp] theorem setPower_skid (f : PowerRt → PowerRt) : (setPower s f).skid = s.skid := rfl
@[simp] theorem setPower_replicas (f : PowerRt → PowerRt) : (setPower s f).replicas = s.replicas := rfl
@[simp] theorem setPower_early (f : PowerRt → PowerRt) : (setPower s f).early = s.early := rfl
@[simp] theorem setPower_rot (f : PowerRt → PowerRt) : (setPower s f).rot = s.rot := rfl
@[simp] theorem setPower_tally (f : PowerRt → PowerRt) : (setPower s f).tally = s.tally := rfl
@[simp] theorem setPower_boot (f : PowerRt → PowerRt) : (setPower s f).boot = s.boot := rfl
@[simp] theorem setPower_mbox (f : PowerRt → PowerRt) : (setPower s f).mbox = s.mbox := rfl
@[simp] theorem setPower_jtag (f : PowerRt → PowerRt) : (setPower s f).jtag = s.jtag := rfl
@[simp] theorem setPower_kerfOps (f : PowerRt → PowerRt) : (setPower s f).kerfOps = s.kerfOps := rfl
@[simp] theorem setPower_pan (f : PowerRt → PowerRt) : (setPower s f).pan = s.pan := rfl
@[simp] theorem setPower_sent (f : PowerRt → PowerRt) : (setPower s f).sent = s.sent := rfl
@[simp] theorem setPower_txq (f : PowerRt → PowerRt) : (setPower s f).txq = s.txq := rfl
@[simp] theorem setPower_rx (f : PowerRt → PowerRt) : (setPower s f).rx = s.rx := rfl
@[simp] theorem setPower_free (f : PowerRt → PowerRt) : (setPower s f).free = s.free := rfl
@[simp] theorem setPower_readOut (f : PowerRt → PowerRt) : (setPower s f).readOut = s.readOut := rfl

/-! ### setRot -/

@[simp] theorem setRot_pending (f : RotRt → RotRt) : (setRot s f).pending = s.pending := rfl
@[simp] theorem setRot_regs (f : RotRt → RotRt) : (setRot s f).regs = s.regs := rfl
@[simp] theorem setRot_regs1 (f : RotRt → RotRt) : (setRot s f).regs1 = s.regs1 := rfl
@[simp] theorem setRot_regs2 (f : RotRt → RotRt) : (setRot s f).regs2 = s.regs2 := rfl
@[simp] theorem setRot_heldLow (f : RotRt → RotRt) : (setRot s f).heldLow = s.heldLow := rfl
@[simp] theorem setRot_posted (f : RotRt → RotRt) : (setRot s f).posted = s.posted := rfl
@[simp] theorem setRot_mem (f : RotRt → RotRt) : (setRot s f).mem = s.mem := rfl
@[simp] theorem setRot_hostMem (f : RotRt → RotRt) : (setRot s f).hostMem = s.hostMem := rfl
@[simp] theorem setRot_flash (f : RotRt → RotRt) : (setRot s f).flash = s.flash := rfl
@[simp] theorem setRot_msixTable (f : RotRt → RotRt) : (setRot s f).msixTable = s.msixTable := rfl
@[simp] theorem setRot_hbm (f : RotRt → RotRt) : (setRot s f).hbm = s.hbm := rfl
@[simp] theorem setRot_sems (f : RotRt → RotRt) : (setRot s f).sems = s.sems := rfl
@[simp] theorem setRot_rings (f : RotRt → RotRt) : (setRot s f).rings = s.rings := rfl
@[simp] theorem setRot_ops (f : RotRt → RotRt) : (setRot s f).ops = s.ops := rfl
@[simp] theorem setRot_opSeq (f : RotRt → RotRt) : (setRot s f).opSeq = s.opSeq := rfl
@[simp] theorem setRot_cells (f : RotRt → RotRt) : (setRot s f).cells = s.cells := rfl
@[simp] theorem setRot_sclFmt (f : RotRt → RotRt) : (setRot s f).sclFmt = s.sclFmt := rfl
@[simp] theorem setRot_sclAside (f : RotRt → RotRt) : (setRot s f).sclAside = s.sclAside := rfl
@[simp] theorem setRot_sclLate (f : RotRt → RotRt) : (setRot s f).sclLate = s.sclLate := rfl
@[simp] theorem setRot_sclFmtLate (f : RotRt → RotRt) : (setRot s f).sclFmtLate = s.sclFmtLate := rfl
@[simp] theorem setRot_sawRest (f : RotRt → RotRt) : (setRot s f).sawRest = s.sawRest := rfl
@[simp] theorem setRot_decisions (f : RotRt → RotRt) : (setRot s f).decisions = s.decisions := rfl
@[simp] theorem setRot_heldWrites (f : RotRt → RotRt) : (setRot s f).heldWrites = s.heldWrites := rfl
@[simp] theorem setRot_chip (f : RotRt → RotRt) : (setRot s f).chip = s.chip := rfl
@[simp] theorem setRot_stand (f : RotRt → RotRt) : (setRot s f).stand = s.stand := rfl
@[simp] theorem setRot_time (f : RotRt → RotRt) : (setRot s f).time = s.time := rfl
@[simp] theorem setRot_cross (f : RotRt → RotRt) : (setRot s f).cross = s.cross := rfl
@[simp] theorem setRot_dumps (f : RotRt → RotRt) : (setRot s f).dumps = s.dumps := rfl
@[simp] theorem setRot_barriers (f : RotRt → RotRt) : (setRot s f).barriers = s.barriers := rfl
@[simp] theorem setRot_chain (f : RotRt → RotRt) : (setRot s f).chain = s.chain := rfl
@[simp] theorem setRot_links (f : RotRt → RotRt) : (setRot s f).links = s.links := rfl
@[simp] theorem setRot_far (f : RotRt → RotRt) : (setRot s f).far = s.far := rfl
@[simp] theorem setRot_groups (f : RotRt → RotRt) : (setRot s f).groups = s.groups := rfl
@[simp] theorem setRot_resends (f : RotRt → RotRt) : (setRot s f).resends = s.resends := rfl
@[simp] theorem setRot_keys (f : RotRt → RotRt) : (setRot s f).keys = s.keys := rfl
@[simp] theorem setRot_skidQ (f : RotRt → RotRt) : (setRot s f).skidQ = s.skidQ := rfl
@[simp] theorem setRot_skid (f : RotRt → RotRt) : (setRot s f).skid = s.skid := rfl
@[simp] theorem setRot_replicas (f : RotRt → RotRt) : (setRot s f).replicas = s.replicas := rfl
@[simp] theorem setRot_early (f : RotRt → RotRt) : (setRot s f).early = s.early := rfl
@[simp] theorem setRot_tally (f : RotRt → RotRt) : (setRot s f).tally = s.tally := rfl
@[simp] theorem setRot_boot (f : RotRt → RotRt) : (setRot s f).boot = s.boot := rfl
@[simp] theorem setRot_mbox (f : RotRt → RotRt) : (setRot s f).mbox = s.mbox := rfl
@[simp] theorem setRot_power (f : RotRt → RotRt) : (setRot s f).power = s.power := rfl
@[simp] theorem setRot_jtag (f : RotRt → RotRt) : (setRot s f).jtag = s.jtag := rfl
@[simp] theorem setRot_kerfOps (f : RotRt → RotRt) : (setRot s f).kerfOps = s.kerfOps := rfl
@[simp] theorem setRot_pan (f : RotRt → RotRt) : (setRot s f).pan = s.pan := rfl
@[simp] theorem setRot_sent (f : RotRt → RotRt) : (setRot s f).sent = s.sent := rfl
@[simp] theorem setRot_txq (f : RotRt → RotRt) : (setRot s f).txq = s.txq := rfl
@[simp] theorem setRot_rx (f : RotRt → RotRt) : (setRot s f).rx = s.rx := rfl
@[simp] theorem setRot_free (f : RotRt → RotRt) : (setRot s f).free = s.free := rfl
@[simp] theorem setRot_readOut (f : RotRt → RotRt) : (setRot s f).readOut = s.readOut := rfl

/-! ### setGnss -/

@[simp] theorem setGnss_pending (g : Gnss) : (setGnss s g).pending = s.pending := rfl
@[simp] theorem setGnss_regs (g : Gnss) : (setGnss s g).regs = s.regs := rfl
@[simp] theorem setGnss_regs1 (g : Gnss) : (setGnss s g).regs1 = s.regs1 := rfl
@[simp] theorem setGnss_regs2 (g : Gnss) : (setGnss s g).regs2 = s.regs2 := rfl
@[simp] theorem setGnss_heldLow (g : Gnss) : (setGnss s g).heldLow = s.heldLow := rfl
@[simp] theorem setGnss_posted (g : Gnss) : (setGnss s g).posted = s.posted := rfl
@[simp] theorem setGnss_mem (g : Gnss) : (setGnss s g).mem = s.mem := rfl
@[simp] theorem setGnss_hostMem (g : Gnss) : (setGnss s g).hostMem = s.hostMem := rfl
@[simp] theorem setGnss_flash (g : Gnss) : (setGnss s g).flash = s.flash := rfl
@[simp] theorem setGnss_msixTable (g : Gnss) : (setGnss s g).msixTable = s.msixTable := rfl
@[simp] theorem setGnss_hbm (g : Gnss) : (setGnss s g).hbm = s.hbm := rfl
@[simp] theorem setGnss_sems (g : Gnss) : (setGnss s g).sems = s.sems := rfl
@[simp] theorem setGnss_rings (g : Gnss) : (setGnss s g).rings = s.rings := rfl
@[simp] theorem setGnss_ops (g : Gnss) : (setGnss s g).ops = s.ops := rfl
@[simp] theorem setGnss_opSeq (g : Gnss) : (setGnss s g).opSeq = s.opSeq := rfl
@[simp] theorem setGnss_cells (g : Gnss) : (setGnss s g).cells = s.cells := rfl
@[simp] theorem setGnss_sclFmt (g : Gnss) : (setGnss s g).sclFmt = s.sclFmt := rfl
@[simp] theorem setGnss_sclAside (g : Gnss) : (setGnss s g).sclAside = s.sclAside := rfl
@[simp] theorem setGnss_sclLate (g : Gnss) : (setGnss s g).sclLate = s.sclLate := rfl
@[simp] theorem setGnss_sclFmtLate (g : Gnss) : (setGnss s g).sclFmtLate = s.sclFmtLate := rfl
@[simp] theorem setGnss_sawRest (g : Gnss) : (setGnss s g).sawRest = s.sawRest := rfl
@[simp] theorem setGnss_decisions (g : Gnss) : (setGnss s g).decisions = s.decisions := rfl
@[simp] theorem setGnss_heldWrites (g : Gnss) : (setGnss s g).heldWrites = s.heldWrites := rfl
@[simp] theorem setGnss_chip (g : Gnss) : (setGnss s g).chip = s.chip := rfl
@[simp] theorem setGnss_stand (g : Gnss) : (setGnss s g).stand = s.stand := rfl
@[simp] theorem setGnss_cross (g : Gnss) : (setGnss s g).cross = s.cross := rfl
@[simp] theorem setGnss_dumps (g : Gnss) : (setGnss s g).dumps = s.dumps := rfl
@[simp] theorem setGnss_barriers (g : Gnss) : (setGnss s g).barriers = s.barriers := rfl
@[simp] theorem setGnss_chain (g : Gnss) : (setGnss s g).chain = s.chain := rfl
@[simp] theorem setGnss_links (g : Gnss) : (setGnss s g).links = s.links := rfl
@[simp] theorem setGnss_far (g : Gnss) : (setGnss s g).far = s.far := rfl
@[simp] theorem setGnss_groups (g : Gnss) : (setGnss s g).groups = s.groups := rfl
@[simp] theorem setGnss_resends (g : Gnss) : (setGnss s g).resends = s.resends := rfl
@[simp] theorem setGnss_keys (g : Gnss) : (setGnss s g).keys = s.keys := rfl
@[simp] theorem setGnss_skidQ (g : Gnss) : (setGnss s g).skidQ = s.skidQ := rfl
@[simp] theorem setGnss_skid (g : Gnss) : (setGnss s g).skid = s.skid := rfl
@[simp] theorem setGnss_replicas (g : Gnss) : (setGnss s g).replicas = s.replicas := rfl
@[simp] theorem setGnss_early (g : Gnss) : (setGnss s g).early = s.early := rfl
@[simp] theorem setGnss_rot (g : Gnss) : (setGnss s g).rot = s.rot := rfl
@[simp] theorem setGnss_tally (g : Gnss) : (setGnss s g).tally = s.tally := rfl
@[simp] theorem setGnss_boot (g : Gnss) : (setGnss s g).boot = s.boot := rfl
@[simp] theorem setGnss_mbox (g : Gnss) : (setGnss s g).mbox = s.mbox := rfl
@[simp] theorem setGnss_power (g : Gnss) : (setGnss s g).power = s.power := rfl
@[simp] theorem setGnss_jtag (g : Gnss) : (setGnss s g).jtag = s.jtag := rfl
@[simp] theorem setGnss_kerfOps (g : Gnss) : (setGnss s g).kerfOps = s.kerfOps := rfl
@[simp] theorem setGnss_pan (g : Gnss) : (setGnss s g).pan = s.pan := rfl
@[simp] theorem setGnss_sent (g : Gnss) : (setGnss s g).sent = s.sent := rfl
@[simp] theorem setGnss_txq (g : Gnss) : (setGnss s g).txq = s.txq := rfl
@[simp] theorem setGnss_rx (g : Gnss) : (setGnss s g).rx = s.rx := rfl
@[simp] theorem setGnss_free (g : Gnss) : (setGnss s g).free = s.free := rfl
@[simp] theorem setGnss_readOut (g : Gnss) : (setGnss s g).readOut = s.readOut := rfl

/-! ### takeFree -/

@[simp] theorem takeFree_pending : (takeFree s).pending = s.pending := rfl
@[simp] theorem takeFree_regs : (takeFree s).regs = s.regs := rfl
@[simp] theorem takeFree_regs1 : (takeFree s).regs1 = s.regs1 := rfl
@[simp] theorem takeFree_regs2 : (takeFree s).regs2 = s.regs2 := rfl
@[simp] theorem takeFree_heldLow : (takeFree s).heldLow = s.heldLow := rfl
@[simp] theorem takeFree_posted : (takeFree s).posted = s.posted := rfl
@[simp] theorem takeFree_mem : (takeFree s).mem = s.mem := rfl
@[simp] theorem takeFree_hostMem : (takeFree s).hostMem = s.hostMem := rfl
@[simp] theorem takeFree_flash : (takeFree s).flash = s.flash := rfl
@[simp] theorem takeFree_msixTable : (takeFree s).msixTable = s.msixTable := rfl
@[simp] theorem takeFree_hbm : (takeFree s).hbm = s.hbm := rfl
@[simp] theorem takeFree_sems : (takeFree s).sems = s.sems := rfl
@[simp] theorem takeFree_rings : (takeFree s).rings = s.rings := rfl
@[simp] theorem takeFree_ops : (takeFree s).ops = s.ops := rfl
@[simp] theorem takeFree_opSeq : (takeFree s).opSeq = s.opSeq := rfl
@[simp] theorem takeFree_cells : (takeFree s).cells = s.cells := rfl
@[simp] theorem takeFree_sclFmt : (takeFree s).sclFmt = s.sclFmt := rfl
@[simp] theorem takeFree_sclAside : (takeFree s).sclAside = s.sclAside := rfl
@[simp] theorem takeFree_sclLate : (takeFree s).sclLate = s.sclLate := rfl
@[simp] theorem takeFree_sclFmtLate : (takeFree s).sclFmtLate = s.sclFmtLate := rfl
@[simp] theorem takeFree_sawRest : (takeFree s).sawRest = s.sawRest := rfl
@[simp] theorem takeFree_decisions : (takeFree s).decisions = s.decisions := rfl
@[simp] theorem takeFree_heldWrites : (takeFree s).heldWrites = s.heldWrites := rfl
@[simp] theorem takeFree_chip : (takeFree s).chip = s.chip := rfl
@[simp] theorem takeFree_stand : (takeFree s).stand = s.stand := rfl
@[simp] theorem takeFree_time : (takeFree s).time = s.time := rfl
@[simp] theorem takeFree_cross : (takeFree s).cross = s.cross := rfl
@[simp] theorem takeFree_dumps : (takeFree s).dumps = s.dumps := rfl
@[simp] theorem takeFree_barriers : (takeFree s).barriers = s.barriers := rfl
@[simp] theorem takeFree_chain : (takeFree s).chain = s.chain := rfl
@[simp] theorem takeFree_links : (takeFree s).links = s.links := rfl
@[simp] theorem takeFree_far : (takeFree s).far = s.far := rfl
@[simp] theorem takeFree_groups : (takeFree s).groups = s.groups := rfl
@[simp] theorem takeFree_resends : (takeFree s).resends = s.resends := rfl
@[simp] theorem takeFree_keys : (takeFree s).keys = s.keys := rfl
@[simp] theorem takeFree_skidQ : (takeFree s).skidQ = s.skidQ := rfl
@[simp] theorem takeFree_skid : (takeFree s).skid = s.skid := rfl
@[simp] theorem takeFree_replicas : (takeFree s).replicas = s.replicas := rfl
@[simp] theorem takeFree_early : (takeFree s).early = s.early := rfl
@[simp] theorem takeFree_rot : (takeFree s).rot = s.rot := rfl
@[simp] theorem takeFree_tally : (takeFree s).tally = s.tally := rfl
@[simp] theorem takeFree_boot : (takeFree s).boot = s.boot := rfl
@[simp] theorem takeFree_mbox : (takeFree s).mbox = s.mbox := rfl
@[simp] theorem takeFree_power : (takeFree s).power = s.power := rfl
@[simp] theorem takeFree_jtag : (takeFree s).jtag = s.jtag := rfl
@[simp] theorem takeFree_kerfOps : (takeFree s).kerfOps = s.kerfOps := rfl
@[simp] theorem takeFree_pan : (takeFree s).pan = s.pan := rfl
@[simp] theorem takeFree_sent : (takeFree s).sent = s.sent := rfl
@[simp] theorem takeFree_txq : (takeFree s).txq = s.txq := rfl
@[simp] theorem takeFree_rx : (takeFree s).rx = s.rx := rfl
@[simp] theorem takeFree_readOut : (takeFree s).readOut = s.readOut := rfl

/-! ### setF -/

@[simp] theorem setF_pending (base : Nat) (f : Fld) (k v : Nat) : (setF s base f k v).pending = s.pending := by
  unfold setF; split <;> rfl
@[simp] theorem setF_heldLow (base : Nat) (f : Fld) (k v : Nat) : (setF s base f k v).heldLow = s.heldLow := by
  unfold setF; split <;> rfl
@[simp] theorem setF_posted (base : Nat) (f : Fld) (k v : Nat) : (setF s base f k v).posted = s.posted := by
  unfold setF; split <;> rfl
@[simp] theorem setF_mem (base : Nat) (f : Fld) (k v : Nat) : (setF s base f k v).mem = s.mem := by
  unfold setF; split <;> rfl
@[simp] theorem setF_hostMem (base : Nat) (f : Fld) (k v : Nat) : (setF s base f k v).hostMem = s.hostMem := by
  unfold setF; split <;> rfl
@[simp] theorem setF_flash (base : Nat) (f : Fld) (k v : Nat) : (setF s base f k v).flash = s.flash := by
  unfold setF; split <;> rfl
@[simp] theorem setF_msixTable (base : Nat) (f : Fld) (k v : Nat) : (setF s base f k v).msixTable = s.msixTable := by
  unfold setF; split <;> rfl
@[simp] theorem setF_hbm (base : Nat) (f : Fld) (k v : Nat) : (setF s base f k v).hbm = s.hbm := by
  unfold setF; split <;> rfl
@[simp] theorem setF_sems (base : Nat) (f : Fld) (k v : Nat) : (setF s base f k v).sems = s.sems := by
  unfold setF; split <;> rfl
@[simp] theorem setF_rings (base : Nat) (f : Fld) (k v : Nat) : (setF s base f k v).rings = s.rings := by
  unfold setF; split <;> rfl
@[simp] theorem setF_ops (base : Nat) (f : Fld) (k v : Nat) : (setF s base f k v).ops = s.ops := by
  unfold setF; split <;> rfl
@[simp] theorem setF_opSeq (base : Nat) (f : Fld) (k v : Nat) : (setF s base f k v).opSeq = s.opSeq := by
  unfold setF; split <;> rfl
@[simp] theorem setF_cells (base : Nat) (f : Fld) (k v : Nat) : (setF s base f k v).cells = s.cells := by
  unfold setF; split <;> rfl
@[simp] theorem setF_sclFmt (base : Nat) (f : Fld) (k v : Nat) : (setF s base f k v).sclFmt = s.sclFmt := by
  unfold setF; split <;> rfl
@[simp] theorem setF_sclAside (base : Nat) (f : Fld) (k v : Nat) : (setF s base f k v).sclAside = s.sclAside := by
  unfold setF; split <;> rfl
@[simp] theorem setF_sclLate (base : Nat) (f : Fld) (k v : Nat) : (setF s base f k v).sclLate = s.sclLate := by
  unfold setF; split <;> rfl
@[simp] theorem setF_sclFmtLate (base : Nat) (f : Fld) (k v : Nat) : (setF s base f k v).sclFmtLate = s.sclFmtLate := by
  unfold setF; split <;> rfl
@[simp] theorem setF_sawRest (base : Nat) (f : Fld) (k v : Nat) : (setF s base f k v).sawRest = s.sawRest := by
  unfold setF; split <;> rfl
@[simp] theorem setF_decisions (base : Nat) (f : Fld) (k v : Nat) : (setF s base f k v).decisions = s.decisions := by
  unfold setF; split <;> rfl
@[simp] theorem setF_heldWrites (base : Nat) (f : Fld) (k v : Nat) : (setF s base f k v).heldWrites = s.heldWrites := by
  unfold setF; split <;> rfl
@[simp] theorem setF_chip (base : Nat) (f : Fld) (k v : Nat) : (setF s base f k v).chip = s.chip := by
  unfold setF; split <;> rfl
@[simp] theorem setF_stand (base : Nat) (f : Fld) (k v : Nat) : (setF s base f k v).stand = s.stand := by
  unfold setF; split <;> rfl
@[simp] theorem setF_time (base : Nat) (f : Fld) (k v : Nat) : (setF s base f k v).time = s.time := by
  unfold setF; split <;> rfl
@[simp] theorem setF_cross (base : Nat) (f : Fld) (k v : Nat) : (setF s base f k v).cross = s.cross := by
  unfold setF; split <;> rfl
@[simp] theorem setF_dumps (base : Nat) (f : Fld) (k v : Nat) : (setF s base f k v).dumps = s.dumps := by
  unfold setF; split <;> rfl
@[simp] theorem setF_barriers (base : Nat) (f : Fld) (k v : Nat) : (setF s base f k v).barriers = s.barriers := by
  unfold setF; split <;> rfl
@[simp] theorem setF_chain (base : Nat) (f : Fld) (k v : Nat) : (setF s base f k v).chain = s.chain := by
  unfold setF; split <;> rfl
@[simp] theorem setF_links (base : Nat) (f : Fld) (k v : Nat) : (setF s base f k v).links = s.links := by
  unfold setF; split <;> rfl
@[simp] theorem setF_far (base : Nat) (f : Fld) (k v : Nat) : (setF s base f k v).far = s.far := by
  unfold setF; split <;> rfl
@[simp] theorem setF_groups (base : Nat) (f : Fld) (k v : Nat) : (setF s base f k v).groups = s.groups := by
  unfold setF; split <;> rfl
@[simp] theorem setF_resends (base : Nat) (f : Fld) (k v : Nat) : (setF s base f k v).resends = s.resends := by
  unfold setF; split <;> rfl
@[simp] theorem setF_keys (base : Nat) (f : Fld) (k v : Nat) : (setF s base f k v).keys = s.keys := by
  unfold setF; split <;> rfl
@[simp] theorem setF_skidQ (base : Nat) (f : Fld) (k v : Nat) : (setF s base f k v).skidQ = s.skidQ := by
  unfold setF; split <;> rfl
@[simp] theorem setF_skid (base : Nat) (f : Fld) (k v : Nat) : (setF s base f k v).skid = s.skid := by
  unfold setF; split <;> rfl
@[simp] theorem setF_replicas (base : Nat) (f : Fld) (k v : Nat) : (setF s base f k v).replicas = s.replicas := by
  unfold setF; split <;> rfl
@[simp] theorem setF_early (base : Nat) (f : Fld) (k v : Nat) : (setF s base f k v).early = s.early := by
  unfold setF; split <;> rfl
@[simp] theorem setF_rot (base : Nat) (f : Fld) (k v : Nat) : (setF s base f k v).rot = s.rot := by
  unfold setF; split <;> rfl
@[simp] theorem setF_tally (base : Nat) (f : Fld) (k v : Nat) : (setF s base f k v).tally = s.tally := by
  unfold setF; split <;> rfl
@[simp] theorem setF_boot (base : Nat) (f : Fld) (k v : Nat) : (setF s base f k v).boot = s.boot := by
  unfold setF; split <;> rfl
@[simp] theorem setF_mbox (base : Nat) (f : Fld) (k v : Nat) : (setF s base f k v).mbox = s.mbox := by
  unfold setF; split <;> rfl
@[simp] theorem setF_power (base : Nat) (f : Fld) (k v : Nat) : (setF s base f k v).power = s.power := by
  unfold setF; split <;> rfl
@[simp] theorem setF_jtag (base : Nat) (f : Fld) (k v : Nat) : (setF s base f k v).jtag = s.jtag := by
  unfold setF; split <;> rfl
@[simp] theorem setF_kerfOps (base : Nat) (f : Fld) (k v : Nat) : (setF s base f k v).kerfOps = s.kerfOps := by
  unfold setF; split <;> rfl
@[simp] theorem setF_pan (base : Nat) (f : Fld) (k v : Nat) : (setF s base f k v).pan = s.pan := by
  unfold setF; split <;> rfl
@[simp] theorem setF_sent (base : Nat) (f : Fld) (k v : Nat) : (setF s base f k v).sent = s.sent := by
  unfold setF; split <;> rfl
@[simp] theorem setF_txq (base : Nat) (f : Fld) (k v : Nat) : (setF s base f k v).txq = s.txq := by
  unfold setF; split <;> rfl
@[simp] theorem setF_rx (base : Nat) (f : Fld) (k v : Nat) : (setF s base f k v).rx = s.rx := by
  unfold setF; split <;> rfl
@[simp] theorem setF_free (base : Nat) (f : Fld) (k v : Nat) : (setF s base f k v).free = s.free := by
  unfold setF; split <;> rfl
@[simp] theorem setF_readOut (base : Nat) (f : Fld) (k v : Nat) : (setF s base f k v).readOut = s.readOut := by
  unfold setF; split <;> rfl

/-! ### countF -/

@[simp] theorem countF_pending (base : Nat) (f : Fld) (k n : Nat) : (countF s base f k n).pending = s.pending := setF_pending s base f k _
@[simp] theorem countF_heldLow (base : Nat) (f : Fld) (k n : Nat) : (countF s base f k n).heldLow = s.heldLow := setF_heldLow s base f k _
@[simp] theorem countF_posted (base : Nat) (f : Fld) (k n : Nat) : (countF s base f k n).posted = s.posted := setF_posted s base f k _
@[simp] theorem countF_mem (base : Nat) (f : Fld) (k n : Nat) : (countF s base f k n).mem = s.mem := setF_mem s base f k _
@[simp] theorem countF_hostMem (base : Nat) (f : Fld) (k n : Nat) : (countF s base f k n).hostMem = s.hostMem := setF_hostMem s base f k _
@[simp] theorem countF_flash (base : Nat) (f : Fld) (k n : Nat) : (countF s base f k n).flash = s.flash := setF_flash s base f k _
@[simp] theorem countF_msixTable (base : Nat) (f : Fld) (k n : Nat) : (countF s base f k n).msixTable = s.msixTable := setF_msixTable s base f k _
@[simp] theorem countF_hbm (base : Nat) (f : Fld) (k n : Nat) : (countF s base f k n).hbm = s.hbm := setF_hbm s base f k _
@[simp] theorem countF_sems (base : Nat) (f : Fld) (k n : Nat) : (countF s base f k n).sems = s.sems := setF_sems s base f k _
@[simp] theorem countF_rings (base : Nat) (f : Fld) (k n : Nat) : (countF s base f k n).rings = s.rings := setF_rings s base f k _
@[simp] theorem countF_ops (base : Nat) (f : Fld) (k n : Nat) : (countF s base f k n).ops = s.ops := setF_ops s base f k _
@[simp] theorem countF_opSeq (base : Nat) (f : Fld) (k n : Nat) : (countF s base f k n).opSeq = s.opSeq := setF_opSeq s base f k _
@[simp] theorem countF_cells (base : Nat) (f : Fld) (k n : Nat) : (countF s base f k n).cells = s.cells := setF_cells s base f k _
@[simp] theorem countF_sclFmt (base : Nat) (f : Fld) (k n : Nat) : (countF s base f k n).sclFmt = s.sclFmt := setF_sclFmt s base f k _
@[simp] theorem countF_sclAside (base : Nat) (f : Fld) (k n : Nat) : (countF s base f k n).sclAside = s.sclAside := setF_sclAside s base f k _
@[simp] theorem countF_sclLate (base : Nat) (f : Fld) (k n : Nat) : (countF s base f k n).sclLate = s.sclLate := setF_sclLate s base f k _
@[simp] theorem countF_sclFmtLate (base : Nat) (f : Fld) (k n : Nat) : (countF s base f k n).sclFmtLate = s.sclFmtLate := setF_sclFmtLate s base f k _
@[simp] theorem countF_sawRest (base : Nat) (f : Fld) (k n : Nat) : (countF s base f k n).sawRest = s.sawRest := setF_sawRest s base f k _
@[simp] theorem countF_decisions (base : Nat) (f : Fld) (k n : Nat) : (countF s base f k n).decisions = s.decisions := setF_decisions s base f k _
@[simp] theorem countF_heldWrites (base : Nat) (f : Fld) (k n : Nat) : (countF s base f k n).heldWrites = s.heldWrites := setF_heldWrites s base f k _
@[simp] theorem countF_chip (base : Nat) (f : Fld) (k n : Nat) : (countF s base f k n).chip = s.chip := setF_chip s base f k _
@[simp] theorem countF_stand (base : Nat) (f : Fld) (k n : Nat) : (countF s base f k n).stand = s.stand := setF_stand s base f k _
@[simp] theorem countF_time (base : Nat) (f : Fld) (k n : Nat) : (countF s base f k n).time = s.time := setF_time s base f k _
@[simp] theorem countF_cross (base : Nat) (f : Fld) (k n : Nat) : (countF s base f k n).cross = s.cross := setF_cross s base f k _
@[simp] theorem countF_dumps (base : Nat) (f : Fld) (k n : Nat) : (countF s base f k n).dumps = s.dumps := setF_dumps s base f k _
@[simp] theorem countF_barriers (base : Nat) (f : Fld) (k n : Nat) : (countF s base f k n).barriers = s.barriers := setF_barriers s base f k _
@[simp] theorem countF_chain (base : Nat) (f : Fld) (k n : Nat) : (countF s base f k n).chain = s.chain := setF_chain s base f k _
@[simp] theorem countF_links (base : Nat) (f : Fld) (k n : Nat) : (countF s base f k n).links = s.links := setF_links s base f k _
@[simp] theorem countF_far (base : Nat) (f : Fld) (k n : Nat) : (countF s base f k n).far = s.far := setF_far s base f k _
@[simp] theorem countF_groups (base : Nat) (f : Fld) (k n : Nat) : (countF s base f k n).groups = s.groups := setF_groups s base f k _
@[simp] theorem countF_resends (base : Nat) (f : Fld) (k n : Nat) : (countF s base f k n).resends = s.resends := setF_resends s base f k _
@[simp] theorem countF_keys (base : Nat) (f : Fld) (k n : Nat) : (countF s base f k n).keys = s.keys := setF_keys s base f k _
@[simp] theorem countF_skidQ (base : Nat) (f : Fld) (k n : Nat) : (countF s base f k n).skidQ = s.skidQ := setF_skidQ s base f k _
@[simp] theorem countF_skid (base : Nat) (f : Fld) (k n : Nat) : (countF s base f k n).skid = s.skid := setF_skid s base f k _
@[simp] theorem countF_replicas (base : Nat) (f : Fld) (k n : Nat) : (countF s base f k n).replicas = s.replicas := setF_replicas s base f k _
@[simp] theorem countF_early (base : Nat) (f : Fld) (k n : Nat) : (countF s base f k n).early = s.early := setF_early s base f k _
@[simp] theorem countF_rot (base : Nat) (f : Fld) (k n : Nat) : (countF s base f k n).rot = s.rot := setF_rot s base f k _
@[simp] theorem countF_tally (base : Nat) (f : Fld) (k n : Nat) : (countF s base f k n).tally = s.tally := setF_tally s base f k _
@[simp] theorem countF_boot (base : Nat) (f : Fld) (k n : Nat) : (countF s base f k n).boot = s.boot := setF_boot s base f k _
@[simp] theorem countF_mbox (base : Nat) (f : Fld) (k n : Nat) : (countF s base f k n).mbox = s.mbox := setF_mbox s base f k _
@[simp] theorem countF_power (base : Nat) (f : Fld) (k n : Nat) : (countF s base f k n).power = s.power := setF_power s base f k _
@[simp] theorem countF_jtag (base : Nat) (f : Fld) (k n : Nat) : (countF s base f k n).jtag = s.jtag := setF_jtag s base f k _
@[simp] theorem countF_kerfOps (base : Nat) (f : Fld) (k n : Nat) : (countF s base f k n).kerfOps = s.kerfOps := setF_kerfOps s base f k _
@[simp] theorem countF_pan (base : Nat) (f : Fld) (k n : Nat) : (countF s base f k n).pan = s.pan := setF_pan s base f k _
@[simp] theorem countF_sent (base : Nat) (f : Fld) (k n : Nat) : (countF s base f k n).sent = s.sent := setF_sent s base f k _
@[simp] theorem countF_txq (base : Nat) (f : Fld) (k n : Nat) : (countF s base f k n).txq = s.txq := setF_txq s base f k _
@[simp] theorem countF_rx (base : Nat) (f : Fld) (k n : Nat) : (countF s base f k n).rx = s.rx := setF_rx s base f k _
@[simp] theorem countF_free (base : Nat) (f : Fld) (k n : Nat) : (countF s base f k n).free = s.free := setF_free s base f k _
@[simp] theorem countF_readOut (base : Nat) (f : Fld) (k n : Nat) : (countF s base f k n).readOut = s.readOut := setF_readOut s base f k _

end Untouched

end Sys2Proof.Machine
end

