-- ==== Sys2Proof/Laws/Ops.lean ====
section
/-!
SUPPORT. Laws of the shared operations: finding a context or an operation after a change, and what the running operation
of a command does.
-/

namespace Sys2Proof.Machine

/-- A search that a change of the elements does not disturb. -/
theorem find?_map_of {α : Type} (p : α → Bool) (g : α → α) (l : List α) (h : ∀ x, p (g x) = p x) :
    (l.map g).find? p = (l.find? p).map g := by
  induction l with
  | nil => rfl
  | cons a r ih => simp only [List.map_cons, List.find?_cons, h, ih]; cases p a <;> rfl

/-! ### Contexts -/

/-- The context that was changed. -/
theorem findCtx_updCtx_same (s : State) (c : Nat) (f : Ctx → Ctx) {x : Ctx} (h : findCtx s c = some x)
    (hf : ∀ y, (f y).num = y.num) : findCtx (updCtx s c f) c = some (f x) := by
  have hx : x.num = c := by simpa using List.find?_some h
  have e := find?_map_of (fun y => y.num == c) (fun y => if y.num == c then f y else y) s.rings.ctxs
    (fun y => by split <;> simp [hf])
  unfold findCtx at h ⊢
  unfold updCtx
  dsimp only
  rw [e, h]
  simp [hx]

/-- Every other context stays. -/
theorem findCtx_updCtx_other (s : State) {c k : Nat} (f : Ctx → Ctx) (hk : k ≠ c) (hf : ∀ y, (f y).num = y.num) :
    findCtx (updCtx s c f) k = findCtx s k := by
  have e := find?_map_of (fun y => y.num == k) (fun y => if y.num == c then f y else y) s.rings.ctxs
    (fun y => by split <;> simp [hf])
  unfold findCtx updCtx
  dsimp only
  rw [e]
  cases h : s.rings.ctxs.find? (fun y => y.num == k) with
  | none => rfl
  | some x =>
    have hx : x.num = k := by simpa using List.find?_some h
    simp [hx, hk]

/-- Use marked: the context that is used. -/
theorem findCtx_touchCtx_same (s : State) (c : Nat) {x : Ctx} (h : findCtx s c = some x) :
    findCtx (touchCtx s c) c = some { x with lastUse := s.rings.useClock + 1 } :=
  findCtx_updCtx_same s c _ h (fun _ => rfl)

/-- Use marked: every other context. -/
theorem findCtx_touchCtx_other (s : State) {c k : Nat} (hk : k ≠ c) : findCtx (touchCtx s c) k = findCtx s k :=
  findCtx_updCtx_other s _ hk (fun _ => rfl)

/-! ### Operations -/

/-- The operation that was changed. -/
theorem findOp_updOp_same (s : State) (ctx idx : Nat) (f : Op → Op) {o : Op} (h : findOp s ctx idx = some o)
    (hf : ∀ p, (f p).ctx = p.ctx ∧ (f p).idx = p.idx) : findOp (updOp s ctx idx f) ctx idx = some (f o) := by
  have ho : isOp ctx idx o = true := List.find?_some h
  have e := find?_map_of (isOp ctx idx) (fun p => if isOp ctx idx p then f p else p) s.ops
    (fun p => by split <;> simp [isOp, hf])
  unfold findOp at h ⊢
  unfold updOp
  dsimp only
  rw [e, h]
  simp [ho]

/-- Every other operation stays. -/
theorem findOp_updOp_other (s : State) {ctx idx c i : Nat} (f : Op → Op) (hk : ¬(c = ctx ∧ i = idx))
    (hf : ∀ p, (f p).ctx = p.ctx ∧ (f p).idx = p.idx) : findOp (updOp s ctx idx f) c i = findOp s c i := by
  have e := find?_map_of (isOp c i) (fun p => if isOp ctx idx p then f p else p) s.ops
    (fun p => by split <;> simp [isOp, hf])
  unfold findOp updOp
  dsimp only
  rw [e]
  cases h : s.ops.find? (isOp c i) with
  | none => rfl
  | some o =>
    have ho : isOp c i o = true := List.find?_some h
    have hn : isOp ctx idx o = false := by
      simp only [isOp, Bool.and_eq_true, beq_iff_eq, Bool.and_eq_false_iff, beq_eq_false_iff_ne] at ho ⊢
      by_cases h1 : o.ctx = ctx
      · exact Or.inr (fun h2 => hk ⟨ho.1.symm.trans h1, ho.2.symm.trans h2⟩)
      · exact Or.inl h1
    simp [hn]

/-- The operation that has ended. -/
theorem findOp_endOp_same (s : State) (ctx idx : Nat) (e : OpEnd) {o : Op} (h : findOp s ctx idx = some o) :
    findOp (endOp s ctx idx e) ctx idx = some { o with ended := some e } :=
  findOp_updOp_same s ctx idx _ h (fun _ => ⟨rfl, rfl⟩)

/-- A running operation is found, runs, has its opcode, and waits for no granule copy. -/
theorem runningOp_some {s : State} {ctx idx opcode : Nat} {o : Op} (h : runningOp s ctx idx opcode = some o) :
    findOp s ctx idx = some o ∧ opRuns o = true ∧ dOpcode o.d = opcode ∧ opWaits s o = false := by
  unfold runningOp at h
  cases h1 : findOp s ctx idx with
  | none => rw [h1] at h; cases h
  | some p =>
    rw [h1] at h
    dsimp only at h
    split at h
    · next hp =>
      cases h
      simpa [and_assoc] using hp
    · cases h

/-- What a command does to the running operation that it names. -/
theorem onOp_running {s : State} {ctx idx opcode : Nat} {o : Op} (f : Op → State)
    (h : runningOp s ctx idx opcode = some o) : onOp s ctx idx opcode f = f o := by
  unfold onOp
  rw [h]

/-- A command for an operation that does not run changes nothing. -/
theorem onOp_none {s : State} {ctx idx opcode : Nat} (f : Op → State) (h : runningOp s ctx idx opcode = none) :
    onOp s ctx idx opcode f = s := by
  unfold onOp
  rw [h]

end Sys2Proof.Machine
end

