-- ==== Sys2Proof/Laws/RegWrite.lean ====
section
/-!
SUPPORT. What a row that is a write of one register comes to: the values of its word reach their fields at once.
-/

namespace Sys2Proof.Machine

/-- A 4-byte host write to a register offset of a block that takes writes reaches the word. -/
theorem hostWrite_word {rng : Bool} {s : State} {b : Blk} {r data : Nat} (h : s.takesWrites b = true)
    (hx : devBase ≤ blkBase b + r) (hy : blkBase b + r - devBase < 2 ^ 32) (hb : blkOf (blkBase b + r) = some (b, r))
    (hr : r % 4 = 0) (ho : ownBusy s b r = false) :
    hostWrite rng s 0 (blkBase b + r - devBase) 4 data = writeWord rng b s (r, data % 2 ^ 32) := by
  obtain ⟨⟨hh, hd⟩, he⟩ : (hostLive s = true ∧ dieAwake s b = true) ∧ s.posted = [] := by
    simpa [State.takesWrites, List.isEmpty_iff] using h
  have hb' : blkOf (devBase + (blkBase b + r - devBase)) = some (b, r) := by rw [Nat.add_sub_cancel' hx, hb]
  have hbz : blkBusy s b = false := by simp [blkBusy, he]
  have hn : ¬ 2 ^ 32 ≤ blkBase b + r - devBase := by omega
  unfold hostWrite bar0Write
  rw [hh, if_neg (by simp), if_pos rfl, if_neg hn, hb']
  simp [blkWrite, hd, accessOk, hr, hbz, accessWords, ho]

/-- A row whose word is posted: its fields that are not held back take their values at once, the others when the word is
taken, and a write that is taken then disturbs work. -/
theorem rowWrite_posted {rng : Bool} {s : State} {b : Blk} {r data : Nat} (h : s.takesWrites b = true)
    (hx : devBase ≤ blkBase b + r) (hy : blkBase b + r - devBase < 2 ^ 32) (hb : blkOf (blkBase b + r) = some (b, r))
    (hr : r % 4 = 0) (h4 : r < 0x4000) (hl : (isLow b r || isHigh b r || (wideWords b).contains r) = false)
    (hp : isPosted b r = true) (ho : ownBusy s b r = false) (hxs : (wordVals b r (data % 2 ^ 32)).isEmpty = false)
    (hq0 : (putVals rng s b ((wordVals b r (data % 2 ^ 32)).filter (fun x => !heldBack x))).posted = []) :
    rowWrite rng s b r data =
      if writeTaken (putVals rng s b ((wordVals b r (data % 2 ^ 32)).filter (fun x => !heldBack x))) b
          (wordVals b r (data % 2 ^ 32)) then
        disturbWrite (putVals rng (putVals rng s b ((wordVals b r (data % 2 ^ 32)).filter (fun x => !heldBack x))) b
          ((wordVals b r (data % 2 ^ 32)).filter heldBack)) b (wordVals b r (data % 2 ^ 32))
      else putVals rng (putVals rng s b ((wordVals b r (data % 2 ^ 32)).filter (fun x => !heldBack x))) b
        ((wordVals b r (data % 2 ^ 32)).filter heldBack) := by
  have hm : r % 0x4000 = r := Nat.mod_eq_of_lt h4
  have hq : r / 0x4000 = 0 := Nat.div_eq_of_lt h4
  have hi : isHigh b r = false := by revert hl; cases isHigh b r <;> simp
  unfold rowWrite
  rw [hostWrite_word h hx hy hb hr ho]
  generalize hs1 : putVals rng s b ((wordVals b r (data % 2 ^ 32)).filter (fun x => !heldBack x)) = s1 at hq0 ⊢
  have hs : ({ s1 with posted := [] } : State) = s1 := by cases s1; simp_all
  have hw : writeWord rng b s (r, data % 2 ^ 32) = { s1 with posted := [⟨blkBase b + r, data % 2 ^ 32⟩] } := by
    simp only [writeWord, hm, hq, hxs, hl, hp, if_true, hs1, hq0]; rfl
  rw [hw]
  dsimp only [List.foldl]
  rw [hs]
  simp only [takeOne, hb, hm, hq, hi, if_true]
  rfl

/-- Values of read-only fields reach nothing. -/
theorem putVals_ro {rng : Bool} {s : State} {b : Blk} {xs : List FldVal} (h : ∀ x ∈ xs, x.f.acc = .ro) :
    putVals rng s b xs = s := by
  have h1 : xs.filter (valTaken s b) = [] := List.filter_eq_nil_iff.mpr (fun x hx => by simp [valTaken, h x hx])
  have h2 : xs.filter (fun x => x.f.acc != .ro && !fieldTakes s b x) = [] :=
    List.filter_eq_nil_iff.mpr (fun x hx => by simp [h x hx])
  simp [putVals, h1, h2]

/-- Values of read-only fields count for nothing beside others. -/
theorem putVals_heldBack {rng : Bool} {s : State} {b : Blk} {xs : List FldVal}
    (h : ∀ x ∈ xs, heldBack x = true ∨ x.f.acc = .ro) : putVals rng s b (xs.filter heldBack) = putVals rng s b xs := by
  have h1 : (xs.filter heldBack).filter (valTaken s b) = xs.filter (valTaken s b) := by
    rw [List.filter_filter]
    exact List.filter_congr (fun x hx => by
      rcases h x hx with h | h <;> simp [valTaken, h])
  have h2 : (xs.filter heldBack).filter (fun x => x.f.acc != .ro && !fieldTakes s b x) =
      xs.filter (fun x => x.f.acc != .ro && !fieldTakes s b x) := by
    rw [List.filter_filter]
    exact List.filter_congr (fun x hx => by
      rcases h x hx with h | h <;> simp [h])
  simp only [putVals, h1, h2]

/-- A row whose word is posted and whose fields that are not read-only are all held back: its values reach their fields
with the word. -/
theorem rowWrite_heldBack {rng : Bool} {s : State} {b : Blk} {r data : Nat} (h : s.takesWrites b = true)
    (hx : devBase ≤ blkBase b + r) (hy : blkBase b + r - devBase < 2 ^ 32) (hb : blkOf (blkBase b + r) = some (b, r))
    (hr : r % 4 = 0) (h4 : r < 0x4000) (hl : (isLow b r || isHigh b r || (wideWords b).contains r) = false)
    (hp : isPosted b r = true) (ho : ownBusy s b r = false) (hxs : (wordVals b r (data % 2 ^ 32)).isEmpty = false)
    (hall : ∀ x ∈ wordVals b r (data % 2 ^ 32), heldBack x = true ∨ x.f.acc = .ro) :
    rowWrite rng s b r data = applyVals rng s b (wordVals b r (data % 2 ^ 32)) := by
  have he : s.posted = [] := by simp [State.takesWrites, List.isEmpty_iff] at h; exact h.2
  have h0 : putVals rng s b ((wordVals b r (data % 2 ^ 32)).filter (fun x => !heldBack x)) = s :=
    putVals_ro (fun x hx => by
      rw [List.mem_filter] at hx
      rcases hall x hx.1 with h | h
      · simp [h] at hx
      · exact h)
  rw [rowWrite_posted h hx hy hb hr h4 hl hp ho hxs (by rw [h0]; exact he), h0, putVals_heldBack hall]
  rfl

/-- A row whose word is not posted: its values reach their fields. -/
theorem rowWrite_plain {rng : Bool} {s : State} {b : Blk} {r data : Nat} (h : s.takesWrites b = true)
    (hx : devBase ≤ blkBase b + r) (hy : blkBase b + r - devBase < 2 ^ 32) (hb : blkOf (blkBase b + r) = some (b, r))
    (hr : r % 4 = 0) (h4 : r < 0x4000) (hl : (isLow b r || isHigh b r || (wideWords b).contains r) = false)
    (hp : isPosted b r = false) (ho : ownBusy s b r = false) (hxs : (wordVals b r (data % 2 ^ 32)).isEmpty = false)
    (hk : (applyVals rng s b (wordVals b r (data % 2 ^ 32))).posted = []) :
    rowWrite rng s b r data = applyVals rng s b (wordVals b r (data % 2 ^ 32)) := by
  have hm : r % 0x4000 = r := Nat.mod_eq_of_lt h4
  have hq : r / 0x4000 = 0 := Nat.div_eq_of_lt h4
  have hw : writeWord rng b s (r, data % 2 ^ 32) = applyVals rng s b (wordVals b r (data % 2 ^ 32)) := by
    simp only [writeWord, hm, hq, hxs, hl, hp]; rfl
  unfold rowWrite
  rw [hostWrite_word h hx hy hb hr ho, hw]
  generalize applyVals rng s b (wordVals b r (data % 2 ^ 32)) = t at hk
  cases t
  simp_all

end Sys2Proof.Machine
end

