-- ==== Sys2Proof/Laws/Sha.lean ====
section
/-!
SUPPORT. The constants of SHA-512 against their definition: the fractional parts of roots of the first primes.
-/

namespace Sys2Proof.Machine

/-- Whether `n` has no divisor from 2 up to its own square root. -/
def primeUpTo (n : Nat) : Bool := decide (2 ≤ n) && (List.range 21).all (fun k => k < 2 || n ≤ k || n % k != 0)

/-- The primes below 410, of which there are eighty. -/
def shaPrimes : List Nat := (List.range 410).filter primeUpTo

/-- Whether `k` is the first 64 fractional bits of the `e`-th root of `p`, whose whole part is some number up to 20. -/
def rootDigits (e p k : Nat) : Bool :=
  (List.range 21).any (fun w =>
    let x := w * 2 ^ 64 + k
    decide (x ^ e ≤ p * 2 ^ (64 * e)) && decide (p * 2 ^ (64 * e) < (x + 1) ^ e))

/-- There are eighty primes to take roots of, and as many round constants. -/
theorem shaPrimes_length : shaPrimes.length = 80 ∧ shaConstants.length = 80 := by decide

/-- Every round constant is the fractional part of the cube root of its prime. -/
theorem shaRoots_cube : (shaPrimes.zip shaConstants).all (fun p => rootDigits 3 p.1 p.2) = true := by decide +kernel

/-- The initial chaining words are the fractional parts of the square roots of the first eight primes. -/
theorem shaStart_square :
    ((shaPrimes.take 8).zip [shaInit.a, shaInit.b, shaInit.c, shaInit.d, shaInit.e, shaInit.f, shaInit.g, shaInit.h]).all
      (fun p => rootDigits 2 p.1 p.2) = true := by decide +kernel

end Sys2Proof.Machine
end

