-- ==== Sys2Proof/WellFormed.lean ====
section
/-!
DEFINITION. Well-formed commands: every operand within the range that the spec gives it.
-/

namespace Sys2Proof

open Sys2Proof.Machine

/-- Whether upsets of product tiles name runs 1 to 3 and masks of an FP32 result (R124, R189). -/
def upsetsOk (us : List TileUpset) : Bool :=
  us.all (fun u => decide (1 ≤ u.run ∧ u.run ≤ 3) && u.flips.all (fun f => decide (f.2 < 2 ^ 32)))

/-- Whether the operands of a command lie in their ranges: contexts (R33), submission indices (R41), Cells and links (R9,
R13), Far sessions (R395), key slots (R427), Chain frames (R403), frames of 544 bytes (R370), registers (R515). -/
def wellFormed : Instr → Bool
  | .sqDoorbell ctx tail _ => decide (ctx < 4352 ∧ tail < 2 ^ 32)
  | .contextLoadDone ctx => decide (ctx < 4352)
  | .contextSpillDone ctx => decide (ctx < 4352)
  | .overflowEntryLoad => true
  | .cqDoorbell ctx head _ => decide (ctx < 4352 ∧ head < 2 ^ 32)
  | .descriptorFetch ctx => decide (ctx < 4352)
  | .descriptorBegin ctx => decide (ctx < 4352)
  | .descriptorEnd ctx idx _ => decide (ctx < 4352 ∧ idx < 2 ^ 32)
  | .msixGapExpire vector => decide (vector < 2048)
  | .ctxResume ctx => decide (ctx < 4352)
  | .ctxResumeAtHead ctx => decide (ctx < 4352)
  | .ctxReset ctx => decide (ctx < 4352)
  | .ringDisable => true
  | .ringDrainEnd => true
  | .nop ctx idx => decide (ctx < 4352 ∧ idx < 2 ^ 32)
  | .cxlMemRead off len _ => decide (off < 2 ^ 40 ∧ (1 ≤ len ∧ len ≤ 64))
  | .cxlMemWrite off data => decide (off < 2 ^ 40 ∧ (1 ≤ data.length ∧ data.length ≤ 64))
  | .retirementCopyDone granule => decide (granule < 2 ^ 30)
  | .tickPathFail => true
  | .jobSeedHighWrite data => decide (data < 2 ^ 32)
  | .matmul ctx idx => decide (ctx < 4352 ∧ idx < 2 ^ 32)
  | .matmulPair ctx idx => decide (ctx < 4352 ∧ idx < 2 ^ 32)
  | .tileFillBegin cell => decide (cell < 128)
  | .tileFillEnd cell _ => decide (cell < 128)
  | .tileSumCheckDone cell => decide (cell < 128)
  | .tileDupCompareDone cell => decide (cell < 128)
  | .tileDrainEnd cell bank => decide (cell < 128 ∧ bank < 2)
  | .level2RunEnd ctx idx _ => decide (ctx < 4352 ∧ idx < 2 ^ 32)
  | .operationPark ctx idx progress => decide (ctx < 4352 ∧ idx < 2 ^ 32 ∧ progress < 2 ^ 64)
  | .operationResume ctx idx => decide (ctx < 4352 ∧ idx < 2 ^ 32)
  | .scalerEnable data => decide (data < 2 ^ 32)
  | .chain ctx idx => decide (ctx < 4352 ∧ idx < 2 ^ 32)
  | .reduceTree ctx idx => decide (ctx < 4352 ∧ idx < 2 ^ 32)
  | .sumOpen ctx idx => decide (ctx < 4352 ∧ idx < 2 ^ 32)
  | .contribute ctx idx => decide (ctx < 4352 ∧ idx < 2 ^ 32)
  | .vectorUnitDone cell ctx idx => decide (cell < 128 ∧ ctx < 4352 ∧ idx < 2 ^ 32)
  | .omaContribution group index line data src ctx idx =>
    decide (group < 65536 ∧ index < 65536 ∧ line < 2 ^ 32 ∧ data.length = 64 ∧ src < 65536 ∧ ctx < 4352 ∧ idx < 2 ^ 32)
  | .omaResendTimer group index line => decide (group < 65536 ∧ index < 65536 ∧ line < 2 ^ 32)
  | .omaOverdue group line => decide (group < 65536 ∧ line < 2 ^ 32)
  | .statFold ctx idx upsets => decide (ctx < 4352 ∧ idx < 2 ^ 32) && upsetsOk upsets
  | .cholesky ctx idx upsets _ => decide (ctx < 4352 ∧ idx < 2 ^ 32) && upsetsOk upsets
  | .ldlt ctx idx upsets _ => decide (ctx < 4352 ∧ idx < 2 ^ 32) && upsetsOk upsets
  | .trsolve ctx idx upsets => decide (ctx < 4352 ∧ idx < 2 ^ 32) && upsetsOk upsets
  | .eig ctx idx upsets _ => decide (ctx < 4352 ∧ idx < 2 ^ 32) && upsetsOk upsets
  | .invroot ctx idx upsets _ => decide (ctx < 4352 ∧ idx < 2 ^ 32) && upsetsOk upsets
  | .truingWaitProceed ctx idx upsets _ => decide (ctx < 4352 ∧ idx < 2 ^ 32) && upsetsOk upsets
  | .invrootDeadline ctx idx iters => decide (ctx < 4352 ∧ idx < 2 ^ 32 ∧ iters < 65536)
  | .envStep ctx idx => decide (ctx < 4352 ∧ idx < 2 ^ 32)
  | .invDyn ctx idx => decide (ctx < 4352 ∧ idx < 2 ^ 32)
  | .mass ctx idx => decide (ctx < 4352 ∧ idx < 2 ^ 32)
  | .envLoop ctx idx => decide (ctx < 4352 ∧ idx < 2 ^ 32)
  | .jbBatchDone cell ctx idx => decide (cell < 128 ∧ ctx < 4352 ∧ idx < 2 ^ 32)
  | .envLoopStepBegin ctx idx => decide (ctx < 4352 ∧ idx < 2 ^ 32)
  | .envLoopStepEnd ctx idx => decide (ctx < 4352 ∧ idx < 2 ^ 32)
  | .copy ctx idx => decide (ctx < 4352 ∧ idx < 2 ^ 32)
  | .prefetch ctx idx => decide (ctx < 4352 ∧ idx < 2 ^ 32)
  | .evict ctx idx => decide (ctx < 4352 ∧ idx < 2 ^ 32)
  | .yarderTransferDone ctx idx _ => decide (ctx < 4352 ∧ idx < 2 ^ 32)
  | .update ctx idx upsets => decide (ctx < 4352 ∧ idx < 2 ^ 32) && upsetsOk upsets
  | .skidGrant => true
  | .updateSkidApply ctx idx => decide (ctx < 4352 ∧ idx < 2 ^ 32)
  | .replicaCmp ctx idx => decide (ctx < 4352 ∧ idx < 2 ^ 32)
  | .replicaDigestReceive tag chip value => decide (tag < 65536 ∧ chip < 65536 ∧ value.length = 64)
  | .exportOp ctx idx => decide (ctx < 4352 ∧ idx < 2 ^ 32)
  | .importOp ctx idx => decide (ctx < 4352 ∧ idx < 2 ^ 32)
  | .compress ctx idx upsets => decide (ctx < 4352 ∧ idx < 2 ^ 32) && upsetsOk upsets
  | .decompress ctx idx upsets => decide (ctx < 4352 ∧ idx < 2 ^ 32) && upsetsOk upsets
  | .panelDecodeDone cell ctx idx stall => decide (cell < 128 ∧ ctx < 4352 ∧ idx < 2 ^ 32 ∧ stall < 2 ^ 32)
  | .axisEnable => true
  | .pannierEnable channel data => decide (channel < 16 ∧ data < 2 ^ 32)
  | .pannierDisable channel data => decide (channel < 16 ∧ data < 2 ^ 32)
  | .pannierSpillBegin channel => decide (channel < 16)
  | .pannierSpillDone channel => decide (channel < 16)
  | .pannierFillBegin channel => decide (channel < 16)
  | .pannierFillDone channel _ => decide (channel < 16)
  | .reshard ctx idx _ => decide (ctx < 4352 ∧ idx < 2 ^ 32)
  | .derailleurPieceReceive piece => decide (piece.src < 65536)
  | .derailleurRoundBegin ctx idx => decide (ctx < 4352 ∧ idx < 2 ^ 32)
  | .tick => true
  | .tickRunWrite data => decide (data < 2 ^ 32)
  | .tickWait ctx idx => decide (ctx < 4352 ∧ idx < 2 ^ 32)
  | .timeStamp ctx idx => decide (ctx < 4352 ∧ idx < 2 ^ 32)
  | .gnssPpsEdge => true
  | .gnssTodMessage message => decide (message.length = 12)
  | .gnssPpsTimeout _ => true
  | .timeExchangeTimer => true
  | .timeFrame link kind seq stamp => decide (link < 96 ∧ (4 ≤ kind ∧ kind ≤ 6) ∧ seq < 4096 ∧ stamp < 2 ^ 64)
  | .leadFailover => true
  | .ppsOutSecond => true
  | .timeSet data => decide (data < 2 ^ 32)
  | .slotEnable data => decide (data < 2 ^ 32)
  | .slotWindowOpen entry => decide (entry < 256)
  | .slotWindowClose entry => decide (entry < 256)
  | .cellWake cell => decide (cell < 128)
  | .frameSlot link session => decide (link < 96 ∧ session < 64)
  | .frameReceive link corrected lost _ bytes _ => decide (link < 96 ∧ corrected < 3 ∧ lost < 3 ∧ bytes.length = 544)
  | .retransmitTimeout far n => decide (n < if far then 64 else 96)
  | .farRouteLost session => decide (session < 64)
  | .farRouteReturn session => decide (session < 64)
  | .linkTrainingDone link _ _ peerChip peerLink peerStand peerMode rtt =>
    decide (link < 96 ∧ peerChip < 65536 ∧ peerLink < 96 ∧ peerStand < 64 ∧ peerMode < 2 ∧ rtt < 2 ^ 32)
  | .linkSignalLoss link => decide (link < 96)
  | .linkRxTimeout link => decide (link < 96)
  | .linkEnableWrite link data => decide (link < 96 ∧ data < 2 ^ 32)
  | .groupRetrain group data => decide (group < 12 ∧ data < 2 ^ 32)
  | .groupModeWrite group data => decide (group < 12 ∧ data < 2 ^ 32)
  | .standArm data => decide (data < 2 ^ 32)
  | .farSessionValidWrite session data => decide (session < 64 ∧ data < 2 ^ 32)
  | .routeEnable data => decide (data < 2 ^ 32)
  | .semaphoreAdd off size data => decide (off < 0x8000 ∧ (1 ≤ size ∧ size ≤ 8) ∧ data < 256 ^ size)
  | .semAdd ctx idx => decide (ctx < 4352 ∧ idx < 2 ^ 32)
  | .semSet ctx idx => decide (ctx < 4352 ∧ idx < 2 ^ 32)
  | .barrier ctx idx => decide (ctx < 4352 ∧ idx < 2 ^ 32)
  | .barrierUnitWrite unit data => decide (unit < 64 ∧ data < 2 ^ 32)
  | .chainContribution link op chan gen index value =>
    decide (link < 96 ∧ op < 3 ∧ chan < 256 ∧ gen < 65536 ∧ index < 1024 ∧ value < 2 ^ 32)
  | .chainResult link op chan gen index value =>
    decide (link < 96 ∧ op < 3 ∧ chan < 256 ∧ gen < 65536 ∧ index < 1024 ∧ value < 2 ^ 32)
  | .chainRepeatTimer => true
  | .chainAnnounceTimer => true
  | .chainAnnounce link rank state hopsLead hops0 chip active parent =>
    decide (link < 96 ∧ rank < 4 ∧ state < 8 ∧ hopsLead < 2048 ∧ hops0 < 2048 ∧ chip < 65536 ∧ active < 65536 ∧ parent < 65536)
  | .chainSettle => true
  | .standFaultFrame link chip faultLink cause => decide (link < 96 ∧ chip < 65536 ∧ faultLink < 96 ∧ cause < 16)
  | .allReduce ctx idx _ => decide (ctx < 4352 ∧ idx < 2 ^ 32)
  | .reduceScatter ctx idx _ => decide (ctx < 4352 ∧ idx < 2 ^ 32)
  | .allGather ctx idx _ => decide (ctx < 4352 ∧ idx < 2 ^ 32)
  | .permute ctx idx _ => decide (ctx < 4352 ∧ idx < 2 ^ 32)
  | .keyImport data => decide (data < 2 ^ 32)
  | .keyImportDone _ _ message => decide (message.length ≤ 512)
  | .keyClear data => decide (data < 2 ^ 32)
  | .entropyHealthFail => true
  | .rngRestart data _ => decide (data < 2 ^ 32)
  | .kerfStageKey session slot => decide (session < 64 ∧ slot < 256)
  | .kerfRoll session slot => decide (session < 64 ∧ slot < 256)
  | .kerfGraceExpire session => decide (session < 64)
  | .kerfAuthHaltClear session slot => decide (session < 64 ∧ slot < 256)
  | .form ctx idx => decide (ctx < 4352 ∧ idx < 2 ^ 32)
  | .merge ctx idx => decide (ctx < 4352 ∧ idx < 2 ^ 32)
  | .mergeCutoff ctx idx => decide (ctx < 4352 ∧ idx < 2 ^ 32)
  | .rotationBundleReceive bundle _ => decide (32 ≤ bundle.length)
  | .mergeMaskReceive rot chip masks digest =>
    decide (rot < 2 ^ 64 ∧ chip < 65536 ∧ (masks = [] ∨ masks.length = 64) ∧ (digest = [] ∨ digest.length = 64))
  | .mergeSetReceive rot sealed used => decide (rot < 2 ^ 64 ∧ sealed < 2 ^ 64 ∧ used.length = 64)
  | .apply ctx idx => decide (ctx < 4352 ∧ idx < 2 ^ 32)
  | .basis ctx idx _ => decide (ctx < 4352 ∧ idx < 2 ^ 32)
  | .ledgerEntryWrite _ => true
  | .ledgerEntryReceive entry => decide (entry.length = 768)
  | .partnerJoin ctx idx => decide (ctx < 4352 ∧ idx < 2 ^ 32)
  | .partnerSplit ctx idx highest => decide (ctx < 4352 ∧ idx < 2 ^ 32 ∧ highest < 2 ^ 64)
  | .partnerDrop ctx idx => decide (ctx < 4352 ∧ idx < 2 ^ 32)
  | .heal ctx idx _ _ _ => decide (ctx < 4352 ∧ idx < 2 ^ 32)
  | .joinCheck ctx idx _ => decide (ctx < 4352 ∧ idx < 2 ^ 32)
  | .tallyOpen ctx idx => decide (ctx < 4352 ∧ idx < 2 ^ 32)
  | .tallyClose ctx idx => decide (ctx < 4352 ∧ idx < 2 ^ 32)
  | .digest ctx idx => decide (ctx < 4352 ∧ idx < 2 ^ 32)
  | .attest ctx idx => decide (ctx < 4352 ∧ idx < 2 ^ 32)
  | .tallySignDone => true
  | .voteScrub a _ => (blkOf a).isSome
  | .registerWrite bar off size data =>
    decide ((bar = 0 ∨ bar = 2 ∨ bar = 4) ∧ off < 2 ^ 32 ∧ (1 ≤ size ∧ size ≤ 8) ∧ data < 256 ^ size)
  | .aliasWrite bar off size data =>
    decide (bar = 0 ∧ 0x4000 ≤ off % 0x10000 ∧ (1 ≤ size ∧ size ≤ 8) ∧ data < 256 ^ size)
  | .eventDump => true
  | .perstRelease => true
  | .perstAssert => true
  | .cxlHotReset => true
  | .bootStageEnd ns _ => decide (ns < 2 ^ 64)
  | .fwStartTimeout ns _ _ => decide (ns < 2 ^ 64)
  | .partRecordWrite _ _ => true
  | .getFwInfo => true
  | .transferFw slot off _ _ _ => decide (slot < 256 ∧ off < 2 ^ 32)
  | .activateFw _ slot _ => decide (slot < 256)
  | .readBootLog => true
  | .readPartInfo => true
  | .writeSetting item value => decide (item < 256 ∧ value < 2 ^ 96)
  | .mailboxUnsupported opcode => decide (opcode < 65536)
  | .governorWindow watts tj => decide (watts < 65536 ∧ tj < 256)
  | .avsComplete => true
  | .brakeBegin uv => decide (uv.length = 8)
  | .brakeEnd uv => decide (uv.length = 8)
  | .railReset uv => decide (uv.length = 8)
  | .temperatureCrossing tj hbm => decide (tj < 256 ∧ hbm < 256)
  | .i3cPrivateRead => true
  | .i3cPrivateWrite data => decide (data.length < 2 ^ 16)
  | .bypass => true
  | .idcode => true
  | .samplePreload pins preload => decide (pins < 2 ^ 64 ∧ preload < 2 ^ 64)
  | .extest pins => decide (pins < 2 ^ 64)
  | .clamp => true
  | .highz => true
  | .railsInBand uv => decide (uv.length = 8)
  | .registerRead bar off size => decide ((bar = 0 ∨ bar = 2 ∨ bar = 4) ∧ off < 2 ^ 32 ∧ (1 ≤ size ∧ size ≤ 8))
  | .skidCopyDone => true

end Sys2Proof
end

