-- ==== Sys2Proof/Tests/Slice0.lean ====
section
/-!
SUPPORT. The model's own tests: ill-formed commands are refused, and for every statement a small state and operands meet
its hypotheses together.  Expected results come from the rules that a test names.
-/

namespace Sys2Proof.Tests

set_option Elab.async false

open Sys2Proof Sys2Proof.Machine

/-! ### Small states -/

/-- Bits of a descriptor, as byte offset, bit in it, and value. -/
def desc (fs : List (Nat × Nat × Nat)) : Desc :=
  BitVec.ofNat 1024 (fs.foldl (fun n f => n + f.2.2 * 2 ^ (8 * f.1 + f.2.1)) 0)

/-- An operation of context 3, index 5. -/
def opOf (d : Desc) (w : Work) : Op := ⟨3, 5, 1, d, 0, 0, 0, none, false, [], false, 0, 0, 0, 0, 1, [], ⟨[], [], [], none⟩, [], 0, [], [], 0, [], w⟩

/-- The chip after bring-up: every die awake, 64 MiB of memory mapped. -/
def up : State :=
  setD (setD (setD (setD { State.reset with boot := { State.reset.boot with stage := 10, perst := false } }
    Reg.dieReady_mills 15) Reg.dieReady_landa 1) Reg.dieReady_landb 1) Reg.hbmGranules_count 16384

/-- That chip with one operation. -/
def running (d : Desc) (w : Work) : State := { up with ops := [opOf d w] }

/-- A chip with bytes in its memory. -/
def withMem (ws : List Host.Cell) (s : State) : State := { s with mem := memWriteAll s.mem ws }

/-- A chip that serves rings of sixteen contexts. -/
def served : State := setA (setA up Reg.ctxCount_count 16) Reg.ringCtrl_enable 1

/-- A tracked context with rings of sixteen slots and nothing in them. -/
def ctx3 : Ctx := ⟨3, 0x10000, 0x20000, 4, 4, 1, false, 0, 0, 0, 0, false, false, [], 0, [], 0, 0⟩

/-- That chip with one context. -/
def withCtx (x : Ctx) : State := { served with rings := { served.rings with ctxs := [x] } }

/-- The state that a command leads to. -/
def after (c : Instr) (s : State) : State :=
  match exec c s with
  | .next t => t
  | _ => s


/-! ### Well-formedness: one ill-formed term for each check, which it refuses -/

/-- A number of zero bytes. -/
def zeroes (n : Nat) : List Byte := List.replicate n 0

/-- A piece from a chip. -/
def pieceFrom (src : Nat) : PieceMsg := ⟨src, ⟨0, 0, 0, 1, 0, 1⟩, [0, 0, 0, 0], 0⟩

/-- Every command whose operands lie in their ranges is well formed: one of each row. -/
theorem test_wellFormed :
    List.all ([
    .sqDoorbell 0 0 [], .contextLoadDone 0, .contextSpillDone 0, .overflowEntryLoad, .cqDoorbell 0 0 [],
    .descriptorFetch 0, .descriptorBegin 0, .descriptorEnd 0 0 .ok, .msixGapExpire 0, .ctxResume 0,
    .ctxResumeAtHead 0, .ctxReset 0, .ringDisable, .ringDrainEnd, .nop 0 0, .cxlMemRead 0 1 .ok, .cxlMemWrite 0 [0],
    .retirementCopyDone 0, .tickPathFail, .jobSeedHighWrite 0, .matmul 0 0, .matmulPair 0 0, .tileFillBegin 0,
    .tileFillEnd 0 [], .tileSumCheckDone 0, .tileDupCompareDone 0, .tileDrainEnd 0 0, .level2RunEnd 0 0 [],
    .operationPark 0 0 0, .operationResume 0 0, .scalerEnable 0, .chain 0 0, .reduceTree 0 0, .sumOpen 0 0,
    .contribute 0 0, .vectorUnitDone 0 0 0, .omaContribution 0 0 0 (zeroes 64) 0 0 0, .omaResendTimer 0 0 0,
    .omaOverdue 0 0, .statFold 0 0 [], .cholesky 0 0 [] false, .ldlt 0 0 [] false, .trsolve 0 0 [], .eig 0 0 [] false,
    .invroot 0 0 [] false, .truingWaitProceed 0 0 [] false, .invrootDeadline 0 0 0, .envStep 0 0, .invDyn 0 0,
    .mass 0 0, .envLoop 0 0, .jbBatchDone 0 0 0, .envLoopStepBegin 0 0, .envLoopStepEnd 0 0, .copy 0 0, .prefetch 0 0,
    .evict 0 0, .yarderTransferDone 0 0 [], .update 0 0 [], .skidGrant, .updateSkidApply 0 0, .replicaCmp 0 0,
    .replicaDigestReceive 0 0 (zeroes 64), .exportOp 0 0, .importOp 0 0, .compress 0 0 [], .decompress 0 0 [],
    .panelDecodeDone 0 0 0 0, .axisEnable, .pannierEnable 0 0, .pannierDisable 0 0, .pannierSpillBegin 0,
    .pannierSpillDone 0, .pannierFillBegin 0, .pannierFillDone 0 [], .reshard 0 0 [],
    .derailleurPieceReceive (pieceFrom 0), .derailleurRoundBegin 0 0, .tick, .tickRunWrite 0, .tickWait 0 0,
    .timeStamp 0 0, .gnssPpsEdge, .gnssTodMessage (zeroes 12), .gnssPpsTimeout false, .timeExchangeTimer,
    .timeFrame 0 4 0 0, .leadFailover, .ppsOutSecond, .timeSet 0, .slotEnable 0, .slotWindowOpen 0,
    .slotWindowClose 0, .cellWake 0, .frameSlot 0 0, .frameReceive 0 0 0 false (zeroes 544) ⟨0, 0, 0, .ack⟩,
    .retransmitTimeout false 0, .farRouteLost 0, .farRouteReturn 0, .linkTrainingDone 0 false false 0 0 0 0 0,
    .linkSignalLoss 0, .linkRxTimeout 0, .linkEnableWrite 0 0, .groupRetrain 0 0, .groupModeWrite 0 0, .standArm 0,
    .farSessionValidWrite 0 0, .routeEnable 0, .semaphoreAdd 0 1 0, .semAdd 0 0, .semSet 0 0, .barrier 0 0,
    .barrierUnitWrite 0 0, .chainContribution 0 0 0 0 0 0, .chainResult 0 0 0 0 0 0, .chainRepeatTimer,
    .chainAnnounceTimer, .chainAnnounce 0 0 0 0 0 0 0 0, .chainSettle, .standFaultFrame 0 0 0 0, .allReduce 0 0 [],
    .reduceScatter 0 0 [], .allGather 0 0 [], .permute 0 0 [], .keyImport 0, .keyImportDone false false [],
    .keyClear 0, .entropyHealthFail, .rngRestart 0 false, .kerfStageKey 0 0, .kerfRoll 0 0, .kerfGraceExpire 0,
    .kerfAuthHaltClear 0 0, .form 0 0, .merge 0 0, .mergeCutoff 0 0, .rotationBundleReceive (zeroes 32) [],
    .mergeMaskReceive 0 0 [] [], .mergeSetReceive 0 0 (List.replicate 64 0), .apply 0 0, .basis 0 0 [],
    .ledgerEntryWrite [], .ledgerEntryReceive (zeroes 768), .partnerJoin 0 0, .partnerSplit 0 0 0, .partnerDrop 0 0,
    .heal 0 0 [] [] [], .joinCheck 0 0 [], .tallyOpen 0 0, .tallyClose 0 0, .digest 0 0, .attest 0 0, .tallySignDone,
    .voteScrub 0x3E000000000 [], .registerWrite 0 0 1 0, .aliasWrite 0 0x4000 1 0, .eventDump, .perstRelease,
    .perstAssert, .cxlHotReset, .bootStageEnd 0 .links, .fwStartTimeout 0 ⟨true, true⟩ ⟨true, true⟩,
    .partRecordWrite [] [], .getFwInfo, .transferFw 0 0 [] false ⟨true, true⟩, .activateFw false 0 ⟨true, true⟩,
    .readBootLog, .readPartInfo, .writeSetting 0 0, .mailboxUnsupported 0, .governorWindow 0 0, .avsComplete,
    .brakeBegin (List.replicate 8 0), .brakeEnd (List.replicate 8 0), .railReset (List.replicate 8 0),
    .temperatureCrossing 0 0, .i3cPrivateRead, .i3cPrivateWrite [], .bypass, .idcode, .samplePreload 0 0, .extest 0,
    .clamp, .highz, .railsInBand (List.replicate 8 0), .registerRead 0 0 1, .skidCopyDone]) wellFormed = true := by
  decide +kernel

/-- One operand just outside its range. -/
theorem test_refused_1 :
    ([
    .sqDoorbell 4352 0 [], .sqDoorbell 0 (2 ^ 32) [], .contextLoadDone 4352, .contextSpillDone 4352,
    .cqDoorbell 4352 0 [], .cqDoorbell 0 (2 ^ 32) [], .descriptorFetch 4352, .descriptorBegin 4352,
    .descriptorEnd 4352 0 .ok, .descriptorEnd 0 (2 ^ 32) .ok, .msixGapExpire 2048, .ctxResume 4352,
    .ctxResumeAtHead 4352, .ctxReset 4352, .nop 4352 0, .nop 0 (2 ^ 32), .cxlMemRead (2 ^ 40) 1 .ok,
    .cxlMemRead 0 0 .ok, .cxlMemRead 0 65 .ok, .cxlMemWrite (2 ^ 40) [0], .cxlMemWrite 0 [],
    .cxlMemWrite 0 (zeroes 65), .retirementCopyDone (2 ^ 30), .jobSeedHighWrite (2 ^ 32), .matmul 4352 0,
    .matmul 0 (2 ^ 32), .matmulPair 4352 0, .matmulPair 0 (2 ^ 32), .tileFillBegin 128, .tileFillEnd 128 [],
    .tileSumCheckDone 128, .tileDupCompareDone 128, .tileDrainEnd 128 0, .tileDrainEnd 0 2, .level2RunEnd 4352 0 [],
    .level2RunEnd 0 (2 ^ 32) [], .operationPark 4352 0 0, .operationPark 0 (2 ^ 32) 0, .operationPark 0 0 (2 ^ 64),
    .operationResume 4352 0
    ] : List Instr).any wellFormed = false := by
  decide +kernel

/-- One operand just outside its range. -/
theorem test_refused_2 :
    ([
    .operationResume 0 (2 ^ 32), .scalerEnable (2 ^ 32), .chain 4352 0, .chain 0 (2 ^ 32), .reduceTree 4352 0,
    .reduceTree 0 (2 ^ 32), .sumOpen 4352 0, .sumOpen 0 (2 ^ 32), .contribute 4352 0, .contribute 0 (2 ^ 32),
    .vectorUnitDone 128 0 0, .vectorUnitDone 0 4352 0, .vectorUnitDone 0 0 (2 ^ 32),
    .omaContribution 65536 0 0 (zeroes 64) 0 0 0, .omaContribution 0 65536 0 (zeroes 64) 0 0 0,
    .omaContribution 0 0 (2 ^ 32) (zeroes 64) 0 0 0, .omaContribution 0 0 0 (zeroes 65) 0 0 0,
    .omaContribution 0 0 0 [] 0 0 0, .omaContribution 0 0 0 (zeroes 64) 65536 0 0,
    .omaContribution 0 0 0 (zeroes 64) 0 4352 0, .omaContribution 0 0 0 (zeroes 64) 0 0 (2 ^ 32),
    .omaResendTimer 65536 0 0, .omaResendTimer 0 65536 0, .omaResendTimer 0 0 (2 ^ 32), .omaOverdue 65536 0,
    .omaOverdue 0 (2 ^ 32), .statFold 4352 0 [], .statFold 0 (2 ^ 32) [], .cholesky 4352 0 [] false,
    .cholesky 0 (2 ^ 32) [] false, .ldlt 4352 0 [] false, .ldlt 0 (2 ^ 32) [] false, .trsolve 4352 0 [],
    .trsolve 0 (2 ^ 32) [], .eig 4352 0 [] false, .eig 0 (2 ^ 32) [] false, .invroot 4352 0 [] false,
    .invroot 0 (2 ^ 32) [] false, .truingWaitProceed 4352 0 [] false, .truingWaitProceed 0 (2 ^ 32) [] false
    ] : List Instr).any wellFormed = false := by
  decide +kernel

/-- One operand just outside its range. -/
theorem test_refused_3 :
    ([
    .invrootDeadline 4352 0 0, .invrootDeadline 0 (2 ^ 32) 0, .invrootDeadline 0 0 65536, .envStep 4352 0,
    .envStep 0 (2 ^ 32), .invDyn 4352 0, .invDyn 0 (2 ^ 32), .mass 4352 0, .mass 0 (2 ^ 32), .envLoop 4352 0,
    .envLoop 0 (2 ^ 32), .jbBatchDone 128 0 0, .jbBatchDone 0 4352 0, .jbBatchDone 0 0 (2 ^ 32),
    .envLoopStepBegin 4352 0, .envLoopStepBegin 0 (2 ^ 32), .envLoopStepEnd 4352 0, .envLoopStepEnd 0 (2 ^ 32),
    .copy 4352 0, .copy 0 (2 ^ 32), .prefetch 4352 0, .prefetch 0 (2 ^ 32), .evict 4352 0, .evict 0 (2 ^ 32),
    .yarderTransferDone 4352 0 [], .yarderTransferDone 0 (2 ^ 32) [], .update 4352 0 [], .update 0 (2 ^ 32) [],
    .updateSkidApply 4352 0, .updateSkidApply 0 (2 ^ 32), .replicaCmp 4352 0, .replicaCmp 0 (2 ^ 32),
    .replicaDigestReceive 65536 0 (zeroes 64), .replicaDigestReceive 0 65536 (zeroes 64),
    .replicaDigestReceive 0 0 (zeroes 65), .replicaDigestReceive 0 0 [], .exportOp 4352 0, .exportOp 0 (2 ^ 32),
    .importOp 4352 0, .importOp 0 (2 ^ 32)
    ] : List Instr).any wellFormed = false := by
  decide +kernel

/-- One operand just outside its range. -/
theorem test_refused_4 :
    ([
    .compress 4352 0 [], .compress 0 (2 ^ 32) [], .decompress 4352 0 [], .decompress 0 (2 ^ 32) [],
    .panelDecodeDone 128 0 0 0, .panelDecodeDone 0 4352 0 0, .panelDecodeDone 0 0 (2 ^ 32) 0,
    .panelDecodeDone 0 0 0 (2 ^ 32), .pannierEnable 16 0, .pannierEnable 0 (2 ^ 32), .pannierDisable 16 0,
    .pannierDisable 0 (2 ^ 32), .pannierSpillBegin 16, .pannierSpillDone 16, .pannierFillBegin 16,
    .pannierFillDone 16 [], .reshard 4352 0 [], .reshard 0 (2 ^ 32) [], .derailleurPieceReceive (pieceFrom 65536),
    .derailleurRoundBegin 4352 0, .derailleurRoundBegin 0 (2 ^ 32), .tickRunWrite (2 ^ 32), .tickWait 4352 0,
    .tickWait 0 (2 ^ 32), .timeStamp 4352 0, .timeStamp 0 (2 ^ 32), .gnssTodMessage (zeroes 13), .gnssTodMessage [],
    .timeFrame 96 4 0 0, .timeFrame 0 3 0 0, .timeFrame 0 7 0 0, .timeFrame 0 4 4096 0, .timeFrame 0 4 0 (2 ^ 64),
    .timeSet (2 ^ 32), .slotEnable (2 ^ 32), .slotWindowOpen 256, .slotWindowClose 256, .cellWake 128,
    .frameSlot 96 0, .frameSlot 0 64
    ] : List Instr).any wellFormed = false := by
  decide +kernel

/-- One operand just outside its range. -/
theorem test_refused_5 :
    ([
    .frameReceive 96 0 0 false (zeroes 544) ⟨0, 0, 0, .ack⟩, .frameReceive 0 3 0 false (zeroes 544) ⟨0, 0, 0, .ack⟩,
    .frameReceive 0 0 3 false (zeroes 544) ⟨0, 0, 0, .ack⟩,
    .frameReceive 0 0 0 false (zeroes 545) ⟨0, 0, 0, .ack⟩, .frameReceive 0 0 0 false [] ⟨0, 0, 0, .ack⟩,
    .retransmitTimeout false 96, .retransmitTimeout true 64, .farRouteLost 64, .farRouteReturn 64,
    .linkTrainingDone 96 false false 0 0 0 0 0, .linkTrainingDone 0 false false 65536 0 0 0 0,
    .linkTrainingDone 0 false false 0 96 0 0 0, .linkTrainingDone 0 false false 0 0 64 0 0,
    .linkTrainingDone 0 false false 0 0 0 2 0, .linkTrainingDone 0 false false 0 0 0 0 (2 ^ 32), .linkSignalLoss 96,
    .linkRxTimeout 96, .linkEnableWrite 96 0, .linkEnableWrite 0 (2 ^ 32), .groupRetrain 12 0,
    .groupRetrain 0 (2 ^ 32), .groupModeWrite 12 0, .groupModeWrite 0 (2 ^ 32), .standArm (2 ^ 32),
    .farSessionValidWrite 64 0, .farSessionValidWrite 0 (2 ^ 32), .routeEnable (2 ^ 32), .semaphoreAdd 0x8000 1 0,
    .semaphoreAdd 0 0 0, .semaphoreAdd 0 9 0, .semaphoreAdd 0 1 256, .semAdd 4352 0, .semAdd 0 (2 ^ 32),
    .semSet 4352 0, .semSet 0 (2 ^ 32), .barrier 4352 0, .barrier 0 (2 ^ 32), .barrierUnitWrite 64 0,
    .barrierUnitWrite 0 (2 ^ 32), .chainContribution 96 0 0 0 0 0, .chainContribution 0 3 0 0 0 0
    ] : List Instr).any wellFormed = false := by
  decide +kernel

/-- One operand just outside its range. -/
theorem test_refused_6 :
    ([
    .chainContribution 0 0 256 0 0 0, .chainContribution 0 0 0 65536 0 0, .chainContribution 0 0 0 0 1024 0,
    .chainContribution 0 0 0 0 0 (2 ^ 32), .chainResult 96 0 0 0 0 0, .chainResult 0 3 0 0 0 0,
    .chainResult 0 0 256 0 0 0, .chainResult 0 0 0 65536 0 0, .chainResult 0 0 0 0 1024 0,
    .chainResult 0 0 0 0 0 (2 ^ 32), .chainAnnounce 96 0 0 0 0 0 0 0, .chainAnnounce 0 4 0 0 0 0 0 0,
    .chainAnnounce 0 0 8 0 0 0 0 0, .chainAnnounce 0 0 0 2048 0 0 0 0, .chainAnnounce 0 0 0 0 2048 0 0 0,
    .chainAnnounce 0 0 0 0 0 65536 0 0, .chainAnnounce 0 0 0 0 0 0 65536 0, .chainAnnounce 0 0 0 0 0 0 0 65536,
    .standFaultFrame 96 0 0 0, .standFaultFrame 0 65536 0 0, .standFaultFrame 0 0 96 0, .standFaultFrame 0 0 0 16,
    .allReduce 4352 0 [], .allReduce 0 (2 ^ 32) [], .reduceScatter 4352 0 [], .reduceScatter 0 (2 ^ 32) [],
    .allGather 4352 0 [], .allGather 0 (2 ^ 32) [], .permute 4352 0 [], .permute 0 (2 ^ 32) [], .keyImport (2 ^ 32),
    .keyImportDone false false (zeroes 513), .keyClear (2 ^ 32), .rngRestart (2 ^ 32) false, .kerfStageKey 64 0,
    .kerfStageKey 0 256, .kerfRoll 64 0, .kerfRoll 0 256, .kerfGraceExpire 64, .kerfAuthHaltClear 64 0
    ] : List Instr).any wellFormed = false := by
  decide +kernel

/-- One operand just outside its range. -/
theorem test_refused_7 :
    ([
    .kerfAuthHaltClear 0 256, .form 4352 0, .form 0 (2 ^ 32), .merge 4352 0, .merge 0 (2 ^ 32), .mergeCutoff 4352 0,
    .mergeCutoff 0 (2 ^ 32), .rotationBundleReceive (zeroes 31) [], .mergeMaskReceive (2 ^ 64) 0 [] [],
    .mergeMaskReceive 0 65536 [] [], .mergeMaskReceive 0 0 [0] [], .mergeMaskReceive 0 0 [] [0],
    .mergeSetReceive (2 ^ 64) 0 (List.replicate 64 0), .mergeSetReceive 0 (2 ^ 64) (List.replicate 64 0),
    .mergeSetReceive 0 0 (List.replicate 65 0), .mergeSetReceive 0 0 [], .apply 4352 0, .apply 0 (2 ^ 32),
    .basis 4352 0 [], .basis 0 (2 ^ 32) [], .ledgerEntryReceive (zeroes 769), .ledgerEntryReceive [],
    .partnerJoin 4352 0, .partnerJoin 0 (2 ^ 32), .partnerSplit 4352 0 0, .partnerSplit 0 (2 ^ 32) 0,
    .partnerSplit 0 0 (2 ^ 64), .partnerDrop 4352 0, .partnerDrop 0 (2 ^ 32), .heal 4352 0 [] [] [],
    .heal 0 (2 ^ 32) [] [] [], .joinCheck 4352 0 [], .joinCheck 0 (2 ^ 32) [], .tallyOpen 4352 0,
    .tallyOpen 0 (2 ^ 32), .tallyClose 4352 0, .tallyClose 0 (2 ^ 32), .digest 4352 0, .digest 0 (2 ^ 32),
    .attest 4352 0
    ] : List Instr).any wellFormed = false := by
  decide +kernel

/-- One operand just outside its range. -/
theorem test_refused_8 :
    ([
    .attest 0 (2 ^ 32), .voteScrub 0xFFFFFFFFF [], .registerWrite 1 0 1 0, .registerWrite 0 (2 ^ 32) 1 0,
    .registerWrite 0 0 0 0, .registerWrite 0 0 9 0, .registerWrite 0 0 1 256, .aliasWrite 2 0x4000 1 0,
    .aliasWrite 0 0x3FFF 1 0, .aliasWrite 0 0x4000 0 0, .aliasWrite 0 0x4000 9 0, .aliasWrite 0 0x4000 1 256,
    .bootStageEnd (2 ^ 64) .links, .fwStartTimeout (2 ^ 64) ⟨true, true⟩ ⟨true, true⟩,
    .transferFw 256 0 [] false ⟨true, true⟩, .transferFw 0 (2 ^ 32) [] false ⟨true, true⟩,
    .activateFw false 256 ⟨true, true⟩, .writeSetting 256 0, .writeSetting 0 (2 ^ 96), .mailboxUnsupported 65536,
    .governorWindow 65536 0, .governorWindow 0 256, .brakeBegin (List.replicate 9 0), .brakeBegin [],
    .brakeEnd (List.replicate 9 0), .brakeEnd [], .railReset (List.replicate 9 0), .railReset [],
    .temperatureCrossing 256 0, .temperatureCrossing 0 256, .samplePreload (2 ^ 64) 0, .samplePreload 0 (2 ^ 64),
    .extest (2 ^ 64), .railsInBand (List.replicate 9 0), .railsInBand [], .registerRead 1 0 1,
    .registerRead 0 (2 ^ 32) 1, .registerRead 0 0 0, .registerRead 0 0 9
    ] : List Instr).any wellFormed = false := by
  decide +kernel

/-- A private write of 65536 bytes. -/
theorem test_refused_long : wellFormed (.i3cPrivateWrite (zeroes 65536)) = false := by
  simp only [wellFormed, zeroes, List.length_replicate]; decide


/-- R124, R189: an upset of a product tile lies in run 1 to 3 and flips bits of an FP32 result. -/
theorem test_refused_upsets :
    ([.statFold 0 0 [⟨0, 0, []⟩], .cholesky 0 0 [⟨0, 4, []⟩] false, .update 0 0 [⟨0, 1, [(0, 2 ^ 32)]⟩]
    ] : List Instr).any wellFormed = false := by
  decide +kernel

/-! ### Commands and rings -/

/-- The two doorbell cases at their bounds: a tail that stays, and one a whole ring ahead. -/
theorem test_meets_submission_doorbell :
    let s := withCtx { ctx3 with sqHead := 2 ^ 32 - 1, sqTail := 2 ^ 32 - 1 }
    (2 ^ 32 - 1 - 0) % 2 ^ 32 = 2 ^ 32 - 1 ∧ getA s Reg.ctxCount_count = 16 ∧ getA s Reg.ringCtrl_enable = 1 ∧
      (findCtx s 3).isSome ∧ sqTailOk (2 ^ 32 - 1) (2 ^ 32 - 1) (2 ^ 32 - 1) 4 = true ∧
      sqTailOk (2 ^ 32 - 1) (2 ^ 32 - 1) 15 4 = true ∧ sqTailOk (2 ^ 32 - 1) (2 ^ 32 - 1) 16 4 = false := by
  decide +kernel

/-- R42: a tail beyond the ring halts the context with code 0x06 (byte 24 of the entry at 0x20000). -/
theorem test_bad_tail_halts :
    let s := after (.sqDoorbell 3 17 []) (withCtx ctx3)
    (findCtx s 3).map (fun x => (x.halted, x.sqTail, x.cqTail)) = some (true, 0, 1) ∧
      memRead s.hostMem (0x20000 + 24) = 6 := by
  decide +kernel

/-- R44 at its bounds: the first context number that is not served, and ring service off. -/
theorem test_meets_ignored_doorbells :
    getA served Reg.ctxCount_count ≤ 16 ∧ getA up Reg.ringCtrl_enable = 0 ∧ served.canonical = true := by
  decide +kernel

/-- R43: a head up to the tail is valid, one beyond it is not. -/
theorem test_meets_completion_doorbell :
    let x : Ctx := { ctx3 with cqTail := 2, cqHead := 1 }
    (findCtx (withCtx x) 3) = some x ∧ (2 + 2 ^ 32 - x.cqHead) % 2 ^ 32 ≤ (x.cqTail + 2 ^ 32 - x.cqHead) % 2 ^ 32 ∧
      ¬ (3 + 2 ^ 32 - x.cqHead) % 2 ^ 32 ≤ (x.cqTail + 2 ^ 32 - x.cqHead) % 2 ^ 32 := by
  decide +kernel

/-- A save area at host address 0x600 (context 3) with valid host bytes and zero device bytes. -/
def loading3 : State :=
  let s := withCtx (loadingCtx 3 [1] 1)
  { s with hostMem := memWriteAll s.hostMem (natWrites 0x600 8 0x10000 ++ natWrites 0x608 8 0x20000 ++
    natWrites 0x610 1 4 ++ natWrites 0x611 1 4 ++ natWrites 0x612 2 1 ++ natWrites 0x614 4 1) }

theorem test_meets_context_load :
    (findCtx loading3 3).map (fun x => x.loading) = some true ∧ hostPartOk loading3 3 = true ∧
      devicePartZero loading3 3 = true := by
  decide +kernel

/-- R37, R38: the context is tracked and takes the doorbell that waited. -/
theorem test_context_loads :
    (findCtx (after (.contextLoadDone 3) loading3) 3).map (fun x => (x.loading, x.sqTail, x.vector)) = some (false, 1, 1) := by
  decide +kernel

theorem test_meets_context_spill_and_queue :
    let s := withCtx { ctx3 with spilling := 2 }
    let q : State := { served with rings := { served.rings with ovq := [⟨4, false, 9, 0⟩] } }
    (findCtx s 3).map (fun x => x.spilling) = some 2 ∧ ctxBusy s 3 = false ∧ s.canonical = true ∧
      q.rings.ovq.find? (entryReady q) = some ⟨4, false, 9, 0⟩ ∧ placesUsed q < 256 := by
  decide +kernel

/-- A context whose next descriptor, at host address 0x10000, has the given words. -/
def fetching (d : Desc) : State :=
  let s := withCtx { ctx3 with sqTail := 1 }
  { s with hostMem := memWriteAll s.hostMem (natWrites 0x10000 128 d.toNat) }

/-- A NOP of context 3, and one with a reserved opcode. -/
def nop3 : Desc := desc [(0, 0, 0x0F00), (0x10, 0, 3)]
def bad3 : Desc := desc [(0, 0, 0x0F01), (0x10, 0, 3)]

theorem test_meets_fetch :
    ((findCtx (fetching nop3) 3).map (fun x => mayFetch (fetching nop3) x)) = some true ∧ rdHost (fetching nop3) 0x10000 128 = nop3.toNat ∧
      fetchFault (fetching nop3) 3 nop3 = none ∧ fetchFault (fetching bad3) 3 bad3 = some 0x02 ∧ slotsFree ctx3 ≠ 0 := by
  decide +kernel

theorem test_meets_begin :
    let x : Ctx := { ctx3 with held := [⟨0, nop3⟩] }
    let s := withCtx x
    eligible s x = some ⟨0, nop3⟩ ∧ parkedBefore s nop3 = false ∧ dOpcode nop3 / 256 = 0x0F ∧ dTag nop3 = 0 ∧
      dCheck nop3 = 0 ∧ splitRecord s = none := by
  decide +kernel

theorem test_meets_nop_and_end :
    let o := opOf nop3 .none
    let s := running nop3 .none
    let e : Op := { o with ended := some ⟨.done, 0⟩ }
    runningOp s 3 5 0x0F00 = some o ∧ findOp { s with ops := [e] } 3 5 = some e ∧ endReady { s with ops := [e] } e ⟨.done, 0⟩ = true := by
  decide +kernel

theorem test_meets_gap_and_drain :
    let s := setA up Reg.ringCtrl_draining 1
    ({ up with rings := { up.rings with merged := [7] } } : State).rings.merged.contains 7 = true ∧ s.canonical = true ∧
      getA s Reg.ringCtrl_draining = 1 ∧ s.ops = [] := by
  decide +kernel


/-- A chip all of whose 256 tracking places hold contexts with a head and a tail. -/
def crowded (head tail : Nat) : State :=
  { served with rings := { served.rings with ctxs := (List.range 256).map (fun n => { ctx3 with num := 16 + n, sqHead := head, sqTail := tail })
                                             ovq := [⟨4, false, 9, 0⟩] } }

/-- That chip where every context's operation is in progress. -/
def allBusy : State :=
  { crowded 0 0 with ops := (List.range 256).map (fun n => { opOf nop3 .none with ctx := 16 + n })
                     rings := { (crowded 0 0).rings with ovq := [] } }

set_option maxRecDepth 20000 in
/-- R37, R67, R69: a save area whose host bytes are zero, one whose device bytes fail CHECK, a queue entry with every
place in use, doorbells to a loading context, to one that finds a place and to one that finds none. -/
theorem test_meets_refused_loads_and_queue :
    let z := withCtx (loadingCtx 3 [1] 1)
    let b : State := { loading3 with hostMem := memWriteAll loading3.hostMem (natWrites 0x640 4 1) }
    let q := crowded 0 0
    (findCtx z 3).map (fun x => x.loading) = some true ∧ hostPartOk z 3 = false ∧ z.canonical = true ∧ hostPartOk b 3 = true ∧
      devicePartZero b 3 = false ∧ checkOk b 3 = false ∧ q.rings.ovq.find? (entryReady q) = some ⟨4, false, 9, 0⟩ ∧
      placesUsed q = 256 ∧ (idleVictim q).map (fun v => v.num) = some 16 ∧ getA served Reg.ctxCount_count = 16 ∧
      getA served Reg.ringCtrl_enable = 1 ∧ findCtx served 15 = none ∧ served.rings.ovq.any (fun e => e.ctx == 15) = false ∧
      placesUsed served < 256 ∧ findCtx allBusy 15 = none ∧ (makePlace allBusy).isNone = true ∧
      allBusy.rings.ovq.any (fun e => e.ctx == 15) = false := by
  decide +kernel

set_option maxRecDepth 20000 in
/-- R42, R67: a save area that fails its check halts the context with code 0x07 in its completion ring. -/
theorem test_bad_check_halts :
    let b : State := { loading3 with hostMem := memWriteAll loading3.hostMem (natWrites 0x640 4 1) }
    let t := after (.contextLoadDone 3) b
    ((findCtx t 3).map (fun x => (x.halted, x.loading, x.cqTail)), memRead t.hostMem (0x20000 + 24)) = (some (true, false, 1), 7) := by
  decide +kernel

/-- R54, R505: the oldest descriptor of context 3 with a field of the chip's registers found split (fault record 4). -/
theorem test_meets_begin_split :
    let x : Ctx := { ctx3 with held := [⟨0, nop3⟩] }
    let a := fldAddr landABase Reg.audit_interval 0
    let s : State := { setA (withCtx x) Reg.audit_interval 1 with
      regs1 := (setA (withCtx x) Reg.audit_interval 2).regs, regs2 := (setA (withCtx x) Reg.audit_interval 4).regs
      tally := { (withCtx x).tally with splits := [(a, 4)] } }
    findCtx s 3 = some x ∧ eligible s x = some ⟨0, nop3⟩ ∧ parkedBefore s nop3 = false ∧ strictBefore s nop3 = false ∧
      findOp s 3 0 = none ∧ splitRecord s = some 4 ∧ dOpcode nop3 / 256 = 0x0F ∧ dOpcode nop3 ≠ 0x0F11 ∧ checkLevel nop3 ≠ 2 ∧
      splitRecord (withCtx x) = none ∧ strictBefore (withCtx x) nop3 = false ∧ findOp (withCtx x) 3 0 = none ∧
      tallyFound (withCtx x) nop3 = true ∧ tallyFound (withCtx x) (desc [(0, 0, 0x0F00), (0x04, 0, 9)]) = false := by
  decide +kernel

theorem test_meets_descriptor_end :
    let e : Op := { opOf nop3 .none with ended := some ⟨.done, 0⟩ }
    let s : State := { withCtx { ctx3 with reserved := 1 } with ops := [e] }
    let g : State := { up with time := { up.time with running := true, tai := 20000 }, rings := { up.rings with merged := [7], lastMsg := [(7, 10000)] } }
    s.canonical = true ∧ (findCtx s 3).isSome ∧ findOp s 3 5 = some e ∧ dTag nop3 = 0 ∧ e.work = .none ∧ e.writes = [] ∧
      e.side = sideNone ∧ endReady s e ⟨.done, 0⟩ = true ∧ opWaits s e = false ∧ getA s Reg.ctxCtrl_busy = 0 ∧
      g.rings.merged.contains 7 = true ∧ 10000 + getA g Reg.msixGap_us * 1000 ≤ g.time.tai := by
  decide +kernel

/-! ### Memory and time -/

/-- 256 MiB mapped. -/
def mapped : State := setD up Reg.hbmGranules_count 65536

/-- R19 at the range's end: the last byte is mapped, one more is not; R25, R27: a granule that is copied, a poisoned line. -/
theorem test_meets_host_memory :
    let d : List Byte := [1, 2, 3]
    let w : State := { mapped with hbm := { mapped.hbm with copying := [65535] } }
    let p : State := { mapped with hbm := { mapped.hbm with poison := [0] } }
    memWf mapped.mem = true ∧ cxlMapped mapped (2 ^ 28 - 3) d.length = true ∧ accessWaits mapped (2 ^ 28 - 3) 3 = false ∧
      poisonIn (after (.cxlMemWrite (2 ^ 28 - 3) d) mapped) (2 ^ 28 - 3) 3 = none ∧
      cxlMapped mapped (2 ^ 28 - 2) d.length = false ∧ cxlMapped w (2 ^ 28 - 3) 3 = true ∧ accessWaits w (2 ^ 28 - 3) 3 = true ∧
      cxlMapped p 63 2 = true ∧ accessWaits p 63 2 = false ∧ poisonIn p 63 2 = some 0 ∧
      w.hbm.copying.contains 65535 = true := by
  decide +kernel

/-- R570: a write crosses bytes that a read then answers, and one before bring-up's stage 7 has ended is not mapped. -/
theorem test_memory_reads_back :
    (after (.cxlMemRead 6 4 .ok) (after (.cxlMemWrite 7 [1, 2]) mapped)).readOut = ⟨[0, 1, 2, 0], false⟩ ∧
      cxlMapped State.reset 0 1 = false := by
  decide +kernel

/-- Ticks that run: tick 6 is due, 5 us each. -/
def ticking : State :=
  let s := setA up Reg.tickCtrl_run 1
  { s with time := { s.time with running := true, nextTick := 6, tai := 1500000 } }

theorem test_meets_tick : ticking.canonical = true ∧ ticksRun ticking = true ∧ getA ticking Reg.evdCtrl_every = 0 := by
  decide +kernel

/-- R353: the tick's number becomes TICK_NOW; PERIOD 5 is 250,000 ns. -/
theorem test_tick : (tickNow (after .tick ticking), (after .tick ticking).time.tai) = (6, 1500000) := by decide +kernel

theorem test_meets_tick_wait_and_stamp :
    let w := desc [(0, 0, 0x0F10), (0x20, 0, 6)]
    let t := desc [(0, 0, 0x0F11), (0x30, 0, 0x40)]
    let s : State := { (after .tick ticking) with ops := [opOf w .none] }
    (runningOp s 3 5 0x0F10).isSome ∧ getA s Reg.tickCtrl_run = 1 ∧ 6 ≤ tickNow s ∧
      tickNow { ticking with ops := [opOf w .none] } < 6 ∧ (runningOp (running t .none) 3 5 0x0F11).isSome ∧
      accessFault (running t .none) [⟨0x40, 32, 1, 32⟩] = none ∧ memWf (running t .none).mem = true := by
  decide +kernel

/-- A Lead with GNSS, two good seconds behind it, second 9 armed. -/
def lead : State :=
  let s := setB (setB up Reg.timeCtrl_lead 1) Reg.timeCtrl_gnssEn 1
  { s with time := { s.time with tai := 9000000040, gnss := ⟨9, true, 2, 0, 0⟩ } }

theorem test_meets_gnss :
    let l := setB lead Reg.timeStatus_state 2
    gnssUsed lead = true ∧ todOk (todMessage 10 true false) = true ∧ getB lead Reg.timeStatus_state ≠ 2 ∧ lead.canonical = true ∧
      lead.time.gnss.armed = true ∧ 2 ≤ lead.time.gnss.good ∧
      ((lead.time.tai : Int) - ((lead.time.gnss.lastSec * 1000000000 + getB lead Reg.gnssDelay_ns : Nat) : Int)).natAbs < 100 ∧
      gnssUsed up = false ∧ l.canonical = true ∧ gnssUsed l = true ∧ getB l Reg.timeStatus_state = 2 ∧
      1 ≤ ({ l with time := { l.time with gnss := { l.time.gnss with missedPps := 1 } } } : State).time.gnss.missedPps ∧
      ({ l with time := { l.time with gnss := { l.time.gnss with armed := false } } } : State).time.gnss.armed = false := by
  decide +kernel

/-- R345: the third good second in a row locks. -/
theorem test_gnss_locks : getB (after .gnssPpsEdge lead) Reg.timeStatus_state = 2 := by decide +kernel

/-- Links 0 and 1 UP and Near, toward chips 1 and 2 of this stand. -/
def linked : State :=
  setL (setL (setL (setL up Reg.linkState_state 0 2) Reg.linkPeer_chip 0 1) Reg.linkState_state 1 2) Reg.linkPeer_chip 1 2

/-- A follower whose parent is chip 1. -/
def follower : State :=
  { linked with chain := { linked.chain with neigh := [⟨0, 1, 0, 1, 1⟩] }, time := { linked.time with exch := some ⟨0, 1, 10, 20, 0, 1⟩ } }

theorem test_meets_following :
    let l := setB (setB up Reg.timeCtrl_lead 1) Reg.timeStatus_state 2
    let h := setB (setB up Reg.timeCtrl_lead 1) Reg.timeStatus_state 3
    let p := setB up Reg.timeStatus_state 4
    timeParent follower = some ⟨0, 1, 0, 1, 1⟩ ∧ follows follower = true ∧ follower.time.exch = some ⟨0, 1, 10, 20, 0, 1⟩ ∧
      follower.canonical = true ∧ activeLead l = some (0, 0) ∧ getB l Reg.timeStatus_state ≠ 5 ∧ l.canonical = true ∧
      activeLead h = none ∧ getB h Reg.timeStatus_activeLead = h.chip ∧ getB h Reg.timeStatus_state = 3 ∧
      getB h Reg.timeCtrl_lead = 1 ∧ h.canonical = true ∧ p.time.tai % 1000000000 = 0 ∧ getB p Reg.timeStatus_state = 4 := by
  decide +kernel

/-- R347: t1 10, t2 20, t3 25 and t4 31 give an offset of (10 - 6) / 2 = 2 ns. -/
theorem test_offset :
    getB (after (.timeFrame 0 6 1 25) { follower with time := { follower.time with tai := 31 } }) Reg.timeOffset_ns = 2 := by
  decide +kernel

/-- A schedule of one entry at 0x100: from 0 on, 1,000 ns, slot 1, group 0. -/
def slotted : State :=
  let s := withMem (natWrites 0x104 3 1000 ++ natWrites 0x108 2 1 ++ natWrites 0x10C 1 1)
    (setA (setA (setA ticking Reg.slotBase_baseLo 0x10) Reg.slotCtrl_count 1) Reg.slotCtrl_enable 1)
  { s with time := { s.time with tai := 1500999 } }

theorem test_meets_slot_windows :
    let o : State := { slotted with time := { slotted.time with windows := [0] } }
    ticksRun slotted = true ∧ getA slotted Reg.slotCtrl_enable = 1 ∧ 0 < getA slotted Reg.slotCtrl_count ∧
      slotted.time.windows.contains 0 = false ∧ (slotEntry slotted 0).start ≤ slotted.time.tai % tickPeriod slotted ∧
      slotted.time.tai % tickPeriod slotted < (slotEntry slotted 0).start + (slotEntry slotted 0).len ∧
      o.time.windows.contains 0 = true ∧ slotted.canonical = true := by
  decide +kernel

/-! ### Semaphores, barriers and the Chain network -/

theorem test_meets_semaphores :
    let a := desc [(0, 0, 0x0F20), (0x20, 0, 7), (0x28, 0, 4095)]
    let r := desc [(0, 0, 0x0F20), (0x2A, 0, 1)]
    let b := desc [(0, 0, 0x0F21)]
    let on (d : Desc) (s : State) : State := { s with ops := [opOf d .none] }
    let routed := setA (setA linked Reg.routeCtrl_enable 1) Reg.axis_len 2
    up.canonical = true ∧ 0x7FF8 % 8 = 0 ∧ 0x7FF8 < 0x8000 ∧ ¬ 0x8000 < 0x8000 ∧
      (runningOp (on a up) 3 5 0x0F20).isSome ∧ semTarget a = up.chip ∧
      (runningOp (on r routed) 3 5 0x0F20).isSome ∧ semTarget r ≠ routed.chip ∧
      targetFault routed (semTarget r) (0x3FF00000000 + semId r * 8) = none ∧
      targetFault (on r up) (semTarget r) (0x3FF00000000 + semId r * 8) = some (0x1A2, 0) ∧
      (runningOp (on b up) 3 5 0x0F21).isSome := by
  decide +kernel

/-- R402: an add wraps modulo 2^64. -/
theorem test_semaphore_wraps :
    let s := after (.semaphoreAdd 0x7FF8 8 (2 ^ 64 - 1)) up
    (semGet s 4095, semGet (after (.semaphoreAdd 0x7FF8 8 3) s) 4095) = (2 ^ 64 - 1, 2) := by
  decide +kernel

/-- R410: unit 2, valid, axes 0, generation 65535, and the operation of it. -/
def barred (arrived : Bool) : State :=
  { running (desc [(0, 0, 0x0F30), (0x28, 0, 2)]) .none with barriers := [(2, ⟨0, true, 65535, arrived⟩)] }

theorem test_meets_barrier :
    let s := setA (barred false) Reg.chainStatus_settled 1
    let n : State := { s with barriers := [] }
    (barred false).canonical = true ∧ (barrierGet s 63).arrived = false ∧ (barrierGet (barred true) 2).arrived = true ∧
      (runningOp s 3 5 0x0F30).isSome ∧ barUnit (opOf (desc [(0, 0, 0x0F30), (0x28, 0, 2)]) .none).d = 2 ∧
      (barrierGet n 2).valid = false ∧ (barrierGet s 2).valid = true ∧
      s.chain.insts.find? (isInst 2 (((barrierGet s 2).gen + 1) % 65536) 0) = none ∧ treeReady (barred false) 0 = false ∧
      treeReady s 0 = true ∧ treeKids s 0 = [] ∧ treeParent s 0 = none ∧ s.chip = 0 ∧
      barrierOp s 2 true = none ∧ (runningOp n 3 5 0x0F30).isSome := by
  decide +kernel

/-- R410, R411: a lone chip's barrier completes at once, and its generation counts. -/
theorem test_barrier_completes :
    let t := after (.barrier 3 5) (setA (barred false) Reg.chainStatus_settled 1)
    (barrierGet t 2).gen = 65536 ∧ (findOp t 3 5).map (fun o => o.ended) = some (some ⟨.done, 0⟩) := by
  decide +kernel

/-- Chip 5 with an unanswered contribution toward its parent, chip 1, which no UP link reaches. -/
def waitingInst : ChainInst := ⟨2, 1, 0, 0, some 7, [], true, none, 0⟩
def childChip : State :=
  let s := setL linked Reg.linkPeer_chip 0 9
  { s with chip := 5, chain := { s.chain with neigh := [⟨0, 1, 0, 1, 1⟩], insts := [waitingInst] } }

theorem test_meets_chain_frames :
    let root := linked
    let c := setA (setA childChip Reg.chainStatus_hops0 1) Reg.chainStatus_parent 1
    root.canonical = true ∧ treeUpdate root = root ∧ linkUp root 1 = true ∧ linkNear root 1 = true ∧ linkUp root 95 = false ∧
      childChip.canonical = true ∧ childChip.chain.insts.filter (fun y => y.sent && y.result.isNone) = [waitingInst] ∧
      instValue childChip waitingInst = some 7 ∧ treeParent childChip (chanAxes childChip 2) = some 1 ∧
      linkTo childChip 1 = none ∧ ownHops0 c ≠ 2047 ∧ ownHops0 c = getA c Reg.chainStatus_hops0 ∧
      ownParent c = getA c Reg.chainStatus_parent := by
  decide +kernel

theorem test_meets_reductions :
    let done : ChainInst := { waitingInst with result := some 9 }
    let d : State := { childChip with chain := { childChip.chain with insts := [done] } }
    (instGet d 0 2 1 0).result = some 9 ∧ (instGet childChip 2 66 1 0).result = none ∧
      childChip.chain.insts.find? (isInst 2 1 0) = some waitingInst ∧ waitingInst.result = none ∧
      d.chain.insts.find? (isInst 2 1 0) = some done := by
  decide +kernel

theorem test_meets_stand_fault :
    let a := setA { linked with ops := [opOf nop3 .none] } Reg.standCtrl_armed 1
    let q : State := { linked with chain := { linked.chain with faultSeen := true } }
    a.canonical = true ∧ getA a Reg.standCtrl_armed = 1 ∧ getA linked Reg.standCtrl_armed = 0 ∧ q.chain.faultSeen = true ∧
      linkCarries linked 1 = true ∧ linkCarries linked 2 = false ∧ linkCarries a 0 = true ∧ linkUp a 0 = true ∧
      linkNear a 0 = true := by
  decide +kernel

/-- R408: a stand fault ends the work of an armed chip with DEVICE_FAULT. -/
theorem test_stand_fault :
    let t := after (.linkSignalLoss 0) (setA { linked with ops := [opOf nop3 .none] } Reg.standCtrl_armed 1)
    (t.ops.map (fun o => o.ended.map (fun e => e.status)), getL t Reg.linkState_state 0, getL t Reg.linkState_cause 0,
      getA t Reg.standCtrl_fault) = ([some .deviceFault], 3, 1, 1) := by
  decide +kernel


/-- R24 to R26: reads that meet an error at the first byte past the read and at the range's last byte. -/
theorem test_meets_memory_errors :
    let p : State := { mapped with hbm := { mapped.hbm with poison := [0] } }
    let w : State := { mapped with hbm := { mapped.hbm with copying := [65535] } }
    mapped.canonical = true ∧ p.canonical = true ∧ cxlMapped mapped 0 64 = true ∧ accessWaits mapped 0 64 = false ∧
      poisonIn mapped 0 64 = none ∧ 2 ^ 28 - 1 < capacity mapped ∧ sparseGet 0 ((2 ^ 28 - 1) / 4096) mapped.hbm.corrected + 1 ≠ 8 ∧
      cxlMapped w (2 ^ 28 - 3) [1, 2, 3].length = true ∧ accessWaits w (2 ^ 28 - 3) [1, 2, 3].length = true := by
  decide +kernel

/-- R31: tick 6 is one that a dump of every second tick takes, and ticks do not run after bring-up alone. -/
theorem test_meets_tick_dump :
    let s := setA (setA ticking Reg.evdCtrl_every 2) Reg.evdCtrl_cap 1
    s.canonical = true ∧ ticksRun s = true ∧ getA s Reg.evdCtrl_every ≠ 0 ∧ getA s Reg.evdCtrl_cap ≠ 0 ∧
      s.time.nextTick % getA s Reg.evdCtrl_every = 0 ∧ getA ticking Reg.evdCtrl_cap = 0 ∧ ticksRun up = false ∧
      getA (running (desc [(0, 0, 0x0F10)]) .none) Reg.tickCtrl_run = 0 ∧
      (runningOp (running (desc [(0, 0, 0x0F10)]) .none) 3 5 0x0F10).isSome := by
  decide +kernel

/-- R362: a TIME_STAMP that may begin, one with its bytes fixed, also at CHECK 2, and one whose region is not mapped. -/
theorem test_meets_stamp :
    let t := desc [(0, 0, 0x0F11), (0x10, 0, 3), (0x30, 0, 0x40)]
    let t2 := desc [(0, 0, 0x0F11), (0x02, 2, 2), (0x30, 0, 0x40)]
    let x : Ctx := { ctx3 with held := [⟨0, t⟩] }
    let s := withCtx x
    let bs : List Byte := List.replicate 32 1
    let r := running t (.stamp bs)
    let v := running (desc [(0, 0, 0x0F11), (0x30, 0, 2 ^ 28)]) (.stamp bs)
    findCtx s 3 = some x ∧ eligible s x = some ⟨0, t⟩ ∧ parkedBefore s t = false ∧ strictBefore s t = false ∧ splitRecord s = none ∧
      dOpcode t = 0x0F11 ∧ tallyFound s t = true ∧ findOp s 3 0 = none ∧ checkLevel t ≠ 2 ∧ memWf r.mem = true ∧
      runningOp r 3 5 0x0F11 = some (opOf t (.stamp bs)) ∧ bs.length = 32 ∧ accessFault r [⟨0x40, 0, 1, 32⟩] = none ∧
      outFault r t [⟨0x40, 0, 1, 32⟩] = none ∧ checkLevel t2 = 2 ∧ outFault r t2 [⟨0x40, 0, 1, 32⟩] = none ∧
      (runningOp (running t2 (.stamp bs)) 3 5 0x0F11).isSome ∧ (runningOp v 3 5 0x0F11).isSome ∧
      accessFault v [⟨2 ^ 28, 0, 1, 32⟩] = some (0x08, 2 ^ 28) := by
  decide +kernel

/-- R343, R346: the next second in lock, a bad message, an edge with no message, a measure just below and just above the
limit of 100 ns. -/
theorem test_meets_gnss_bounds :
    let l := setB lead Reg.timeStatus_state 2
    let at_ (tai : Nat) : State := { lead with time := { lead.time with tai := tai } }
    let off (s : State) : Int := (s.time.tai : Int) - ((s.time.gnss.lastSec * 1000000000 + getB s Reg.gnssDelay_ns : Nat) : Int)
    todOk (todMessage 10 true false) = true ∧ leNat (((todMessage 10 true false).drop 3).take 6) = l.time.gnss.lastSec + 1 ∧
      todOk (zeroes 12) = false ∧ (off (at_ 9000000099)).natAbs < 100 ∧ (at_ 9000000099).canonical = true ∧
      gnssUsed (at_ 9000000100) = true ∧ (at_ 9000000100).time.gnss.armed = true ∧ getB (at_ 9000000100) Reg.timeStatus_state ≤ 1 ∧
      getA (at_ 9000000100) Reg.tickCtrl_run = 0 ∧ 99 < (off (at_ 9000000100)).natAbs ∧ otherLeads (at_ 9000000100) = false ∧
      (at_ 9000000100).canonical = true ∧ gnssUsed ({ lead with time := { lead.time with gnss := { lead.time.gnss with armed := false } } } : State) = true ∧
      l.time.gnss.missedPps = 0 ∧ l.time.gnss.missedTod = 0 ∧
      1 ≤ ({ l with time := { l.time with gnss := { l.time.gnss with missedTod := 1 } } } : State).time.gnss.missedTod := by
  decide +kernel

/-- R347, R351: the second frame of an exchange, and the third at the bound of 1,000 ns; the marks of PPS_OUT. -/
theorem test_meets_exchange_bounds :
    let x : TimeExch := ⟨0, 1, 10, 20, 1, 1⟩
    let f (tai : Nat) : State := { follower with time := { follower.time with exch := some x, tai := tai } }
    let off (s : State) (stamp : Nat) : Int := Int.tdiv (((x.t2 : Int) - x.t1) - ((s.time.tai : Int) - stamp)) 2
    let h := setB up Reg.timeStatus_state 5
    let p := setB { up with time := { up.time with tai := 1500000000 } } Reg.timeStatus_state 2
    (f 0).time.exch = some x ∧ x.link = 0 ∧ x.seq = 1 ∧ x.stage = 1 ∧ (f 0).canonical = true ∧ getA (f 0) Reg.tickCtrl_run = 0 ∧
      1000 < (off (f 0) 1992).natAbs ∧ (off (f 0) 1990).natAbs ≤ 1000 ∧ follows (f 0) = true ∧ getB (f 0) Reg.timeStatus_state ≠ 2 ∧
      follows h = false ∧ ({ h with time := (f 0).time } : State).canonical = true ∧ activeLead (setB (setB up Reg.timeCtrl_lead 1) Reg.timeStatus_state 2) = some (0, 0) ∧
      getB p Reg.timeStatus_state = 2 ∧ p.time.tai % 1000000000 = 500000000 ∧ getB up Reg.timeStatus_state < 2 ∧
      4 < getB h Reg.timeStatus_state := by
  decide +kernel

/-- R410: a unit whose operation has arrived. -/
theorem test_meets_barrier_arrived :
    let s := setA (barred true) Reg.chainStatus_settled 1
    let n := barred false
    s.canonical = true ∧ (runningOp s 3 5 0x0F30).isSome ∧ (barrierGet s 2).valid = true ∧ (barrierGet s 2).arrived = true ∧
      (barrierGet n 2).valid = true ∧ (barrierGet n 2).arrived = false ∧ treeReady n (barrierGet n 2).axes = false ∧
      n.chain.insts.find? (isInst 2 (((barrierGet n 2).gen + 1) % 65536) 0) = none ∧ barrierOp n 2 false = none ∧
      (runningOp n 3 5 0x0F30).isSome := by
  decide +kernel

/-- R404, R407: two ms and 1 ms, as they are reached and one ns before. -/
theorem test_meets_chain_times :
    let c (tai : Nat) : State := { childChip with time := { childChip.time with running := true, tai := tai } }
    let settled (tai : Nat) : State :=
      let s := setA (setA childChip Reg.chainStatus_hops0 1) Reg.chainStatus_parent 1
      { s with time := { s.time with running := true, tai := tai }, chain := { s.chain with insts := [] } }
    passed (c 1999) waitingInst.sentAt 2000 = false ∧ (c 1999).chain.insts = [waitingInst] ∧ passed (c 2000) waitingInst.sentAt 2000 = true ∧
      (c 2000).canonical = true ∧ (c 2000).chain.insts.filter (fun y => y.sent && y.result.isNone && passed (c 2000) y.sentAt 2000) = [waitingInst] ∧
      instValue (c 2000) waitingInst = some 7 ∧ passed (settled 1000000) (settled 1000000).chain.changedAt 1000000 = true ∧
      passed (settled 999999) (settled 999999).chain.changedAt 1000000 = false ∧ ownHops0 (settled 0) ≠ 2047 ∧
      ownHops0 (settled 0) = getA (settled 0) Reg.chainStatus_hops0 ∧ ownParent (settled 0) = getA (settled 0) Reg.chainStatus_parent ∧
      (settled 1000000).canonical = true ∧ (settled 1000000).ops = [] ∧ (settled 1000000).chain.insts = [] := by
  decide +kernel

/-- R403: a linked chip 5 whose link 0 leads to its parent, chip 1. -/
theorem test_meets_chain_parent_link :
    let s : State := { linked with chip := 5, chain := { linked.chain with neigh := [⟨0, 1, 0, 1, 1⟩], insts := [waitingInst] } }
    s.canonical = true ∧ treeParent s (chanAxes s 2) = some 1 ∧ linkTo s 1 = some 0 ∧ instValue s waitingInst = some 7 ∧
      s.chain.insts.filter (fun y => y.sent && y.result.isNone && passed s y.sentAt 2000) = [waitingInst] := by
  decide +kernel

/-- R405, R406: the root, chip 0, whose own value is there: its first missing value arrives. -/
theorem test_meets_root :
    let x : ChainInst := ⟨66, 1, 0, 2, some 3, [], false, none, 0⟩
    let s : State := setA { linked with chain := { linked.chain with insts := [x] } } Reg.chainStatus_settled 1
    let y : ChainInst := { x with kids := [(1, 9)] }
    (instGet s 2 66 1 0) = x ∧ x.result = none ∧ x.sent = false ∧ getL s Reg.linkPeer_chip 0 = 1 ∧ treeReady s (chanAxes s 66) = true ∧
      instValue s y = some 3 ∧ treeParent s (chanAxes s 66) = none ∧ s.chip = 0 ∧ treeReady linked (chanAxes linked 66) = false ∧
      (instGet linked 2 66 1 0).result = none ∧ linked.chain.insts.find? (isInst 66 1 0) = none ∧ linked.ops = [] ∧ linked.barriers = [] := by
  decide +kernel

/-- R388: 100 us without a frame, as they are reached and one ns before. -/
theorem test_meets_link_silence :
    let s (tai : Nat) : State := { linked with time := { linked.time with running := true, tai := tai } }
    (s 100000).canonical = true ∧ linkCarries (s 100000) 1 = true ∧ getA (s 100000) Reg.standCtrl_armed = 0 ∧
      passed (s 100000) (linkGet (s 100000) 1).heard 100000 = true ∧ passed (s 99999) (linkGet (s 99999) 1).heard 100000 = false ∧
      linked.chain.faultSeen = false ∧ linkUp linked 1 = true ∧ linkNear linked 1 = true := by
  decide +kernel

/-! ### Links and Far sessions -/

/-- A data frame with every field at its bound. -/
def fullFrame : Frame := ⟨1, 2 ^ 24 - 1, 2 ^ 24 - 1, true, true, 512, false, 255, 255, 65535, 63, 1023, [7]⟩

theorem test_meets_frames_and_seals :
    let k : KeySlot := ⟨List.replicate 32 255, List.replicate 32 1, 63, 255, 2 ^ 64 - 1⟩
    frameFits fullFrame ∧ fullFrame.type = 1 ∧ frameFits { fullFrame with type := 0 } ∧ chainFits (.announce 3 7 2047 2047 65535 65535 65535) ∧
      chainFits (.time 6 4095 (2 ^ 64 - 1)) ∧ k.kEnc.length = 32 ∧ k.kMac.length = 32 ∧ k.nonce < 2 ^ 64 ∧ k.epoch < 2 ^ 8 ∧
      1 ≤ 1 ∧ 0 < (List.replicate 488 (0 : Byte)).length ∧ (List.replicate 488 (0 : Byte)).length ≤ 488 := by
  simp only [frameFits, chainFits]; decide +kernel

/-- A message to chip 1. -/
def msgA : TxMsg := ⟨2, 1, 0, none, 0, [], ⟨0, 3, 5, .ack⟩⟩

/-- Axis 0 has two chips, PLUS group 0; link 1 is the one that a message of chip 0 takes (R397). -/
def sending : State :=
  let s := setA (setA (setA (setA linked Reg.routeCtrl_enable 1) Reg.axis_len 2) Reg.axis_plus 1) Reg.axisCtrl_enable 1
  { s with txq := [msgA] }

/-- Group 0 in Far mode, links 0 to 7 UP, session 9 on it with a frame not acknowledged. -/
def kept7 : KeptFrame := ⟨7, [], 0, ⟨0, 0, 0, .ack⟩⟩
def farUp (k : Nat) : State :=
  let s := (List.range 8).foldl (fun t n => setL t Reg.linkState_state n 2) (setG up Reg.groupCtrl_mode 0 1)
  { sessPut (sessPut (sessPut s Reg.far_valid k 1) Reg.far_route k 1) Reg.far_primary k 0 with
    far := [(k, { farIdle with num := { farIdle.num with retry := [kept7] } })] }

theorem test_meets_frame_slot :
    sending.canonical = true ∧ linkCarries sending 1 = true ∧ linkNear sending 1 = true ∧ linkUp sending 1 = true ∧
      nextResend (linkGet sending 1).num = none ∧ (linkGet sending 1).num.retry.length < 256 ∧
      nextTx sending 1 = some 0 ∧ sending.txq[0]? = some msgA ∧ nextTx linked 0 = none ∧
      (farUp 9).canonical = true ∧ linkCarries (farUp 9) 0 = true ∧ linkNear (farUp 9) 0 = false ∧
      sessOn (farUp 9) 0 8 = false ∧ sessOn (farUp 9) 0 9 = true ∧ sessEnc (farUp 9) 9 = false ∧
      nextResend (farGet (farUp 9) 9).num = none ∧ (farUp 9).txq.findIdx? (fun m => m.far == some 9) = none := by
  decide +kernel

/-- R374: the frame that leaves carries the link's next SEQ, and the link counts on. -/
theorem test_frame_slot :
    let t := after (.frameSlot 1 0) { sending with links := [(1, { linkIdle with num := { linkIdle.num with nextSeq := 2 ^ 24 - 1 } })] }
    ((frameOf t.sent.2).seq, (frameOf t.sent.2).type, (linkGet t 1).num.nextSeq, t.txq.length) = (2 ^ 24 - 1, 1, 0, 0) := by
  decide +kernel

set_option maxRecDepth 20000 in
theorem test_meets_frame_receive :
    let f : Frame := ⟨1, 0, 0, false, false, 8, false, 0, 2, 0, 0, 0, []⟩
    let x : State := { linked with links := [(0, { linkIdle with num := { linkIdle.num with ack := 2 ^ 24 - 1 } })] }
    let bad : List Byte := List.replicate 544 3
    x.canonical = true ∧ linkCarries x 0 = true ∧ linkNear x 0 = true ∧ linkUp x 0 = true ∧ f.type = 1 ∧ f.enc = false ∧
      f.stand = x.stand ∧ f.chip = x.chip ∧ (linkGet x 0).num.held = [] ∧ (linkGet x 0).num.ack < 2 ^ 24 ∧
      f.seq = ((linkGet x 0).num.ack + 1) % 2 ^ 24 ∧ ({ f with seq := 2 ^ 24 - 1 } : Frame).seq = (linkGet x 0).num.ack % 2 ^ 24 ∧
      chainCrcOk bad = false ∧ frameCrcOk bad = false := by
  decide +kernel

theorem test_meets_retransmit_and_routes :
    let n : State := { linked with links := [(1, { linkIdle with num := { linkIdle.num with retry := [kept7] } })] }
    let b := sessPut (farUp 63) Reg.far_secondary 63 0
    let c := sessPut (farUp 63) Reg.far_secondary 63 2
    let r := sessPut (farUp 63) Reg.far_route 63 2
    n.canonical = true ∧ linkUp n 1 = true ∧ linkNear n 1 = true ∧ (linkGet n 1).num.retry = [kept7] ∧
      (linkGet n 1).num.peerHold = false ∧ (linkGet n 1).num.resendq.contains 7 = false ∧ (linkGet n 1).num.held = [] ∧
      (farUp 63).canonical = true ∧ sessF (farUp 63) Reg.far_route 63 ≠ 0 ∧ (farGet (farUp 63) 63).num.retry = [kept7] ∧
      (farGet (farUp 63) 63).num.peerHold = false ∧ (farGet (farUp 63) 63).num.resendq.contains 7 = false ∧
      (farGet (farUp 63) 63).num.held = [] ∧
      sessF b Reg.far_route 63 = 1 ∧ groupRouteUp b (sessF b Reg.far_secondary 63) = true ∧
      groupRouteUp c (sessF c Reg.far_secondary 63) = false ∧ sessF c Reg.far_route 63 = 1 ∧
      sessF r Reg.far_route 63 = 2 ∧ groupRouteUp r (sessF r Reg.far_primary 63) = true := by
  decide +kernel

theorem test_meets_training :
    let s := setL up Reg.linkState_state 95 1
    let m := setL sending Reg.linkState_state 0 1
    let good := after (.linkTrainingDone 0 true false 1 8 0 0 100) m
    let wrong := after (.linkTrainingDone 0 true false 5 8 0 0 100) m
    s.canonical = true ∧ getL s Reg.linkState_state 95 = 1 ∧ getL s Reg.linkState_state 94 ≠ 1 ∧
      getG s Reg.groupCtrl_mode (95 / 8) = 0 ∧ m.canonical = true ∧ getL m Reg.linkState_state 0 = 1 ∧
      (linkNear m 0 && linkMiswired good 0) = false ∧ linkNear m 0 = true ∧ linkMiswired wrong 0 = true := by
  decide +kernel


/-- A frame sent 14 times again, and one sent 15 times again. -/
def kept (n : Nat) : KeptFrame := ⟨7, zeroes 544, n, ⟨0, 0, 0, .ack⟩⟩
def resending (n : Nat) : State :=
  { linked with links := [(1, { linkIdle with num := { linkIdle.num with retry := [kept n], resendq := [7] } })] }

/-- Session 9 with a message to send, also under CUR in key slot 200. -/
def farMsg : State := { farUp 9 with txq := [{ msgA with far := some 9 }], far := [] }
def sealing : State :=
  { sessPut (sessPut (sessPut farMsg Reg.sess_encrypt 9 1) Reg.sess_hasCur 9 1) Reg.sess_curSlot 9 200 with
    keys := [(200, ⟨List.replicate 32 0, List.replicate 32 0, 9, 0, 2 ^ 48 - 2⟩)] }

theorem test_meets_resends_and_far_data :
    nextResend (linkGet (resending 14) 1).num = some (kept 14) ∧ (kept 14).resends < 15 ∧ (resending 14).canonical = true ∧
      nextResend (linkGet (resending 15) 1).num = some (kept 15) ∧ getA (resending 15) Reg.standCtrl_armed = 0 ∧
      linkUp (resending 15) 1 = true ∧ linkNear (resending 15) 1 = true ∧ linkCarries (resending 15) 1 = true ∧
      farMsg.canonical = true ∧ linkCarries farMsg 0 = true ∧ linkNear farMsg 0 = false ∧ sessOn farMsg 0 9 = true ∧
      nextResend (farGet farMsg 9).num = none ∧ groupKept farMsg 0 < 524288 ∧
      farMsg.txq.findIdx? (fun m => m.far == some 9) = some 0 ∧ sessEnc farMsg 9 = false ∧ sealing.canonical = true ∧
      linkCarries sealing 0 = true ∧ linkNear sealing 0 = false ∧ sessOn sealing 0 9 = true ∧ sessEnc sealing 9 = true ∧
      nextResend (farGet sealing 9).num = none ∧ groupKept sealing 0 < 524288 ∧ sessF sealing Reg.sess_hasCur 9 = 1 ∧
      kerfStalled sealing = false ∧ (keyGet sealing (sessF sealing Reg.sess_curSlot 9)).map (fun k => decide (k.nonce + 1 < 2 ^ 48)) = some true := by
  decide +kernel

/-- R377: the sixteenth re-send of a frame fails the link. -/
theorem test_sixteenth_resend :
    ([14, 15].map (fun n => getL (after (.frameSlot 1 0) (resending n)) Reg.linkState_state 1)) = [2, 3] := by
  decide +kernel

set_option maxRecDepth 20000 in
theorem test_meets_far_receive :
    let f : Frame := ⟨1, 1, 0, false, false, 8, false, 0, 2, 0, 0, 9, []⟩
    let s := farUp 9
    s.canonical = true ∧ linkCarries s 0 = true ∧ linkNear s 0 = false ∧ f.session < 64 ∧ sessF s Reg.far_valid f.session = 1 ∧
      sessEnc s f.session = false ∧ sessF s Reg.sess_authHalt f.session = 0 ∧ (farGet s f.session).num.held = [] ∧
      (farGet s f.session).num.ack < 2 ^ 24 ∧ f.seq = ((farGet s f.session).num.ack + 1) % 2 ^ 24 ∧ f.type = 1 ∧ f.enc = false ∧
      linkCarries up 0 = false := by
  decide +kernel

/-- R377, R382, R383: the limits of time as they are reached and one ns before. -/
theorem test_meets_link_times :
    let on (x : SeqState) (tai : Nat) : State :=
      { linked with links := [(1, { linkIdle with num := x })], time := { linked.time with running := true, tai := tai } }
    let r := nearRetry linked 1
    let x : SeqState := { seqIdle with retry := [kept7] }
    let g : SeqState := { seqIdle with held := [kept7] }
    let f (tai : Nat) (route : Nat) : State :=
      { sessPut (farUp 63) Reg.far_route 63 route with time := { up.time with running := true, tai := tai } }
    passed (on x r) x.sentAt (nearRetry (on x r) 1) = true ∧ (on x r).canonical = true ∧ passed (on g r) g.tookAt (nearRetry (on g r) 1) = true ∧
      (on g r).canonical = true ∧ (linkGet (on g r) 1).num.retry = [] ∧ (linkGet (on g r) 1).num.held ≠ [] ∧
      passed (f (2 ^ 40) 1) (farGet (f (2 ^ 40) 1) 63).num.sentAt (farRetry (f (2 ^ 40) 1) 63) = true ∧
      passed (f 1000000 1) (farGet (f 1000000 1) 63).heard 1000000 = true ∧ passed (f 999999 1) (farGet (f 999999 1) 63).heard 1000000 = false ∧
      passed (f 1000000000 2) (farGet (f 1000000000 2) 63).since 1000000000 = true ∧ sessF (f 1000000 2) Reg.far_route 63 = 2 ∧
      sessF (f 1000000 0) Reg.far_route 63 = 0 ∧ sessF (f 1000000 0) Reg.far_valid 63 = 1 ∧ (f 1000000 0).canonical = true ∧
      groupRouteUp (f 1000000 0) (sessF (f 1000000 0) Reg.far_primary 63) = true := by
  decide +kernel

theorem test_meets_training_modes :
    let s := setL up Reg.linkState_state 95 1
    (∀ k, k < 96 → k ≠ 95 → getL s Reg.linkState_state k ≠ 1) ∧ 1 ≠ getG s Reg.groupCtrl_mode (95 / 8) ∧
      (true && fastLink s 95) = false ∧ s.canonical = true := by
  decide +kernel

/-! ### Registers -/

/-- What the statement about REGISTER_WRITE asks of a word whose write is taken as it stands. -/
def plainWord (s : State) (b : Blk) (r : Nat) : Bool :=
  s.takesWrites b && blkOf (blkBase b + r) == some (b, r) && decide (r < 0x4000) && r % 4 == 0 && wordVals b r 0 != [] &&
    !isLow b r && !isHigh b r && !(wideWords b).contains r && !isPosted b r && !ownBusy s b r &&
    decide (devBase ≤ blkBase b + r)

/-- A word of each kind of block, with its aliases; a Cell block that is busy, asleep,
and a hole between blocks. -/
theorem test_meets_registers :
    let q : State := { up with posted := [⟨cellBase 127 + 0x10, 1⟩] }
    let z := setD up Reg.dieReady_mills 7
    hostLive up = true ∧ plainWord up .landA 0x1750 = true ∧ plainWord up (.cell 127) 0x3FF0 = true ∧ plainWord up .landB 0x1C10 = true ∧
      blkOf (landABase + 0x1750 + 3 * 0x4000) = some (.landA, 0x1750 + 3 * 0x4000) ∧
      blkOf (blkBase (.cell 127) + 0x3FFC) = some (.cell 127, 0x3FFC) ∧ dieAwake q (.cell 127) = true ∧
      accessOk 0x3FFC 4 = true ∧ blkBusy q (.cell 127) = true ∧ accessOk 0x3FFC 8 = false ∧ dieAwake z (.cell 127) = false ∧
      blkOf (devBase + 0x10000) = none ∧ inPages 0x10000 = false ∧
      blkOf (landBBase + 0x3FFC + 3 * 0x4000) = some (.landB, 0xFFFC) ∧ landBBase + 0xFFFC - devBase < 2 ^ 32 := by
  decide +kernel

/-- R523: alias 1 sets bits, alias 2 clears them, alias 3 turns them over; the field is OMA_CTRL.OVERDUE_US, 100 after
reset. -/
theorem test_aliases :
    let x := landABase + Reg.omaCtrl_overdueUs.off - devBase
    let f := fun (how v : Nat) => getA (after (.aliasWrite 0 (x + how * 0x4000) 4 v) up) Reg.omaCtrl_overdueUs
    (f 1 3, f 2 4, f 3 5) = (103, 96, 97) := by
  decide +kernel

theorem test_meets_fields :
    Reg.omaCtrl_overdueUs ∈ blkFields .landA ∧ Reg.axis_len ∈ blkFields .landA ∧ 5 < Reg.axis_len.copies ∧
      (Reg.axis_len, 5) ≠ (Reg.axis_len, 4) ∧ up.canonical = true := by
  decide +kernel

/-- A halted context 8191 with nothing held. -/
def haltedCtx : State := withCtx { ctx3 with num := 8191, sqHead := 2 ^ 32 - 2, sqTail := 1, halted := true }

theorem test_meets_ring_registers :
    let s := setA haltedCtx Reg.ctxNewHead_head 1
    let e := setA (setA up Reg.sclBase_baseLo 0) Reg.sclBase_baseHi 0
    s.canonical = true ∧ s.takesWrites .landA = true ∧ getA s Reg.ctxCtrl_busy = 0 ∧ (findCtx s 8191).isSome ∧
      (findCtx s 8191).map (fun x => (x.halted, x.loading)) = some (true, false) ∧
      (findCtx s 8191).map (fun x => decide ((getA s Reg.ctxNewHead_head + 2 ^ 32 - oldestUnbegun x) % 2 ^ 32 ≤
        (x.sqTail + 2 ^ 32 - oldestUnbegun x) % 2 ^ 32)) = some true ∧ ctxBusy s 8191 = false ∧
      getA served Reg.ringCtrl_enable = 1 ∧ served.canonical = true ∧ served.takesWrites .landA = true ∧
      (List.range (sclCount (setA e Reg.sclCtrl_count 0))).find? (sclEntryBad e []) = none ∧
      (List.range (sclCount (setA e Reg.sclCtrl_count 1))).find? (sclEntryBad (setA e Reg.sclCtrl_count 1) []) = some 0 := by
  decide +kernel

/-- R74: a resume at the head drops what was held. -/
theorem test_resume_at_head :
    let t := after (.ctxResumeAtHead 8191) (setA haltedCtx Reg.ctxNewHead_head (2 ^ 32 - 1))
    (findCtx t 8191).map (fun x => (x.halted, x.sqHead, x.sqTail)) = some (false, 2 ^ 32 - 1, 1) := by
  decide +kernel

theorem test_meets_time_registers :
    let c := setA ticking Reg.tickCtrl_run 1
    let a1 := setA up Reg.axis_cut 1
    let ps := setF up landABase Reg.pan_enable 15 1
    let f := setB up Reg.timeCtrl_lead 1
    up.canonical = true ∧ up.takesWrites .landA = true ∧ up.takesWrites .landB = true ∧ getA up Reg.tickCtrl_run = 0 ∧
      (2 ^ 31 + 200) / 2 ^ 31 % 2 = 1 ∧ (2 ^ 31 + 200) % 2 ^ 8 = 200 ∧ getA c Reg.tickCtrl_run = 1 ∧ c.takesWrites .landA = true ∧
      c.canonical = true ∧ getA up Reg.axisCtrl_enable = 0 ∧ axisFault up = none ∧ a1.canonical = true ∧
      a1.takesWrites .landA = true ∧ getA a1 Reg.axisCtrl_enable = 0 ∧ axisFault a1 = some 0 ∧
      panF up Reg.pan_enable 15 = 0 ∧ ps.canonical = true ∧ panF ps Reg.pan_enable 15 = 1 ∧ ps.takesWrites .landA = true ∧
      timeSetOk f = true ∧ f.canonical = true ∧ f.takesWrites .landB = true ∧ timeSetOk up = false := by
  decide +kernel

/-- R354: PERIOD is written with RUN, and the next tick is the first boundary after the present time. -/
theorem test_run :
    let t := after (.tickRunWrite (2 ^ 31 + 2)) { up with time := { up.time with tai := 250000 } }
    (getA t Reg.tickCtrl_period, getA t Reg.tickCtrl_run, t.time.nextTick) = (2, 1, 3) := by
  decide +kernel

theorem test_meets_link_registers :
    let e := setL up Reg.linkCtrl_enable 95 1
    let d := setL e Reg.linkState_state 95 2
    let four := (List.range 4).foldl (fun t g => setG t Reg.groupCtrl_mode (2 * g) 1) up
    let ready := setA up Reg.standCtrl_topoDone 1
    let v := sessPut up Reg.far_valid 63 1
    let f := setG (sessPut up Reg.far_secondary 63 15) Reg.groupCtrl_mode 0 1
    d.canonical = true ∧ d.takesWrites (landBlk (decide (95 < 48))) = true ∧ getL up Reg.linkState_state 95 = 0 ∧
      getL d Reg.linkState_state 95 ≠ 0 ∧ up.takesWrites (landBlk (decide (11 < 6))) = true ∧ groupIdle e 11 = false ∧
      e.takesWrites (landBlk (decide (11 < 6))) = true ∧ groupIdle up 11 = true ∧ groupFifth up 11 1 = false ∧
      four.canonical = true ∧ groupIdle four 11 = true ∧ groupFifth four 11 1 = true ∧ groupFifth four 11 0 = false ∧
      armReady up = false ∧ armReady ready = true ∧ ready.canonical = true ∧ ready.takesWrites .landA = true ∧
      sessF v Reg.far_valid 63 = 1 ∧ v.canonical = true ∧ sessF f Reg.far_valid 63 = 0 ∧
      sessGroupsOk f 63 = true ∧ sessGroupsOk up 63 = false ∧ f.canonical = true := by
  decide +kernel

/-- Key slot 255 holds a key of session 63, epoch 1, next to slot 0's epoch 0 in use. -/
def keyed : State :=
  { sessPut (sessPut up Reg.sess_hasCur 63 1) Reg.sess_curSlot 63 0 with
    keys := [(0, ⟨[], [], 63, 0, 0⟩), (255, ⟨[], [], 63, 1, 0⟩)] }

/-- R429: an import message for slot 9: MAGIC, version, kind, slot, SEQ 5, session 1. -/
def keyMsg : List Byte :=
  leBytes 4 0x4B52464B ++ [1, 1, 9, 0] ++ leBytes 8 5 ++ [1, 7] ++ List.replicate 14 0 ++ List.replicate 32 3 ++ List.replicate 32 4 ++
    List.replicate 32 0

theorem test_meets_keys :
    let b := setA (setA up Reg.keyImport_busy 1) Reg.keyImport_slot 9
    let live := sessPut keyed Reg.sess_prevLive 63 1
    let halt := sessPut keyed Reg.sess_authHalt 63 1
    keyed.canonical = true ∧ keyed.takesWrites .landA = true ∧ getA keyed Reg.keyImport_busy = 0 ∧ (2 ^ 8 + 255) / 2 ^ 8 % 2 = 1 ∧
      slotInUse keyed 255 = false ∧ slotInUse keyed 0 = true ∧ (∀ k, k < 64 → (farGet keyed k).stalled = []) ∧
      stageOk keyed 63 255 = true ∧ stageOk keyed 63 0 = false ∧ (keyGet keyed 255).isSome ∧
      sessF keyed Reg.sess_prevLive 63 = 0 ∧ sessF keyed Reg.sess_hasCur 63 = 1 ∧
      sessF live Reg.sess_prevLive 63 = 1 ∧ live.canonical = true ∧ stageOk live 63 255 = true ∧ live.takesWrites .landA = true ∧
      sessF halt Reg.sess_authHalt 63 = 1 ∧ stageOk halt 63 255 = true ∧ halt.canonical = true ∧ halt.takesWrites .landA = true ∧
      getA b Reg.keyImport_busy = 1 ∧ b.canonical = true ∧ keyResult b true true keyMsg (getA b Reg.keyImport_slot) = 0 ∧
      keyResult b true true [] (getA b Reg.keyImport_slot) ≠ 0 ∧
      sessF live Reg.sess_rollPending 63 = 0 ∧ (farGet live 63).num.retry = [] := by
  decide +kernel

/-- R430: the checks in their order. -/
theorem test_key_checks :
    let s := setA up Reg.keySeq_seqLo 5
    (keyResult up false true keyMsg 9, keyResult up true false keyMsg 9, keyResult up true true (keyMsg.set 3 0) 9,
      keyResult up true true keyMsg 8, keyResult { up with keys := [(9, ⟨[], [], 0, 0, 0⟩)] } true true keyMsg 9,
      keyResult s true true keyMsg 9) = (1, 2, 3, 4, 5, 6) := by
  decide +kernel


/-- Context 3's save area, halted with nothing held, and the chip does not track it. -/
def spilled3 : State :=
  let s := setA { loading3 with rings := served.rings } Reg.ringCtrl_enable 1
  writeSave s { ctx3 with sqTail := 2 } 5

set_option maxRecDepth 20000 in
theorem test_meets_ring_register_forms :
    let b : State := { haltedCtx with ops := [{ opOf nop3 .none with ctx := 8191 }] }
    let o := setA haltedCtx Reg.ctxNewHead_head 2
    let r := withCtx ctx3
    let past := (findCtx o 8191).map (fun x => decide ((getA o Reg.ctxNewHead_head + 2 ^ 32 - oldestUnbegun x) % 2 ^ 32 ≤
      (x.sqTail + 2 ^ 32 - oldestUnbegun x) % 2 ^ 32))
    b.canonical = true ∧ b.takesWrites .landA = true ∧ ctxBusy b 8191 = true ∧ getA b Reg.ctxCtrl_busy = 0 ∧ (findCtx b 8191).isSome ∧
      past = some false ∧ o.canonical = true ∧ r.canonical = true ∧ (findCtx r 3).map (fun x => (x.halted, x.loading, x.spilling)) = some (false, false, 0) ∧
      spilled3.canonical = true ∧ spilled3.takesWrites .landA = true ∧ getA spilled3 Reg.ctxCtrl_busy = 0 ∧ findCtx spilled3 3 = none ∧
      (spilledHalted spilled3 3).map (fun x => (x.halted, x.sqTail)) = some (true, 2) ∧ placesUsed spilled3 < 256 ∧
      spilled3.rings.ovq.any (fun e => e.ctx == 3) = false ∧ resettable haltedCtx 8191 = true ∧ ctxBusy haltedCtx 8191 = false := by
  decide +kernel

set_option maxRecDepth 20000 in
/-- R74: action 1 brings a spilled halted context back. -/
theorem test_resume_spilled :
    (findCtx (after (.ctxResume 3) spilled3) 3).map (fun x => (x.halted, x.sqTail, x.vector)) = some (false, 2, 1) := by
  decide +kernel

theorem test_meets_roll_forms :
    let t (s : State) (tai : Nat) : State := { s with time := { s.time with running := true, tai := tai } }
    let live := sessPut (sessPut (sessPut keyed Reg.sess_prevLive 63 1) Reg.sess_prevSlot 63 1) Reg.sess_graceMs 63 2
    let pend := sessPut (sessPut (sessPut live Reg.sess_rollPending 63 1) Reg.sess_nextValid 63 1) Reg.sess_nextSlot 63 255
    let q := setA (t live (2 ^ 40)) Reg.kerfStatus_rngFail 1
    sessF keyed Reg.sess_nextValid 63 = 0 ∧ stageOk keyed 63 0 = false ∧ graceOver (t live (2 ^ 40)) 63 = true ∧
      graceOver (t live 0) 63 = false ∧ kerfStalled (t live (2 ^ 40)) = false ∧ sessF live Reg.sess_prevLive 63 = 1 ∧
      (t live (2 ^ 40)).canonical = true ∧ sessF live Reg.sess_rollPending 63 = 0 ∧ sessF pend Reg.sess_rollPending 63 = 1 ∧
      sessF pend Reg.sess_nextValid 63 = 1 ∧ sessF pend Reg.sess_nextSlot 63 ≠ sessF pend Reg.sess_prevSlot 63 ∧
      (keyGet pend (sessF pend Reg.sess_nextSlot 63)).isSome ∧ graceOver (t pend (2 ^ 40)) 63 = true ∧ (t pend (2 ^ 40)).canonical = true ∧
      (farGet pend 63).num.retry = [] ∧ kerfStalled q = true ∧ q.canonical = true ∧ slotInUse keyed (255 % 2 ^ 8) = false := by
  decide +kernel

/-! ### Numbers and matrix work -/

theorem test_meets_elements :
    0xFF < 2 ^ fmtWidth .e4m3 ∧ fvIsNan (decodeCode .e4m3 0x7E) = false ∧ fvIsNan (decodeCode .e4m3 0xFF) = true ∧
      2 ^ 64 - 1 < 2 ^ fmtWidth .fp64 ∧ (∀ c ∈ [0, 15, 7], c < 2 ^ 4) ∧ 2 < [0, 15, 7].length ∧ (∀ c ∈ [2 ^ 64 - 1], c < 2 ^ 64) := by
  decide +kernel

/-- R77: 6-bit codes 1, 2, 3, 63 packed from the lowest bit. -/
theorem test_packing : packRow 6 [1, 2, 3, 63] = [0x81, 0x30, 0xFC] := by decide +kernel

/-- A 1 × 1 × 2 INT32 product, 3 · 5 + (-128) · (-128) + 9. -/
def spec1 : MatSpec :=
  ⟨1, 1, 2, .i32, 0, false, false, 0, 0, 0, 0, 0, 0, fun _ k => fvOfInt (if k = 0 then 3 else -128),
    fun k _ => fvOfInt (if k = 0 then 5 else -128), true, fun _ _ => fvOfInt 9⟩

theorem test_meets_integer_tiles :
    spec1.acc = .i32 ∧ spec1.passes = 0 ∧ (∀ i k, ∃ z : Int, spec1.a i k = fvOfInt z) ∧ (∀ k j, ∃ z : Int, spec1.b k j = fvOfInt z) ∧
      (∀ i j, ∃ z : Int, spec1.c i j = fvOfInt z ∧ -(2 ^ 31) ≤ z ∧ z < 2 ^ 31) ∧ (tileRun spec1 0).sat = false ∧
      (tilePos 1 1 0)[0]? = some (0, 0) :=
  ⟨rfl, rfl, fun _ k => ⟨if k = 0 then 3 else -128, rfl⟩, fun k _ => ⟨if k = 0 then 5 else -128, rfl⟩,
    fun _ _ => ⟨9, rfl, by decide, by decide⟩, by decide +kernel, by decide +kernel⟩

/-- R112: 3 · 5 + 16,384 + 9 = 16,408. -/
theorem test_integer_tile : (tileRun spec1 0).outs = [16408] := by decide +kernel

/-- A 1 × 1 × 1 MATMUL of INT8 into INT32: A at 0x100, B at 0x200, D at 0x300, Cell 0. -/
def mm : Desc :=
  desc [(0, 0, 0x0100), (0x12, 0, 1), (0x20, 0, 0x100), (0x25, 2, 1), (0x30, 0, 0x200), (0x35, 2, 1), (0x48, 0, 0x300), (0x4D, 2, 1),
    (0x58, 0, 1), (0x5C, 0, 1), (0x60, 0, 1), (0x64, 0, 6), (0x66, 0, 6), (0x6A, 0, 11)]

def noMat : MatWork := ⟨[], [], none, none⟩

theorem test_meets_matmul :
    let s := running mm (.mat noMat)
    let o := opOf mm (.mat noMat)
    memWf s.mem = true ∧ runningOp s 3 5 0x0100 = some o ∧ o.work = .mat ⟨[], [], none, none⟩ ∧ o.reruns = 0 ∧ o.away = [] ∧ dCheck o.d ≤ 1 ∧
      mFmtA o.d = 6 ∧ mFmtB o.d = 6 ∧ mFmtD o.d = 11 ∧ mPasses o.d = 0 ∧ mAccIn o.d = false ∧ mZb o.d = false ∧
      sideMode o.d ≠ 1 ∧ 1 ≤ mM o.d ∧ mM o.d ≤ 128 ∧ 1 ≤ mN o.d ∧ mN o.d ≤ 64 ∧ mK o.d ≤ 65536 ∧ 4 * mN o.d ≤ slotPitch o.d 0x48 ∧
      slotOver s o = false ∧ unitsHeld s = false ∧ trainRegions s = [] := by
  decide +kernel

/-- -2 times 3 is -6. -/
theorem test_matmul :
    let t := after (.matmul 3 5) (withMem [(0x100, 0xFE), (0x200, 3)] (running mm (.mat noMat)))
    (memNat t.mem 0x300 4, (findOp t 3 5).map (fun o => o.ended)) = (2 ^ 32 - 6, some (some ⟨.done, 0⟩)) := by
  decide +kernel

/-- That MATMUL with its one tile in a stage, on Cell 0, which fills it where asked. -/
def tile0 (st : TileStage) (dup : Nat) : Tile := { newTile 0 0 0 with stage := st, dup := dup, cur := ⟨[0], [], false, false⟩, first := ⟨[0], [], false, false⟩, second := ⟨[0], [], false, false⟩ }
def awake0 : CellRt := { cellIdle with stopped := false }
def tiledAs (d : Desc) (x : Tile) : State := { running d (.mat { noMat with tiles := [x] }) with cells := [(0, awake0)] }
def filling (d : Desc) (x : Tile) : State := { tiledAs d x with cells := [(0, { awake0 with filling := some (3, 5, 0) })] }
def tiled (st : TileStage) (dup : Nat) : State := tiledAs mm (tile0 st dup)

/-- A state whose one operation waits for the copy of granule 0 (R27). -/
def waits (s : State) : State :=
  { s with hbm := { s.hbm with copying := [0] }, ops := s.ops.map (fun o => { o with extent := [⟨4095, 0, 1, 1⟩] }) }

/-- A 1 × 1 MATMUL of E4M3 into FP32 whose A is a NaN. -/
def nanMm : Desc :=
  desc [(0, 0, 0x0100), (0x12, 0, 1), (0x20, 0, 0x100), (0x25, 2, 1), (0x30, 0, 0x200), (0x35, 2, 1), (0x48, 0, 0x300), (0x4D, 2, 1),
    (0x58, 0, 1), (0x5C, 0, 1), (0x60, 0, 1), (0x64, 0, 3), (0x66, 0, 3), (0x6A, 0, 9)]

/-- R601, R602: a tile that its operation offers, and one queued for a re-run, each on an array that is free. -/
theorem test_meets_fill_begin :
    let s : State := { running mm (.mat noMat) with cells := [(0, { awake0 with offers := [(3, 5)] })] }
    let c := cellGet s 0
    let w := waits s
    let r : State := { tiled .waiting 0 with cells := [(0, { awake0 with reruns := [(3, 5, 0)] })] }
    s.canonical = true ∧ c.filling = none ∧ c.stopped = false ∧ unitsHeld s = false ∧ c.reruns = [] ∧
      (banksTaken s 0 0x10000 0 0).contains (1 - c.lastBank) = false ∧ c.offers.find? (offerStands s 0) = some (3, 5) ∧
      findOp s 3 5 = some (opOf mm (.mat noMat)) ∧ nextTile (opOf mm (.mat noMat)) 0 = some 0 ∧ sideMode mm ≠ 1 ∧
      offerReady s 0 (3, 5) = true ∧ w.canonical = true ∧ (cellGet w 0).offers.find? (offerStands w 0) = some (3, 5) ∧
      offerReady w 0 (3, 5) = false ∧ r.canonical = true ∧ (cellGet r 0).filling = none ∧ unitsHeld r = false ∧
      (cellGet r 0).reruns.find? (runReady r 0) = some (3, 5, 0) ∧ (findTile r 3 5 0).map (fun q => q.2) = some (tile0 .waiting 0) := by
  decide +kernel

/-- R123, R125: a fill in each run of a tile, with numbers that need no second run and with a NaN. -/
theorem test_meets_fill_end :
    let f := filling mm (tile0 .filling 0)
    let n := withMem [(0x100, 0x7F), (0x200, 0x38)] (filling nanMm (tile0 .filling 0))
    let need (s : State) := (findTile s 3 5 0).map (fun q => dupNeeded (matSpec s q.1 none) 0 (tileRunFlips (matSpec s q.1 none) 0 []))
    f.canonical = true ∧ (cellGet f 0).filling = some (3, 5, 0) ∧ (findTile f 3 5 0).map (fun q => (q.2.dup, q.2.cell, opWaits f q.1)) = some (0, 0, false) ∧
      need f = some false ∧ n.canonical = true ∧ need n = some true ∧
      ([1, 2].map (fun k => (findTile (filling mm (tile0 .filling k)) 3 5 0).map (fun q => q.2.dup))) = [some 1, some 2] ∧
      (waits f).canonical = true ∧ (findTile (waits f) 3 5 0).map (fun q => opWaits (waits f) q.1) = some true := by
  decide +kernel

/-- Whether the tile of a stage on Cell 0 is tile 0 of the operation. -/
def tileHere (s : State) (st : TileStage) : Bool := tileIn s 0 st == findTile s 3 5 0
def badAt (s : State) : Option ((List Nat × List Nat) × Nat) :=
  (tileIn s 0 .sumCheck).map (fun q => (sumCheckFails (matSpec s q.1 none) 0 q.2.cur, q.2.fails))
def badTile (n : Nat) : State := tiledAs mm { tile0 .sumCheck 0 with cur := ⟨[1], [], false, false⟩, fails := n }

/-- R123, R124: a sum check that passes, one that fails for the first time and one for the second. -/
theorem test_meets_sum_check :
    [tiled .sumCheck 0, badTile 0, badTile 1].map badAt = [some (([], []), 0), some (([0], [0]), 0), some (([0], [0]), 1)] ∧
      [tiled .sumCheck 0, badTile 0, badTile 1].all (fun s => s.canonical && tileHere s .sumCheck) = true ∧
      (findOp (badTile 1) 3 5).map (fun o => (matOf o).failed) = some none := by
  decide +kernel

def dupTile (k first second : Nat) : State :=
  tiledAs mm { tile0 .dupCheck k with first := ⟨[first], [], false, false⟩, second := ⟨[second], [], false, false⟩ }
def dupAt (s : State) : Option (Nat × List Bool) :=
  (tileIn s 0 .dupCheck).map (fun q =>
    (q.2.dup, [runsEqual q.2.first q.2.second, runsEqual q.2.cur q.2.first || runsEqual q.2.cur q.2.second]))

/-- R125: two runs that agree and two that differ, a third that agrees with one of them and one that agrees with none. -/
theorem test_meets_dup_check :
    [dupTile 1 0 0, dupTile 1 0 1, dupTile 2 0 1, dupTile 2 1 1].map dupAt =
      [some (1, [true, true]), some (1, [false, true]), some (2, [false, true]), some (2, [true, false])] ∧
      [dupTile 1 0 0, dupTile 1 0 1, dupTile 2 0 1, dupTile 2 1 1].all (fun s => s.canonical && tileHere s .dupCheck) = true ∧
      (findOp (dupTile 2 1 1) 3 5).map (fun o => (matOf o).failed) = some none := by
  decide +kernel

/-- R125: where the third run agrees with one of two that differ the tile drains; where with neither, it is gone. -/
theorem test_third_run :
    [dupTile 2 0 1, dupTile 2 1 1].map (fun s => (findTile (after (.tileDupCompareDone 0) s) 3 5 0).map (fun q => q.2.stage)) =
      [some .draining, none] := by
  decide +kernel

theorem test_meets_drain :
    let s := tiled .draining 0
    let see (s : State) := s.ops.findSome? (fun o => match (matOf o).tiles.find? (fun x => x.cell == 0 && x.bank == 0 && x.stage == .draining) with
        | some x => some (o, x)
        | none => none)
    s.canonical = true ∧ see s = findTile s 3 5 0 ∧ (see s).map (fun q => (opWaits s q.1, checkLevel q.1.d, (matOf q.1).bind)) = some (false, 0, none) ∧
      fwMx (mFmtD mm) = false ∧ mPair mm = false ∧ (waits s).canonical = true ∧
      (see (waits s)).map (fun q => opWaits (waits s) q.1) = some true := by
  decide +kernel

/-- A 1 × 1 MATMUL whose B is a segment at 0x200 of one INT4 symbol, 3. -/
def zbDesc : Desc := desc [(0, 0, 0x0100), (0x12, 0, 1), (0x30, 0, 0x200), (0x58, 0, 1), (0x5C, 0, 1), (0x60, 0, 1), (0x6D, 0, 1)]
def seg1 : SegHdr := ⟨5, false, false, false, 2, 0, 0, 0, 1, 1, 0, 0, 1, 0, 0, 0, 0, 0⟩
def zbState : State := withMem (bytesWrites 0x200 (encodeSegment seg1 [3] []).1) (running zbDesc (.mat noMat))

set_option maxRecDepth 20000 in
theorem test_meets_panel :
    (findOp zbState 3 5).map (fun o => (opRuns o, mZb o.d, dOpcode o.d, (matOf o).failed, nextTile o 0)) =
        some (true, true, 0x0100, none, some 0) ∧ panelHeld zbState (opOf zbDesc (.mat noMat)) 0 0 = none ∧
      ((readSegment (fun j => memRead zbState.mem (panelAddr zbState zbDesc 0 + j))).toOption.map (fun r => r.2)) = some ([3], []) := by
  decide +kernel

/-- R302, R304: an operation whose panel a copy holds up, and a panel whose segment is refused. -/
theorem test_meets_panel_refused :
    let z := running zbDesc (.mat noMat)
    panelWanted zbState (opOf zbDesc (.mat noMat)) 0 = some 0 ∧ zbState.canonical = true ∧ z.canonical = true ∧ opWaits z (opOf zbDesc (.mat noMat)) = false ∧
      panelWanted z (opOf zbDesc (.mat noMat)) 0 = some 0 ∧ panelHeld z (opOf zbDesc (.mat noMat)) 0 0 = none ∧
      (readSegment (fun j => memRead z.mem (panelAddr z zbDesc 0 + j))).toOption.isNone = true := by
  decide +kernel

/-- R49: an operation in run 2 whose bytes at 0x300 agree, and in run 3 with the digests of two runs that differ. -/
def op2 : Op := { opOf mm (.mat noMat) with run := 2 }
def state2 (o : Op) : State := { up with ops := [o] }
def dig2 (alt : List (Nat × Byte)) : Nat :=
  let s := state2 op2
  let gs := opOutputs (overlaid (countRunChecks s op2.d) op2) op2
  runDigest (memWriteAll (memWriteAll s.mem op2.writes) (altIn gs alt)) gs
def op3 (a b : Nat) : Op := { op2 with run := 3, digests := [a, b] }

theorem test_meets_level_two :
    memWf (state2 op2).mem = true ∧ findOp (state2 op2) 3 5 = some op2 ∧ op2.ended = none ∧ op2.parked = false ∧ heldBind op2 = none ∧
      op2.run = 2 ∧ opOutputs (overlaid (countRunChecks (state2 op2) op2.d) op2) op2 ≠ [] ∧ dig2 [] ≠ dig2 [(0x300, 1)] := by
  decide +kernel

/-- R49: run 3 agrees with run 1, with run 2, or with neither. -/
theorem test_meets_third_run :
    let a := dig2 []
    let b := dig2 [(0x300, 1)]
    (op3 a b).digests.getD 0 0 = a ∧ b ≠ (op3 a b).digests.getD 0 0 ∧ b = (op3 a b).digests.getD 1 0 ∧
      a ≠ (op3 b b).digests.getD 0 0 ∧ a ≠ (op3 b b).digests.getD 1 0 ∧ findOp (state2 (op3 a b)) 3 5 = some (op3 a b) ∧
      opOutputs (overlaid (countRunChecks (state2 (op3 a b)) op2.d) (op3 a b)) (op3 a b) = opOutputs (overlaid (countRunChecks (state2 op2) op2.d) op2) op2 := by
  decide +kernel

theorem test_meets_pair_and_parking :
    let p := running (desc [(0, 0, 0x0101)]) (.mat noMat)
    let el : Op := { opOf (desc [(0, 0, 0x0100), (2, 0, 1), (0x12, 0, 1)]) (.mat noMat) with slot := 0 }
    let e : State := { withCtx ctx3 with ops := [el], time := { up.time with ticksTaken := 1 } }
    let n : Op := { el with slot := 1 }
    let r : Op := { el with parked := true }
    (runningOp p 3 5 0x0101).isSome ∧ checkLevel (desc [(0, 0, 0x0101)]) ≠ 2 ∧
      findOp e 3 5 = some el ∧ findCtx e 3 = some ctx3 ∧ el.ended = none ∧ el.parked = false ∧ runsElastic el.d = true ∧
      slotOver e el = true ∧ atParkPoint e el = true ∧ parkAllowed e el 0 = true ∧ el.everParked = false ∧ dOpcode el.d ≠ 0x0900 ∧
      isTruing el = false ∧ slotOver { e with ops := [n] } n = false ∧
      findOp { up with ops := [r] } 3 5 = some r ∧ resumeUnits { up with ops := [r] } r ≠ [] ∧ resumeUnits e el = [] := by
  decide +kernel

/-! ### Vector units, the ordered adder, Truing and jointed bodies -/

/-- A CHAIN of one step over `n` FP32 elements at 0x100 into FP32 at 0x40000, and a REDUCE_TREE of `n` sums. -/
def chainDesc (n : Nat) : Desc :=
  desc [(0, 0, 0x0200), (0x12, 0, 1), (0x20, 0, 0x100), (0x25, 2, 1), (0x38, 0, 0x40000), (0x60, 0, 9), (0x66, 0, 9), (0x70, 0, n), (0x74, 0, 1)]
def treeDesc (n : Nat) : Desc :=
  desc [(0, 0, 0x0210), (0x12, 0, 1), (0x20, 0, 0x100), (0x28, 0, 0x8000), (0x30, 0, 0x40000), (0x38, 0, n), (0x3C, 0, 2), (0x40, 0, 9)]

theorem test_meets_vector :
    let w : Work := .vec ⟨[], [0], none⟩
    let ok (d : Desc) : Bool :=
      let s := running d w
      memWf s.mem && !unitsHeld s && (trainRegions s).isEmpty && findOp s 3 5 == some (opOf d w) && opRuns (opOf d w) &&
        (dOpcode d == 0x0200 || dOpcode d == 0x0210) && decide (dCheck d ≤ 1) && !fwMx (vFmtY d) && !slotOver s (opOf d w) && !opWaits s (opOf d w) && (opOf d w).away == [] && (opOf d w).reruns == 0 &&
        decide (1 ≤ vOuts d) && decide (vOuts d ≤ 8192)
    ok (chainDesc 1) = true ∧ ok (chainDesc 8192) = true ∧ ok (treeDesc 1) = true ∧ ok (treeDesc 8192) = true ∧
      vOuts (chainDesc 8193) = 8193 ∧
      (vecOf (opOf (chainDesc 1) w)).running.find? (fun u => cellOfUnit (chainDesc 1) u == 0) = some 0 ∧
      (vecOf (opOf (chainDesc 1) w)).bind = none := by
  decide +kernel

/-- R171: a unit that runs on Cell 0, and one that the copy of a granule holds up. -/
theorem test_meets_vector_unit :
    let s : State := { running (chainDesc 1) (.vec ⟨[], [0], none⟩) with cells := [(0, awake0)] }
    memWf s.mem = true ∧ unitsHeld s = false ∧ trainRegions s = [] ∧ (findOp s 3 5).map (fun o => (opRuns o, opWaits s o)) = some (true, false) ∧
      (cellGet s 0).stopped = false ∧ memWf (waits s).mem = true ∧ (cellGet (waits s) 0).stopped = false ∧
      (findOp (waits s) 3 5).map (fun o => (opRuns o, opWaits (waits s) o)) = some (true, true) := by
  decide +kernel

/-- R176: 1.5 + 2.5 is 4. -/
theorem test_reduce_tree :
    let s := withMem (natWrites 0x100 4 0x3FC00000 ++ natWrites 0x8100 4 0x40200000) (running (treeDesc 1) (.vec ⟨[], [0], none⟩))
    memNat (after (.reduceTree 3 5) s).mem 0x40000 4 = 0x40800000 := by
  decide +kernel

/-- Group 9 of chip 0, one line of INT32 at 0x400 for 100 contributions; and its line with index 2 held. -/
def group9 : SumGroup := ⟨9, 3, 5, 0x400, 1, true, 100, false, [], []⟩
def grouped (ts : List SumLine) : State := { up with groups := [{ group9 with touched := ts }] }

theorem test_meets_arrival_order :
    let x : SumGroup := { group9 with p := 3 }
    let s : State := { up with groups := [x] }
    let a : Nat × List Byte := (0, [1])
    let b : Nat × List Byte := (1, [2])
    let c : Nat × List Byte := (2, [3])
    memWf s.mem = true ∧ groupGet s 9 = some x ∧ 0 < x.lines ∧ x.touched = [] ∧ x.p ≤ 65 ∧ heldBy s (stackOf (lineOff x 0)) + 65 ≤ 2048 ∧
      [a, b, c].Perm [c, a, b] ∧ ([a, b, c].map Prod.fst).Nodup ∧ (∀ q ∈ [a, b, c], q.1 < x.p) := by
  decide +kernel

/-- R178: contributions in any order add up: 1 + 2 + 3, the first word of the line. -/
theorem test_arrival_order :
    (runCommands [.omaContribution 9 2 0 [3] 0 3 5, .omaContribution 9 0 0 [1] 0 3 5, .omaContribution 9 1 0 [2] 0 3 5]
      (grouped [])).map (fun t => memNat t.mem 0x400 4) = some 6 := by
  decide +kernel

/-- A SUM_OPEN of group 9, one line at 0x400 for two contributions, and a CONTRIBUTE of its index 0. -/
def soDesc (init : Nat) : Desc := desc [(0, 0, 0x0220), (0x20, 0, 0x400), (0x28, 0, 1), (0x2C, 0, 9), (0x2E, 0, 11), (0x30, 0, 2), (0x30, 17, init)]
def ctDesc (chip lines : Nat) : Desc := desc [(0, 0, 0x0221), (0x20, 0, 0x400), (0x28, 0, chip), (0x2A, 0, 9), (0x30, 0, lines)]

/-- R177, R181: SUM_OPEN with INIT 0 and 1, and of a group that is open. -/
theorem test_meets_sum_open :
    let s (k : Nat) := running (soDesc k) .none
    let busy : State := { s 0 with groups := [{ group9 with idx := 4 }] }
    (s 0).canonical = true ∧ (runningOp (s 0) 3 5 0x0220).isSome ∧ (s 0).groups = [] ∧ sumOpenFault (s 0) (soDesc 0) = none ∧
      soInit (soDesc 0) = false ∧ trainRegions (s 0) = [] ∧ (runningOp (s 1) 3 5 0x0220).isSome ∧ soInit (soDesc 1) = true ∧
      sumOpenFault (s 1) (soDesc 1) = none ∧ busy.canonical = true ∧ soGroup (soDesc 0) = 9 ∧
      busy.groups.any (fun x => x.ctx == 3 && x.idx == 5) = false ∧ sumOpenFault busy (soDesc 0) = some (0x134, 0) := by
  decide +kernel

/-- R178, R179: an index that has been added, the next one, the last and the first past the 64 that may be held. -/
theorem test_meets_contributions :
    let o := opOf (soDesc 1) .none
    let s : State := { grouped [⟨0, 1, [], none⟩] with ops := [o] }
    (s).canonical = true ∧ groupGet s 9 = some { group9 with touched := [⟨0, 1, [], none⟩] } ∧ 0 < group9.lines ∧
      (lineGet { group9 with touched := [⟨0, 1, [], none⟩] } 0) = ⟨0, 1, [], none⟩ ∧ findOp s group9.ctx group9.idx = some o ∧ o.writes = [] ∧
      trainRegions s = [] ∧ 1 + 64 < group9.p ∧ 1 + 65 < group9.p ∧ heldBy s (stackOf (lineOff group9 0)) < 2048 ∧ s.chip = 0 := by
  decide +kernel

/-- R182, R183: contributions to an open group of this chip, to one that is not open, and to another chip. -/
theorem test_meets_contribute :
    let at_ (d : Desc) (w : Work) (s : State) : State := { s with ops := [opOf d w] }
    let here := at_ (ctDesc 0 1) .none (grouped [])
    let shut := at_ (ctDesc 0 1) .none up
    let far := at_ (ctDesc 1 1) .none { sending with txq := [] }
    let ask := at_ (ctDesc 1 1) .asking { sending with txq := [] }
    here.canonical = true ∧ ctChip (ctDesc 0 1) = here.chip ∧ (runningOp here 3 5 0x0221).isSome ∧ contributeFault here (ctDesc 0 1) = none ∧
      shut.canonical = true ∧ (runningOp shut 3 5 0x0221).isSome ∧ contributeFault shut (ctDesc 0 1) = some (0x135, 0) ∧
      far.canonical = true ∧ (runningOp far 3 5 0x0221).isSome ∧ ctChip (ctDesc 1 1) ≠ far.chip ∧ contributeFault far (ctDesc 1 1) = none ∧
      ask.canonical = true ∧ (findOp ask 3 5).map (fun o => opRuns o && dOpcode o.d == 0x0221 && o.work == .asking) = some true := by
  decide +kernel

/-- R179, R180: 1 us after a refusal and OVERDUE_US after an arrival, as they are reached and one ns before. -/
theorem test_meets_adder_times :
    let at_ (tai : Nat) (s : State) : State := { s with time := { s.time with running := true, tai := tai } }
    let e : Early := ⟨2, [], 0, 1, 3, 5⟩
    let h (o : Option Nat) := grouped [⟨0, 0, [e], o⟩]
    let r (chip : Nat) : Resend := ⟨9, 2, 0, chip, [], 3, 5, 0⟩
    let q (chip : Nat) : State := { up with resends := [r chip] }
    (q 1).resends.find? (fun r => r.group == 9 && r.index == 2 && r.line == 0) = some (r 1) ∧ (q 1).canonical = true ∧
      timeCome (at_ 999 (q 1)) ((r 1).at_ + 1000) = false ∧ timeCome (at_ 1000 (q 1)) ((r 1).at_ + 1000) = true ∧
      (at_ 1000 (q 1)).canonical = true ∧ (r 1).chip ≠ up.chip ∧ (r 0).chip = up.chip ∧ (h none).canonical = true ∧
      overdueAt (at_ 0 (h none)) ⟨0, 0, [e], none⟩ = some 100000 ∧ timeCome (at_ 99999 (h none)) 100000 = false ∧
      timeCome (at_ 100000 (h none)) 100000 = true ∧ (h (some 0)).canonical = true ∧
      (lineGet { group9 with touched := [⟨0, 0, [e], some 0⟩] } 0).overdue = some 0 ∧
      groupGet (h none) 9 = some { group9 with touched := [⟨0, 0, [e], none⟩] } := by
  decide +kernel

/-- A Truing operation on record 0, whose F of order 1 lies at 0x100, its buffers at 0x200 and 0x300, work at 0x400. -/
def truing (op low hi : Nat) : State :=
  withMem (natWrites 0 8 0x100 ++ natWrites 8 8 0x200 ++ natWrites 0x10 8 0x300 ++ natWrites 0x18 8 0x400 ++ natWrites 0x20 2 1)
    (running (desc [(0, 0, op), (2, 0, low), (0x22, 0, hi), (0x28, 0, 2)]) .none)

def truOk (s : State) (op hi : Nat) : Bool :=
  match runningOp s 3 5 op with
  | some o => truReady s o && !nsDue s o && (tMethod o.d == hi / 16) && !skippedAway o
  | none => false

theorem test_meets_truing :
    let due := setA (setA (truing 0x0340 1 0) Reg.tickCtrl_run 1) Reg.tickNow_idLo 2
    let o := opOf (desc [(0, 0, 0x0340), (2, 0, 1), (0x28, 0, 2)]) .none
    let w : State := { truing 0x0310 0 0 with ops := [{ opOf (desc [(0, 0, 0x0311)]) .none with idx := 4, seq := 0 },
      opOf (desc [(0, 0, 0x0310), (0x28, 0, 2)]) .none] }
    truOk (truing 0x0310 0 0) 0x0310 0 = true ∧ truOk (truing 0x0311 0 0) 0x0311 0 = true ∧ truOk (truing 0x0330 0 0) 0x0330 0 = true ∧
      truOk (truing 0x0340 0 16) 0x0340 16 = true ∧ truOk (truing 0x0340 0 0) 0x0340 0 = true ∧ truOk (truing 0x0300 0 0) 0x0300 0 = true ∧
      runningOp due 3 5 0x0340 = some o ∧ tMethod o.d = 0 ∧ nsDue due o = true ∧ truWaits due o = false ∧ unitsHeld due = false ∧
      skippedAway o = false ∧ (runningOp w 3 5 0x0310).map (truReady w) = some false := by
  decide +kernel

/-- R124, R125, R189: a product tile with each pattern of upsets, on numbers that need one run and on a NaN that needs two. -/
def nanSpec : MatSpec := { spec1 with acc := .f32, a := fun _ _ => .nan false, b := fun _ _ => fvOfInt 1, c := fun _ _ => fvOfInt 0 }
def prodSeen (x : MatSpec) (us : List TileUpset) : List Bool :=
  let o : Op := { opOf (desc [(0, 0, 0x0330)]) .none with upsets := us }
  let r := prodRun o x 0 o.prods
  [dupNeeded x 0 (r 1)] ++ (if x.acc = .i32 then [1, 2].map (fun n => decide (sumCheckFails x 0 (r n) ≠ ([], []))) else []) ++
    [runsEqual (r 1) (r 2), runsEqual (r 3) (r 1) || runsEqual (r 3) (r 2)]

theorem test_meets_product_tiles :
    [[], [⟨0, 1, [(0, 1)]⟩], [⟨0, 1, [(0, 1)]⟩, ⟨0, 2, [(0, 2)]⟩]].map (fun us => (prodSeen spec1 us).take 3) =
      [[false, false, false], [false, true, false], [false, true, true]] ∧
      [[], [⟨0, 1, [(0, 1)]⟩], [⟨0, 1, [(0, 1)]⟩, ⟨0, 2, [(0, 2)]⟩]].map (prodSeen nanSpec) =
        [[true, true, true], [true, false, true], [true, false, false]] := by
  decide +kernel

theorem test_meets_folds :
    let s := truing 0x0300 0 0
    let d := desc [(0, 0, 0x0320), (0x28, 0, 0x1000), (0x30, 0, 0x2000), (0x38, 0, 1)]
    let o : Op := { opOf d .none with facs := [⟨0, 0, 0, 1⟩] }
    let b := setD { s with ops := [o] } Reg.brake_active 1
    let f := setD s Reg.brake_active 1
    memWf s.mem = true ∧ facN s 0 = 1 ∧ facAddr s 0 + 0x3C ≤ facStat s 0 ∧ (runningOp { s with ops := [o] } 3 5 0x0320) = some o ∧
      truReady { s with ops := [o] } o = true ∧ o.facs ≠ [] ∧ dCheck o.d ≤ 1 ∧ skippedAway o = false ∧ o.writes = [] ∧
      runningOp b 3 5 0x0320 = some o ∧ truReady b o = false ∧ (runningOp f 3 5 0x0300).map (truReady f) = some false := by
  decide +kernel

/-- A set at 0 of one fixed body of mass 1 at 0x800, one environment at 0x1000, its step 1/16 s; its operation. -/
def bodyMem : List Host.Cell :=
  natWrites 0 8 0x800 ++ natWrites 8 8 0x1000 ++ natWrites 0x20 4 0x10001 ++ natWrites 0x24 4 1152 ++ natWrites 0x34 4 0x3D800000 ++
    natWrites 0x38 1 1 ++ natWrites 0x800 1 0xFF ++ natWrites 0x820 4 0x3F800000 ++ natWrites 0x82C 4 0x3F800000
def jbd (op : Nat) : Desc := desc [(0, 0, op), (0x12, 0, 1), (0x2A, 0, 1), (0x2C, 0, 1), (0x30, 0, 0x3000)]
def stepping (op : Nat) (rs : List Nat) (halted : Nat) : State :=
  withMem (bodyMem ++ [(0x1000, BitVec.ofNat 8 halted)]) { running (jbd op) (.jb ⟨[], rs, 0, [], 0, true, 0, 0, 0⟩) with cells := [(0, awake0)] }

theorem test_meets_batches :
    let ok (op halted : Nat) : Bool :=
      let s := stepping op [0] halted
      memWf s.mem && !unitsHeld s && (findOp s 3 5).map opRuns == some true && !(cellGet s 0).stopped &&
        (findOp s 3 5).map (fun o => ((jbOf o).running.find? (fun b => cellOfUnit o.d b == 0), batchEnvs s o.d 0)) == some (some 0, [0]) &&
        (findOp s 3 5).map (opWaits s) == some false &&
        (envHalted s 0 0 == (halted == 1))
    let all (op halted : Nat) : Bool :=
      let s := stepping op [] halted
      let o := opOf (jbd op) (.jb ⟨[], [], 0, [], 0, true, 0, 0, 0⟩)
      runningOp s 3 5 op == some o && !slotOver s o && (jSubsteps o.d == 1) && (jCount s o.d == 1) && decide (jEnv0 o.d + jCount s o.d ≤ 16384)
    ok 0x0400 0 = true ∧ ok 0x0400 1 = true ∧ ok 0x0410 0 = true ∧ ok 0x0420 0 = true ∧
      all 0x0400 1 = true ∧ all 0x0410 0 = true ∧ all 0x0420 0 = true ∧ envHalted (stepping 0x0400 [] 1) 0 0 = true := by
  decide +kernel

/-- R228: a step that ends with DONE clears REASON and counts the environment's step. -/
theorem test_env_step :
    let t := after (.jbBatchDone 0 3 5) (stepping 0x0400 [0] 0)
    (memNat t.mem 0x1001 1, memNat t.mem 0x1008 4, (findOp t 3 5).map (fun o => o.ended)) = (0, 1, some (some ⟨.done, 0⟩)) := by
  decide +kernel

theorem test_meets_loops :
    let d := desc [(0, 0, 0x0430), (0x28, 0, 2), (0x2C, 0, 1), (0x2E, 0, 4095), (0x30, 0, 7), (0x40, 0, 1)]
    let begin' := running d (.jb ⟨[], [], 0, [], 0, false, 0, 0, 0⟩)
    let ready : State := { begin' with sems := [(4095, 1)] }
    let fin : State := { running d (.jb ⟨[], [], 0, [], 1, true, 0, 0, 0⟩) with mem := [] }
    ready.canonical = true ∧ ((runningOp ready 3 5 0x0430).map (loopReady ready)) = some true ∧
      ((runningOp begin' 3 5 0x0430).map (loopReady begin')) = some false ∧ begin'.canonical = true ∧
      ((runningOp ready 3 5 0x0430).map (loopStepDone ready)) = some false ∧
      fin.canonical = true ∧ ((runningOp fin 3 5 0x0430).map (loopStepDone fin)) = some true ∧ jActSem d ≠ jObsSem d ∧ jNstep d = 2 := by
  decide +kernel


/-! ### Moves, training state, the Pannier -/

/-- A COPY of `n` bytes from 0x100 to 0x40000 of chip `c`. -/
def copyDesc (n c : Nat) : Desc := desc [(0, 0, 0x0500), (0x20, 0, 0x100), (0x28, 0, 0x40000), (0x2D, 2, 1), (0x30, 0, c), (0x34, 0, 1), (0x38, 0, n)]

/-- Chip 0 with replica comparison of parameter 0 under TAG 65535 against chip 1. -/
def rcDesc : Desc := desc [(0, 0, 0x0910), (0x24, 0, 1), (0x28, 0, 1), (0x2A, 0, 65535), (0x2C, 0, 1)]

/-- One parameter record at 0 of a 1 × 1 shard: master 1.0, gradient 0.5, working copy in BF16; `m1` and `flags` as
given, its slow tier at 0x9000. -/
def shardMem (m1 m2 flags : Nat) : List Host.Cell :=
  natWrites 0 4 1 ++ natWrites 4 4 1 ++ natWrites 0x0C 4 1 ++ natWrites 0x14 4 1 ++ natWrites 0x18 8 0x1000 ++ natWrites 0x20 8 0x2000 ++
    natWrites 0x28 8 0x3000 ++ natWrites 0x30 8 m1 ++ natWrites 0x38 8 m2 ++ natWrites 0x48 2 8 ++ natWrites 0x4A 1 flags ++
    natWrites 0x50 8 0x9000 ++ natWrites 0x60 16 (ringDigest (leBytes 4 7)) ++ natWrites 0x1000 4 0x3F800000 ++ natWrites 0x3000 4 0x3F000000
def shard (d : Desc) (w : Work) (m1 m2 flags : Nat) : State :=
  setA (withMem (shardMem m1 m2 flags) { running d w with hostMem := memWriteAll [] (natWrites 0x9000 4 7) }) Reg.paramCtrl_count 1

def copying (n c : Nat) (w : Work) (s0 : State) : State := { s0 with ops := [opOf (copyDesc n c) w] }
def copyOk (n c : Nat) (s0 : State) : Bool :=
  let d := copyDesc n c
  let s := copying n c .none s0
  memWf s.mem && (runningOp s 3 5 0x0500 == some (opOf d .none)) && !unitsHeld s && (cpBytes d % 16 == 0) && (copyFault s 3 d).isNone &&
    decide (dCheck d ≤ 1) && decide (cpRows d ≤ 1) && (cpChip d == c)

/-- R274, R509: copies of the least and the most bytes, one held up by a Brake, one out of memory, one toward chip 1 before
and after its verdict, and the last two acknowledgements. -/
theorem test_meets_copy :
    let sent (n : Nat) := copying 4096 1 (.remote n false) sending
    let braked := setD (copying 16 0 .none up) Reg.brake_active 1
    copyOk 16 0 up = true ∧ copyOk 0x3F00 0 up = true ∧ copyOk 4096 1 sending = true ∧
      memWf braked.mem = true ∧ (runningOp braked 3 5 0x0500).isSome ∧ unitsHeld braked = true ∧
      copyFault (copying (2 ^ 28) 0 .none up) 3 (copyDesc (2 ^ 28) 0) = some (0x08, 2 ^ 26) ∧
      (runningOp (copying (2 ^ 28) 0 .none up) 3 5 0x0500).isSome ∧
      (findOp (copying 4096 1 .asking sending) 3 5).map (fun o => opRuns o && dOpcode o.d == 0x0500 && o.work == .asking) = some true ∧
      (findOp (sent 2) 3 5).map (fun o => (opRuns o, checkLevel o.d, o.work)) = some (true, 0, .remote 2 false) ∧
      (findOp (sent 1) 3 5).map (fun o => (opRuns o, checkLevel o.d, o.work)) = some (true, 0, .remote 1 false) := by
  decide +kernel

theorem test_meets_replicas :
    let rs : State := { sending with ops := [opOf rcDesc .none], mem := memWriteAll [] (shardMem 0 0 0) }
    let bad : State := { up with ops := [opOf rcDesc .none], mem := memWriteAll [] (shardMem 0 0 0) }
    let held : State := { rs with ops := [opOf rcDesc (.replica [1])] }
    let waiting (s : State) : Option Op := s.ops.find? (fun x => opRuns x && dOpcode x.d == 0x0910 && rcTag x.d == 65535 && (rcPeers x.d).contains 1)
    (runningOp rs 3 5 0x0910).isSome ∧ replicaFault rs rcDesc = none ∧ rcPeers rcDesc = [1] ∧ replicaOf rs (rcTag rcDesc) 1 = none ∧
      (runningOp bad 3 5 0x0910).isSome ∧ (replicaFault bad rcDesc).isSome ∧ waiting up = none ∧ waiting held = some (opOf rcDesc (.replica [1])) ∧
      findOp held 3 5 = some (opOf rcDesc (.replica [1])) ∧ (∀ x ∈ rcPeers rcDesc, x ≠ 1 → replicaOf held 65535 x = some [1]) := by
  decide +kernel

/-- R274: sixteen bytes are copied. -/
theorem test_copy :
    let s := withMem (bytesWrites 0x100 (leBytes 16 0x0102030405060708090A0B0C0D0E0F10)) (running (copyDesc 16 0) .none)
    memNat (after (.copy 3 5) s).mem 0x40000 16 = 0x0102030405060708090A0B0C0D0E0F10 := by
  decide +kernel

def exDesc : Desc := desc [(0, 0, 0x0920), (0x20, 0, 0x20000), (0x2C, 0, 1), (0x30, 0, 0x11)]
def imDesc : Desc := desc [(0, 0, 0x0921), (0x20, 0, 0x20000), (0x30, 0, 0x10)]

theorem test_meets_export_and_import :
    let s := shard exDesc .none 0 0 0
    let t : State := { after (.exportOp 3 5) s with ops := [opOf imDesc .none] }
    memWf s.hostMem = true ∧ (runningOp s 3 5 0x0920).isSome ∧ exHost exDesc = true ∧ dCheck exDesc ≤ 1 ∧ exportFault s (opOf exDesc .none) = none ∧
      exCount exDesc = 1 ∧ exRoles exDesc = [0] ∧ roleOff s 0 0 ≠ 0 ∧ exParam0 exDesc < paramCount s ∧ exAddr imDesc = exAddr exDesc ∧
      exHost imDesc = true ∧ (runningOp t 3 5 0x0921).isSome ∧ dCheck imDesc ≤ 1 ∧ imReadFault t imDesc = none ∧
      ringDigest (imPayload t imDesc) = imFld t imDesc 0x40 16 ∧ importFault t imDesc = none ∧ imRole t imDesc = 0 := by
  decide +kernel

/-- R270, R271: an EXPORT to device memory, one of a parameter past the records, an IMPORT of other bytes than the digest's
and one of the first state. -/
theorem test_meets_export_forms :
    let local_ (r : Nat) := desc [(0, 0, 0x0920), (0x20, 0, 0x20000), (0x2C, 0, 1), (0x30, 0, r)]
    let bad := desc [(0, 0, 0x0920), (0x20, 0, 2 ^ 28), (0x2C, 0, 1), (0x30, 0, 1)]
    let none' := setA (shard (local_ 1) .none 0 0 0) Reg.paramCtrl_count 0
    let from' (d : Desc) : State := { after (.exportOp 3 5) (shard d .none 0x4000 0 0) with ops := [opOf imDesc .none] }
    let m := from' (desc [(0, 0, 0x0920), (0x20, 0, 0x20000), (0x2C, 0, 1), (0x30, 0, 0x12)])
    let w := { from' exDesc with hostMem := memWriteAll (from' exDesc).hostMem [(0x20000 + 128, 1)] }
    exHost (local_ 1) = false ∧ dCheck (local_ 1) ≤ 1 ∧ exportFault (shard (local_ 1) .none 0 0 0) (opOf (local_ 1) .none) = none ∧
      (runningOp (shard (local_ 1) .none 0 0 0) 3 5 0x0920).isSome ∧ trainRegions none' = [] ∧
      exportFault none' (opOf (local_ 1) .none) = none ∧ (runningOp none' 3 5 0x0920).isSome ∧
      (exportFault (shard bad .none 0 0 0) (opOf bad .none)).isSome ∧ (runningOp (shard bad .none 0 0 0) 3 5 0x0920).isSome ∧
      (runningOp w 3 5 0x0921).isSome ∧ imReadFault w imDesc = none ∧ ringDigest (imPayload w imDesc) ≠ imFld w imDesc 0x40 16 ∧
      ringDigest (imPayload m imDesc) = imFld m imDesc 0x40 16 ∧ importFault m imDesc = none ∧ imRole m imDesc = 3 ∧
      imWrites (from' exDesc) imDesc ≠ [] := by
  decide +kernel

/-- R270: the record's master bytes follow its 128-byte header. -/
theorem test_export : memNat (after (.exportOp 3 5) (shard exDesc .none 0 0 0)).hostMem (0x20000 + 128) 4 = 0x3F800000 := by
  decide +kernel

theorem test_meets_yarder :
    let e := desc [(0, 0, 0x0511), (0x24, 0, 1)]
    let f := desc [(0, 0, 0x0510), (0x24, 0, 1)]
    let ok (d : Desc) (m : Bool) (flags : Nat) : Bool :=
      let s := shard d (.yard 0 m) 0x4000 0 flags
      s.canonical && (findOp s 3 5 == some (opOf d (.yard 0 m))) && opRuns (opOf d (.yard 0 m)) && !opWaits s (opOf d (.yard 0 m)) && decide (dCheck d ≤ 1) &&
        (s.ops.filter (fun x => dOpcode x.d == 0x0510 || dOpcode x.d == 0x0511) == s.ops) && (uCount d == 1)
    let s := shard f (.yard 0 true) 0x4000 0 0xA
    let g := shard f (.yard 0 false) 0x4000 0 2
    ok e true 0xE = true ∧ ok f true 0xA = true ∧ ok f false 2 = true ∧ slowRoles s 0 = [3] ∧
      ringDigest (fetched (memBytes s.hostMem (pSlow s 0) (roleBytes s 0 * 1)) []) = pSlowDigest s 0 ∧
      ringDigest (fetched (memBytes s.hostMem (pSlow s 0) (roleBytes s 0 * 1)) [(0, 9)]) ≠ pSlowDigest s 0 ∧
      regionsMeet (roleRegion s 0 3) (recordRegion s 0 1) = false ∧
      yardWants g (opOf f (.yard 0 false)) 0 = true ∧ pMoving g 0 = false ∧ thermalHold g = false ∧
      isFetch (opOf f (.yard 0 false)) = true ∧ yardBusy g = false := by
  decide +kernel

/-- An UPDATE of parameter 0 by SGD with rate 1.0 (codes of R276), its gradient gathered. -/
def updDesc (opt : Nat) : Desc := desc [(0, 0, 0x0900), (0x12, 0, 1), (0x24, 0, 1), (0x28, 0, 9), (0x30, 0, opt), (0x34, 0, 0x3F800000)]
def gathered1 : UpdWork := ⟨1, false, [], [], 0, false, 0, false, false⟩

def updating (d : Desc) (w : UpdWork) (m1 m2 : Nat) (skip : Bool) : State :=
  let s := setA (shard d (.upd w) m1 m2 0) Reg.step_idLo 10
  { s with decisions := [(9, skip)] }
def updOk (opt : Nat) (skip : Bool) : Bool :=
  let s := updating (updDesc opt) gathered1 0x4000 0x5000 skip
  let o := opOf (updDesc opt) (.upd gathered1)
  s.canonical && (runningOp s 3 5 0x0900 == some o) && !slotOver s o && !unitsHeld s && updMayApply s o && !auditDue s (uStep o.d) &&
    (decisionOf s (uStep o.d) == some skip) && !uZero o.d && (uOpt o.d == opt) && !regionsMeet (roleRegion s 0 0) (roleRegion s 0 3) &&
    !regionsMeet (roleRegion s 0 0) ⟨0, 0, 1, 128⟩ && !(workRegions s 0).any (regionsMeet (roleRegion s 0 0)) &&
    !regionsMeet (roleRegion s 0 0) (roleRegion s 0 4) && !prodFailed (updForm s o) 3 5 && (uCount o.d == 1) && o.upsets == []

theorem test_meets_update :
    updOk 0 false = true ∧ updOk 1 false = true ∧ updOk 2 false = true ∧ updOk 3 false = true ∧ updOk 0 true = true := by
  decide +kernel

/-- R189, R256: an OPT 3 UPDATE whose left factor is 1.0, at 0x8200, and whose product fails in both runs. -/
def shampoo : State :=
  let o : Op := { opOf (updDesc 3) (.upd gathered1) with facs := [⟨0, 0, 1, 1⟩] }
  let s := setA (setA (updating (updDesc 3) gathered1 0x4000 0 false) Reg.truBase_baseLo 0x100) Reg.truCtrl_count 1
  withMem (natWrites 0x8008 8 0x8200 ++ natWrites 0x8020 2 1 ++ natWrites 0x8200 4 0x3F800000) { s with ops := [o] }

theorem test_meets_update_failure :
    let o : Op := { opOf (updDesc 3) (.upd gathered1) with facs := [⟨0, 0, 1, 1⟩] }
    let ups : List TileUpset := [⟨0, 1, [(0, 2 ^ 30)]⟩, ⟨0, 2, [(0, 2 ^ 29)]⟩]
    runningOp shampoo 3 5 0x0900 = some o ∧ slotOver shampoo o = false ∧ unitsHeld shampoo = false ∧ updMayApply shampoo o = true ∧
      auditDue shampoo (uStep o.d) = false ∧ (updOf o).gathered = uCount o.d ∧ prodFailed (updForm shampoo o) 3 5 = false ∧
      prodFailed (updForm (updOp shampoo 3 5 (fun x => { x with upsets := ups })) { o with upsets := ups }) 3 5 = true := by
  decide +kernel

/-- R268, R358: an ELASTIC UPDATE past its slot, of one row of 16,384 elements (two units), none of them done. -/
def elasticUpd : Desc := desc [(0, 0, 0x0900), (2, 0, 1), (0x12, 0, 1), (0x24, 0, 1), (0x28, 0, 9), (0x30, 0, 0), (0x34, 0, 0x3F800000)]
def parking : State :=
  let s := updating elasticUpd gathered1 0x40000 0 false
  withMem (natWrites 4 4 16384 ++ natWrites 0x14 4 16384 ++ natWrites 0x18 8 0x10000 ++ natWrites 0x20 8 0x80000 ++ natWrites 0x28 8 0xA0000)
    { s with time := { s.time with ticksTaken := 1 }, ops := [{ opOf elasticUpd (.upd gathered1) with slot := 0 }] }

theorem test_meets_update_park :
    let o : Op := { opOf elasticUpd (.upd gathered1) with slot := 0 }
    let s := parking
    s.canonical = true ∧ findOp s 3 5 = some o ∧ o.ended = none ∧ o.parked = false ∧ dOpcode o.d = 0x0900 ∧ runsElastic o.d = true ∧
      slotOver s o = true ∧ unitsHeld s = false ∧ opWaits s o = false ∧ updMayApply s o = true ∧ auditDue s (uStep o.d) = false ∧
      decisionOf s (uStep o.d) = some false ∧ uOpt o.d ≠ 3 ∧ uOpt o.d ≠ 2 ∧ gathered1.unit < 1 ∧ 1 < updUnitCount s 0 ∧ uZero o.d = false ∧
      regionsMeet (roleRegion s 0 0) (roleRegion s 0 3) = false ∧ 0 ≤ gathered1.unit := by
  decide +kernel

theorem test_meets_skid :
    let q : SkidReq := ⟨3, 5, 0, 2⟩
    let none' : State := { up with skidQ := [q] }
    let fits := setA none' Reg.skidCtrl_pages 2
    let e : SkidEntry := ⟨3, 5, 0, [0, 1], false⟩
    let c : State := { setA (setA (shard (updDesc 0) (.upd gathered1) 0 0 0) Reg.skidCtrl_pages 2) Reg.skidBase_baseLo 0x8 with skid := [e] }
    none'.skidQ = [q] ∧ skidFits none' q.need = false ∧ skidFits fits q.need = true ∧ memWf c.mem = true ∧
      c.skid.find? (fun e => !e.copied) = some e ∧ (findOp c 3 5).isSome ∧ unitsHeld c = false ∧ [0, 1].Nodup ∧ [0, 1].length = skidNeed c 0 := by
  decide +kernel

/-- Channel 15: two blocks, one slot each way, one request of each kind; its PAGES field is 0, so that no bytes are moved. -/
def pannier (x : PanRt) : State :=
  let f := fun (s : State) (r : Fld) (v : Nat) => setF s landABase r 15 v
  { f (f (f (f (f (f up Reg.pan_enable 1) Reg.pan_nblk 2) Reg.pan_slots 1) Reg.pan_outSem 1) Reg.pan_inSem 2)
      Reg.pan_digLo 0x1000 with
    sems := [(1, 1), (2, 1)], pan := [(15, x)] }

/-- A transfer that a re-enabled channel no longer counts, of no bytes, with its digest at 0x4000 and semaphore 3. -/
def move0 (stale : Bool) : PanMove := ⟨0x5000, 0x6000, 0, 0x4000, 3, stale⟩
def digestAt (s : State) : State := withMem (natWrites 0x4000 16 (ringDigest [])) s

theorem test_meets_pannier :
    let sp (st : Bool) := pannier ⟨0, 0, 0, 0, some (move0 st), none, 0⟩
    let fi (n : Nat) := pannier ⟨0, 0, 1, 0, none, some (move0 false), n⟩
    let held : State := { sp false with hbm := { up.hbm with copying := [4] } }
    let d := fetched (memBytes (fi 0).hostMem (move0 false).slow (move0 false).len) []
    thermalHold up = false ∧ spillMayBegin (pannier ⟨0, 0, 0, 0, none, none, 0⟩) 15 = true ∧ spillMayBegin (sp false) 15 = false ∧
      fillMayBegin (pannier ⟨0, 0, 1, 0, none, none, 0⟩) 15 = true ∧ fillMayBegin (sp false) 15 = false ∧ (sp true).canonical = true ∧
      (panGet (sp true) 15).spilling = some (move0 true) ∧ moveWaits (sp true) (move0 true) = false ∧ moveWaits held (move0 false) = true ∧
      (fi 2).canonical = true ∧ (panGet (fi 2) 15).filling = some (move0 false) ∧ (panGet (fi 3) 15).differed = 3 ∧
      moveWaits (fi 2) (move0 false) = false ∧ ringDigest d ≠ rdNat (fi 2) 0x4000 16 ∧
      ringDigest d = rdNat (digestAt (fi 2)) 0x4000 16 ∧ (digestAt (fi 2)).canonical = true ∧ (fi 3).canonical = true ∧
      (panGet (sp false) 15).filling.all (moveWaits (sp false)) = true := by
  decide +kernel

/-! ### Segments, collectives, the Derailleur -/

/-- Headers at their bounds: the least and the most that a field may say. -/
def segTop : SegHdr := ⟨6, true, true, true, 8, 0, 0, 2 ^ 28 - 1, 1, 32, 2 ^ 24 - 1, 2 ^ 24 - 1, 2 ^ 24 - 1, 2 ^ 64 - 1, 1023, 1023, 2 ^ 32 - 1, 2 ^ 32 - 1⟩

/-- A COMPRESS of a 1 × 1 INT4 array at 0x100 into 0x400, and a DECOMPRESS of one segment at 0x200 into INT4 at 0x400. -/
def cmpDesc : Desc := desc [(0, 0, 0x0600), (0x16, 0, 1), (0x20, 0, 0x100), (0x30, 0, 0x400), (0x3C, 0, 5), (0x3F, 0, 2), (0x40, 0, 1), (0x44, 0, 1), (0x50, 0, 1)]
def decDesc : Desc := desc [(0, 0, 0x0610), (0x12, 0, 1), (0x20, 0, 0x200), (0x28, 0, 0x400), (0x2D, 2, 1), (0x38, 0, 5), (0x3A, 0, 1), (0x44, 0, 1), (0x48, 0, 1)]

set_option maxRecDepth 20000 in
theorem test_meets_segments :
    let s := withMem [(0x100, 9)] (running cmpDesc .none)
    let o := opOf cmpDesc .none
    let t := withMem (bytesWrites 0x200 (encodeSegment seg1 [3] []).1) (running decDesc .none)
    (encodeSegment seg1 [3] []).1.length < 2 ^ 32 ∧ seg1.nrows * seg1.ncols = [3].length ∧ (∀ x ∈ [3], x < 2 ^ symw seg1.efmt) ∧
      cQ cmpDesc = 0 ∧ (runningOp s 3 5 0x0600) = some o ∧ compressFault s o 0 = none ∧
      compressFault s o (packSegment s o).bytes.length = none ∧ anyMeet [⟨cDst cmpDesc, 0, 1, 100⟩] (trainRegions s) = false ∧
      cRotate cmpDesc = false ∧ fmtCode (fwFmtD (cFmtSrc cmpDesc)) ≤ 6 ∧ cBlog cmpDesc = 2 ∧ fwMx (cFmtSrc cmpDesc) = false ∧
      dCheck cmpDesc ≤ 1 ∧ (packSegment s o).bytes.length < 2 ^ 32 ∧
      prodFailed (packSegment s o).st 3 5 = false ∧
      (runningOp t 3 5 0x0610).isSome ∧ dCheck decDesc ≤ 1 ∧ skippedAway (opOf decDesc .none) = false ∧ segAddrs t (xNseg decDesc) (dfld decDesc 0x20 41 0) = [0x200] ∧ decompressFault t decDesc [0x200] = none ∧
      xNseg decDesc = 1 ∧ xF32 decDesc = false ∧ packedLen (fmtWidth (fwFmtD (xFmt decDesc))) (xCols decDesc) ≤ slotPitch decDesc 0x28 ∧
      ((readSegment (fun k => memRead t.mem (0x200 + k))).toOption.map (fun r => r.2)) = some ([3], []) := by
  decide +kernel

/-- R189, R284, R287: a COMPRESS that quantises one element through a basis of 1.0 at 0x8200, whose product fails twice. -/
def quantDesc : Desc :=
  desc [(0, 0, 0x0600), (0x16, 0, 1), (0x20, 0, 0x100), (0x30, 0, 0x400), (0x3C, 0, 9), (0x3E, 0, 0x11), (0x3F, 0, 2), (0x40, 0, 1), (0x44, 0, 1),
    (0x50, 0, 1), (0x60, 16, 0x3FF)]
def quantOp : Op := { opOf quantDesc .none with facs := [⟨0, 0, 1, 3⟩] }
def quantising : State :=
  let s := setA (setA { up with ops := [quantOp] } Reg.truBase_baseLo 0x100) Reg.truCtrl_count 1
  withMem (natWrites 0x100 4 0x3FC00000 ++ natWrites 0x8008 8 0x8200 ++ natWrites 0x8020 2 1 ++ natWrites 0x8200 4 0x3F800000) s

theorem test_meets_quantising :
    let ups : List TileUpset := [⟨0, 1, [(0, 2 ^ 30)]⟩, ⟨0, 2, [(0, 2 ^ 29)]⟩]
    memWf quantising.mem = true ∧ runningOp quantising 3 5 0x0600 = some quantOp ∧ dCheck quantDesc ≤ 1 ∧ cQ quantDesc ≠ 0 ∧
      compressFault quantising quantOp 0 = none ∧ prodFailed (quantSegment quantising quantOp).st 3 5 = false ∧
      prodFailed (quantSegment (updOp quantising 3 5 (fun q => { q with upsets := ups })) quantOp).st 3 5 = true := by
  decide +kernel

theorem test_meets_segment_bounds : segHdrFits seg1 ∧ segHdrFits segTop ∧ segTop.nrows * segTop.ncols / 32 = [255].length := by
  simp only [segHdrFits]; decide +kernel

/-- R297: three coded symbols read back. -/
theorem test_segment_reads_back :
    let h : SegHdr := { seg1 with ncols := 3 }
    ((readSegment (fun i => (encodeSegment h [3, 9, 3] []).1.getD i 0)).toOption.map (fun r => r.2.1)) = some [3, 9, 3] := by
  decide +kernel

/-- A collective on axis 0, of two chips, of one FP32 element with TAG `t`. -/
def colDesc (op t : Nat) : Desc :=
  desc [(0, 0, op), (0x20, 0, 0x100), (0x28, 0, 0x200), (0x30, 0, 0x400), (0x38, 0, 1), (0x3C, 0, 1), (0x40, 0, 9), (0x42, 0, 9), (0x44, 0, t), (0x48, 0, 1)]

def colOk (op : Nat) : Bool :=
  let d := colDesc op 7
  let s : State := { sending with ops := [opOf d .none] }
  let me : Member := ⟨0, d, [], []⟩
  memWf s.mem && (runningOp s 3 5 op).isSome && (collectFault s (opOf d .none)).isNone && decide (dCheck d ≤ 1) && !membersHere s d [me] &&
    membersHere s d [me, ⟨1, d, [], []⟩] && (gGroupChips s d == [0, 1]) && (gKey (colDesc op 8) != gKey d) && (gBind (opOf d .none)).isNone &&
    !anyMeet [gDstRegion d] (⟨gWork d, 0, 1, workNeed s d⟩ :: trainRegions s)

theorem test_meets_collectives : colOk 0x0700 = true ∧ colOk 0x0701 = true ∧ colOk 0x0702 = true ∧ colOk 0x0703 = true := by
  decide +kernel

/-- R414 to R416: of 17 elements over chips 0 and 1 through an adder group, this chip sums its own 16 and takes the code of
the other owner as it is. -/
theorem test_all_reduce :
    let d := colDesc 0x0700 7 ||| desc [(0x3C, 6, 2), (0x38, 4, 1)]
    let s : State := { withMem (natWrites 0x100 4 0x3FC00000) sending with ops := [opOf d .none] }
    let t := after (.allReduce 3 5 [(1, d, leBytes 4 0x40200000, leBytes 4 7)]) s
    gN d = 17 ∧ gOwns s d 15 = true ∧ gOwns s d 16 = false ∧ (memNat t.mem 0x200 4, memNat t.mem 0x240 4) = (0x40800000, 7) := by
  decide +kernel

/-- A plan at 0x40000 of one group, one parameter, one piece that comes from chip 1 in round 0, two rounds; the master
of the target stands at 0x50000. -/
def rsDesc : Desc := desc [(0, 0, 0x0710), (0x20, 0, 0x40000), (0x2A, 0, 1)]
def planMem : List Host.Cell :=
  natWrites 0x40000 4 0x44524C52 ++ natWrites 0x40004 2 1 ++ natWrites 0x40008 4 1 ++ natWrites 0x40044 4 1 ++ natWrites 0x40048 8 0x41000 ++
    natWrites 0x40054 4 1 ++ natWrites 0x40058 2 2 ++ natWrites 0x40060 4 (2 ^ 23) ++ natWrites 0x40064 2 1 ++ natWrites 0x4006C 4 1 ++
    natWrites 0x40074 4 1 ++ natWrites 0x41000 4 1 ++ natWrites 0x41004 4 1 ++ natWrites 0x4100C 4 1 ++ natWrites 0x41014 4 1 ++
    natWrites 0x41018 8 0x50000 ++ natWrites 0x41020 8 0x50100 ++ natWrites 0x41048 2 8
def resharding (w : DrlWork) (v : Nat) : State :=
  let s := withMem (shardMem 0 0 0 ++ planMem) { sending with ops := [opOf rsDesc (.drl w)] }
  { s with chain := { s.chain with insts := [⟨66, 0, 0, 1, none, [], true, some v, 0⟩] } }
def voted : DrlWork := ⟨0, true, 1, [], [0], [], [], true, 0⟩
def taking : DrlWork := ⟨0, true, 0, [], [], [], [], false, 0⟩
def between : DrlWork := ⟨0, true, 0, [], [0], [], [], false, 0⟩
def piece1 (dig : Nat) : PieceMsg := ⟨1, ⟨0, 0, 0, 1, 0, 1⟩, [1, 2, 3, 4], dig⟩

theorem test_meets_reshard :
    let s := resharding voted 1
    let t := resharding taking 1
    let b := resharding between 1
    let land := landPiece t rsDesc 0 (piece1 0).key (piece1 0).values
    let got := ringDigest (regionBytes land.mem (keyRegion (targetsOf land rsDesc 0) (piece1 0).key))
    runningReshard s = some (opOf rsDesc (.drl voted)) ∧ opWaits s (opOf rsDesc (.drl voted)) = false ∧ findOp s 3 5 = some (opOf rsDesc (.drl voted)) ∧ planBad s rsDesc = false ∧ membersDiffer s rsDesc [(0, 0, 1)] = false ∧
      s.early = [] ∧ voted.group + 1 = rsEnd s rsDesc ∧ chainResult s 66 0 0 = some 1 ∧ rsEnd (switchGroup s (opOf rsDesc (.drl voted))) rsDesc = 1 ∧
      chainResult (resharding voted 0) 66 0 0 = some 0 ∧ runningReshard (resharding voted 0) = some (opOf rsDesc (.drl voted)) ∧
      runningReshard t = some (opOf rsDesc (.drl taking)) ∧ pieceFor t rsDesc 0 (piece1 0) = some 0 ∧ 0 ∉ taking.landed ∧ 0 ∉ taking.failed ∧ 0 ∉ taking.again ∧
      got = ringDigest [1, 2, 3, 4] ∧ got ≠ 0 ∧ runningReshard b = some (opOf rsDesc (.drl between)) ∧
      roundDone b (opOf rsDesc (.drl between)) = true ∧ slotOver b (opOf rsDesc (.drl between)) = false ∧
      between.round + 1 < grRounds b rsDesc 0 ∧ opWaits b (opOf rsDesc (.drl between)) = false ∧ between.voted = false ∧
      runningReshard up = none := by
  decide +kernel


/-! ### Rotations, partners, the ledger -/

/-- Parameters 0 and 1 of one element each, the second the twin of the first, and the one entry of the rotation table,
at 0x200. -/
def record1 (a ma re m1 : Nat) : List Host.Cell :=
  natWrites a 4 1 ++ natWrites (a + 4) 4 1 ++ natWrites (a + 0x0C) 4 1 ++ natWrites (a + 0x14) 4 1 ++ natWrites (a + 0x18) 8 ma ++
    natWrites (a + 0x20) 8 (ma + 0x800) ++ natWrites (a + 0x30) 8 m1 ++ natWrites (a + 0x40) 8 re ++ natWrites (a + 0x48) 2 8
def rotMem : List Host.Cell :=
  record1 0 0x1000 0x6000 0 ++ record1 0x80 0x2000 0 0x4000 ++ natWrites 0x204 4 1 ++ natWrites 0x208 4 0x205 ++ natWrites 0x210 8 0x7000 ++
    natWrites 0x218 8 0x7100 ++ natWrites 0x220 8 0x7200 ++ natWrites 0x228 8 0x7300

/-- Stand 0 is a member from rotation 0 on, in entry 0 of the partner table. -/
def stand0 (s : State) : State := partPut s Reg.part_state 0 1
/-- Stand 1 in entry 1, in a state, its session 1. -/
def stand1 (st : Nat) (s : State) : State := partPut (partPut (partPut s Reg.part_stand 1 1) Reg.part_state 1 st) Reg.part_session 1 1

/-- An operation of the rotation unit on those parameters, on a chip that reports (chip 0) or not. -/
def rotating (d : Desc) (w : Work) (reports : Bool) : State :=
  let s := setA (setA (setA (withMem rotMem (running d w)) Reg.paramCtrl_count 2) Reg.rotTable_baseLo 8) Reg.rotCount_count 1
  stand0 (if reports then s else setA s Reg.rotReport_chip 7)

theorem test_meets_form :
    let d := desc [(0, 0, 0x0800), (0x12, 0, 1)]
    let s := rotating d .none true
    let e := rotEntry s 0
    s.canonical = true ∧ (runningOp s 3 5 0x0800).isSome ∧ dCheck d ≤ 1 ∧ (rotEntries s).length = 1 ∧ e.num = 0 ∧
      regionsMeet (entryRegion s e e.delta) (roleRegion s e.param 5) = false ∧
      regionsMeet (entryRegion s e e.delta) (recordRegion s e.param 1) = false ∧
      regionsMeet (roleRegion s e.param 5) (recordRegion s e.param 1) = false ∧ pNrows s e.param = 1 ∧ pNrows s e.twin = 1 ∧
      pNcols s e.param = 1 ∧ pNcols s e.twin = 1 ∧ formRotates (opOf d .none) = false ∧ findOp s 0x10000 0 = none ∧
      regionsMeet (entryRegion s e e.delta) ⟨getA2 s Reg.rotStage_baseLo Reg.rotStage_baseHi, 0, 1, 4096 * getA s Reg.rotStagePages_pages⟩ = false ∧
      prodFailed (formRun s (opOf d .none)) 3 5 = false := by
  decide +kernel

theorem test_meets_merge :
    let d := desc [(0, 0, 0x0810)]
    let s := rotating d .none false
    let f := setA s Reg.rotId_idLo 1
    let all : State := { f with rot := { f.rot with contribs := [⟨0, 0, [0], [], 1⟩] } }
    let cut := setA f Reg.tickCtrl_run 1
    let m : MergeSet := ⟨0, 0xFE :: List.replicate 63 0xFF, 0⟩
    let r : State := { rotating d (.rot 1 none) false with rot := { s.rot with set := some m } }
    let qd : State := { r with txq := (sendMask s 0).txq.map (fun x => { x with cls := 0x83, msg := { x.msg with ctx := 3, idx := 5 } }) }
    let waits := fun (t : State) => t.txq.any (fun x => x.cls == 0x83 && x.msg.ctx == 3 && x.msg.idx == 5)
    let o := opOf d .none
    let rd := desc [(0, 0, 0x0810), (0x38, 2, 1), (0x68, 0, 0x30000)]
    let rep := rotating rd .none false
    let held := withMem (bytesWrites 0x30040 (List.replicate 64 0xFF)) rep
    s.canonical = true ∧ (runningOp s 3 5 0x0810) = some o ∧
      runningOp rep 3 5 0x0810 = some (opOf rd .none) ∧ rReplay rd = true ∧ rep.canonical = true ∧ setHeld rep (replaySet rep rd) = false ∧
      runningOp held 3 5 0x0810 = some (opOf rd .none) ∧ held.canonical = true ∧ setHeld held (replaySet held rd) = true ∧ rReplay d = false ∧ ownFormed s 0 = false ∧ isReporter f = false ∧
      ownFormed f 0 = true ∧ allArrived f 0 = false ∧ mergeReady f o = none ∧ allArrived all 0 = true ∧ all.canonical = true ∧
      cutoffTaken cut o = true ∧ cut.canonical = true ∧ r.canonical = true ∧ r.rot.ready = none ∧ mergeReady r (opOf d (.rot 1 none)) = some m ∧
      (rosterOf r 0).find? (fun k => decide (8 ≤ m.used.getD k 0xFF)) = some 0 ∧ qd.canonical = true ∧ waits (after (.merge 3 5) r) = false ∧
      waits (after (.merge 3 5) qd) = true := by
  decide +kernel

theorem test_meets_merge_messages :
    let n := rotating (desc [(0, 0, 0x0810)]) .none false
    let r := rotating (desc [(0, 0, 0x0810)]) .none true
    let put (s : State) (chip : Nat) : State := setRot s (fun t => { t with masks := [(0, chip, [1])] })
    let room := setA r Reg.ledgerCap_count 1
    isReporter n = false ∧ isReporter r = true ∧ [1] ≠ ([] : List Nat) ∧ formSet (put r 1) 0 = none ∧ (formSet (put r 0) 0).isSome ∧
      ledgerRoom room = true ∧ ledgerRoom r = false ∧ isReporter room = true := by
  decide +kernel

/-- R458: a bundle of stand 0 for rotation 4 with no segment, or one more than there are. -/
theorem test_meets_bundles :
    let s := setA (stand0 up) Reg.rotStagePages_pages 1
    let b := fun (kind : Nat) => bundleBytes 0 kind 4 1 []
    let bad := bundleBytes 0 0 4 1 [[]]
    stageFits up (b 0) = false ∧ stageFits s (b 0) = true ∧ stageFits s bad = true ∧ byteNat bad 4 4 = 1 ∧ sliceEntries s 1 0 = [] ∧
      rosterOf s 4 = [0] ∧ byteNat (b 0) 0 2 = 0x5254 ∧ byteNat (b 1) 3 1 = 1 ∧ byteNat (b 0) 0x18 4 = (b 0).length ∧
      standMask (rosterOf s 4) = byteNat (b 0) 0x10 8 ∧ byteNat (b 0) 4 4 = 0 ∧ byteNat (b 0) 8 8 = 4 ∧ s.stand ∈ rosterOf s 4 ∧
      stageFits s (b 1) = true ∧ [0, 1].map (fun k => match (decodeBundle (b k) k 4 1 0 [] 32 [] s).2 with
        | .ok l => l.isEmpty
        | .error _ => false) = [true, true] := by
  decide +kernel

/-- R462, R474: a stand that joins from rotation 5 on takes a merged bundle of rotation 4 by the bundle's own roster, and
no contribution. -/
theorem test_joiner_bundle :
    let s := partPut (setA (stand0 up) Reg.rotStagePages_pages 1) Reg.part_joinRot 0 5
    let two := stand1 1 s
    bundleRoster two 1 4 2 = [1] ∧ bundleRoster two 0 4 2 = [1] ∧ bundleRoster s 1 4 6 = [1, 2] ∧
      ownersOf (after (.rotationBundleReceive (bundleBytes 1 1 4 2 []) []) two) 4 = some [1] ∧
      getA (after (.rotationBundleReceive (bundleBytes 1 0 4 2 []) []) two) Reg.rotRefused_other = 1 := by
  decide +kernel

theorem test_meets_apply_and_basis :
    let d := desc [(0, 0, 0x0820)]
    let s := rotating d .none true
    let two := stand1 1 s
    let halt := sessPut two Reg.sess_authHalt 1 1
    let got : State := { s with rot := { s.rot with merged := [⟨0, 0, [0], [⟨0, 0, [[0x3F800000]]⟩], 1⟩] } }
    let e := rotEntry s 0
    let a := entryRegion s e (roleOff s e.twin 0)
    let other := entryRegion s e (roleOff s e.param 0) :: (workRegions s e.param ++ workRegions s e.twin)
    let b := desc [(0, 0, 0x0830)]
    let away := stand1 1 (partPut (rotating b .none true) Reg.part_state 0 2)
    let turned := withMem (natWrites 0x208 4 0x215 ++ natWrites 0x20C 4 1) away
    s.canonical = true ∧ (runningOp s 3 5 0x0820).isSome ∧ (missingOwners s 0).any (standHalted s) = false ∧ missingOwners s 0 = [0] ∧
      halt.canonical = true ∧ (missingOwners halt 0).any (standHalted halt) = true ∧ missingOwners got 0 = [] ∧
      applyWaits s (opOf d .none) = true ∧ applyWaits got (opOf d .none) = false ∧ got.rot.sealed ≤ got.rot.anchored ∧
      (rotEntries got).length = 1 ∧
      (mergedMat got 0 e).isSome ∧ (∀ q ∈ other, regionsMeet a q = false) ∧
      (∀ q ∈ a :: entryRegion s e (roleOff s e.twin 3) :: other, ∀ t ∈ [recordRegion s e.param 1, recordRegion s e.twin 1],
        regionsMeet q t = false) ∧
      (runningOp (rotating b .none true) 3 5 0x0830).isSome ∧ basisStand (rotating b .none true) 0 = 0 ∧
      basisPairs (rotating b .none true) = [] ∧ dCheck b ≤ 1 ∧ (runningOp away 3 5 0x0830).isSome ∧ basisStand away 0 ≠ away.stand ∧
      (basisPairs turned).map (fun p => p.1) = [1, 0] ∧ (runningOp turned 3 5 0x0830).isSome ∧ basisStand turned 0 ≠ turned.stand ∧
      (∀ p ∈ basisPairs turned, ∀ q ∈ turned.ops, readsCand turned p.1 q = false) ∧ (runningOp got 3 5 0x0820).isSome ∧ got.canonical = true ∧
      (missingOwners got 0).any (standHalted got) = false := by
  decide +kernel

/-- R465 with ETA 1 and MU 0 from A = 0: A becomes - the merged value, 1.0, and so does its momentum's source. -/
theorem test_apply :
    let d := desc [(0, 0, 0x0820), (0x3C, 0, 0x3F800000)]
    let s : State := rotating d .none true
    let got : State := { s with rot := { s.rot with merged := [⟨0, 0, [0], [⟨0, 0, [[0x3F800000]]⟩], 1⟩] } }
    memNat (after (.apply 3 5) got).mem 0x2000 4 = 0xBF800000 := by
  decide +kernel

theorem test_meets_ledger :
    let it : LedgerItem := ⟨0, 0, 0, 1, 0, List.replicate 64 0, none⟩
    let s := setA (setA { stand0 up with rot := { up.rot with ledger := [it], digests := [(0, 0, [])] } } Reg.ledgerCap_count 1) Reg.ledgerBase_baseLo 0x100
    let e := leBytes 4 0x4C474452 ++ [1, 0, 1, 0] ++ List.replicate 760 0
    let t := stand1 1 up
    let c : State := { t with rot := { t.rot with common := [(0, 0, [1])] } }
    s.canonical = true ∧ isReporter s = true ∧ s.rot.ready = none ∧ s.rot.ledger = [it] ∧ ledgerFits s = true ∧
      (ledgerDigests s it []).isSome ∧ s.rot.common = [] ∧ t.canonical = true ∧ byteNat e 5 1 = 0 ∧ byteNat e 0 4 = 0x4C474452 ∧
      byteNat e 6 1 = 1 ∧ partOf t 1 = some 1 ∧ ({ it with kind := 1 }).kind ≠ 0 ∧ partOf up 1 = none ∧ isReporter t = true ∧ (1 : Nat) ≠ c.stand ∧
      (0, c.stand, [1]) ∈ c.rot.common ∧ c.canonical = true ∧ [1] ≠ (e.drop 0x80).take 64 := by
  decide +kernel

theorem test_meets_partner :
    let d (act : Nat) : Desc := desc [(0, 0, 0x0840), (0x38, 0, act + 256), (0x48, 0, 1)]
    let s := stand0 (running (d 0) .none)
    let full := (List.range 64).foldl (fun t e => partPut t Reg.part_state e 1) s
    let drop := stand1 2 (stand0 (running (d 2) .none))
    let split := stand1 1 (stand0 (running (d 1) .none))
    let wait : Op := { opOf (desc [(0, 0, 0x0810)]) .none with idx := 6 }
    let other : State := { split with ops := split.ops ++ [wait] }
    s.canonical = true ∧ (runningOp s 3 5 0x0840).isSome ∧ rAction (d 0) = 0 ∧ dCheck (d 0) ≤ 1 ∧ emptyPart s = some 1 ∧
      emptyPart full = none ∧ full.canonical = true ∧ (runningOp drop 3 5 0x0840).isSome ∧ rAction (d 2) = 2 ∧
      partOf drop (rStand (d 2)) = some 1 ∧ drop.canonical = true ∧ (runningOp split 3 5 0x0840).isSome ∧ rAction (d 1) = 1 ∧
      split.canonical = true ∧ 0 ≤ split.rot.anchored ∧ closeUnread split (opOf (d 1) .none) = false ∧ 1 ∈ outsideOf split (rMask (d 1) 0) ∧
      partOf split 1 = some 1 ∧ other.canonical = true ∧ (runningOp other 3 5 0x0840).isSome ∧ closeUnread other (opOf (d 1) .none) = false ∧
      rotWaiting wait = true ∧ (wait.ctx, wait.idx) ≠ (3, 5) := by
  decide +kernel

/-- R477: the stand outside the mask is lost. -/
theorem test_split :
    let t := after (.partnerSplit 3 5 0) (stand1 1 (stand0 (running (desc [(0, 0, 0x0840), (0x38, 0, 1), (0x48, 0, 1)]) .none)))
    (partF t Reg.part_state 0, partF t Reg.part_state 1, getA t Reg.rotStatus_split) = (1, 2, 1) := by
  decide +kernel

theorem test_meets_heal_and_join :
    let d (r m1 : Nat) : Desc := desc [(0, 0, 0x0850), (0x20, 0, r), (0x48, 0, 1), (0x50, 0, m1)]
    let s (r m1 : Nat) := stand1 1 (stand0 (running (d r m1) .none))
    let halt := sessPut (s 4 2) Reg.sess_authHalt 1 1
    let j := desc [(0, 0, 0x0860), (0x70, 0, 0x20000)]
    let js := running j .none
    let good := withMem (bytesWrites 0x20080 (joinDigest js [])) js
    (s 4 2).canonical = true ∧ (runningOp (s 4 2) 3 5 0x0850).isSome ∧ halt.canonical = true ∧ (healBranches (d 4 2)).flatten = [0, 1] ∧
      [0, 1].any (standHalted halt) = true ∧ [0, 1].any (standHalted (s 4 2)) = false ∧ closeUnread (s 4 2) (opOf (d 4 2) .none) = false ∧
      (∃ k ∈ [0, 1], k ≠ (s 4 2).stand ∧ ∀ p ∈ ([] : List (Nat × Nat)), p.1 ≠ k) ∧ dCheck (d 4 2) ≤ 1 ∧
      (∀ k ∈ [0, 1], k ≠ (s 4 2).stand → ∃ p ∈ [(1, 0)], p.1 = k) ∧ 0 ≤ (s 4 2).rot.anchored ∧
      (allDigests (s 4 2) [0, 1] [(1, [])]).isSome ∧ (runningOp (s 31 0) 3 5 0x0850).isSome ∧ (s 31 0).canonical = true ∧
      (runningOp (s 32 0) 3 5 0x0850).isSome ∧ (s 32 0).canonical = true ∧ partOf (s 31 0) 0 = some 0 ∧ (healBranches (d 31 0)).flatten = [0] ∧ rotEntries (s 31 0) = [] ∧
      ((allDigests (s 31 0) [0] []).map (fun ds => ds.all (fun x => x == ds.headD []))) = some true ∧
      rRot (d 31 0) + 1 - (s 31 0).rot.anchored ≤ getA (s 31 0) Reg.rotCtrl2_graftWindow ∧
      ¬ rRot (d 32 0) + 1 - (s 32 0).rot.anchored ≤ getA (s 32 0) Reg.rotCtrl2_graftWindow ∧
      (runningOp good 3 5 0x0860).isSome ∧ joinDigest good [] = ((rdBytes good 0x20000 256).drop 0x80).take 64 ∧ good.rot.entryNo = 0 ∧
      chainVerifies good (rCert j) (rdBytes good 0x20000 256) (rdBytes good 0x20100 512) = false ∧ dCheck j ≤ 1 := by
  decide +kernel


/-! ### Tally, attestation, votes, dumps -/

/-- Records are kept, two slots from 0x100000 on. -/
def tallied (s : State) : State := setA (setA (setA s Reg.tallyCtrl_enable 1) Reg.tallyCtrl_cap 2) Reg.tallyBase_baseLo 0x100
def openRec : Tally := ⟨3, 0, true, 0, 0, 0, 0, 0, 0, 0, []⟩
def closing (w : CloseWork) : State :=
  let s := tallied (running (desc [(0, 0, 0x0A10), (0x20, 0, 3)]) (.close w))
  { s with tally := { s.tally with recs := [openRec] } }
/-- The flag of step 0 has settled as 1. -/
def flagged (s : State) : State := { s with chain := { s.chain with insts := [⟨64, 0, 0, 0, some 1, [], true, some 1, 0⟩] } }

theorem test_meets_tally :
    let s := tallied (running (desc [(0, 0, 0x0A00), (0x20, 0, 3)]) .none)
    let wait : State := { s with tally := { s.tally with signing := [(0, tallySlot s 3)] } }
    let fresh := closeFresh false
    let asked : CloseWork := { fresh with asked := true }
    let tail : CloseWork := { asked with kept := true, nf := some false }
    let w := closing tail
    let busy : State := { w with ops := { opOf (desc [(0, 0, 0x0800)]) .none with idx := 4, seq := 0 } :: w.ops }
    let hot := setD w Reg.brake_active 1
    let d := desc [(0, 0, 0x0A10), (0x20, 0, 3)]
    let last := closing { tail with masters := some (0, []) }
    let due := setA last Reg.tallySign_every 1
    memWf s.mem = true ∧ (runningOp s 3 5 0x0A00).isSome ∧ tallyKept wait = true ∧ wait.tally.signing.any (fun q => q.2 == tallySlot wait 3) = true ∧
      s.tally.signing.any (fun q => q.2 == tallySlot s 3) = false ∧ tallyOpenFault s (desc [(0, 0, 0x0A00), (0x20, 0, 3)]) = none ∧
      (closing fresh).canonical = true ∧ (runningOp (closing fresh) 3 5 0x0A10).isSome ∧
      closeResults (closeAsk (closing fresh) (opOf d (.close fresh))) 0 = none ∧
      closeResults (flagged (closing asked)) 0 = some (1, []) ∧ (flagged (closing asked)).canonical = true ∧
      (runningOp busy 3 5 0x0A10).isSome ∧ busy.ops.any (closeWaitsFor (opOf d (.close tail))) = true ∧ busy.canonical = true ∧
      last.canonical = true ∧ last.ops.any (fun p => dTag p.d == 3) = false ∧ tallyRec last 3 = some openRec ∧ last.tally.signing = [] ∧
      memWf wait.mem = true ∧ (runningOp wait 3 5 0x0A00).isSome ∧ (closeOf (opOf d (.close fresh))).asked = false ∧
      (closeOf (opOf d (.close fresh))).nf = none ∧ (runningOp (flagged (closing asked)) 3 5 0x0A10).isSome ∧ asked.nf = none ∧
      asked.kept = false ∧ tail.nf.isSome = true ∧ tail.masters = none ∧ unitsHeld hot = true ∧ (runningOp hot 3 5 0x0A10).isSome ∧
      hot.canonical = true ∧ (runningOp last 3 5 0x0A10).isSome ∧ signDue last 0 = false ∧ signDue due 0 = true ∧ due.canonical = true ∧
      tallyRec due 3 = some openRec := by
  decide +kernel

/-- R151: with the flag settled as 1 and POLICY 0, the step closes and its state writes are skipped. -/
theorem test_close :
    let t := after (.tallyClose 3 5) (flagged (closing { closeFresh false with asked := true }))
    (stepId t, getA t Reg.nfStatus_flag, getA t Reg.nfStatus_skipped, t.decisions) = (1, 1, 1, [(0, true)]) := by
  decide +kernel

theorem test_meets_digest_and_attest :
    let d := desc [(0, 0, 0x0A20), (0x20, 0, 0x100), (0x28, 0, 0x200), (0x30, 0, 1), (0x34, 0, 16)]
    let a := desc [(0, 0, 0x0A30), (0x20, 0, 0x1000)]
    let s := running d .none
    let t := running a .none
    memWf s.mem = true ∧ (runningOp s 3 5 0x0A20).isSome ∧ unitsHeld s = false ∧ dCheck d ≤ 1 ∧ accessFault s [dgSrc d, dgDst d] = none ∧
      outFault s d [dgDst d] = none ∧ anyMeet [dgDst d] (trainRegions s) = false ∧ memWf t.mem = true ∧ (runningOp t 3 5 0x0A30).isSome ∧
      accessFault t [attestRegion t a] = none ∧ outFault t a [attestRegion t a] = none ∧ anyMeet [attestRegion t a] (trainRegions t) = false := by
  decide +kernel

/-- R504, R505: a field whose copies agree, and one whose three copies differ. -/
theorem test_meets_votes :
    let f := Reg.omaCtrl_overdueUs
    let a := fldAddr landABase f 0
    let s : State := { up with regs1 := [(a, 7)], regs2 := [(a, 8)] }
    up.canonical = true ∧ blkOf landABase = some (.landA, 0) ∧ (f, a) ∈ votedWords .landA ∧ fieldCopies up f a = (100, 100, 100) ∧
      isSplit (fieldCopies s f a) = true ∧ s.canonical = true ∧ s.tally.splits = [] ∧ blkBase .landA = landABase := by
  decide +kernel

/-- R504: one copy that differs is outvoted and put right. -/
theorem test_vote :
    let a := fldAddr devBase Reg.pwrCtrl_cap 0
    let t := after (.voteScrub devBase [(1, a, 1)]) up
    (getD t Reg.pwrCtrl_cap, fieldCopies t Reg.pwrCtrl_cap a) = (850, 850, 850, 850) := by
  decide +kernel

theorem test_meets_dumps :
    let s : State := { setA up Reg.evdCtrl_cap 2 with dumps := [(6, 7, [])] }
    let full := setA s Reg.evdTail_indexLo 2
    let out := setA s Reg.evdBase_baseHi 1
    s.canonical = true ∧ s.dumps = [(6, 7, [])] ∧ (dumpTail s + 2 ^ 32 - getA s Reg.evdHead_index) % 2 ^ 32 < getA s Reg.evdCtrl_cap ∧
      inHbm s (getA2 s Reg.evdBase_baseLo Reg.evdBase_baseHi) 17408 = true ∧ full.canonical = true ∧
      getA full Reg.evdCtrl_cap ≤ (dumpTail full + 2 ^ 32 - getA full Reg.evdHead_index) % 2 ^ 32 ∧ out.canonical = true ∧
      inHbm out (getA2 out Reg.evdBase_baseLo Reg.evdBase_baseHi) 17408 = false := by
  decide +kernel

/-! ### Certificates -/

/-- RSA by hand: with n = 3233 and e = 17, 65 goes to 2790, and with d = 2753 back to 65. -/
theorem test_powMod : (powMod 3233 5 65 17, powMod 3233 12 2790 2753) = (2790, 65) := by decide +kernel

/-- X.690: a short and a long length, and one that says more than there is. -/
theorem test_derNext :
    (derNext [0x04, 0x02, 7, 8, 9], (derNext ([0x30, 0x81, 0x80] ++ List.replicate 130 5)).map (fun p => (p.1.body.length, p.2.length)),
      derNext [0x04, 0x03, 7, 8]) = (some (⟨4, [7, 8], [4, 2, 7, 8]⟩, [9]), some (128, 2), none) := by
  decide +kernel

/-! ### Bring-up, the mailbox, power and the ports -/

/-- Bring-up in a stage. -/
def stageOf (n : Nat) (f : BootRt → BootRt := id) : State :=
  { State.reset with boot := f { State.reset.boot with stage := n, perst := false } }
def okPart : CopySeen := ⟨true, true, true⟩

/-- R561: PERST_N released from reset, with nothing that holds the device; a trip that has cooled down. -/
theorem test_meets_release :
    let s := State.reset
    let cool : State := { s with boot := { s.boot with trip := true }, power := { s.power with tj := 99 } }
    s.canonical = true ∧ s.boot.perst = true ∧ s.boot.railLow = false ∧ s.boot.trip = false ∧ cool.boot.trip = true ∧ cool.power.tj < 100 ∧
      up.boot.perst = false ∧ (stageOf 1).boot.stage ≠ 0 ∧ (stageOf 1).boot.railLow = false ∧ (stageOf 1).boot.trip = false ∧
      (stageOf 3 (fun b => { b with halted := true })).boot.halted = true := by
  decide +kernel

/-- R552 to R559: the factory's copy 0 and firmware copy A are valid, the blank copy 1 is not. -/
theorem test_meets_stages :
    let s := stageOf 2
    let p := (partCauseOf s 0 okPart, partCauseOf s 1 okPart)
    let q := (partCauseOf s 0 ⟨true, true, false⟩, partCauseOf s 1 okPart)
    let f := stageOf 3
    let g := (fwCauseOf f 0 ⟨true, true⟩, fwCauseOf f 1 ⟨true, true⟩)
    let h := (fwCauseOf f 0 ⟨false, true⟩, fwCauseOf f 1 ⟨true, true⟩)
    s.canonical = true ∧ s.boot.halted = false ∧ p = (0, 1) ∧ chooseCopy p (partSeq s) = some 0 ∧ q = (4, 1) ∧
      chooseCopy q (partSeq s) = none ∧ g = (0, 2) ∧ chooseCopy g (fwSeq f) = some 0 ∧ h = (1, 2) ∧ chooseCopy h (fwSeq f) = none ∧
      (256 + 255) % 256 ≠ 0 ∧ (16 + 15) % 16 ≠ 0 ∧ f.canonical = true ∧ f.boot.stage = 3 ∧
      (∀ k, k < 8 → (List.replicate 8 36).getD k 0 = if getD (stageOf 6) Reg.devId_variant = 1 then 72 else 36) ∧
      (∀ k, k < 8 → (List.replicate 8 72).getD k 0 = if getD (setD (stageOf 6) Reg.devId_variant 1) Reg.devId_variant = 1 then 72 else 36) ∧
      (setD (stageOf 6) Reg.devId_variant 1).canonical = true := by
  decide +kernel

/-- R574: stage 9 with the time acquired; not acquired, before and after 12 s. -/
theorem test_meets_acquire :
    let s := stageOf 9 (fun b => { b with log := [⟨5, 8, 0, 0⟩] })
    let timed := setB s Reg.timeStatus_state 2
    s.canonical = true ∧ timed.canonical = true ∧ getB timed Reg.timeStatus_state = 2 ∧ getB s Reg.timeStatus_state = 0 ∧
      acquireOver s 12000000004 = false ∧ acquireOver s 12000000005 = true ∧ s.boot.halted = false ∧ s.boot.stage = 9 := by
  decide +kernel

/-- R560: firmware copies A and B both valid, and A alone: a copy that does not start leaves the other, or none. -/
theorem test_fw_timeout :
    let s := stageOf 3
    let two : State := { s with flash := memWriteAll s.flash (natWrites (fwBase 1) 8 0x14D574648 ++ natWrites (fwBase 1 + 8) 8 1 ++ natWrites (fwBase 1 + 0x10) 4 16) }
    let x : FwSeen := ⟨true, true⟩
    two.canonical = true ∧ fwCauseOf two 1 x = 0 ∧ (after (.fwStartTimeout 0 x x) two).boot.halted = false ∧
      (after (.fwStartTimeout 0 x x) two).boot.fwDead = [0] ∧ (after (.fwStartTimeout 0 x x) s).boot.halted = true := by
  decide +kernel

/-- R561, R563: a supply that is good goes on to stage 2; R564: one that is not halts with code 0x81. -/
theorem test_supply :
    let s := stageOf 1
    ((after (.bootStageEnd 5 (.supply 0 true)) s).boot.stage, getD (after (.bootStageEnd 5 (.supply 4 true)) s) Reg.bootStatus_code,
      (after (.bootStageEnd 5 (.supply 4 true)) s).boot.halted) = (2, 0x81, true) := by
  decide +kernel

/-- R571: at ready, with changes to write; the other stages of the mailbox. -/
theorem test_meets_mailbox :
    let s := stageOf 10 (fun b => { b with draft := [(0x10100, 1)], fw := some 0 })
    partDue s = true ∧ (stageOf 10).boot.stage = 10 ∧ partDue (stageOf 10) = false ∧ State.reset.boot.stage = 0 ∧ slotIdle s 1 = false ∧ slotIdle s 2 = true ∧
      slotIdle s 3 = false ∧ 0x3FFFFFF + [(0 : Byte)].length ≤ 0x4000000 ∧ 0x4000000 < 0x4000000 + [(0 : Byte)].length ∧
      memWf s.flash = true ∧ fwCauseOf s 0 ⟨true, true⟩ = 0 ∧ 0xC003 ∉ mboxOpcodes ∧ (stageOf 1).boot.stage = 1 ∧ 2 ≤ (stageOf 2).boot.stage ∧
      (stageOf 9).boot.stage < 10 := by
  decide +kernel

/-- A part record copy may read back as it was written, and otherwise (R557). -/
theorem test_meets_part_record_write :
    ∃ alt, readBack State.reset (signedCopy State.reset) [] = signedCopy State.reset ∧
      readBack State.reset (signedCopy State.reset) alt ≠ signedCopy State.reset := by
  have hf : memWf (signedCopy State.reset) = true := by
    refine memWriteAll_wf _ _ (memWriteAll_wf _ _ (memWriteAll_wf _ _ (memWriteAll_wf _ _ ?_)))
    exact sparseWf_filter _ _ _ (by decide +kernel)
  generalize signedCopy State.reset = f at hf
  refine ⟨[(0, memRead f (partBase 1) + 1)], rfl, fun h => ?_⟩
  have h1 := memRead_write_same f (partBase 1) (memRead f (partBase 1) + 1) hf
  have h2 : memWrite f (partBase 1) (memRead f (partBase 1) + 1) = f := h
  rw [h2] at h1
  exact absurd h1 (by generalize memRead f (partBase 1) = x; revert x; decide)

/-- R587, R588: at the limits, the governor goes down, up or stays. -/
theorem test_meets_governor :
    let s := up
    let low : State := { up with power := { up.power with k := 0 } }
    let one : State := { up with power := { up.power with k := 32 } }
    s.boot.stage ≠ 0 ∧ s.canonical = true ∧ s.power.k = 33 ∧ getD s Reg.pwrCtrl_cap < 851 ∧ getD s Reg.pwrCtrl_tjLimit ≤ 100 ∧
      low.power.k = 0 ∧ one.power.k < getD one Reg.pwrCtrl_aclkMax ∧ 830 + 20 ≤ getD one Reg.pwrCtrl_cap ∧ 97 + 3 ≤ getD one Reg.pwrCtrl_tjLimit ∧
      up.power.avs = none ∧ ({ up with power := { up.power with avs := some (33, 32) } } : State).power.avs.isSome = true ∧
      low.canonical = true ∧ one.canonical = true ∧ State.reset.boot.stage = 0 := by
  decide +kernel

/-- R588: one watt over the cap takes one step down. -/
theorem test_governor : (after (.governorWindow 851 50) up).power = ⟨32, some (33, 32), 50, 0, false, false⟩ := by decide +kernel

/-- R578, R591, R593: rails at nominal, at the warning threshold, just below it, and below the reset threshold. -/
theorem test_meets_rails :
    let at' := fun (p : Nat) => (List.range 8).map (fun r => railNominal up r * p / 100)
    let low := fun (uv : List Nat) => railsThat uv (fun r v => decide (v < railWarn up r))
    let dead := fun (uv : List Nat) => railsThat uv (fun r v => decide (v < railReset up r))
    let b := setD up Reg.brake_active 1
    let l : State := { State.reset with boot := { State.reset.boot with perst := false, railLow := true } }
    low (at' 100) = [] ∧ low (at' 95) = [] ∧ dead (at' 92) = [] ∧ low (at' 92) = List.range 8 ∧ dead (at' 80) = List.range 8 ∧
      getD up Reg.brake_active = 0 ∧ getD b Reg.brake_active = 1 ∧ b.canonical = true ∧ railsRecovered b (at' 96) = true ∧
      railsRecovered b (at' 95) = false ∧ l.boot.railLow = true ∧ l.boot.trip = false ∧
      railsThat ((List.range 8).map (railNominal l)) (fun r v => !railInBand l r v) = [] ∧
      railsThat (at' 90) (fun r v => !railInBand l r v) ≠ [] ∧ l.boot.perst = false ∧ up.canonical = true ∧ up.boot.stage ≠ 0 ∧
      dead (0 :: (at' 100).drop 1) = [0] ∧ up.boot.railLow = false ∧ ({ up with boot := { up.boot with portsOff := true } } : State).boot.portsOff = true ∧
      up.boot.portsOff = false := by
  decide +kernel

/-- R590: a trip at 125 °C resets the device, and one degree less does not. -/
theorem test_trip :
    ((after (.temperatureCrossing 125 0) up).boot.stage, (after (.temperatureCrossing 124 104) up).boot.stage,
      thermalHold (after (.temperatureCrossing 110 0) up)) = (0, 10, true) := by
  decide +kernel

/-- R585: IDCODE is captured, and EXTEST drives a pin at the level that was preloaded. -/
theorem test_ports :
    let t := after (.extest 0) (after (.samplePreload 0 (2 ^ 16)) up)
    ((after .idcode up).jtag.captured, pinDrive t 16, pinDrive t 0) = (0x1A7CE0FF, .level true, .level false) := by
  decide +kernel


end Sys2Proof.Tests
end

section
/-!
SUPPORT. Fields that are not voted, the event counters among them: what a write of them changes, and which fields events
leave as they read.
-/

namespace Sys2Proof.Machine

/-- `t` is `s` but for copy 0 of the registers. -/
def RegsOnly (s t : State) : Prop := t = { s with regs := t.regs }

theorem RegsOnly.refl (s : State) : RegsOnly s s := rfl

theorem RegsOnly.trans {s t u : State} (h : RegsOnly s t) (k : RegsOnly t u) : RegsOnly s u := by
  unfold RegsOnly at *
  rw [k, h]

/-- A write of a field that is not voted changes copy 0 of the registers only. -/
theorem setF_regsOnly (s : State) (base : Nat) {f : Fld} (k v : Nat) (hf : f.acc ≠ .rwv) :
    RegsOnly s (setF s base f k v) := by
  unfold RegsOnly setF
  simp only [if_neg hf]

/-- A count that is not voted changes copy 0 of the registers only. -/
theorem countF_regsOnly (s : State) (base : Nat) {f : Fld} (k n : Nat) (hf : f.acc ≠ .rwv) :
    RegsOnly s (countF s base f k n) := setF_regsOnly s base k _ hf

/-- An event counter that is raised changes copy 0 of the registers only. -/
theorem bumpCounter_regsOnly (s : State) (base i n : Nat) : RegsOnly s (bumpCounter s base i n) := by
  have count := fun t j v => setF_regsOnly t base (f := Reg.evc_count) j v (by decide)
  have overflow := fun t v => setF_regsOnly t base (f := Reg.evovf_ovf) 0 v (by decide)
  unfold bumpCounter
  dsimp only
  split
  · exact count _ _ _
  · split
    · split
      · exact (count _ _ _).trans (count _ _ _)
      · exact ((count _ _ _).trans (count _ _ _)).trans (overflow _ _)
    · exact (count _ _ _).trans (overflow _ _)

/-- Events change copy 0 of the registers only. -/
theorem event_regsOnly (s : State) (base src n : Nat) : RegsOnly s (event s base src n) := by
  have h : ∀ (l : List Nat) (t : State), RegsOnly s t →
      RegsOnly s (l.foldl (fun t i => if counterTakes s base i src then bumpCounter t base i n else t) t) := by
    intro l
    induction l with
    | nil => exact fun _ ht => ht
    | cons i l ih =>
      intro t ht
      refine ih _ ?_
      dsimp only
      split
      · exact ht.trans (bumpCounter_regsOnly t base i n)
      · exact ht
  exact h _ s (.refl s)

/-- Copies 0 of fields at different offsets of a block have different addresses. -/
theorem fldAddr_zero_ne {base : Nat} {f g : Fld} (h : g.off ≠ f.off) : fldAddr base g 0 ≠ fldAddr base f 0 := by
  simp only [fldAddr, Nat.mul_zero]
  omega

/-- Fields read the same in states whose registers are the same. -/
theorem getF_congr {s t : State} (h0 : t.regs = s.regs) (h1 : t.regs1 = s.regs1) (h2 : t.regs2 = s.regs2) (base : Nat)
    (f : Fld) (k : Nat) : getF t base f k = getF s base f k := by
  unfold getF
  rw [h0, h1, h2]

/-- The canonical form carries over to a state that is kept. -/
theorem Kept.canonical {z s : State} (h : Kept z s) (hz : z.canonical = true) : s.canonical = true := by
  obtain ⟨_, _, _, _, hk⟩ := h
  exact hk hz

/-- An event counter that is raised leaves every field below the counter words as it reads. -/
theorem getF_bumpCounter_below {s : State} {base base' i n j : Nat} {g : Fld} (hs : s.canonical = true)
    (hg : fldAddr base' g j < base + 0x3F00) : getF (bumpCounter s base i n) base' g j = getF s base' g j := by
  have count : ∀ (t : State) (k v : Nat), t.canonical = true →
      getF (setF t base Reg.evc_count k v) base' g j = getF t base' g j := fun t k v ht =>
    getF_setF_other t base base' _ g k j v ht (by
      show _ ≠ base + 0x3F00 + 4 * k
      omega)
  have overflow : ∀ (t : State) (v : Nat), t.canonical = true →
      getF (setF t base Reg.evovf_ovf 0 v) base' g j = getF t base' g j := fun t v ht =>
    getF_setF_other t base base' _ g 0 j v ht (by
      show _ ≠ base + 0x3F84
      omega)
  have counted : ∀ k v, (setF s base Reg.evc_count k v).canonical = true := fun k v =>
    (setF_kept s base _ k v (.refl s)).canonical hs
  have counted2 : ∀ k v k' v', (setF (setF s base Reg.evc_count k v) base Reg.evc_count k' v').canonical = true :=
    fun k v k' v' => (setF_kept _ base _ k' v' (.refl _)).canonical (counted k v)
  unfold bumpCounter
  dsimp only
  split
  · exact count _ _ _ hs
  · split
    · split
      · rw [count _ _ _ (counted _ _), count _ _ _ hs]
      · rw [overflow _ _ (counted2 _ _ _ _), count _ _ _ (counted _ _), count _ _ _ hs]
    · rw [overflow _ _ (counted _ _), count _ _ _ hs]

/-- Events leave every field below the block's counter words as it reads. -/
theorem getF_event_below {s : State} {base base' src n j : Nat} {g : Fld} (hs : s.canonical = true)
    (hg : fldAddr base' g j < base + 0x3F00) : getF (event s base src n) base' g j = getF s base' g j := by
  have h : ∀ (l : List Nat) (t : State), t.canonical = true → getF t base' g j = getF s base' g j →
      getF (l.foldl (fun t i => if counterTakes s base i src then bumpCounter t base i n else t) t) base' g j =
        getF s base' g j := by
    intro l
    induction l with
    | nil => exact fun _ _ ht => ht
    | cons i l ih =>
      intro t hc ht
      simp only [List.foldl_cons]
      split
      · exact ih _ ((bumpCounter_kept t base i n (.refl t)).canonical hc) ((getF_bumpCounter_below hc hg).trans ht)
      · exact ih t hc ht
  exact h _ s hs rfl

end Sys2Proof.Machine
end

section
/-!
SUPPORT. What memory reads after a list of writes: the value that the writes of an address agree on.
-/

namespace Sys2Proof.Machine

/-- An address that a list of writes names reads the value that all of its writes carry. -/
theorem memRead_writeAll_agree {ws : List Host.Cell} {m : List Host.Cell} {c : Nat} {v : Byte} (hm : memWf m = true)
    (hv : ∀ w ∈ ws, w.1 = c → w.2 = v) (hc : ∃ w ∈ ws, w.1 = c) : memRead (memWriteAll m ws) c = v := by
  induction ws generalizing m with
  | nil => simp at hc
  | cons w r ih =>
    have hw := memWrite_wf m w.1 w.2 hm
    by_cases hr : ∃ x ∈ r, x.1 = c
    · exact ih hw (fun x hx => hv x (List.mem_cons_of_mem _ hx)) hr
    · have hwc : w.1 = c := by simpa [not_exists.mp hr, hr] using hc
      have hother : ∀ x ∈ r, x.1 ≠ c := fun x hx e => hr ⟨x, hx, e⟩
      calc memRead (memWriteAll (memWrite m w.1 w.2) r) c
          = memRead (memWrite m w.1 w.2) c := memRead_writeAll_other r _ c hother hw
        _ = w.2 := hwc ▸ memRead_write_same m w.1 w.2 hm
        _ = v := hv w (List.mem_cons_self) hwc

/-- The writes of some bytes from an address on: byte `i` at the `i`-th address. -/
theorem mem_bytesWrites {a : Nat} {bs : List Byte} {w : Host.Cell} :
    w ∈ bytesWrites a bs ↔ ∃ i, i < bs.length ∧ w = (a + i, bs.getD i 0) := by
  constructor
  · intro h
    obtain ⟨⟨i, b⟩, hp, rfl⟩ := List.mem_map.mp h
    obtain ⟨k, hk, e⟩ := List.mem_iff_getElem.mp hp
    simp only [List.getElem_zip, List.getElem_range, Prod.mk.injEq] at e
    obtain ⟨rfl, rfl⟩ := e
    have hk' : k < bs.length := by simpa using hk
    exact ⟨k, hk', by simp [hk']⟩
  · rintro ⟨i, hi, rfl⟩
    refine List.mem_map.mpr ⟨(i, bs[i]), List.mem_iff_getElem.mpr ⟨i, by simpa using hi, by simp⟩, ?_⟩
    simp [hi]

/-- The addresses that the writes of some bytes name. -/
theorem exists_mem_bytesWrites {a c : Nat} {bs : List Byte} :
    (∃ w ∈ bytesWrites a bs, w.1 = c) ↔ a ≤ c ∧ c < a + bs.length := by
  constructor
  · rintro ⟨w, hw, rfl⟩
    obtain ⟨i, hi, rfl⟩ := mem_bytesWrites.mp hw
    dsimp only
    omega
  · rintro ⟨h1, h2⟩
    exact ⟨_, mem_bytesWrites.mpr ⟨c - a, by omega, rfl⟩, by dsimp only; omega⟩

/-- Bytes written from an address on are read there. -/
theorem memRead_bytesWrites_in {m : List Host.Cell} {a i : Nat} {bs : List Byte} (hm : memWf m = true)
    (hi : i < bs.length) : memRead (memWriteAll m (bytesWrites a bs)) (a + i) = bs.getD i 0 := by
  refine memRead_writeAll_agree hm (fun w hw e => ?_) ⟨_, mem_bytesWrites.mpr ⟨i, hi, rfl⟩, rfl⟩
  obtain ⟨j, hj, rfl⟩ := mem_bytesWrites.mp hw
  obtain rfl : j = i := by dsimp only at e; omega
  rfl

/-- Bytes written from an address on leave every other address as it reads. -/
theorem memRead_bytesWrites_out {m : List Host.Cell} {a c : Nat} {bs : List Byte} (hm : memWf m = true)
    (hc : c < a ∨ a + bs.length ≤ c) : memRead (memWriteAll m (bytesWrites a bs)) c = memRead m c := by
  refine memRead_writeAll_other _ _ _ (fun w hw e => ?_) hm
  have := exists_mem_bytesWrites.mp ⟨w, hw, e⟩
  omega

/-- Bytes written from an address on are read back as a whole. -/
theorem memBytes_bytesWrites {m : List Host.Cell} {a : Nat} {bs : List Byte} (hm : memWf m = true) :
    memBytes (memWriteAll m (bytesWrites a bs)) a bs.length = bs := by
  refine List.ext_getElem (by simp [memBytes]) fun i h1 h2 => ?_
  simp only [memBytes, List.getElem_map, List.getElem_range]
  rw [memRead_bytesWrites_in hm h2, List.getD_eq_getElem _ _ h2]

/-- A line is written whole by the writes of some bytes where they span it. -/
theorem line_written_iff {a l : Nat} {bs : List Byte} :
    (List.range 64).all (fun i => (bytesWrites a bs).any (fun w => w.1 == 64 * l + i)) = true ↔
      a ≤ 64 * l ∧ 64 * l + 64 ≤ a + bs.length := by
  have key (i : Nat) : (bytesWrites a bs).any (fun w => w.1 == 64 * l + i) = true ↔
      a ≤ 64 * l + i ∧ 64 * l + i < a + bs.length := by
    rw [← exists_mem_bytesWrites]
    simp
  simp only [List.all_eq_true, List.mem_range, key]
  constructor
  · intro h
    have h0 := h 0 (by omega)
    have h63 := h 63 (by omega)
    omega
  · intro h i hi
    omega

/-- The poisoned lines that stay after bytes are written: those not written whole. -/
theorem contains_clearPoison {a l : Nat} {bs : List Byte} {poison : List Nat} :
    (clearPoison (bytesWrites a bs) poison).contains l = true ↔
      poison.contains l = true ∧ ¬ (a ≤ 64 * l ∧ 64 * l + 64 ≤ a + bs.length) := by
  unfold clearPoison
  rw [List.contains_iff_mem, List.contains_iff_mem, List.mem_filter, ← line_written_iff]
  simp only [Bool.not_eq_true', ← Bool.not_eq_true]

end Sys2Proof.Machine
end

section
/-!
SUPPORT. Laws of the operations that COPY and REPLICA_CMP share: messages sent, work finished, training state held.
-/

namespace Sys2Proof.Machine

/-! ### Operations and messages -/

/-- The operations that a state finds are those of its list. -/
theorem findOp_congr {s t : State} (h : t.ops = s.ops) (c i : Nat) : findOp t c i = findOp s c i := by
  unfold findOp
  rw [h]

/-- An operation that is found is the one of that context and index. -/
theorem findOp_place {s : State} {c i : Nat} {o : Op} (h : findOp s c i = some o) : o.ctx = c ∧ o.idx = i := by
  have := List.find?_some h
  simpa [isOp] using this

/-- An operation without a second run to make ends as its work says. -/
theorem findOp_finishOp_same {s : State} {c i : Nat} {o : Op} (h : findOp s c i = some o) (hc : checkLevel o.d ≠ 2) :
    findOp (finishOp s c i) c i = some { o with ended := some (normalEnd o) } := by
  refine (findOp_updOp_same s c i _ h (fun p => by split <;> exact ⟨rfl, rfl⟩)).trans ?_
  simp [hc]

/-- The end of an operation's work leaves every other operation. -/
theorem findOp_finishOp_other {s : State} {c i x y : Nat} (h : ¬ (x = c ∧ y = i)) :
    findOp (finishOp s c i) x y = findOp s x y :=
  findOp_updOp_other s _ h (fun p => by split <;> exact ⟨rfl, rfl⟩)

/-- The end of an operation's work leaves memory. -/
theorem finishOp_mem (s : State) (c i : Nat) : (finishOp s c i).mem = s.mem := rfl

/-- A check level of at most 1 leaves no second run. -/
theorem checkLevel_ne_two {d : Desc} (h : dCheck d ≤ 1) : checkLevel d ≠ 2 := by
  unfold checkLevel
  split <;> omega

/-- The chip and the message of each message that waits. -/
def txPairs (s : State) : List (Nat × Msg) := s.txq.map (fun m => (m.chip, m.msg))

/-- Messages sent in a row wait in their order, and nothing else changes. -/
theorem foldl_sendMsg {β : Type} (cls : Nat) (chipOf : β → Nat) (msg : β → Msg) (l : List β) (s : State) :
    l.foldl (fun t x => sendMsg t cls (chipOf x) 0 (msg x)) s =
        { s with txq := (l.foldl (fun t x => sendMsg t cls (chipOf x) 0 (msg x)) s).txq } ∧
      txPairs (l.foldl (fun t x => sendMsg t cls (chipOf x) 0 (msg x)) s) =
        txPairs s ++ l.map (fun x => (chipOf x, msg x)) := by
  induction l generalizing s with
  | nil => exact ⟨rfl, by simp⟩
  | cons x l ih =>
    obtain ⟨h1, h2⟩ := ih (sendMsg s cls (chipOf x) 0 (msg x))
    simp only [List.foldl_cons]
    refine ⟨h1, h2.trans ?_⟩
    simp [txPairs, sendMsg]

/-! ### Training state held (R155) -/

/-- An address that reads as other than the default is listed. -/
theorem mem_keys_of_sparseGet_ne {α : Type} {d : α} {a : Nat} {m : List (Nat × α)} (h : sparseGet d a m ≠ d) :
    a ∈ m.map (fun c => c.1) := by
  induction m with
  | nil => exact absurd rfl h
  | cons c r ih =>
    simp only [sparseGet] at h
    split at h
    · next e => simp [e]
    · split at h
      · exact absurd rfl h
      · exact List.mem_cons_of_mem _ (ih h)

/-- An address that two memories read differently is listed by one of them. -/
theorem mem_keys_of_memRead_ne {m n : List Host.Cell} {a : Nat} (h : memRead m a ≠ memRead n a) :
    a ∈ (m ++ n).map (fun c => c.1) := by
  rw [List.map_append, List.mem_append]
  by_cases hm : memRead m a = memDefault
  · exact Or.inr (mem_keys_of_sparseGet_ne (fun e => h (hm.trans e.symm)))
  · exact Or.inl (mem_keys_of_sparseGet_ne hm)

/-- The bytes of some addresses put back to what another memory reads there. -/
theorem memRead_restored {m n : List Host.Cell} {as : List Nat} {a : Nat} (hm : memWf m = true) :
    memRead (memWriteAll m (as.map (fun a => (a, memRead n a)))) a = if a ∈ as then memRead n a else memRead m a := by
  split
  · next h =>
    refine memRead_writeAll_agree hm (fun w hw e => ?_) ⟨_, List.mem_map.mpr ⟨a, h, rfl⟩, rfl⟩
    obtain ⟨b, _, rfl⟩ := List.mem_map.mp hw
    exact congrArg (memRead n) e
  · next h =>
    refine memRead_writeAll_other _ _ _ (fun w hw e => h ?_) hm
    obtain ⟨b, hb, rfl⟩ := List.mem_map.mp hw
    exact e ▸ hb

/-- The training-state bytes that an operation has changed from `s` to `t`. -/
def changedTrain (s t : State) : List Nat :=
  (((s.mem ++ t.mem).map (fun c => c.1)).filter (fun a =>
    (trainRegions s).any (fun r => inRegion r a) && memRead s.mem a != memRead t.mem a)).eraseDups

/-- Where there is training state, its changed bytes are put back and held. -/
theorem holdTrain_eq (s t : State) (c i : Nat) :
    holdTrain s t c i = if (trainRegions s).isEmpty then t else
      holdWrites { t with mem := memWriteAll t.mem ((changedTrain s t).map (fun a => (a, memRead s.mem a))) } c i
        ((changedTrain s t).map (fun a => (a, memRead t.mem a))) := rfl

/-- The changed bytes of training state are those that lie in it and read differently. -/
theorem mem_changedTrain {s t : State} {a : Nat} :
    a ∈ changedTrain s t ↔ (trainRegions s).any (fun r => inRegion r a) = true ∧ memRead s.mem a ≠ memRead t.mem a := by
  unfold changedTrain
  rw [List.mem_eraseDups, List.mem_filter, Bool.and_eq_true, bne_iff_ne]
  exact ⟨fun h => h.2, fun h => ⟨mem_keys_of_memRead_ne h.2, h⟩⟩

/-- After training state is held, its bytes read as before the operation, and all others as it wrote them. -/
theorem memRead_holdTrain {s t : State} (c i a : Nat) (ht : memWf t.mem = true) :
    memRead (holdTrain s t c i).mem a =
      if (trainRegions s).any (fun r => inRegion r a) then memRead s.mem a else memRead t.mem a := by
  rw [holdTrain_eq]
  split
  · next h =>
    rw [List.isEmpty_iff.mp h]
    rfl
  · refine (memRead_restored (as := changedTrain s t) (n := s.mem) ht).trans ?_
    simp only [mem_changedTrain]
    by_cases h : (trainRegions s).any (fun r => inRegion r a) = true
    · by_cases e : memRead s.mem a = memRead t.mem a <;> simp [h, e]
    · simp [h]

/-- Holding training state changes memory and the writes that the operation holds, and nothing else. -/
theorem holdTrain_frame (s t : State) (c i : Nat) :
    holdTrain s t c i = { t with mem := (holdTrain s t c i).mem, ops := (holdTrain s t c i).ops } := by
  rw [holdTrain_eq]
  split <;> rfl

/-- The operation holds some writes more. -/
theorem findOp_holdTrain_same {s t : State} {c i : Nat} {o : Op} (h : findOp t c i = some o) :
    ∃ ws, findOp (holdTrain s t c i) c i = some { o with writes := ws } := by
  rw [holdTrain_eq]
  split
  · exact ⟨o.writes, h⟩
  · exact ⟨_, findOp_updOp_same { t with mem := _ } c i _ h (fun _ => ⟨rfl, rfl⟩)⟩

/-- Every other operation holds what it held. -/
theorem findOp_holdTrain_other {s t : State} {c i x y : Nat} (h : ¬ (x = c ∧ y = i)) :
    findOp (holdTrain s t c i) x y = findOp t x y := by
  rw [holdTrain_eq]
  split
  · rfl
  · exact findOp_updOp_other { t with mem := _ } _ h (fun _ => ⟨rfl, rfl⟩)

end Sys2Proof.Machine
end

section
/-!
SUPPORT. Every command leads to a next state and keeps what `Kept` names: one lemma for each command whose meaning
branches, then the split over all commands.
-/

namespace Sys2Proof.Machine

/-- Counting the blocks of SHA-512 leaves the flash. -/
theorem countSha_flash (s : State) (n : Nat) : (countSha s n).flash = s.flash := by
  unfold countSha
  rw [event_regsOnly]

/-! ### Commands that go on -/

/-- The outcome is a next state, which `Kept` relates to `z`. -/
def KeptNext (z : State) (o : Host.Outcome State Fault Refusal) : Prop := ∃ t, o = .next t ∧ Kept z t

/-- A next state that is kept. -/
theorem KeptNext.next {z t : State} (h : Kept z t) : KeptNext z (.next t) := ⟨t, rfl, h⟩

/-- A branch on a condition keeps what both of its sides keep. -/
theorem ite_kept {z a b : State} {c : Prop} [Decidable c] (ha : Kept z a) (hb : Kept z b) :
    Kept z (if c then a else b) := by
  split
  · exact ha
  · exact hb

/-- The flash of a canonical state is canonical. -/
theorem State.canonical_flash {s : State} (h : s.canonical = true) : memWf s.flash = true := by
  rw [State.canonical_iff] at h
  tauto

/-- A canonical flash in a canonical state leaves the state canonical. -/
theorem State.canonical_setFlash {s : State} {f : List Host.Cell} (h : s.canonical = true) (hf : memWf f = true) :
    ({ s with flash := f } : State).canonical = true := by
  rw [State.canonical_iff] at h ⊢
  tauto

section Commands
variable (s : State)

/-! ### HBM and contexts -/

theorem execCxlMemRead_kept (off len : Nat) (ecc : Ecc) : KeptNext s (execCxlMemRead off len ecc s) :=
  .next (ite_kept (answer_kept _ _ _ (.refl s)) (ite_kept (.refl s) (serveRead_kept _ _ _ _ (.refl s))))

theorem execCxlMemWrite_kept (off : Nat) (data : List Byte) : KeptNext s (execCxlMemWrite off data s) :=
  .next (ite_kept (countF_kept _ _ _ _ _ (.refl s)) (ite_kept (.refl s) (wrMem_kept _ _ (.refl s))))

theorem execRetirementCopyDone_kept (g : Nat) : KeptNext s (execRetirementCopyDone g s) :=
  .next (ite_kept (.refl s) (foldl_kept _ _ _ (.refl s) fun _ _ h => serveWait_kept _ _ h))

theorem execContextLoadDone_kept (ctx : Nat) : KeptNext s (execContextLoadDone ctx s) := by
  refine .next ?_
  split
  · exact ite_kept (finishLoad_kept _ _ _ (.refl s)) (.refl s)
  · exact .refl s

theorem execContextSpillDone_kept (ctx : Nat) : KeptNext s (execContextSpillDone ctx s) := by
  refine .next ?_
  split
  · exact ite_kept (spillOut_kept _ _ _ (.refl s)) (.refl s)
  · exact .refl s

theorem execOverflowEntryLoad_kept : KeptNext s (execOverflowEntryLoad s) := by
  refine .next ?_
  split
  · exact .refl s
  · refine ite_kept (loadEntry_kept _ _ (.refl s)) ?_
    split
    · exact loadEntry_kept _ _ (startSpill_kept _ _ _ (.refl s))
    · exact .refl s

theorem execRingDrainEnd_kept : KeptNext s (execRingDrainEnd s) :=
  have spilled := foldl_kept drainSpill s.rings.ctxs s (.refl s) fun _ _ h => drainSpill_kept _ _ h
  .next (ite_kept (setA_kept _ _ _ (foldl_kept _ _ _ spilled fun _ _ h => writeBack_kept _ _ _ h)) (.refl s))

theorem execDescriptorFetch_kept (ctx : Nat) : KeptNext s (execDescriptorFetch ctx s) := by
  refine .next ?_
  split
  · exact ite_kept (fetchNext_kept _ _ (.refl s)) (.refl s)
  · exact .refl s

theorem execDescriptorBegin_kept (ctx : Nat) : KeptNext s (execDescriptorBegin ctx s) := by
  refine .next ?_
  split
  · split
    · exact ite_kept (.refl s) (beginHeld_kept _ _ _ (.refl s))
    · exact .refl s
  · exact .refl s

theorem execDescriptorEnd_kept (ctx idx : Nat) (ecc : Ecc) : KeptNext s (execDescriptorEnd ctx idx ecc s) := by
  refine .next ?_
  split
  · exact .refl s
  · next o _ =>
    split
    · exact .refl s
    · have mended : ∀ b : Bool, Kept s (if b then mendOp s o else s) := fun b =>
        ite_kept (mendOp_kept _ _ (.refl s)) (.refl s)
      refine ite_kept (.refl s) ?_
      dsimp only
      split
      · exact endNow_kept _ _ _ _ (mended _)
      · exact mended _

theorem execLevel2RunEnd_kept (ctx idx : Nat) (alt : List (Nat × Byte)) :
    KeptNext s (execLevel2RunEnd ctx idx alt s) := by
  refine .next ?_
  split
  · exact .refl s
  · refine ite_kept (.refl s) ?_
    dsimp only
    split
    · exact levelRunEnd_kept _ _ _ (mendOp_kept _ _ (.refl s))
    · exact mendOp_kept _ _ (.refl s)

theorem execOperationPark_kept (ctx idx progress : Nat) : KeptNext s (execOperationPark ctx idx progress s) := by
  refine .next ?_
  split
  · exact .refl s
  · refine ite_kept ?_ (.refl s)
    dsimp only
    split
    · exact ite_kept (parkOp_kept _ _ _ (ite_kept (updPark_kept _ _ _ (.refl s)) (.refl s)))
        (ite_kept (updPark_kept _ _ _ (.refl s)) (.refl s))
    · exact ite_kept (updPark_kept _ _ _ (.refl s)) (.refl s)

theorem execOperationResume_kept (ctx idx : Nat) : KeptNext s (execOperationResume ctx idx s) := by
  refine .next ?_
  split
  · exact .refl s
  · refine ite_kept (.refl s) ?_
    dsimp only
    split
    · exact ite_kept (resumeWork_kept _ _ _ (updOp_kept _ _ _ _ (.refl s))) (updOp_kept _ _ _ _ (.refl s))
    · exact updOp_kept _ _ _ _ (.refl s)

/-! ### Arrays, vector units, jointed bodies and the truing unit -/

theorem execTileFillEnd_kept (cell : Nat) (flips : List (Nat × Nat)) :
    KeptNext s (execTileFillEnd cell flips s) := by
  refine .next ?_
  dsimp only
  split
  · split
    · exact ite_kept (.refl s) (fillDone_kept _ _ _ _ (cellSet_kept _ _ _ (.refl s)))
    · exact cellSet_kept _ _ _ (.refl s)
  · exact .refl s

theorem execTileSumCheckDone_kept (cell : Nat) : KeptNext s (execTileSumCheckDone cell s) := by
  refine .next ?_
  split
  · exact sumDone_kept _ _ _ (.refl s)
  · exact .refl s

theorem execTileDupCompareDone_kept (cell : Nat) : KeptNext s (execTileDupCompareDone cell s) := by
  refine .next ?_
  split
  · exact dupDone_kept _ _ _ (.refl s)
  · exact .refl s

theorem execTileDrainEnd_kept (cell bank : Nat) : KeptNext s (execTileDrainEnd cell bank s) := by
  refine .next ?_
  split
  · exact ite_kept (.refl s) (onSide_kept _ _ _ _ (.refl s) fun _ h =>
      holdTrain_kept _ _ _ _ h (drainDone_kept _ _ _ h))
  · exact .refl s

theorem execPanelDecodeDone_kept (cell ctx idx stall : Nat) : KeptNext s (execPanelDecodeDone cell ctx idx stall s) := by
  refine .next ?_
  split
  · exact .refl s
  · refine ite_kept (.refl s) ?_
    split
    · exact .refl s
    · exact ite_kept (.refl s) (matMaybeEnd_kept _ _ _ (decodePanel_kept _ _ _ _
        (event_kept _ _ _ _ (countF_kept _ _ _ _ _ (.refl s)))))

/-- An array operation runs on its side state, and its training-state writes are held. -/
theorem arrayRun_kept (ctx idx code : Nat) :
    Kept s (onOp s ctx idx code (fun o => onSide s ctx idx (fun t => holdTrain t (matRunAll t o) ctx idx))) :=
  onOp_kept _ _ _ _ _ (.refl s) fun _ => onSide_kept _ _ _ _ (.refl s) fun _ h =>
    holdTrain_kept _ _ _ _ h (matRunAll_kept _ _ h)

theorem execVectorUnitDone_kept (cell ctx idx : Nat) : KeptNext s (execVectorUnitDone cell ctx idx s) := by
  refine .next ?_
  split
  · exact .refl s
  · refine ite_kept (.refl s) ?_
    split
    · exact ite_kept (.refl s) (wakeBatches_kept _ _ (onSide_kept _ _ _ _ (.refl s) fun _ h =>
        holdTrain_kept _ _ _ _ h (unitDone_kept _ _ _ h)))
    · exact .refl s

theorem execJbBatchDone_kept (cell ctx idx : Nat) : KeptNext s (execJbBatchDone cell ctx idx s) := by
  refine .next ?_
  split
  · exact .refl s
  · refine ite_kept (.refl s) ?_
    split
    · exact batchEnd_kept _ _ _ (.refl s)
    · exact .refl s

theorem execTruingWaitProceed_kept (ctx idx : Nat) (upsets : List TileUpset) (upset : Bool) :
    KeptNext s (execTruingWaitProceed ctx idx upsets upset s) := by
  refine .next ?_
  split
  · exact ite_kept (truProceed_kept _ _ _ _ (.refl s)) (.refl s)
  · exact .refl s

theorem execCompress_kept (ctx idx : Nat) (upsets : List TileUpset) : KeptNext s (execCompress ctx idx upsets s) :=
  .next (onOp_kept _ _ _ _ _ (.refl s) fun _ => faultOr_kept _ _ _ _ _ (.refl s)
    (onSide_kept _ _ _ _ (.refl s) fun _ h => withUpsets_kept _ _ _ _ _ h fun _ h => compressRun_kept _ _ h))

theorem execDecompress_kept (ctx idx : Nat) (upsets : List TileUpset) : KeptNext s (execDecompress ctx idx upsets s) :=
  .next (onOp_kept _ _ _ _ _ (.refl s) fun _ => faultOr_kept _ _ _ _ _ (.refl s)
    (onSide_kept _ _ _ _ (.refl s) fun _ h => withUpsets_kept _ _ _ _ _ h fun _ h => decompressRun_kept _ _ _ h))

/-! ### The ordered adder -/

theorem execOmaResendTimer_kept (group index line : Nat) : KeptNext s (execOmaResendTimer group index line s) := by
  refine .next ?_
  split
  · exact .refl s
  · exact ite_kept (.refl s) (ite_kept (omaArrive_kept _ _ _ _ _ _ _ _ (.refl s)) (sendMsg_kept _ _ _ _ _ (.refl s)))

theorem execOmaOverdue_kept (group line : Nat) : KeptNext s (execOmaOverdue group line s) := by
  refine .next ?_
  split
  · exact .refl s
  · dsimp only
    split
    · exact .refl s
    · exact ite_kept (.refl s) (countF_kept _ _ _ _ _ (linePut_kept _ _ _ (.refl s)))

theorem execSumOpen_kept (ctx idx : Nat) : KeptNext s (execSumOpen ctx idx s) := by
  refine .next (onOp_kept _ _ _ _ _ (.refl s) fun _ => ite_kept (.refl s) ?_)
  split
  · exact ctxFault_kept _ _ _ _ _ (.refl s)
  · exact openGroup_kept _ _ _ _ _ _ _ _ _ (.refl s)

theorem execContribute_kept (ctx idx : Nat) : KeptNext s (execContribute ctx idx s) := by
  refine .next (onOp_kept _ _ _ _ _ (.refl s) fun _ => ite_kept (.refl s) ?_)
  split
  · exact ctxFault_kept _ _ _ _ _ (.refl s)
  · exact ite_kept (ctSendAll_kept _ _ (markUsed_kept _ _ _ (.refl s)))
      (sendMsg_kept _ _ _ _ _ (updOp_kept _ _ _ _ (.refl s)))

/-! ### Training state, moves and Pannier channels -/

theorem execSkidGrant_kept : KeptNext s (execSkidGrant s) := by
  refine .next ?_
  split
  · exact .refl s
  · exact ite_kept (skidGrant_kept _ _ (.refl s)) (.refl s)

theorem execSkidCopyDone_kept : KeptNext s (execSkidCopyDone s) := by
  refine .next (ite_kept (.refl s) ?_)
  split
  · exact skidCopied_kept _ _ (.refl s)
  · exact .refl s

theorem execUpdate_kept (ctx idx : Nat) (upsets : List TileUpset) : KeptNext s (execUpdate ctx idx upsets s) :=
  .next (onOp_kept _ _ _ _ _ (.refl s) fun _ => withUpsets_kept _ _ _ _ _ (.refl s) fun _ h =>
    updRun_kept _ _ _ _ (updGather_kept _ _ _ _ h))

theorem execCopy_kept (ctx idx : Nat) : KeptNext s (execCopy ctx idx s) := by
  refine .next (onOp_kept _ _ _ _ _ (.refl s) fun _ => ite_kept (.refl s) ?_)
  split
  · exact ctxFault_kept _ _ _ _ _ (.refl s)
  · exact ite_kept (cpOwn_kept _ _ (.refl s)) (sendMsg_kept _ _ _ _ _ (updOp_kept _ _ _ _ (.refl s)))

theorem execYarderTransferDone_kept (ctx idx : Nat) (alt : List (Nat × Byte)) :
    KeptNext s (execYarderTransferDone ctx idx alt s) := by
  refine .next ?_
  split
  · exact .refl s
  · exact ite_kept (yardPumpAll_kept _ (transferDone_kept _ _ _ (.refl s))) (.refl s)

/-- A PREFETCH or EVICT runs its transfers, and the others that wait go on. -/
theorem yardOp_kept (ctx idx code : Nat) :
    Kept s (onOp s ctx idx code (fun o => yardPumpAll (yardRun (uCount o.d + 1) s ctx idx))) :=
  onOp_kept _ _ _ _ _ (.refl s) fun _ => yardPumpAll_kept _ (yardRun_kept _ _ _ _ (.refl s))

theorem execExport_kept (ctx idx : Nat) : KeptNext s (execExport ctx idx s) :=
  .next (onOp_kept _ _ _ _ _ (.refl s) fun _ => faultOr_kept _ _ _ _ _ (.refl s)
    (ite_kept (finishOp_kept _ _ _ (wrHost_kept _ _ (.refl s)))
      (finishOp_kept _ _ _ (holdTrain_kept _ _ _ _ (.refl s) (wrMem_kept _ _ (.refl s))))))

theorem execImport_kept (ctx idx : Nat) : KeptNext s (execImport ctx idx s) := by
  refine .next (onOp_kept _ _ _ _ _ (.refl s) fun _ => ?_)
  split
  · exact ctxFault_kept _ _ _ _ _ (.refl s)
  · refine ite_kept (endWithRecord_kept _ _ _ _ _ _ _ (.refl s)) ?_
    split
    · exact ctxFault_kept _ _ _ _ _ (.refl s)
    · exact finishOp_kept _ _ _ (holdWrites_kept _ _ _ _ (ite_kept (updOp_kept _ _ _ _ (.refl s)) (.refl s)))

theorem execReplicaCmp_kept (ctx idx : Nat) : KeptNext s (execReplicaCmp ctx idx s) :=
  .next (onOp_kept _ _ _ _ _ (.refl s) fun _ => ite_kept (replicaCompare_kept _ _ _ (.refl s))
    (faultOr_kept _ _ _ _ _ (.refl s) (replicaStart_kept _ _ _ _ (.refl s))))

theorem execReshard_kept (ctx idx : Nat) (peers : List (Nat × Nat × Nat)) : KeptNext s (execReshard ctx idx peers s) :=
  .next (onOp_kept _ _ _ _ _ (.refl s) fun _ => ite_kept (ctxFault_kept _ _ _ _ _ (.refl s))
    (ite_kept (ctxFault_kept _ _ _ _ _ (.refl s))
      (reshardTake_kept _ (earlyArrive_kept _ (setDrl_kept _ _ _ _ (.refl s))))))

theorem execPannierSpillDone_kept (channel : Nat) : KeptNext s (execPannierSpillDone channel s) := by
  refine .next ?_
  split
  · exact ite_kept (.refl s) (spillDone_kept _ _ _ (.refl s))
  · exact .refl s

theorem execPannierFillDone_kept (channel : Nat) (alt : List (Nat × Byte)) :
    KeptNext s (execPannierFillDone channel alt s) := by
  refine .next ?_
  split
  · exact ite_kept (.refl s) (panFillDone_kept _ _ _ _ (.refl s))
  · exact .refl s

/-! ### Time -/

theorem execTick_kept : KeptNext s (execTick s) :=
  .next (ite_kept (takeTick_kept _ _ (setTai_kept _ _ (.refl s))) (.refl s))

theorem execTickPathFail_kept : KeptNext s (execTickPathFail s) := .next (faultAll_kept _ _ _ (.refl s))

theorem execTimeStamp_kept (ctx idx : Nat) : KeptNext s (execTimeStamp ctx idx s) := by
  refine .next (onOp_kept _ _ _ _ _ (.refl s) fun _ => ?_)
  dsimp only
  split
  · split
    · exact ctxFault_kept _ _ _ _ _ (.refl s)
    · exact faultOr_kept _ _ _ _ _ (.refl s)
        (finishOp_kept _ _ _ (holdTrain_kept _ _ _ _ (.refl s) (wrMem_kept _ _ (.refl s))))
  · exact .refl s

theorem execGnssPpsEdge_kept : KeptNext s (execGnssPpsEdge s) :=
  .next (ite_kept (.refl s) (ite_kept (ppsMeasured_kept _ _ (.refl s)) (setGnss_kept _ _ (.refl s))))

theorem execGnssTodMessage_kept (message : List Byte) : KeptNext s (execGnssTodMessage message s) :=
  .next (ite_kept (.refl s) (ite_kept (badMessage_kept _ (.refl s)) (setGnss_kept _ _ (.refl s))))

theorem execGnssPpsTimeout_kept (edge : Bool) : KeptNext s (execGnssPpsTimeout edge s) :=
  have missed := setGnss_kept _ { s.time.gnss with missedPps := s.time.gnss.missedPps + 1, armed := false, good := 0 }
    (countB_kept s Reg.gnssErrs_ppsMissing 1 (.refl s))
  .next (ite_kept (.refl s) (ite_kept (ite_kept (loseLock_kept _ missed) missed) (badMessage_kept _ (.refl s))))

theorem execLeadFailover_kept : KeptNext s (execLeadFailover s) := by
  refine .next ?_
  split
  · exact ite_kept (.refl s) (setActive_kept _ _ (.refl s))
  · exact ite_kept (enterHoldover_kept _ (.refl s)) (.refl s)

theorem execTimeExchangeTimer_kept : KeptNext s (execTimeExchangeTimer s) := by
  refine .next ?_
  split
  · exact ite_kept (sendChain_kept _ _ _ (.refl s)) (.refl s)
  · exact .refl s

theorem execPpsOutSecond_kept : KeptNext s (execPpsOutSecond s) :=
  .next (ite_kept (.refl s) (ite_kept (.refl s) (ite_kept (.refl s) (.refl s))))

theorem execSlotWindowOpen_kept (entry : Nat) : KeptNext s (execSlotWindowOpen entry s) :=
  .next (ite_kept (ite_kept (.refl s) (countA_kept _ _ _ (.refl s))) (.refl s))

theorem execSlotWindowClose_kept (entry : Nat) : KeptNext s (execSlotWindowClose entry s) :=
  .next (ite_kept (ite_kept (countA_kept _ _ _ (.refl s)) (.refl s)) (.refl s))

/-! ### Semaphores, barriers, links and keys -/

theorem execSemAdd_kept (ctx idx : Nat) : KeptNext s (execSemAdd ctx idx s) := by
  refine .next (onOp_kept _ _ _ _ _ (.refl s) fun _ => ite_kept (.refl s)
    (ite_kept (endOp_kept _ _ _ _ (semAdd_kept _ _ _ (.refl s))) ?_))
  split
  · exact ctxFault_kept _ _ _ _ _ (.refl s)
  · exact sendMsg_kept _ _ _ _ _ (updOp_kept _ _ _ _ (.refl s))

theorem execBarrier_kept (ctx idx : Nat) : KeptNext s (execBarrier ctx idx s) :=
  .next (onOp_kept _ _ _ _ _ (.refl s) fun _ => ite_kept (.refl s) (ite_kept (ctxFault_kept _ _ _ _ _ (.refl s))
    (ite_kept (updOp_kept _ _ _ _ (.refl s)) (barrierTake_kept _ _ _ (barrierArrive_kept _ _ _ _ (.refl s))))))

theorem execLinkTrainingDone_kept (link : Nat) (ok fast : Bool) (peerChip peerLink peerStand peerMode rtt : Nat) :
    KeptNext s (execLinkTrainingDone link ok fast peerChip peerLink peerStand peerMode rtt s) :=
  have noted := fun v => setL_kept s Reg.linkState_fast link v (.refl s)
  have saved := fun v => ite_kept (saveTraining_kept _ link (noted v)) (noted v)
  .next (ite_kept (topoCheck_kept _ (ite_kept
    (linkTrained_kept _ _ _ (linkIdentity_kept _ _ _ _ _ _ (linkHear_kept _ _ (saved _))))
    (linkFail_kept _ _ _ (saved _)))) (.refl s))

theorem execRetransmitTimeout_kept (far : Bool) (n : Nat) : KeptNext s (execRetransmitTimeout far n s) :=
  .next (ite_kept (ite_kept (sessSet_kept _ _ _ (.refl s)) (.refl s)) (ite_kept (nearSet_kept _ _ _ (.refl s)) (.refl s)))

theorem execFrameSlot_kept (link session : Nat) : KeptNext s (execFrameSlot link session s) :=
  have stamped := fun l f => stampOut_kept _ link f (linkSet_kept s link l (.refl s))
  .next (ite_kept (.refl s) (ite_kept (nearSlot_kept _ _ _ (stamped _ _))
    (ite_kept (sessSlot_kept _ _ _ _ (stamped _ _)) (farEmpty_kept _ _ _ (stamped _ _)))))

theorem execFrameReceive_kept (link corrected lost : Nat) (hit : Bool) (bytes : List Byte) (msg : Msg) :
    KeptNext s (execFrameReceive link corrected lost hit bytes msg s) :=
  have counted := fecCount_kept s link corrected lost (.refl s)
  have chained := ite_kept (c := chainCrcOk bytes = true)
    (takeChain_kept _ link (chainOf (byteNat bytes 16 10)) counted) (countL_kept _ Reg.linkCrc_chain link 1 counted)
  .next (ite_kept (.refl s) (ite_kept counted (ite_kept (countL_kept _ _ _ _ chained)
    (ite_kept (nearFrame_kept _ _ _ _ chained) (farFrame_kept _ _ _ _ chained)))))

theorem execFarRouteReturn_kept (session : Nat) : KeptNext s (execFarRouteReturn session s) :=
  .next (ite_kept (.refl s) (ite_kept (ite_kept (sessMove_kept _ _ _ (.refl s)) (.refl s)) (sessRise_kept _ _ (.refl s))))

theorem execEntropyHealthFail_kept : KeptNext s (execEntropyHealthFail s) :=
  have marked := fun {t : State} (base : Nat) (h : Kept s t) =>
    setF_kept _ base Reg.kerfStatus_stall1 0 1 (setF_kept _ base Reg.kerfStatus_stall0 0 1
      (setF_kept t base Reg.kerfStatus_rngFail 0 1 h))
  .next (sendVector_kept _ _ (marked landBBase (marked landABase (.refl s))))

/-! ### Rotations, tally records and votes -/

theorem execMergeMaskReceive_kept (rotation chip : Nat) (masks : List Nat) (digest : List Byte) :
    KeptNext s (execMergeMaskReceive rotation chip masks digest s) :=
  have noted := fun f => ite_kept (c := digest.isEmpty = true) (.refl s) (setRot_kept s f (.refl s))
  .next (ite_kept (.refl s) (ite_kept (noted _) (takeMask_kept _ _ _ _ (noted _))))

theorem execLedgerEntryWrite_kept (digests : List (Nat × List Byte)) :
    KeptNext s (execLedgerEntryWrite digests s) := by
  refine .next ?_
  extract_lets released
  have hr : Kept s released := by
    dsimp only [released]
    split
    · exact releaseSet_kept _ _ (.refl s)
    · exact .refl s
  clear_value released
  split
  · exact hr
  · refine ite_kept hr (ite_kept (ite_kept hr (setRot_kept _ _ (countA_kept _ _ _ hr))) ?_)
    split
    · exact hr
    · exact setRot_kept _ _ (ledgerWrite_kept _ _ _ (countSha_kept _ _ (countSha_kept _ _ hr)))

theorem execPartnerDrop_kept (ctx idx : Nat) : KeptNext s (execPartnerDrop ctx idx s) := by
  refine .next (onOp_kept _ _ _ _ _ (.refl s) fun _ => ite_kept (.refl s) ?_)
  split
  · exact finishOp_kept _ _ _ (putPart_kept _ _ _ _ _ _ (.refl s))
  · exact .refl s

theorem execTallyOpen_kept (ctx idx : Nat) : KeptNext s (execTallyOpen ctx idx s) := by
  refine .next (onOp_kept _ _ _ _ _ (.refl s) fun _ => ite_kept (.refl s) ?_)
  split
  · exact ctxFault_kept _ _ _ _ _ (.refl s)
  · refine endOp_kept _ _ _ _ ?_
    with_reducible apply Kept.upd
    exact wrMem_kept _ _ (.refl s)

theorem execTallySignDone_kept : KeptNext s (execTallySignDone s) := by
  refine .next ?_
  split
  · exact .refl s
  · refine countSha_kept _ _ ?_
    with_reducible apply Kept.upd
    exact wrMem_kept _ _ (.refl s)

theorem execDigest_kept (ctx idx : Nat) : KeptNext s (execDigest ctx idx s) := by
  refine .next (onOp_kept _ _ _ _ _ (.refl s) fun _ => ite_kept (.refl s) ?_)
  split
  · exact ctxFault_kept _ _ _ _ _ (.refl s)
  · split
    · exact ctxFault_kept _ _ _ _ _ (.refl s)
    · exact finishOp_kept _ _ _ (holdTrain_kept _ _ _ _ (.refl s) (wrNat_kept _ _ _ _ (.refl s)))

theorem execAttest_kept (ctx idx : Nat) : KeptNext s (execAttest ctx idx s) := by
  refine .next (onOp_kept _ _ _ _ _ (.refl s) fun _ => ?_)
  split
  · exact ctxFault_kept _ _ _ _ _ (.refl s)
  · split
    · exact ctxFault_kept _ _ _ _ _ (.refl s)
    · exact endOp_kept _ _ _ _ (countSha_kept _ _ (countSha_kept _ _ (countSha_kept _ _ (countSha_kept _ _
        (holdTrain_kept _ _ _ _ (.refl s) (wrMem_kept _ _ (.refl s)))))))

theorem execVoteScrub_kept (a : Nat) (upsets : List (Nat × Nat × Nat)) : KeptNext s (execVoteScrub a upsets s) := by
  refine .next ?_
  have flipped := foldl_kept (fun t u => flipWord t (u.1, u.2.1, u.2.2 &&& votedMask u.2.1)) upsets s (.refl s)
    fun _ _ h => flipWord_kept _ _ h
  dsimp only
  split
  · exact scrubBlock_kept _ _ flipped
  · exact flipped

theorem execEventDump_kept : KeptNext s (execEventDump s) := by
  refine .next ?_
  split
  · exact .refl s
  · exact writeDump_kept _ _ (.refl s)

/-! ### Bring-up, mailbox, power and test port -/

theorem execPerstRelease_kept : KeptNext s (execPerstRelease s) :=
  .next (ite_kept (.refl s) (bootStart_kept _ (setBoot_kept _ _ (.refl s))))

theorem execPerstAssert_kept : KeptNext s (execPerstAssert s) :=
  .next (deviceReset_kept _ _ _ (setBoot_kept _ _ (.refl s)))

theorem execCxlHotReset_kept : KeptNext s (execCxlHotReset s) :=
  .next (ite_kept (.refl s) (bootStart_kept _ (deviceReset_kept _ _ _ (.refl s))))

theorem execFwStartTimeout_kept (ns : Nat) (a b : FwSeen) : KeptNext s (execFwStartTimeout ns a b s) := by
  refine .next (ite_kept (.refl s) ?_)
  split
  · exact .refl s
  · have noted := fun f g => setBoot_kept _ g (setBoot_kept s f (.refl s))
    exact ite_kept (bootHalt_kept _ _ _ _ _ (noted _ _)) (noted _ _)

/-- Whatever a read-back of the flash returns, the flash is canonical. -/
theorem execPartRecordWrite_kept (first second : List (Nat × Byte)) :
    KeptNext s (execPartRecordWrite first second s) := by
  have counted := countSha_kept s partBytes (.refl s)
  have signed (h : (countSha s partBytes).canonical = true) : memWf (signedCopy s) = true :=
    signedCopy_wf s (countSha_flash s partBytes ▸ State.canonical_flash h)
  refine .next (ite_kept (.refl s) (ite_kept (partWritten_kept _ _ counted signed)
    (ite_kept (partWritten_kept _ _ counted signed) (sendVector_kept _ _ (setBoot_kept _ _ ?_)))))
  exact counted.of rfl rfl rfl (Nat.le_refl _) fun h => State.canonical_setFlash h (readBack_wf _ _ _ (signed h))

theorem execTransferFw_kept (slot off : Nat) (data : List Byte) (last : Bool) (found : FwSeen) :
    KeptNext s (execTransferFw slot off data last found s) := by
  refine .next (ite_kept (.refl s) (ite_kept (mboxCode_kept _ _ (.refl s)) ?_))
  have written : Kept s { s with flash := memWriteAll s.flash (bytesWrites (fwBase (slot - 1) + off) data) } := by
    apply Kept.flash
    exact .refl s
  exact ite_kept (mboxCode_kept _ _ written) (mboxCode_kept _ _ (noteFw_kept _ _ _ written))

theorem execActivateFw_kept (online : Bool) (slot : Nat) (found : FwSeen) :
    KeptNext s (execActivateFw online slot found s) :=
  .next (ite_kept (.refl s) (ite_kept (mboxCode_kept _ _ (.refl s)) (ite_kept (mboxCode_kept _ _ (.refl s))
    (mboxCode_kept _ _ (.refl s)))))

theorem execReadPartInfo_kept : KeptNext s (execReadPartInfo s) :=
  .next (ite_kept (.refl s) (ite_kept (mboxCode_kept _ _ (.refl s)) (mboxAnswer_kept _ _ (.refl s))))

theorem execWriteSetting_kept (item value : Nat) : KeptNext s (execWriteSetting item value s) := by
  refine .next (ite_kept (.refl s) (ite_kept (mboxCode_kept _ _ (.refl s)) ?_))
  split
  · exact mboxCode_kept _ _ (draftPut_kept _ _ (.refl s))
  · exact mboxCode_kept _ _ (.refl s)

theorem execGovernorWindow_kept (watts tj : Nat) : KeptNext s (execGovernorWindow watts tj s) :=
  have shown := fun f => setPower_kept _ f (setD_kept _ Reg.temp_tj (min 255 tj)
    (setD_kept s Reg.pwrStatus_power (min 1023 watts) (.refl s)))
  have missed := fun f => ite_kept (setD_kept _ Reg.pwrStatus_capMiss 1 (shown f)) (shown f)
  .next (ite_kept (.refl s) (ite_kept (governorTo_kept _ _ (missed _))
    (ite_kept (governorTo_kept _ _ (missed _)) (missed _))))

theorem execAvsComplete_kept : KeptNext s (execAvsComplete s) := by
  refine .next ?_
  split
  · exact .refl s
  · exact setD_kept _ _ _ (setPower_kept _ _ (.refl s))

theorem execBrakeBegin_kept (uv : List Nat) : KeptNext s (execBrakeBegin uv s) :=
  .next (ite_kept (.refl s) (ite_kept (setD_kept _ _ _ (.refl s)) (brakeStart_kept _ _ (.refl s))))

theorem execRailReset_kept (uv : List Nat) : KeptNext s (execRailReset uv s) := by
  refine .next ?_
  split
  · exact .refl s
  · have cleared := fun r => deviceReset_kept _ 3 r
      (setBoot_kept s (fun b => { b with railLow := true, draft := [] }) (.refl s))
    have noKeys (t : State) (h : Kept s t) : Kept s { t with keys := [] } := h
    have emptied (p : Prop) [Decidable p] (t : State) (h : Kept s t) : Kept s (if p then { t with keys := [] } else t) :=
      ite_kept (noKeys t h) h
    dsimp only
    exact ite_kept (setBoot_kept _ _ (emptied _ _ (cleared _))) (emptied _ _ (cleared _))

theorem execRailsInBand_kept (uv : List Nat) : KeptNext s (execRailsInBand uv s) :=
  .next (ite_kept (bootStart_kept _ (setBoot_kept _ _ (.refl s))) (.refl s))

theorem execTemperatureCrossing_kept (tj hbm : Nat) : KeptNext s (execTemperatureCrossing tj hbm s) :=
  have heated := fun f => setPower_kept s f (.refl s)
  .next (ite_kept (heated _) (ite_kept (deviceReset_kept _ _ _ (setBoot_kept _ _ (heated _)))
    (setD_kept _ _ _ (setD_kept _ _ _ (setD_kept _ _ _ (setPower_kept _ _ (heated _)))))))

theorem execSamplePreload_kept (pins preload : Nat) : KeptNext s (execSamplePreload pins preload s) :=
  .next (ite_kept (jtagTake_kept _ _ _ (.refl s)) (jtagTake_kept s .samplePreload _ (.refl s)))

end Commands

/-- Every command goes on and keeps the queue, the chip's place and the canonical form. -/
theorem exec_kept (c : Instr) (s : State) : KeptNext s (exec c s) := by
  have row := fun rng b r data => rowWrite_kept rng s b r data (.refl s)
  have rowIf := fun {p : Prop} [Decidable p] b r data => ite_kept (c := p) (row false b r data) (.refl s)
  have chain := fun link f => takeChain_kept s link f (.refl s)
  have gather := fun ctx idx code ps => runCollective_kept s ctx idx code ps (.refl s)
  have jtag := fun i cap => jtagTake_kept s i cap (.refl s)
  have write := fun bar off size data => hostWrite_kept (freeRng s) _ bar off size data (takeFree_kept s (.refl s))
  have onOp := fun ctx idx code f (h : ∀ o, Kept s (f o)) => onOp_kept s ctx idx code f (.refl s) h
  have factor := fun ctx idx code us u => onOp ctx idx code _ fun o => truRunFactor_kept s o us u (.refl s)
  have batches := fun ctx idx code => onOp ctx idx code _ fun o => batchesRun_kept s o (.refl s)
  cases c with
  | sqDoorbell ctx tail host => exact .next (sqDoorbell_kept _ _ _ (hostWrites_kept _ _ (.refl s)))
  | contextLoadDone ctx => exact execContextLoadDone_kept s ctx
  | contextSpillDone ctx => exact execContextSpillDone_kept s ctx
  | overflowEntryLoad => exact execOverflowEntryLoad_kept s
  | cqDoorbell ctx head host => exact .next (cqDoorbell_kept _ _ _ (hostWrites_kept _ _ (.refl s)))
  | descriptorFetch ctx => exact execDescriptorFetch_kept s ctx
  | descriptorBegin ctx => exact execDescriptorBegin_kept s ctx
  | descriptorEnd ctx idx ecc => exact execDescriptorEnd_kept s ctx idx ecc
  | msixGapExpire vector => exact .next (ite_kept (.refl s) (.refl s))
  | ctxResume ctx => exact .next (row _ _ _ _)
  | ctxResumeAtHead ctx => exact .next (row _ _ _ _)
  | ctxReset ctx => exact .next (row _ _ _ _)
  | ringDisable => exact .next (row _ _ _ _)
  | ringDrainEnd => exact execRingDrainEnd_kept s
  | nop ctx idx => exact .next (onOp _ _ _ _ fun _ => endOp_kept _ _ _ _ (.refl s))
  | cxlMemRead off len ecc => exact execCxlMemRead_kept s off len ecc
  | cxlMemWrite off data => exact execCxlMemWrite_kept s off data
  | retirementCopyDone granule => exact execRetirementCopyDone_kept s granule
  | tickPathFail => exact execTickPathFail_kept s
  | jobSeedHighWrite data => exact .next (row _ _ _ _)
  | matmul ctx idx => exact .next (arrayRun_kept s ctx idx _)
  | matmulPair ctx idx => exact .next (arrayRun_kept s ctx idx _)
  | tileFillBegin cell => exact .next (fillBegin_kept _ _ (.refl s))
  | tileFillEnd cell flips => exact execTileFillEnd_kept s cell flips
  | tileSumCheckDone cell => exact execTileSumCheckDone_kept s cell
  | tileDupCompareDone cell => exact execTileDupCompareDone_kept s cell
  | tileDrainEnd cell bank => exact execTileDrainEnd_kept s cell bank
  | level2RunEnd ctx idx alt => exact execLevel2RunEnd_kept s ctx idx alt
  | operationPark ctx idx progress => exact execOperationPark_kept s ctx idx progress
  | operationResume ctx idx => exact execOperationResume_kept s ctx idx
  | scalerEnable data => exact .next (row _ _ _ _)
  | chain ctx idx => exact .next (onOp _ _ _ _ fun o => vecWhole_kept s o (.refl s))
  | reduceTree ctx idx => exact .next (onOp _ _ _ _ fun o => vecWhole_kept s o (.refl s))
  | sumOpen ctx idx => exact execSumOpen_kept s ctx idx
  | contribute ctx idx => exact execContribute_kept s ctx idx
  | vectorUnitDone cell ctx idx => exact execVectorUnitDone_kept s cell ctx idx
  | omaContribution group index line data src ctx idx => exact .next (omaArrive_kept _ _ _ _ _ _ _ _ (.refl s))
  | omaResendTimer group index line => exact execOmaResendTimer_kept s group index line
  | omaOverdue group line => exact execOmaOverdue_kept s group line
  | statFold ctx idx upsets =>
    exact .next (onOp _ _ _ _ fun o => ite_kept (.refl s)
      (withUpsets_kept _ _ _ _ _ (.refl s) fun t h => statFold_kept t o h))
  | cholesky ctx idx upsets upset => exact .next (factor _ _ _ _ _)
  | ldlt ctx idx upsets upset => exact .next (factor _ _ _ _ _)
  | trsolve ctx idx upsets => exact .next (onOp _ _ _ _ fun o => trsolveRun_kept s o upsets (.refl s))
  | eig ctx idx upsets upset => exact .next (factor _ _ _ _ _)
  | invroot ctx idx upsets upset => exact .next (onOp _ _ _ _ fun o => rootRun_kept s o upsets upset (.refl s))
  | truingWaitProceed ctx idx upsets upset => exact execTruingWaitProceed_kept s ctx idx upsets upset
  | invrootDeadline ctx idx iters =>
    exact .next (onOp _ _ _ _ fun _ => ite_kept (holdTrain_kept _ _ _ _ (.refl s) (nsRun_kept _ _ _ (.refl s))) (.refl s))
  | envStep ctx idx => exact .next (batches _ _ _)
  | invDyn ctx idx => exact .next (batches _ _ _)
  | mass ctx idx => exact .next (batches _ _ _)
  | envLoop ctx idx => exact .next (loopRun_kept _ _ _ _ (.refl s))
  | jbBatchDone cell ctx idx => exact execJbBatchDone_kept s cell ctx idx
  | envLoopStepBegin ctx idx =>
    exact .next (onOp _ _ _ _ fun o => ite_kept (loopBegin_kept _ _ (.refl s)) (.refl s))
  | envLoopStepEnd ctx idx =>
    exact .next (onOp _ _ _ _ fun o => ite_kept (loopEnd_kept _ _ (.refl s)) (.refl s))
  | copy ctx idx => exact execCopy_kept s ctx idx
  | prefetch ctx idx => exact .next (yardOp_kept s ctx idx _)
  | evict ctx idx => exact .next (yardOp_kept s ctx idx _)
  | yarderTransferDone ctx idx alt => exact execYarderTransferDone_kept s ctx idx alt
  | update ctx idx upsets => exact execUpdate_kept s ctx idx upsets
  | skidGrant => exact execSkidGrant_kept s
  | updateSkidApply ctx idx => exact .next (onOp _ _ _ _ fun _ => updRun_kept _ _ _ _ (.refl s))
  | replicaCmp ctx idx => exact execReplicaCmp_kept s ctx idx
  | replicaDigestReceive tag chip value => exact .next (replicaArrive_kept _ _ _ _ (.refl s))
  | exportOp ctx idx => exact execExport_kept s ctx idx
  | importOp ctx idx => exact execImport_kept s ctx idx
  | compress ctx idx upsets => exact execCompress_kept s ctx idx upsets
  | decompress ctx idx upsets => exact execDecompress_kept s ctx idx upsets
  | panelDecodeDone cell ctx idx stall => exact execPanelDecodeDone_kept s cell ctx idx stall
  | axisEnable => exact .next (row _ _ _ _)
  | pannierEnable channel data => exact .next (rowIf _ _ _)
  | pannierDisable channel data => exact .next (rowIf _ _ _)
  | pannierSpillBegin channel => exact .next (ite_kept (panSet_kept _ _ _ (.refl s)) (.refl s))
  | pannierSpillDone channel => exact execPannierSpillDone_kept s channel
  | pannierFillBegin channel => exact .next (ite_kept (panSet_kept _ _ _ (.refl s)) (.refl s))
  | pannierFillDone channel alt => exact execPannierFillDone_kept s channel alt
  | reshard ctx idx peers => exact execReshard_kept s ctx idx peers
  | derailleurPieceReceive piece => exact .next (reshardTake_kept _ (pieceArrive_kept _ _ (.refl s)))
  | derailleurRoundBegin ctx idx =>
    exact .next (onOp _ _ _ _ fun _ => ite_kept (nextRound_kept _ _ (.refl s)) (.refl s))
  | tick => exact execTick_kept s
  | tickRunWrite data => exact .next (row _ _ _ _)
  | tickWait ctx idx => exact .next (onOp _ _ _ _ fun _ => ite_kept (endOp_kept _ _ _ _ (.refl s)) (.refl s))
  | timeStamp ctx idx => exact execTimeStamp_kept s ctx idx
  | gnssPpsEdge => exact execGnssPpsEdge_kept s
  | gnssTodMessage message => exact execGnssTodMessage_kept s message
  | gnssPpsTimeout edge => exact execGnssPpsTimeout_kept s edge
  | timeExchangeTimer => exact execTimeExchangeTimer_kept s
  | timeFrame link kind seq stamp => exact .next (timeFrame_kept _ _ _ _ _ (.refl s))
  | leadFailover => exact execLeadFailover_kept s
  | ppsOutSecond => exact execPpsOutSecond_kept s
  | timeSet data => exact .next (row _ _ _ _)
  | slotEnable data => exact .next (row _ _ _ _)
  | slotWindowOpen entry => exact execSlotWindowOpen_kept s entry
  | slotWindowClose entry => exact execSlotWindowClose_kept s entry
  | cellWake cell => exact .next (ite_kept (noteMerge_kept _ _ (cellSet_kept _ _ _ (.refl s))) (.refl s))
  | frameSlot link session => exact execFrameSlot_kept s link session
  | frameReceive link corrected lost hit bytes msg => exact execFrameReceive_kept s link corrected lost hit bytes msg
  | retransmitTimeout far n => exact execRetransmitTimeout_kept s far n
  | farRouteLost session => exact .next (ite_kept (.refl s) (ite_kept (loseRoute_kept _ _ (.refl s)) (.refl s)))
  | farRouteReturn session => exact execFarRouteReturn_kept s session
  | linkTrainingDone link ok fast peerChip peerLink peerStand peerMode rtt =>
    exact execLinkTrainingDone_kept s link ok fast peerChip peerLink peerStand peerMode rtt
  | linkSignalLoss link => exact .next (ite_kept (linkFail_kept _ _ _ (.refl s)) (.refl s))
  | linkRxTimeout link => exact .next (ite_kept (linkFail_kept _ _ _ (.refl s)) (.refl s))
  | linkEnableWrite link data => exact .next (rowIf _ _ _)
  | groupRetrain group data => exact .next (rowIf _ _ _)
  | groupModeWrite group data => exact .next (rowIf _ _ _)
  | standArm data => exact .next (row _ _ _ _)
  | farSessionValidWrite session data => exact .next (rowIf _ _ _)
  | routeEnable data => exact .next (row _ _ _ _)
  | semaphoreAdd off size data => exact .next (semWrite_kept _ _ _ _ (.refl s))
  | semAdd ctx idx => exact execSemAdd_kept s ctx idx
  | semSet ctx idx => exact .next (onOp _ _ _ _ fun _ => endOp_kept _ _ _ _ (semSet_kept _ _ _ (.refl s)))
  | barrier ctx idx => exact execBarrier_kept s ctx idx
  | barrierUnitWrite unit data => exact .next (ite_kept (barrierWrite_kept _ _ _ (.refl s)) (.refl s))
  | chainContribution link op chan gen index value => exact .next (chain _ _)
  | chainResult link op chan gen index value => exact .next (chain _ _)
  | chainRepeatTimer => exact .next (foldl_kept _ _ _ (.refl s) fun _ _ h => repeatContribution_kept _ _ h)
  | chainAnnounceTimer => exact .next (sendChainAll_kept _ _ (treeUpdate_kept _ (.refl s)))
  | chainAnnounce link rank state hopsLead hops0 chip active parent => exact .next (chain _ _)
  | chainSettle => exact .next (reshardTake_kept _ (chainSettle_kept _ (.refl s)))
  | standFaultFrame link chip faultLink cause => exact .next (chain _ _)
  | allReduce ctx idx peers => exact .next (gather _ _ _ _)
  | reduceScatter ctx idx peers => exact .next (gather _ _ _ _)
  | allGather ctx idx peers => exact .next (gather _ _ _ _)
  | permute ctx idx peers => exact .next (gather _ _ _ _)
  | keyImport data => exact .next (row _ _ _ _)
  | keyImportDone readOk oaepOk message => exact .next (keyImportEnd_kept _ _ _ _ (.refl s))
  | keyClear data => exact .next (row _ _ _ _)
  | entropyHealthFail => exact execEntropyHealthFail_kept s
  | rngRestart data pass => exact .next (row _ _ _ _)
  | kerfStageKey session slot => exact .next (rowIf _ _ _)
  | kerfRoll session slot => exact .next (rowIf _ _ _)
  | kerfGraceExpire session => exact .next (ite_kept (retirePrev_kept _ _ (.refl s)) (.refl s))
  | kerfAuthHaltClear session slot => exact .next (rowIf _ _ _)
  | form ctx idx => exact .next (onOp _ _ _ _ fun _ => finishOp_kept _ _ _ (formRun_kept _ _ (.refl s)))
  | merge ctx idx => exact .next (onOp _ _ _ _ fun o => mergeRun_kept s o false (.refl s))
  | mergeCutoff ctx idx => exact .next (onOp _ _ _ _ fun _ => ite_kept (mergeRun_kept _ _ _ (.refl s)) (.refl s))
  | rotationBundleReceive bundle again => exact .next (ite_kept (takeBundle_kept _ _ _ (.refl s)) (.refl s))
  | mergeMaskReceive rotation chip masks digest => exact execMergeMaskReceive_kept s rotation chip masks digest
  | mergeSetReceive rotation sealed used => exact .next (ite_kept (.refl s) (takeSet_kept _ _ (.refl s)))
  | apply ctx idx => exact .next (onOp _ _ _ _ fun o => applyRun_kept s o (.refl s))
  | basis ctx idx factors => exact .next (onOp _ _ _ _ fun o => basisRunNow_kept s o factors (.refl s))
  | ledgerEntryWrite digests => exact execLedgerEntryWrite_kept s digests
  | ledgerEntryReceive entry => exact .next (ite_kept (.refl s) (noteCommon_kept _ _ _ _ (setLast_kept _ _ _ (.refl s))))
  | partnerJoin ctx idx => exact .next (onOp _ _ _ _ fun _ => ite_kept (partnerJoin_kept _ _ (.refl s)) (.refl s))
  | partnerSplit ctx idx highest =>
    exact .next (onOp _ _ _ _ fun _ => ite_kept (partnerSplit_kept _ _ _ (.refl s)) (.refl s))
  | partnerDrop ctx idx => exact execPartnerDrop_kept s ctx idx
  | heal ctx idx anchors digests shards =>
    exact .next (onOp _ _ _ _ fun o => healRun_kept s o anchors digests shards (.refl s))
  | joinCheck ctx idx digests => exact .next (onOp _ _ _ _ fun o => joinCheck_kept s o digests (.refl s))
  | tallyOpen ctx idx => exact execTallyOpen_kept s ctx idx
  | tallyClose ctx idx => exact .next (onOp _ _ _ _ fun o => closeRun_kept s o (.refl s))
  | digest ctx idx => exact execDigest_kept s ctx idx
  | attest ctx idx => exact execAttest_kept s ctx idx
  | tallySignDone => exact execTallySignDone_kept s
  | voteScrub a upsets => exact execVoteScrub_kept s a upsets
  | registerWrite bar off size data => exact .next (write _ _ _ _)
  | aliasWrite bar off size data => exact .next (write _ _ _ _)
  | eventDump => exact execEventDump_kept s
  | perstRelease => exact execPerstRelease_kept s
  | perstAssert => exact execPerstAssert_kept s
  | cxlHotReset => exact execCxlHotReset_kept s
  | bootStageEnd ns outcome => exact .next (ite_kept (.refl s) (endStage_kept _ _ _ (.refl s)))
  | fwStartTimeout ns a b => exact execFwStartTimeout_kept s ns a b
  | partRecordWrite first second => exact execPartRecordWrite_kept s first second
  | getFwInfo => exact .next (ite_kept (.refl s) (mboxAnswer_kept _ _ (.refl s)))
  | transferFw slot off data last found => exact execTransferFw_kept s slot off data last found
  | activateFw online slot found => exact execActivateFw_kept s online slot found
  | readBootLog => exact .next (ite_kept (.refl s) (mboxAnswer_kept _ _ (.refl s)))
  | readPartInfo => exact execReadPartInfo_kept s
  | writeSetting item value => exact execWriteSetting_kept s item value
  | mailboxUnsupported opcode => exact .next (ite_kept (.refl s) (mboxCode_kept _ _ (.refl s)))
  | governorWindow watts tj => exact execGovernorWindow_kept s watts tj
  | avsComplete => exact execAvsComplete_kept s
  | brakeBegin uv => exact execBrakeBegin_kept s uv
  | brakeEnd uv => exact .next (ite_kept (setD_kept _ _ _ (.refl s)) (.refl s))
  | railReset uv => exact execRailReset_kept s uv
  | temperatureCrossing tj hbm => exact execTemperatureCrossing_kept s tj hbm
  | i3cPrivateRead => exact .next (ite_kept (.refl s) (.refl s))
  | i3cPrivateWrite data => exact .next (.refl s)
  | bypass => exact .next (jtag _ _)
  | idcode => exact .next (jtag _ _)
  | samplePreload pins preload => exact execSamplePreload_kept s pins preload
  | extest pins => exact .next (jtag _ _)
  | clamp => exact .next (jtag _ _)
  | highz => exact .next (jtag _ _)
  | railsInBand uv => exact execRailsInBand_kept s uv
  | registerRead bar off size => exact .next (hostRead_kept _ _ _ _ (.refl s))
  | skidCopyDone => exact execSkidCopyDone_kept s

/-- Every step goes on, and keeps the canonical form. -/
theorem step_kept (s : State) : ∃ t, step s = .next t ∧ (s.canonical = true → t.canonical = true) := by
  cases hp : s.pending with
  | nil =>
    obtain ⟨_, _, _, _, hk⟩ := idleCycle_kept s (.refl s)
    exact ⟨idleCycle s, by simp [step, hp], hk⟩
  | cons c rest =>
    obtain ⟨t, ht, _, _, _, _, hk⟩ := exec_kept c { s with pending := rest }
    exact ⟨t, by simpa [step, hp] using ht, hk⟩

end Sys2Proof.Machine

namespace Sys2Proof.Machine

/-- Settles O3: every step goes on to a state that its command, or the idle cycle, keeps canonical. -/
theorem canonicalFormIsInvariant : Obligations.CanonicalFormIsInvariant := by
  intro s t hs ht
  obtain ⟨u, hu, hk⟩ := step_kept s
  have e : u = t := by simpa [hu] using ht
  exact e ▸ hk hs

end Sys2Proof.Machine
end

section
/-!
SUPPORT. The state after reset: canonical, and every register field at the value of its word after reset.
-/

namespace Sys2Proof.Machine

/-- After reset, only the flash lists anything, and its list is canonical. -/
theorem reset_canonical : State.reset.canonical = true := by decide

/-- After reset, a field reads the bits of its word's reset value: all copies of a voted field agree. -/
theorem getF_reset (base : Nat) (f : Fld) (k : Nat) :
    getF State.reset base f k = bits (resetWord (fldAddr base f k)).toNat f.hi f.lo := by
  unfold getF
  dsimp only
  split
  · exact if_pos rfl
  · rfl

/-- Settles O4: nothing is listed after reset but the flash, and every field reads its table's value. -/
theorem resetIsCanonical : Obligations.ResetIsCanonical := by
  refine ⟨reset_canonical, rfl, rfl, rfl, rfl, rfl, rfl, ?_⟩
  simp only [getA, getB, getD, getG, sessF, getF_reset]
  decide +kernel

end Sys2Proof.Machine
end

section
/-!
SUPPORT. ECC, page retirement and the host's accesses to HBM: what each leaves unchanged, and what its counts read.
-/

namespace Sys2Proof.Machine

/-! ### What ECC and retirement change -/

/-- `t` is `s` but for copy 0 of the registers, HBM's bookkeeping and bring-up, and its poisoned lines are those of `s`. -/
def EccFrame (s t : State) : Prop :=
  t = { s with regs := t.regs, hbm := t.hbm, boot := t.boot } ∧ t.hbm.poison = s.hbm.poison

theorem EccFrame.trans {s t u : State} (h : EccFrame s t) (k : EccFrame t u) : EccFrame s u := by
  obtain ⟨h1, h2⟩ := h
  obtain ⟨k1, k2⟩ := k
  refine ⟨?_, k2.trans h2⟩
  rw [k1, h1]

theorem RegsOnly.eccFrame {s t : State} (h : RegsOnly s t) : EccFrame s t := by
  constructor <;> rw [h]

/-- The number of entries of a stack's list is no voted field. -/
theorem setUsed_regsOnly (s : State) (st n : Nat) : RegsOnly s (setUsed s st n) :=
  setF_regsOnly s _ _ _ (by split <;> decide)

/-- A slot entered in its stack's list leaves the poisoned lines. -/
theorem enterRetired_eccFrame (s : State) (st slot : Nat) : EccFrame s (enterRetired s st slot) := by
  unfold enterRetired draftPut EccFrame
  dsimp only
  generalize hk : (retiredOf s st).length + 1 = k
  generalize hs0 : ({ s with hbm := { s.hbm with retired := s.hbm.retired ++ [(st, slot)] } } : State) = s0
  have used : RegsOnly s0 (setUsed s0 st k) := setUsed_regsOnly s0 st k
  generalize setUsed s0 st k = t at used
  rw [used, ← hs0]
  exact ⟨rfl, rfl⟩

/-- Retirement leaves the poisoned lines. -/
theorem retireGranule_eccFrame (s : State) (off : Nat) : EccFrame s (retireGranule s off) := by
  unfold retireGranule
  dsimp only
  split
  · exact (RegsOnly.refl s).eccFrame
  · split
    · exact (setF_regsOnly s _ _ _ (by decide)).eccFrame
    · have entered := enterRetired_eccFrame s (stackOf off) (slotOf off)
      generalize enterRetired s (stackOf off) (slotOf off) = t at entered
      exact entered.trans ⟨rfl, rfl⟩

/-- A slot entered in its stack's list writes HBM_RETIRE of its Mill, and no other field. -/
theorem getF_enterRetired {s : State} {st slot : Nat} {g : Fld} (hs : s.canonical = true)
    (hg : g.off ≠ Reg.hbmRetire_full.off) :
    getF (enterRetired s st slot) (millBase (millOfStack st)) g 0 = getF s (millBase (millOfStack st)) g 0 := by
  have used (t : State) (n : Nat) (ht : t.canonical = true) :
      getF (setUsed t st n) (millBase (millOfStack st)) g 0 = getF t (millBase (millOfStack st)) g 0 :=
    getF_setF_other t _ _ _ g 0 0 n ht (fldAddr_zero_ne (by split <;> exact hg))
  unfold enterRetired draftPut
  dsimp only
  generalize hs0 : ({ s with hbm := { s.hbm with retired := s.hbm.retired ++ [(st, slot)] } } : State) = s0
  have hc0 : s0.canonical = true := hs0 ▸ hs
  have e0 : getF s0 (millBase (millOfStack st)) g 0 = getF s (millBase (millOfStack st)) g 0 := by
    rw [← hs0]
    exact getF_congr rfl rfl rfl _ _ _
  have hu := used s0 ((retiredOf s st).length + 1) hc0
  generalize setUsed s0 st ((retiredOf s st).length + 1) = t at hu
  exact (getF_congr rfl rfl rfl _ _ _).trans (hu.trans e0)

/-- Retirement writes HBM_RETIRE of the granule's Mill, and no other field. -/
theorem getF_retireGranule {s : State} {off : Nat} {g : Fld} (hs : s.canonical = true)
    (hg : g.off ≠ Reg.hbmRetire_full.off) :
    getF (retireGranule s off) (millOfOff off) g 0 = getF s (millOfOff off) g 0 := by
  unfold retireGranule
  dsimp only
  split
  · rfl
  · split
    · exact getF_setF_other s _ _ _ g 0 0 1 hs (fldAddr_zero_ne hg)
    · have entered := getF_enterRetired (st := stackOf off) (slot := slotOf off) hs hg
      generalize enterRetired s (stackOf off) (slotOf off) = t at entered
      exact (getF_congr rfl rfl rfl _ _ _).trans entered

/-- The line of an offset is poisoned, in the way in which an uncorrectable error poisons it. -/
def poisonLine (s : State) (off : Nat) : State :=
  { s with hbm := { s.hbm with
    poison := if s.hbm.poison.contains (off / 64) then s.hbm.poison else s.hbm.poison ++ [off / 64] } }

theorem poisonLine_canonical {s : State} (off : Nat) (h : s.canonical = true) : (poisonLine s off).canonical = true := h

theorem getF_poisonLine (s : State) (off base : Nat) (f : Fld) (k : Nat) :
    getF (poisonLine s off) base f k = getF s base f k := rfl

theorem poisonLine_contains (s : State) (off : Nat) : (poisonLine s off).hbm.poison.contains (off / 64) = true := by
  unfold poisonLine
  dsimp only
  split
  · assumption
  · simp

/-- The registers that an uncorrectable error at an offset leaves: it is counted, and its offset kept. -/
def ueRegs (s : State) (off : Nat) : State :=
  setF (set2 (countF s (millOfOff off) Reg.hbmUe_count 0 1) (millOfOff off) Reg.hbmLastUe_offsetLo Reg.hbmLastUe_offsetHi 0
    off) (millOfOff off) Reg.hbmLastUe_valid 0 1

/-- An uncorrectable error: registers, poison, retirement. -/
theorem hbmUncorrectable_eq (s : State) (off : Nat) :
    hbmUncorrectable s off = retireGranule (poisonLine (ueRegs s off) off) off := rfl

theorem ueRegs_regsOnly (s : State) (off : Nat) : RegsOnly s (ueRegs s off) :=
  (((countF_regsOnly s _ 0 1 (by decide)).trans (setF_regsOnly _ _ _ _ (by decide))).trans
    (setF_regsOnly _ _ _ _ (by decide))).trans (setF_regsOnly _ _ _ _ (by decide))

/-- HBM_UE counts the error, and HBM_LAST_UE is valid. -/
theorem getF_ueRegs {s : State} (off : Nat) (hs : s.canonical = true) :
    (ueRegs s off).canonical = true ∧
      getF (ueRegs s off) (millOfOff off) Reg.hbmUe_count 0 =
        min (2 ^ 16 - 1) (getF s (millOfOff off) Reg.hbmUe_count 0 + 1) ∧
      getF (ueRegs s off) (millOfOff off) Reg.hbmLastUe_valid 0 = 1 := by
  have c1 := (countF_kept s (millOfOff off) Reg.hbmUe_count 0 1 (.refl s)).canonical hs
  have c2 := (setF_kept _ (millOfOff off) Reg.hbmLastUe_offsetLo 0 (off / 2 ^ Reg.hbmLastUe_offsetLo.lo)
    (.refl _)).canonical c1
  have c3 := (setF_kept _ (millOfOff off) Reg.hbmLastUe_offsetHi 0 (off / 2 ^ 32) (.refl _)).canonical c2
  have c4 := (setF_kept _ (millOfOff off) Reg.hbmLastUe_valid 0 1 (.refl _)).canonical c3
  refine ⟨c4, ?_, getF_setF_same _ _ _ 0 1 c3 (by decide) (by decide)⟩
  calc getF (ueRegs s off) (millOfOff off) Reg.hbmUe_count 0
      = getF (set2 (countF s (millOfOff off) Reg.hbmUe_count 0 1) (millOfOff off) Reg.hbmLastUe_offsetLo
          Reg.hbmLastUe_offsetHi 0 off) (millOfOff off) Reg.hbmUe_count 0 :=
        getF_setF_other _ _ _ _ _ 0 0 _ c3 (fldAddr_zero_ne (by decide))
    _ = getF (setF (countF s (millOfOff off) Reg.hbmUe_count 0 1) (millOfOff off) Reg.hbmLastUe_offsetLo 0
          (off / 2 ^ Reg.hbmLastUe_offsetLo.lo)) (millOfOff off) Reg.hbmUe_count 0 :=
        getF_setF_other _ _ _ _ _ 0 0 _ c2 (fldAddr_zero_ne (by decide))
    _ = getF (countF s (millOfOff off) Reg.hbmUe_count 0 1) (millOfOff off) Reg.hbmUe_count 0 :=
        getF_setF_other _ _ _ _ _ 0 0 _ c1 (fldAddr_zero_ne (by decide))
    _ = min (2 ^ 16 - 1) (getF s (millOfOff off) Reg.hbmUe_count 0 + 1) :=
        getF_countF_same s _ _ 0 1 hs (by decide) (by decide)

/-- An uncorrectable error changes registers, HBM's bookkeeping and bring-up only, and poisons its line. -/
theorem hbmUncorrectable_frame (s : State) (off : Nat) :
    hbmUncorrectable s off = { s with regs := (hbmUncorrectable s off).regs, hbm := (hbmUncorrectable s off).hbm
                                      boot := (hbmUncorrectable s off).boot } ∧
      (hbmUncorrectable s off).hbm.poison.contains (off / 64) = true := by
  rw [hbmUncorrectable_eq]
  obtain ⟨h, hp⟩ := retireGranule_eccFrame (poisonLine (ueRegs s off) off) off
  refine ⟨?_, hp ▸ poisonLine_contains _ off⟩
  have e : poisonLine (ueRegs s off) off = { s with regs := (ueRegs s off).regs
                                                    hbm := (poisonLine (ueRegs s off) off).hbm } := by
    unfold poisonLine
    rw [ueRegs_regsOnly s off]
  rw [h, e]

/-- An uncorrectable error is counted, and HBM_LAST_UE is valid. -/
theorem getF_hbmUncorrectable {s : State} (off : Nat) (hs : s.canonical = true) :
    getF (hbmUncorrectable s off) (millOfOff off) Reg.hbmUe_count 0 =
        min (2 ^ 16 - 1) (getF s (millOfOff off) Reg.hbmUe_count 0 + 1) ∧
      getF (hbmUncorrectable s off) (millOfOff off) Reg.hbmLastUe_valid 0 = 1 := by
  obtain ⟨hc, hcount, hvalid⟩ := getF_ueRegs off hs
  rw [hbmUncorrectable_eq]
  constructor
  · rw [getF_retireGranule (poisonLine_canonical off hc) (by decide), getF_poisonLine, hcount]
  · rw [getF_retireGranule (poisonLine_canonical off hc) (by decide), getF_poisonLine, hvalid]

/-- The registers that a corrected error at an offset leaves: it is counted, by HBM_CE and as an event. -/
def ceRegs (s : State) (off : Nat) : State :=
  event (countF s (millOfOff off) Reg.hbmCe_count 0 1) (millOfOff off) 0x09 1

theorem ceRegs_regsOnly (s : State) (off : Nat) : RegsOnly s (ceRegs s off) :=
  (countF_regsOnly s _ 0 1 (by decide)).trans (event_regsOnly _ _ _ _)

/-- A corrected error is counted in HBM_CE. -/
theorem getF_ceRegs {s : State} (off : Nat) (hs : s.canonical = true) :
    (ceRegs s off).canonical = true ∧ getF (ceRegs s off) (millOfOff off) Reg.hbmCe_count 0 =
      min (2 ^ 32 - 1) (getF s (millOfOff off) Reg.hbmCe_count 0 + 1) := by
  have hc := (countF_kept s (millOfOff off) Reg.hbmCe_count 0 1 (.refl s)).canonical hs
  refine ⟨(event_kept _ _ _ _ (.refl _)).canonical hc, ?_⟩
  rw [ceRegs, getF_event_below hc (by simp [fldAddr, Reg.hbmCe_count])]
  exact getF_countF_same s _ _ 0 1 hs (by decide) (by decide)

/-- The number of corrected errors of a granule written. -/
def noteCorrected (s : State) (off n : Nat) : State :=
  { s with hbm := { s.hbm with corrected := sparseSet 0 (off / 4096) n s.hbm.corrected } }

theorem noteCorrected_canonical {s : State} (off n : Nat) (h : s.canonical = true) :
    (noteCorrected s off n).canonical = true := h

theorem getF_noteCorrected (s : State) (off n base : Nat) (f : Fld) (k : Nat) :
    getF (noteCorrected s off n) base f k = getF s base f k := rfl

/-- A corrected error: its count, the granule's number, and retirement at the eighth. -/
theorem hbmCorrected_eq (s : State) (off : Nat) :
    hbmCorrected s off =
      if sparseGet 0 (off / 4096) s.hbm.corrected + 1 = 8 then retireGranule (noteCorrected (ceRegs s off) off
        (sparseGet 0 (off / 4096) s.hbm.corrected + 1)) off
      else noteCorrected (ceRegs s off) off (sparseGet 0 (off / 4096) s.hbm.corrected + 1) := rfl

/-- Before the eighth of its granule, a corrected error changes registers and the granule's number only. -/
theorem hbmCorrected_frame {s : State} {off : Nat} (h8 : sparseGet 0 (off / 4096) s.hbm.corrected + 1 ≠ 8) :
    hbmCorrected s off = { s with regs := (hbmCorrected s off).regs
                                  hbm := { s.hbm with corrected := (hbmCorrected s off).hbm.corrected } } := by
  rw [hbmCorrected_eq, if_neg h8]
  unfold noteCorrected
  rw [ceRegs_regsOnly s off]

/-- A corrected error is counted, whether or not it retires its granule. -/
theorem getF_hbmCorrected {s : State} (off : Nat) (hs : s.canonical = true) :
    getF (hbmCorrected s off) (millOfOff off) Reg.hbmCe_count 0 =
      min (2 ^ 32 - 1) (getF s (millOfOff off) Reg.hbmCe_count 0 + 1) := by
  obtain ⟨hc, hcount⟩ := getF_ceRegs off hs
  rw [hbmCorrected_eq]
  split
  · rw [getF_retireGranule (noteCorrected_canonical off _ hc) (by decide), getF_noteCorrected, hcount]
  · rw [getF_noteCorrected, hcount]

/-! ### The host's accesses -/

/-- An unmapped read is answered with poison. -/
theorem execCxlMemRead_unmapped {s : State} {off n : Nat} (ecc : Ecc) (h : cxlMapped s off n = false) :
    exec (.cxlMemRead off n ecc) s = .next (answer s [] true) := by
  show execCxlMemRead off n ecc s = _
  simp [execCxlMemRead, h]

/-- A mapped read of a granule that is being copied waits. -/
theorem execCxlMemRead_waits {s : State} {off n : Nat} (ecc : Ecc) (h : cxlMapped s off n = true)
    (hw : accessWaits s off n = true) :
    exec (.cxlMemRead off n ecc) s =
      .next { s with hbm := { s.hbm with waiting := s.hbm.waiting ++ [.read off n ecc] } } := by
  show execCxlMemRead off n ecc s = _
  simp [execCxlMemRead, h, hw]

/-- Any other mapped read is served. -/
theorem execCxlMemRead_served {s : State} {off n : Nat} (ecc : Ecc) (h : cxlMapped s off n = true)
    (hw : accessWaits s off n = false) : exec (.cxlMemRead off n ecc) s = .next (serveRead s off n ecc) := by
  show execCxlMemRead off n ecc s = _
  simp [execCxlMemRead, h, hw]

/-- An unmapped write is counted. -/
theorem execCxlMemWrite_unmapped {s : State} {off : Nat} {data : List Byte} (h : cxlMapped s off data.length = false) :
    exec (.cxlMemWrite off data) s = .next (countF s (millBase 0) Reg.hbmUe_unmappedWr 0 1) := by
  show execCxlMemWrite off data s = _
  simp [execCxlMemWrite, h]

/-- A mapped write to a granule that is being copied waits. -/
theorem execCxlMemWrite_waits {s : State} {off : Nat} {data : List Byte} (h : cxlMapped s off data.length = true)
    (hw : accessWaits s off data.length = true) :
    exec (.cxlMemWrite off data) s =
      .next { s with hbm := { s.hbm with waiting := s.hbm.waiting ++ [.write off data] } } := by
  show execCxlMemWrite off data s = _
  simp [execCxlMemWrite, h, hw]

/-- Any other mapped write writes its bytes. -/
theorem execCxlMemWrite_served {s : State} {off : Nat} {data : List Byte} (h : cxlMapped s off data.length = true)
    (hw : accessWaits s off data.length = false) :
    exec (.cxlMemWrite off data) s = .next (wrMem s (bytesWrites off data)) := by
  show execCxlMemWrite off data s = _
  simp [execCxlMemWrite, h, hw]

/-- A read of a poisoned line finds an uncorrectable error there. -/
theorem serveRead_poisoned {s : State} {off n p : Nat} (e : Ecc) (h : poisonIn s off n = some p) :
    serveRead s off n e = answer (hbmUncorrectable s p) [] true := by
  unfold serveRead
  rw [h]

/-- A read without an error answers the bytes. -/
theorem serveRead_ok {s : State} {off n : Nat} (h : poisonIn s off n = none) :
    serveRead s off n .ok = answer s (rdBytes s off n) false := by
  unfold serveRead
  rw [h]
  rfl

/-- A read with a corrected error answers the bytes. -/
theorem serveRead_corrected {s : State} {off n a : Nat} (h : poisonIn s off n = none) (ha : a < capacity s) :
    serveRead s off n (.corrected a) = answer (hbmCorrected s a) (rdBytes s off n) false := by
  unfold serveRead
  rw [h]
  simp only [hbmEcc, if_pos ha]

/-- A read with an error that ECC cannot correct answers poison. -/
theorem serveRead_uncorrectable {s : State} {off n a : Nat} (h : poisonIn s off n = none) (ha : a < capacity s) :
    serveRead s off n (.uncorrectable a) = answer (hbmUncorrectable s a) [] true := by
  unfold serveRead
  rw [h]
  simp only [hbmEcc, if_pos ha]

/-- The end of a copy serves the accesses that no copy holds up any longer. -/
theorem execRetirementCopyDone_copying {s : State} {g : Nat} (h : s.hbm.copying.contains g = true) :
    let t := { s with hbm := { s.hbm with copying := s.hbm.copying.filter (fun k => k != g) } }
    let waits := fun w => accessWaits t (waitRange w).1 (waitRange w).2
    exec (.retirementCopyDone g) s = .next ((s.hbm.waiting.filter (fun w => !waits w)).foldl serveWait
      { t with hbm := { t.hbm with waiting := s.hbm.waiting.filter waits } }) := by
  show execRetirementCopyDone g s = _
  unfold execRetirementCopyDone
  rw [h]
  rfl

/-! ### The statement, part by part -/

/-- A write that is served stores its bytes, and a read without an error then answers them. -/
theorem cxlMemWrite_read_back {s : State} {off : Nat} {data : List Byte} (hm : memWf s.mem = true)
    (h : cxlMapped s off data.length = true) (hw : accessWaits s off data.length = false)
    (hp : poisonIn (wrMem s (bytesWrites off data)) off data.length = none) :
    exec (.cxlMemRead off data.length .ok) (wrMem s (bytesWrites off data)) =
      .next { wrMem s (bytesWrites off data) with readOut := ⟨data, false⟩ } := by
  have hb : rdBytes (wrMem s (bytesWrites off data)) off data.length = data := memBytes_bytesWrites hm
  have hmap : cxlMapped (wrMem s (bytesWrites off data)) off data.length = true := h
  have hwait : accessWaits (wrMem s (bytesWrites off data)) off data.length = false := hw
  rw [execCxlMemRead_served .ok hmap hwait, serveRead_ok hp, hb]
  rfl

/-- Settles O12: each access comes to one of the cases above, by what it meets. -/
theorem hostMemoryReadsWhatItWrote : Obligations.HostMemoryReadsWhatItWrote := by
  refine ⟨?write, ?unmappedRead, ?unmappedWrite, ?readWaits, ?writeWaits, ?poisoned, ?ecc, ?copyDone⟩
  case write =>
    intro s off data hm h hw
    exact ⟨_, execCxlMemWrite_served h hw, fun i hi => memRead_bytesWrites_in hm hi,
      fun a ha => memRead_bytesWrites_out hm ha, rfl, fun l => contains_clearPoison, cxlMemWrite_read_back hm h hw⟩
  case unmappedRead => exact fun s off n ecc h => execCxlMemRead_unmapped ecc h
  case unmappedWrite => exact fun s off data h => execCxlMemWrite_unmapped h
  case readWaits => exact fun s off n ecc h hw => execCxlMemRead_waits ecc h hw
  case writeWaits => exact fun s off data h hw => execCxlMemWrite_waits h hw
  case poisoned =>
    intro s off n p ecc hs h hw hp
    have served := (execCxlMemRead_served ecc h hw).trans (congrArg _ (serveRead_poisoned ecc hp))
    obtain ⟨hf, _⟩ := hbmUncorrectable_frame s p
    obtain ⟨hcount, _⟩ := getF_hbmUncorrectable p hs
    generalize hbmUncorrectable s p = t at served hf hcount
    exact ⟨answer t [] true, served, rfl, (congrArg State.mem hf :), hcount⟩
  case ecc =>
    intro s off n a hs h hw hp ha
    constructor
    · have served := (execCxlMemRead_served _ h hw).trans (congrArg _ (serveRead_corrected hp ha))
      have hf := fun h8 => hbmCorrected_frame (s := s) (off := a) h8
      have hcount := getF_hbmCorrected a hs
      generalize hbmCorrected s a = t at served hf hcount
      exact ⟨answer t (rdBytes s off n) false, served, rfl, hcount,
        fun h8 => congrArg (fun t : State => answer t (rdBytes s off n) false) (hf h8)⟩
    · have served := (execCxlMemRead_served _ h hw).trans (congrArg _ (serveRead_uncorrectable hp ha))
      obtain ⟨hf, hpoison⟩ := hbmUncorrectable_frame s a
      obtain ⟨hcount, hvalid⟩ := getF_hbmUncorrectable a hs
      generalize hbmUncorrectable s a = t at served hf hpoison hcount hvalid
      exact ⟨answer t [] true, served, rfl, hpoison, hcount, hvalid, congrArg (fun t : State => answer t [] true) hf⟩
  case copyDone => exact fun s g h => execRetirementCopyDone_copying h

end Sys2Proof.Machine
end

section
/-!
SUPPORT. COPY and REPLICA_CMP: the rows that they move or send, and how they end.
-/

namespace Sys2Proof.Machine

/-! ### COPY: rows moved within the chip -/

/-- A row of counter words has as many bytes as it is asked for, in whole words. -/
theorem counterRow_length (s : State) (a n : Nat) (h : n % 4 = 0) : (counterRow s a n).length = n := by
  have le4 : ∀ x, (leBytes 4 x).length = 4 := fun _ => rfl
  simp only [counterRow, List.length_flatMap, le4]
  simp
  omega

/-- A COPY reads as many rows as it moves. -/
theorem cpRowsRead_length (s : State) (d : Desc) : (cpRowsRead s d).length = cpRows d := by
  simp [cpRowsRead, regionRows, cpSrc]

/-- Each row that a COPY of whole words reads has its length. -/
theorem cpRowsRead_row {s : State} {d : Desc} {r : Nat} (hb : cpBytes d % 16 = 0) (hr : r < cpRows d) :
    ((cpRowsRead s d).getD r []).length = cpBytes d := by
  have hl : r < (cpRowsRead s d).length := by rwa [cpRowsRead_length]
  rw [List.getD_eq_getElem _ _ hl]
  simp only [cpRowsRead, List.getElem_map, regionRows]
  split
  · exact counterRow_length _ _ _ (by show cpBytes d % 4 = 0; omega)
  · simp [rdBytes, memBytes, cpSrc]

/-- The writes of rows of bytes into a region. -/
def regionWrites (g : Region) (rows : List (List Byte)) : List Host.Cell :=
  ((regionRows g).zip rows).flatMap (fun p => bytesWrites p.1.1 p.2)

/-- Rows written into a region: byte `k` of row `r` at its place. -/
theorem mem_regionWrites {g : Region} {rows : List (List Byte)} (hl : rows.length = g.rows) {w : Host.Cell} :
    w ∈ regionWrites g rows ↔ ∃ r k, r < g.rows ∧ k < (rows.getD r []).length ∧
      w = (g.off + r * g.pitch + k, (rows.getD r []).getD k 0) := by
  have row (r : Nat) (h : r < ((regionRows g).zip rows).length) :
      ((regionRows g).zip rows)[r].1.1 = g.off + r * g.pitch ∧ ((regionRows g).zip rows)[r].2 = rows.getD r [] := by
    have hr : r < rows.length := by
      rw [List.length_zip] at h
      omega
    simp [regionRows, hr]
  have len : ((regionRows g).zip rows).length = g.rows := by simp [regionRows, hl]
  unfold regionWrites
  rw [List.mem_flatMap]
  constructor
  · rintro ⟨p, hp, hw⟩
    obtain ⟨r, hr, rfl⟩ := List.mem_iff_getElem.mp hp
    obtain ⟨k, hk, rfl⟩ := mem_bytesWrites.mp hw
    obtain ⟨e1, e2⟩ := row r hr
    exact ⟨r, k, len ▸ hr, e2 ▸ hk, by rw [e1, e2]⟩
  · rintro ⟨r, k, hr, hk, rfl⟩
    have hr' : r < ((regionRows g).zip rows).length := by rwa [len]
    obtain ⟨e1, e2⟩ := row r hr'
    refine ⟨_, List.getElem_mem hr', mem_bytesWrites.mpr ⟨k, ?_, ?_⟩⟩
    · rwa [e2]
    · rw [e1, e2]

/-- Bytes of rows that do not run into each other lie apart. -/
theorem row_places_inj {pitch n r r' k k' : Nat} (h : n ≤ pitch) (hk : k < n) (hk' : k' < n)
    (e : r * pitch + k = r' * pitch + k') : r = r' ∧ k = k' := by
  have hr : r = r' := by
    have d : ∀ x y, y < pitch → (x * pitch + y) / pitch = x := fun x y hy => by
      rw [Nat.mul_comm, Nat.mul_add_div (by omega), Nat.div_eq_of_lt hy, Nat.add_zero]
    rw [← d r k (by omega), ← d r' k' (by omega), e]
  subst hr
  exact ⟨rfl, by omega⟩

/-- Rows written into a region whose rows do not run into each other are read there. -/
theorem memRead_regionWrites_in {m : List Host.Cell} {g : Region} {rows : List (List Byte)} (hm : memWf m = true)
    (hl : rows.length = g.rows) (hn : ∀ r, r < g.rows → (rows.getD r []).length = g.len)
    (hp : g.rows ≤ 1 ∨ g.len ≤ g.pitch) {r k : Nat} (hr : r < g.rows) (hk : k < g.len) :
    memRead (memWriteAll m (regionWrites g rows)) (g.off + r * g.pitch + k) = (rows.getD r []).getD k 0 := by
  refine memRead_writeAll_agree hm (fun w hw e => ?_)
    ⟨_, (mem_regionWrites hl).mpr ⟨r, k, hr, by rwa [hn r hr], rfl⟩, rfl⟩
  obtain ⟨r', k', hr', hk', rfl⟩ := (mem_regionWrites hl).mp hw
  rw [hn r' hr'] at hk'
  obtain ⟨rfl, rfl⟩ : r' = r ∧ k' = k := by
    rcases hp with h1 | hp
    · obtain rfl : r' = r := by omega
      exact ⟨rfl, by dsimp only at e; omega⟩
    · exact row_places_inj hp hk' hk (by dsimp only at e; omega)
  rfl

/-- Rows written into a region leave every byte outside them as it reads. -/
theorem memRead_regionWrites_out {m : List Host.Cell} {g : Region} {rows : List (List Byte)} (hm : memWf m = true)
    (hl : rows.length = g.rows) (hn : ∀ r, r < g.rows → (rows.getD r []).length = g.len) {a : Nat}
    (ha : ∀ r k, r < g.rows → k < g.len → a ≠ g.off + r * g.pitch + k) :
    memRead (memWriteAll m (regionWrites g rows)) a = memRead m a := by
  refine memRead_writeAll_other _ _ _ (fun w hw e => ?_) hm
  obtain ⟨r, k, hr, hk, rfl⟩ := (mem_regionWrites hl).mp hw
  exact ha r k hr (by rwa [← hn r hr]) e.symm

/-- The state in which a COPY has counted its units and written its rows, training state included. -/
def cpWritten (s : State) (o : Op) : State :=
  wrMem (event s (cellBase ((scopeCells o.d).headD 0)) 0x09 (cpRows o.d * cpBytes o.d / 16))
    (regionWrites (cpDst o.d) (cpRowsRead s o.d))

/-- A COPY within its chip: the rows written, training state held, the operation's work done. -/
theorem cpOwn_eq (s : State) (o : Op) :
    cpOwn s o = finishOp (holdTrain s (cpWritten s o) o.ctx o.idx) o.ctx o.idx := rfl

/-- Before its end, a COPY changes memory, poison and the counters only. -/
theorem cpWritten_frame (s : State) (o : Op) :
    cpWritten s o = { s with mem := memWriteAll s.mem (regionWrites (cpDst o.d) (cpRowsRead s o.d))
                             regs := (cpWritten s o).regs
                             hbm := { s.hbm with poison := (cpWritten s o).hbm.poison } } := by
  have counted := event_regsOnly s (cellBase ((scopeCells o.d).headD 0)) 0x09 (cpRows o.d * cpBytes o.d / 16)
  unfold cpWritten
  generalize event s (cellBase ((scopeCells o.d).headD 0)) 0x09 (cpRows o.d * cpBytes o.d / 16) = t at counted
  rw [counted]
  rfl

/-- What memory reads after a COPY within its chip. -/
theorem memRead_cpOwn {s : State} (o : Op) (a : Nat) (hm : memWf s.mem = true) :
    memRead (cpOwn s o).mem a = if (trainRegions s).any (fun r => inRegion r a) then memRead s.mem a
      else memRead (memWriteAll s.mem (regionWrites (cpDst o.d) (cpRowsRead s o.d))) a := by
  have hmem : (cpWritten s o).mem = memWriteAll s.mem (regionWrites (cpDst o.d) (cpRowsRead s o.d)) := by
    rw [cpWritten_frame]
  calc memRead (cpOwn s o).mem a
      = memRead (holdTrain s (cpWritten s o) o.ctx o.idx).mem a := by rw [cpOwn_eq, finishOp_mem]
    _ = if (trainRegions s).any (fun r => inRegion r a) then memRead s.mem a else memRead (cpWritten s o).mem a :=
        memRead_holdTrain o.ctx o.idx a (hmem ▸ memWriteAll_wf _ _ hm)
    _ = _ := by rw [hmem]

/-- What a COPY within its chip changes. -/
theorem cpOwn_frame (s : State) (o : Op) :
    cpOwn s o = { s with mem := (cpOwn s o).mem, hbm := { s.hbm with poison := (cpOwn s o).hbm.poison }
                         regs := (cpOwn s o).regs, ops := (cpOwn s o).ops } := by
  have written := cpWritten_frame s o
  rw [cpOwn_eq]
  generalize cpWritten s o = t at written
  have held := holdTrain_frame s t o.ctx o.idx
  generalize holdTrain s t o.ctx o.idx = u at held
  rw [held, written]
  rfl

/-- A COPY within its chip ends normally. -/
theorem findOp_cpOwn_same {s : State} {c i : Nat} {o : Op} (h : findOp s c i = some o) (hc : dCheck o.d ≤ 1) :
    ∃ ws, findOp (cpOwn s o) c i = some { o with writes := ws, ended := some (normalEnd o) } := by
  obtain ⟨rfl, rfl⟩ := findOp_place h
  have hw : findOp (cpWritten s o) o.ctx o.idx = some o := by
    rw [← h]
    exact findOp_congr (by rw [cpWritten_frame]) _ _
  obtain ⟨ws, hh⟩ := findOp_holdTrain_same (s := s) hw
  rw [cpOwn_eq]
  exact ⟨ws, findOp_finishOp_same hh (checkLevel_ne_two hc)⟩

/-- A COPY leaves every other operation. -/
theorem findOp_cpOwn_other {s : State} {c i x y : Nat} {o : Op} (h : findOp s c i = some o) (hn : ¬ (x = c ∧ y = i)) :
    findOp (cpOwn s o) x y = findOp s x y := by
  obtain ⟨rfl, rfl⟩ := findOp_place h
  rw [cpOwn_eq, findOp_finishOp_other hn, findOp_holdTrain_other hn]
  exact findOp_congr (by rw [cpWritten_frame]) _ _

/-! ### COPY: the command and its messages -/

/-- While units are held, COPY waits. -/
theorem exec_copy_held {s : State} {c i : Nat} {o : Op} (h : runningOp s c i 0x0500 = some o)
    (hu : unitsHeld s = true) : exec (.copy c i) s = .next s := by
  show execCopy c i s = _
  simp [execCopy, onOp_running _ h, hu]

section Command
variable {s : State} {c i : Nat} {o : Op} (h : runningOp s c i 0x0500 = some o) (hw : o.work = .none)
include h hw

/-- A COPY with a fault ends with it. -/
theorem exec_copy_faulty {e : Nat × Nat} (hu : unitsHeld s = false) (hf : copyFault s c o.d = some e) :
    exec (.copy c i) s = .next (ctxFault s c i e.1 e.2) := by
  show execCopy c i s = _
  simp [execCopy, onOp_running _ h, hw, hu, hf]

/-- A COPY without a fault within its chip writes its rows. -/
theorem exec_copy_own (hu : unitsHeld s = false) (hf : copyFault s c o.d = none) (hown : cpChip o.d = s.chip) :
    exec (.copy c i) s = .next (cpOwn s o) := by
  show execCopy c i s = _
  simp [execCopy, onOp_running _ h, hw, hu, hf, hown]

/-- A COPY without a fault to another chip asks it. -/
theorem exec_copy_asking (hu : unitsHeld s = false) (hf : copyFault s c o.d = none) (hown : cpChip o.d ≠ s.chip) :
    exec (.copy c i) s = .next (sendMsg (updOp s c i (fun p => { p with work := .asking })) 1 (cpChip o.d) 0
      ⟨s.chip, c, i, .writeCheck (cpDst o.d) (dEval o.d)⟩) := by
  show execCopy c i s = _
  simp [execCopy, onOp_running _ h, hw, hu, hf, hown]

end Command

/-- Before its messages leave, a COPY to another chip counts its units and waits for their acknowledgements. -/
def cpSending (s : State) (o : Op) : State :=
  updOp (event s (cellBase ((scopeCells o.d).headD 0)) 0x09 (cpRows o.d * cpBytes o.d / 16)) o.ctx o.idx
    (fun p => { p with work := .remote (cpMessages s o.d).length false })

/-- The rows of a COPY to another chip leave as one message after another. -/
theorem cpSendAll_eq (s : State) (o : Op) : cpSendAll s o =
    (cpMessages s o.d).foldl (fun t m => sendMsg t 1 (cpChip o.d) 0 ⟨s.chip, o.ctx, o.idx, .write m.1 m.2 o.step⟩)
      (cpSending s o) := rfl

theorem cpSending_frame (s : State) (o : Op) :
    cpSending s o = { s with regs := (cpSending s o).regs, ops := (cpSending s o).ops } := by
  have counted := event_regsOnly s (cellBase ((scopeCells o.d).headD 0)) 0x09 (cpRows o.d * cpBytes o.d / 16)
  unfold cpSending
  generalize event s (cellBase ((scopeCells o.d).headD 0)) 0x09 (cpRows o.d * cpBytes o.d / 16) = t at counted
  rw [counted]
  rfl

/-- The operation waits for as many acknowledgements as messages leave. -/
theorem findOp_cpSending {s : State} {c i : Nat} {o : Op} (h : findOp s c i = some o) :
    findOp (cpSending s o) c i = some { o with work := .remote (cpMessages s o.d).length false } := by
  obtain ⟨rfl, rfl⟩ := findOp_place h
  refine findOp_updOp_same _ _ _ _ ?_ (fun _ => ⟨rfl, rfl⟩)
  rw [← h]
  exact findOp_congr (by rw [event_regsOnly]) _ _

/-- No message of a COPY carries more than 256 bytes. -/
theorem cpMessages_length {s : State} {d : Desc} {m : Nat × List Byte} (h : m ∈ cpMessages s d) : m.2.length ≤ 256 := by
  simp only [cpMessages, List.mem_flatMap, List.mem_map] at h
  obtain ⟨_, _, _, _, rfl⟩ := h
  exact List.length_take_le _ _

/-- A running operation that asks takes the verdict of the other chip. -/
theorem deliverMsg_verdict {s : State} {c i src : Nat} {o : Op} (bs : List Byte) (code off : Nat)
    (h : findOp s c i = some o) (hr : opRuns o = true) (hw : o.work = .asking) (hop : dOpcode o.d = 0x0500) :
    deliverMsg s ⟨src, c, i, .verdict code off⟩ 7 bs = if code ≠ 0 then ctxFault s c i code off else cpSendAll s o := by
  show takeVerdict s c i code off = _
  unfold takeVerdict
  simp [h, hr, hw, hop]

/-- A running operation that waits for acknowledgements takes one. -/
theorem deliverMsg_ack {s : State} {c i src n : Nat} {o : Op} {k : Bool} (bs : List Byte) (skip : Bool)
    (h : findOp s c i = some o) (hr : opRuns o = true) (hw : o.work = .remote n k) :
    deliverMsg s ⟨src, c, i, if skip then .ackSkip else .ack⟩ 7 bs =
      if n ≤ 1 then finishOp (updOp s c i (fun p => { p with work := .remote 0 (k || skip) })) c i
      else updOp s c i (fun p => { p with work := .remote (n - 1) (k || skip) }) := by
  have e : deliverMsg s ⟨src, c, i, if skip then .ackSkip else .ack⟩ 7 bs = remoteDone s c i skip := by
    cases skip <;> rfl
  rw [e]
  unfold remoteDone
  simp [h, hr, hw]

/-! ### REPLICA_CMP -/

/-- REPLICA_CMP on a running operation whose work has not begun. -/
theorem exec_replicaCmp {s : State} {c i : Nat} {o : Op} (h : runningOp s c i 0x0910 = some o) (hw : o.work = .none) :
    exec (.replicaCmp c i) s = .next (faultOr s c i (replicaFault s o.d) (replicaStart s c i o)) := by
  show execReplicaCmp c i s = _
  unfold execReplicaCmp
  rw [onOp_running _ h]
  simp [hw]

/-- A comparison waits while a peer's digest has not come. -/
theorem replicaCompare_waits {s : State} {c i q : Nat} {o : Op} {v : List Byte} (h : findOp s c i = some o)
    (hw : o.work = .replica v) (hq : q ∈ rcPeers o.d) (hn : replicaOf s (rcTag o.d) q = none) :
    replicaCompare s c i = s := by
  have missing : (rcPeers o.d).any (fun p => (replicaOf s (rcTag o.d) p).isNone) = true :=
    List.any_eq_true.mpr ⟨q, hq, by rw [hn]; rfl⟩
  unfold replicaCompare
  simp only [h, hw, missing, Bool.or_true, if_true]

/-- Before its messages leave, a comparison holds its own value and has counted its blocks. -/
def replicaSending (s : State) (c i : Nat) (o : Op) : State :=
  updOp (countSha s (16 * uCount o.d)) c i (fun p => { p with work := .replica (replicaValue s o.d) })

/-- The state in which a comparison's value has been sent to every peer. -/
def replicaSent (s : State) (c i : Nat) (o : Op) : State :=
  (rcPeers o.d).foldl (fun t q => sendMsg t 6 q 0 ⟨s.chip, c, i, .replica (rcTag o.d) (replicaValue s o.d)⟩)
    (replicaSending s c i o)

theorem replicaStart_eq (s : State) (c i : Nat) (o : Op) :
    replicaStart s c i o = replicaCompare (replicaSent s c i o) c i := rfl

theorem replicaSending_frame (s : State) (c i : Nat) (o : Op) :
    replicaSending s c i o = { s with regs := (replicaSending s c i o).regs, ops := (replicaSending s c i o).ops } := by
  have counted : RegsOnly s (countSha s (16 * uCount o.d)) := event_regsOnly _ _ _ _
  unfold replicaSending
  generalize countSha s (16 * uCount o.d) = t at counted
  rw [counted]
  rfl

/-- A comparison's value waits for every peer, and the operation for theirs. -/
theorem replicaSent_spec {s : State} {c i : Nat} {o : Op} (h : findOp s c i = some o) :
    findOp (replicaSent s c i o) c i = some { o with work := .replica (replicaValue s o.d) } ∧
      txPairs (replicaSent s c i o) = txPairs s ++
        (rcPeers o.d).map (fun q => (q, ⟨s.chip, c, i, .replica (rcTag o.d) (replicaValue s o.d)⟩)) ∧
      replicaSent s c i o = { s with txq := (replicaSent s c i o).txq, regs := (replicaSent s c i o).regs
                                     ops := (replicaSent s c i o).ops } := by
  have found : findOp (replicaSending s c i o) c i = some { o with work := .replica (replicaValue s o.d) } := by
    refine findOp_updOp_same _ _ _ _ ?_ (fun _ => ⟨rfl, rfl⟩)
    rw [← h]
    exact findOp_congr (by rw [countSha, event_regsOnly]) _ _
  have sending := replicaSending_frame s c i o
  obtain ⟨hf, hx⟩ := foldl_sendMsg 6 (fun q => q)
    (fun _ => (⟨s.chip, c, i, .replica (rcTag o.d) (replicaValue s o.d)⟩ : Msg)) (rcPeers o.d) (replicaSending s c i o)
  unfold replicaSent
  generalize replicaSending s c i o = t at found sending hf hx ⊢
  generalize (rcPeers o.d).foldl _ t = u at hf hx ⊢
  refine ⟨?_, hx.trans ?_, ?_⟩
  · rw [← found]
    exact findOp_congr (by rw [hf]) _ _
  · unfold txPairs
    rw [sending]
  · rw [hf, sending]

/-- The digest that has arrived is held, in place of an earlier one. -/
theorem replicaOf_replicaTake_same (s : State) (tag q : Nat) (v : List Byte) :
    replicaOf (replicaTake s tag q v) tag q = some v := by
  have none_left : (s.replicas.filter (fun r => !(r.tag == tag && r.chip == q))).find?
      (fun r => r.tag == tag && r.chip == q) = none := by
    rw [List.find?_eq_none]
    intro r hr
    have := (List.mem_filter.mp hr).2
    simp only [Bool.not_eq_true'] at this
    rw [this]
    exact Bool.false_ne_true
  unfold replicaOf replicaTake
  dsimp only
  rw [List.find?_append, none_left]
  simp

/-- A digest that arrives leaves those of other peers and tags. -/
theorem replicaOf_replicaTake_other (s : State) {tag q t x : Nat} (v : List Byte) (h : (t, x) ≠ (tag, q)) :
    replicaOf (replicaTake s tag q v) t x = replicaOf s t x := by
  have other : ∀ r : Replica, (r.tag == t && r.chip == x) = true → (!(r.tag == tag && r.chip == q)) = true := by
    intro r hr
    simp only [Bool.and_eq_true, beq_iff_eq] at hr
    obtain ⟨rfl, rfl⟩ := hr
    rw [Bool.not_eq_true', Bool.eq_false_iff]
    intro hq
    simp only [Bool.and_eq_true, beq_iff_eq] at hq
    obtain ⟨rfl, rfl⟩ := hq
    exact h rfl
  have kept : (s.replicas.filter (fun r => !(r.tag == tag && r.chip == q))).find? (fun r => r.tag == t && r.chip == x) =
      s.replicas.find? (fun r => r.tag == t && r.chip == x) := by
    rw [List.find?_filter]
    congr 1
    funext r
    cases hr : (r.tag == t && r.chip == x) with
    | false => simp
    | true => simpa using other r hr
  have last : [(⟨tag, q, v⟩ : Replica)].find? (fun r => r.tag == t && r.chip == x) = none := by
    rw [List.find?_eq_none]
    intro r hr
    rw [List.mem_singleton] at hr
    subst hr
    simp only [Bool.and_eq_true, beq_iff_eq]
    rintro ⟨rfl, rfl⟩
    exact h rfl
  unfold replicaOf replicaTake
  dsimp only
  rw [List.find?_append, kept, last, Option.or_none]

/-! ### The end of a comparison -/

/-- A message to the host leaves the operations. -/
theorem sendVector_ops (s : State) (v : Nat) : (sendVector s v).ops = s.ops := by
  unfold sendVector
  dsimp only
  split
  · split <;> rfl
  · rfl

/-- A fault record leaves the operations. -/
theorem writeFault_ops (s : State) (r : FaultRec) : (writeFault s r).ops = s.ops := by
  have recorded (p : Prop) [Decidable p] (t : State) (n : Nat) (ws : List Host.Cell) (ht : t.ops = s.ops) :
      (if p then countA t Reg.faultLost_count n else wrMem t ws).ops = s.ops := by
    split
    · exact (countF_ops _ _ _ _ _).trans ht
    · exact ht
  have indexed : (set2 s landABase Reg.faultTail_indexLo Reg.faultTail_indexHi 0 (faultTail s + 1)).ops = s.ops :=
    (setF_ops _ _ _ _ _).trans (setF_ops _ _ _ _ _)
  unfold writeFault
  dsimp only
  generalize set2 s landABase Reg.faultTail_indexLo Reg.faultTail_indexHi 0 (faultTail s + 1) = t at indexed ⊢
  split
  · exact (sendVector_ops _ _).trans (recorded _ t _ _ indexed)
  · exact recorded _ t _ _ indexed

/-- An operation that ends with a fault record has its status. -/
theorem findOp_endWithRecord_same {s : State} {c i : Nat} {o : Op} (st : Status) (kind unit : Nat) (words : List Nat)
    (h : findOp s c i = some o) :
    findOp (endWithRecord s c i st kind unit words) c i = some { o with ended := some ⟨st, faultTail s⟩ } :=
  findOp_endOp_same _ c i _ ((findOp_congr (writeFault_ops s _) c i).trans h)

/-- The digests that a comparison has used are held no longer. -/
def dropReplicas (s : State) (o : Op) : State :=
  { s with replicas := s.replicas.filter (fun r => !(r.tag == rcTag o.d && (rcPeers o.d).contains r.chip)) }

/-- A comparison's values: this chip's and every peer's, by ascending chip. -/
def replicaValues (s : State) (o : Op) (w : List Byte) : List (Nat × List Byte) :=
  List.insertionSort (fun (a b : Nat × List Byte) => a.1 ≤ b.1)
    ((s.chip, w) :: (rcPeers o.d).map (fun c => (c, (replicaOf s (rcTag o.d) c).getD [])))

/-- Once every peer's digest has come, a comparison ends by whether all its values are equal. -/
theorem replicaCompare_complete {s : State} {c i : Nat} {o : Op} {w : List Byte} (h : findOp s c i = some o)
    (hr : opRuns o = true) (hw : o.work = .replica w)
    (hall : ∀ x ∈ rcPeers o.d, (replicaOf s (rcTag o.d) x).isSome = true) :
    replicaCompare s c i = if (replicaValues s o w).all (fun p => p.2 == w) then endOp (dropReplicas s o) c i (normalEnd o)
      else endWithRecord (dropReplicas s o) c i .digestMismatch 0x05 (replicaOdd (replicaValues s o w)).length
        (rcTag o.d :: chipWords (replicaOdd (replicaValues s o w))) := by
  have complete : (rcPeers o.d).any (fun x => (replicaOf s (rcTag o.d) x).isNone) = false := by
    rw [List.any_eq_false]
    intro x hx
    rw [← Option.not_isSome, hall x hx]
    exact Bool.false_ne_true
  unfold replicaCompare
  simp only [h, hw, hr, complete, Bool.not_true, Bool.or_false]
  rfl

/-- The values are all equal where every peer's is this chip's. -/
theorem replicaValues_all {s : State} {o : Op} {w : List Byte} :
    (replicaValues s o w).all (fun p => p.2 == w) = true ↔
      ∀ x ∈ rcPeers o.d, (replicaOf s (rcTag o.d) x).getD [] = w := by
  unfold replicaValues
  simp only [List.all_eq_true, List.mem_insertionSort, List.mem_cons, List.mem_map, beq_iff_eq]
  constructor
  · exact fun h x hx => h _ (Or.inr ⟨x, hx, rfl⟩)
  · rintro h p (rfl | ⟨x, hx, rfl⟩)
    · rfl
    · exact h x hx

/-! ### The statement, part by part -/

/-- A COPY within its chip moves its rows whole, and nothing else but counters and poison changes. -/
theorem copy_within_chip {s : State} {c i : Nat} {o : Op} (hm : memWf s.mem = true)
    (h : runningOp s c i 0x0500 = some o) (hw : o.work = .none) (hu : unitsHeld s = false) (hb : cpBytes o.d % 16 = 0)
    (hf : copyFault s c o.d = none) (hown : cpChip o.d = s.chip) (hc : dCheck o.d ≤ 1)
    (hp : cpRows o.d ≤ 1 ∨ cpBytes o.d ≤ slotPitch o.d 0x28) :
    ∃ u p, exec (.copy c i) s = .next u ∧ findOp u c i = some p ∧ p = { o with ended := p.ended, writes := p.writes } ∧
      p.ended = some (normalEnd o) ∧
      (∀ r k, r < cpRows o.d → k < cpBytes o.d → memRead u.mem (slotOff o.d 0x28 + r * slotPitch o.d 0x28 + k) =
        if (trainRegions s).any (fun t => inRegion t (slotOff o.d 0x28 + r * slotPitch o.d 0x28 + k)) then
          memRead s.mem (slotOff o.d 0x28 + r * slotPitch o.d 0x28 + k)
        else ((cpRowsRead s o.d).getD r []).getD k 0) ∧
      (∀ a, (∀ r k, r < cpRows o.d → k < cpBytes o.d → a ≠ slotOff o.d 0x28 + r * slotPitch o.d 0x28 + k) →
        memRead u.mem a = memRead s.mem a) ∧
      (∀ x y, (x, y) ≠ (c, i) → findOp u x y = findOp s x y) ∧
      u = { s with mem := u.mem, hbm := { s.hbm with poison := u.hbm.poison }, regs := u.regs, ops := u.ops } := by
  obtain ⟨hfound, _, _, _⟩ := runningOp_some h
  obtain ⟨ws, hend⟩ := findOp_cpOwn_same hfound hc
  have hl : (cpRowsRead s o.d).length = (cpDst o.d).rows := cpRowsRead_length s o.d
  have hn : ∀ r, r < (cpDst o.d).rows → ((cpRowsRead s o.d).getD r []).length = (cpDst o.d).len :=
    fun r hr => cpRowsRead_row hb hr
  refine ⟨cpOwn s o, _, exec_copy_own h hw hu hf hown, hend, rfl, rfl,
    fun r k hr hk => ?_, fun a ha => ?_, fun x y hxy => ?_, cpOwn_frame s o⟩
  · rw [memRead_cpOwn o _ hm]
    exact if_congr Iff.rfl rfl (memRead_regionWrites_in hm hl hn hp hr hk)
  · rw [memRead_cpOwn o _ hm, memRead_regionWrites_out hm hl hn ha, ite_self]
  · exact findOp_cpOwn_other hfound (fun e => hxy (by rw [e.1, e.2]))

/-- A COPY to another chip asks it first. -/
theorem copy_asks {s : State} {c i : Nat} {o : Op} (h : runningOp s c i 0x0500 = some o) (hw : o.work = .none)
    (hu : unitsHeld s = false) (hf : copyFault s c o.d = none) (hown : cpChip o.d ≠ s.chip) :
    ∃ u, exec (.copy c i) s = .next u ∧ findOp u c i = some { o with work := .asking } ∧
      u.txq.map (fun m => (m.chip, m.msg)) = s.txq.map (fun m => (m.chip, m.msg)) ++
        [(cpChip o.d, ⟨s.chip, c, i, .writeCheck (cpDst o.d) (dEval o.d)⟩)] ∧
      u = { s with txq := u.txq, ops := u.ops } := by
  obtain ⟨hfound, _, _, _⟩ := runningOp_some h
  refine ⟨_, exec_copy_asking h hw hu hf hown, ?_, ?_, rfl⟩
  · exact findOp_updOp_same s c i (fun p => { p with work := .asking }) hfound (fun _ => ⟨rfl, rfl⟩)
  · simp [sendMsg, updOp]

/-- A COPY that is let through sends its rows, in messages of at most 256 bytes, and waits for as many answers. -/
theorem copy_sends {s : State} {c i : Nat} {o : Op} (h : findOp s c i = some o) :
    findOp (cpSendAll s o) c i = some { o with work := .remote (cpMessages s o.d).length false } ∧
      txPairs (cpSendAll s o) = txPairs s ++
        (cpMessages s o.d).map (fun m => (cpChip o.d, (⟨s.chip, c, i, .write m.1 m.2 o.step⟩ : Msg))) ∧
      cpSendAll s o = { s with txq := (cpSendAll s o).txq, regs := (cpSendAll s o).regs, ops := (cpSendAll s o).ops } := by
  have found := findOp_cpSending h
  have sending := cpSending_frame s o
  obtain ⟨rfl, rfl⟩ := findOp_place h
  obtain ⟨hf, hx⟩ := foldl_sendMsg 1 (fun _ => cpChip o.d)
    (fun m => (⟨s.chip, o.ctx, o.idx, .write m.1 m.2 o.step⟩ : Msg)) (cpMessages s o.d) (cpSending s o)
  rw [cpSendAll_eq]
  generalize cpSending s o = t at found sending hf hx ⊢
  generalize (cpMessages s o.d).foldl _ t = u at hf hx ⊢
  refine ⟨?_, hx.trans ?_, ?_⟩
  · rw [← found]
    exact findOp_congr (by rw [hf]) _ _
  · unfold txPairs
    rw [sending]
  · rw [hf, sending]

/-- A running operation that waits for acknowledgements: one of several, and the last. -/
theorem copy_acknowledged {s : State} {c i src n : Nat} {o : Op} {k : Bool} (bs : List Byte) (skip : Bool)
    (h : findOp s c i = some o) (hr : opRuns o = true) (hw : o.work = .remote n k) (hc : checkLevel o.d ≠ 2) :
    let u := deliverMsg s ⟨src, c, i, if skip then .ackSkip else .ack⟩ 7 bs
    (1 < n → findOp u c i = some { o with work := .remote (n - 1) (k || skip) }) ∧
      (n ≤ 1 → findOp u c i = some { o with work := .remote 0 (k || skip), ended := some (
        if k || skip then ⟨.doneSkipped, 0⟩
        else if o.reruns = 0 then ⟨.done, 0⟩ else ⟨.doneRecomputed, o.reruns⟩) }) ∧
      u = { s with ops := u.ops } := by
  have left (m : Nat) : findOp (updOp s c i (fun p => { p with work := .remote m (k || skip) })) c i =
      some { o with work := .remote m (k || skip) } :=
    findOp_updOp_same s c i (fun p => { p with work := .remote m (k || skip) }) h (fun _ => ⟨rfl, rfl⟩)
  dsimp only
  rw [deliverMsg_ack bs skip h hr hw]
  refine ⟨fun hn => ?_, fun hn => ?_, ?_⟩
  · rw [if_neg (by omega)]
    exact left _
  · rw [if_pos hn]
    exact findOp_finishOp_same (left 0) hc
  · split <;> rfl

/-- A REPLICA_CMP for which a peer's digest has not come sends its own to every peer and waits. -/
theorem replicaCmp_sends {s : State} {c i : Nat} {o : Op} (h : runningOp s c i 0x0910 = some o) (hw : o.work = .none)
    (hf : replicaFault s o.d = none) (hq : ∃ q ∈ rcPeers o.d, replicaOf s (rcTag o.d) q = none) :
    exec (.replicaCmp c i) s = .next (replicaSent s c i o) := by
  obtain ⟨hfound, _, _, _⟩ := runningOp_some h
  obtain ⟨found, _, frame⟩ := replicaSent_spec hfound
  obtain ⟨q, hq, hn⟩ := hq
  have hn' : replicaOf (replicaSent s c i o) (rcTag o.d) q = none := by
    unfold replicaOf at hn ⊢
    rwa [frame]
  rw [exec_replicaCmp h hw, hf]
  show Host.Outcome.next (replicaStart s c i o) = _
  rw [replicaStart_eq, replicaCompare_waits found rfl hq hn']

/-- The arrival of the last digest ends the comparison that waits for it. -/
theorem replicaArrive_last {s : State} {tag q : Nat} {v w : List Byte} {o : Op}
    (hfind : s.ops.find? (fun x => opRuns x && dOpcode x.d == 0x0910 && rcTag x.d == tag && (rcPeers x.d).contains q) =
      some o)
    (h : findOp s o.ctx o.idx = some o) (hw : o.work = .replica w)
    (hothers : ∀ x ∈ rcPeers o.d, x ≠ q → replicaOf s tag x = some w) :
    ∃ u p, exec (.replicaDigestReceive tag q v) s = .next u ∧ findOp u o.ctx o.idx = some p ∧
      (v = w → p.ended = some (normalEnd o) ∧ u.mem = s.mem) ∧
      (v ≠ w → p.ended.map (fun e => e.status) = some .digestMismatch) := by
  have waits := List.find?_some hfind
  simp only [Bool.and_eq_true, beq_iff_eq, List.contains_iff_mem] at waits
  obtain ⟨⟨⟨hr, _⟩, rfl⟩, hq⟩ := waits
  have held (x : Nat) (hx : x ∈ rcPeers o.d) :
      replicaOf (replicaTake s (rcTag o.d) q v) (rcTag o.d) x = some (if x = q then v else w) := by
    split
    · next e => rw [e, replicaOf_replicaTake_same]
    · next e => rw [replicaOf_replicaTake_other s v (by simpa using e), hothers x hx e]
  have hexec : exec (.replicaDigestReceive (rcTag o.d) q v) s =
      .next (replicaCompare (replicaTake s (rcTag o.d) q v) o.ctx o.idx) := by
    show Host.Outcome.next (replicaArrive s (rcTag o.d) q v) = _
    unfold replicaArrive
    dsimp only
    rw [show (replicaTake s (rcTag o.d) q v).ops = s.ops from rfl, hfind]
  have hfound : findOp (replicaTake s (rcTag o.d) q v) o.ctx o.idx = some o := h
  have complete := replicaCompare_complete hfound hr hw (fun x hx => by rw [held x hx]; rfl)
  have equal : (replicaValues (replicaTake s (rcTag o.d) q v) o w).all (fun p => p.2 == w) = true ↔ v = w := by
    rw [replicaValues_all]
    constructor
    · intro e
      simpa [held q hq] using e q hq
    · intro e x hx
      rw [held x hx, e, ite_self]
      rfl
  by_cases e : v = w
  · rw [complete, if_pos (equal.mpr e)] at hexec
    exact ⟨_, _, hexec, findOp_endOp_same (dropReplicas _ o) _ _ _ hfound, fun _ => ⟨rfl, rfl⟩, fun n => absurd e n⟩
  · rw [complete, if_neg (fun a => e (equal.mp a))] at hexec
    exact ⟨_, _, hexec, findOp_endWithRecord_same _ _ _ _ (s := dropReplicas _ o) hfound, fun a => absurd a e,
      fun _ => rfl⟩

/-- A digest that nothing waits for is held. -/
theorem exec_replicaDigestReceive_idle {s : State} {tag q : Nat} (v : List Byte)
    (h : s.ops.find? (fun x => opRuns x && dOpcode x.d == 0x0910 && rcTag x.d == tag && (rcPeers x.d).contains q) = none) :
    exec (.replicaDigestReceive tag q v) s = .next (replicaTake s tag q v) := by
  show Host.Outcome.next (replicaArrive s tag q v) = _
  unfold replicaArrive
  dsimp only
  rw [show (replicaTake s tag q v).ops = s.ops from rfl, h]

/-- Settles O48: each command and message comes to one of the cases above. -/
theorem copyAndReplicas : Obligations.CopyAndReplicas := by
  refine ⟨?copy, ?messages, ?cmpFault, ?cmpSends, ?digest⟩
  case copy =>
    intro s c i o hm h hw
    refine ⟨fun hu => exec_copy_held h hu, fun e => exec_copy_faulty h hw,
      fun hu hb hf => ⟨fun hown hc hp => copy_within_chip hm h hw hu hb hf hown hc hp,
        fun hown => copy_asks h hw hu hf hown⟩⟩
  case messages =>
    intro s c i src o bs h hr
    refine ⟨fun hw hop => ?_, fun n k skip hw hc => copy_acknowledged bs skip h hr hw hc⟩
    have passed : deliverMsg s ⟨src, c, i, .verdict 0 0⟩ 7 bs = cpSendAll s o := deliverMsg_verdict bs 0 0 h hr hw hop
    obtain ⟨found, sent, frame⟩ := copy_sends h
    dsimp only
    rw [passed]
    exact ⟨found, sent, fun m hm => cpMessages_length hm, frame,
      fun code off hcode => (deliverMsg_verdict bs code off h hr hw hop).trans (if_pos hcode)⟩
  case cmpFault =>
    intro s c i o e h hw hf
    rw [exec_replicaCmp h hw, hf]
    rfl
  case cmpSends =>
    intro s c i o h hw hf hq
    obtain ⟨hfound, _, _, _⟩ := runningOp_some h
    exact ⟨_, replicaCmp_sends h hw hf hq, replicaSent_spec hfound⟩
  case digest =>
    intro s tag q v
    exact ⟨fun h => ⟨_, exec_replicaDigestReceive_idle v h, replicaOf_replicaTake_same s tag q v,
      fun t x hn => replicaOf_replicaTake_other s v hn, rfl⟩,
      fun o w hfind h hw hothers => replicaArrive_last hfind h hw hothers⟩

end Sys2Proof.Machine
end

section
/-!
SUPPORT. Laws of the ring engine: what its operations change, and which context each of them finds.
-/

namespace Sys2Proof.Machine

/-- Settles O2: every command goes on to a state that keeps the queue, the place and the canonical form. -/
theorem everyCommandGoesOn : Obligations.EveryCommandGoesOn := fun c s => exec_kept c s

/-! ### Frames -/

/-- `t` is `s` but for host memory, the ring engine and what crosses from clock to clock. -/
def HostRings (s t : State) : Prop := t = { s with hostMem := t.hostMem, rings := t.rings, cross := t.cross }

theorem HostRings.refl (s : State) : HostRings s s := rfl

theorem HostRings.trans {s t u : State} (h : HostRings s t) (k : HostRings t u) : HostRings s u := by
  unfold HostRings at *
  rw [k, h]

/-- A state reads its contexts from their list alone. -/
theorem findCtx_congr {s t : State} (h : t.rings.ctxs = s.rings.ctxs) (c : Nat) : findCtx t c = findCtx s c := by
  unfold findCtx
  rw [h]

/-- A context that is found has the number asked for. -/
theorem findCtx_num {s : State} {c : Nat} {x : Ctx} (h : findCtx s c = some x) : x.num = c := by
  simpa using List.find?_some h

/-! ### Messages to the host -/

/-- A vector that is sent or merged leaves the contexts. -/
@[simp] theorem sendVector_ctxs (s : State) (v : Nat) : (sendVector s v).rings.ctxs = s.rings.ctxs := by
  unfold sendVector
  dsimp only
  split
  · split <;> rfl
  · rfl

/-- A vector that is sent or merged changes only the ring engine and its notice. -/
theorem sendVector_frame (s : State) (v : Nat) :
    sendVector s v = { s with rings := (sendVector s v).rings, cross := (sendVector s v).cross } := by
  unfold sendVector
  dsimp only
  split
  · split <;> rfl
  · rfl

/-- A vector that is sent or merged is a change of the ring engine and its notice. -/
theorem HostRings.sendVector (s : State) (v : Nat) : HostRings s (sendVector s v) := by
  unfold HostRings
  rw [sendVector_frame]

/-! ### Uses and idleness -/

/-- A context used last at some reading of the clock of uses. -/
def Ctx.usedAt (n : Nat) (y : Ctx) : Ctx := { y with lastUse := n }

/-- Marking a use is a change of the ring engine. -/
theorem HostRings.touchCtx (s : State) (c : Nat) : HostRings s (touchCtx s c) := rfl

/-- The context whose use is marked. -/
theorem findCtx_touchCtx {s : State} {c : Nat} {x : Ctx} (h : findCtx s c = some x) :
    findCtx (touchCtx s c) c = some (x.usedAt (s.rings.useClock + 1)) := findCtx_touchCtx_same s c h

/-- A context noted as idle is the only change of `noteIdle`. -/
theorem noteIdle_frame (s : State) (c : Nat) :
    noteIdle s c = { s with rings := { s.rings with idled := (noteIdle s c).rings.idled } } := by
  unfold noteIdle
  split
  · split <;> rfl
  · rfl

/-- Noting an idle context is a change of the ring engine. -/
theorem HostRings.noteIdle (s : State) (c : Nat) : HostRings s (noteIdle s c) := by
  unfold HostRings
  rw [noteIdle_frame]

@[simp] theorem noteIdle_hostMem (s : State) (c : Nat) : (noteIdle s c).hostMem = s.hostMem := by
  rw [noteIdle_frame]

@[simp] theorem noteIdle_ctxs (s : State) (c : Nat) : (noteIdle s c).rings.ctxs = s.rings.ctxs := by
  rw [noteIdle_frame]

@[simp] theorem findCtx_noteIdle (s : State) (c k : Nat) : findCtx (noteIdle s c) k = findCtx s k :=
  findCtx_congr (noteIdle_ctxs s c) k

/-! ### Completion entries -/

/-- A context after an entry: its completion tail has moved on, and it halts where the entry says so. -/
def Ctx.afterEntry (e : Entry) (y : Ctx) : Ctx :=
  { y with cqTail := (y.cqTail + 1) % 2 ^ 32, halted := y.halted || e.halts }

/-- The bytes of an entry as writes to the next completion slot of context `x`. -/
def cplWrites (s : State) (x : Ctx) (e : Entry) : List Host.Cell :=
  bytesWrites (x.cqBase + (x.cqTail % 2 ^ x.cqOrder) * 32) (entryBytes s x e)

/-- The state in which an entry stands in its slot by some writes, before its vector is sent. -/
def entryPut (s : State) (c : Nat) (ws : List Host.Cell) (e : Entry) : State :=
  touchCtx (updCtx (wrHost s ws) c (Ctx.afterEntry e)) c

theorem findCtx_entryPut_same {s : State} {c : Nat} {x : Ctx} (ws : List Host.Cell) (e : Entry)
    (h : findCtx s c = some x) :
    findCtx (entryPut s c ws e) c = some ((x.afterEntry e).usedAt (s.rings.useClock + 1)) :=
  findCtx_touchCtx (findCtx_updCtx_same (wrHost s ws) c (Ctx.afterEntry e) h (fun _ => rfl))

theorem findCtx_entryPut_other (s : State) {c k : Nat} (ws : List Host.Cell) (e : Entry) (hk : k ≠ c) :
    findCtx (entryPut s c ws e) k = findCtx s k :=
  (findCtx_touchCtx_other _ hk).trans (findCtx_updCtx_other (wrHost s ws) (Ctx.afterEntry e) hk (fun _ => rfl))

theorem entryPut_hostMem (s : State) (c : Nat) (ws : List Host.Cell) (e : Entry) :
    (entryPut s c ws e).hostMem = memWriteAll s.hostMem ws := rfl

theorem entryPut_frame (s : State) (c : Nat) (ws : List Host.Cell) (e : Entry) : HostRings s (entryPut s c ws e) := rfl

/-- An entry of a tracked context: put into its slot, and its vector sent where it calls for it. -/
theorem writeEntry_eq {s : State} {c : Nat} {x : Ctx} (e : Entry) (h : findCtx s c = some x) :
    writeEntry s c e = if entryNotifies e then sendVector (entryPut s c (cplWrites s x e) e) x.vector
      else entryPut s c (cplWrites s x e) e := by
  unfold writeEntry
  rw [h]
  rfl

/-- An entry leaves the contexts as its slot and its halt leave them. -/
theorem writeEntry_ctxs {s : State} {c : Nat} {x : Ctx} (e : Entry) (h : findCtx s c = some x) :
    (writeEntry s c e).rings.ctxs = (entryPut s c (cplWrites s x e) e).rings.ctxs := by
  rw [writeEntry_eq e h]
  split
  · exact sendVector_ctxs _ _
  · rfl

/-- The context of an entry. -/
theorem findCtx_writeEntry_same {s : State} {c : Nat} {x : Ctx} (e : Entry) (h : findCtx s c = some x) :
    findCtx (writeEntry s c e) c = some ((x.afterEntry e).usedAt (s.rings.useClock + 1)) := by
  rw [findCtx_congr (writeEntry_ctxs e h), findCtx_entryPut_same _ e h]

/-- An entry leaves every other context. -/
theorem findCtx_writeEntry_other (s : State) {c k : Nat} (e : Entry) (hk : k ≠ c) :
    findCtx (writeEntry s c e) k = findCtx s k := by
  cases h : findCtx s c with
  | none => simp only [writeEntry, h]
  | some x => rw [findCtx_congr (writeEntry_ctxs e h), findCtx_entryPut_other s _ e hk]

/-- The bytes of an entry stand in its slot. -/
theorem writeEntry_hostMem {s : State} {c : Nat} {x : Ctx} (e : Entry) (h : findCtx s c = some x) :
    (writeEntry s c e).hostMem = memWriteAll s.hostMem (cplWrites s x e) := by
  rw [writeEntry_eq e h]
  split
  · rw [sendVector_frame, entryPut_hostMem]
  · rw [entryPut_hostMem]

/-- An entry changes host memory, the ring engine and notices only. -/
theorem writeEntry_frame (s : State) (c : Nat) (e : Entry) : HostRings s (writeEntry s c e) := by
  cases h : findCtx s c with
  | none =>
    simp only [writeEntry, h]
    exact .refl s
  | some x =>
    rw [writeEntry_eq e h]
    split
    · exact (entryPut_frame s c _ e).trans (HostRings.sendVector _ _)
    · exact entryPut_frame s c _ e

/-! ### Submission doorbells (R41, R42) -/

/-- A context whose tail has been taken: a spill that has begun goes on toward the overflow queue where it moved. -/
def Ctx.withTail (v : Nat) (y : Ctx) : Ctx :=
  { y with sqTail := v, spilling := if y.spilling = 1 ∧ y.sqTail ≠ v then 2 else y.spilling }

/-- A tail that is valid is taken. -/
theorem takeTail_valid {s : State} {c t : Nat} {x : Ctx} (h : findCtx s c = some x)
    (ht : sqTailOk x.sqHead x.sqTail (t % 2 ^ 32) x.sqOrder = true) :
    takeTail s c t = updCtx s c (Ctx.withTail (t % 2 ^ 32)) := by
  unfold takeTail
  rw [h]
  exact if_pos ht

/-- A tail that is not valid brings a fault entry. -/
theorem takeTail_invalid {s : State} {c t : Nat} {x : Ctx} (h : findCtx s c = some x)
    (ht : sqTailOk x.sqHead x.sqTail (t % 2 ^ 32) x.sqOrder = false) :
    takeTail s c t = writeEntry s c (faultEntry (t % 2 ^ 32) 0x06) := by
  unfold takeTail
  rw [h]
  exact if_neg (by rw [ht]; exact Bool.false_ne_true)

/-- The state in which a doorbell is judged: what the host wrote before it is in its memory, and its notice has crossed. -/
def rung (s : State) (host : List (Nat × List Byte)) : State := noteMerge (hostWrites s host) landABase

/-- A doorbell keeps the canonical form. -/
theorem rung_canonical {s : State} (host : List (Nat × List Byte)) (h : s.canonical = true) :
    (rung s host).canonical = true :=
  (noteMerge_kept _ _ (hostWrites_kept s host (.refl s))).canonical h

/-- A doorbell below CTX_COUNT with ENABLE 1 is served. -/
theorem doorbellServed_rung {s : State} {c : Nat} (host : List (Nat × List Byte)) (hc : c < getA s Reg.ctxCount_count)
    (he : getA s Reg.ringCtrl_enable = 1) : doorbellServed (rung s host) c = true := by
  have h1 : getA (rung s host) Reg.ctxCount_count = getA s Reg.ctxCount_count := rfl
  have h2 : getA (rung s host) Reg.ringCtrl_enable = getA s Reg.ringCtrl_enable := rfl
  simp [doorbellServed, h1, h2, hc, he]

/-- A doorbell at or above CTX_COUNT, or with ENABLE 0, is not served. -/
theorem doorbellServed_rung_false {s : State} {c : Nat} (host : List (Nat × List Byte))
    (h : getA s Reg.ctxCount_count ≤ c ∨ getA s Reg.ringCtrl_enable = 0) : doorbellServed (rung s host) c = false := by
  have h1 : getA (rung s host) Reg.ctxCount_count = getA s Reg.ctxCount_count := rfl
  have h2 : getA (rung s host) Reg.ringCtrl_enable = getA s Reg.ringCtrl_enable := rfl
  rcases h with h | h <;> simp [doorbellServed, h1, h2, h]

/-- The count of ignored doorbells saturates. -/
theorem getA_dbIgnored_counted {s : State} (h : s.canonical = true) :
    getA (countA s Reg.dbIgnored_count 1) Reg.dbIgnored_count = min (2 ^ 32 - 1) (getA s Reg.dbIgnored_count + 1) :=
  getF_countF_same s landABase Reg.dbIgnored_count 0 1 h (by decide) (by decide)

/-- A doorbell counted as ignored changes that count beside what a doorbell always changes. -/
theorem countA_dbIgnored_rung (s : State) (host : List (Nat × List Byte)) :
    countA (rung s host) Reg.dbIgnored_count 1 =
      { s with hostMem := memWriteAll s.hostMem (host.flatMap (fun w => bytesWrites w.1 w.2))
               regs := (countA s Reg.dbIgnored_count 1).regs, cross := (noteMerge s landABase).cross } :=
  countF_regsOnly (rung s host) landABase (f := Reg.dbIgnored_count) 0 1 (by decide)

/-- A submission doorbell of a tracked context that does not load. -/
theorem exec_sqDoorbell_tracked {s : State} {c : Nat} {x : Ctx} (t : Nat) (host : List (Nat × List Byte))
    (hc : c < getA s Reg.ctxCount_count) (he : getA s Reg.ringCtrl_enable = 1) (hx : findCtx s c = some x)
    (hl : x.loading = false) :
    exec (.sqDoorbell c t host) s = .next (noteIdle (touchCtx (takeTail (rung s host) c t) c) c) := by
  show Host.Outcome.next (sqDoorbell (hostWrites s host) c t) = _
  unfold sqDoorbell
  have hx' : findCtx (noteMerge (hostWrites s host) landABase) c = some x := hx
  have hs : doorbellServed (noteMerge (hostWrites s host) landABase) c = true := doorbellServed_rung host hc he
  simp only [hs, hx', hl]
  rfl

/-- A submission doorbell that is not served is counted. -/
theorem exec_sqDoorbell_unserved {s : State} {c : Nat} (t : Nat) (host : List (Nat × List Byte))
    (h : getA s Reg.ctxCount_count ≤ c ∨ getA s Reg.ringCtrl_enable = 0) :
    exec (.sqDoorbell c t host) s = .next (countA (rung s host) Reg.dbIgnored_count 1) := by
  show Host.Outcome.next (sqDoorbell (hostWrites s host) c t) = _
  unfold sqDoorbell
  have hs : doorbellServed (noteMerge (hostWrites s host) landABase) c = false := doorbellServed_rung_false host h
  simp only [hs]
  rfl

/-- Settles O5: the tail is taken, then the use is marked and idleness noted. -/
theorem submissionDoorbellTakesTail : Obligations.SubmissionDoorbellTakesTail := by
  intro s c t host x hc he hx hl h1 h2
  have ht : sqTailOk x.sqHead x.sqTail (t % 2 ^ 32) x.sqOrder = true := decide_eq_true ⟨h1, h2⟩
  have hx' : findCtx (rung s host) c = some x := hx
  have htail := findCtx_updCtx_same (rung s host) c (Ctx.withTail (t % 2 ^ 32)) hx' (fun _ => rfl)
  refine ⟨_, exec_sqDoorbell_tracked t host hc he hx hl, ?_, fun k hk => ?_, ?_, ?_⟩ <;> rw [takeTail_valid hx' ht]
  · rw [findCtx_noteIdle, findCtx_touchCtx htail]
    rfl
  · rw [findCtx_noteIdle, findCtx_touchCtx_other _ hk, findCtx_updCtx_other _ (Ctx.withTail _) hk (fun _ => rfl)]
    rfl
  · rw [noteIdle_frame]
    rfl
  · rw [noteIdle_frame]
    rfl

/-- Settles O6: the fault entry is written, then the use is marked and idleness noted. -/
theorem submissionDoorbellRefused : Obligations.SubmissionDoorbellRefused := by
  intro s c t host x hc he hx hl h
  have ht : sqTailOk x.sqHead x.sqTail (t % 2 ^ 32) x.sqOrder = false := decide_eq_false h
  have hx' : findCtx (rung s host) c = some x := hx
  have hexec := exec_sqDoorbell_tracked t host hc he hx hl
  rw [takeTail_invalid hx' ht] at hexec
  have hy := findCtx_touchCtx (findCtx_writeEntry_same (faultEntry (t % 2 ^ 32) 0x06) hx')
  have hframe : HostRings s (writeEntry (rung s host) c (faultEntry (t % 2 ^ 32) 0x06)) :=
    HostRings.trans (t := rung s host) rfl (writeEntry_frame _ _ _)
  refine ⟨_, _, hexec, (findCtx_noteIdle _ c c).trans hy, ?_, ?_, ?_, fun k hk => ?_,
    (hframe.trans (.touchCtx _ c)).trans (.noteIdle _ c)⟩
  · exact Bool.or_true _
  · simp [Ctx.usedAt, Ctx.afterEntry, faultEntry]
  · exact (noteIdle_hostMem _ c).trans (writeEntry_hostMem _ hx')
  · rw [findCtx_noteIdle, findCtx_touchCtx_other _ hk, findCtx_writeEntry_other _ _ hk]
    rfl

/-! ### Completion doorbells (R43, R44) -/

/-- A completion doorbell that is not served is counted. -/
theorem exec_cqDoorbell_unserved {s : State} {c : Nat} (v : Nat) (host : List (Nat × List Byte))
    (h : getA s Reg.ctxCount_count ≤ c ∨ getA s Reg.ringCtrl_enable = 0) :
    exec (.cqDoorbell c v host) s = .next (countA (rung s host) Reg.dbIgnored_count 1) := by
  show Host.Outcome.next (cqDoorbell (hostWrites s host) c v) = _
  unfold cqDoorbell
  have hs : doorbellServed (noteMerge (hostWrites s host) landABase) c = false := doorbellServed_rung_false host h
  simp only [hs]
  rfl

/-- A context whose completion head has been taken. -/
def Ctx.withCqHead (v : Nat) (y : Ctx) : Ctx := { y with cqHead := v }

/-- A completion doorbell of a tracked context that does not load: its head is taken, or it is counted. -/
theorem exec_cqDoorbell_tracked {s : State} {c : Nat} {x : Ctx} (v : Nat) (host : List (Nat × List Byte))
    (hc : c < getA s Reg.ctxCount_count) (he : getA s Reg.ringCtrl_enable = 1) (hx : findCtx s c = some x)
    (hl : x.loading = false) :
    exec (.cqDoorbell c v host) s = .next (if cqHeadOk x (v % 2 ^ 32) then
      touchCtx (updCtx (rung s host) c (Ctx.withCqHead (v % 2 ^ 32))) c
      else countA (rung s host) Reg.dbIgnored_count 1) := by
  show Host.Outcome.next (cqDoorbell (hostWrites s host) c v) = _
  unfold cqDoorbell
  have hx' : findCtx (noteMerge (hostWrites s host) landABase) c = some x := hx
  have hs : doorbellServed (noteMerge (hostWrites s host) landABase) c = true := doorbellServed_rung host hc he
  dsimp only
  rw [hs, if_neg (by decide), hx']
  dsimp only
  rw [hl, if_neg Bool.false_ne_true]
  rfl

/-- Settles O7: neither doorbell is served, and each is counted. -/
theorem doorbellsOutsideServiceIgnored : Obligations.DoorbellsOutsideServiceIgnored := by
  intro s c v host h
  refine ⟨_, exec_sqDoorbell_unserved v host h, exec_cqDoorbell_unserved v host h, ?_, ?_, fun hs => ?_⟩
  · rw [countA_dbIgnored_rung]
  · rw [countA_dbIgnored_rung]
  · exact getA_dbIgnored_counted (rung_canonical host hs)

/-- Settles O8: a head that is valid is taken and the use marked; one that is not is counted. -/
theorem completionDoorbellMovesHead : Obligations.CompletionDoorbellMovesHead := by
  intro s c v host x hc he hx hl
  have hexec := exec_cqDoorbell_tracked v host hc he hx hl
  constructor
  · intro h
    have hok : cqHeadOk x (v % 2 ^ 32) = true := decide_eq_true h
    rw [if_pos hok] at hexec
    have hy := findCtx_updCtx_same (rung s host) c (Ctx.withCqHead (v % 2 ^ 32)) hx (fun _ => rfl)
    refine ⟨_, hexec, findCtx_touchCtx hy, fun k hk => ?_, rfl⟩
    rw [findCtx_touchCtx_other _ hk, findCtx_updCtx_other _ (Ctx.withCqHead _) hk (fun _ => rfl)]
    rfl
  · intro h
    have hno : ¬ cqHeadOk x (v % 2 ^ 32) = true := fun a => h (of_decide_eq_true a)
    rw [if_neg hno] at hexec
    refine ⟨_, hexec, ?_, fun hs => getA_dbIgnored_counted (rung_canonical host hs), countA_dbIgnored_rung s host⟩
    rw [countA_dbIgnored_rung]

end Sys2Proof.Machine
end

section
/-!
SUPPORT. Contexts that load, are spilled or wait in the overflow queue (R34 to R38, R67 to R70, R598).
-/

namespace Sys2Proof.Machine

/-! ### Contexts tracked and dropped -/

/-- A list of contexts without the one of a number finds none of that number. -/
theorem find?_without_same (l : List Ctx) (c : Nat) :
    (l.filter (fun y => y.num != c)).find? (fun y => y.num == c) = none := by
  simp [List.find?_eq_none]

/-- A list of contexts without the one of a number finds every other. -/
theorem find?_without_other (l : List Ctx) {c k : Nat} (hk : k ≠ c) :
    (l.filter (fun y => y.num != c)).find? (fun y => y.num == k) = l.find? (fun y => y.num == k) := by
  rw [List.find?_filter]
  refine congrArg (fun p => l.find? p) (funext fun y => ?_)
  by_cases h : y.num = k <;> simp [h, hk]

/-- The context that becomes tracked. -/
theorem findCtx_trackCtx_same (s : State) (x : Ctx) : findCtx (trackCtx s x) x.num = some x := by
  show ((s.rings.ctxs.filter (fun y => y.num != x.num)) ++ [x]).find? (fun y => y.num == x.num) = some x
  rw [List.find?_append, find?_without_same]
  simp

/-- Every other context stays where one becomes tracked. -/
theorem findCtx_trackCtx_other (s : State) {x : Ctx} {k : Nat} (hk : k ≠ x.num) :
    findCtx (trackCtx s x) k = findCtx s k := by
  show ((s.rings.ctxs.filter (fun y => y.num != x.num)) ++ [x]).find? (fun y => y.num == k) = _
  rw [List.find?_append, find?_without_other _ hk]
  simp [findCtx, hk.symm]

/-! ### Doorbells that waited for a load -/

/-- What tails that are taken, or refused with an entry, may change of a context. -/
def TailsTaken (x y : Ctx) : Prop :=
  y = { x with sqTail := y.sqTail, spilling := y.spilling, cqTail := y.cqTail, halted := y.halted, lastUse := y.lastUse }

theorem TailsTaken.trans {x y z : Ctx} (h : TailsTaken x y) (k : TailsTaken y z) : TailsTaken x z := by
  unfold TailsTaken at *
  rw [k, h]

/-- A tail that reaches a context changes host memory, the ring engine and notices only. -/
theorem takeTail_frame (s : State) (c t : Nat) : HostRings s (takeTail s c t) := by
  unfold takeTail
  split
  · exact .refl s
  · split
    · rfl
    · exact writeEntry_frame s c _

/-- A tail that reaches a context leaves every other context. -/
theorem findCtx_takeTail_other (s : State) {c k : Nat} (t : Nat) (hk : k ≠ c) :
    findCtx (takeTail s c t) k = findCtx s k := by
  unfold takeTail
  split
  · rfl
  · split
    · exact findCtx_updCtx_other s (Ctx.withTail (t % 2 ^ 32)) hk (fun _ => rfl)
    · exact findCtx_writeEntry_other s _ hk

/-- The context that a tail reaches. -/
theorem findCtx_takeTail_same {s : State} {c : Nat} {x : Ctx} (t : Nat) (h : findCtx s c = some x) :
    ∃ y, findCtx (takeTail s c t) c = some y ∧ TailsTaken x y := by
  cases ht : sqTailOk x.sqHead x.sqTail (t % 2 ^ 32) x.sqOrder with
  | true =>
    rw [takeTail_valid h ht]
    exact ⟨_, findCtx_updCtx_same s c (Ctx.withTail (t % 2 ^ 32)) h (fun _ => rfl), rfl⟩
  | false =>
    rw [takeTail_invalid h ht]
    exact ⟨_, findCtx_writeEntry_same (faultEntry (t % 2 ^ 32) 0x06) h, rfl⟩

/-- Tails taken in order change host memory, the ring engine and notices only. -/
theorem takeTails_frame (s : State) (c : Nat) (ts : List Nat) : HostRings s (takeTails s c ts) := by
  induction ts generalizing s with
  | nil => exact .refl s
  | cons t ts ih => exact (takeTail_frame s c t).trans (ih _)

/-- Tails taken in order leave every other context. -/
theorem findCtx_takeTails_other (s : State) {c k : Nat} (ts : List Nat) (hk : k ≠ c) :
    findCtx (takeTails s c ts) k = findCtx s k := by
  induction ts generalizing s with
  | nil => rfl
  | cons t ts ih => exact (ih (takeTail s c t)).trans (findCtx_takeTail_other s t hk)

/-- The context whose tails are taken in order. -/
theorem findCtx_takeTails_same {s : State} {c : Nat} {x : Ctx} (ts : List Nat) (h : findCtx s c = some x) :
    ∃ y, findCtx (takeTails s c ts) c = some y ∧ TailsTaken x y := by
  induction ts generalizing s x with
  | nil => exact ⟨x, h, rfl⟩
  | cons t ts ih =>
    obtain ⟨y, hy, hxy⟩ := findCtx_takeTail_same t h
    obtain ⟨z, hz, hyz⟩ := ih hy
    exact ⟨z, hz, hxy.trans hyz⟩

/-! ### The end of a load (R38) -/

/-- A load whose host bytes fail is refused. -/
def refuseLoad (s : State) (c : Nat) : State :=
  { countA s Reg.dbIgnored_count 1 with rings := { s.rings with
      ctxs := s.rings.ctxs.filter (fun y => y.num != c)
      refused := if s.rings.refused.contains c then s.rings.refused else s.rings.refused ++ [c] } }

/-- The context that a load whose CHECK fails is taken as. -/
def freshCtx (s : State) (c : Nat) : Ctx :=
  { ctxOfSave s c with sqHead := 0, sqTail := 0, cqTail := 0, cqHead := 0, halted := false }

theorem countA_dbIgnored_regsOnly (s : State) : RegsOnly s (countA s Reg.dbIgnored_count 1) :=
  countF_regsOnly s landABase (f := Reg.dbIgnored_count) 0 1 (by decide)

theorem finishLoad_refused {s : State} {c : Nat} (ts : List Nat) (h : hostPartOk s c = false) :
    finishLoad s c ts = refuseLoad s c := by
  have hr : (countA s Reg.dbIgnored_count 1).rings = s.rings := by rw [countA_dbIgnored_regsOnly]
  unfold finishLoad
  rw [h, if_pos (by decide)]
  dsimp only
  rw [hr]
  rfl

theorem finishLoad_fresh {s : State} {c : Nat} (ts : List Nat) (h : hostPartOk s c = true)
    (hz : devicePartZero s c = false) (hk : checkOk s c = false) :
    finishLoad s c ts = writeEntry (trackCtx s (freshCtx s c)) c (faultEntry (ts.headD 0 % 2 ^ 32) 0x07) := by
  unfold finishLoad
  rw [h, hz, hk]
  rfl

theorem finishLoad_taken {s : State} {c : Nat} (ts : List Nat) (h : hostPartOk s c = true)
    (hd : devicePartZero s c = true ∨ checkOk s c = true) :
    finishLoad s c ts = takeTails (trackCtx s (savedCtx s c)) c ts := by
  unfold finishLoad
  rw [h, if_neg (by decide), if_neg (by rcases hd with hd | hd <;> simp [hd])]

/-- The end of the load of a context. -/
theorem exec_contextLoadDone {s : State} {c : Nat} {x : Ctx} (h : findCtx s c = some x) (hl : x.loading = true) :
    exec (.contextLoadDone c) s = .next (finishLoad s c x.tails) := by
  show Host.Outcome.next (match findCtx s c with
    | some x => if x.loading then finishLoad s c x.tails else s
    | none => s) = _
  rw [h]
  exact congrArg _ (if_pos hl)

/-- The end of a load whose host bytes pass, and whose device bytes are zero or match CHECK. -/
theorem loadDone_taken {s : State} {c : Nat} {x : Ctx} (hx : findCtx s c = some x) (hl : x.loading = true)
    (h : hostPartOk s c = true) (hd : devicePartZero s c = true ∨ checkOk s c = true) :
    ∃ u y, exec (.contextLoadDone c) s = .next u ∧ findCtx u c = some y ∧ TailsTaken (savedCtx s c) y ∧
      (∀ k, k ≠ c → findCtx u k = findCtx s k) ∧ HostRings s u := by
  have hexec := exec_contextLoadDone hx hl
  rw [finishLoad_taken x.tails h hd] at hexec
  have htracked : findCtx (trackCtx s (savedCtx s c)) c = some (savedCtx s c) := findCtx_trackCtx_same s (savedCtx s c)
  obtain ⟨y, hy, hxy⟩ := findCtx_takeTails_same x.tails htracked
  refine ⟨_, y, hexec, hy, hxy, fun k hk => ?_,
    HostRings.trans (t := trackCtx s (savedCtx s c)) rfl (takeTails_frame _ c x.tails)⟩
  rw [findCtx_takeTails_other _ _ hk]
  exact findCtx_trackCtx_other s hk

/-- The end of a load whose host bytes fail. -/
theorem loadDone_refused {s : State} {c : Nat} {x : Ctx} (hx : findCtx s c = some x) (hl : x.loading = true)
    (h : hostPartOk s c = false) :
    ∃ u, exec (.contextLoadDone c) s = .next u ∧ findCtx u c = none ∧ u.rings.refused.contains c = true ∧
      (∀ k, k ≠ c → findCtx u k = findCtx s k) ∧
      (s.canonical = true → getA u Reg.dbIgnored_count = min (2 ^ 32 - 1) (getA s Reg.dbIgnored_count + 1)) ∧
      u = { s with rings := u.rings, regs := (countA s Reg.dbIgnored_count 1).regs } := by
  have hexec := exec_contextLoadDone hx hl
  rw [finishLoad_refused x.tails h] at hexec
  refine ⟨_, hexec, find?_without_same _ c, ?_, fun k hk => find?_without_other _ hk, getA_dbIgnored_counted, ?_⟩
  · show (if s.rings.refused.contains c then s.rings.refused else s.rings.refused ++ [c]).contains c = true
    split
    · assumption
    · simp
  · unfold refuseLoad
    rw [countA_dbIgnored_regsOnly]

/-- The first entry of a context that is taken as fresh stands in completion slot 0. -/
theorem cplWrites_freshCtx (s : State) (c : Nat) (e : Entry) :
    cplWrites s (freshCtx s c) e = bytesWrites (rdHost s (saveAddr s c + 8) 8) (entryBytes s (freshCtx s c) e) := by
  have h : (freshCtx s c).cqTail = 0 := rfl
  unfold cplWrites
  rw [h, Nat.zero_mod, Nat.zero_mul, Nat.add_zero]
  rfl

/-- The end of a load whose CHECK fails. -/
theorem loadDone_fresh {s : State} {c : Nat} {x : Ctx} (hx : findCtx s c = some x) (hl : x.loading = true)
    (h : hostPartOk s c = true) (hz : devicePartZero s c = false) (hk : checkOk s c = false) :
    ∃ u n, exec (.contextLoadDone c) s = .next u ∧
      findCtx u c = some (((freshCtx s c).afterEntry (faultEntry (x.tails.headD 0 % 2 ^ 32) 0x07)).usedAt n) ∧
      u.hostMem = memWriteAll s.hostMem (cplWrites s (freshCtx s c) (faultEntry (x.tails.headD 0 % 2 ^ 32) 0x07)) ∧
      (∀ k, k ≠ c → findCtx u k = findCtx s k) ∧ HostRings s u := by
  have hexec := exec_contextLoadDone hx hl
  rw [finishLoad_fresh x.tails h hz hk] at hexec
  have htracked : findCtx (trackCtx s (freshCtx s c)) c = some (freshCtx s c) := findCtx_trackCtx_same s (freshCtx s c)
  refine ⟨_, _, hexec, findCtx_writeEntry_same _ htracked, writeEntry_hostMem _ htracked, fun k hk => ?_,
    HostRings.trans (t := trackCtx s (freshCtx s c)) rfl (writeEntry_frame _ c _)⟩
  rw [findCtx_writeEntry_other _ _ hk]
  exact findCtx_trackCtx_other s hk

/-! ### The end of a spill (R598) -/

/-- The overflow queue with an entry added, but for PEAK. -/
theorem queueEntry_regsOnly (s : State) (e : OvqEntry) :
    RegsOnly { s with rings := { s.rings with ovq := s.rings.ovq ++ [e] } } (queueEntry s e) :=
  setF_regsOnly _ landABase (f := Reg.ovq_peak) 0 _ (by decide)

theorem queueEntry_rings (s : State) (e : OvqEntry) :
    (queueEntry s e).rings = { s.rings with ovq := s.rings.ovq ++ [e] } := by
  rw [queueEntry_regsOnly]

/-- An entry of the overflow queue leaves every field of Landing A but the word of PEAK. -/
theorem getA_queueEntry {s : State} {e : OvqEntry} {g : Fld} (hs : s.canonical = true) (hg : g.off ≠ Reg.ovq_peak.off) :
    getA (queueEntry s e) g = getA s g :=
  (getF_setF_other { s with rings := { s.rings with ovq := s.rings.ovq ++ [e] } } landABase landABase Reg.ovq_peak g 0 0 _
    hs (fldAddr_zero_ne hg)).trans rfl

/-- Two writes to host memory change host memory only. -/
theorem wrHost_wrHost_frame (s : State) (a b : List Host.Cell) :
    wrHost (wrHost s a) b = { s with hostMem := (wrHost (wrHost s a) b).hostMem } := rfl

/-- Writing a save area changes host memory only. -/
theorem writeSave_frame (s : State) (x : Ctx) (n : Nat) :
    writeSave s x n = { s with hostMem := (writeSave s x n).hostMem } := by
  unfold writeSave
  exact wrHost_wrHost_frame s _ _

/-- A save area written keeps the canonical form. -/
theorem writeSave_canonical {s : State} (x : Ctx) (n : Nat) (h : s.canonical = true) :
    (writeSave s x n).canonical = true := (writeSave_kept s x n (.refl s)).canonical h

/-- The state in which a context has been spilled, before the spill is counted and an entry is queued. -/
def spilledCtx (s : State) (x : Ctx) (m : List Host.Cell) : State :=
  { s with hostMem := m, rings := { s.rings with
      ctxs := s.rings.ctxs.filter (fun y => y.num != x.num)
      idled := s.rings.idled.filter (fun n => n != x.num)
      saved := s.rings.saved.filter (fun y => y.num != x.num) ++
        (if x.held.isEmpty && !x.halted then [] else [{ x with spilling := 0, reserved := 0 }]) } }

/-- A context that has been spilled leaves every field as it reads. -/
theorem getF_spilledCtx (s : State) (x : Ctx) (m : List Host.Cell) (base : Nat) (f : Fld) (k : Nat) :
    getF (spilledCtx s x m) base f k = getF s base f k := rfl

/-- STATE of a context that is spilled: 5 where it is halted, else as the spill goes. -/
def spillState (x : Ctx) (how : Nat) : Nat := if x.halted then 5 else if how = 2 then 4 else 0

/-- The bytes of host memory once a context's save area is written. -/
def savedMem (s : State) (x : Ctx) (how : Nat) : List Host.Cell := (writeSave s x (spillState x how)).hostMem

/-- A spill: the save area is written, the context is dropped, the spill is counted, and a wait entry is queued. -/
theorem spillOut_eq (s : State) (x : Ctx) (how : Nat) :
    spillOut s x how =
      if how = 2 then queueEntry (countA (spilledCtx s x (savedMem s x how)) Reg.ctxSpills_count 1)
        ⟨x.num, true, x.sqTail, x.lastUse⟩
      else countA (spilledCtx s x (savedMem s x how)) Reg.ctxSpills_count 1 := by
  have h : ∀ t : State, writeSave s x (spillState x how) = { s with hostMem := t.hostMem } →
      spillOut s x how = if how = 2 then queueEntry (countA (spilledCtx s x t.hostMem) Reg.ctxSpills_count 1)
        ⟨x.num, true, x.sqTail, x.lastUse⟩ else countA (spilledCtx s x t.hostMem) Reg.ctxSpills_count 1 := by
    intro t ht
    unfold spillOut
    unfold spillState at ht
    rw [ht]
    rfl
  exact h _ (writeSave_frame s x _)

theorem countA_ctxSpills_regsOnly (s : State) : RegsOnly s (countA s Reg.ctxSpills_count 1) :=
  countF_regsOnly s landABase (f := Reg.ctxSpills_count) 0 1 (by decide)

theorem spillOut_rings (s : State) (x : Ctx) (how : Nat) :
    (spillOut s x how).rings = { (spilledCtx s x []).rings with
      ovq := if how = 2 then s.rings.ovq ++ [⟨x.num, true, x.sqTail, x.lastUse⟩] else s.rings.ovq } := by
  rw [spillOut_eq]
  split
  · rw [queueEntry_rings, countA_ctxSpills_regsOnly]
    rfl
  · rw [countA_ctxSpills_regsOnly]
    rfl

/-- A spill changes host memory, the ring engine and copy 0 of the registers only. -/
theorem spillOut_frame (s : State) (x : Ctx) (how : Nat) :
    spillOut s x how =
      { s with hostMem := savedMem s x how, rings := (spillOut s x how).rings, regs := (spillOut s x how).regs } := by
  generalize hm : savedMem s x how = m
  rw [spillOut_eq, hm]
  split
  · rw [queueEntry_regsOnly, countA_ctxSpills_regsOnly]
    rfl
  · rw [countA_ctxSpills_regsOnly]
    rfl

theorem spillOut_hostMem (s : State) (x : Ctx) (how : Nat) : (spillOut s x how).hostMem = savedMem s x how := by
  rw [spillOut_frame]

/-- The state in which a context has been spilled is canonical. -/
theorem spilledCtx_canonical {s : State} (x : Ctx) (how : Nat) (h : s.canonical = true) :
    (spilledCtx s x (savedMem s x how)).canonical = true := by
  have hw := writeSave_canonical x (spillState x how) h
  rw [writeSave_frame] at hw
  exact hw

/-- A spill is counted. -/
theorem getA_ctxSpills_spillOut {s : State} (x : Ctx) (how : Nat) (h : s.canonical = true) :
    getA (spillOut s x how) Reg.ctxSpills_count = min (2 ^ 32 - 1) (getA s Reg.ctxSpills_count + 1) := by
  have hc := spilledCtx_canonical x how h
  have hr : getA (spilledCtx s x (savedMem s x how)) Reg.ctxSpills_count = getA s Reg.ctxSpills_count :=
    getF_spilledCtx s x _ landABase Reg.ctxSpills_count 0
  rw [spillOut_eq]
  generalize spilledCtx s x (savedMem s x how) = t at hc hr
  have hn : getA (countA t Reg.ctxSpills_count 1) Reg.ctxSpills_count = min (2 ^ 32 - 1) (getA s Reg.ctxSpills_count + 1) :=
    hr ▸ getF_countF_same t landABase Reg.ctxSpills_count 0 1 hc (by decide) (by decide)
  split
  · exact (getA_queueEntry ((countA_kept t _ _ (.refl t)).canonical hc) (by decide)).trans hn
  · exact hn

/-- A context that has been spilled is not tracked. -/
theorem findCtx_spillOut_same (s : State) (x : Ctx) (how : Nat) : findCtx (spillOut s x how) x.num = none := by
  unfold findCtx
  rw [spillOut_rings]
  exact find?_without_same _ _

/-- A spill leaves every other context. -/
theorem findCtx_spillOut_other (s : State) {x : Ctx} (how : Nat) {k : Nat} (hk : k ≠ x.num) :
    findCtx (spillOut s x how) k = findCtx s k := by
  unfold findCtx
  rw [spillOut_rings]
  exact find?_without_other _ hk

/-- The end of a spill of a context of which no descriptor runs. -/
theorem exec_contextSpillDone {s : State} {c : Nat} {x : Ctx} (hx : findCtx s c = some x) (hs : x.spilling ≠ 0)
    (hb : ctxBusy s c = false) : exec (.contextSpillDone c) s = .next (spillOut s x x.spilling) := by
  show Host.Outcome.next (match findCtx s c with
    | some x => if x.spilling ≠ 0 ∧ !ctxBusy s c then spillOut s x x.spilling else s
    | none => s) = _
  rw [hx]
  exact congrArg _ (if_pos ⟨hs, by rw [hb]; rfl⟩)

/-! ### The overflow queue (R67 to R69) -/

/-- The queue's first ready entry, where there is one. -/
theorem exec_overflowEntryLoad {s : State} {e : OvqEntry} (h : s.rings.ovq.find? (entryReady s) = some e) :
    exec .overflowEntryLoad s = .next (if placesUsed s < 256 then loadEntry s e
      else match idleVictim s with
        | some v => loadEntry (startSpill s v.num 1) e
        | none => s) := by
  show Host.Outcome.next (match s.rings.ovq.find? (entryReady s) with
    | none => s
    | some e => if placesUsed s < 256 then loadEntry s e
      else match idleVictim s with
        | some v => loadEntry (startSpill s v.num 1) e
        | none => s) = _
  rw [h]

/-- A place can be made where one of the steps 2 to 4 of R67 applies. -/
theorem makePlace_eq_none {s : State} : makePlace s = none ↔ ¬ placesUsed s < 256 ∧
    leastUsed ((spillable s).filter (ctxIdle s)) = none ∧ leastUsed ((spillable s).filter (ctxWaiting s)) = none := by
  unfold makePlace
  split
  · simp [*]
  · split
    · simp [*]
    · split <;> simp [*]

/-- What the host wrote and a notice leave no place that was not there. -/
theorem makePlace_rung {s : State} (host : List (Nat × List Byte)) (h : makePlace s = none) :
    makePlace (tickUse (rung s host)) = none := by
  rw [makePlace_eq_none] at h ⊢
  exact h

/-- A submission doorbell of a context that is served. -/
theorem exec_sqDoorbell_served {s : State} {c : Nat} (t : Nat) (host : List (Nat × List Byte))
    (hc : c < getA s Reg.ctxCount_count) (he : getA s Reg.ringCtrl_enable = 1) :
    exec (.sqDoorbell c t host) s = .next (match findCtx s c with
      | some x => if x.loading then touchCtx (updCtx (rung s host) c (fun y => { y with tails := y.tails ++ [t] })) c
        else noteIdle (touchCtx (takeTail (rung s host) c t) c) c
      | none => placeContext (rung s host) c (t % 2 ^ 32)) := by
  show Host.Outcome.next (sqDoorbell (hostWrites s host) c t) = _
  have hs : doorbellServed (noteMerge (hostWrites s host) landABase) c = true := doorbellServed_rung host hc he
  unfold sqDoorbell
  dsimp only
  rw [hs, if_neg (by decide)]
  rfl

/-- The doorbell of a context that loads waits with it. -/
theorem sqDoorbell_loading {s : State} {c : Nat} {x : Ctx} (t : Nat) (host : List (Nat × List Byte))
    (hc : c < getA s Reg.ctxCount_count) (he : getA s Reg.ringCtrl_enable = 1) (hx : findCtx s c = some x)
    (hl : x.loading = true) :
    ∃ u, exec (.sqDoorbell c t host) s = .next u ∧
      findCtx u c = some { x with tails := x.tails ++ [t], lastUse := s.rings.useClock + 1 } ∧
      (∀ k, k ≠ c → findCtx u k = findCtx s k) ∧ u = { rung s host with rings := u.rings } := by
  have hexec := exec_sqDoorbell_served t host hc he
  rw [hx] at hexec
  dsimp only at hexec
  rw [if_pos hl] at hexec
  have hy := findCtx_updCtx_same (rung s host) c (fun y => { y with tails := y.tails ++ [t] }) hx (fun _ => rfl)
  refine ⟨_, hexec, findCtx_touchCtx hy, fun k hk => ?_, rfl⟩
  rw [findCtx_touchCtx_other _ hk]
  exact findCtx_updCtx_other (rung s host) (fun y => { y with tails := y.tails ++ [t] }) hk (fun _ => rfl)

/-- The doorbell of an untracked context starts its load where a place is free. -/
theorem sqDoorbell_load {s : State} {c : Nat} (t : Nat) (host : List (Nat × List Byte))
    (hc : c < getA s Reg.ctxCount_count) (he : getA s Reg.ringCtrl_enable = 1) (hx : findCtx s c = none)
    (hq : s.rings.ovq.any (fun e => e.ctx == c) = false) (hp : placesUsed s < 256) :
    exec (.sqDoorbell c t host) s = .next { rung s host with rings := { s.rings with
      ctxs := s.rings.ctxs ++ [loadingCtx c [t % 2 ^ 32] (s.rings.useClock + 1)]
      useClock := s.rings.useClock + 1 } } := by
  have hexec := exec_sqDoorbell_served t host hc he
  have hq' : (tickUse (rung s host)).rings.ovq.any (fun e => e.ctx == c) = false := hq
  have hm : makePlace (tickUse (rung s host)) = some (tickUse (rung s host)) := if_pos hp
  rw [hx] at hexec
  dsimp only [placeContext] at hexec
  rw [hq', if_neg Bool.false_ne_true, hm] at hexec
  exact hexec

/-- The doorbell of an untracked context for which no place can be made joins the overflow queue. -/
theorem sqDoorbell_queue {s : State} {c : Nat} (t : Nat) (host : List (Nat × List Byte))
    (hc : c < getA s Reg.ctxCount_count) (he : getA s Reg.ringCtrl_enable = 1) (hx : findCtx s c = none)
    (hq : s.rings.ovq.any (fun e => e.ctx == c) = false) (hp : makePlace s = none) :
    ∃ u, exec (.sqDoorbell c t host) s = .next u ∧ u.rings.ctxs = s.rings.ctxs ∧
      u.rings.ovq = s.rings.ovq ++ [⟨c, false, t % 2 ^ 32, s.rings.useClock + 1⟩] ∧
      (s.canonical = true → getA u Reg.ctxOverflow_count = min (2 ^ 32 - 1) (getA s Reg.ctxOverflow_count + 1)) ∧
      u = { rung s host with rings := u.rings, regs := u.regs } := by
  have hexec := exec_sqDoorbell_served t host hc he
  have hq' : (tickUse (rung s host)).rings.ovq.any (fun e => e.ctx == c) = false := hq
  rw [hx] at hexec
  dsimp only [placeContext] at hexec
  rw [hq', if_neg Bool.false_ne_true, makePlace_rung host hp] at hexec
  have hold : (tickUse (rung s host)).rings.ovq = s.rings.ovq ∧ (tickUse (rung s host)).rings.ctxs = s.rings.ctxs ∧
    getA (tickUse (rung s host)) Reg.ctxOverflow_count = getA s Reg.ctxOverflow_count := ⟨rfl, rfl, rfl⟩
  have hframe : tickUse (rung s host) = { rung s host with rings := (tickUse (rung s host)).rings } := rfl
  have hcanon : s.canonical = true → (tickUse (rung s host)).canonical = true := rung_canonical host
  replace hexec : exec (.sqDoorbell c t host) s = .next (countA (queueEntry (tickUse (rung s host))
    ⟨c, false, t % 2 ^ 32, s.rings.useClock + 1⟩) Reg.ctxOverflow_count 1) := hexec
  generalize tickUse (rung s host) = v at hexec hold hframe hcanon
  generalize (⟨c, false, t % 2 ^ 32, s.rings.useClock + 1⟩ : OvqEntry) = e at hexec ⊢
  obtain ⟨hovq, hctxs, hcount⟩ := hold
  have hregs : RegsOnly (queueEntry v e) (countA (queueEntry v e) Reg.ctxOverflow_count 1) :=
    countF_regsOnly _ landABase (f := Reg.ctxOverflow_count) 0 1 (by decide)
  refine ⟨_, hexec, ?_, ?_, fun hs => ?_, ?_⟩
  · rw [hregs, queueEntry_regsOnly, ← hctxs]
  · rw [hregs, queueEntry_regsOnly, ← hovq]
  · have hn := getF_countF_same (queueEntry v e) landABase Reg.ctxOverflow_count 0 1
      ((queueEntry_kept v e (.refl v)).canonical (hcanon hs)) (by decide) (by decide)
    rw [← hcount, ← getA_queueEntry (e := e) (hcanon hs) (by decide)]
    exact hn
  · rw [hregs, queueEntry_regsOnly, hframe]

/-- Settles O9: each clause is one of the cases above. -/
theorem contextLoadSpillAndQueue : Obligations.ContextLoadSpillAndQueue := by
  refine ⟨?load, ?spill, ?queue, ?doorbell⟩
  case load =>
    intro s c x hx hl
    refine ⟨fun h hd => ?_, loadDone_refused hx hl, fun h hz hk => ?_⟩
    · obtain ⟨u, y, hexec, hy, hxy, hother, hframe⟩ := loadDone_taken hx hl h hd
      refine ⟨u, y, hexec, hy, ?_, ?_, ?_, ?_, ?_, ?_, ?_, ?_, ?_, hother, hframe⟩ <;> exact hxy ▸ rfl
    · obtain ⟨u, n, hexec, hy, hmem, hother, hframe⟩ := loadDone_fresh hx hl h hz hk
      rw [cplWrites_freshCtx] at hmem
      refine ⟨u, _, hexec, hy, ?_, ?_, ?_, ?_, ?_, ?_, ?_, hmem, hother, hframe⟩ <;>
        simp [Ctx.usedAt, Ctx.afterEntry, freshCtx, ctxOfSave, faultEntry]
  case spill =>
    intro s c x hx hs hb
    obtain rfl : x.num = c := findCtx_num hx
    refine ⟨_, exec_contextSpillDone hx hs hb, findCtx_spillOut_same s x _, fun k hk => findCtx_spillOut_other s _ hk,
      ?_, ?_, getA_ctxSpills_spillOut x _, ?_⟩
    · rw [spillOut_hostMem, savedMem, spillState]
    · rw [spillOut_rings]
    · rw [spillOut_frame]
  case queue =>
    intro s e he
    have hexec := exec_overflowEntryLoad he
    refine ⟨fun hp => ?_, fun v hp hv => ?_⟩
    · rw [hexec, if_pos hp]
      rfl
    · rw [if_neg (Nat.not_lt.mpr hp), hv] at hexec
      exact ⟨_, hexec, rfl, rfl, rfl⟩
  case doorbell =>
    intro s c t host hc he
    exact ⟨fun x => sqDoorbell_loading t host hc he, sqDoorbell_load t host hc he, sqDoorbell_queue t host hc he⟩

end Sys2Proof.Machine
end

section
/-!
SUPPORT. Descriptors fetched and completed (R45, R51, R57, R61): the semaphore that is signalled, the final entry, and what
a fetch leaves.
-/

namespace Sys2Proof.Machine

/-- The bytes of an entry depend on the state by its TAI count alone. -/
theorem cplWrites_congr {s t : State} (h : t.time = s.time) (x : Ctx) (e : Entry) : cplWrites t x e = cplWrites s x e := by
  unfold cplWrites entryBytes
  rw [h]

/-! ### Semaphores -/

/-- The list of semaphores of a canonical state is canonical. -/
theorem State.canonical_sems {s : State} (h : s.canonical = true) : sparseWf (fun _ => 0) s.sems = true := by
  rw [State.canonical_iff] at h
  tauto

/-- A semaphore that has been added to reads the sum modulo 2⁶⁴, and every other as before. -/
theorem semGet_semAdd {s : State} (n v m : Nat) (h : s.canonical = true) :
    semGet (semAdd s n v) m = if m = n then (semGet s n + v) % 2 ^ 64 else semGet s m := by
  show sparseGet 0 m (sparseSet 0 n ((semGet s n + v) % 2 ^ 64) s.sems) = _
  split
  · next e =>
    subst e
    exact sparseGet_set_same (fun _ => 0) m _ s.sems 0 (State.canonical_sems h)
  · next e => exact sparseGet_set_other (fun _ => 0) e 0 _ s.sems 0 (State.canonical_sems h)

theorem semGet_noteIdle (s : State) (c m : Nat) : semGet (noteIdle s c) m = semGet s m := by
  rw [noteIdle_frame]
  rfl

/-! ### Completion -/

/-- `t` is `s` but for host memory, the ring engine, the semaphores and what crosses from clock to clock. -/
def Completion (s t : State) : Prop :=
  t = { s with hostMem := t.hostMem, rings := t.rings, sems := t.sems, cross := t.cross }

theorem Completion.trans {s t u : State} (h : Completion s t) (k : Completion t u) : Completion s u := by
  unfold Completion at *
  rw [k, h]

theorem HostRings.completion {s t : State} (h : HostRings s t) : Completion s t := by
  unfold HostRings at h
  unfold Completion
  rw [h]

/-- The state in which a descriptor's semaphore has been signalled, where its ending calls for it. -/
def signalled (s : State) (d : Desc) (st : Status) : State :=
  if descSignals d st then semAdd s (dSignalId d) (dSignalValue d) else s

/-- The final entry of a descriptor. -/
def finalEntry (idx : Nat) (d : Desc) (e : OpEnd) : Entry :=
  ⟨idx, e.status, true, descSignals d e.status, statusHalts e.status, dTag d, e.detail, dNotify d⟩

theorem completeWith_eq (s : State) (c idx : Nat) (d : Desc) (e : OpEnd) :
    completeWith s c idx d e = writeEntry (signalled s d e.status) c (finalEntry idx d e) := rfl

/-- A signal changes the semaphores and notices only. -/
theorem signalled_frame (s : State) (d : Desc) (st : Status) :
    signalled s d st = { s with sems := (signalled s d st).sems, cross := (signalled s d st).cross } := by
  unfold signalled
  split <;> rfl

/-- What the semaphores read once a descriptor's has been signalled. -/
theorem semGet_signalled {s : State} (d : Desc) (st : Status) (m : Nat) (h : s.canonical = true) :
    semGet (signalled s d st) m = if descSignals d st = true ∧ m = dSignalId d then
      (semGet s m + dSignalValue d) % 2 ^ 64 else semGet s m := by
  unfold signalled
  by_cases hs : descSignals d st = true
  · rw [if_pos hs, semGet_semAdd _ _ _ h]
    by_cases e : m = dSignalId d
    · rw [if_pos e, if_pos ⟨hs, e⟩, e]
    · rw [if_neg e, if_neg (fun a => e a.2)]
  · rw [if_neg hs, if_neg (fun a => hs a.1)]

theorem findCtx_signalled (s : State) (d : Desc) (st : Status) (k : Nat) : findCtx (signalled s d st) k = findCtx s k := by
  rw [signalled_frame]
  rfl

/-- The context of a descriptor that completes. -/
theorem findCtx_completeWith_same {s : State} {c : Nat} {x : Ctx} (idx : Nat) (d : Desc) (e : OpEnd)
    (h : findCtx s c = some x) :
    findCtx (completeWith s c idx d e) c =
      some ((x.afterEntry (finalEntry idx d e)).usedAt (s.rings.useClock + 1)) := by
  have h' : findCtx (signalled s d e.status) c = some x := (findCtx_signalled s d e.status c).trans h
  have hu : (signalled s d e.status).rings = s.rings := by rw [signalled_frame]
  rw [completeWith_eq, findCtx_writeEntry_same _ h', hu]

/-- A descriptor that completes leaves every other context. -/
theorem findCtx_completeWith_other (s : State) {c k : Nat} (idx : Nat) (d : Desc) (e : OpEnd) (hk : k ≠ c) :
    findCtx (completeWith s c idx d e) k = findCtx s k := by
  rw [completeWith_eq, findCtx_writeEntry_other _ _ hk, findCtx_signalled]

/-- The final entry of a descriptor that completes stands in its slot. -/
theorem completeWith_hostMem {s : State} {c : Nat} {x : Ctx} (idx : Nat) (d : Desc) (e : OpEnd)
    (h : findCtx s c = some x) :
    (completeWith s c idx d e).hostMem = memWriteAll s.hostMem (cplWrites s x (finalEntry idx d e)) := by
  have h' : findCtx (signalled s d e.status) c = some x := (findCtx_signalled s d e.status c).trans h
  have ht : (signalled s d e.status).time = s.time ∧ (signalled s d e.status).hostMem = s.hostMem := by
    rw [signalled_frame]
    exact ⟨rfl, rfl⟩
  rw [completeWith_eq, writeEntry_hostMem _ h', ht.2, cplWrites_congr ht.1]

/-- The semaphores once a descriptor has completed. -/
theorem semGet_completeWith {s : State} (c idx : Nat) (d : Desc) (e : OpEnd) (m : Nat) (h : s.canonical = true) :
    semGet (completeWith s c idx d e) m = if descSignals d e.status = true ∧ m = dSignalId d then
      (semGet s m + dSignalValue d) % 2 ^ 64 else semGet s m := by
  have hf := writeEntry_frame (signalled s d e.status) c (finalEntry idx d e)
  unfold HostRings at hf
  rw [completeWith_eq, hf, ← semGet_signalled d e.status m h]
  rfl

/-- A descriptor that completes changes host memory, the ring engine, semaphores and notices only. -/
theorem completeWith_frame (s : State) (c idx : Nat) (d : Desc) (e : OpEnd) : Completion s (completeWith s c idx d e) := by
  have hs : Completion s (signalled s d e.status) := by
    unfold Completion
    rw [signalled_frame]
  exact hs.trans (writeEntry_frame _ c _).completion

/-! ### Fetching -/

/-- A context whose submission head has moved on by one. -/
def Ctx.fetched (y : Ctx) : Ctx := { y with sqHead := (y.sqHead + 1) % 2 ^ 32 }

/-- A context that holds one more descriptor. -/
def Ctx.holding (h : Held) (y : Ctx) : Ctx := { y with held := y.held ++ [h] }

/-- The fetch of a context that may fetch. -/
theorem exec_descriptorFetch {s : State} {c : Nat} {x : Ctx} (hx : findCtx s c = some x) (hm : mayFetch s x = true) :
    exec (.descriptorFetch c) s = .next (fetchNext s x) := by
  show Host.Outcome.next (match findCtx s c with
    | some x => if mayFetch s x then fetchNext s x else s
    | none => s) = _
  rw [hx]
  exact congrArg _ (if_pos hm)

/-- The fetch of a descriptor that passes its checks. -/
theorem fetchNext_held {s : State} {x : Ctx} (h : fetchFault s x.num (nextDesc s x) = none) :
    fetchNext s x = updCtx (updCtx s x.num Ctx.fetched) x.num (Ctx.holding ⟨x.sqHead, nextDesc s x⟩) := by
  unfold fetchNext
  dsimp only
  rw [h]
  rfl

/-- The fetch of a descriptor that fails one, where a completion slot is free. -/
theorem fetchNext_faulty {s : State} {x : Ctx} {f : Nat} (h : fetchFault s x.num (nextDesc s x) = some f)
    (hs : slotsFree x ≠ 0) :
    fetchNext s x = noteIdle (completeWith (updCtx s x.num Ctx.fetched) x.num x.sqHead (nextDesc s x) ⟨.ctxFault, f⟩)
      x.num := by
  unfold fetchNext
  dsimp only
  rw [h]
  exact if_neg hs

/-- Settles O10: the descriptor is held, or its fault entry is written. -/
theorem descriptorFetchHoldsCopy : Obligations.DescriptorFetchHoldsCopy := by
  intro s c x hx hm d
  have hexec := exec_descriptorFetch hx hm
  obtain rfl : x.num = c := findCtx_num hx
  have hfetched := findCtx_updCtx_same s x.num Ctx.fetched hx (fun _ => rfl)
  constructor
  · intro hf
    rw [fetchNext_held hf] at hexec
    refine ⟨_, hexec, findCtx_updCtx_same _ x.num (Ctx.holding _) hfetched (fun _ => rfl), fun k hk => ?_, rfl, rfl⟩
    rw [findCtx_updCtx_other _ (Ctx.holding _) hk (fun _ => rfl), findCtx_updCtx_other s Ctx.fetched hk (fun _ => rfl)]
  · intro f hf hs
    rw [fetchNext_faulty hf hs] at hexec
    have hy := findCtx_completeWith_same x.sqHead (nextDesc s x) ⟨.ctxFault, f⟩ hfetched
    refine ⟨_, _, hexec, (findCtx_noteIdle _ _ _).trans hy, Bool.or_true _, rfl, rfl, rfl, fun n hc => ?_, fun k hk => ?_,
      ?_, ?_⟩
    · have hg := semGet_completeWith (s := updCtx s x.num Ctx.fetched) x.num x.sqHead (nextDesc s x) ⟨.ctxFault, f⟩ n hc
      rw [← semGet_noteIdle _ x.num] at hg
      exact hg
    · rw [findCtx_noteIdle, findCtx_completeWith_other _ _ _ _ hk, findCtx_updCtx_other s Ctx.fetched hk (fun _ => rfl)]
    · rw [noteIdle_hostMem, completeWith_hostMem _ _ _ hfetched, cplWrites_congr (s := s) (t := updCtx s x.num Ctx.fetched) rfl]
      rfl
    · exact (completeWith_frame (updCtx s x.num Ctx.fetched) _ _ _ _).trans (HostRings.noteIdle _ _).completion

end Sys2Proof.Machine
end

section
/-!
SUPPORT. Descriptors that begin and end (R54, R57, R58, R61, R505): the state in which an operation has begun, and what is
left once it has ended.
-/

namespace Sys2Proof.Machine

/-! ### Beginning -/

/-- A context whose oldest held descriptor has begun, with `k` completion slots reserved for it. -/
def Ctx.begun (k : Nat) (y : Ctx) : Ctx := { y with held := y.held.drop 1, reserved := y.reserved + k }

/-- The state in which some operation of a context has begun, before its work. -/
def begunState (s : State) (c : Nat) (d : Desc) (o : Op) : State :=
  { updCtx s c (Ctx.begun (slotsNeeded d)) with ops := s.ops ++ [o], opSeq := s.opSeq + 1 }

/-- The beginning of an eligible descriptor that no parked or STRICT work holds back. -/
theorem exec_descriptorBegin {s : State} {c : Nat} {x : Ctx} {h : Held} (hx : findCtx s c = some x)
    (he : eligible s x = some h) (hp : parkedBefore s h.d = false) (hs : strictBefore s h.d = false) :
    exec (.descriptorBegin c) s = .next (beginHeld s x h) := by
  show Host.Outcome.next (match findCtx s c with
    | some x => (match eligible s x with
       | some h => if parkedBefore s h.d || strictBefore s h.d then s else beginHeld s x h
       | none => s)
    | none => s) = _
  rw [hx]
  dsimp only
  rw [he]
  dsimp only
  rw [hp, hs]
  rfl

/-- The context whose descriptor has begun. -/
theorem findCtx_begunState_same {s : State} {c : Nat} {x : Ctx} (d : Desc) (o : Op) (hx : findCtx s c = some x) :
    findCtx (begunState s c d o) c = some (x.begun (slotsNeeded d)) :=
  findCtx_updCtx_same s c (Ctx.begun (slotsNeeded d)) hx (fun _ => rfl)

/-- Every other context stays. -/
theorem findCtx_begunState_other (s : State) {c k : Nat} (d : Desc) (o : Op) (hk : k ≠ c) :
    findCtx (begunState s c d o) k = findCtx s k :=
  findCtx_updCtx_other s (Ctx.begun (slotsNeeded d)) hk (fun _ => rfl)

/-- A field that was split is split where an operation has begun, and no other. -/
theorem splitRecord_begunState (s : State) (c : Nat) (d : Desc) (o : Op) :
    splitRecord (begunState s c d o) = splitRecord s := rfl

/-- Where no operation of a context and index ran, a change of that operation reaches only the one that has begun. -/
theorem updOp_begunState {s : State} {c i : Nat} {o : Op} (d : Desc) (f : Op → Op) (hn : findOp s c i = none)
    (ho : isOp c i o = true) : updOp (begunState s c d o) c i f = begunState s c d (f o) := by
  have hold : s.ops.map (fun p => if isOp c i p then f p else p) = s.ops := by
    have h := List.find?_eq_none.mp hn
    exact (List.map_congr_left fun p hp => if_neg (h p hp)).trans (List.map_id _)
  have hops : (s.ops ++ [o]).map (fun p => if isOp c i p then f p else p) = s.ops ++ [f o] := by
    rw [List.map_append, hold, List.map_singleton, if_pos ho]
  show { begunState s c d o with ops := (s.ops ++ [o]).map (fun p => if isOp c i p then f p else p) } = _
  rw [hops]
  rfl

/-- The operation that has begun is found. -/
theorem findOp_begunState {s : State} {c i : Nat} {o : Op} (d : Desc) (hn : findOp s c i = none)
    (ho : isOp c i o = true) : findOp (begunState s c d o) c i = some o := by
  show (s.ops ++ [o]).find? (isOp c i) = some o
  rw [List.find?_append, show s.ops.find? (isOp c i) = none from hn]
  simp [ho]

/-- A new operation is the one of its context and index. -/
theorem isOp_newOp (s : State) (c : Nat) (h : Held) : isOp c h.idx (newOp s c h) = true := by
  simp [isOp, newOp, bareOp]

/-- What becomes of an operation once its work has begun: it ends where its tally record is not open or has no room. -/
def tallyBegun (s t : State) (c : Nat) (h : Held) : State :=
  match faultCodeOf t c h.idx with
  | some code => if code = 0x1D0 ∨ code < 0x1C1 then t else beginTally s t c h.idx h.d
  | none => beginTally s t c h.idx h.d

/-- The beginning of a descriptor, from the state in which its operation stands in the list. -/
theorem beginHeld_eq (s : State) (x : Ctx) (h : Held) :
    beginHeld s x h =
      match splitRecord (begunState s x.num h.d (newOp s x.num h)) with
      | some n => endOp (begunState s x.num h.d (newOp s x.num h)) x.num h.idx ⟨.deviceFault, n⟩
      | none =>
        if levelTwoMeets (begunState s x.num h.d (newOp s x.num h)) (newOp s x.num h) then
          ctxFault (begunState s x.num h.d (newOp s x.num h)) x.num h.idx 0x05 0
        else tallyBegun (begunState s x.num h.d (newOp s x.num h))
          (beginWork (begunState s x.num h.d (newOp s x.num h)) x.num h.idx h.d) x.num h := rfl

/-- A descriptor begins while a voted field is split: its operation has ended with DEVICE_FAULT. -/
theorem beginHeld_split {s : State} {x : Ctx} {h : Held} {n : Nat} (hs : splitRecord s = some n)
    (hn : findOp s x.num h.idx = none) :
    beginHeld s x h =
      begunState s x.num h.d { newOp s x.num h with ended := some ⟨.deviceFault, n⟩ } := by
  rw [beginHeld_eq, splitRecord_begunState, hs]
  exact updOp_begunState h.d (fun p => { p with ended := some ⟨.deviceFault, n⟩ }) hn (isOp_newOp s x.num h)

/-- A descriptor below level 2 begins while no voted field is split. -/
theorem beginHeld_free {s : State} {x : Ctx} {h : Held} (hs : splitRecord s = none) (hl : checkLevel h.d ≠ 2) :
    beginHeld s x h = tallyBegun (begunState s x.num h.d (newOp s x.num h))
      (beginWork (begunState s x.num h.d (newOp s x.num h)) x.num h.idx h.d) x.num h := by
  have hm : ¬ levelTwoMeets (begunState s x.num h.d (newOp s x.num h)) (newOp s x.num h) = true := by
    simp [levelTwoMeets, newOp, bareOp, hl]
  rw [beginHeld_eq, splitRecord_begunState, hs]
  exact if_neg hm

/-- An operation of class 0x0F other than TIME_STAMP does nothing at its beginning. -/
theorem beginWork_plain (s : State) (c i : Nat) {d : Desc} (hc : dOpcode d / 256 = 0x0F) (hn : dOpcode d ≠ 0x0F11) :
    beginWork s c i d = s := by
  have h : ∀ n, n / 256 ≠ 0x0F → dOpcode d ≠ n := fun n h e => h (e ▸ hc)
  unfold beginWork
  simp [hc, hn, h]

/-- An operation that has begun with its work and reads no factor: it ends where its tally record is not open. -/
theorem tallyBegun_running {s t : State} {c : Nat} {h : Held} {o : Op} (hf : findOp t c h.idx = some o)
    (he : o.ended = none) (hfacs : o.facs = []) :
    tallyBegun s t c h = if tallyFound s h.d then t else ctxFault s c h.idx 0x1C1 0 := by
  have hcode : faultCodeOf t c h.idx = none := by simp [faultCodeOf, hf, he]
  have hgens : tallyGens t h.d [] = some t := by simp [tallyGens]
  unfold tallyBegun
  rw [hcode]
  dsimp only
  unfold beginTally
  rw [hf]
  dsimp only
  rw [hfacs, hgens]
  cases tallyFound s h.d <;> rfl

/-- A descriptor of class 0x0F other than TIME_STAMP begins: it runs, or has ended where its tally record is not open. -/
theorem beginHeld_plain {s : State} {x : Ctx} {h : Held} (hs : splitRecord s = none) (hl : checkLevel h.d ≠ 2)
    (hc : dOpcode h.d / 256 = 0x0F) (ht : dOpcode h.d ≠ 0x0F11) (hn : findOp s x.num h.idx = none) :
    beginHeld s x h = if tallyFound s h.d then begunState s x.num h.d (newOp s x.num h)
      else begunState s x.num h.d { newOp s x.num h with ended := some ⟨.ctxFault, 0x1C1⟩ } := by
  rw [beginHeld_free hs hl, beginWork_plain _ _ _ hc ht,
    tallyBegun_running (findOp_begunState h.d hn (isOp_newOp s x.num h)) rfl rfl]
  have hu := updOp_begunState h.d (fun p => { p with ended := some ⟨.ctxFault, 0x1C1 + 0 * 2 ^ 16⟩ }) hn
    (isOp_newOp s x.num h)
  exact congrArg (fun t => if tallyFound s h.d then begunState s x.num h.d (newOp s x.num h) else t) hu

/-! ### NOP -/

/-- The end of an operation leaves every other. -/
theorem findOp_endOp_other (s : State) {c i c' i' : Nat} (e : OpEnd) (h : ¬ (c' = c ∧ i' = i)) :
    findOp (endOp s c i e) c' i' = findOp s c' i' :=
  findOp_updOp_other s _ h (fun _ => ⟨rfl, rfl⟩)

/-! ### The end -/

/-- Writes of nothing change nothing. -/
theorem wrMem_nil (s : State) : wrMem s [] = s := by
  have h : clearPoison [] s.hbm.poison = s.hbm.poison :=
    List.filter_eq_self.mpr fun _ _ => by simpa using ⟨0, by decide⟩
  unfold wrMem
  rw [h]
  rfl

/-- The device bytes of a save area as zero. -/
def clearedSave (s : State) (c : Nat) : List Host.Cell := bytesWrites (saveAddr s c + 0x40) (List.replicate 448 0)

/-- The ring engine without a context. -/
def Rings.without (r : Rings) (c : Nat) : Rings :=
  { r with ctxs := r.ctxs.filter (fun y => y.num != c), saved := r.saved.filter (fun y => y.num != c)
           ovq := r.ovq.filter (fun e => e.ctx != c), refused := r.refused.filter (fun y => y != c) }

/-- A context reset: its save area is cleared, and the ring engine knows it no more. -/
theorem resetContext_eq (s : State) (c : Nat) :
    resetContext s c = { wrHost s (clearedSave s c) with rings := s.rings.without c } := rfl

/-- An operation that is removed is in the list no more, and no other leaves it. -/
theorem removeOp_ops (s : State) (o : Op) : (removeOp s o).ops = s.ops.filter (fun p => !isOp o.ctx o.idx p) := by
  have hr : ∀ t : State, (finishReset t).ops = t.ops := by
    intro t
    unfold finishReset
    dsimp only
    split
    · rw [setA, setF_ops, resetContext_eq, wrHost_ops]
    · rfl
  unfold removeOp
  rw [noteIdle_frame]
  exact hr _

/-- An operation that is removed is found no more. -/
theorem findOp_removeOp (s : State) (o : Op) : findOp (removeOp s o) o.ctx o.idx = none := by
  unfold findOp
  rw [removeOp_ops]
  simp [List.find?_eq_none]

/-- The end of an operation that has its decision and waits for no copy. -/
theorem exec_descriptorEnd {s : State} {c i : Nat} {o : Op} {e : OpEnd} (ecc : Ecc) (ho : findOp s c i = some o)
    (he : o.ended = some e) (hr : endReady s o e = true) (hw : opWaits s o = false) :
    exec (.descriptorEnd c i ecc) s = .next (match findOp (if endMends o e then mendOp s o else s) c i with
      | some p => endNow (if endMends o e then mendOp s o else s) p e ecc
      | none => if endMends o e then mendOp s o else s) := by
  show Host.Outcome.next (match findOp s c i with
    | none => s
    | some o => match o.ended with
      | none => s
      | some e => if !endReady s o e || opWaits s o then s
        else match findOp (if endMends o e then mendOp s o else s) c i with
          | some p => endNow (if endMends o e then mendOp s o else s) p e ecc
          | none => if endMends o e then mendOp s o else s) = _
  rw [ho]
  dsimp only
  rw [he]
  dsimp only
  rw [hr, hw]
  rfl

/-- Nothing is left of an operation after its DESCRIPTOR_END. -/
theorem descriptorEnd_gone {s : State} {c i : Nat} {o : Op} {e : OpEnd} (ecc : Ecc) (ho : findOp s c i = some o)
    (he : o.ended = some e) (hr : endReady s o e = true) (hw : opWaits s o = false) :
    ∃ u, exec (.descriptorEnd c i ecc) s = .next u ∧ findOp u c i = none := by
  refine ⟨_, exec_descriptorEnd ecc ho he hr hw, ?_⟩
  cases hp : findOp (if endMends o e then mendOp s o else s) c i with
  | none => exact hp
  | some p =>
    obtain ⟨rfl, rfl⟩ := findOp_place hp
    exact findOp_removeOp _ p

/-! ### The end of NOP and TICK_WAIT -/

/-- Whether a descriptor is a NOP or a TICK_WAIT. -/
def isIdleOp (d : Desc) : Prop := dOpcode d = 0x0F00 ∨ dOpcode d = 0x0F10

theorem isIdleOp.class {d : Desc} (h : isIdleOp d) : dOpcode d / 256 = 0x0F := by
  rcases h with h | h <;> rw [h]

/-- A NOP or TICK_WAIT writes no output region. -/
theorem opOutputs_idle (s : State) {o : Op} (h : isIdleOp o.d) : opOutputs s o = [] := by
  rcases h with h | h <;> simp [opOutputs, h]

/-- A NOP or TICK_WAIT reads no region. -/
theorem opReads_idle (s : State) {d : Desc} (h : isIdleOp d) : opReads s d = [] := by
  rcases h with h | h <;> simp [opReads, opInputs, h]

/-- A NOP or TICK_WAIT without held writes waits for no decision. -/
theorem holdsState_idle (s : State) {o : Op} (h : isIdleOp o.d) (hw : o.writes = []) : holdsState s o = false := by
  have ho := opOutputs_idle s h
  rcases h with h | h <;> simp [holdsState, isTruWriter, anyMeet, h, hw, ho]

/-- ECC finds nothing in the accesses of a NOP or TICK_WAIT. -/
theorem endEcc_idle (s : State) {o : Op} (e : OpEnd) (h : isIdleOp o.d) : endEcc s o e .ok = (s, e) := by
  simp [endEcc, hbmEcc, opReads_idle s h]

/-- A NOP or TICK_WAIT has no slot that it can overrun. -/
theorem endOverrun_idle (s : State) {o : Op} (e : OpEnd) (h : isIdleOp o.d) : endOverrun s o e = e := by
  rcases h with h | h <;> simp [endOverrun, h]

/-- A NOP or TICK_WAIT leaves no output digest. -/
theorem endDigests_idle {o : Op} (st : Status) (h : isIdleOp o.d) : endDigests o st = false := by
  have hl : checkLevel o.d = 0 := by rcases h with h | h <;> simp [checkLevel, noOutputs, h]
  simp [endDigests, hl]

/-- An operation that is no IMPORT re-derives nothing at its end. -/
theorem importEnd_none (s : State) {o : Op} (h : o.work = .none) : importEnd s o = s := by
  unfold importEnd
  rw [h]

/-- An operation that names no tally record adds to none. -/
theorem tallyAdd_untagged (s : State) {o : Op} (st : Status) (ds : List Nat) (h : dTag o.d = 0) :
    tallyAdd s o st ds = s := if_pos (Or.inl h)

/-- A NOP or TICK_WAIT that has ended with DONE, has no tag and holds nothing only completes and is removed. -/
theorem endNow_idle (s : State) {o : Op} {e : OpEnd} (h : isIdleOp o.d) (he : e.status = .done) (hd : dTag o.d = 0)
    (hw : o.work = .none) (hws : o.writes = []) (hs : o.side = sideNone) :
    endNow s o e .ok = removeOp (completeWith s o.ctx o.idx o.d e) o := by
  have hk : endSkips s o e = false := by simp [endSkips, holdsState_idle s h hws]
  have hdis : discards e.status = false := by rw [he]; rfl
  have hside : applySide s o.side = s := by rw [hs]; rfl
  have hrc : replicaCount s o e.status = s := by rcases h with h | h <;> simp [replicaCount, h]
  unfold endNow
  simp [hk, endEcc_idle s e h, endOverrun_idle s e h, hdis, hside, hws, wrMem_nil, importEnd_none s hw,
    endDigests_idle e.status h, tallyAdd_untagged _ _ _ hd, hrc, h.class]

/-- A context that has some of its reserved completion slots back. -/
def Ctx.released (k : Nat) (y : Ctx) : Ctx := { y with reserved := y.reserved - k }

/-- The completion slots that the end of an operation gives back. -/
def slotsBack (o : Op) : Nat := slotsNeeded o.d - nat01 o.everParked

/-- The state without an operation, its slots, its skid entries and its work on Cells. -/
def opTaken (s : State) (o : Op) : State :=
  skidFree (clearCells (updCtx { s with ops := s.ops.filter (fun p => !isOp o.ctx o.idx p) } o.ctx
    (Ctx.released (slotsBack o))) o.ctx o.idx) o.ctx o.idx

/-- Where BUSY is 0, no reset waits. -/
theorem finishReset_still {s : State} (hb : getA s Reg.ctxCtrl_busy = 0) : finishReset s = s := by
  unfold finishReset
  dsimp only
  exact if_neg (fun a => by rw [hb] at a; exact absurd a.1 (by decide))

theorem removeOp_eq {s : State} (o : Op) (hb : getA s Reg.ctxCtrl_busy = 0) :
    removeOp s o = noteIdle (opTaken s o) o.ctx := by
  have hb' : getA (opTaken s o) Reg.ctxCtrl_busy = 0 := hb
  show noteIdle (finishReset (opTaken s o)) o.ctx = _
  rw [finishReset_still hb']

/-- Without a reset that waits, a removal leaves the contexts but for the slots given back. -/
theorem removeOp_ctxs {s : State} (o : Op) (hb : getA s Reg.ctxCtrl_busy = 0) :
    (removeOp s o).rings.ctxs = (updCtx s o.ctx (Ctx.released (slotsBack o))).rings.ctxs := by
  rw [removeOp_eq o hb, noteIdle_ctxs]
  rfl

/-- Without a reset that waits, a removal changes the operations, their work on Cells, skid entries and the ring engine. -/
theorem removeOp_frame {s : State} (o : Op) (hb : getA s Reg.ctxCtrl_busy = 0) :
    removeOp s o = { s with ops := (removeOp s o).ops, cells := (removeOp s o).cells, skid := (removeOp s o).skid
                            skidQ := (removeOp s o).skidQ, rings := (removeOp s o).rings } := by
  rw [removeOp_eq o hb, noteIdle_frame]
  rfl

/-- The end of a NOP or TICK_WAIT with DONE: its entry, its signal, its slots, and nothing else. -/
theorem descriptorEnd_idle {s : State} {c i : Nat} {x : Ctx} {o : Op} {e : OpEnd} (hx : findCtx s c = some x)
    (ho : findOp s c i = some o) (he : o.ended = some e) (hr : endReady s o e = true) (hwait : opWaits s o = false)
    (h : isIdleOp o.d) (hst : e.status = .done) (hd : dTag o.d = 0) (hw : o.work = .none) (hws : o.writes = [])
    (hs : o.side = sideNone) :
    exec (.descriptorEnd c i .ok) s = .next (removeOp (completeWith s c i o.d e) o) := by
  obtain ⟨rfl, rfl⟩ := findOp_place ho
  have hm : mendOp s o = s := by simp [mendOp, heldBind, hw]
  rw [exec_descriptorEnd .ok ho he hr hwait, hm, ite_self, ho]
  exact congrArg _ (endNow_idle s h hst hd hw hws hs)

end Sys2Proof.Machine
end

section
/-!
SUPPORT. The end of ring service (R73): every context is spilled and every entry of the overflow queue written back.
-/

namespace Sys2Proof.Machine

/-- `t` is `s` but for host memory, the ring engine, notices and copy 0 of the registers. -/
def Drained (s t : State) : Prop := t = { s with hostMem := t.hostMem, rings := t.rings, cross := t.cross, regs := t.regs }

theorem Drained.trans {s t u : State} (h : Drained s t) (k : Drained t u) : Drained s u := by
  unfold Drained at *
  rw [k, h]

theorem HostRings.drained {s t : State} (h : HostRings s t) : Drained s t := by
  unfold HostRings at h
  unfold Drained
  rw [h]

/-- A fold changes what each of its steps changes. -/
theorem foldl_drained {β : Type} {f : State → β → State} (hf : ∀ t b, Drained t (f t b)) (l : List β) (s : State) :
    Drained s (l.foldl f s) := by
  induction l generalizing s with
  | nil => rfl
  | cons b l ih => exact (hf s b).trans (ih _)

/-- No context is tracked where none is found. -/
theorem ctxs_eq_nil {s : State} (h : ∀ k, findCtx s k = none) : s.rings.ctxs = [] := by
  refine List.eq_nil_iff_forall_not_mem.mpr fun x hx => ?_
  have hn := List.find?_eq_none.mp (h x.num) x hx
  simp at hn

/-! ### Loads that end -/

/-- The end of a load changes host memory, the ring engine, notices and a count. -/
theorem finishLoad_frame (s : State) (c : Nat) (ts : List Nat) : Drained s (finishLoad s c ts) := by
  cases h : hostPartOk s c with
  | false =>
    rw [finishLoad_refused ts h]
    unfold Drained refuseLoad
    rw [countA_dbIgnored_regsOnly]
  | true =>
    by_cases hd : devicePartZero s c = true ∨ checkOk s c = true
    · rw [finishLoad_taken ts h hd]
      exact (HostRings.trans (t := trackCtx s (savedCtx s c)) rfl (takeTails_frame _ c ts)).drained
    · obtain ⟨hz, hk⟩ : devicePartZero s c = false ∧ checkOk s c = false := by simpa using hd
      rw [finishLoad_fresh ts h hz hk]
      exact (HostRings.trans (t := trackCtx s (freshCtx s c)) rfl (writeEntry_frame _ c _)).drained

/-- The end of a load leaves every other context. -/
theorem findCtx_finishLoad_other (s : State) {c k : Nat} (ts : List Nat) (hk : k ≠ c) :
    findCtx (finishLoad s c ts) k = findCtx s k := by
  cases h : hostPartOk s c with
  | false =>
    rw [finishLoad_refused ts h]
    exact find?_without_other _ hk
  | true =>
    by_cases hd : devicePartZero s c = true ∨ checkOk s c = true
    · rw [finishLoad_taken ts h hd, findCtx_takeTails_other _ _ hk]
      exact findCtx_trackCtx_other s hk
    · obtain ⟨hz, hz'⟩ : devicePartZero s c = false ∧ checkOk s c = false := by simpa using hd
      rw [finishLoad_fresh ts h hz hz', findCtx_writeEntry_other _ _ hk]
      exact findCtx_trackCtx_other s hk

/-! ### The drain -/

/-- A context that the drain spills, or whose load was refused, is not tracked. -/
theorem findCtx_drainSpill_same (s : State) (x : Ctx) : findCtx (drainSpill s x) x.num = none := by
  unfold drainSpill
  split
  · dsimp only
    cases h : findCtx (finishLoad s x.num x.tails) x.num with
    | none => exact h
    | some y => exact findCtx_num h ▸ findCtx_spillOut_same _ y 1
  · exact findCtx_spillOut_same s x 1

/-- The drain of a context leaves every other. -/
theorem findCtx_drainSpill_other (s : State) {x : Ctx} {k : Nat} (hk : k ≠ x.num) :
    findCtx (drainSpill s x) k = findCtx s k := by
  unfold drainSpill
  split
  · dsimp only
    have hl := findCtx_finishLoad_other s x.tails hk
    cases h : findCtx (finishLoad s x.num x.tails) x.num with
    | none => exact hl
    | some y => exact (findCtx_spillOut_other _ 1 (findCtx_num h ▸ hk)).trans hl
  · exact findCtx_spillOut_other s 1 hk

theorem spillOut_drained (s : State) (x : Ctx) (how : Nat) : Drained s (spillOut s x how) := by
  unfold Drained
  rw [spillOut_frame]

theorem drainSpill_frame (s : State) (x : Ctx) : Drained s (drainSpill s x) := by
  unfold drainSpill
  split
  · dsimp only
    have hl := finishLoad_frame s x.num x.tails
    split
    · exact hl.trans (spillOut_drained _ _ 1)
    · exact hl
  · exact spillOut_drained s x 1

/-- Once the drain has spilled every context of a list, only the others are found. -/
theorem findCtx_drained (l : List Ctx) (s : State) (k : Nat) :
    findCtx (l.foldl drainSpill s) k = if k ∈ l.map (fun x => x.num) then none else findCtx s k := by
  induction l generalizing s with
  | nil => rfl
  | cons x l ih =>
    rw [List.foldl_cons, ih, List.map_cons]
    by_cases hk : k = x.num
    · subst hk
      simp [findCtx_drainSpill_same]
    · simp [findCtx_drainSpill_other s hk, hk]

/-- An entry of the overflow queue that has been written back leaves no context of its number. -/
theorem findCtx_writeBack_same (s : State) (c : Nat) (ts : List Nat) : findCtx (writeBack s c ts) c = none := by
  unfold writeBack
  dsimp only
  cases h : findCtx (finishLoad s c ts) c with
  | none => exact h
  | some y => exact find?_without_same _ c

/-- An entry written back leaves every other context. -/
theorem findCtx_writeBack_other (s : State) {c k : Nat} (ts : List Nat) (hk : k ≠ c) :
    findCtx (writeBack s c ts) k = findCtx s k := by
  have hl := findCtx_finishLoad_other s ts hk
  unfold writeBack
  dsimp only
  cases h : findCtx (finishLoad s c ts) c with
  | none => exact hl
  | some y => 
    refine (find?_without_other _ hk).trans ?_
    rw [writeSave_frame]
    exact hl

theorem writeBack_frame (s : State) (c : Nat) (ts : List Nat) : Drained s (writeBack s c ts) := by
  have hl := finishLoad_frame s c ts
  unfold writeBack
  dsimp only
  split
  · refine hl.trans ?_
    unfold Drained
    rw [writeSave_frame]
  · exact hl

/-- Entries written back leave no context where none was tracked. -/
theorem findCtx_writtenBack (l : List OvqEntry) (s : State) (h : ∀ k, findCtx s k = none) (k : Nat) :
    findCtx (l.foldl (fun t e => writeBack t e.ctx [e.tail]) s) k = none := by
  induction l generalizing s with
  | nil => exact h k
  | cons e l ih =>
    refine ih _ fun j => ?_
    by_cases hj : j = e.ctx
    · exact hj ▸ findCtx_writeBack_same s e.ctx _
    · exact (findCtx_writeBack_other s _ hj).trans (h j)

/-- The state in which every context is spilled and every entry written back. -/
def drained (s : State) : State :=
  (s.rings.ctxs.foldl drainSpill s).rings.ovq.foldl (fun t e => writeBack t e.ctx [e.tail])
    (s.rings.ctxs.foldl drainSpill s)

/-- The drained state with its queues cleared. -/
def drainedIdle (s : State) : State :=
  { drained s with rings := { (drained s).rings with ovq := [], idled := [] } }

theorem drained_ctxs (s : State) : (drained s).rings.ctxs = [] := by
  refine ctxs_eq_nil (findCtx_writtenBack _ _ fun k => ?_)
  rw [findCtx_drained]
  split
  · rfl
  · next h =>
    refine List.find?_eq_none.mpr fun x hx e => h (List.mem_map.mpr ⟨x, hx, ?_⟩)
    simpa using e

theorem drained_frame (s : State) : Drained s (drained s) := by
  have hspill := foldl_drained drainSpill_frame s.rings.ctxs s
  have hback := foldl_drained (f := fun t (e : OvqEntry) => writeBack t e.ctx [e.tail])
    (fun t e => writeBack_frame t e.ctx [e.tail]) (s.rings.ctxs.foldl drainSpill s).rings.ovq
    (s.rings.ctxs.foldl drainSpill s)
  exact hspill.trans hback

theorem drained_canonical {s : State} (h : s.canonical = true) : (drained s).canonical = true :=
  (foldl_kept _ _ _ (foldl_kept _ _ _ (.refl s) fun _ _ => drainSpill_kept _ _)
    fun _ _ => writeBack_kept _ _ _).canonical h

/-- The drain ends where no operation is left. -/
theorem exec_ringDrainEnd {s : State} (hd : getA s Reg.ringCtrl_draining = 1) (ho : s.ops = []) :
    exec .ringDrainEnd s = .next (setA (drainedIdle s) Reg.ringCtrl_draining 0) := by
  have h : getA s Reg.ringCtrl_draining = 1 ∧ s.ops.isEmpty := ⟨hd, by rw [ho]; rfl⟩
  show Host.Outcome.next (if getA s Reg.ringCtrl_draining = 1 ∧ s.ops.isEmpty then
      setA (drainedIdle s) Reg.ringCtrl_draining 0 else s) = _
  rw [if_pos h]

/-- Once the drain has ended, DRAINING reads 0 and the ring engine tracks and queues nothing. -/
theorem ringDrainEnd_spec {s : State} (hc : s.canonical = true) (hd : getA s Reg.ringCtrl_draining = 1) (ho : s.ops = []) :
    ∃ u, exec .ringDrainEnd s = .next u ∧ getA u Reg.ringCtrl_draining = 0 ∧ u.rings.ovq = [] ∧ u.rings.ctxs = [] ∧
      u = { s with hostMem := u.hostMem, rings := u.rings, cross := u.cross
                   regs := u.regs, regs1 := u.regs1, regs2 := u.regs2 } := by
  have hcanon : (drainedIdle s).canonical = true := drained_canonical hc
  have hctxs : (drainedIdle s).rings.ctxs = [] := drained_ctxs s
  have hovq : (drainedIdle s).rings.ovq = [] := rfl
  have hframe : Drained s (drainedIdle s) := (drained_frame s).trans rfl
  have hexec := exec_ringDrainEnd hd ho
  generalize drainedIdle s = t at *
  have hset : RegsOnly t (setA t Reg.ringCtrl_draining 0) :=
    setF_regsOnly t landABase (f := Reg.ringCtrl_draining) 0 0 (by decide)
  refine ⟨_, hexec, getF_setF_same t landABase _ 0 0 hcanon (by decide) (by decide), ?_, ?_, ?_⟩
  · rw [hset]
    exact hovq
  · rw [hset]
    exact hctxs
  · rw [hset, hframe]

/-! ### The statement, part by part -/

/-- The end of a NOP or TICK_WAIT with DONE, read off field by field. -/
theorem descriptorEnd_idle_spec {s : State} {c i : Nat} {x : Ctx} {o : Op} {e : OpEnd} (hc : s.canonical = true)
    (hx : findCtx s c = some x) (ho : findOp s c i = some o) (he : o.ended = some e) (hst : e.status = .done)
    (h : isIdleOp o.d) (hd : dTag o.d = 0) (hw : o.work = .none) (hws : o.writes = []) (hs : o.side = sideNone)
    (hr : endReady s o e = true) (hwait : opWaits s o = false) (hb : getA s Reg.ctxCtrl_busy = 0) :
    ∃ u, exec (.descriptorEnd c i .ok) s = .next u ∧ u.ops = s.ops.filter (fun p => !isOp c i p) ∧
      findCtx u c = some { x with cqTail := (x.cqTail + 1) % 2 ^ 32, lastUse := s.rings.useClock + 1
                                  reserved := x.reserved - ((if dElastic o.d then 2 else 1) - (if o.everParked then 1 else 0)) } ∧
      (∀ k, k ≠ c → findCtx u k = findCtx s k) ∧
      u.hostMem = memWriteAll s.hostMem (bytesWrites (x.cqBase + (x.cqTail % 2 ^ x.cqOrder) * 32)
        (entryBytes s x ⟨i, .done, true, dSignal o.d, false, 0, e.detail, dNotify o.d⟩)) ∧
      (∀ n, semGet u n = if dSignal o.d = true ∧ n = dSignalId o.d then (semGet s n + dSignalValue o.d) % 2 ^ 64
        else semGet s n) ∧
      u = { s with hostMem := u.hostMem, sems := u.sems, rings := u.rings, ops := u.ops, cross := u.cross
                   cells := u.cells, skid := u.skid, skidQ := u.skidQ } := by
  have hexec := descriptorEnd_idle hx ho he hr hwait h hst hd hw hws hs
  obtain ⟨rfl, rfl⟩ := findOp_place ho
  have hsig : descSignals o.d .done = dSignal o.d := by simp [descSignals, statusSignals]
  have hentry : finalEntry o.idx o.d e = ⟨o.idx, .done, true, dSignal o.d, false, 0, e.detail, dNotify o.d⟩ := by
    simp [finalEntry, hst, hsig, hd, statusHalts]
  have hframe := completeWith_frame s o.ctx o.idx o.d e
  have hsame := findCtx_completeWith_same o.idx o.d e hx
  have hmem := completeWith_hostMem o.idx o.d e hx
  have hsem := fun n => semGet_completeWith o.ctx o.idx o.d e n hc
  have hother := fun k hk => findCtx_completeWith_other s (c := o.ctx) (k := k) o.idx o.d e hk
  rw [hentry] at hsame hmem
  rw [hst, hsig] at hsem
  generalize completeWith s o.ctx o.idx o.d e = t at *
  have hbusy : getA t Reg.ctxCtrl_busy = 0 := by
    rw [hframe]
    exact hb
  have hctxs := removeOp_ctxs o hbusy
  have hrem := removeOp_frame o hbusy
  have hops := removeOp_ops t o
  refine ⟨_, hexec, ?_, ?_, fun k hk => ?_, ?_, fun n => ?_, ?_⟩
  · rw [hops, hframe]
  · rw [findCtx_congr hctxs, findCtx_updCtx_same t o.ctx (Ctx.released (slotsBack o)) hsame (fun _ => rfl)]
    simp [Ctx.released, Ctx.usedAt, Ctx.afterEntry, slotsBack, slotsNeeded, nat01]
  · rw [findCtx_congr hctxs, findCtx_updCtx_other t (Ctx.released (slotsBack o)) hk (fun _ => rfl), hother k hk]
  · rw [hrem]
    exact hmem
  · rw [hrem]
    exact hsem n
  · generalize removeOp t o = u at *
    rw [hrem, hframe]

/-- Settles O11: a descriptor begins, a NOP ends, an operation leaves, a gap expires and the drain ends as shown above. -/
theorem descriptorBeginAndEnd : Obligations.DescriptorBeginAndEnd := by
  refine ⟨?begin, ?split, ?nop, ?gone, ?idle, ?gap, ?drain⟩
  case begin =>
    intro s c x h hx he hp hs hsplit hclass hstamp hlevel hn
    obtain rfl : x.num = c := findCtx_num hx
    have hexec := exec_descriptorBegin hx he hp hs
    rw [beginHeld_plain hsplit hlevel hclass hstamp hn] at hexec
    cases ht : tallyFound s h.d with
    | true =>
      rw [ht, if_pos rfl] at hexec
      exact ⟨_, hexec, findCtx_begunState_same _ _ hx, fun k hk => findCtx_begunState_other s _ _ hk, rfl,
        fun _ => rfl, fun a => absurd a (by decide)⟩
    | false =>
      rw [ht, if_neg (by decide)] at hexec
      exact ⟨_, hexec, findCtx_begunState_same _ _ hx, fun k hk => findCtx_begunState_other s _ _ hk, rfl,
        fun a => absurd a (by decide), fun _ => rfl⟩
  case split =>
    intro s c n x h hx he hp hs hsplit hn
    obtain rfl : x.num = c := findCtx_num hx
    have hexec := exec_descriptorBegin hx he hp hs
    rw [beginHeld_split hsplit hn] at hexec
    exact ⟨_, hexec, rfl, findCtx_begunState_same _ _ hx, rfl⟩
  case nop =>
    intro s c i o ho
    obtain ⟨hfound, _, _, _⟩ := runningOp_some ho
    exact ⟨_, congrArg Host.Outcome.next (onOp_running _ ho), findOp_endOp_same s c i _ hfound,
      fun c' i' h => findOp_endOp_other s _ h, rfl⟩
  case gone => exact fun s c i o e ecc ho he hr hw => descriptorEnd_gone ecc ho he hr hw
  case idle => exact fun s c i x o e hc hx ho he hst h hd hw hws hs hr hwait hb =>
    descriptorEnd_idle_spec hc hx ho he hst h hd hw hws hs hr hwait hb
  case gap =>
    intro s v hm hg
    have hended : gapEnded s v = true := by
      unfold gapEnded
      split
      · next p hp => simpa [timeCome] using hg p hp
      · rfl
    exact congrArg Host.Outcome.next (if_pos (by rw [hm, hended]; rfl))
  case drain => exact fun s hc hd ho => ringDrainEnd_spec hc hd ho

end Sys2Proof.Machine
end

section
/-!
SUPPORT. TICK_WAIT and TIME_STAMP (R155, R354, R362, R363): little-endian bytes, and the writes of a stamp.
-/

namespace Sys2Proof.Machine

/-! ### Little-endian bytes -/

@[simp] theorem length_leBytes (n v : Nat) : (leBytes n v).length = n := by
  induction n generalizing v with
  | zero => rfl
  | succ n ih => simp [leBytes, ih]

/-- Little-endian bytes read back as the value, cut to their width. -/
@[simp] theorem leNat_leBytes (n v : Nat) : leNat (leBytes n v) = v % 2 ^ (8 * n) := by
  induction n generalizing v with
  | zero => simp [leBytes, leNat, Nat.mod_one]
  | succ n ih =>
    have hp : 2 ^ (8 * (n + 1)) = 256 * 2 ^ (8 * n) := by rw [Nat.mul_succ, Nat.pow_add, Nat.mul_comm]
    rw [leBytes, leNat, ih, hp, Nat.mod_mul]
    simp

/-! ### The operation of a command -/

/-- An operation that runs has not ended, and no second run of it waits. -/
theorem opRuns_iff {o : Op} : opRuns o = true ↔ o.ended = none ∧ o.parked = false ∧ o.run = 1 := by
  simp [opRuns, and_assoc]

/-- The work of the first run of a level-2 operation is complete: a second run is due. -/
theorem findOp_finishOp_second {s : State} {c i : Nat} {o : Op} (h : findOp s c i = some o) (hc : checkLevel o.d = 2)
    (hr : o.run = 1) : findOp (finishOp s c i) c i = some { o with run := 2 } := by
  refine (findOp_updOp_same s c i _ h (fun p => by split <;> exact ⟨rfl, rfl⟩)).trans ?_
  simp [hc, hr]

/-! ### TIME_STAMP -/

/-- The parts of a stamp, each at its offset. -/
theorem stampBytes_parts (s : State) :
    (stampBytes s).length = 32 ∧ leNat ((stampBytes s).take 8) = s.time.tai % 2 ^ 64 ∧
      leNat (((stampBytes s).drop 8).take 8) = tickNow s % 2 ^ 64 ∧
      leNat (((stampBytes s).drop 16).take 4) = timeStatusWord s % 2 ^ 32 ∧
      leNat (((stampBytes s).drop 20).take 4) = holdoverSec s % 2 ^ 32 ∧ leNat ((stampBytes s).drop 24) = 0 := by
  have hdrop : ∀ n v k, n ≤ k → (leBytes n v).drop k = [] := fun n v k h => List.drop_of_length_le (by simpa using h)
  simp [stampBytes, List.drop_append, hdrop]

/-- The region of a TIME_STAMP's 32 bytes. -/
def stampRegion (d : Desc) : Region := ⟨dfld d 0x30 41 0, 0, 1, 32⟩

/-- What a running TIME_STAMP does with the bytes that it took. -/
theorem exec_timeStamp {s : State} {c i : Nat} {o : Op} {bs : List Byte} (ho : runningOp s c i 0x0F11 = some o)
    (hw : o.work = .stamp bs) :
    exec (.timeStamp c i) s = .next (match accessFault s [stampRegion o.d] with
      | some e => ctxFault s c i e.1 e.2
      | none => faultOr s c i (outFault s o.d [stampRegion o.d])
          (finishOp (holdTrain s (wrMem s (bytesWrites (dfld o.d 0x30 41 0) bs)) c i) c i)) := by
  refine congrArg Host.Outcome.next ((onOp_running _ ho).trans ?_)
  dsimp only
  rw [hw]
  rfl

/-- A TIME_STAMP without an access fault writes its bytes, training state held, and its work is complete. -/
theorem exec_timeStamp_written {s : State} {c i : Nat} {o : Op} {bs : List Byte} (ho : runningOp s c i 0x0F11 = some o)
    (hw : o.work = .stamp bs) (ha : accessFault s [stampRegion o.d] = none) (hf : outFault s o.d [stampRegion o.d] = none) :
    exec (.timeStamp c i) s =
      .next (finishOp (holdTrain s (wrMem s (bytesWrites (dfld o.d 0x30 41 0) bs)) c i) c i) := by
  rw [exec_timeStamp ho hw, ha, hf]
  rfl

/-- What a stamp that is written leaves: the operation's end, its bytes, and nothing else. -/
theorem timeStamp_written {s : State} {c i : Nat} {o : Op} {bs : List Byte} (hm : memWf s.mem = true)
    (ho : runningOp s c i 0x0F11 = some o) (hlen : bs.length = 32) (a : Nat) :
    let u := finishOp (holdTrain s (wrMem s (bytesWrites a bs)) c i) c i
    (checkLevel o.d ≠ 2 → (findOp u c i).map (fun p => p.ended) = some (some (normalEnd o))) ∧
      (checkLevel o.d = 2 → (findOp u c i).map (fun p => (p.run, p.ended)) = some (2, none)) ∧
      (∀ c' i', ¬ (c' = c ∧ i' = i) → findOp u c' i' = findOp s c' i') ∧
      (∀ k, k < 32 → memRead u.mem (a + k) =
        if (trainRegions s).any (fun r => inRegion r (a + k)) then memRead s.mem (a + k) else bs.getD k 0) ∧
      (∀ b, b < a ∨ a + 32 ≤ b → memRead u.mem b = memRead s.mem b) ∧
      u = { s with mem := u.mem, hbm := { s.hbm with poison := u.hbm.poison }, ops := u.ops } := by
  obtain ⟨hfound, hruns, _, _⟩ := runningOp_some ho
  obtain ⟨hend, _, hrun⟩ := opRuns_iff.mp hruns
  have hwf : memWf (wrMem s (bytesWrites a bs)).mem = true := memWriteAll_wf _ _ hm
  obtain ⟨ws, hheld⟩ := findOp_holdTrain_same (s := s) (t := wrMem s (bytesWrites a bs)) (c := c) (i := i) hfound
  refine ⟨fun hl => ?_, fun hl => ?_, fun c' i' h => ?_, fun k hk => ?_, fun b hb => ?_, ?_⟩
  · rw [findOp_finishOp_same hheld hl]
    rfl
  · rw [findOp_finishOp_second hheld hl hrun]
    exact congrArg (fun e => some (2, e)) hend
  · rw [findOp_finishOp_other h, findOp_holdTrain_other h]
    rfl
  · rw [finishOp_mem, memRead_holdTrain c i (a + k) hwf]
    exact congrArg _ (memRead_bytesWrites_in hm (hlen ▸ hk))
  · rw [finishOp_mem, memRead_holdTrain c i b hwf]
    exact (congrArg _ (memRead_bytesWrites_out hm (hlen ▸ hb))).trans (ite_self _)
  · rw [finishOp, updOp, holdTrain_frame]
    rfl

/-- A TIME_STAMP that begins with its record open takes its bytes then. -/
theorem beginHeld_stamp {s : State} {x : Ctx} {h : Held} (hs : splitRecord s = none) (hl : checkLevel h.d ≠ 2)
    (hc : dOpcode h.d = 0x0F11) (ht : tallyFound s h.d = true) (hn : findOp s x.num h.idx = none) :
    beginHeld s x h = begunState s x.num h.d { newOp s x.num h with work := .stamp (stampBytes s) } := by
  have hwork : beginWork (begunState s x.num h.d (newOp s x.num h)) x.num h.idx h.d =
      begunState s x.num h.d { newOp s x.num h with work := .stamp (stampBytes s) } := by
    unfold beginWork
    simp only [hc]
    exact updOp_begunState h.d (fun p => { p with work := .stamp (stampBytes s) }) hn (isOp_newOp s x.num h)
  have hfound := findOp_begunState (o := { newOp s x.num h with work := .stamp (stampBytes s) }) h.d hn
    (isOp_newOp s x.num h)
  rw [beginHeld_free hs hl, hwork, tallyBegun_running hfound rfl rfl]
  exact if_pos ht

/-- Settles O14: TICK_WAIT compares its tick, TIME_STAMP takes its bytes as it begins and writes them as it runs. -/
theorem tickWaitAndTimeStamp : Obligations.TickWaitAndTimeStamp := by
  refine ⟨?wait, stampBytes_parts, ?begin, ?written, ?faulty⟩
  case wait =>
    intro s c i o ho k
    obtain ⟨hfound, _, _, _⟩ := runningOp_some ho
    have hexec : exec (.tickWait c i) s =
        .next (if getA s Reg.tickCtrl_run = 1 ∧ k ≤ tickNow s then endOp s c i ⟨.done, 0⟩ else s) :=
      congrArg Host.Outcome.next (onOp_running _ ho)
    refine ⟨fun hr hk => ?_, fun h => ?_⟩
    · rw [if_pos ⟨hr, hk⟩] at hexec
      exact ⟨_, hexec, findOp_endOp_same s c i _ hfound, fun c' i' h => findOp_endOp_other s _ h, rfl⟩
    · rw [hexec, if_neg (by omega)]
  case begin =>
    intro s c x h hx he hp hs hsplit hc ht hn hl
    obtain rfl : x.num = c := findCtx_num hx
    have hexec := exec_descriptorBegin hx he hp hs
    rw [beginHeld_stamp hsplit hl hc ht hn] at hexec
    exact ⟨_, hexec, rfl, findCtx_begunState_same _ _ hx, rfl⟩
  case written =>
    intro s c i o bs hm ho hw hlen a ha hf
    exact ⟨_, exec_timeStamp_written ho hw ha hf, timeStamp_written hm ho hlen a⟩
  case faulty =>
    intro s c i o bs ho hw e he
    have he' : accessFault s [stampRegion o.d] = some e := he
    rw [exec_timeStamp ho hw, he']

end Sys2Proof.Machine
end

section
/-!
SUPPORT. The rows that are a write of one register of Landing A (R73, R74, R104, R138, R528).
-/

namespace Sys2Proof.Machine

/-! ### Disturbances leave posted writes alone -/

/-- A fold of steps that each leave the posted writes alone does so. -/
theorem foldl_posted {β : Type} {f : State → β → State} (hf : ∀ t x, (f t x).posted = t.posted) (l : List β) (s : State) :
    (l.foldl f s).posted = s.posted := by
  induction l generalizing s with
  | nil => rfl
  | cons x l ih => exact (ih _).trans (hf s x)

/-- What changes registers only leaves the posted writes alone. -/
theorem RegsOnly.posted {s t : State} (h : RegsOnly s t) : t.posted = s.posted :=
  Eq.trans (congrArg State.posted (show t = { s with regs := t.regs } from h)) rfl

@[simp] theorem event_posted (s : State) (base src n : Nat) : (event s base src n).posted = s.posted :=
  (event_regsOnly s base src n).posted

@[simp] theorem setA_posted (s : State) (f : Fld) (v : Nat) : (setA s f v).posted = s.posted := by simp [setA]

theorem queueRun_posted (s : State) (o : Op) (x : Tile) : (queueRun s o x).posted = s.posted := by
  unfold queueRun
  dsimp only
  split <;> rfl

theorem dropTile_posted (s : State) (o : Op) (x : Tile) (brake : Bool) : (dropTile s o x brake).posted = s.posted := by
  unfold dropTile
  dsimp only
  split
  · rfl
  · rw [event_posted, countF_posted, queueRun_posted]
    show (if _ then _ else _ : State).posted = _
    split
    · exact event_posted _ _ _ _
    · rfl

theorem dropTiles_posted (s : State) (cell : Nat) (brake : Bool) : (dropTiles s cell brake).posted = s.posted :=
  foldl_posted (fun t o => foldl_posted (fun u x => by split <;> simp [dropTile_posted]) _ t) _ s

theorem truDropTiles_posted (s : State) (cell : Nat) (brake : Bool) (o : Op) :
    (truDropTiles s cell brake o).posted = s.posted := by
  unfold truDropTiles
  dsimp only
  split
  · rw [event_posted, countF_posted]
    rfl
  · rfl

theorem disturbSeed_posted (s : State) : (disturbSeed s).posted = s.posted :=
  foldl_posted (fun t c => (foldl_posted (fun u o => truDropTiles_posted u c false o) _ _).trans (dropTiles_posted t c false)) _ s

theorem disturbReshard_posted (s : State) (brake : Bool) : (disturbReshard s brake).posted = s.posted := by
  unfold disturbReshard
  split
  · rfl
  · exact foldl_posted (f := fun t k => sendPiece t _ k) (fun _ _ => rfl) _ _

@[simp] theorem disturbLanding_posted (s : State) (brake : Bool) : (disturbLanding s brake).posted = s.posted :=
  disturbReshard_posted (disturbCollectives s brake) brake

/-- No posted write waits where a block takes writes. -/
theorem State.takesWrites_posted {s : State} {b : Blk} (h : s.takesWrites b = true) : s.posted = [] := by
  simp only [State.takesWrites, Bool.and_eq_true, List.isEmpty_iff] at h
  exact h.2

/-! ### The words -/

/-- The fields of CTX_CTRL. -/
theorem wordVals_ctxCtrl (data : Nat) : wordVals .landA 0x1010 data =
    [⟨Reg.ctxCtrl_context, 0, bits data 12 0⟩, ⟨Reg.ctxCtrl_action, 0, bits data 14 13⟩,
      ⟨Reg.ctxCtrl_busy, 0, bits data 31 31⟩] := by
  have h : fldsAt .landA 0x1010 = [Reg.ctxCtrl_context, Reg.ctxCtrl_action, Reg.ctxCtrl_busy] := by decide
  rw [wordVals, h]
  rfl

/-- The fields of RING_CTRL. -/
theorem wordVals_ringCtrl (data : Nat) : wordVals .landA 0x100C data =
    [⟨Reg.ringCtrl_enable, 0, bits data 0 0⟩, ⟨Reg.ringCtrl_draining, 0, bits data 1 1⟩] := by
  have h : fldsAt .landA 0x100C = [Reg.ringCtrl_enable, Reg.ringCtrl_draining] := by decide
  rw [wordVals, h]
  rfl

/-- The low word of JOB_SEED. -/
theorem wordVals_jobSeedLo (data : Nat) : wordVals .landA 0x1100 data = [⟨Reg.jobSeed_seedLo, 0, bits data 31 0⟩] := by
  have h : fldsAt .landA 0x1100 = [Reg.jobSeed_seedLo] := by decide
  rw [wordVals, h]
  rfl

/-- The high word of JOB_SEED. -/
theorem wordVals_jobSeedHi (data : Nat) : wordVals .landA 0x1104 data = [⟨Reg.jobSeed_seedHi, 0, bits data 31 0⟩] := by
  have h : fldsAt .landA 0x1104 = [Reg.jobSeed_seedHi] := by decide
  rw [wordVals, h]
  rfl

/-- The fields of SCL_CTRL. -/
theorem wordVals_sclCtrl (data : Nat) : wordVals .landA 0x1208 data =
    [⟨Reg.sclCtrl_count, 0, bits data 9 0⟩, ⟨Reg.sclCtrl_errEntry, 0, bits data 19 10⟩,
      ⟨Reg.sclCtrl_err, 0, bits data 30 30⟩, ⟨Reg.sclCtrl_enable, 0, bits data 31 31⟩] := by
  have h : fldsAt .landA 0x1208 = [Reg.sclCtrl_count, Reg.sclCtrl_errEntry, Reg.sclCtrl_err, Reg.sclCtrl_enable] := by
    decide
  rw [wordVals, h]
  rfl

/-! ### What the values do -/

/-- CTX_CTRL stores its context and its action, and starts the action. -/
theorem applyVals_ctxCtrl (s : State) (c a b : Nat) :
    applyVals false s .landA [⟨Reg.ctxCtrl_context, 0, c⟩, ⟨Reg.ctxCtrl_action, 0, a⟩, ⟨Reg.ctxCtrl_busy, 0, b⟩] =
      disturbLanding (ctxAction (setA (setA s Reg.ctxCtrl_context c) Reg.ctxCtrl_action a) a) false := by
  rfl

/-- RING_CTRL with ENABLE 0 ends ring service. -/
theorem applyVals_ringDisable (s : State) (b : Nat) :
    applyVals false s .landA [⟨Reg.ringCtrl_enable, 0, 0⟩, ⟨Reg.ringCtrl_draining, 0, b⟩] =
      disturbLanding (ringDisable s) false := by
  rfl

/-- Both words of JOB_SEED apply. -/
theorem applyVals_jobSeed (s : State) (lo hi : Nat) :
    applyVals false s .landA [⟨Reg.jobSeed_seedLo, 0, lo⟩, ⟨Reg.jobSeed_seedHi, 0, hi⟩] =
      disturbLanding (disturbSeed (setA (setA s Reg.jobSeed_seedLo lo) Reg.jobSeed_seedHi hi)) false := by
  have hlo : ∀ t, fieldEffect false s .landA t ⟨Reg.jobSeed_seedLo, 0, lo⟩ = t := fun _ => rfl
  have hhi : ∀ t, fieldEffect false s .landA t ⟨Reg.jobSeed_seedHi, 0, hi⟩ = disturbSeed t := fun t => by
    simp only [fieldEffect, if_true]
  have hput : putVals false s .landA [⟨Reg.jobSeed_seedLo, 0, lo⟩, ⟨Reg.jobSeed_seedHi, 0, hi⟩] =
      disturbSeed (setA (setA s Reg.jobSeed_seedLo lo) Reg.jobSeed_seedHi hi) := by
    have htaken : [(⟨Reg.jobSeed_seedLo, 0, lo⟩ : FldVal), ⟨Reg.jobSeed_seedHi, 0, hi⟩].filter (valTaken s .landA) =
        [⟨Reg.jobSeed_seedLo, 0, lo⟩, ⟨Reg.jobSeed_seedHi, 0, hi⟩] := rfl
    have hrefused : [(⟨Reg.jobSeed_seedLo, 0, lo⟩ : FldVal), ⟨Reg.jobSeed_seedHi, 0, hi⟩].filter
        (fun x => x.f.acc != .ro && !fieldTakes s .landA x) = [] := rfl
    simp only [putVals, htaken, hrefused, List.foldl, hlo, hhi]
    exact congrArg disturbSeed rfl
  have ht : writeTaken s .landA [⟨Reg.jobSeed_seedLo, 0, lo⟩, ⟨Reg.jobSeed_seedHi, 0, hi⟩] = true := rfl
  rw [applyVals, hput, if_pos ht]
  exact congrArg (disturbLanding · false) rfl

/-- SCL_CTRL with ENABLE 1 stores its count and checks the entries. -/
theorem applyVals_sclCtrl (s : State) (n e r : Nat) :
    applyVals false s .landA [⟨Reg.sclCtrl_count, 0, n⟩, ⟨Reg.sclCtrl_errEntry, 0, e⟩, ⟨Reg.sclCtrl_err, 0, r⟩,
        ⟨Reg.sclCtrl_enable, 0, 1⟩] =
      disturbLanding (sclCheck (setA s Reg.sclCtrl_count n) (poisonedEntries (setA s Reg.sclCtrl_count n)
        (getA2 (setA s Reg.sclCtrl_count n) Reg.sclBase_baseLo Reg.sclBase_baseHi) 128
        (sclCount (setA s Reg.sclCtrl_count n)))) false := by
  rfl

end Sys2Proof.Machine
end

section
/-!
SUPPORT. The CTX_CTRL actions (R74), the end of ring service (R73), the job seed (R104) and the Scaler table (R138) as
register writes.
-/

namespace Sys2Proof.Machine

/-! ### The rows -/

/-- The state in which an action of CTX_CTRL starts: the word holds its context and its action. -/
def ctxWritten (s : State) (c a : Nat) : State := setA (setA s Reg.ctxCtrl_context c) Reg.ctxCtrl_action a

/-- A row that writes CTX_CTRL starts its action. -/
theorem rowWrite_ctxCtrl {s : State} (h : s.takesWrites .landA = true) (hb : getA s Reg.ctxCtrl_busy = 0) {c a : Nat}
    (hc : c < 8192) (ha : a < 4) :
    rowWrite false s .landA 0x1010 (c % 8192 + a * 8192) = disturbLanding (ctxAction (ctxWritten s c a) a) false := by
  have hd : (c % 8192 + a * 8192) % 2 ^ 32 = c + a * 8192 := by omega
  have hvals : wordVals .landA 0x1010 ((c % 8192 + a * 8192) % 2 ^ 32) =
      [⟨Reg.ctxCtrl_context, 0, c⟩, ⟨Reg.ctxCtrl_action, 0, a⟩, ⟨Reg.ctxCtrl_busy, 0, bits (c + a * 8192) 31 31⟩] := by
    have h0 : bits (c + a * 8192) 12 0 = c := by simp [bits]; omega
    have h1 : bits (c + a * 8192) 14 13 = a := by simp [bits, Nat.shiftRight_eq_div_pow]; omega
    rw [hd, wordVals_ctxCtrl, h0, h1]
  rw [rowWrite_heldBack h (by decide) (by decide) (by decide) (by decide) (by decide) (by decide) (by decide)
    (by simp [ownBusy, hb]) (by rw [hvals]; rfl) (by rw [hvals]; simp [heldBack]; decide), hvals]
  exact applyVals_ctxCtrl s c a _

/-- RING_DISABLE. -/
theorem exec_ringDisable {s : State} (h : s.takesWrites .landA = true) :
    exec .ringDisable s = .next (disturbLanding (ringDisable s) false) := by
  have happly : applyVals false s .landA (wordVals .landA 0x100C (0 % 2 ^ 32)) = disturbLanding (ringDisable s) false := by
    rw [wordVals_ringCtrl]
    exact applyVals_ringDisable s _
  have hposted : (disturbLanding (ringDisable s) false).posted = [] := by
    rw [disturbLanding_posted, ← State.takesWrites_posted h, ringDisable]
    split <;> simp
  refine congrArg Host.Outcome.next ?_
  rw [rowWrite_plain h (by decide) (by decide) (by decide) (by decide) (by decide) (by decide) (by decide)
    (by simp [ownBusy]) (by decide) (by rw [happly]; exact hposted), happly]

/-- SCALER_ENABLE. -/
theorem exec_scalerEnable {s : State} (h : s.takesWrites .landA = true) (data : Nat) :
    exec (.scalerEnable data) s = .next (disturbLanding (sclCheck (setA s Reg.sclCtrl_count (data % 2 ^ 10))
      (poisonedEntries (setA s Reg.sclCtrl_count (data % 2 ^ 10))
        (getA2 (setA s Reg.sclCtrl_count (data % 2 ^ 10)) Reg.sclBase_baseLo Reg.sclBase_baseHi) 128
        (sclCount (setA s Reg.sclCtrl_count (data % 2 ^ 10))))) false) := by
  have hvals : ∃ e r, wordVals .landA 0x1208 ((data % 2 ^ 31 + 2 ^ 31) % 2 ^ 32) =
      [⟨Reg.sclCtrl_count, 0, data % 2 ^ 10⟩, ⟨Reg.sclCtrl_errEntry, 0, e⟩, ⟨Reg.sclCtrl_err, 0, r⟩,
        ⟨Reg.sclCtrl_enable, 0, 1⟩] := by
    have h0 : bits ((data % 2 ^ 31 + 2 ^ 31) % 2 ^ 32) 9 0 = data % 2 ^ 10 := by simp [bits]; omega
    have h1 : bits ((data % 2 ^ 31 + 2 ^ 31) % 2 ^ 32) 31 31 = 1 := by
      simp [bits, Nat.shiftRight_eq_div_pow]; omega
    exact ⟨_, _, by rw [wordVals_sclCtrl, h0, h1]⟩
  obtain ⟨e, r, hvals⟩ := hvals
  have happly := applyVals_sclCtrl s (data % 2 ^ 10) e r
  generalize hu : setA s Reg.sclCtrl_count (data % 2 ^ 10) = u at happly ⊢
  have hposted : ∀ l, (disturbLanding (sclCheck u l) false).posted = [] := by
    intro l
    rw [disturbLanding_posted, ← State.takesWrites_posted h, sclCheck]
    split <;> simp [← hu]
  refine congrArg Host.Outcome.next ?_
  rw [rowWrite_plain h (by decide) (by decide) (by decide) (by decide) (by decide) (by decide) (by decide)
    (by simp [ownBusy]) (by rw [hvals]; rfl) (by rw [hvals, happly]; exact hposted _), hvals, happly]

/-- A write of the high word of a pair. -/
theorem writeWord_high {rng : Bool} {s : State} {b : Blk} {r data : Nat} (hr : r < 0x4000)
    (hxs : (wordVals b r data).isEmpty = false) (hl : isLow b r = false) (hh : isHigh b r = true) :
    writeWord rng b s (r, data) = writeHigh rng s b r data := by
  have hm : r % 0x4000 = r := Nat.mod_eq_of_lt hr
  have hq : r / 0x4000 = 0 := Nat.div_eq_of_lt hr
  simp [writeWord, hm, hq, hxs, hl, hh]

/-- A write of the high word of a pair that is not posted applies with the low word held. -/
theorem writeHigh_taken {rng : Bool} {s : State} {b : Blk} {r data low : Nat} (hp : isPosted b r = false)
    (hl : heldOf s (blkBase b + r - 4) = low)
    (ht : writeTaken s b (wordVals b (r - 4) low ++ wordVals b r data) = true) :
    writeHigh rng s b r data =
      applyVals rng (dropLow s (blkBase b + r - 4)) b (wordVals b (r - 4) low ++ wordVals b r data) := by
  simp [writeHigh, hp, hl, ht]

/-- With no posted write left, a row has nothing more to take. -/
theorem foldl_noPosted {s : State} (h : s.posted = []) (f : State → Posted → State) :
    s.posted.foldl f { s with posted := [] } = s := by
  cases s
  simp_all

/-- The low word of JOB_SEED that its high word applies. -/
theorem heldOf_jobSeed_lt (s : State) : heldOf s (landABase + 0x1100) < 2 ^ 32 := by
  unfold heldOf
  split
  · exact BitVec.isLt _
  · have hw : wordOf s (landABase + 0x1100) = getA s Reg.jobSeed_seedLo := by
      have hb : blkOf (landABase + 0x1100) = some (.landA, 0x1100) := by decide
      have hf : fldsAt .landA 0x1100 = [Reg.jobSeed_seedLo] := by decide
      rw [wordOf, hb]
      simp [hf]
      rfl
    rw [hw]
    exact getF_lt _ _ _ _

/-- JOB_SEED_HIGH_WRITE: both words apply. -/
theorem exec_jobSeedHighWrite {s : State} (h : s.takesWrites .landA = true) {data : Nat} (hd : data < 2 ^ 32) :
    exec (.jobSeedHighWrite data) s = .next (disturbLanding (disturbSeed
      (setA (setA (dropLow s (landABase + 0x1100)) Reg.jobSeed_seedLo (heldOf s (landABase + 0x1100)))
        Reg.jobSeed_seedHi data)) false) := by
  have hlow := heldOf_jobSeed_lt s
  generalize hl : heldOf s (landABase + 0x1100) = low at hlow ⊢
  have hbits : ∀ v, v < 2 ^ 32 → bits v 31 0 = v := fun v hv => by simp [bits]; omega
  have hvals : wordVals .landA (0x1104 - 4) low ++ wordVals .landA 0x1104 data =
      [⟨Reg.jobSeed_seedLo, 0, low⟩, ⟨Reg.jobSeed_seedHi, 0, data⟩] := by
    rw [wordVals_jobSeedLo, wordVals_jobSeedHi, hbits _ hlow, hbits _ hd]
    rfl
  have htaken : writeTaken s .landA [⟨Reg.jobSeed_seedLo, 0, low⟩, ⟨Reg.jobSeed_seedHi, 0, data⟩] = true := rfl
  have hword : writeWord false .landA s (0x1104, data % 2 ^ 32) = disturbLanding (disturbSeed
      (setA (setA (dropLow s (landABase + 0x1100)) Reg.jobSeed_seedLo low) Reg.jobSeed_seedHi data)) false := by
    rw [Nat.mod_eq_of_lt hd, writeWord_high (by decide) (by rw [wordVals_jobSeedHi]; rfl) (by decide) (by decide),
      writeHigh_taken (low := low) (by decide) hl (by rw [hvals]; exact htaken), hvals]
    exact applyVals_jobSeed (dropLow s (landABase + 0x1100)) low data
  refine congrArg Host.Outcome.next ?_
  rw [rowWrite, hostWrite_word h (by decide) (by decide) (by decide) (by decide) (by simp [ownBusy]), hword]
  refine foldl_noPosted ?_ _
  rw [disturbLanding_posted, disturbSeed_posted, setA_posted, setA_posted]
  exact State.takesWrites_posted (s := s) h

/-! ### CTX_CTRL before its action -/

/-- The word of CTX_CTRL changes registers only. -/
theorem ctxWritten_regsOnly (s : State) (c a : Nat) : RegsOnly s (ctxWritten s c a) :=
  (setF_regsOnly s landABase (f := Reg.ctxCtrl_context) 0 c (by decide)).trans
    (setF_regsOnly _ landABase (f := Reg.ctxCtrl_action) 0 a (by decide))

/-- Fields of other words read as before. -/
theorem getA_ctxWritten {s : State} (h : s.canonical = true) (c a : Nat) {g : Fld} (hg : g.off ≠ 0x1010) :
    getA (ctxWritten s c a) g = getA s g :=
  (getF_setF_other _ landABase landABase _ g 0 0 a ((setA_kept s _ c (.refl s)).canonical h) (fldAddr_zero_ne hg)).trans
    (getF_setF_other s landABase landABase _ g 0 0 c h (fldAddr_zero_ne hg))

/-- The context that the action names. -/
theorem getA_ctxWritten_context {s : State} (h : s.canonical = true) {c : Nat} (hc : c < 8192) (a : Nat) :
    getA (ctxWritten s c a) Reg.ctxCtrl_context = c := by
  refine (getF_setF_beside _ landABase _ _ 0 0 a ((setA_kept s _ c (.refl s)).canonical h) (by decide) (by decide)
    (by decide) (by decide)).trans ?_
  exact (getF_setF_same s landABase _ 0 c h (by decide) (by decide)).trans (Nat.mod_eq_of_lt hc)

/-- The save areas lie where they lay. -/
theorem saveAddr_ctxWritten {s : State} (h : s.canonical = true) (c a k : Nat) :
    saveAddr (ctxWritten s c a) k = saveAddr s k := by
  have hlo : getF (ctxWritten s c a) landABase Reg.ctxBase_baseLo 0 = getF s landABase Reg.ctxBase_baseLo 0 :=
    getA_ctxWritten h c a (by decide)
  have hhi : getF (ctxWritten s c a) landABase Reg.ctxBase_baseHi 0 = getF s landABase Reg.ctxBase_baseHi 0 :=
    getA_ctxWritten h c a (by decide)
  rw [saveAddr, getA2, get2, hlo, hhi]
  rfl

/-- A written CTX_CTRL is canonical. -/
theorem ctxWritten_canonical {s : State} (h : s.canonical = true) (c a : Nat) : (ctxWritten s c a).canonical = true :=
  (setA_kept _ _ a (setA_kept s _ c (.refl s))).canonical h

/-- CTX_RESUME. -/
theorem exec_ctxResume {s : State} (hs : s.canonical = true) (h : s.takesWrites .landA = true)
    (hb : getA s Reg.ctxCtrl_busy = 0) {c : Nat} (hc : c < 8192) :
    exec (.ctxResume c) s = .next (disturbLanding (ctxResume (ctxWritten s c 1) c) false) := by
  have hrow := rowWrite_ctxCtrl h hb hc (a := 1) (by decide)
  rw [ctxAction, getA_ctxWritten_context hs hc] at hrow
  exact congrArg Host.Outcome.next hrow

/-- CTX_RESUME_AT_HEAD. -/
theorem exec_ctxResumeAtHead {s : State} (hs : s.canonical = true) (h : s.takesWrites .landA = true)
    (hb : getA s Reg.ctxCtrl_busy = 0) {c : Nat} (hc : c < 8192) :
    exec (.ctxResumeAtHead c) s =
      .next (disturbLanding (ctxResumeAtHead (ctxWritten s c 2) c (getA s Reg.ctxNewHead_head)) false) := by
  have hrow := rowWrite_ctxCtrl h hb hc (a := 2) (by decide)
  rw [ctxAction, getA_ctxWritten_context hs hc, getA_ctxWritten hs c 2 (by decide)] at hrow
  exact congrArg Host.Outcome.next hrow

/-- CTX_RESET. -/
theorem exec_ctxReset {s : State} (hs : s.canonical = true) (h : s.takesWrites .landA = true)
    (hb : getA s Reg.ctxCtrl_busy = 0) {c : Nat} (hc : c < 8192) :
    exec (.ctxReset c) s = .next (disturbLanding (ctxReset (ctxWritten s c 3) c) false) := by
  have hrow := rowWrite_ctxCtrl h hb hc (a := 3) (by decide)
  rw [ctxAction, getA_ctxWritten_context hs hc] at hrow
  exact congrArg Host.Outcome.next hrow

/-! ### Actions on a tracked context -/

/-- A tracked context replaced by another state of it. -/
theorem updCtx_const {s : State} {c : Nat} {y : Ctx} (hy : y.num = c) :
    updCtx s c (fun _ => y) = updCtx s c (fun x => { y with num := x.num }) := by
  have hmap : ∀ x : Ctx, (if x.num == c then y else x) = if x.num == c then { y with num := x.num } else x := by
    intro x
    by_cases hx : x.num = c
    · simp [hx, ← hy]
    · simp [hx]
  simp only [updCtx, hmap]

/-- The replaced context. -/
theorem findCtx_updCtx_const_same {s : State} {c : Nat} {x y : Ctx} (h : findCtx s c = some x) (hy : y.num = c) :
    findCtx (updCtx s c (fun _ => y)) c = some y := by
  rw [updCtx_const hy, findCtx_updCtx_same s c (fun x => { y with num := x.num }) h (fun _ => rfl), findCtx_num h, ← hy]

/-- Every other context stays. -/
theorem findCtx_updCtx_const_other {s : State} {c k : Nat} {y : Ctx} (hy : y.num = c) (hk : k ≠ c) :
    findCtx (updCtx s c (fun _ => y)) k = findCtx s k := by
  rw [updCtx_const hy, findCtx_updCtx_other s (fun x => { y with num := x.num }) hk (fun _ => rfl)]

/-- An action on a halted tracked context. -/
theorem onHalted_tracked {s : State} {c : Nat} {x y : Ctx} {f : Ctx → Option Ctx} (hx : findCtx s c = some x)
    (hh : x.halted = true) (hl : x.loading = false) (hf : f x = some y) :
    onHalted s c f = updCtx s c (fun _ => resumedCtx s y) := by
  simp [onHalted, hx, hh, hl, hf]

/-- An action that does not apply to a tracked context changes nothing. -/
theorem onHalted_still {s : State} {c : Nat} {x : Ctx} {f : Ctx → Option Ctx} (hx : findCtx s c = some x)
    (h : x.halted = false ∨ f x = none) : onHalted s c f = s := by
  rcases h with h | h <;> simp [onHalted, hx, h]

/-- Whether a context resumes toward the overflow queue does not depend on registers. -/
theorem resumedCtx_regsOnly {s u : State} (h : RegsOnly s u) (y : Ctx) : resumedCtx u y = resumedCtx s y := by
  rw [show u = { s with regs := u.regs } from h]
  rfl

/-- A written CTX_CTRL leaves every context. -/
theorem findCtx_ctxWritten {s : State} {c : Nat} {x : Option Ctx} (hx : findCtx s c = x) (a : Nat) {k : Nat} :
    findCtx (ctxWritten s k a) c = x :=
  (findCtx_congr ((congrArg (fun t => t.rings.ctxs) (ctxWritten_regsOnly s k a)).trans rfl) c).trans hx

/-- What an action on a halted tracked context leaves: the context resumed, and nothing else changed but registers. -/
theorem onHalted_tracked_spec {s u : State} {c : Nat} {x y : Ctx} {f : Ctx → Option Ctx} (hu : RegsOnly s u)
    (hx : findCtx s c = some x) (hh : x.halted = true) (hl : x.loading = false) (hf : f x = some y) (hy : y.num = x.num) :
    findCtx (onHalted u c f) c = some (resumedCtx s y) ∧ (∀ k, k ≠ c → findCtx (onHalted u c f) k = findCtx s k) ∧
      onHalted u c f = { s with rings := (onHalted u c f).rings, regs := (onHalted u c f).regs } := by
  have hsu : ∀ k, findCtx u k = findCtx s k := findCtx_congr (congrArg (fun t => t.rings.ctxs) hu)
  have hxu : findCtx u c = some x := (hsu c).trans hx
  have hnum : (resumedCtx s y).num = c := hy.trans (findCtx_num hx)
  rw [onHalted_tracked hxu hh hl hf, resumedCtx_regsOnly hu]
  refine ⟨findCtx_updCtx_const_same hxu hnum, fun k hk => (findCtx_updCtx_const_other hnum hk).trans (hsu k), ?_⟩
  generalize resumedCtx s y = z
  rw [show u = { s with regs := u.regs } from hu]
  rfl

/-- CTX_RESET on a halted tracked context of which a descriptor runs: it waits, with BUSY set. -/
theorem ctxReset_busy {s : State} {c : Nat} {x : Ctx} (hx : findCtx s c = some x) (hh : x.halted = true)
    (hl : x.loading = false) (hb : ctxBusy s c = true) :
    ctxReset s c = setA (updCtx s c (fun y => { y with held := [] })) Reg.ctxCtrl_busy 1 := by
  have hr : resettable s c = true := by simp [resettable, hx, hh, hl]
  simp [ctxReset, hr, hb]

/-- What a CTX_RESET that waits leaves: BUSY set, and the held descriptors dropped. -/
theorem ctxReset_busy_spec {s : State} {c : Nat} {x : Ctx} (hs : s.canonical = true) (hx : findCtx s c = some x)
    (hh : x.halted = true) (hl : x.loading = false) (hb : ctxBusy s c = true) :
    let t := ctxReset (ctxWritten s c 3) c
    getA t Reg.ctxCtrl_busy = 1 ∧ findCtx t c = some { x with held := [] } ∧ (∀ k, k ≠ c → findCtx t k = findCtx s k) ∧
      t = { s with rings := t.rings, regs := t.regs } := by
  have hu : RegsOnly s (ctxWritten s c 3) := ctxWritten_regsOnly s c 3
  have hops : (ctxWritten s c 3).ops = s.ops := (congrArg State.ops hu).trans rfl
  have hxu := findCtx_ctxWritten hx 3 (k := c)
  have hcanon := ctxWritten_canonical hs c 3
  have hfind := fun k => findCtx_ctxWritten (s := s) (c := k) rfl 3 (k := c)
  generalize ctxWritten s c 3 = u at *
  have hbu : ctxBusy u c = true := by rw [ctxBusy, hops]; exact hb
  have hrings : ∀ v : State, (setA v Reg.ctxCtrl_busy 1).rings.ctxs = v.rings.ctxs := fun v => by simp [setA]
  dsimp only
  rw [ctxReset_busy hxu hh hl hbu]
  refine ⟨?_, ?_, fun k hk => ?_, ?_⟩
  · exact (getF_setF_same _ landABase _ 0 1 ((updCtx_kept u c _ (.refl u)).canonical hcanon) (by decide) (by decide)).trans rfl
  · rw [findCtx_congr (hrings _), findCtx_updCtx_same u c (fun y => { y with held := [] }) hxu (fun _ => rfl)]
  · rw [findCtx_congr (hrings _), findCtx_updCtx_other u (fun y => { y with held := [] }) hk (fun _ => rfl), hfind]
  · rw [show u = { s with regs := u.regs } from hu]
    rfl

/-- CTX_RESET does not act on a tracked context that is not halted. -/
theorem ctxReset_still {s : State} {c : Nat} {x : Ctx} (hx : findCtx s c = some x) (hh : x.halted = false) :
    ctxReset s c = s := by
  have hr : resettable s c = false := by simp [resettable, hx, hh]
  simp [ctxReset, hr]

/-! ### Actions on a spilled context -/

section
variable {s u : State} {c : Nat} (hm : u.hostMem = s.hostMem) (ha : saveAddr u c = saveAddr s c)
include hm ha

/-- The host bytes of a save area pass their checks alike where host memory and the save area are the same. -/
theorem hostPartOk_congr : hostPartOk u c = hostPartOk s c := by
  simp only [hostPartOk, rdHost, hm, ha]
  rfl

/-- CHECK of a save area matches alike. -/
theorem checkOk_congr : checkOk u c = checkOk s c := by
  simp only [checkOk, rdHost, hm, ha]

/-- The context that a save area describes is the same. -/
theorem ctxOfSave_congr : ctxOfSave u c = ctxOfSave s c := by
  simp only [ctxOfSave, rdHost, hm, ha]

/-- A spilled halted context is the same, with the same ring engine. -/
theorem spilledHalted_congr (hr : u.rings = s.rings) : spilledHalted u c = spilledHalted s c := by
  have hsaved : savedCtx u c = savedCtx s c := by
    simp only [savedCtx, savedHeld, lastUseOf, findCtx, hm, ha, hr, ctxOfSave_congr hm ha]
  simp only [spilledHalted, hostPartOk_congr hm ha, checkOk_congr hm ha, ctxOfSave_congr hm ha, hsaved, hr]

/-- Action 3 acts on the same contexts, with the same ring engine. -/
theorem resettable_congr (hr : u.rings = s.rings) : resettable u c = resettable s c := by
  simp only [resettable, hostPartOk_congr hm ha, checkOk_congr hm ha, ctxOfSave_congr hm ha, findCtx, hr]

end

/-- A spilled halted context has the number asked for. -/
theorem spilledHalted_num {s : State} {c : Nat} {x : Ctx} (h : spilledHalted s c = some x) : x.num = c := by
  have hnum : (savedCtx s c).num = c := rfl
  unfold spilledHalted at h
  split at h
  · dsimp only at h
    split at h
    · obtain rfl := Option.some.inj h
      split <;> exact hnum
    · obtain rfl := Option.some.inj h
      exact hnum
  · cases h

/-- A resumed context of which the overflow queue holds no entry is tracked again where a place is free. -/
theorem placeResumed_free {s : State} {y : Ctx} (hq : s.rings.ovq.any (fun e => e.ctx == y.num) = false)
    (hp : placesUsed s < 256) :
    placeResumed s y =
      trackCtx { s with rings := { s.rings with ovq := s.rings.ovq.filter (fun e => e.ctx != y.num) } } y := by
  have hentry : s.rings.ovq.find? (fun e => e.ctx == y.num) = none := by
    rw [List.find?_eq_none]
    simpa using hq
  have hmake : makePlace s = some s := if_pos hp
  rw [placeResumed, hmake, hentry]
  rfl

/-- What CTX_RESUME leaves of a spilled halted context: it is tracked, and nothing else changed but registers. -/
theorem ctxResume_spilled_spec {s u : State} {c : Nat} {x : Ctx} (hu : RegsOnly s u) (ha : saveAddr u c = saveAddr s c)
    (hn : findCtx s c = none) (hx : spilledHalted s c = some x) (hq : s.rings.ovq.any (fun e => e.ctx == c) = false)
    (hp : placesUsed s < 256) :
    findCtx (ctxResume u c) c = some { x with halted := false } ∧
      (∀ k, k ≠ c → findCtx (ctxResume u c) k = findCtx s k) ∧
      ctxResume u c = { s with rings := (ctxResume u c).rings, regs := (ctxResume u c).regs } := by
  have hrings : u.rings = s.rings := (congrArg State.rings hu).trans rfl
  have hnum : x.num = c := spilledHalted_num hx
  have hnu : findCtx u c = none := (findCtx_congr (congrArg Rings.ctxs hrings) c).trans hn
  have hmem : u.hostMem = s.hostMem := (congrArg State.hostMem hu).trans rfl
  have hxu : spilledHalted u c = some x := (spilledHalted_congr hmem ha hrings).trans hx
  have hresume : ctxResume u c = placeResumed u { x with halted := false } := by
    rw [ctxResume, onHalted, hnu]
    dsimp only
    rw [hxu]
    rfl
  rw [hresume, placeResumed_free (y := { x with halted := false }) (by rw [hrings]; exact hnum ▸ hq)
    (by rw [placesUsed, hrings]; exact hp)]
  refine ⟨?_, fun k hk => ?_, ?_⟩
  · subst hnum
    exact findCtx_trackCtx_same _ { x with halted := false }
  · rw [findCtx_trackCtx_other _ (show k ≠ ({ x with halted := false } : Ctx).num from hnum.symm ▸ hk)]
    exact findCtx_congr (congrArg Rings.ctxs hrings) k
  · rw [show u = { s with regs := u.regs } from hu]
    rfl

/-! ### Reset -/

/-- Whether a save area describes a halted context. -/
theorem ctxOfSave_halted (s : State) (c : Nat) :
    (ctxOfSave s c).halted = (rdHost s (saveAddr s c + 0x50) 4 % 8 == 5) := rfl

/-- Bytes that all read zero are the number zero. -/
theorem memNat_zero {m : List Host.Cell} {a n : Nat} (h : ∀ i, i < n → memRead m (a + i) = 0) : memNat m a n = 0 := by
  have hleNat : ∀ l : List Byte, (∀ b ∈ l, b = 0) → leNat l = 0 := by
    intro l hl
    induction l with
    | nil => rfl
    | cons b l ih =>
      rw [leNat, hl b (List.mem_cons_self ..), ih fun y hy => hl y (List.mem_cons_of_mem _ hy)]
      rfl
  refine hleNat _ fun b hb => ?_
  obtain ⟨i, hi, rfl⟩ := List.mem_map.mp hb
  exact h i (List.mem_range.mp hi)

/-- The device bytes of a context that was reset read zero. -/
theorem memRead_resetContext {s : State} (hs : memWf s.hostMem = true) (c : Nat) {i : Nat} (hi : i < 448) :
    memRead (resetContext s c).hostMem (saveAddr s c + 0x40 + i) = 0 := by
  have hlen : (List.replicate 448 (0 : Byte)).length = 448 := List.length_replicate
  have hzero : (List.replicate 448 (0 : Byte)).getD i 0 = 0 := List.getD_replicate _ hi
  rw [resetContext_eq]
  unfold wrHost clearedSave
  dsimp only
  generalize List.replicate 448 (0 : Byte) = zs at hlen hzero ⊢
  rw [memRead_bytesWrites_in hs (hlen.symm ▸ hi), hzero]

/-- A context that was reset is not tracked, and action 3 does not act on it again. -/
theorem resetContext_gone {s : State} (hs : memWf s.hostMem = true) (c : Nat) :
    findCtx (resetContext s c) c = none ∧ resettable (resetContext s c) c = false := by
  have hrings : (resetContext s c).rings = s.rings.without c := rfl
  have hfind : findCtx (resetContext s c) c = none := by
    rw [findCtx, hrings]
    exact find?_without_same s.rings.ctxs c
  have hrefused : (resetContext s c).rings.refused.contains c = false := by
    rw [hrings]
    simp [Rings.without]
  have hstate : rdHost (resetContext s c) (saveAddr s c + 0x50) 4 = 0 := memNat_zero fun i hi => by
    have h := memRead_resetContext hs c (i := 0x10 + i) (by omega)
    rwa [show saveAddr s c + 0x40 + (0x10 + i) = saveAddr s c + 0x50 + i by omega] at h
  have haddr : saveAddr (resetContext s c) c = saveAddr s c := by
    rw [resetContext_eq]
    generalize clearedSave s c = ws
    rfl
  have hhalted : (ctxOfSave (resetContext s c) c).halted = false := by
    rw [ctxOfSave_halted, haddr, hstate]
    rfl
  refine ⟨hfind, ?_⟩
  rw [resettable, hfind]
  dsimp only
  rw [hrefused, hhalted, Bool.and_false, Bool.or_false]

/-- What CTX_RESET leaves of a context of which no descriptor runs: it is gone, its save area reads zero, and nothing
else changed but registers. -/
theorem ctxReset_spec {s u : State} {c : Nat} (hs : memWf s.hostMem = true) (hu : RegsOnly s u)
    (ha : saveAddr u c = saveAddr s c) (hr : resettable s c = true) (hb : ctxBusy s c = false) :
    findCtx (ctxReset u c) c = none ∧ (∀ k, k ≠ c → findCtx (ctxReset u c) k = findCtx s k) ∧
      resettable (ctxReset u c) c = false ∧
      (∀ i, i < 448 → memRead (ctxReset u c).hostMem (saveAddr s c + 0x40 + i) = 0) ∧
      ctxReset u c = { s with rings := (ctxReset u c).rings, regs := (ctxReset u c).regs, hostMem := (ctxReset u c).hostMem } := by
  have hrings : u.rings = s.rings := (congrArg State.rings hu).trans rfl
  have hmem : u.hostMem = s.hostMem := (congrArg State.hostMem hu).trans rfl
  have hops : u.ops = s.ops := (congrArg State.ops hu).trans rfl
  have hru : resettable u c = true := (resettable_congr hmem ha hrings).trans hr
  have hbu : ctxBusy u c = false := by rw [ctxBusy, hops]; exact hb
  have hwf : memWf u.hostMem = true := hmem.symm ▸ hs
  have hreset : ctxReset u c = resetContext u c := by simp only [ctxReset, hru, hbu]; rfl
  obtain ⟨hnone, hgone⟩ := resetContext_gone hwf c
  rw [hreset]
  refine ⟨hnone, fun k hk => ?_, hgone, fun i hi => ha ▸ memRead_resetContext hwf c hi, ?_⟩
  · have hfilter : (resetContext u c).rings = u.rings.without c := rfl
    rw [findCtx, hfilter, hrings]
    exact find?_without_other s.rings.ctxs hk
  · rw [resetContext_eq]
    generalize clearedSave u c = ws
    rw [show u = { s with regs := u.regs } from hu]
    rfl

/-! ### The end of ring service -/

/-- What RING_DISABLE leaves. -/
theorem ringDisable_spec {s : State} (hs : s.canonical = true) :
    getA (ringDisable s) Reg.ringCtrl_enable = 0 ∧
      (getA s Reg.ringCtrl_enable = 1 → getA (ringDisable s) Reg.ringCtrl_draining = 1) ∧
      ringDisable s = { s with regs := (ringDisable s).regs, regs1 := (ringDisable s).regs1, regs2 := (ringDisable s).regs2 } := by
  have hlt : getA s Reg.ringCtrl_enable < 2 := getF_lt s landABase Reg.ringCtrl_enable 0
  have hoff : (setA s Reg.ringCtrl_enable 0).canonical = true := (setA_kept s _ 0 (.refl s)).canonical hs
  by_cases he : getA s Reg.ringCtrl_enable = 1
  · have hd : ringDisable s = setA (setA s Reg.ringCtrl_enable 0) Reg.ringCtrl_draining 1 := if_pos he
    rw [hd]
    refine ⟨?_, fun _ => getF_setF_same _ landABase _ 0 1 hoff (by decide) (by decide), rfl⟩
    exact (getF_setF_beside _ landABase _ _ 0 0 1 hoff (by decide) (by decide) (by decide) (by decide)).trans
      (getF_setF_same s landABase _ 0 0 hs (by decide) (by decide))
  · have hd : ringDisable s = s := if_neg he
    rw [hd]
    exact ⟨by omega, fun h => absurd h he, rfl⟩

/-! ### The obligation -/

/-- Both words of the job seed read back. -/
theorem getA2_jobSeed {s : State} (hs : s.canonical = true) {lo hi : Nat} (hl : lo < 2 ^ 32) (hh : hi < 2 ^ 32) :
    getA2 (setA (setA s Reg.jobSeed_seedLo lo) Reg.jobSeed_seedHi hi) Reg.jobSeed_seedLo Reg.jobSeed_seedHi =
      lo + hi * 2 ^ 32 := by
  have hc : (setA s Reg.jobSeed_seedLo lo).canonical = true := (setA_kept s _ lo (.refl s)).canonical hs
  have hlo : getF (setA (setA s Reg.jobSeed_seedLo lo) Reg.jobSeed_seedHi hi) landABase Reg.jobSeed_seedLo 0 = lo :=
    (getF_setF_other _ landABase landABase _ _ 0 0 hi hc (by decide)).trans
      ((getF_setF_same s landABase _ 0 lo hs (by decide) (by decide)).trans (Nat.mod_eq_of_lt hl))
  have hhi : getF (setA (setA s Reg.jobSeed_seedLo lo) Reg.jobSeed_seedHi hi) landABase Reg.jobSeed_seedHi 0 = hi :=
    (getF_setF_same _ landABase _ 0 hi hc (by decide) (by decide)).trans (Nat.mod_eq_of_lt hh)
  rw [getA2, get2, hlo, hhi]
  simp [Reg.jobSeed_seedLo]

/-- The check of the Scaler table sets ENABLE, or ERR with the first entry that fails. -/
theorem sclCheck_spec (s : State) (l : List Nat) :
    ((List.range (sclCount s)).find? (sclEntryBad s l) = none →
        sclCheck s l = setA (setA s Reg.sclCtrl_enable 1) Reg.sclCtrl_err 0) ∧
      ∀ n, (List.range (sclCount s)).find? (sclEntryBad s l) = some n →
        sclCheck s l = setA (setA (setA s Reg.sclCtrl_enable 0) Reg.sclCtrl_err 1) Reg.sclCtrl_errEntry n := by
  refine ⟨fun h => ?_, fun n h => ?_⟩ <;> rw [sclCheck, h]

/-- Settles O32: each row writes one word, whose values reach their fields; the actions of CTX_CTRL then follow R74. -/
theorem ringRegisterRows : Obligations.RingRegisterRows := by
  intro s hs hw
  have hm : memWf s.hostMem = true := ((State.canonical_iff s).mp hs).2.2.2.2.1
  refine ⟨fun c x hc hb hx hl => ⟨fun hh => ⟨?resume, ?within, ?outside, ?busy⟩, ?still, ?plain⟩, ?spilled, ?reset, ?disable,
    ?seed, ?scaler⟩
  case resume =>
    exact ⟨_, exec_ctxResume hs hw hb hc, onHalted_tracked_spec (ctxWritten_regsOnly s c 1) hx hh hl rfl rfl⟩
  case within =>
    intro hin
    exact ⟨_, exec_ctxResumeAtHead hs hw hb hc,
      onHalted_tracked_spec (ctxWritten_regsOnly s c 2) hx hh hl (if_pos (of_decide_eq_true hin)) rfl⟩
  case outside =>
    intro hin
    refine ⟨_, exec_ctxResumeAtHead hs hw hb hc, ?_⟩
    rw [ctxResumeAtHead, onHalted_still (findCtx_ctxWritten hx 2) (.inr (if_neg (of_decide_eq_false hin)))]
    exact ctxWritten_regsOnly s c 2
  case busy =>
    intro hbusy
    exact ⟨_, exec_ctxReset hs hw hb hc, ctxReset_busy_spec hs hx hh hl hbusy⟩
  case still =>
    intro hh
    refine List.forall_mem_cons.mpr ⟨⟨_, exec_ctxResume hs hw hb hc, ?_⟩, List.forall_mem_cons.mpr
      ⟨⟨_, exec_ctxResumeAtHead hs hw hb hc, ?_⟩, List.forall_mem_singleton.mpr ⟨_, exec_ctxReset hs hw hb hc, ?_⟩⟩⟩
    · rw [ctxResume, onHalted_still (findCtx_ctxWritten hx 1) (.inl hh)]
      exact ctxWritten_regsOnly s c 1
    · rw [ctxResumeAtHead, onHalted_still (findCtx_ctxWritten hx 2) (.inl hh)]
      exact ctxWritten_regsOnly s c 2
    · rw [ctxReset_still (findCtx_ctxWritten hx 3) hh]
      exact ctxWritten_regsOnly s c 3
  case plain =>
    intro hsp
    simp [resumedCtx, hsp]
  case spilled =>
    intro c x hc hb hn hx hq hp
    exact ⟨_, exec_ctxResume hs hw hb hc,
      ctxResume_spilled_spec (ctxWritten_regsOnly s c 1) (saveAddr_ctxWritten hs c 1 c) hn hx hq hp⟩
  case reset =>
    intro c hc hb hr hbusy
    exact ⟨_, exec_ctxReset hs hw hb hc,
      ctxReset_spec hm (ctxWritten_regsOnly s c 3) (saveAddr_ctxWritten hs c 3 c) hr hbusy⟩
  case disable => exact ⟨_, exec_ringDisable hw, ringDisable_spec hs⟩
  case seed =>
    intro data hd
    have hdrop : (dropLow s (landABase + 0x1100)).canonical = true := hs
    exact ⟨exec_jobSeedHighWrite hw hd, getA2_jobSeed hdrop (heldOf_jobSeed_lt s) hd⟩
  case scaler =>
    intro data
    refine ⟨fun h => ?_, fun n h => ?_⟩
    · rw [exec_scalerEnable hw, (sclCheck_spec _ _).1 h]
    · rw [exec_scalerEnable hw, (sclCheck_spec _ _).2 n h]

end Sys2Proof.Machine
end

section
/-!
SUPPORT. MATMUL_PAIR (R118), the runs of a level-2 operation (R49), and parking (R61, R357, R358).
-/

namespace Sys2Proof.Machine

/-! ### Mended units -/

/-- A fold of steps that each leave the operations does so. -/
theorem foldl_ops {β : Type} {f : State → β → State} (hf : ∀ t x, (f t x).ops = t.ops) (l : List β) (s : State) :
    (l.foldl f s).ops = s.ops := by
  induction l generalizing s with
  | nil => rfl
  | cons x l ih => exact (ih _).trans (hf s x)

/-- Mended rows change memory, not operations. -/
theorem mendRows_ops (s : State) (f : Fmt) (rows : List (Nat × Nat)) (k : Int) : (mendRows s f rows k).ops = s.ops := by
  unfold mendRows
  exact foldl_ops (fun t _ => wrMem_ops t _) rows s

/-- Mending units changes memory, not operations. -/
theorem sclMend_ops (s : State) (b : Bind) (f : Fmt) (rowsOf : Nat → List (Nat × Nat)) : (sclMend s b f rowsOf).ops = s.ops :=
  foldl_ops (fun t x => by
    split
    · exact mendRows_ops t f _ _
    · rfl) _ s

/-- Settled bumps change no operation. -/
theorem sclSettle_ops (s : State) (b : Bind) : (sclSettle s b).ops = s.ops := by
  unfold sclSettle addSclCnt setSclCnt
  dsimp only
  split
  · rfl
  · split <;> rfl

/-- A settled operation is found with its run and its digests. -/
theorem findOp_settleBind {s : State} {o p : Op} (b : Bind) (h : findOp s o.ctx o.idx = some p) :
    ∃ q, findOp (settleBind s o b) o.ctx o.idx = some q ∧ q.run = p.run ∧ q.digests = p.digests := by
  unfold settleBind
  split
  · exact ⟨_, findOp_updOp_same s _ _ _ h (fun _ => ⟨rfl, rfl⟩), rfl, rfl⟩
  · exact ⟨p, (findOp_congr (sclSettle_ops s b) _ _).trans h, rfl, rfl⟩

/-- A binding dropped leaves an operation's place, run and digests. -/
theorem dropBind_place (o : Op) : ((dropBind o).ctx = o.ctx ∧ (dropBind o).idx = o.idx) ∧
    (dropBind o).run = o.run ∧ (dropBind o).digests = o.digests := by
  unfold dropBind
  split <;> exact ⟨⟨rfl, rfl⟩, rfl, rfl⟩

/-- Writes held over those that an operation holds: the operation with its new writes. -/
theorem findOp_holdOver {s t : State} {c i : Nat} {o : Op} (held : List Host.Cell) (h : findOp t c i = some o) :
    ∃ ws, findOp (holdOver s t c i held) c i = some { o with writes := ws } :=
  ⟨_, findOp_updOp_same { t with mem := _ } c i _ h (fun _ => ⟨rfl, rfl⟩)⟩

/-- An operation whose units have been mended is found with its run and its digests. -/
theorem findOp_mendOp {s : State} {o : Op} (h : findOp s o.ctx o.idx = some o) :
    ∃ p, findOp (mendOp s o) o.ctx o.idx = some p ∧ p.run = o.run ∧ p.digests = o.digests ∧
      (heldBind o = none → mendOp s o = s ∧ p = o) := by
  unfold mendOp
  cases hb : heldBind o with
  | none => exact ⟨o, h, rfl, rfl, fun _ => ⟨rfl, rfl⟩⟩
  | some b =>
    have hmend : findOp (sclMend (overlaid s o) b (fwFmtD (streamFmt o.d)) (mendUnitRows o.d)) o.ctx o.idx = some o :=
      (findOp_congr (sclMend_ops _ _ _ _) _ _).trans h
    obtain ⟨ws, hheld⟩ := findOp_holdOver (s := s) o.writes hmend
    obtain ⟨_, hrun, hdig⟩ := dropBind_place { o with writes := ws }
    obtain ⟨p, hp, hprun, hpdig⟩ := findOp_settleBind b
      (findOp_updOp_same _ o.ctx o.idx dropBind hheld (fun q => (dropBind_place q).1))
    exact ⟨p, hp, hprun.trans hrun, hpdig.trans hdig, fun h => nomatch h⟩

/-- LEVEL2_RUN_END judges the run with the operation's units mended. -/
theorem exec_level2RunEnd {s : State} {c i : Nat} {o p : Op} (alt : List (Nat × Byte)) (ho : findOp s c i = some o)
    (he : o.ended = none) (hp : o.parked = false) (hr : 2 ≤ o.run) (hm : findOp (mendOp s o) c i = some p) :
    exec (.level2RunEnd c i alt) s = .next (levelRunEnd (mendOp s o) p alt) := by
  show execLevel2RunEnd c i alt s = _
  rw [execLevel2RunEnd, ho]
  dsimp only
  rw [if_neg (by simp [he, hp]; omega), hm]

/-! ### The runs of a level-2 operation -/

/-- The checks that a run makes are counted in registers. -/
theorem countRunChecks_regsOnly (s : State) (d : Desc) : RegsOnly s (countRunChecks s d) := by
  have hfold : ∀ (l : List (Nat × Nat)) (t : State), RegsOnly t (l.foldl (fun t p =>
      event (countF t (cellBase p.1) Reg.matChecks_count 0 p.2) (cellBase p.1) 0x03 p.2) t) := by
    intro l
    induction l with
    | nil => exact .refl
    | cons p l ih => exact fun t => ((countF_regsOnly t _ 0 _ (by decide)).trans (event_regsOnly _ _ _ _)).trans (ih _)
  exact hfold _ s

/-- What is held over `t` reads with the operation's writes as `t` did. -/
theorem memRead_holdOver {s t : State} (c i : Nat) (held : List Host.Cell) (ht : memWf t.mem = true) {o : Op}
    (ho : findOp t c i = some o) :
    ∃ ws, findOp (holdOver s t c i held) c i = some { o with writes := ws } ∧
      ∀ a, memRead (memWriteAll (holdOver s t c i held).mem ws) a = memRead t.mem a := by
  refine ⟨_, findOp_updOp_same { t with mem := _ } c i _ ho (fun _ => ⟨rfl, rfl⟩), fun a => ?_⟩
  show memRead (memWriteAll (memWriteAll t.mem _) _) a = _
  rw [memRead_restored (memWriteAll_wf _ _ ht), memRead_restored ht]
  split <;> rfl

/-- An operation run once more. -/
def againOp (s : State) (o : Op) : State := updOp s o.ctx o.idx (fun p => { p with reruns := p.reruns + 1 })

/-- Run 2 has ended: the operation ends where its outputs agree with run 1, and else runs a third time. -/
theorem levelRunEnd_second {s t : State} {o : Op} (alt : List (Nat × Byte)) (ht : countRunChecks s o.d = t) (hr : o.run = 2)
    {gs : List (List Region)} (hgs : opOutputs (overlaid t o) o = gs) :
    levelRunEnd s o alt =
      if runDigest (memWriteAll (memWriteAll t.mem o.writes) (altIn gs alt)) gs = runDigest (memWriteAll t.mem o.writes) gs
      then endOp t o.ctx o.idx (levelEnd o)
      else updOp t o.ctx o.idx (fun p => { p with run := 3, digests := [runDigest (memWriteAll t.mem o.writes) gs,
        runDigest (memWriteAll (memWriteAll t.mem o.writes) (altIn gs alt)) gs] }) := by
  unfold levelRunEnd
  dsimp only
  rw [ht, hgs]
  by_cases hnil : gs = []
  · subst hnil
    rfl
  · rw [if_neg (by simpa using hnil), if_pos hr]

/-- An operation with what run 3 gives it: one re-run, no Brake, its checks, and its side. -/
def Op.third (n : Nat) (side : RunSide) (p : Op) : Op := { p with reruns := 1, brakes := 0, checks := n, side := side }

/-- The checks of one run of an operation. -/
def checksOf (d : Desc) : Nat := ((runChecks d).map (fun p => p.2)).sum

/-- Run 3 stands: its side is the operation's, and its output bytes `ws` stand in memory or are held. -/
def thirdStands (o : Op) (r : State × RunSide) (ws : List Host.Cell) : State :=
  let s1 := updOp r.1 o.ctx o.idx (Op.third (checksOf o.d) r.2)
  endOp (holdOver s1 (wrMem (overlaid s1 o) ws) o.ctx o.idx o.writes) o.ctx o.idx (levelEnd (o.third (checksOf o.d) r.2))

/-- Run 3 has ended: the operation ends by which of the two earlier runs it agrees with. -/
theorem levelRunEnd_third {s t : State} {o : Op} (alt : List (Nat × Byte)) (ht : countRunChecks s o.d = t) (hr : o.run = 3)
    {gs : List (List Region)} (hgs : opOutputs (overlaid t o) o = gs) (hne : gs ≠ []) {dn : Nat}
    (hdn : runDigest (memWriteAll (memWriteAll t.mem o.writes) (altIn gs alt)) gs = dn) :
    levelRunEnd s o alt =
      if dn = o.digests.getD 0 0 then endOp (againOp t o) o.ctx o.idx (levelEnd { o with reruns := o.reruns + 1 })
      else if dn = o.digests.getD 1 0 then
        thirdStands o (thirdSide t o (memWriteAll (memWriteAll t.mem o.writes) (altIn gs alt))) (altIn gs alt)
      else endWithRecord (againOp t o) o.ctx o.idx .checkFail 0x02 0
        (digestWords (o.digests.getD 0 0) ++ digestWords (o.digests.getD 1 0) ++ digestWords dn) := by
  unfold levelRunEnd
  dsimp only
  rw [ht, hgs, hdn, if_neg (by simpa using hne), if_neg (by omega)]
  rfl

/-- The operation that run 3 leaves, and its output bytes. -/
theorem thirdStands_spec {t : State} {o : Op} {r : State × RunSide} {ws : List Host.Cell} (hm : memWf t.mem = true)
    (ho : findOp t o.ctx o.idx = some o) (hops : r.1.ops = t.ops) (hmem : r.1.mem = t.mem) :
    ∃ p, findOp (thirdStands o r ws) o.ctx o.idx = some p ∧ p.ended = some (levelEnd p) ∧ p.reruns = 1 ∧
      ∀ a, memRead (overlaid (thirdStands o r ws) p).mem a =
        memRead (memWriteAll (memWriteAll t.mem o.writes) ws) a := by
  have hthird : findOp (updOp r.1 o.ctx o.idx (Op.third (checksOf o.d) r.2)) o.ctx o.idx = some (o.third (checksOf o.d) r.2) :=
    findOp_updOp_same r.1 _ _ _ ((findOp_congr hops _ _).trans ho) (fun _ => ⟨rfl, rfl⟩)
  have hwf : memWf (memWriteAll (memWriteAll r.1.mem o.writes) ws) = true :=
    memWriteAll_wf _ _ (memWriteAll_wf _ _ (hmem.symm ▸ hm))
  obtain ⟨held, hheld, hread⟩ := memRead_holdOver
    (s := updOp r.1 o.ctx o.idx (Op.third (checksOf o.d) r.2))
    (t := wrMem (overlaid (updOp r.1 o.ctx o.idx (Op.third (checksOf o.d) r.2)) o) ws) o.ctx o.idx o.writes hwf hthird
  refine ⟨_, findOp_endOp_same _ _ _ (levelEnd (o.third (checksOf o.d) r.2)) hheld, rfl, rfl, fun a => ?_⟩
  rw [← hmem]
  exact hread a

/-- Settled by its digests, a level-2 operation ends, runs a third time, or fails. -/
theorem levelRunEnd_spec {s : State} {o : Op} (alt : List (Nat × Byte)) (hm : memWf s.mem = true)
    (ho : findOp s o.ctx o.idx = some o) :
    let t := countRunChecks s o.d
    let gs := opOutputs (overlaid t o) o
    let m := memWriteAll s.mem o.writes
    let d1 := runDigest m gs
    let mn := memWriteAll m (altIn gs alt)
    let dn := runDigest mn gs
    (o.run = 2 → dn = d1 → levelRunEnd s o alt = endOp t o.ctx o.idx (levelEnd o)) ∧
    (o.run = 2 → dn ≠ d1 →
      levelRunEnd s o alt = updOp t o.ctx o.idx (fun p => { p with run := 3, digests := [d1, dn] })) ∧
    (o.run = 3 → gs ≠ [] → dn = o.digests.getD 0 0 → ∃ p, findOp (levelRunEnd s o alt) o.ctx o.idx = some p ∧
      p.ended = some (levelEnd { o with reruns := o.reruns + 1 }) ∧ p.writes = o.writes ∧ (levelRunEnd s o alt).mem = s.mem) ∧
    (o.run = 3 → gs ≠ [] → dn ≠ o.digests.getD 0 0 → dn = o.digests.getD 1 0 →
      ∃ p, findOp (levelRunEnd s o alt) o.ctx o.idx = some p ∧ p.ended = some (levelEnd p) ∧ p.reruns = 1 ∧
        ∀ a, memRead (overlaid (levelRunEnd s o alt) p).mem a = memRead mn a) ∧
    (o.run = 3 → gs ≠ [] → dn ≠ o.digests.getD 0 0 → dn ≠ o.digests.getD 1 0 →
      ∃ p, findOp (levelRunEnd s o alt) o.ctx o.idx = some p ∧
        p.ended = some ⟨.checkFail, faultTail t⟩ ∧ p.reruns = o.reruns + 1) := by
  have hregs : RegsOnly s (countRunChecks s o.d) := countRunChecks_regsOnly s o.d
  generalize ht : countRunChecks s o.d = t at hregs
  have hmem : t.mem = s.mem := (congrArg State.mem hregs).trans rfl
  have hto : findOp t o.ctx o.idx = some o := (findOp_congr ((congrArg State.ops hregs).trans rfl) _ _).trans ho
  have hagain : findOp (againOp t o) o.ctx o.idx = some { o with reruns := o.reruns + 1 } :=
    findOp_updOp_same t _ _ _ hto (fun _ => ⟨rfl, rfl⟩)
  dsimp only
  generalize hgs : opOutputs (overlaid t o) o = gs
  rw [← hmem]
  have hsecond := fun hr => levelRunEnd_second alt ht hr hgs
  have hthird := fun hr hne => levelRunEnd_third alt ht hr hgs hne rfl
  refine ⟨fun hr hd => ?_, fun hr hd => ?_, fun hr hne h0 => ?_, fun hr hne h0 h1 => ?_, fun hr hne h0 h1 => ?_⟩
  · rw [hsecond hr, if_pos hd]
  · rw [hsecond hr, if_neg hd]
  · rw [hthird hr hne, if_pos h0]
    exact ⟨_, findOp_endOp_same _ _ _ _ hagain, rfl, rfl, rfl⟩
  · rw [hthird hr hne, if_neg h0, if_pos h1]
    exact thirdStands_spec (hmem.symm ▸ hm) hto rfl rfl
  · rw [hthird hr hne, if_neg h0, if_neg h1]
    exact ⟨_, findOp_endWithRecord_same _ _ _ _ hagain, rfl, rfl⟩

/-! ### Parking -/

/-- A context with one reserved completion slot less. -/
def Ctx.unreserved (y : Ctx) : Ctx := { y with reserved := y.reserved - 1 }

/-- The PARKED entry of an operation. -/
def parkedEntry (o : Op) (detail : Nat) : Entry := ⟨o.idx, .parked, false, false, false, dTag o.d, detail, dNotify o.d⟩

/-- What the PARKED entry leaves: the context with its tail moved on and a reserved slot used, and the entry's bytes. -/
theorem parkEntry_spec {s : State} {o : Op} {x : Ctx} (detail : Nat) (hx : findCtx s o.ctx = some x) :
    (∃ y, findCtx (parkEntry s o detail) o.ctx = some y ∧ y.cqTail = (x.cqTail + 1) % 2 ^ 32 ∧
      y.reserved = x.reserved - 1 ∧ y.halted = x.halted) ∧
    (parkEntry s o detail).hostMem = memWriteAll s.hostMem (cplWrites s x (parkedEntry o detail)) ∧
    (parkEntry s o detail).ops = s.ops ∧ (parkEntry s o detail).mem = s.mem := by
  have hframe : HostRings s (writeEntry s o.ctx (parkedEntry o detail)) := writeEntry_frame _ _ _
  refine ⟨⟨_, findCtx_updCtx_same _ o.ctx Ctx.unreserved (findCtx_writeEntry_same (parkedEntry o detail) hx) (fun _ => rfl),
    rfl, rfl, Bool.or_false _⟩, writeEntry_hostMem (parkedEntry o detail) hx, ?_, ?_⟩
  · exact (congrArg State.ops hframe).trans rfl
  · exact (congrArg State.mem hframe).trans rfl

/-- An operation that parks, with the number of its first parking. -/
def Op.park (n : Nat) (p : Op) : Op := { p with parked := true, away := [], everParked := true, parkNo := n }

/-- Beside the operation, what a Truing operation saves as it parks. -/
def parkSaved (s : State) (o : Op) : State :=
  if isTruing o then event (countF (parkSave s o) (tMill o.d) Reg.truParks_count 0 1) (tMill o.d) 0x04 1 else s

/-- What a Truing operation saves is memory, registers and free values. -/
theorem parkSaved_frame (s : State) (o : Op) :
    (parkSaved s o).ops = s.ops ∧ (parkSaved s o).rings = s.rings ∧ (parkSaved s o).hostMem = s.hostMem ∧
      (parkSaved s o).time = s.time ∧ (isTruing o = false → (parkSaved s o).mem = s.mem) := by
  unfold parkSaved
  split
  · next ht =>
    have hregs : RegsOnly (parkSave s o)
        (event (countF (parkSave s o) (tMill o.d) Reg.truParks_count 0 1) (tMill o.d) 0x04 1) :=
      (countF_regsOnly _ _ 0 1 (by decide)).trans (event_regsOnly _ _ _ _)
    rw [show event (countF (parkSave s o) (tMill o.d) Reg.truParks_count 0 1) (tMill o.d) 0x04 1 = _ from hregs]
    exact ⟨rfl, rfl, rfl, rfl, fun h => absurd h (by simp [ht])⟩
  · exact ⟨rfl, rfl, rfl, rfl, fun _ => rfl⟩

/-- Parking: the operation marked, its state saved, and its entry written the first time. -/
theorem parkOp_eq (s : State) (o : Op) (g : Nat) :
    ∃ n, parkOp s o g = if o.everParked then parkSaved (updOp s o.ctx o.idx (Op.park n)) o
      else parkEntry (parkSaved (updOp s o.ctx o.idx (Op.park n)) o) o (parkDetail o g) :=
  ⟨_, rfl⟩

/-- What parking leaves of an operation and of its context. -/
theorem parkOp_spec {s : State} {o : Op} {x : Ctx} (g : Nat) (ho : findOp s o.ctx o.idx = some o)
    (hx : findCtx s o.ctx = some x) :
    (∃ n, findOp (parkOp s o g) o.ctx o.idx = some (o.park n)) ∧
    (o.everParked = false →
      (∃ y, findCtx (parkOp s o g) o.ctx = some y ∧ y.cqTail = (x.cqTail + 1) % 2 ^ 32 ∧ y.reserved = x.reserved - 1 ∧
        y.halted = x.halted) ∧
      (parkOp s o g).hostMem = memWriteAll s.hostMem (cplWrites s x (parkedEntry o (parkDetail o g)))) ∧
    (o.everParked = true → (parkOp s o g).hostMem = s.hostMem ∧ findCtx (parkOp s o g) o.ctx = some x) ∧
    (isTruing o = false → (parkOp s o g).mem = s.mem) := by
  obtain ⟨n, hpark⟩ := parkOp_eq s o g
  obtain ⟨hops, hrings, hhost, htime, hmem⟩ := parkSaved_frame (updOp s o.ctx o.idx (Op.park n)) o
  have hfound : findOp (updOp s o.ctx o.idx (Op.park n)) o.ctx o.idx = some (o.park n) :=
    findOp_updOp_same s _ _ _ ho (fun _ => ⟨rfl, rfl⟩)
  have hsaved : findCtx (parkSaved (updOp s o.ctx o.idx (Op.park n)) o) o.ctx = some x :=
    (findCtx_congr (congrArg Rings.ctxs hrings) _).trans hx
  rw [hpark]
  cases he : o.everParked with
  | true =>
    rw [if_pos rfl]
    exact ⟨⟨n, (findOp_congr hops _ _).trans hfound⟩, fun h => absurd h (by decide), fun _ => ⟨hhost, hsaved⟩, hmem⟩
  | false =>
    rw [if_neg (by decide)]
    obtain ⟨hctx, hbytes, hpops, hpmem⟩ := parkEntry_spec (parkDetail o g) hsaved
    refine ⟨⟨n, (findOp_congr (hpops.trans hops) _ _).trans hfound⟩, fun _ => ⟨hctx, ?_⟩, fun h => absurd h (by decide),
      fun h => hpmem.trans (hmem h)⟩
    rw [hbytes, cplWrites_congr htime, hhost]
    rfl

/-- An UPDATE parks without completing units where none is asked beyond those done. -/
theorem updPark_done {s : State} {o : Op} {k : Nat} (h : k ≤ (updOf o).unit) : updPark s o k = s := by
  simp [updPark, h]

/-- ELASTIC work at a park point after its slot parks. -/
theorem exec_operationPark {s : State} {c i g : Nat} {o : Op} (ho : findOp s c i = some o) (he : o.ended = none)
    (hp : o.parked = false) (hr : runsElastic o.d = true) (hs : slotOver s o = true) (ha : atParkPoint s o = true)
    (hg : parkAllowed s o g = true) (hu : dOpcode o.d = 0x0900 → g ≤ (updOf o).unit) :
    exec (.operationPark c i g) s = .next (parkOp s o g) := by
  have hupd : (if dOpcode o.d = 0x0900 then updPark s o g else s) = s := by
    split
    · next h => exact updPark_done (hu h)
    · rfl
  show execOperationPark c i g s = _
  rw [execOperationPark, ho]
  dsimp only
  rw [if_pos (by simp [he, hp, hr, hs, ha, hg]), hupd, ho]
  dsimp only
  rw [he]
  rfl

/-- Where an operation may not park, nothing changes. -/
theorem exec_operationPark_still {s : State} {c i g : Nat} {o : Op} (ho : findOp s c i = some o)
    (h : o.ended ≠ none ∨ o.parked = true ∨ runsElastic o.d = false ∨ slotOver s o = false ∨ atParkPoint s o = false ∨
      parkAllowed s o g = false) : exec (.operationPark c i g) s = .next s := by
  show execOperationPark c i g s = _
  rw [execOperationPark, ho]
  dsimp only
  rw [if_neg]
  intro hall
  simp only [Bool.and_eq_true, Bool.not_eq_true', Option.isNone_iff_eq_none] at hall
  obtain ⟨⟨⟨⟨⟨he, hp⟩, hr⟩, hs⟩, ha⟩, hg⟩ := hall
  simp [he, hp, hr, hs, ha, hg] at h

/-- Operation `o` goes on in some units, in a new slot where it was parked: the change of its record `p`. -/
def Op.resume (o : Op) (ticks : Nat) (us : List Nat) (p : Op) : Op :=
  { p with parked := false, away := (awayUnits o).filter (fun u => !us.contains u), slot := if o.parked then ticks else p.slot }

/-- OPERATION_RESUME takes an operation up again in the units that are free for it. -/
theorem exec_operationResume {s : State} {c i : Nat} {o : Op} (ho : findOp s c i = some o) (hn : resumeUnits s o ≠ []) :
    let p := o.resume s.time.ticksTaken (resumeUnits s o) o
    ∃ t, findOp t c i = some p ∧ t = { s with ops := t.ops } ∧
      exec (.operationResume c i) s = .next (if o.run = 1 then resumeWork t p (resumeUnits s o) else t) := by
  dsimp only
  generalize hus : resumeUnits s o = us at hn ⊢
  have hfound := findOp_updOp_same s c i (o.resume s.time.ticksTaken us) ho (fun _ => ⟨rfl, rfl⟩)
  refine ⟨_, hfound, rfl, ?_⟩
  have hupd : updOp s c i (fun p => { p with
      parked := false, away := (awayUnits o).filter (fun u => !us.contains u)
      slot := if o.parked then s.time.ticksTaken else p.slot }) = updOp s c i (o.resume s.time.ticksTaken us) := rfl
  show execOperationResume c i s = _
  rw [execOperationResume, ho]
  dsimp only
  rw [hus, if_neg (by simpa using hn), hupd, hfound]
  rfl

/-- OPERATION_RESUME where no unit is free changes nothing. -/
theorem exec_operationResume_still {s : State} {c i : Nat} {o : Op} (ho : findOp s c i = some o)
    (hn : resumeUnits s o = []) : exec (.operationResume c i) s = .next s := by
  show execOperationResume c i s = _
  rw [execOperationResume, ho]
  dsimp only
  rw [hn]
  rfl

/-! ### The obligation -/

/-- A piece of work at check level 0 or 1 holds nothing aside. -/
theorem onSide_plain {s : State} {c i : Nat} {o : Op} (f : State → State) (ho : findOp s c i = some o)
    (hl : checkLevel o.d ≠ 2) : onSide s c i f = f s := by
  rw [onSide, ho]
  exact if_pos hl

/-- Settles O40: MATMUL_PAIR is its held tile runs, a level-2 run is judged by its digests, and parking and resuming
change an operation's marks, its context's slot and its save area. -/
theorem pairLevelTwoAndParking : Obligations.PairLevelTwoAndParking := by
  refine ⟨?pair, ?runEnd, ?judged, ?park, ?still, ?resume⟩
  case pair =>
    intro s c i o ho
    obtain ⟨hfound, _, _, _⟩ := runningOp_some ho
    have hexec : exec (.matmulPair c i) s = .next (onSide s c i (fun t => holdTrain t (matRunAll t o) c i)) :=
      congrArg Host.Outcome.next (onOp_running _ ho)
    exact ⟨hexec, fun hl => hexec.trans (congrArg Host.Outcome.next (onSide_plain _ hfound hl))⟩
  case runEnd =>
    intro s c i o alt ho he hp hr
    obtain ⟨rfl, rfl⟩ := findOp_place ho
    obtain ⟨p, hfound, hrun, hdigests, hplain⟩ := findOp_mendOp ho
    exact ⟨p, hfound, hrun, hdigests, exec_level2RunEnd alt ho he hp hr hfound, hplain⟩
  case judged =>
    intro s o alt hm ho
    exact levelRunEnd_spec alt hm ho
  case park =>
    intro s c i g o x ho hx he hp hr hs ha hg hu
    obtain ⟨rfl, rfl⟩ := findOp_place ho
    obtain ⟨⟨n, hfound⟩, hfirst, hagain, hmem⟩ := parkOp_spec g ho hx
    refine ⟨_, _, exec_operationPark ho he hp hr hs ha hg hu, hfound, rfl, rfl, rfl, he, rfl, fun h => ?_, hagain, hmem⟩
    obtain ⟨⟨y, hy, htail, hreserved, hhalted⟩, hbytes⟩ := hfirst h
    exact ⟨y, hy, htail, hreserved, hhalted, hbytes⟩
  case still =>
    intro s c i g o ho h
    exact exec_operationPark_still ho h
  case resume =>
    intro s c i o ho
    refine ⟨exec_operationResume_still ho, fun hn => ?_⟩
    obtain ⟨t, hfound, ht, hexec⟩ := exec_operationResume ho hn
    exact ⟨t, _, hfound, rfl, ht, hexec⟩

end Sys2Proof.Machine
end

section
/-!
SUPPORT. Number formats (R75 to R82, R89): an exact value keeps its code under conversion, and packed rows read back.
-/

namespace Sys2Proof.Machine

/-! ### Conversions that are exact (R89) -/

/-- Without a remainder every rounding keeps the quotient. -/
theorem roundUnit_exact (r : Rnd) (n : Nat) {d : Nat} (hd : 0 < d) : roundUnit r n 0 d = n := by
  cases r with
  | rz => rfl
  | rne => simp [roundUnit, hd.ne]
  | sr w => simp [roundUnit]

/-- The fraction of `m × 2 ^ e`, whatever the sign of `e`. -/
theorem dyadicQ_eq (m : Nat) (e : Int) : dyadicQ m e = (m * 2 ^ e.toNat, 2 ^ (-e).toNat) := by
  unfold dyadicQ
  split
  · next he => rw [Int.toNat_of_nonpos (by omega : -e ≤ 0), Nat.pow_zero]
  · next he => rw [Int.toNat_of_nonpos (by omega : e ≤ 0), Nat.pow_zero, Nat.mul_one]

/-- A shift to the left by `k` places raises the place of the leading one by `k`. -/
theorem log2_mul_two_pow {m : Nat} (hm : m ≠ 0) (k : Nat) : Nat.log2 (m * 2 ^ k) = Nat.log2 m + k := by
  induction k with
  | zero => simp
  | succ k ih =>
    rw [Nat.pow_succ', Nat.mul_left_comm, Nat.log2_two_mul (by positivity), ih, Nat.add_assoc]

/-- The binary logarithm of `m × 2 ^ e`. -/
theorem floorLog2Q_dyadicQ {m : Nat} (hm : m ≠ 0) (e : Int) :
    floorLog2Q (dyadicQ m e).1 (dyadicQ m e).2 = (Nat.log2 m : Int) + e := by
  have hle : 2 ^ Nat.log2 m ≤ m := Nat.log2_self_le hm
  have hk : ((Nat.log2 m + e.toNat : Nat) : Int) - ((-e).toNat : Nat) = Nat.log2 m + e := by omega
  simp only [floorLog2Q, dyadicQ_eq, log2_mul_two_pow hm, Nat.log2_two_pow, hk]
  refine if_pos ?_
  split
  · next h =>
    have hexp : (-e).toNat + (Nat.log2 m + e).toNat = Nat.log2 m + e.toNat := by omega
    rw [decide_eq_true_iff, ← Nat.pow_add, hexp, Nat.pow_add]
    exact Nat.mul_le_mul_right _ hle
  · next h =>
    have hexp : (-e).toNat = Nat.log2 m + (e.toNat + (-(Nat.log2 m + e)).toNat) := by omega
    rw [decide_eq_true_iff, Nat.mul_assoc, ← Nat.pow_add, hexp, Nat.pow_add]
    exact Nat.mul_le_mul_right _ hle

/-- `m × 2 ^ e` in units of `2 ^ e` is `m`, with no remainder. -/
theorem scaledQ_dyadicQ (m : Nat) (e : Int) :
    scaledQ (dyadicQ m e).1 (dyadicQ m e).2 e = (m, 0, 2 ^ e.natAbs) := by
  by_cases he : 0 ≤ e
  · have hn : e.toNat = e.natAbs := by omega
    simp [scaledQ, dyadicQ, he, hn]
  · have hn : (-e).toNat = e.natAbs := by omega
    simp [scaledQ, dyadicQ, he, hn]

/-- `mag` is the magnitude code of `m × 2 ^ e` in the float format `f` (R76, R77): `2 ^ e` is the unit in which the
format writes a magnitude of this size, and the exponent field counts units from the smallest one on. -/
def IsMagCode (f : Fmt) (mag m : Nat) (e : Int) : Prop :=
  max ((Nat.log2 m : Int) + e) (1 - fmtBias f) - fmtMant f = e ∧
    (e - (1 - fmtBias f) + fmtMant f).toNat * 2 ^ fmtMant f + m = mag

/-- A magnitude that the format represents keeps its code under every rounding. -/
theorem roundMagFloat_exact {f : Fmt} (r : Rnd) {mag m : Nat} {e : Int} (h : IsMagCode f mag m e) (hm : m ≠ 0)
    (hmax : mag ≤ fmtMaxCode f) : roundMagFloat f r (dyadicQ m e).1 (dyadicQ m e).2 = (mag, false) := by
  obtain ⟨hunit, hcode⟩ := h
  simp only [roundMagFloat, floorLog2Q_dyadicQ hm, hunit, scaledQ_dyadicQ]
  rw [roundUnit_exact r m (by positivity), hcode, if_neg (by omega)]

/-- The fraction field of a subnormal code is the code of its value. -/
theorem isMagCode_subnormal {f : Fmt} {fr : Nat} (hfr : fr < 2 ^ fmtMant f) :
    IsMagCode f fr fr (1 - fmtBias f - fmtMant f) := by
  have hlog : Nat.log2 fr ≤ fmtMant f := by
    rw [Nat.log2_eq_log_two]
    exact (Nat.log_mono_right hfr.le).trans_eq (Nat.log_pow Nat.one_lt_two _)
  exact ⟨by omega, by simp⟩

/-- The exponent and fraction fields of a normal code are the code of its value. -/
theorem isMagCode_normal {f : Fmt} {k fr : Nat} (hk : k ≠ 0) (hfr : fr < 2 ^ fmtMant f) :
    IsMagCode f (k * 2 ^ fmtMant f + fr) (2 ^ fmtMant f + fr) (k - fmtBias f - fmtMant f) := by
  have hlog : Nat.log2 (2 ^ fmtMant f + fr) = fmtMant f := by
    rw [Nat.log2_eq_iff (by positivity), Nat.pow_succ]
    omega
  refine ⟨by omega, ?_⟩
  have hexp : ((k : Int) - fmtBias f - fmtMant f - (1 - fmtBias f) + fmtMant f).toNat + 1 = k := by omega
  rw [← Nat.add_assoc, ← Nat.succ_mul, Nat.succ_eq_add_one, hexp]

/-- The sign bit and the magnitude of a code make up the code. -/
theorem withSign_bit (f : Fmt) {code : Nat} (h : code < 2 ^ fmtWidth f) :
    withSign f (bit code (fmtWidth f - 1)) (code % 2 ^ (fmtWidth f - 1)) = code := by
  have hw : 2 ^ fmtWidth f = 2 ^ (fmtWidth f - 1) * 2 := by cases f <;> rfl
  have htop : code / 2 ^ (fmtWidth f - 1) < 2 := Nat.div_lt_of_lt_mul (hw ▸ h)
  have hsplit := Nat.div_add_mod code (2 ^ (fmtWidth f - 1))
  rw [withSign, bit, Nat.shiftRight_eq_div_pow, Nat.mod_eq_of_lt htop]
  interval_cases code / 2 ^ (fmtWidth f - 1) <;> simpa using hsplit

/-- What a float code that is no NaN stands for: an infinity, or a finite value of which its magnitude is the code. -/
theorem decodeCode_float {f : Fmt} (hf : fmtIsInt f = false) {code : Nat} (hn : fvIsNan (decodeCode f code) = false) :
    (fmtInf f = some (code % 2 ^ (fmtWidth f - 1)) ∧ decodeCode f code = .inf (bit code (fmtWidth f - 1))) ∨
      ∃ m e, decodeCode f code = .fin (bit code (fmtWidth f - 1)) m e ∧
        IsMagCode f (code % 2 ^ (fmtWidth f - 1)) m e ∧ code % 2 ^ (fmtWidth f - 1) ≤ fmtMaxCode f := by
  simp only [decodeCode, hf, Bool.false_eq_true, reduceIte] at hn ⊢
  set mag := code % 2 ^ (fmtWidth f - 1)
  by_cases hi : fmtInf f = some mag
  · exact .inl ⟨hi, if_pos hi⟩
  rw [if_neg hi] at hn ⊢
  by_cases hmax : fmtMaxCode f < mag
  · simp [hmax, fvIsNan] at hn
  rw [if_neg hmax]
  have hfr : mag % 2 ^ fmtMant f < 2 ^ fmtMant f := Nat.mod_lt _ (by positivity)
  have hmag : mag >>> fmtMant f * 2 ^ fmtMant f + mag % 2 ^ fmtMant f = mag := by
    rw [Nat.shiftRight_eq_div_pow, Nat.div_add_mod']
  by_cases h0 : mag >>> fmtMant f = 0
  · rw [h0, Nat.zero_mul, Nat.zero_add] at hmag
    refine .inr ⟨_, _, if_pos h0, ?_, not_lt.1 hmax⟩
    simpa only [hmag] using isMagCode_subnormal hfr
  · refine .inr ⟨_, _, if_neg h0, ?_, not_lt.1 hmax⟩
    simpa only [hmag] using isMagCode_normal h0 hfr

/-- A float value that the format represents converts to its magnitude code under its sign. -/
theorem convert_fin_exact {f : Fmt} (hf : fmtIsInt f = false) (r : Rnd) (neg : Bool) {mag m : Nat} {e : Int}
    (h : IsMagCode f mag m e) (hmax : mag ≤ fmtMaxCode f) : (convert f r (.fin neg m e)).1 = withSign f neg mag := by
  by_cases hm : m = 0
  · subst hm
    have hmant : fmtMant f ≠ 0 := by cases f <;> simp_all [fmtIsInt, fmtMant]
    obtain ⟨hunit, hcode⟩ := h
    have hexp : (e - (1 - fmtBias f) + fmtMant f).toNat = 0 := by
      rw [Nat.log2_zero] at hunit
      omega
    have hmag : mag = 0 := by simpa [hexp] using hcode.symm
    simp [convert, convertQ, dyadicQ_eq, hf, hmag]
  · have hnum : (dyadicQ m e).1 ≠ 0 := by
      rw [dyadicQ_eq]
      positivity
    simp [convert, convertQ, hnum, hf, roundMagFloat_exact r h hm hmax]

/-- A float code that is no NaN is the code of its value. -/
theorem convert_decodeCode_float {f : Fmt} (hf : fmtIsInt f = false) (r : Rnd) {code : Nat} (hc : code < 2 ^ fmtWidth f)
    (hn : fvIsNan (decodeCode f code) = false) : (convert f r (decodeCode f code)).1 = code := by
  obtain ⟨hinf, hdec⟩ | ⟨m, e, hdec, hmag, hmax⟩ := decodeCode_float hf hn
  · rw [hdec]
    refine Eq.trans ?_ (withSign_bit f hc)
    simp [convert, hf, hinf]
  · rw [hdec, convert_fin_exact hf r _ hmag hmax, withSign_bit f hc]

/-! ### Integer formats (R80) -/

/-- The two's complement of a signed reading is the code that was read. -/
theorem ofSigned_toSigned {w code : Nat} (h : code < 2 ^ w) : ofSigned w (toSigned w code) = code := by
  have hmod : toSigned w code % ((2 ^ w : Nat) : Int) = code := by
    rw [toSigned, Nat.mod_eq_of_lt h]
    split
    · exact Int.emod_eq_of_lt (by omega) (by exact_mod_cast h)
    · rw [Int.sub_emod_right]
      exact Int.emod_eq_of_lt (by omega) (by exact_mod_cast h)
  rw [ofSigned, hmod, Int.toNat_natCast]

/-- A signed reading of an integer format's width lies in the range of the format. -/
theorem toSigned_range {f : Fmt} (hf : fmtIsInt f = true) (code : Nat) :
    -((fmtMaxCode f : Int) + 1) ≤ toSigned (fmtWidth f) code ∧ toSigned (fmtWidth f) code ≤ fmtMaxCode f := by
  have htop : 2 ^ (fmtWidth f - 1) = fmtMaxCode f + 1 ∧ 2 ^ fmtWidth f = 2 * (fmtMaxCode f + 1) := by
    cases f <;> simp_all [fmtIsInt, fmtWidth, fmtMaxCode]
  have hlt : code % 2 ^ fmtWidth f < 2 ^ fmtWidth f := Nat.mod_lt _ (by positivity)
  rw [toSigned]
  split <;> omega

/-- An integer in the range of an integer format converts to its two's complement. -/
theorem convert_int_exact {f : Fmt} (hf : fmtIsInt f = true) (r : Rnd) {i : Int} (hlo : -((fmtMaxCode f : Int) + 1) ≤ i)
    (hhi : i ≤ fmtMaxCode f) : (convert f r (fvOfInt i)).1 = ofSigned (fmtWidth f) i := by
  by_cases hi : i = 0
  · subst hi
    simp [fvOfInt, convert, convertQ, dyadicQ, hf, ofSigned]
  · have hnum : dyadicQ i.natAbs 0 = (i.natAbs, 1) := by simp [dyadicQ]
    have hround : roundUnit r (i.natAbs / 1) (i.natAbs % 1) 1 = i.natAbs := by
      rw [Nat.div_one, Nat.mod_one, roundUnit_exact r _ Nat.one_pos]
    have htop : ¬ (if i < 0 then fmtMaxCode f + 1 else fmtMaxCode f) < i.natAbs := by split <;> omega
    have hsign : (if i < 0 then -(i.natAbs : Int) else i.natAbs) = i := by split <;> omega
    simp only [fvOfInt, convert, convertQ, hnum, hround, hf, decide_eq_true_eq, hsign, Int.natAbs_eq_zero, hi, htop,
      reduceIte]

/-- A code of an integer format is the code of its value. -/
theorem convert_decodeCode_int {f : Fmt} (hf : fmtIsInt f = true) (r : Rnd) {code : Nat} (hc : code < 2 ^ fmtWidth f) :
    (convert f r (decodeCode f code)).1 = code := by
  obtain ⟨hlo, hhi⟩ := toSigned_range hf code
  have hdec : decodeCode f code = fvOfInt (toSigned (fmtWidth f) code) := if_pos hf
  rw [hdec, convert_int_exact hf r hlo hhi, ofSigned_toSigned hc]

/-! ### Packed rows (R81, R82) -/

/-- Byte `k` of a value written little-endian. -/
theorem getD_leBytes {n k : Nat} (x : Nat) (h : k < n) : (leBytes n x).getD k 0 = BitVec.ofNat 8 (x / 256 ^ k) := by
  induction n generalizing k x with
  | zero => omega
  | succ n ih =>
    cases k with
    | zero => simp [leBytes]
    | succ k =>
      rw [leBytes, List.getD_cons_succ, ih _ (by omega), Nat.div_div_eq_div_mul, Nat.pow_succ']

/-- Consecutive bytes of a value written little-endian are the value from their first bit on. -/
theorem leNat_map_getD_leBytes {k n len : Nat} (x : Nat) (h : k + n ≤ len) :
    leNat ((List.range n).map (fun i => (leBytes len x).getD (k + i) 0)) = x / 2 ^ (8 * k) % 2 ^ (8 * n) := by
  have hbytes : (List.range n).map (fun i => (leBytes len x).getD (k + i) 0) = leBytes n (x / 2 ^ (8 * k)) := by
    refine List.ext_getElem (by simp) fun i hi _ => ?_
    have hi' : i < n := by simpa using hi
    rw [List.getElem_map, List.getElem_range, getD_leBytes x (by omega), ← List.getD_eq_getElem _ 0, getD_leBytes _ hi',
      Nat.div_div_eq_div_mul, Nat.pow_add, Nat.pow_mul]
  rw [hbytes, leNat_leBytes]

/-- A field inside a window of bits is the field of the whole value. -/
theorem bits_window {x p q lo hi : Nat} (hl : lo ≤ hi) (hq : hi < q) :
    bits (x / 2 ^ p % 2 ^ q) hi lo = x / 2 ^ (p + lo) % 2 ^ (hi + 1 - lo) := by
  have hsplit : 2 ^ q = 2 ^ lo * 2 ^ (q - lo) := by rw [← Nat.pow_add, Nat.add_sub_cancel' (by omega)]
  rw [bits, Nat.shiftRight_eq_div_pow, hsplit, Nat.mod_mul_right_div_self, Nat.div_div_eq_div_mul, ← Nat.pow_add,
    Nat.mod_mod_of_dvd _ (Nat.pow_dvd_pow 2 (by omega))]

/-- The sum of codes at the places from `k` on, as `packRow` forms it, is the number with the codes as its digits. -/
theorem foldl_places_eq_ofDigits (w : Nat) (cs : List Nat) (k acc : Nat) :
    ((List.range' k cs.length).zip cs).foldl (fun acc p => acc + p.2 * 2 ^ (w * p.1)) acc =
      acc + 2 ^ (w * k) * Nat.ofDigits (2 ^ w) cs := by
  induction cs generalizing k acc with
  | nil => simp
  | cons c cs ih =>
    rw [List.length_cons, List.range'_succ, List.zip_cons_cons, List.foldl_cons, ih, Nat.ofDigits_cons, Nat.mul_succ,
      Nat.pow_add]
    ring

/-- A packed row is the number with the codes as its digits, written little-endian. -/
theorem packRow_eq (w : Nat) (cs : List Nat) :
    packRow w cs = leBytes (packedLen w cs.length) (Nat.ofDigits (2 ^ w) cs) := by
  rw [packRow, List.range_eq_range', foldl_places_eq_ofDigits, Nat.mul_zero, Nat.pow_zero, Nat.one_mul, Nat.zero_add]

/-- Digit `i` of a list of digits. -/
theorem ofDigits_div_mod {w : Nat} {cs : List Nat} (h : ∀ c ∈ cs, c < 2 ^ w) (i : Nat) :
    Nat.ofDigits (2 ^ w) cs / 2 ^ (w * i) % 2 ^ w = cs.getD i 0 := by
  rw [Nat.pow_mul, Nat.ofDigits_div_pow_eq_ofDigits_drop i (by positivity) cs h, Nat.ofDigits_mod_eq_head!]
  rcases lt_or_ge i cs.length with hi | hi
  · rw [List.drop_eq_getElem_cons hi, List.head!_cons, Nat.mod_eq_of_lt (h _ (List.getElem_mem hi)),
      List.getD_eq_getElem _ _ hi]
  · rw [List.drop_eq_nil_of_le hi, List.getD_eq_default _ _ hi]
    exact Nat.zero_mod _

/-- Element `i` of packed bytes of 8 bits or more is field `i` of the value that the bytes hold. -/
theorem packedGet_bytes {x len n i : Nat} (h : i * n + n ≤ len) :
    packedGet (fun a => (leBytes len x).getD a 0) (8 * n) i = x / 2 ^ (8 * n * i) % 2 ^ (8 * n) := by
  rw [packedGet, if_neg (by omega), if_neg (by omega), Nat.mul_div_cancel_left n (by decide),
    leNat_map_getD_leBytes x h, Nat.mul_assoc, Nat.mul_comm n i]

/-- Element `i` of packed 4-bit elements is field `i` of the value that the bytes hold. -/
theorem packedGet_four {x len i : Nat} (h : i / 2 < len) :
    packedGet (fun a => (leBytes len x).getD a 0) 4 i = x / 2 ^ (4 * i) % 2 ^ 4 := by
  have hbyte := leNat_map_getD_leBytes (k := i / 2) (n := 1) x h
  simp only [List.range_one, List.map_cons, List.map_nil, leNat, Nat.mul_zero, Nat.add_zero] at hbyte
  rw [packedGet, if_pos rfl, hbyte, bits_window (by omega) (by omega)]
  congr 3 <;> omega

/-- Element `i` of packed 6-bit elements is field `i` of the value that the bytes hold. -/
theorem packedGet_six {x len i : Nat} (h : 3 * (i / 4) + 3 ≤ len) :
    packedGet (fun a => (leBytes len x).getD a 0) 6 i = x / 2 ^ (6 * i) % 2 ^ 6 := by
  have hgroup := leNat_map_getD_leBytes x h
  have hthree (a b c : Byte) : leNat [a, b, c] = a.toNat + 256 * b.toNat + 65536 * c.toNat := by
    simp only [leNat]
    omega
  rw [show List.range 3 = [0, 1, 2] from rfl, List.map_cons, List.map_cons, List.map_cons, List.map_nil, hthree,
    Nat.add_zero] at hgroup
  rw [packedGet, if_neg (by decide), if_pos rfl]
  dsimp only
  rw [hgroup, bits_window (by omega) (by omega)]
  congr 3 <;> omega

/-- Every element of a packed row reads back as its code. -/
theorem packedGet_packRow {w i : Nat} {cs : List Nat} (hw : w = 4 ∨ w = 6 ∨ w = 8 ∨ w = 16 ∨ w = 32 ∨ w = 64)
    (hcs : ∀ c ∈ cs, c < 2 ^ w) (hi : i < cs.length) :
    packedGet (fun a => (packRow w cs).getD a 0) w i = cs.getD i 0 := by
  rw [← ofDigits_div_mod hcs, packRow_eq]
  rcases hw with rfl | rfl | hw
  · exact packedGet_four (by simp only [packedLen, reduceIte]; omega)
  · exact packedGet_six (by simp only [packedLen, Nat.reduceEqDiff, reduceIte]; omega)
  · obtain ⟨n, rfl⟩ : ∃ n, w = 8 * n := ⟨w / 8, by omega⟩
    have hlen : packedLen (8 * n) cs.length = cs.length * n := by
      rw [packedLen, if_neg (by omega), if_neg (by omega), Nat.mul_div_cancel_left n (by decide)]
    refine packedGet_bytes ?_
    rw [hlen, ← Nat.succ_mul]
    exact Nat.mul_le_mul_right n hi

/-! ### The obligation -/

/-- Settles O36: a code of a format is recovered from its exact value, and a row of codes from its packed bytes. -/
theorem elementsKeepTheirCodes : Obligations.ElementsKeepTheirCodes := by
  refine ⟨fun f r code hc hn => ?_, fun w i cs hw hcs hi => ⟨?_, packedGet_packRow hw hcs hi⟩⟩
  · cases hf : fmtIsInt f with
    | true => exact convert_decodeCode_int hf r hc
    | false => exact convert_decodeCode_float hf r hc hn
  · rw [packRow_eq, length_leBytes]

end Sys2Proof.Machine
end

section
/-!
SUPPORT. INT32 tiles (R111, R112, R114, R122, R123): the exact sum of an output, and the lines that its sum check names.
-/

namespace Sys2Proof.Machine

/-! ### Integers as values (R80, R114) -/

/-- The integer of an integer's value. -/
@[simp] theorem fvInt_fvOfInt (z : Int) : fvInt (fvOfInt z) = z := by
  rcases lt_or_ge z 0 with hz | hz
  · simp [fvInt, fvOfInt, fvAt, hz, abs_of_neg hz]
  · simp [fvInt, fvOfInt, fvAt, not_lt.mpr hz, abs_of_nonneg hz]

/-- The product of two integers' values is the value of their product. -/
@[simp] theorem fvInt_fvMul (a b : Int) : fvInt (fvMul (fvOfInt a) (fvOfInt b)) = a * b := by
  rcases lt_or_ge a 0 with ha | ha <;> rcases lt_or_ge b 0 with hb | hb <;>
    simp [fvInt, fvMul, fvOfInt, fvAt, *, not_lt.mpr, abs_of_neg, abs_of_nonneg]

/-- Zero is the value of the integer 0. -/
theorem fvZero_eq : fvZero = fvOfInt 0 := rfl

/-- An integer in the range of INT32. -/
def InInt32 (z : Int) : Prop := -(2 ^ 31) ≤ z ∧ z < 2 ^ 31

/-- The signed reading of the two's complement of an integer in range is the integer. -/
theorem toSigned_ofSigned {z : Int} (h : InInt32 z) : toSigned 32 (ofSigned 32 z) = z := by
  obtain ⟨hlo, hhi⟩ := h
  simp only [toSigned, ofSigned]
  omega

/-- An accumulator's code of an integer in range is its two's complement. -/
theorem accCode_fvOfInt {z : Int} (h : InInt32 z) : accCode .i32 (fvOfInt z) = ofSigned 32 z := by
  obtain ⟨hlo, hhi⟩ := h
  exact convert_int_exact (f := .int32) rfl .rne (by simp only [fmtMaxCode]; omega) (by simp only [fmtMaxCode]; omega)

/-- An integer in range reads back from its code. -/
theorem decodeCode_ofSigned {z : Int} (h : InInt32 z) : decodeCode .int32 (ofSigned 32 z) = fvOfInt z :=
  congrArg fvOfInt (toSigned_ofSigned h)

/-- A sum that does not saturate is the exact sum, and in range. -/
theorem satAdd32_exact {a b : Int} (h : (satAdd32 a b).2 = false) : (satAdd32 a b).1 = a + b ∧ InInt32 (a + b) := by
  unfold satAdd32 InInt32 at *
  dsimp only at *
  split at h
  · cases h
  · split at h
    · cases h
    · simp only [*, reduceIte]
      exact ⟨trivial, by omega⟩

/-- A sum in range does not saturate. -/
theorem satAdd32_inRange {a b : Int} (h : InInt32 (a + b)) : satAdd32 a b = (a + b, false) := by
  obtain ⟨hlo, hhi⟩ := h
  unfold satAdd32
  dsimp only
  rw [if_neg (by omega), if_neg (by omega)]

/-! ### The running sum of one output (R112, R114) -/

/-- The integer product of a term's factors. -/
def termInt (f : Nat × FVal × FVal) : Int := fvInt (fvMul f.2.1 f.2.2)

/-- The running value of an output once its accumulator has taken some terms. -/
def accTerms (x : MatSpec) (out a : Nat) (st : AccSt) (fs : List (Nat × FVal × FVal)) : AccSt :=
  fs.foldl (fun st f => accStep x out (a + f.1) st f.2) st

/-- One term of an INT32 sum. -/
theorem accStep_i32 {x : MatSpec} (hx : x.acc = .i32) (out a : Nat) (st : AccSt) (f : FVal × FVal) :
    accStep x out a st f = { st with
      v := fvOfInt (satAdd32 (fvInt st.v) (fvInt (fvMul f.1 f.2))).1
      sat := st.sat || (satAdd32 (fvInt st.v) (fvInt (fvMul f.1 f.2))).2 } := if_pos hx

/-- One term more, taken first. -/
theorem accTerms_cons (x : MatSpec) (out a : Nat) (st : AccSt) (f : Nat × FVal × FVal) (fs : List (Nat × FVal × FVal)) :
    accTerms x out a st (f :: fs) = accTerms x out a (accStep x out (a + f.1) st f.2) fs := rfl

/-- A sum that has saturated stays marked. -/
theorem accTerms_sat_mono {x : MatSpec} (hx : x.acc = .i32) (out a : Nat) (fs : List (Nat × FVal × FVal)) {st : AccSt}
    (h : st.sat = true) : (accTerms x out a st fs).sat = true := by
  induction fs generalizing st with
  | nil => exact h
  | cons f fs ih =>
    rw [accTerms_cons, accStep_i32 hx]
    exact ih (by simp [h])

/-- A sum that never saturates is exact, and in range. -/
theorem accTerms_exact {x : MatSpec} (hx : x.acc = .i32) (out a : Nat) (fs : List (Nat × FVal × FVal)) {st : AccSt} {z : Int}
    (hv : st.v = fvOfInt z) (hz : InInt32 z) (hs : (accTerms x out a st fs).sat = false) :
    (accTerms x out a st fs).v = fvOfInt (z + (fs.map termInt).sum) ∧ InInt32 (z + (fs.map termInt).sum) := by
  induction fs generalizing st z with
  | nil => simpa [accTerms, hv] using hz
  | cons f fs ih =>
    rw [accTerms_cons, accStep_i32 hx, hv, fvInt_fvOfInt, ← termInt.eq_1] at hs ⊢
    have hsat : (satAdd32 z (termInt f)).2 = false := by
      by_contra hsat
      rw [accTerms_sat_mono hx out a fs (by simp [hsat])] at hs
      cases hs
    obtain ⟨hsum, hrange⟩ := satAdd32_exact hsat
    rw [List.map_cons, List.sum_cons, ← add_assoc]
    exact ih (congrArg fvOfInt hsum) hrange hs

/-- Terms of at most `b` each, so few that their sum stays in range, do not saturate. -/
theorem accTerms_inRange {x : MatSpec} (hx : x.acc = .i32) (out a : Nat) {b : Int} (fs : List (Nat × FVal × FVal)) {st : AccSt}
    {z : Int} (hv : st.v = fvOfInt z) (hs : st.sat = false) (hb : ∀ f ∈ fs, |termInt f| ≤ b)
    (hz : |z| + b * fs.length < 2 ^ 31) : (accTerms x out a st fs).sat = false := by
  induction fs generalizing st z with
  | nil => exact hs
  | cons f fs ih =>
    have hf := hb f List.mem_cons_self
    have hnext : |z + termInt f| + b * fs.length < 2 ^ 31 := by
      have := abs_add_le z (termInt f)
      push_cast [List.length_cons, mul_add] at hz
      omega
    have hb0 : 0 ≤ b * fs.length := mul_nonneg ((abs_nonneg _).trans hf) (by positivity)
    have hrange : InInt32 (z + termInt f) := by
      have := abs_lt.mp (show |z + termInt f| < 2 ^ 31 by omega)
      exact ⟨by omega, this.2⟩
    rw [accTerms_cons, accStep_i32 hx, hv, fvInt_fvOfInt, ← termInt.eq_1, satAdd32_inRange hrange, Bool.or_false]
    exact ih rfl hs (fun g hg => hb g (List.mem_cons_of_mem _ hg)) hnext

/-! ### A tile's outputs (R111, R112) -/

/-- R111, R112: an INT32 accumulator over integer operands, in one pass. -/
structure IntSpec (x : MatSpec) : Prop where
  acc : x.acc = .i32
  passes : x.passes = 0
  a : ∀ i k, ∃ z : Int, x.a i k = fvOfInt z
  b : ∀ k j, ∃ z : Int, x.b k j = fvOfInt z
  c : x.accIn = true → ∀ i j, ∃ z : Int, x.c i j = fvOfInt z ∧ InInt32 z

/-- The exact sum of C and the products at output (i, j). -/
def exactOut (x : MatSpec) (i j : Nat) : Int :=
  (if x.accIn then fvInt (x.c i j) else 0) + ((List.range x.k).map (fun k => fvInt (x.a i k) * fvInt (x.b k j))).sum

/-- In one pass, each position gives one term. -/
theorem matTerms_onePass {x : MatSpec} (h : x.passes = 0) (i j : Nat) :
    matTerms x i j = (List.range x.k).map (fun k => (k, x.a i k, x.b k j)) := by
  rw [List.map_eq_flatMap]
  simp [matTerms, factors, matT, h]

/-- The integer of an integer term. -/
theorem IntSpec.termInt {x : MatSpec} (h : IntSpec x) (i j k : Nat) :
    termInt (k, x.a i k, x.b k j) = fvInt (x.a i k) * fvInt (x.b k j) := by
  obtain ⟨za, ha⟩ := h.a i k
  obtain ⟨zb, hb⟩ := h.b k j
  simp [Machine.termInt, ha, hb]

/-- An accumulator starts from an integer in range. -/
theorem IntSpec.start {x : MatSpec} (h : IntSpec x) (i j : Nat) :
    (if x.accIn then x.c i j else fvZero) = fvOfInt (if x.accIn then fvInt (x.c i j) else 0) ∧
      InInt32 (if x.accIn then fvInt (x.c i j) else 0) := by
  cases hc : x.accIn with
  | false => exact ⟨fvZero_eq, by norm_num [InInt32]⟩
  | true =>
    obtain ⟨z, hz, hrange⟩ := h.c hc i j
    simpa [hz] using hrange

/-- An output that does not saturate is the exact sum, and in range. -/
theorem IntSpec.accumulate_exact {x : MatSpec} (h : IntSpec x) {i j : Nat} (hs : (accumulate x i j).sat = false) :
    (accumulate x i j).v = fvOfInt (exactOut x i j) ∧ InInt32 (exactOut x i j) := by
  obtain ⟨hv, hrange⟩ := h.start i j
  have hsum : ((matTerms x i j).map Machine.termInt).sum =
      ((List.range x.k).map (fun k => fvInt (x.a i k) * fvInt (x.b k j))).sum := by
    simp [matTerms_onePass h.passes, Function.comp_def, h.termInt]
  have := accTerms_exact h.acc _ _ _ hv hrange hs
  rwa [hsum] at this

/-- The outputs of a run that does not saturate are in range. -/
theorem IntSpec.exactOut_inRange {x : MatSpec} (h : IntSpec x) {t : Nat} (hs : (tileRun x t).sat = false) {p : Nat × Nat}
    (hp : p ∈ tilePos x.m x.n t) : InInt32 (exactOut x p.1 p.2) := by
  have hsat : ∀ p ∈ tilePos x.m x.n t, (accumulate x p.1 p.2).sat = false := by simpa [tileRun] using hs
  exact (h.accumulate_exact (hsat p hp)).2

/-- The codes of a run that does not saturate are those of the exact sums. -/
theorem IntSpec.tileRun_outs {x : MatSpec} (h : IntSpec x) {t : Nat} (hs : (tileRun x t).sat = false) :
    (tileRun x t).outs = (tilePos x.m x.n t).map (fun p => ofSigned 32 (exactOut x p.1 p.2)) := by
  have hsat : ∀ p ∈ tilePos x.m x.n t, (accumulate x p.1 p.2).sat = false := by simpa [tileRun] using hs
  simp only [tileRun, List.map_map]
  refine List.map_congr_left fun p hp => ?_
  obtain ⟨hv, hrange⟩ := h.accumulate_exact (hsat p hp)
  rw [Function.comp_apply, h.acc, hv, accCode_fvOfInt hrange]

/-! ### Places in a tile -/

/-- A tile's place `r × w + c` is the position in its row `r` and column `c`. -/
theorem getElem?_grid {α β : Type} (is : List α) (js : List β) {r c : Nat} {j : β} (hj : js[c]? = some j) :
    (is.flatMap (fun i => js.map (fun j => (i, j))))[r * js.length + c]? = is[r]?.map (fun i => (i, j)) := by
  obtain ⟨hc, rfl⟩ := List.getElem?_eq_some_iff.mp hj
  induction is generalizing r with
  | nil => simp
  | cons i is ih =>
    cases r with
    | zero => simp [List.getElem?_append_left, hc]
    | succ r =>
      rw [List.flatMap_cons, List.getElem?_append_right (by rw [List.length_map, Nat.succ_mul]; omega), List.length_map,
        show (r + 1) * js.length + c - js.length = r * js.length + c by rw [Nat.succ_mul]; omega, ih]
      simp

/-- Every place of a tile is that of some row and column. -/
theorem exists_grid {α β : Type} {is : List α} {js : List β} {n : Nat} {p : α × β}
    (h : (is.flatMap (fun i => js.map (fun j => (i, j))))[n]? = some p) :
    ∃ r c, n = r * js.length + c ∧ is[r]? = some p.1 ∧ js[c]? = some p.2 := by
  have hlen : n < is.length * js.length := by
    have := (List.getElem?_eq_some_iff.mp h).1
    simpa [List.length_flatMap] using this
  have hw : 0 < js.length := Nat.pos_of_ne_zero fun h0 => by simp [h0] at hlen
  have hc := Nat.mod_lt n hw
  have hr : n / js.length < is.length := Nat.div_lt_of_lt_mul (by rwa [Nat.mul_comm])
  have hn : n = n / js.length * js.length + n % js.length := (Nat.div_add_mod' n js.length).symm
  rw [hn, getElem?_grid is js (List.getElem?_eq_getElem hc), List.getElem?_eq_getElem hr] at h
  obtain rfl : (is[n / js.length], js[n % js.length]) = p := by simpa using h
  exact ⟨_, _, hn, List.getElem?_eq_getElem hr, List.getElem?_eq_getElem hc⟩

/-- A place belongs to one row and one column. -/
theorem place_inj {w r r' c c' : Nat} (hc : c < w) (hc' : c' < w) : r * w + c = r' * w + c' ↔ r = r' ∧ c = c' := by
  refine ⟨fun h => ?_, fun h => by rw [h.1, h.2]⟩
  have hdiv := congrArg (· / w) h
  have hmod := congrArg (· % w) h
  simp only [Nat.mul_comm _ w, Nat.mul_add_div (Nat.zero_lt_of_lt hc), Nat.div_eq_of_lt hc, Nat.div_eq_of_lt hc',
    Nat.mul_add_mod, Nat.mod_eq_of_lt hc, Nat.mod_eq_of_lt hc', Nat.add_zero] at hdiv hmod
  exact ⟨hdiv, hmod⟩

/-- Of the items of a list, numbered from `s` on, the one numbered `s + k`. -/
theorem filter_numbered {α : Type} (s : Nat) (l : List α) (k : Nat) :
    (((List.range' s l.length).zip l).filter (fun p => p.1 == s + k)).map (fun p => p.2) = l[k]?.toList := by
  induction l generalizing s k with
  | nil => simp
  | cons b l ih =>
    rw [List.length_cons, List.range'_succ, List.zip_cons_cons]
    cases k with
    | zero =>
      have hnone : ((List.range' (s + 1) l.length).zip l).filter (fun p => p.1 == s) = [] := by
        refine List.filter_eq_nil_iff.mpr fun p hp => ?_
        have := List.mem_range'_1.mp (List.of_mem_zip hp).1
        simp
        omega
      simp [hnone]
    | succ k =>
      rw [List.filter_cons_of_neg (by simp), List.getElem?_cons_succ, ← ih (s + 1) k]
      simp [Nat.add_assoc, Nat.add_comm 1 k]

/-- Of the items of a list, each with its place, those at place `k`. -/
theorem filter_place {α : Type} {l : List α} {k : Nat} {a : α} (h : l[k]? = some a) :
    (((List.range l.length).zip l).filter (fun p => p.1 == k)).map (fun p => p.2) = [a] := by
  simpa [h, List.range_eq_range'] using filter_numbered 0 l k

/-! ### The sum check (R122, R123) -/

/-- The integer that a run gives at row `r` and column `c` of a tile whose rows are `w` long. -/
def outInt (w : Nat) (run : TileRun) (r c : Nat) : Int := fvInt (decodeCode .int32 (run.outs.getD (r * w + c) 0))

/-- The lines of a list, each with its place, whose sum of outputs is not the one predicted. -/
def badLines (lines : List Nat) (len : Nat) (out : Nat → Nat → Int) (want : Nat → Int) : List Nat :=
  (((List.range lines.length).zip lines).filter (fun p =>
    ((List.range len).map (out p.1)).sum != want p.2)).map (fun p => p.2)

/-- The sum check of an INT32 tile names the rows and the columns whose sums are not the exact ones. -/
theorem sumCheckFails_i32 {x : MatSpec} (hx : x.acc = .i32) (t : Nat) (run : TileRun) :
    let ii := tileI x.m x.n t
    let jj := tileJ x.n t
    sumCheckFails x t run =
      (badLines ii jj.length (fun r c => outInt jj.length run r c) (fun i => (jj.map (fun j => exactOut x i j)).sum),
        badLines jj ii.length (fun c r => outInt jj.length run r c) (fun j => (ii.map (fun i => exactOut x i j)).sum)) := by
  have hfmt : accFmt x.acc = .int32 := by rw [hx]; rfl
  simp only [sumCheckFails, if_pos hx, hfmt, badLines, List.sum_eq_foldl, exactOut, outInt]

/-- A sum of 0 but for `e` at one place, where a condition holds. -/
theorem sum_single {n c₀ : Nat} (h : c₀ < n) (q : Prop) [Decidable q] (e : Int) :
    ((List.range n).map (fun c => if q ∧ c = c₀ then e else 0)).sum = if q then e else 0 := by
  show (Finset.range n).sum (fun c => if q ∧ c = c₀ then e else 0) = _
  by_cases hq : q <;> simp [hq, h]

section Single
variable {lines others : List Nat} {out : Nat → Nat → Int} {exact : Nat → Nat → Int} {r₀ c₀ i₀ j₀ : Nat} {e : Int}
  (hr : lines[r₀]? = some i₀) (hc : others[c₀]? = some j₀)
  (hout : ∀ r c i j, lines[r]? = some i → others[c]? = some j → out r c = exact i j + if r = r₀ ∧ c = c₀ then e else 0)
include hc hout

/-- Where each output is exact but for `e` more at one place, the sum of that place's line is `e` more. -/
theorem sum_line {r i : Nat} (hi : lines[r]? = some i) :
    ((List.range others.length).map (out r)).sum = (others.map (exact i)).sum + if r = r₀ then e else 0 := by
  have hlen : c₀ < others.length := (List.getElem?_eq_some_iff.mp hc).1
  have hcongr : (List.range others.length).map (out r) =
      (List.range others.length).map (fun c => exact i (others.getD c 0) + if r = r₀ ∧ c = c₀ then e else 0) := by
    refine List.map_congr_left fun c hc => ?_
    have hc := List.mem_range.mp hc
    rw [hout r c i others[c] hi (List.getElem?_eq_getElem hc), List.getD_eq_getElem _ _ hc]
  have hothers : (List.range others.length).map (fun c => exact i (others.getD c 0)) = others.map (exact i) :=
    List.ext_getElem (by simp) fun c h _ => by
      have hc : c < others.length := by simpa using h
      simp [hc]
  rw [hcongr, List.sum_map_add, hothers, sum_single hlen]

include hr

/-- Where each output is exact but for `e` more at one place of one line, that line alone is named, unless `e` is 0. -/
theorem badLines_single :
    badLines lines others.length out (fun i => (others.map (exact i)).sum) = if e = 0 then [] else [i₀] := by
  have hfilter : ((List.range lines.length).zip lines).filter (fun p =>
      ((List.range others.length).map (out p.1)).sum != (others.map (exact p.2)).sum) =
      ((List.range lines.length).zip lines).filter (fun p => p.1 == r₀ && e != 0) := by
    refine List.filter_congr fun p hp => ?_
    obtain ⟨r, hr', rfl⟩ := List.mem_iff_getElem.mp hp
    have hr' : r < lines.length := by simpa using hr'
    simp only [List.getElem_zip, List.getElem_range]
    rw [sum_line hc hout (List.getElem?_eq_getElem hr')]
    by_cases hrr : r = r₀ <;> simp [hrr, bne]
  rw [badLines, hfilter]
  split
  · next he => simp [he]
  · next he => simpa only [bne_iff_ne.mpr he, Bool.and_true] using filter_place hr

end Single

/-- The sum check of a tile whose outputs are exact but for `e` more at one place. -/
theorem sumCheckFails_single {x : MatSpec} (hx : x.acc = .i32) {t : Nat} {run : TileRun} {r₀ c₀ i₀ j₀ : Nat} {e : Int}
    (hr : (tileI x.m x.n t)[r₀]? = some i₀) (hc : (tileJ x.n t)[c₀]? = some j₀)
    (hout : ∀ r c i j, (tileI x.m x.n t)[r]? = some i → (tileJ x.n t)[c]? = some j →
      outInt (tileJ x.n t).length run r c = exactOut x i j + if r = r₀ ∧ c = c₀ then e else 0) :
    sumCheckFails x t run = if e = 0 then ([], []) else ([i₀], [j₀]) := by
  rw [sumCheckFails_i32 hx, badLines_single hr hc hout, badLines_single hc hr (e := e) fun c r j i hj hi => by
    rw [hout r c i j hi hj]
    simp only [and_comm]]
  split <;> rfl

/-- Without a row or without a column there is no sum to check. -/
theorem sumCheckFails_empty {x : MatSpec} (hx : x.acc = .i32) {t : Nat} (run : TileRun)
    (h : tileI x.m x.n t = [] ∨ tileJ x.n t = []) : sumCheckFails x t run = ([], []) := by
  rw [sumCheckFails_i32 hx]
  rcases h with h | h <;> simp [badLines, h]

/-- The output at row `r` and column `c` of a run that gives the codes of some integers in range. -/
theorem outInt_of_codes {x : MatSpec} {t : Nat} {run : TileRun} {f : Nat → Nat → Int}
    (houts : run.outs = (tilePos x.m x.n t).map (fun p => ofSigned 32 (f p.1 p.2)))
    (hrange : ∀ p ∈ tilePos x.m x.n t, InInt32 (f p.1 p.2)) {r c i j : Nat} (hr : (tileI x.m x.n t)[r]? = some i)
    (hc : (tileJ x.n t)[c]? = some j) : outInt (tileJ x.n t).length run r c = f i j := by
  have hpos : (tilePos x.m x.n t)[r * (tileJ x.n t).length + c]? = some (i, j) := by
    rw [tilePos, getElem?_grid _ _ hc, hr]
    rfl
  rw [outInt, houts, List.getD_eq_getElem?_getD, List.getElem?_map, hpos, Option.map_some, Option.getD_some,
    decodeCode_ofSigned (hrange _ (List.mem_of_getElem? hpos)), fvInt_fvOfInt]

/-- R123: the sum check of a run with the exact sums names no line. -/
theorem sumCheckFails_exact {x : MatSpec} (hx : x.acc = .i32) {t : Nat} {run : TileRun}
    (houts : run.outs = (tilePos x.m x.n t).map (fun p => ofSigned 32 (exactOut x p.1 p.2)))
    (hrange : ∀ p ∈ tilePos x.m x.n t, InInt32 (exactOut x p.1 p.2)) : sumCheckFails x t run = ([], []) := by
  by_cases h : tileI x.m x.n t = [] ∨ tileJ x.n t = []
  · exact sumCheckFails_empty hx run h
  · obtain ⟨hi, hj⟩ := not_or.mp h
    have hr := List.getElem?_eq_getElem (List.length_pos_iff.mpr hi)
    have hc := List.getElem?_eq_getElem (List.length_pos_iff.mpr hj)
    exact (sumCheckFails_single hx hr hc (e := 0) fun r c i j hi hj => by
      rw [outInt_of_codes houts hrange hi hj]
      simp).trans (if_pos rfl)

/-! ### A lane fault (R123) -/

/-- A code is a word. -/
theorem ofSigned_lt (w : Nat) (z : Int) : ofSigned w z < 2 ^ w := by
  have := Int.emod_nonneg z (b := ((2 ^ w : Nat) : Int)) (by positivity)
  have := Int.emod_lt_of_pos z (b := ((2 ^ w : Nat) : Int)) (by positivity)
  unfold ofSigned
  omega

/-- Bits flipped in a word change it. -/
theorem xor_mod_ne {w c e : Nat} (hc : c < 2 ^ w) (he : e % 2 ^ w ≠ 0) : (c ^^^ e) % 2 ^ w ≠ c := by
  rw [Nat.xor_mod_two_pow, Nat.mod_eq_of_lt hc]
  intro h
  have : c ^^^ (c ^^^ e % 2 ^ w) = c ^^^ c := congrArg (c ^^^ ·) h
  rw [← Nat.xor_assoc, Nat.xor_self, Nat.zero_xor] at this
  exact he this

/-- A single lane fault changes the code at its place alone. -/
theorem getD_flipCodes_single {w n e : Nat} {cs : List Nat} (k : Nat) (hk : k < cs.length) :
    (flipCodes w [(n, e)] 0 cs).getD k 0 = if k = n then (cs.getD k 0 ^^^ e) % 2 ^ w else cs.getD k 0 := by
  simp [flipCodes, hk, eq_comm]

/-- The value of an INT32 code is its signed reading. -/
theorem decodeCode_int32 (c : Nat) : decodeCode .int32 c = fvOfInt (toSigned 32 c) := rfl

/-- A word that is not the two's complement of an integer reads as another integer. -/
theorem toSigned_ne {c : Nat} {z : Int} (hc : c < 2 ^ 32) (h : c ≠ ofSigned 32 z) : toSigned 32 c ≠ z :=
  fun e => h (e ▸ (ofSigned_toSigned hc).symm)

/-- R123: the sum check of a run with the exact sums but for one code, flipped in some bits, names its row and its column. -/
theorem sumCheckFails_flipped {x : MatSpec} (hx : x.acc = .i32) {t n i₀ j₀ e : Nat} {run : TileRun}
    (houts : run.outs =
      flipCodes 32 [(n, e)] 0 ((tilePos x.m x.n t).map (fun p => ofSigned 32 (exactOut x p.1 p.2))))
    (hrange : ∀ p ∈ tilePos x.m x.n t, InInt32 (exactOut x p.1 p.2)) (hn : (tilePos x.m x.n t)[n]? = some (i₀, j₀))
    (he : e % 2 ^ 32 ≠ 0) : sumCheckFails x t run = ([i₀], [j₀]) := by
  set w := (tileJ x.n t).length with hw
  set flipped := (ofSigned 32 (exactOut x i₀ j₀) ^^^ e) % 2 ^ 32
  obtain ⟨r₀, c₀, rfl, hr, hc⟩ := exists_grid hn
  have hne : toSigned 32 flipped ≠ exactOut x i₀ j₀ :=
    toSigned_ne (Nat.mod_lt _ (by decide)) (xor_mod_ne (ofSigned_lt 32 _) he)
  refine (sumCheckFails_single hx hr hc (e := toSigned 32 flipped - exactOut x i₀ j₀) ?_).trans (if_neg (sub_ne_zero.mpr hne))
  intro r c i j hi hj
  have hpos : (tilePos x.m x.n t)[r * w + c]? = some (i, j) := by
    rw [tilePos, getElem?_grid _ _ hj, hi]
    rfl
  obtain ⟨hk, hget⟩ := List.getElem?_eq_some_iff.mp hpos
  have hcw : c < w := (List.getElem?_eq_some_iff.mp hj).1
  have hc₀w : c₀ < w := (List.getElem?_eq_some_iff.mp hc).1
  have hplace := place_inj (r := r) (r' := r₀) hcw hc₀w
  have hcode : ((tilePos x.m x.n t).map (fun p => ofSigned 32 (exactOut x p.1 p.2))).getD (r * w + c) 0 =
      ofSigned 32 (exactOut x i j) := by simp [List.getD_eq_getElem?_getD, hpos]
  rw [outInt, houts, getD_flipCodes_single _ (by simpa using hk), hcode]
  by_cases hp : r * w + c = r₀ * w + c₀
  · obtain ⟨rfl, rfl⟩ := hplace.mp hp
    obtain rfl : i = i₀ := by simpa [hi] using hr
    obtain rfl : j = j₀ := by simpa [hj] using hc
    simp [decodeCode_int32, flipped]
  · rw [if_neg hp, if_neg (hp ∘ hplace.mpr), decodeCode_ofSigned (hrange _ (List.mem_of_getElem? hpos)), fvInt_fvOfInt,
      add_zero]

/-! ### The obligation -/

/-- Settles O37: an INT32 tile over integers that does not saturate holds the exact sums, which its check passes, and a
single flipped code is found in its row and its column. -/
theorem integerTilesAreCheckedExactly : Obligations.IntegerTilesAreCheckedExactly := by
  intro x t hacc hpasses ha hb hc hs exact
  have hx : IntSpec x := ⟨hacc, hpasses, ha, hb, hc⟩
  have houts := hx.tileRun_outs hs
  have hrange := fun p (hp : p ∈ tilePos x.m x.n t) => hx.exactOut_inRange hs hp
  refine ⟨fun n i j hn => ?_, sumCheckFails_exact hacc houts hrange, fun n i j e hn he => ?_⟩
  · rw [houts, List.getElem?_map, hn, Option.map_some, Option.map_some,
      decodeCode_ofSigned (hrange _ (List.mem_of_getElem? hn))]
    rfl
  · refine sumCheckFails_flipped hacc ?_ hrange hn he
    rw [← houts, tileRunFlips, hacc]
    rfl

end Sys2Proof.Machine
end

section
/-!
SUPPORT. Laws of the matrix arrays: Cells, tiles in progress, and what events, fills, checks and drains leave unchanged.
-/

namespace Sys2Proof.Machine

/-! ### What events and flags leave -/

@[simp] theorem event_ops (s : State) (base src n : Nat) : (event s base src n).ops = s.ops :=
  (congrArg State.ops (event_regsOnly s base src n)).trans rfl

@[simp] theorem event_mem (s : State) (base src n : Nat) : (event s base src n).mem = s.mem :=
  (congrArg State.mem (event_regsOnly s base src n)).trans rfl

@[simp] theorem event_cells (s : State) (base src n : Nat) : (event s base src n).cells = s.cells :=
  (congrArg State.cells (event_regsOnly s base src n)).trans rfl

@[simp] theorem flagCell_ops (s : State) (n : Nat) (b : Bool) : (flagCell s n b).ops = s.ops := by
  unfold flagCell
  split <;> rfl

@[simp] theorem flagCell_mem (s : State) (n : Nat) (b : Bool) : (flagCell s n b).mem = s.mem := by
  unfold flagCell
  split <;> rfl

/-- Memory is canonical in a canonical state. -/
theorem State.canonical_mem {s : State} (h : s.canonical = true) : memWf s.mem = true := by
  simp only [State.canonical, Bool.and_eq_true] at h
  tauto

/-! ### Cells -/

/-- The table of Cells is canonical. -/
def CellsWf (s : State) : Prop := sparseWf (fun _ => cellIdle) s.cells = true

theorem State.canonical_cells {s : State} (h : s.canonical = true) : CellsWf s := by
  simp only [State.canonical, Bool.and_eq_true] at h
  unfold CellsWf
  tauto

theorem CellsWf.congr {s t : State} (h : CellsWf s) (e : t.cells = s.cells) : CellsWf t := by
  unfold CellsWf
  rwa [e]

theorem CellsWf.cellSet {s : State} (h : CellsWf s) (n : Nat) (c : CellRt) : CellsWf (cellSet s n c) :=
  sparseSet_wf (fun _ => cellIdle) n c s.cells h

/-- A Cell reads the same in states with the same table of Cells. -/
theorem cellGet_congr {s t : State} (e : t.cells = s.cells) (n : Nat) : cellGet t n = cellGet s n := by
  unfold cellGet
  rw [e]

/-- A Cell reads back as written. -/
theorem cellGet_cellSet_same {s : State} (h : CellsWf s) (n : Nat) (c : CellRt) : cellGet (cellSet s n c) n = c :=
  sparseGet_set_same (fun _ => cellIdle) n c s.cells 0 h

/-- A Cell written leaves every other Cell. -/
theorem cellGet_cellSet_other {s : State} (h : CellsWf s) {n k : Nat} (hk : k ≠ n) (c : CellRt) :
    cellGet (cellSet s n c) k = cellGet s k :=
  sparseGet_set_other (fun _ => cellIdle) hk cellIdle c s.cells 0 h

/-! ### Matrix operations and their tiles -/

/-- An operation with its matrix progress changed. -/
def Op.withMat (o : Op) (f : MatWork → MatWork) : Op := { o with work := .mat (f (matOf o)) }

@[simp] theorem matOf_withMat (o : Op) (f : MatWork → MatWork) : matOf (o.withMat f) = f (matOf o) := rfl

/-- Matrix progress with the tile of a number changed. -/
def MatWork.mapTile (t : Nat) (f : Tile → Tile) (w : MatWork) : MatWork :=
  { w with tiles := w.tiles.map (fun x => if x.t == t then f x else x) }

/-- Changes of one tile made in a row. -/
theorem MatWork.mapTile_mapTile (t : Nat) {f g : Tile → Tile} (hf : ∀ x, (f x).t = x.t) (w : MatWork) :
    MatWork.mapTile t g (MatWork.mapTile t f w) = MatWork.mapTile t (fun x => g (f x)) w := by
  simp only [MatWork.mapTile, List.map_map]
  congr 2
  funext x
  by_cases hx : x.t = t <;> simp [hx, hf]

/-- The operation whose matrix progress was changed. -/
theorem findOp_setMat {s : State} {c i : Nat} {o : Op} (f : MatWork → MatWork) (h : findOp s c i = some o) :
    findOp (setMat s c i f) c i = some (o.withMat f) := findOp_updOp_same s c i _ h (fun _ => ⟨rfl, rfl⟩)

/-- A tile in progress is one of the operation that is found. -/
theorem findTile_iff {s : State} {c i t : Nat} {o : Op} {x : Tile} :
    findTile s c i t = some (o, x) ↔ findOp s c i = some o ∧ (matOf o).tiles.find? (fun y => y.t == t) = some x := by
  unfold findTile
  cases findOp s c i with
  | none => simp
  | some p =>
    dsimp only
    cases h : (matOf p).tiles.find? (fun y => y.t == t) with
    | none =>
      simp only [reduceCtorEq, Option.some.injEq, false_iff, not_and]
      rintro rfl
      simp [h]
    | some y =>
      simp only [Option.some.injEq, Prod.mk.injEq]
      exact ⟨fun ⟨e, e'⟩ => ⟨e, by rw [← e, h, e']⟩, fun ⟨e, e'⟩ => ⟨e, by rw [← e, h] at e'; simpa using e'⟩⟩

/-- The operation of a tile in progress, by the operation's own place. -/
theorem findTile_place {s : State} {c i t : Nat} {o : Op} {x : Tile} (h : findTile s c i t = some (o, x)) :
    o.ctx = c ∧ o.idx = i ∧ x.t = t := by
  obtain ⟨ho, hx⟩ := findTile_iff.mp h
  obtain ⟨hc, hi⟩ := findOp_place ho
  exact ⟨hc, hi, by simpa using List.find?_some hx⟩

/-- The tiles that a state finds are those of its operations. -/
theorem findTile_congr {s t : State} (h : t.ops = s.ops) (c i k : Nat) : findTile t c i k = findTile s c i k := by
  unfold findTile
  rw [findOp_congr h]

/-- A tile of an operation whose other parts were changed. -/
theorem findTile_updOp {s : State} {c i t : Nat} {o : Op} {x : Tile} (h : findTile s c i t = some (o, x)) (f : Op → Op)
    (hf : ∀ p, ((f p).ctx = p.ctx ∧ (f p).idx = p.idx) ∧ (f p).work = p.work) :
    findTile (updOp s c i f) c i t = some (f o, x) := by
  obtain ⟨ho, hx⟩ := findTile_iff.mp h
  refine findTile_iff.mpr ⟨findOp_updOp_same s c i f ho (fun p => (hf p).1), ?_⟩
  rwa [matOf, (hf o).2, ← matOf.eq_def]

/-- The tile that was changed. -/
theorem findTile_setTile {s : State} {c i t : Nat} {o : Op} {x : Tile} {f : Tile → Tile}
    (h : findTile s c i t = some (o, x)) (hf : ∀ y, (f y).t = y.t) :
    findTile (setTile s c i t f) c i t = some (o.withMat (MatWork.mapTile t f), f x) := by
  obtain ⟨ho, hx⟩ := findTile_iff.mp h
  have ht : x.t = t := by simpa using List.find?_some hx
  refine findTile_iff.mpr ⟨findOp_setMat _ ho, ?_⟩
  simp only [matOf_withMat, MatWork.mapTile]
  rw [find?_map_of _ _ _ (fun y => by by_cases hy : y.t = t <;> simp [hy, hf]), hx]
  simp [ht]

/-- A tile that was taken off is in progress no longer. -/
theorem findTile_taken {s : State} {c i t : Nat} {o : Op} (ho : findOp s c i = some o) (h : ∀ y ∈ (matOf o).tiles, y.t ≠ t) :
    findTile s c i t = none := by
  cases hf : findTile s c i t with
  | none => rfl
  | some p =>
    obtain ⟨hp, hx⟩ := findTile_iff.mp hf
    obtain rfl : o = p.1 := by simpa [ho] using hp
    exact absurd (by simpa using List.find?_some hx) (h p.2 (List.mem_of_find?_eq_some hx))

/-! ### Queued runs and offers -/

@[simp] theorem queueRun_ops (s : State) (o : Op) (x : Tile) : (queueRun s o x).ops = s.ops := by
  unfold queueRun
  dsimp only
  split <;> rfl

@[simp] theorem queueRun_mem (s : State) (o : Op) (x : Tile) : (queueRun s o x).mem = s.mem := by
  unfold queueRun
  dsimp only
  split <;> rfl

/-- A queued run stands in its Cell's list. -/
theorem contains_queueRun {s : State} (h : CellsWf s) (o : Op) (x : Tile) :
    (cellGet (queueRun s o x) x.cell).reruns.contains (o.ctx, o.idx, x.t) = true := by
  unfold queueRun
  dsimp only
  split
  · next hin => exact hin
  · rw [cellGet_cellSet_same h]
    simp

theorem queueRun_cellsWf {s : State} (h : CellsWf s) (o : Op) (x : Tile) : CellsWf (queueRun s o x) := by
  unfold queueRun
  dsimp only
  split
  · exact h
  · exact h.cellSet _ _

@[simp] theorem offerTile_ops (s : State) (cell c i : Nat) : (offerTile s cell c i).ops = s.ops := by
  unfold offerTile
  dsimp only
  split
  · split <;> rfl
  · rfl

@[simp] theorem offerTile_mem (s : State) (cell c i : Nat) : (offerTile s cell c i).mem = s.mem := by
  unfold offerTile
  dsimp only
  split
  · split <;> rfl
  · rfl

/-- An offer leaves the queued runs of its Cell. -/
theorem reruns_offerTile {s : State} (h : CellsWf s) (cell c i : Nat) :
    (cellGet (offerTile s cell c i) cell).reruns = (cellGet s cell).reruns := by
  unfold offerTile
  dsimp only
  split
  · split
    · rw [cellGet_cellSet_same h]
    · rfl
  · rfl

/-! ### Gathering -/

/-- Where an operation does not gather, a fill writes no sample. -/
theorem sideGather_off {s : State} {o : Op} (h : sideMode o.d ≠ 1) (x : Tile) (first : Bool) : sideGather s o x first = s :=
  if_neg fun hg => h hg.1

/-! ### Fills that end (R112 to R121) -/

/-- What the end of tile `x`'s run with results `r` makes of a tile: its check begins, or it waits for a duplicate run. -/
def Tile.afterRun (x : Tile) (dupWanted : Bool) (r : TileRun) (y : Tile) : Tile :=
  if x.dup = 0 then
    if dupWanted then { y with stage := .waiting, dup := 1, first := r } else { y with stage := .sumCheck, cur := r }
  else if x.dup = 1 then { y with stage := .dupCheck, second := r } else { y with stage := .dupCheck, cur := r }

/-- What the end of a fill makes of a tile, which has offered its operation's next tile by then. -/
def Tile.afterFill (x : Tile) (dupWanted : Bool) (r : TileRun) (y : Tile) : Tile :=
  if x.offered then x.afterRun dupWanted r y else { x.afterRun dupWanted r y with offered := true }

theorem Tile.afterRun_t (x : Tile) (b : Bool) (r : TileRun) (y : Tile) : (x.afterRun b r y).t = y.t := by
  unfold Tile.afterRun
  split
  · split <;> rfl
  · split <;> rfl

theorem Tile.afterFill_t (x : Tile) (b : Bool) (r : TileRun) (y : Tile) : (x.afterFill b r y).t = y.t := by
  unfold Tile.afterFill
  split
  · exact x.afterRun_t b r y
  · exact x.afterRun_t b r y

/-- The state in which a run's results stand with its tile, queued again where a duplicate is wanted. -/
def runEnded (s : State) (o : Op) (x : Tile) (dupWanted : Bool) (r : TileRun) : State :=
  let s1 := setTile s o.ctx o.idx x.t (x.afterRun dupWanted r)
  if x.dup = 0 ∧ dupWanted then queueRun s1 o x else s1

/-- R108, R544: the state in which the MACs of a tile's run are counted. -/
def macsCounted (s : State) (o : Op) (x : Tile) : State :=
  event s (cellBase x.cell) 0x02 (fillMacs ((mFmtA o.d % 16 == 0 || mFmtA o.d % 16 == 5) &&
    (mFmtB o.d % 16 == 0 || mFmtB o.d % 16 == 5)) (mPasses o.d) (mK o.d))

/-- The end of a fill counts its MACs, leaves its results, and offers the next tile where that has not been done. -/
theorem fillDone_eq (s : State) (o : Op) (x : Tile) (flips : List (Nat × Nat)) :
    let sp := matSpec s o (tilePanel s o x.cell x.t)
    let r := tileRunFlips sp x.t flips
    let s2 := runEnded (macsCounted s o x) o x (dupNeeded sp x.t r) r
    fillDone s o x flips = if x.offered then s2
      else offerTile (setTile s2 o.ctx o.idx x.t (fun y => { y with offered := true })) x.cell o.ctx o.idx := by
  dsimp only
  have hrun : ∀ d r, (if x.dup = 0 then
      if d = true then queueRun (setTile (macsCounted s o x) o.ctx o.idx x.t
        (fun y => { y with stage := .waiting, dup := 1, first := r })) o x
      else setTile (macsCounted s o x) o.ctx o.idx x.t (fun y => { y with stage := .sumCheck, cur := r })
    else if x.dup = 1 then setTile (macsCounted s o x) o.ctx o.idx x.t (fun y => { y with stage := .dupCheck, second := r })
    else setTile (macsCounted s o x) o.ctx o.idx x.t (fun y => { y with stage := .dupCheck, cur := r })) =
      runEnded (macsCounted s o x) o x d r := by
    intro d r
    have hf : x.afterRun d r = fun y => x.afterRun d r y := rfl
    unfold runEnded
    rw [hf]
    unfold Tile.afterRun
    by_cases h0 : x.dup = 0
    · cases d <;> simp [h0]
    · by_cases h1 : x.dup = 1 <;> simp [h1, h0]
  rw [← hrun]
  rfl

/-- The operation once a run's results stand. -/
theorem findOp_runEnded {s : State} {o : Op} (x : Tile) (d : Bool) (r : TileRun) (h : findOp s o.ctx o.idx = some o) :
    findOp (runEnded s o x d r) o.ctx o.idx = some (o.withMat (MatWork.mapTile x.t (x.afterRun d r))) := by
  unfold runEnded
  dsimp only
  split
  · exact (findOp_congr (queueRun_ops _ _ _) _ _).trans (findOp_setMat _ h)
  · exact findOp_setMat _ h

/-- The operation once a fill has ended. -/
theorem findOp_fillDone {s : State} {o : Op} (x : Tile) (flips : List (Nat × Nat)) (h : findOp s o.ctx o.idx = some o) :
    let sp := matSpec s o (tilePanel s o x.cell x.t)
    let r := tileRunFlips sp x.t flips
    findOp (fillDone s o x flips) o.ctx o.idx =
      some (o.withMat (MatWork.mapTile x.t (x.afterFill (dupNeeded sp x.t r) r))) := by
  dsimp only
  have hcount : findOp (macsCounted s o x) o.ctx o.idx = some o := (findOp_congr (event_ops _ _ _ _) _ _).trans h
  have hrun := fun d r => findOp_runEnded x d r hcount
  rw [fillDone_eq]
  unfold Tile.afterFill
  split
  · exact hrun _ _
  · refine (findOp_congr (offerTile_ops _ _ _ _) _ _).trans ((findOp_setMat _ (hrun _ _)).trans ?_)
    exact congrArg (fun f => some (o.withMat f)) (funext (MatWork.mapTile_mapTile _ (x.afterRun_t _ _)))

/-- The end of a fill leaves memory. -/
theorem fillDone_mem (s : State) (o : Op) (x : Tile) (flips : List (Nat × Nat)) : (fillDone s o x flips).mem = s.mem := by
  have hrun : ∀ d r, (runEnded (macsCounted s o x) o x d r).mem = s.mem := fun d r => by
    unfold runEnded
    dsimp only
    split
    · exact (queueRun_mem _ _ _).trans (event_mem _ _ _ _)
    · exact event_mem _ _ _ _
  rw [fillDone_eq]
  split
  · exact hrun _ _
  · exact (offerTile_mem _ _ _ _).trans (hrun _ _)

/-- A tile that needs a duplicate run stands in its Cell's queue once its first fill has ended. -/
theorem contains_fillDone {s : State} {o : Op} {x : Tile} (flips : List (Nat × Nat)) (hs : CellsWf s) (h0 : x.dup = 0)
    (hd : dupNeeded (matSpec s o (tilePanel s o x.cell x.t)) x.t
      (tileRunFlips (matSpec s o (tilePanel s o x.cell x.t)) x.t flips) = true) :
    (cellGet (fillDone s o x flips) x.cell).reruns.contains (o.ctx, o.idx, x.t) = true := by
  rw [fillDone_eq, hd]
  generalize tileRunFlips (matSpec s o (tilePanel s o x.cell x.t)) x.t flips = r
  have hrun : runEnded (macsCounted s o x) o x true r =
      queueRun (setTile (macsCounted s o x) o.ctx o.idx x.t (x.afterRun true r)) o x := if_pos ⟨h0, rfl⟩
  have hwf : CellsWf (setTile (macsCounted s o x) o.ctx o.idx x.t (x.afterRun true r)) :=
    hs.congr ((congrArg State.cells rfl).trans (event_cells _ _ _ _))
  rw [hrun]
  split
  · exact contains_queueRun hwf o x
  · rw [reruns_offerTile (s := setTile (queueRun _ o x) _ _ _ _) ((queueRun_cellsWf hwf o x).congr rfl)]
    exact contains_queueRun hwf o x

/-! ### Checks made (R126) -/

/-- Counting a check changes registers and the operation's checks. -/
theorem countCheckOn_frame (s : State) (c i cell : Nat) (failed : Bool) :
    RegsOnly (opChecks s c i 1) (countCheckOn s c i cell failed) := by
  have h : RegsOnly (opChecks s c i 1)
      (event (countF (opChecks s c i 1) (cellBase cell) Reg.matChecks_count 0 1) (cellBase cell) 0x03 1) :=
    (countF_regsOnly _ _ 0 1 (by decide)).trans (event_regsOnly _ _ _ _)
  unfold countCheckOn
  dsimp only
  split
  · exact h.trans (countF_regsOnly _ _ 0 1 (by decide))
  · exact h

/-- An operation with `n` checks more. -/
def Op.checked (n : Nat) (o : Op) : Op := { o with checks := o.checks + n }

/-- An operation with `n` re-runs more. -/
def Op.rerun (n : Nat) (o : Op) : Op := { o with reruns := o.reruns + n }

/-- A tile once a check of it has been counted. -/
theorem findTile_countCheckOn {s : State} {c i t : Nat} {o : Op} {x : Tile} (cell : Nat) (failed : Bool)
    (h : findTile s c i t = some (o, x)) : findTile (countCheckOn s c i cell failed) c i t = some (o.checked 1, x) := by
  have hops : (countCheckOn s c i cell failed).ops = (opChecks s c i 1).ops :=
    (congrArg State.ops (countCheckOn_frame s c i cell failed)).trans rfl
  exact (findTile_congr hops _ _ _).trans (findTile_updOp h (Op.checked 1) (fun _ => ⟨⟨rfl, rfl⟩, rfl⟩))

/-! ### The fault ring's index beside a Cell's counts -/

/-- Whether an address is that of an event counter or of the overflow bits of the block at `base`. -/
def IsCounterWord (base a : Nat) : Prop := (base + 0x3F00 ≤ a ∧ a < base + 0x3F40) ∨ a = base + 0x3F84

/-- An event counter that is raised leaves every field outside the block's counter words as it reads. -/
theorem getF_bumpCounter_outside {s : State} {base base' i n j : Nat} {g : Fld} (hs : s.canonical = true) (hi : i < 16)
    (hg : ¬ IsCounterWord base (fldAddr base' g j)) : getF (bumpCounter s base i n) base' g j = getF s base' g j := by
  unfold IsCounterWord at hg
  have count : ∀ (t : State) (k v : Nat), k < 16 → t.canonical = true →
      getF (setF t base Reg.evc_count k v) base' g j = getF t base' g j := fun t k v hk ht =>
    getF_setF_other t base base' _ g k j v ht (by
      show _ ≠ base + 0x3F00 + 4 * k
      omega)
  have overflow : ∀ (t : State) (v : Nat), t.canonical = true →
      getF (setF t base Reg.evovf_ovf 0 v) base' g j = getF t base' g j := fun t v ht =>
    getF_setF_other t base base' _ g 0 j v ht (by
      show _ ≠ base + 0x3F84
      omega)
  have kept : ∀ (t : State) (f : Fld) (k v : Nat), t.canonical = true → (setF t base f k v).canonical = true :=
    fun t f k v => (setF_kept t base f k v (.refl t)).canonical
  unfold bumpCounter
  dsimp only
  split
  · exact count _ _ _ hi hs
  · split
    · next hchain =>
      have hi' : i + 1 < 16 := by
        have := (Bool.and_eq_true_iff.mp hchain).1
        simp only [decide_eq_true_eq] at this
        omega
      split
      · rw [count _ _ _ hi' (kept _ _ _ _ hs), count _ _ _ hi hs]
      · rw [overflow _ _ (kept _ _ _ _ (kept _ _ _ _ hs)), count _ _ _ hi' (kept _ _ _ _ hs), count _ _ _ hi hs]
    · rw [overflow _ _ (kept _ _ _ _ hs), count _ _ _ hi hs]

/-- Events leave every field outside the block's counter words as it reads. -/
theorem getF_event_outside {s : State} {base base' src n j : Nat} {g : Fld} (hs : s.canonical = true)
    (hg : ¬ IsCounterWord base (fldAddr base' g j)) : getF (event s base src n) base' g j = getF s base' g j := by
  have h : ∀ (l : List Nat) (t : State), (∀ i ∈ l, i < 16) → t.canonical = true →
      getF (l.foldl (fun t i => if counterTakes s base i src then bumpCounter t base i n else t) t) base' g j =
        getF t base' g j := by
    intro l
    induction l with
    | nil => exact fun _ _ _ => rfl
    | cons i l ih =>
      intro t hl ht
      have hi := hl i List.mem_cons_self
      have hl' := fun k hk => hl k (List.mem_cons_of_mem _ hk)
      rw [List.foldl_cons]
      split
      · rw [ih _ hl' ((bumpCounter_kept t base i n (.refl t)).canonical ht), getF_bumpCounter_outside ht hi hg]
      · exact ih t hl' ht
  exact h _ s (fun i hi => List.mem_range.mp hi) hs

/-- A change of the registers of a Cell that leaves the words of the fault ring's index. -/
theorem faultTail_congr {s t : State}
    (h : ∀ g : Fld, g = Reg.faultTail_indexLo ∨ g = Reg.faultTail_indexHi → getF t landABase g 0 = getF s landABase g 0) :
    faultTail t = faultTail s := by
  simp only [faultTail, getA2, get2, h _ (.inl rfl), h _ (.inr rfl)]

/-- A Cell's events leave the fault ring's index. -/
theorem faultTail_event {s : State} (hs : s.canonical = true) (cell src n : Nat) :
    faultTail (event s (cellBase cell) src n) = faultTail s := by
  refine faultTail_congr fun g hg => getF_event_outside hs ?_
  rcases hg with rfl | rfl <;>
    simp only [IsCounterWord, fldAddr, landABase, cellBase, Reg.faultTail_indexLo, Reg.faultTail_indexHi] <;> omega

/-- A Cell's count below the fault ring's index leaves it. -/
theorem faultTail_countF {s : State} (hs : s.canonical = true) (cell n : Nat) {f : Fld} (hf : f.off < 0x3230) :
    faultTail (countF s (cellBase cell) f 0 n) = faultTail s := by
  refine faultTail_congr fun g hg => getF_setF_other _ _ _ _ _ _ _ _ hs ?_
  rcases hg with rfl | rfl <;>
    simp only [fldAddr, landABase, cellBase, Reg.faultTail_indexLo, Reg.faultTail_indexHi] <;> omega

/-- A check that is counted leaves the fault ring's index. -/
theorem faultTail_countCheckOn {s : State} (hs : s.canonical = true) (c i cell : Nat) (failed : Bool) :
    faultTail (countCheckOn s c i cell failed) = faultTail s := by
  have h0 : (opChecks s c i 1).canonical = true := (updOp_kept s c i _ (.refl s)).canonical hs
  have h1 : (countF (opChecks s c i 1) (cellBase cell) Reg.matChecks_count 0 1).canonical = true :=
    (countF_kept _ _ _ _ _ (.refl _)).canonical h0
  have hcount : faultTail (event (countF (opChecks s c i 1) (cellBase cell) Reg.matChecks_count 0 1) (cellBase cell) 0x03 1) =
      faultTail s := (faultTail_event h1 _ _ _).trans (faultTail_countF h0 _ _ (by decide))
  unfold countCheckOn
  dsimp only
  split
  · exact (faultTail_countF ((event_kept _ _ _ _ (.refl _)).canonical h1) _ _ (by decide)).trans hcount
  · exact hcount

/-! ### The end of a matrix operation (R125, R304) -/

/-- Whether a matrix operation ends or not, its tiles, its checks and its re-runs stay. -/
theorem findOp_matMaybeEnd {s : State} {c i : Nat} {o : Op} (h : findOp s c i = some o) :
    ∃ e r, findOp (matMaybeEnd s c i) c i = some { o with ended := e, run := r } := by
  have hclear : findOp (clearCells s c i) c i = some o := h
  unfold matMaybeEnd
  rw [h]
  dsimp only
  split
  · exact ⟨o.ended, o.run, h⟩
  · split
    · exact ⟨_, _, findOp_endOp_same _ _ _ _ hclear⟩
    · split
      · have hf := findOp_updOp_same (clearCells s c i) c i (fun o =>
          if checkLevel o.d = 2 && o.run = 1 then { o with run := 2 } else { o with ended := some (normalEnd o) }) hclear
          (fun p => by split <;> exact ⟨rfl, rfl⟩)
        by_cases hl : (checkLevel o.d = 2 && o.run = 1) = true
        · exact ⟨o.ended, 2, hf.trans (by rw [if_pos hl])⟩
        · exact ⟨some (normalEnd o), o.run, hf.trans (by rw [if_neg hl])⟩
      · exact ⟨o.ended, o.run, h⟩

/-- The end of a matrix operation leaves memory. -/
theorem matMaybeEnd_mem (s : State) (c i : Nat) : (matMaybeEnd s c i).mem = s.mem := by
  unfold matMaybeEnd
  split
  · rfl
  · dsimp only
    split
    · rfl
    · split
      · rfl
      · split <;> rfl

/-- Matrix progress with the tile of a number taken off. -/
def MatWork.dropTile (t : Nat) (w : MatWork) : MatWork := { w with tiles := w.tiles.filter (fun y => y.t != t) }

/-- A tile taken off its operation is in progress no longer, whether the operation then ends or not. -/
theorem findTile_matMaybeEnd_dropped {s : State} {c i t : Nat} {o : Op} {f : MatWork → MatWork}
    (ho : findOp s c i = some (o.withMat f)) (hf : ∀ w, (f w).tiles = (MatWork.dropTile t w).tiles) :
    findTile (matMaybeEnd s c i) c i t = none := by
  obtain ⟨e, r, h⟩ := findOp_matMaybeEnd ho
  refine findTile_taken h fun y hy => ?_
  have hy : y ∈ (f (matOf o)).tiles := hy
  rw [hf] at hy
  simpa using (List.mem_filter.mp hy).2

/-! ### Checks that pass and fail (R123 to R126) -/

/-- R125: an operation fails with a status, unless it has failed before. -/
def MatWork.fail (e : OpEnd) (w : MatWork) : MatWork := { w with failed := some (w.failed.getD e) }

/-- A tile that fails is taken off, and its operation fails with CHECK_FAIL. -/
theorem tileFails_spec {s : State} {o p : Op} {x : Tile} (row col : Nat) (h : findOp s o.ctx o.idx = some p)
    (hp : (matOf p).failed = none) :
    findTile (tileFails s o x row col) o.ctx o.idx x.t = none ∧
      ∃ q, findOp (tileFails s o x row col) o.ctx o.idx = some q ∧ q.checks = p.checks ∧ q.reruns = p.reruns ∧
        (matOf q).failed = some ⟨.checkFail, faultTail s⟩ := by
  unfold tileFails
  dsimp only
  generalize hs1 : (if ((matOf o).failed).isNone then writeFault s ⟨0x01, x.cell, statusCode .checkFail, o.ctx, o.idx,
    [x.t, row + col * 2 ^ 24, x.runs]⟩ else s) = s1
  have hops : s1.ops = s.ops := by
    rw [← hs1]
    split
    · exact writeFault_ops _ _
    · rfl
  have hcount : findOp (countF s1 (cellBase x.cell) Reg.matMismatch_fails 0 1) o.ctx o.idx = some p :=
    (findOp_congr ((countF_ops _ _ _ _ _).trans hops) _ _).trans h
  have hmat := findOp_setMat (fun w => MatWork.fail ⟨.checkFail, faultTail s⟩ (MatWork.dropTile x.t w)) hcount
  obtain ⟨e, r, hend⟩ := findOp_matMaybeEnd hmat
  refine ⟨findTile_matMaybeEnd_dropped hmat (fun _ => rfl), _, hend, rfl, rfl, ?_⟩
  show some ((matOf p).failed.getD _) = _
  rw [hp]
  rfl

/-- A tile that is queued to run again after a failed check. -/
theorem tileAgain_spec {s : State} {o p : Op} {x y : Tile} {f : Tile → Tile} (h : findTile s o.ctx o.idx x.t = some (p, y))
    (hf : ∀ z, (f z).t = z.t) :
    (∃ q, findTile (tileAgain s o x f) o.ctx o.idx x.t = some (q, { f y with stage := .waiting }) ∧
        q.checks = p.checks ∧ q.reruns = p.reruns + 1) ∧
      (CellsWf s → (cellGet (tileAgain s o x f) x.cell).reruns.contains (o.ctx, o.idx, x.t) = true) := by
  unfold tileAgain
  constructor
  · have hset := findTile_setTile (f := fun y => { f y with stage := .waiting }) h hf
    have hrun : findTile (opReruns _ o.ctx o.idx 1) o.ctx o.idx x.t = some (Op.rerun 1 _, _) :=
      findTile_updOp hset (Op.rerun 1) (fun _ => ⟨⟨rfl, rfl⟩, rfl⟩)
    rw [findTile_congr (queueRun_ops _ _ _), findTile_congr (event_ops _ _ _ _), hrun]
    exact ⟨_, rfl, rfl, rfl⟩
  · intro hs
    refine contains_queueRun (hs.congr ?_) o x
    rw [event_cells]
    rfl

/-- Whether a sum check names a line. -/
theorem names_line_iff (b : List Nat × List Nat) : (!b.1.isEmpty || !b.2.isEmpty) = true ↔ b ≠ ([], []) := by
  obtain ⟨r, c⟩ := b
  cases r <;> cases c <;> simp

/-- The lines that the sum check of a tile's current run names. -/
def tileBad (s : State) (o : Op) (x : Tile) : List Nat × List Nat :=
  sumCheckFails (matSpec s o (tilePanel s o x.cell x.t)) x.t x.cur

/-- A sum check that names no line: the tile drains. -/
theorem sumDone_pass {s : State} {o : Op} {x : Tile} (h : tileBad s o x = ([], [])) :
    sumDone s o x = setTile (countCheck s o x false) o.ctx o.idx x.t (fun y => { y with stage := .draining }) := by
  unfold sumDone
  dsimp only
  rw [← tileBad, h]
  rfl

/-- A first sum check that names a line: the tile runs again. -/
theorem sumDone_again {s : State} {o : Op} {x : Tile} (h : tileBad s o x ≠ ([], [])) (hx : x.fails = 0) :
    sumDone s o x = tileAgain (countCheck s o x true) o x (fun y => { y with fails := 1 }) := by
  have hb := (names_line_iff _).mpr h
  unfold sumDone
  dsimp only
  rw [← tileBad, hb, if_neg (by decide), if_pos hx]

/-- A second sum check that names a line: the tile fails. -/
theorem sumDone_fails {s : State} {o : Op} {x : Tile} (h : tileBad s o x ≠ ([], [])) (hx : x.fails ≠ 0) :
    ∃ row col, sumDone s o x = tileFails (countCheck s o x true) o x row col := by
  have hb := (names_line_iff _).mpr h
  unfold sumDone
  dsimp only
  rw [← tileBad, hb, if_neg (by decide), if_neg hx]
  exact ⟨_, _, rfl⟩

/-- Two equal runs: the tile drains with the first. -/
theorem dupDone_same {s : State} {o : Op} {x : Tile} (hx : x.dup = 1) (h : runsEqual x.first x.second = true) :
    dupDone s o x = setTile (countCheck s o x false) o.ctx o.idx x.t
      (fun y => { y with stage := .draining, dup := 0, cur := y.first }) := by
  simp only [dupDone, hx, h, reduceIte]
  rfl

/-- Two unequal runs: the tile runs a third time. -/
theorem dupDone_third {s : State} {o : Op} {x : Tile} (hx : x.dup = 1) (h : runsEqual x.first x.second = false) :
    dupDone s o x = tileAgain (countCheck s o x true) o x (fun y => { y with dup := 2, fails := y.fails + 1 }) := by
  simp only [dupDone, hx, h, reduceIte, Bool.false_eq_true]
  rfl

/-- A third run that equals either: the tile drains with it. -/
theorem dupDone_thirdStands {s : State} {o : Op} {x : Tile} (hx : x.dup ≠ 1)
    (h : (runsEqual x.cur x.first || runsEqual x.cur x.second) = true) :
    dupDone s o x = setTile (countCheck s o x false) o.ctx o.idx x.t (fun y => { y with stage := .draining, dup := 0 }) := by
  simp only [dupDone, hx, h, reduceIte]
  rfl

/-- A third run that equals neither: the tile fails. -/
theorem dupDone_fails {s : State} {o : Op} {x : Tile} (hx : x.dup ≠ 1)
    (h : (runsEqual x.cur x.first || runsEqual x.cur x.second) = false) :
    ∃ row col, dupDone s o x = tileFails (countCheck s o x true) o x row col := by
  simp only [dupDone, hx, h, reduceIte, Bool.false_eq_true]
  exact ⟨_, _, rfl⟩

/-! ### Outputs converted and written (R120) -/

/-- `t` is `s` but for memory, registers, Cells, HBM's bookkeeping and the Scaler's counts. -/
def OutFrame (s t : State) : Prop :=
  t = { s with mem := t.mem, regs := t.regs, cells := t.cells, hbm := t.hbm, sclFmt := t.sclFmt, sclLate := t.sclLate
               sclFmtLate := t.sclFmtLate }

theorem OutFrame.refl (s : State) : OutFrame s s := rfl

theorem OutFrame.trans {s t u : State} (h : OutFrame s t) (k : OutFrame t u) : OutFrame s u := by
  unfold OutFrame at *
  rw [k, h]

/-- A further change that a condition decides. -/
theorem OutFrame.thenIf {s t u : State} (h : OutFrame s t) (p : Prop) [Decidable p] (k : OutFrame t u) :
    OutFrame s (if p then u else t) := by
  split
  · exact h.trans k
  · exact h

theorem OutFrame.ops {s t : State} (h : OutFrame s t) : t.ops = s.ops := (congrArg State.ops h).trans rfl

theorem RegsOnly.outFrame {s t : State} (h : RegsOnly s t) : OutFrame s t := by
  unfold OutFrame
  rw [show t = _ from h]

theorem wrMem_outFrame (s : State) (ws : List Host.Cell) : OutFrame s (wrMem s ws) := rfl

theorem flagCell_outFrame (s : State) (n : Nat) (b : Bool) : OutFrame s (flagCell s n b) := by
  unfold flagCell
  split <;> rfl

theorem setSclCnt_outFrame (s : State) (n off size v : Nat) : OutFrame s (setSclCnt s n off size v) := by
  unfold setSclCnt
  split <;> rfl

theorem addSclCnt_outFrame (s : State) (n off size v : Nat) : OutFrame s (addSclCnt s n off size v) :=
  setSclCnt_outFrame _ _ _ _ _

/-- A fold of steps that each stay in the frame does so. -/
theorem foldl_outFrame {β : Type} {f : State → β → State} (hf : ∀ t x, OutFrame t (f t x)) (l : List β) (s : State) :
    OutFrame s (l.foldl f s) := by
  induction l generalizing s with
  | nil => exact .refl s
  | cons x l ih => exact (hf s x).trans (ih _)

theorem addFmt_outFrame (s : State) (code : Nat) (d : FmtCounts) : OutFrame s (addFmt s code d) := by
  unfold addFmt
  split <;> rfl

/-- Conversions counted. -/
theorem countConv_outFrame (s : State) (cell : Nat) (eval : Bool) (bd : Option Bind) (code : Nat) (cs : List Cls) :
    OutFrame s (countConv s cell eval bd code cs) := by
  have hevent := (event_regsOnly s (millOfCell cell) 0x0B cs.length).outFrame
  have hfmt : ∀ d, OutFrame s (if code ≤ 10 then addFmt (event s (millOfCell cell) 0x0B cs.length) code d
      else event s (millOfCell cell) 0x0B cs.length) := fun d => by
    split
    · exact hevent.trans (addFmt_outFrame _ _ _)
    · exact hevent
  unfold countConv
  dsimp only
  split
  · exact .refl s
  · split
    · exact hfmt _
    · exact (hfmt _).trans (foldl_outFrame (fun t p => addSclCnt_outFrame t _ (p : Nat × Nat).1 4 p.2) _ _)

theorem raiseAmax_outFrame (s : State) (eval : Bool) (bd : Option Bind) (rs : List FVal) :
    OutFrame s (raiseAmax s eval bd rs) := by
  unfold raiseAmax
  split
  · exact .refl s
  · split
    · exact .refl s
    · exact setSclCnt_outFrame _ _ _ _ _

theorem writeShadow_outFrame (s : State) (entry : Nat) (rs : List FVal) (gidx : List Nat) :
    OutFrame s (writeShadow s entry rs gidx) := by
  unfold writeShadow
  dsimp only
  split <;> rfl

theorem writeMap_outFrame (s : State) (entry u v : Nat) : OutFrame s (writeMap s entry u v) := wrMem_outFrame _ _

theorem flagConv_outFrame (s : State) (cell : Nat) (eval : Bool) (f : Fmt) (xs : List (FVal × Rnd)) (cs : List Nat) :
    OutFrame s (flagConv s cell eval f xs cs) :=
  (flagCell_outFrame s cell _).trans (event_regsOnly _ _ _ _).outFrame

/-- One unit of an output converted. -/
theorem unitOut_outFrame (s : State) (cell : Nat) (eval : Bool) (bd : Option Bind) (u : Nat) (f : Fmt)
    (xs : List (FVal × Rnd)) (gidx : List Nat) : OutFrame s (unitOut s cell eval bd u f xs gidx).1 := by
  unfold unitOut
  split
  · exact (countConv_outFrame _ _ _ _ _ _).trans (flagConv_outFrame _ _ _ _ _ _)
  · next b =>
    have hcount := fun cs rs => (countConv_outFrame s cell eval (some b) (fmtCode f) cs).trans
      (raiseAmax_outFrame _ eval (some b) rs)
    have hfall := fun t rs => (writeShadow_outFrame t b.entry rs gidx).trans (addSclCnt_outFrame _ b.entry 0x7A 2 1)
    exact ((((hcount _ _).thenIf _ (hfall _ _)).thenIf _ (writeMap_outFrame _ _ _ _)).thenIf _
      (flagCell_outFrame _ _ _)).trans (flagConv_outFrame _ _ _ _ _ _)

/-- The blocks of an output converted. -/
theorem blocksOut_outFrame (s : State) (cell : Nat) (eval : Bool) (f : Fmt) (noClip : Bool) (bs : List (List (FVal × Rnd))) :
    OutFrame s (blocksOut s cell eval f noClip bs).1 :=
  ((countConv_outFrame _ _ _ _ _ _).trans (flagCell_outFrame _ _ _)).trans (event_regsOnly _ _ _ _).outFrame

/-- A unit of an output without a Scaler binding leaves memory, and converts value by value. -/
theorem unitOut_unbound (s : State) (cell : Nat) (eval : Bool) (u : Nat) (f : Fmt) (xs : List (FVal × Rnd)) (gidx : List Nat) :
    (unitOut s cell eval none u f xs gidx).1.mem = s.mem ∧
      (unitOut s cell eval none u f xs gidx).2 = (xs.map (fun x => (convert f x.2 x.1).1), none) := by
  have hfmt : ∀ (t : State) code d, (addFmt t code d).mem = t.mem := fun t code d => by
    unfold addFmt
    split <;> rfl
  have hcount : ∀ code cs, (countConv s cell eval none code cs).mem = s.mem := fun code cs => by
    unfold countConv
    dsimp only
    split
    · rfl
    · split
      · rw [hfmt, event_mem]
      · exact event_mem _ _ _ _
  refine ⟨?_, ?_⟩
  · simp only [unitOut, flagConv, event_mem, flagCell_mem, hcount]
  · simp only [unitOut, List.map_map, Function.comp_def]

/-! ### Drains (R109, R120) -/

/-- An operation with a tile in progress is a matrix operation. -/
theorem work_of_tile {o : Op} {x : Tile} {P : Tile → Bool} (h : (matOf o).tiles.find? P = some x) : o.work = .mat (matOf o) := by
  unfold matOf at h ⊢
  split at h
  · next w hw => rw [hw]
  · cases h

/-- Matrix progress with another Scaler binding. -/
def MatWork.withBind (b : Option Bind) (w : MatWork) : MatWork := { w with bind := b }

/-- Writes in a row leave the operations. -/
theorem foldl_wrMem_ops {β : Type} (g : State → β → List Host.Cell) (l : List β) (s : State) :
    (l.foldl (fun t x => wrMem t (g t x)) s).ops = s.ops := foldl_ops (fun t x => wrMem_ops t (g t x)) l s

/-- A tile's outputs written leave its operation but for the units of its Scaler binding. -/
theorem findOp_writeTile {s : State} {o : Op} (x : Tile) (ho : findOp s o.ctx o.idx = some o) (hw : o.work = .mat (matOf o)) :
    ∃ b, findOp (writeTile s o x) o.ctx o.idx = some (o.withMat (MatWork.withBind b)) := by
  have hsame : o.withMat (MatWork.withBind (matOf o).bind) = o := by
    unfold Op.withMat
    rw [show MatWork.withBind (matOf o).bind (matOf o) = matOf o from rfl, ← hw]
  have hpair : ∀ (t : State) (l : List (Nat × List Nat)) (g : Nat × List Nat → List Host.Cell),
      findOp (event (flagCell (if mPair o.d then l.foldl (fun u p => wrMem u (g p)) t else t) x.cell (x.cur.nf && !dEval o.d))
        (cellBase x.cell) 0x0B (nat01 (x.cur.nf && !dEval o.d))) o.ctx o.idx = findOp t o.ctx o.idx := by
    intro t l g
    refine findOp_congr ?_ _ _
    rw [event_ops, flagCell_ops]
    split
    · exact foldl_wrMem_ops (fun _ => g) l t
    · rfl
  unfold writeTile
  dsimp only
  rw [hpair]
  split
  · refine ⟨(matOf o).bind, (findOp_congr ?_ _ _).trans (ho.trans (congrArg some hsame.symm))⟩
    refine foldl_ops (fun t p => ?_) _ s
    rw [wrMem_ops, wrMem_ops]
    exact (blocksOut_outFrame t _ _ _ _ _).ops
  · refine ⟨_, (findOp_congr (foldl_wrMem_ops _ _ _) _ _).trans (findOp_setMat _ ?_)⟩
    exact (findOp_congr (unitOut_outFrame _ _ _ _ _ _ _ _).ops _ _).trans ho

/-- The codes that a drain writes, row by row, where the output has neither block scales nor a Scaler binding. -/
def drainCodes (s : State) (o : Op) (x : Tile) : List Nat :=
  ((tilePos (mM o.d) (mN o.d) x.t).zip x.cur.outs).map (fun p =>
    (convert (fwFmtD (mFmtD o.d)) (matRnd s o p.1.1 p.1.2) (decodeCode (accFmt (mAcc o.d)) p.2)).1)

/-- The rows of D that a drain writes: row number and codes. -/
def drainRows (s : State) (o : Op) (x : Tile) : List (Nat × List Nat) :=
  (tileI (mM o.d) (mN o.d) x.t).zip
    (chunks (tileJ (mN o.d) x.t).length (tileI (mM o.d) (mN o.d) x.t).length (drainCodes s o x))

/-- Memory with rows of codes written at the places of a tile's rows of D. -/
def putTileRows (d : Desc) (t : Nat) (rows : List (Nat × List Nat)) (m : List Host.Cell) : List Host.Cell :=
  rows.foldl (fun m p => memWriteAll m (bytesWrites (dRowAt d t p.1) (packRow (fmtWidth (fwFmtD (mFmtD d))) p.2))) m

/-- The memory of writes in a row. -/
theorem foldl_wrMem_mem {β : Type} (g : β → List Host.Cell) (l : List β) (s : State) :
    (l.foldl (fun t x => wrMem t (g x)) s).mem = l.foldl (fun m x => memWriteAll m (g x)) s.mem := by
  induction l generalizing s with
  | nil => rfl
  | cons x l ih => exact ih _

/-- What a drain writes without block scales, pair or Scaler binding. -/
theorem writeTile_mem {s : State} {o : Op} {x : Tile} (hmx : fwMx (mFmtD o.d) = false) (hp : mPair o.d = false)
    (hb : (matOf o).bind = none) : (writeTile s o x).mem = putTileRows o.d x.t (drainRows s o x) s.mem := by
  unfold writeTile
  simp only [hmx, hp, hb, Bool.false_eq_true, reduceIte, event_mem, flagCell_mem, foldl_wrMem_mem]
  have hun := fun u f xs gidx => unitOut_unbound s x.cell (dEval o.d) u f xs gidx
  simp only [(hun _ _ _ _).2, setMat, updOp_mem, (hun _ _ _ _).1, List.map_map, Function.comp_def]
  rfl

/-- A row of a tile is no longer than the tile's rows. -/
theorem length_of_mem_chunks {α : Type} {n k : Nat} {l c : List α} (h : c ∈ chunks n k l) : c.length ≤ n := by
  induction k generalizing l with
  | zero => simp [chunks] at h
  | succ k ih =>
    unfold chunks at h
    split at h
    · cases h
    · rcases List.mem_cons.mp h with rfl | h
      · exact List.length_take_le _ _
      · exact ih h

/-- Fewer elements fill no more bytes. -/
theorem packedLen_mono (w : Nat) {m n : Nat} (h : m ≤ n) : packedLen w m ≤ packedLen w n := by
  unfold packedLen
  split
  · omega
  · split
    · omega
    · exact Nat.mul_le_mul_right _ h

/-- A packed row has the bytes of its elements. -/
theorem length_packRow (w : Nat) (cs : List Nat) : (packRow w cs).length = packedLen w cs.length := length_leBytes _ _

/-- Rows of codes written keep memory canonical. -/
theorem putTileRows_wf {d : Desc} {t : Nat} {rows : List (Nat × List Nat)} {m : List Host.Cell} (hm : memWf m = true) :
    memWf (putTileRows d t rows m) = true := by
  induction rows generalizing m with
  | nil => exact hm
  | cons p rows ih => exact ih (memWriteAll_wf _ _ hm)

/-- Rows of codes leave every byte outside them. -/
theorem memRead_putTileRows_out {d : Desc} {t a : Nat} {rows : List (Nat × List Nat)} {m : List Host.Cell}
    (hm : memWf m = true) (h : ∀ p ∈ rows, a < dRowAt d t p.1 ∨
      dRowAt d t p.1 + packedLen (fmtWidth (fwFmtD (mFmtD d))) p.2.length ≤ a) :
    memRead (putTileRows d t rows m) a = memRead m a := by
  induction rows generalizing m with
  | nil => rfl
  | cons p rows ih =>
    refine (ih (memWriteAll_wf _ _ hm) (fun q hq => h q (List.mem_cons_of_mem _ hq))).trans (memRead_bytesWrites_out hm ?_)
    rw [length_packRow]
    exact h p List.mem_cons_self

/-- A drain leaves every byte outside its tile's rows. -/
theorem memRead_writeTile_out {s : State} {o : Op} {x : Tile} {a : Nat} (hm : memWf s.mem = true)
    (hmx : fwMx (mFmtD o.d) = false) (hp : mPair o.d = false) (hb : (matOf o).bind = none)
    (h : ∀ r ∈ tileRows o.d x.t, a < r.1 ∨ r.1 + packedLen (fmtWidth (fwFmtD (mFmtD o.d))) r.2 ≤ a) :
    memRead (writeTile s o x).mem a = memRead s.mem a := by
  rw [writeTile_mem hmx hp hb]
  refine memRead_putTileRows_out hm fun p hrow => ?_
  obtain ⟨hi, hc⟩ := List.of_mem_zip (show (p.1, p.2) ∈ _ from hrow)
  have hlen := packedLen_mono (fmtWidth (fwFmtD (mFmtD o.d))) (length_of_mem_chunks hc)
  rcases h _ (List.mem_map.mpr ⟨p.1, hi, rfl⟩) with hlt | hge
  · exact .inl hlt
  · exact .inr ((Nat.add_le_add_left hlen _).trans hge)

/-- The count and the record of a saturated tile are registers. -/
theorem satDrained_frame (s : State) (o : Op) (x : Tile) : RegsOnly s (satDrained s o x) := by
  unfold satDrained
  split
  · exact .refl s
  · have hset := fun (t : State) (f : Fld) (v : Nat) (hf : f.acc ≠ .rwv) => setF_regsOnly t (cellBase x.cell) 0 v hf
    exact (countF_regsOnly s _ 0 1 (by decide)).trans ((hset _ _ _ (by decide)).trans ((hset _ _ _ (by decide)).trans
      ((hset _ _ _ (by decide)).trans ((hset _ _ _ (by decide)).trans (hset _ _ _ (by decide))))))

/-- Matrix progress with a tile drained. -/
def MatWork.drain (t : Nat) (w : MatWork) : MatWork :=
  { w with tiles := w.tiles.filter (fun y => y.t != t), drained := w.drained ++ [t] }

/-- The state in which a tile has drained, before its operation may end. -/
def tileDrained (s : State) (o : Op) (x : Tile) : State :=
  setMat (satDrained (writeTile s o x) o x) o.ctx o.idx (MatWork.drain x.t)

/-- A drain's end takes the tile off, and the operation ends with its last one. -/
theorem drainDone_eq (s : State) (o : Op) (x : Tile) : drainDone s o x = matMaybeEnd (tileDrained s o x) o.ctx o.idx := rfl

/-- The operation with a tile drained. -/
theorem findOp_tileDrained {s : State} {o : Op} (x : Tile) (ho : findOp s o.ctx o.idx = some o) (hw : o.work = .mat (matOf o)) :
    ∃ b, findOp (tileDrained s o x) o.ctx o.idx = some (o.withMat (fun w => MatWork.drain x.t (MatWork.withBind b w))) := by
  obtain ⟨b, hb⟩ := findOp_writeTile x ho hw
  have hops : (satDrained (writeTile s o x) o x).ops = (writeTile s o x).ops :=
    (congrArg State.ops (satDrained_frame (writeTile s o x) o x)).trans rfl
  exact ⟨b, findOp_setMat (MatWork.drain x.t) ((findOp_congr hops _ _).trans hb)⟩

/-- A drain writes what its tile's outputs come to. -/
theorem tileDrained_mem (s : State) (o : Op) (x : Tile) : (tileDrained s o x).mem = (writeTile s o x).mem :=
  (congrArg State.mem (satDrained_frame (writeTile s o x) o x)).trans rfl

/-- A tile drained is in progress no longer. -/
theorem drainDone_spec {s : State} {o : Op} {x : Tile} (ho : findOp s o.ctx o.idx = some o) (hw : o.work = .mat (matOf o)) :
    findTile (drainDone s o x) o.ctx o.idx x.t = none ∧
      (∃ p, findOp (drainDone s o x) o.ctx o.idx = some p ∧ (matOf p).tiles = (matOf o).tiles.filter (fun y => y.t != x.t) ∧
        (matOf p).drained = (matOf o).drained ++ [x.t]) ∧
      (drainDone s o x).mem = (writeTile s o x).mem := by
  obtain ⟨b, hb⟩ := findOp_tileDrained x ho hw
  obtain ⟨e, r, hend⟩ := findOp_matMaybeEnd hb
  rw [drainDone_eq]
  exact ⟨findTile_matMaybeEnd_dropped hb (fun _ => rfl), ⟨_, hend, rfl, rfl⟩,
    (matMaybeEnd_mem _ _ _).trans (tileDrained_mem s o x)⟩

/-! ### Work held aside (R49) -/

/-- Flags set in a row leave operations and memory. -/
theorem setFlags_frame (s : State) (on : List Nat) : (setFlags s on).ops = s.ops ∧ (setFlags s on).mem = s.mem := by
  have h : ∀ (l : List Nat) (t : State), (l.foldl (fun t c => if (cellGet t c).nf == on.contains c then t
      else cellSet t c { cellGet t c with nf := on.contains c }) t).ops = t.ops ∧
      (l.foldl (fun t c => if (cellGet t c).nf == on.contains c then t
        else cellSet t c { cellGet t c with nf := on.contains c }) t).mem = t.mem := by
    intro l
    induction l with
    | nil => exact fun _ => ⟨rfl, rfl⟩
    | cons c l ih =>
      intro t
      rw [List.foldl_cons]
      split
      · exact ih t
      · exact ih _
  exact h _ s

/-- A piece of work, held aside or not, is done in a state with the same operations and memory, and leaves the memory and
the operation that it makes there. -/
theorem onSide_spec {s : State} {c i : Nat} {o : Op} (f : State → State) (ho : findOp s c i = some o) :
    ∃ t, t.ops = s.ops ∧ t.mem = s.mem ∧ (onSide s c i f).mem = (f t).mem ∧
      ∀ p, findOp (f t) c i = some p → ∃ x, findOp (onSide s c i f) c i = some { p with side := x } := by
  by_cases hl : checkLevel o.d = 2
  · refine ⟨setFlags { s with sclAside := true, sclLate := [], sclFmtLate := [] } [], (setFlags_frame _ _).1,
      (setFlags_frame _ _).2, ?_, fun p hp => ?_⟩
    · rw [onSide, ho]
      dsimp only
      rw [if_neg (not_not.mpr hl), updOp_mem, (setFlags_frame _ _).2]
    · rw [onSide, ho]
      dsimp only
      rw [if_neg (not_not.mpr hl)]
      exact ⟨_, findOp_updOp_same _ c i _ ((findOp_congr (setFlags_frame _ _).1 c i).trans hp) (fun _ => ⟨rfl, rfl⟩)⟩
  · rw [onSide_plain f ho hl]
    exact ⟨s, rfl, rfl, rfl, fun p hp => ⟨p.side, hp⟩⟩

end Sys2Proof.Machine
end

section
/-!
SUPPORT. TILE_FILL_BEGIN, TILE_FILL_END, the checks, TILE_DRAIN_END and PANEL_DECODE_DONE (R109, R110, R121 to R126, R303,
R601, R602).
-/

namespace Sys2Proof.Machine

/-! ### Fills that begin (R109, R110, R601) -/

/-- A tile begins on its Cell: it joins its operation's tiles. -/
theorem beginTile_eq {s : State} {o : Op} (h : sideMode o.d ≠ 1) (t cell bank : Nat) :
    beginTile s o t cell bank = setMat s o.ctx o.idx (fun w => { w with tiles := w.tiles ++ [newTile t cell bank] }) :=
  sideGather_off h _ _

/-- A queued run begins: it leaves its Cell's queue and its tile fills again. -/
theorem beginRun_eq {s : State} {o : Op} (h : sideMode o.d ≠ 1) (x : Tile) :
    beginRun s o x =
      setTile (cellSet s x.cell { cellGet s x.cell with
          reruns := (cellGet s x.cell).reruns.filter (fun q => q != (o.ctx, o.idx, x.t)) })
        o.ctx o.idx x.t (fun y => { y with stage := .filling, runs := y.runs + 1 }) :=
  sideGather_off h _ _

/-- The tile that an operation offers next has not begun. -/
theorem not_begun_of_nextTile {o : Op} {cell t : Nat} (h : nextTile o cell = some t) : ∀ x ∈ (matOf o).tiles, x.t ≠ t := by
  have := List.find?_some h
  simp only [Bool.and_eq_true, Bool.not_eq_true', List.any_eq_false, beq_iff_eq] at this
  exact this.2

/-- A tile that begins is the one of its number. -/
theorem findTile_beginTile {s : State} {o : Op} {cell t : Nat} (hm : sideMode o.d ≠ 1) (ho : findOp s o.ctx o.idx = some o)
    (ht : nextTile o cell = some t) (bank : Nat) :
    ∃ p, findTile (beginTile s o t cell bank) o.ctx o.idx t = some (p, newTile t cell bank) := by
  rw [beginTile_eq hm]
  refine ⟨_, findTile_iff.mpr ⟨findOp_setMat _ ho, ?_⟩⟩
  have hnone : (matOf o).tiles.find? (fun y => y.t == t) = none :=
    List.find?_eq_none.mpr fun x hx => by simpa using not_begun_of_nextTile ht x hx
  rw [matOf_withMat, List.find?_append, hnone]
  simp [newTile]

section Free
variable {s : State} {cell : Nat} (hfill : (cellGet s cell).filling = none) (hstop : (cellGet s cell).stopped = false)
  (hheld : unitsHeld s = false)
include hfill hstop hheld

/-- A free array without queued runs takes the first standing offer once it is ready. -/
theorem fillBegin_offer {q : Nat × Nat} {o : Op} {t : Nat} (hruns : (cellGet s cell).reruns = [])
    (hbank : (banksTaken s cell 0x10000 0 0).contains (1 - (cellGet s cell).lastBank) = false)
    (hq : (cellGet s cell).offers.find? (offerStands s cell) = some q) (ho : findOp s q.1 q.2 = some o)
    (ht : nextTile o cell = some t) :
    fillBegin s cell = if offerReady s cell q then
        let s1 := beginTile s o t cell (1 - (cellGet s cell).lastBank)
        cellSet s1 cell { cellGet s1 cell with
          filling := some (q.1, q.2, t), offers := (cellGet s cell).offers.filter (fun x => x != q) }
      else s := by
  have hfree : ((cellGet s cell).filling.isSome || (cellGet s cell).stopped || unitsHeld s) = false := by
    rw [hfill, hstop, hheld]
    rfl
  unfold fillBegin
  dsimp only
  rw [hfree, hruns, hbank, hq]
  dsimp only
  rw [ho]
  dsimp only
  rw [ht]
  cases offerReady s cell q <;> rfl

/-- A free array with a queued run that may begin takes it. -/
theorem fillBegin_rerun {q : Nat × Nat × Nat} {o : Op} {x : Tile}
    (hq : (cellGet s cell).reruns.find? (runReady s cell) = some q) (hx : findTile s q.1 q.2.1 q.2.2 = some (o, x)) :
    fillBegin s cell =
      cellSet (beginRun s o x) cell { cellGet (beginRun s o x) cell with filling := some (q.1, q.2.1, q.2.2) } := by
  have hfree : ((cellGet s cell).filling.isSome || (cellGet s cell).stopped || unitsHeld s) = false := by
    rw [hfill, hstop, hheld]
    rfl
  have hne : (!(cellGet s cell).reruns.isEmpty) = true := by
    have := List.mem_of_find?_eq_some hq
    cases hr : (cellGet s cell).reruns with
    | nil => simp [hr] at this
    | cons a l => rfl
  unfold fillBegin
  dsimp only
  rw [hfree, hne, hq]
  dsimp only
  rw [hx]
  rfl

end Free

/-- TILE_FILL_BEGIN on a free array without queued runs. -/
theorem tileFillBegin_offer {s : State} (hs : s.canonical = true) {cell t : Nat} {q : Nat × Nat} {o : Op}
    (hfill : (cellGet s cell).filling = none) (hstop : (cellGet s cell).stopped = false) (hheld : unitsHeld s = false)
    (hruns : (cellGet s cell).reruns = [])
    (hbank : (banksTaken s cell 0x10000 0 0).contains (1 - (cellGet s cell).lastBank) = false)
    (hq : (cellGet s cell).offers.find? (offerStands s cell) = some q) (ho : findOp s q.1 q.2 = some o)
    (ht : nextTile o cell = some t) (hm : sideMode o.d ≠ 1) (hready : offerReady s cell q = true) :
    ∃ u p, exec (.tileFillBegin cell) s = .next u ∧
      cellGet u cell = { cellGet s cell with
        filling := some (q.1, q.2, t), offers := (cellGet s cell).offers.filter (fun x => x != q) } ∧
      (∀ k, k ≠ cell → cellGet u k = cellGet s k) ∧
      findTile u q.1 q.2 t = some (p, newTile t cell (1 - (cellGet s cell).lastBank)) ∧
      u = { s with cells := u.cells, ops := u.ops } := by
  have hfb := (fillBegin_offer hfill hstop hheld hruns hbank hq ho ht).trans (if_pos hready)
  obtain ⟨hc, hi⟩ := findOp_place ho
  obtain ⟨p, hp⟩ := findTile_beginTile hm (show findOp s o.ctx o.idx = some o by rw [hc, hi, ho]) ht
    (1 - (cellGet s cell).lastBank)
  rw [hc, hi] at hp
  have hcells : (beginTile s o t cell (1 - (cellGet s cell).lastBank)).cells = s.cells := by
    rw [beginTile_eq hm]
    rfl
  have hwf : CellsWf (beginTile s o t cell (1 - (cellGet s cell).lastBank)) := (State.canonical_cells hs).congr hcells
  refine ⟨_, p, congrArg Host.Outcome.next hfb, ?_, fun k hk => ?_, (findTile_congr rfl _ _ _).trans hp, ?_⟩
  · rw [cellGet_cellSet_same hwf, cellGet_congr hcells]
  · rw [cellGet_cellSet_other hwf hk, cellGet_congr hcells]
  · rw [beginTile_eq hm]
    rfl

/-- TILE_FILL_BEGIN on a free array with a queued run that may begin. -/
theorem tileFillBegin_rerun {s : State} (hs : s.canonical = true) {cell : Nat} {q : Nat × Nat × Nat} {o : Op} {x : Tile}
    (hfill : (cellGet s cell).filling = none) (hstop : (cellGet s cell).stopped = false) (hheld : unitsHeld s = false)
    (hq : (cellGet s cell).reruns.find? (runReady s cell) = some q) (hx : findTile s q.1 q.2.1 q.2.2 = some (o, x))
    (hcell : x.cell = cell) (hm : sideMode o.d ≠ 1) :
    ∃ u p, exec (.tileFillBegin cell) s = .next u ∧
      cellGet u cell = { cellGet s cell with
        filling := some q, reruns := (cellGet s cell).reruns.filter (fun y => y != q) } ∧
      (∀ k, k ≠ cell → cellGet u k = cellGet s k) ∧
      findTile u q.1 q.2.1 q.2.2 = some (p, { x with stage := .filling, runs := x.runs + 1 }) := by
  have hwf := State.canonical_cells hs
  have hfb := fillBegin_rerun hfill hstop hheld hq hx
  obtain ⟨hc, hi, ht⟩ := findTile_place hx
  subst hcell
  have hrun := beginRun_eq (s := s) hm x
  have hqe : (o.ctx, o.idx, x.t) = q := by rw [hc, hi, ht]
  rw [hqe] at hrun
  have hwf1 : CellsWf (beginRun s o x) := by
    rw [hrun]
    exact (hwf.cellSet _ _).congr rfl
  have hsame : cellGet (beginRun s o x) x.cell = { cellGet s x.cell with
      reruns := (cellGet s x.cell).reruns.filter (fun y => y != q) } := by
    rw [hrun]
    exact cellGet_cellSet_same hwf _ _
  have htile := findTile_setTile (f := fun y => { y with stage := .filling, runs := y.runs + 1 })
    ((findTile_congr (cellSet_ops s x.cell { cellGet s x.cell with
      reruns := (cellGet s x.cell).reruns.filter (fun y => y != q) }) _ _ _).trans hx) (fun _ => rfl)
  refine ⟨_, _, congrArg Host.Outcome.next hfb, ?_, fun k hk => ?_, (findTile_congr ?_ _ _ _).trans htile⟩
  · rw [cellGet_cellSet_same hwf1, hsame]
  · rw [cellGet_cellSet_other hwf1 hk, hrun]
    exact cellGet_cellSet_other hwf hk _
  · rw [cellSet_ops, hrun, hc, hi, ht]

/-! ### Fills that end -/

/-- A panel begins at the same place where memory is the same. -/
theorem panelAddr_congr {s t : State} (hm : t.mem = s.mem) (d : Desc) (j : Nat) : panelAddr t d j = panelAddr s d j := by
  induction j with
  | zero => rfl
  | succ j ih => simp only [panelAddr, ih, hm]

/-- A tile's panel is the same where its Cell's buffers and memory are. -/
theorem tilePanel_congr {s t : State} {cell : Nat} (hm : t.mem = s.mem) (hp : (cellGet t cell).panels = (cellGet s cell).panels)
    (o : Op) (k : Nat) : tilePanel t o cell k = tilePanel s o cell k := by
  unfold tilePanel panelHeld
  simp only [hm, hp, panelAddr_congr hm]

/-- What a tile computes from is the same where memory and registers are. -/
theorem matSpec_congr {s t : State} (hm : t.mem = s.mem) (h0 : t.regs = s.regs) (h1 : t.regs1 = s.regs1)
    (h2 : t.regs2 = s.regs2) (o : Op) (p : Option PanelBuf) : matSpec t o p = matSpec s o p := by
  have hf := getF_congr (s := s) (t := t) h0 h1 h2
  have ha : aVal t o.d = aVal s o.d := by unfold aVal memElem memCode; rw [hm]
  have hb : bVal t o.d = bVal s o.d := by unfold bVal memElem memCode; rw [hm]
  have hc : cVal t o.d = cVal s o.d := by unfold cVal memElem memCode; rw [hm]
  simp only [matSpec, ha, hb, hc, getA2, get2, hf]

/-- The state in which a Cell's array has given a fill's results. -/
def fillLeft (s : State) (cell : Nat) (x : Tile) : State :=
  cellSet s cell { cellGet s cell with filling := none, lastBank := runBank x }

/-- What a tile computes from does not change as its Cell's array is freed. -/
theorem matSpec_fillLeft {s : State} (hs : CellsWf s) {cell : Nat} (o : Op) (x : Tile) :
    matSpec (fillLeft s cell x) o (tilePanel (fillLeft s cell x) o cell x.t) = matSpec s o (tilePanel s o cell x.t) := by
  have hp : (cellGet (fillLeft s cell x) cell).panels = (cellGet s cell).panels := by
    rw [fillLeft, cellGet_cellSet_same hs]
  rw [matSpec_congr (s := s) (t := fillLeft s cell x) rfl rfl rfl rfl, tilePanel_congr (s := s) (t := fillLeft s cell x) rfl hp]

/-- TILE_FILL_END while no copy of a granule holds the operation up. -/
theorem exec_tileFillEnd {s : State} {cell : Nat} {q : Nat × Nat × Nat} {o : Op} {x : Tile} (flips : List (Nat × Nat))
    (hfill : (cellGet s cell).filling = some q) (hx : findTile s q.1 q.2.1 q.2.2 = some (o, x)) :
    exec (.tileFillEnd cell flips) s = .next (if opWaits s o then s else fillDone (fillLeft s cell x) o x flips) := by
  show execTileFillEnd cell flips s = _
  unfold execTileFillEnd
  dsimp only
  rw [hfill]
  dsimp only
  rw [hx]
  rfl

/-- What a fill's end makes of its tile, by which run of a duplicate check it was. -/
theorem fillEnd_tile {s : State} (hs : CellsWf s) {cell : Nat} {q : Nat × Nat × Nat} {o : Op} {x : Tile}
    (flips : List (Nat × Nat)) (hx : findTile s q.1 q.2.1 q.2.2 = some (o, x)) (hcell : x.cell = cell) :
    let sp := matSpec s o (tilePanel s o x.cell x.t)
    let r := tileRunFlips sp x.t flips
    let u := fillDone (fillLeft s cell x) o x flips
    ∃ p y, findTile u o.ctx o.idx x.t = some (p, y) ∧
      (x.dup = 0 → dupNeeded sp x.t r = false → y.stage = .sumCheck ∧ y.cur = r) ∧
      (x.dup = 0 → dupNeeded sp x.t r = true → y.stage = .waiting ∧ y.dup = 1 ∧ y.first = r ∧
        (cellGet u cell).reruns.contains (o.ctx, o.idx, x.t) = true) ∧
      (x.dup = 1 → y.stage = .dupCheck ∧ y.second = r) ∧ (1 < x.dup → y.stage = .dupCheck ∧ y.cur = r) := by
  subst hcell
  obtain ⟨hc, hi, ht⟩ := findTile_place hx
  have hleft : findTile (fillLeft s x.cell x) o.ctx o.idx x.t = some (o, x) := by
    rw [hc, hi, ht]
    exact hx
  obtain ⟨ho, hin⟩ := findTile_iff.mp hleft
  have hdone := findOp_fillDone x flips ho
  have hcontains := contains_fillDone (o := o) (x := x) flips (hs.cellSet x.cell { cellGet s x.cell with
    filling := none, lastBank := runBank x })
  rw [← fillLeft, matSpec_fillLeft hs] at hcontains
  dsimp only at hdone ⊢
  rw [matSpec_fillLeft hs] at hdone
  generalize tileRunFlips (matSpec s o (tilePanel s o x.cell x.t)) x.t flips = r at hdone hcontains ⊢
  generalize dupNeeded (matSpec s o (tilePanel s o x.cell x.t)) x.t r = d at hdone hcontains ⊢
  have htile : (MatWork.mapTile x.t (x.afterFill d r) (matOf o)).tiles.find? (fun y => y.t == x.t) =
      some (x.afterFill d r x) := by
    simp only [MatWork.mapTile]
    rw [find?_map_of _ _ _ (fun y => by by_cases hy : y.t = x.t <;> simp [hy, Tile.afterFill_t]), hin]
    simp
  refine ⟨_, _, findTile_iff.mpr ⟨hdone, htile⟩, fun h0 hd => ?_, fun h0 hd => ?_, fun h1 => ?_, fun h2 => ?_⟩
  · simp only [Tile.afterFill, Tile.afterRun, h0, hd]
    split <;> exact ⟨rfl, rfl⟩
  · refine (fun h => ⟨h.1, h.2.1, h.2.2, hcontains h0 hd⟩) (show _ ∧ _ ∧ _ from ?_)
    simp only [Tile.afterFill, Tile.afterRun, h0, hd]
    split <;> exact ⟨rfl, rfl, rfl⟩
  · simp only [Tile.afterFill, Tile.afterRun, h1]
    split <;> exact ⟨rfl, rfl⟩
  · have h0 : x.dup ≠ 0 := by omega
    have h1 : x.dup ≠ 1 := by omega
    simp only [Tile.afterFill, Tile.afterRun, h0, h1]
    split <;> exact ⟨rfl, rfl⟩

/-! ### Checks (R123 to R126) -/

/-- TILE_SUM_CHECK_DONE checks the tile of its Cell whose run has ended. -/
theorem exec_tileSumCheckDone {s : State} {cell : Nat} {o : Op} {x : Tile} (h : tileIn s cell .sumCheck = some (o, x)) :
    exec (.tileSumCheckDone cell) s = .next (sumDone s o x) := by
  show execTileSumCheckDone cell s = _
  unfold execTileSumCheckDone
  rw [h]

/-- TILE_DUP_COMPARE_DONE compares the runs of the tile of its Cell whose duplicate run has ended. -/
theorem exec_tileDupCompareDone {s : State} {cell : Nat} {o : Op} {x : Tile} (h : tileIn s cell .dupCheck = some (o, x)) :
    exec (.tileDupCompareDone cell) s = .next (dupDone s o x) := by
  show execTileDupCompareDone cell s = _
  unfold execTileDupCompareDone
  rw [h]

section Checked
variable {s : State} {o : Op} {x : Tile} (hx : findTile s o.ctx o.idx x.t = some (o, x))
include hx

/-- A check that passes: the tile goes on, its operation has made one check more, and registers count it. -/
theorem check_passes {f : Tile → Tile} (hf : ∀ y, (f y).t = y.t) :
    let u := setTile (countCheck s o x false) o.ctx o.idx x.t f
    ∃ p, findTile u o.ctx o.idx x.t = some (p, f x) ∧ p.checks = o.checks + 1 ∧ u.cells = s.cells ∧
      u = { s with ops := u.ops, regs := u.regs } := by
  have hframe := countCheckOn_frame s o.ctx o.idx x.cell false
  refine ⟨_, findTile_setTile (findTile_countCheckOn x.cell false hx) hf, rfl, ?_, ?_⟩
  · exact (congrArg State.cells hframe).trans rfl
  · unfold countCheck
    rw [show countCheckOn s o.ctx o.idx x.cell false = _ from hframe]
    rfl

/-- A check that fails for the first time: the tile is queued to run again. -/
theorem check_again (hs : CellsWf s) {f : Tile → Tile} (hf : ∀ y, (f y).t = y.t) :
    let u := tileAgain (countCheck s o x true) o x f
    ∃ p, findTile u o.ctx o.idx x.t = some (p, { f x with stage := .waiting }) ∧ p.checks = o.checks + 1 ∧
      p.reruns = o.reruns + 1 ∧ (cellGet u x.cell).reruns.contains (o.ctx, o.idx, x.t) = true := by
  obtain ⟨⟨q, hq, hchecks, hreruns⟩, hqueue⟩ := tileAgain_spec (s := countCheck s o x true)
    (findTile_countCheckOn x.cell true hx) hf
  have hcells : (countCheck s o x true).cells = s.cells :=
    (congrArg State.cells (countCheckOn_frame s o.ctx o.idx x.cell true)).trans rfl
  exact ⟨q, hq, hchecks, hreruns, hqueue (hs.congr hcells)⟩

/-- A check that fails for good: the tile is taken off, and its operation fails. -/
theorem check_fails (hs : s.canonical = true) (hfree : (matOf o).failed = none) (row col : Nat) :
    let u := tileFails (countCheck s o x true) o x row col
    ∃ p, findTile u o.ctx o.idx x.t = none ∧ findOp u o.ctx o.idx = some p ∧ p.checks = o.checks + 1 ∧
      (matOf p).failed = some ⟨.checkFail, faultTail s⟩ := by
  obtain ⟨ho, _⟩ := findTile_iff.mp (findTile_countCheckOn x.cell true hx)
  obtain ⟨hoff, q, hq, hchecks, _, hfailed⟩ := tileFails_spec (x := x) row col ho hfree
  rw [faultTail_countCheckOn hs] at hfailed
  exact ⟨q, hoff, hq, hchecks, hfailed⟩

end Checked

/-! ### Drains -/

/-- The draining tile of a Cell's bank, with its operation: the first in order of beginning. -/
def drainingTile (s : State) (cell bank : Nat) : Option (Op × Tile) :=
  s.ops.findSome? (fun o =>
    match (matOf o).tiles.find? (fun x => x.cell == cell && x.bank == bank && x.stage == .draining) with
    | some x => some (o, x)
    | none => none)

/-- TILE_DRAIN_END: the tile of its Cell and bank drains, unless a copy of a granule holds its operation up. -/
theorem exec_tileDrainEnd {s : State} {cell bank : Nat} {o : Op} {x : Tile} (h : drainingTile s cell bank = some (o, x)) :
    exec (.tileDrainEnd cell bank) s =
      .next (if opWaits s o then s else onSide s o.ctx o.idx (fun t => holdTrain t (drainDone t o x) o.ctx o.idx)) := by
  show execTileDrainEnd cell bank s = _
  unfold execTileDrainEnd
  split
  · next p y hp =>
    obtain ⟨rfl, rfl⟩ : p = o ∧ y = x := by simpa using hp.symm.trans h
    rfl
  · next hp => exact nomatch hp.symm.trans h

/-- What a drain leaves, with training state held and, at level 2, its counts held aside. -/
theorem drain_spec {s : State} (hs : memWf s.mem = true) {o : Op} {x : Tile} (hx : findTile s o.ctx o.idx x.t = some (o, x)) :
    let u := onSide s o.ctx o.idx (fun t => holdTrain t (drainDone t o x) o.ctx o.idx)
    ∃ p, findOp u o.ctx o.idx = some p ∧ (matOf p).drained = (matOf o).drained ++ [x.t] ∧
      findTile u o.ctx o.idx x.t = none ∧ (checkLevel o.d ≠ 2 → u = holdTrain s (drainDone s o x) o.ctx o.idx) ∧
      (fwMx (mFmtD o.d) = false → mPair o.d = false → (matOf o).bind = none →
        ∀ a, (∀ r ∈ tileRows o.d x.t, a < r.1 ∨ r.1 + packedLen (fmtWidth (fwFmtD (mFmtD o.d))) r.2 ≤ a) →
          memRead u.mem a = memRead s.mem a) := by
  obtain ⟨ho, hin⟩ := findTile_iff.mp hx
  have hw := work_of_tile hin
  obtain ⟨t, hops, hmem, hside, hfound⟩ := onSide_spec (fun t => holdTrain t (drainDone t o x) o.ctx o.idx) ho
  have hto : findOp t o.ctx o.idx = some o := (findOp_congr hops _ _).trans ho
  obtain ⟨_, ⟨p, hp, htiles, hdrained⟩, hdmem⟩ := drainDone_spec (x := x) hto hw
  obtain ⟨ws, hheld⟩ := findOp_holdTrain_same (s := t) hp
  obtain ⟨sd, hu⟩ := hfound _ hheld
  refine ⟨_, hu, hdrained, findTile_taken hu fun y hy => ?_, fun hl => onSide_plain _ ho hl, fun hmx hpair hb a ha => ?_⟩
  · have hy : y ∈ (matOf p).tiles := hy
    rw [htiles] at hy
    simpa using (List.mem_filter.mp hy).2
  · have htwf : memWf t.mem = true := by rw [hmem, hs]
    have hout := memRead_writeTile_out htwf hmx hpair hb ha
    have hwf : memWf (drainDone t o x).mem = true := by
      rw [hdmem, writeTile_mem hmx hpair hb]
      exact putTileRows_wf htwf
    rw [hside, memRead_holdTrain _ _ _ hwf, hdmem, hout, ite_self, hmem]

/-! ### Panels (R303) -/

/-- PANEL_DECODE_DONE for a panel that is wanted and not held. -/
theorem exec_panelDecodeDone {s : State} {cell c i stall t : Nat} {o : Op} (ho : findOp s c i = some o) (hr : opRuns o = true)
    (hz : mZb o.d = true) (hop : dOpcode o.d = 0x0100 ∨ dOpcode o.d = 0x0101) (hf : (matOf o).failed = none)
    (hw : opWaits s o = false) (ht : panelWanted s o cell = some t)
    (hh : panelHeld s o cell (t % tileCols (mN o.d)) = none) :
    exec (.panelDecodeDone cell c i stall) s = .next (matMaybeEnd (decodePanel (event (countF s (cellBase cell)
      Reg.expStall_aclk 0 stall) (cellBase cell) 0x05 stall) o cell (t % tileCols (mN o.d))) c i) := by
  have hgo : (!(opRuns o && mZb o.d && (dOpcode o.d == 0x0100 || dOpcode o.d == 0x0101) && (matOf o).failed.isNone) ||
      opWaits s o) = false := by
    rcases hop with hop | hop <;> simp [hr, hz, hop, hf, hw]
  show execPanelDecodeDone cell c i stall s = _
  unfold execPanelDecodeDone
  rw [ho]
  dsimp only
  rw [hgo, ht]
  dsimp only
  rw [hh]
  rfl

/-- A panel that is decoded takes a buffer. -/
theorem decodePanel_ok {s : State} {o : Op} {cell tj : Nat} {h : SegHdr} {syms scales : List Nat}
    (hread : readSegment (fun j => memRead s.mem (panelAddr s o.d tj + j)) = .ok (h, syms, scales)) :
    decodePanel s o cell tj =
      event (holdPanel (yardPanels s o.d cell) cell ⟨o.ctx, o.idx, tj, syms, scales⟩) (cellBase cell) 0x0A syms.length := by
  unfold decodePanel
  dsimp only
  rw [hread]

/-- A panel that is refused fails its operation. -/
theorem decodePanel_refused {s : State} {o : Op} {cell tj : Nat} {r : Refuse}
    (hread : readSegment (fun j => memRead s.mem (panelAddr s o.d tj + j)) = .error r) :
    decodePanel s o cell tj = setMat (countRefused s cell r) o.ctx o.idx (MatWork.fail (refuseEnd r tj)) := by
  unfold decodePanel
  dsimp only
  rw [hread]
  rfl

/-- Held panels are the same where the Cells are. -/
theorem panelHeld_congr {s t : State} (h : t.cells = s.cells) (o : Op) (cell tj : Nat) :
    panelHeld t o cell tj = panelHeld s o cell tj := by
  unfold panelHeld
  rw [cellGet_congr h]

/-- A panel put into a Cell's buffers is held where no other of its number was. -/
theorem panelHeld_holdPanel {s : State} (hs : CellsWf s) {o : Op} {cell tj : Nat} (syms scales : List Nat)
    (hnone : panelHeld s o cell tj = none) :
    panelHeld (holdPanel s cell ⟨o.ctx, o.idx, tj, syms, scales⟩) o cell tj = some ⟨o.ctx, o.idx, tj, syms, scales⟩ := by
  have hsub : ∀ l : List PanelBuf, (∀ p ∈ l, p ∈ (cellGet s cell).panels) →
      (l ++ [(⟨o.ctx, o.idx, tj, syms, scales⟩ : PanelBuf)]).find?
        (fun p : PanelBuf => p.ctx == o.ctx && p.idx == o.idx && p.tj == tj) = some ⟨o.ctx, o.idx, tj, syms, scales⟩ := by
    intro l hl
    have hl' : l.find? (fun p => p.ctx == o.ctx && p.idx == o.idx && p.tj == tj) = none :=
      List.find?_eq_none.mpr fun p hp => List.find?_eq_none.mp hnone p (hl p hp)
    simp [List.find?_append, hl']
  unfold holdPanel
  dsimp only
  unfold panelHeld
  rw [cellGet_cellSet_same hs]
  refine hsub _ fun p hp => ?_
  split at hp
  · exact hp
  · split at hp
    · exact (List.mem_filter.mp hp).1
    · exact List.mem_of_mem_drop hp

/-- What a decoded panel leaves: a buffer of its Cell holds it, or its refusal fails the operation. -/
theorem decodePanel_spec {s t : State} (hs : CellsWf s) {o : Op} {cell tj : Nat} (ho : findOp s o.ctx o.idx = some o)
    (hf : (matOf o).failed = none) (hh : panelHeld s o cell tj = none) (ht : RegsOnly s t) :
    (∀ h syms scales, readSegment (fun j => memRead s.mem (panelAddr s o.d tj + j)) = .ok (h, syms, scales) →
      panelHeld (decodePanel t o cell tj) o cell tj = some ⟨o.ctx, o.idx, tj, syms, scales⟩) ∧
    (∀ r, readSegment (fun j => memRead s.mem (panelAddr s o.d tj + j)) = .error r →
      ∃ p, findOp (decodePanel t o cell tj) o.ctx o.idx = some p ∧ (matOf p).failed = some (refuseEnd r tj)) := by
  have hmem : t.mem = s.mem := (congrArg State.mem ht).trans rfl
  have hcells : t.cells = s.cells := (congrArg State.cells ht).trans rfl
  have hops : t.ops = s.ops := (congrArg State.ops ht).trans rfl
  rw [← hmem, ← panelAddr_congr hmem]
  refine ⟨fun h syms scales hread => ?_, fun r hread => ?_⟩
  · have hyard : (yardPanels t o.d cell).cells = s.cells := hcells
    rw [decodePanel_ok hread, panelHeld_congr (event_cells _ _ _ _)]
    exact panelHeld_holdPanel (hs.congr hyard) syms scales ((panelHeld_congr hyard o cell tj).trans hh)
  · have hrefused : findOp (countRefused t cell r) o.ctx o.idx = some o :=
      (findOp_congr ((countF_ops _ _ _ _ _).trans hops) _ _).trans ho
    rw [decodePanel_refused hread]
    refine ⟨_, findOp_setMat _ hrefused, ?_⟩
    rw [matOf_withMat, MatWork.fail, hf]
    rfl

/-! ### The obligation -/

/-- Settles O39: each command takes the tile that it names one stage further, and a decoded panel is held or refused. -/
theorem tilesStepByStep : Obligations.TilesStepByStep := by
  intro s hs
  have hwf := State.canonical_cells hs
  refine ⟨?offer, ?rerun, ?fillEnd, ?sumCheck, ?dupCheck, ?drain, ?panel⟩
  case offer =>
    intro cell q o t c hfill hstop hheld hruns hbank hq ho ht hm
    refine ⟨fun hn => ?_, tileFillBegin_offer hs hfill hstop hheld hruns hbank hq ho ht hm⟩
    exact congrArg Host.Outcome.next ((fillBegin_offer hfill hstop hheld hruns hbank hq ho ht).trans (by rw [hn]; rfl))
  case rerun =>
    intro cell q o x c hfill hstop hheld hq hx hcell hm
    exact tileFillBegin_rerun hs hfill hstop hheld hq hx hcell hm
  case fillEnd =>
    intro cell q o x flips hfill hx hcell s1 sp r
    have hexec := exec_tileFillEnd flips hfill hx
    exact ⟨fun h => hexec.trans (by rw [if_pos h]), fun h => ⟨hexec.trans (by rw [if_neg (by simp [h])]; rfl),
      fillEnd_tile hwf flips hx hcell⟩⟩
  case sumCheck =>
    intro cell o x hin hx bad
    have hexec := exec_tileSumCheckDone hin
    refine ⟨fun hpass => ?_, fun hbad h0 => ?_, fun hbad h1 hfree => ?_⟩
    · obtain ⟨p, h⟩ := check_passes hx (f := fun y => { y with stage := .draining }) (fun _ => rfl)
      exact ⟨_, p, hexec.trans (congrArg _ (sumDone_pass hpass)), h⟩
    · obtain ⟨p, h⟩ := check_again hx hwf (f := fun y => { y with fails := 1 }) (fun _ => rfl)
      exact ⟨_, p, hexec.trans (congrArg _ (sumDone_again hbad h0)), h⟩
    · obtain ⟨row, col, heq⟩ := sumDone_fails hbad h1
      obtain ⟨p, h⟩ := check_fails hx hs hfree row col
      exact ⟨_, p, hexec.trans (congrArg _ heq), h⟩
  case dupCheck =>
    intro cell o x hin hx
    have hexec := exec_tileDupCompareDone hin
    refine ⟨fun h1 hsame => ?_, fun h1 hdiff => ?_, fun h2 hsame => ?_, fun h2 hdiff hfree => ?_⟩
    · obtain ⟨p, hp, hchecks, _, hframe⟩ := check_passes hx
        (f := fun y => { y with stage := .draining, dup := 0, cur := y.first }) (fun _ => rfl)
      exact ⟨_, p, hexec.trans (congrArg _ (dupDone_same h1 hsame)), hp, hchecks, hframe⟩
    · obtain ⟨p, hp, hchecks, hreruns, _⟩ := check_again hx hwf (f := fun y => { y with dup := 2, fails := y.fails + 1 })
        (fun _ => rfl)
      exact ⟨_, p, hexec.trans (congrArg _ (dupDone_third h1 hdiff)), hp, hchecks, hreruns⟩
    · obtain ⟨p, hp, hchecks, _, _⟩ := check_passes hx (f := fun y => { y with stage := .draining, dup := 0 }) (fun _ => rfl)
      exact ⟨_, p, hexec.trans (congrArg _ (dupDone_thirdStands (by omega) hsame)), hp, hchecks⟩
    · obtain ⟨row, col, heq⟩ := dupDone_fails (s := s) (o := o) (by omega) hdiff
      obtain ⟨p, hoff, hp, _, hfailed⟩ := check_fails hx hs hfree row col
      exact ⟨_, p, hexec.trans (congrArg _ heq), hoff, hp, hfailed⟩
  case drain =>
    intro cell bank o x hin hx
    have hexec := exec_tileDrainEnd hin
    refine ⟨fun h => hexec.trans (by rw [if_pos h]), fun h => ?_⟩
    obtain ⟨p, hp⟩ := drain_spec (State.canonical_mem hs) hx
    exact ⟨_, p, hexec.trans (by rw [if_neg (by simp [h])]), hp⟩
  case panel =>
    intro cell c i stall o t ho hr hz hop hf hw ht hh tj s1 read
    obtain ⟨rfl, rfl⟩ := findOp_place ho
    have hregs : RegsOnly s s1 := (countF_regsOnly _ _ 0 stall (by decide)).trans (event_regsOnly _ _ _ _)
    exact ⟨exec_panelDecodeDone ho hr hz hop hf hw ht hh, decodePanel_spec hwf ho hf hh hregs⟩

end Sys2Proof.Machine
end

section
/-!
SUPPORT. MATMUL of one INT8 tile into INT32 (R112, R114, R120, R125, R130, R155).
-/

namespace Sys2Proof.Machine

/-! ### One tile over INT8 operands -/

/-- R130: a matrix descriptor of one tile, with INT8 operands, an INT32 output, one pass, no C and no panel. -/
structure OneInt8Tile (d : Desc) : Prop where
  opcode : dOpcode d = 0x0100
  fmtA : mFmtA d = 6
  fmtB : mFmtB d = 6
  fmtD : mFmtD d = 11
  passes : mPasses d = 0
  accIn : mAccIn d = false
  zb : mZb d = false
  side : sideMode d ≠ 1
  m_pos : 1 ≤ mM d
  m_le : mM d ≤ 128
  n_pos : 1 ≤ mN d
  n_le : mN d ≤ 64
  k_le : mK d ≤ 65536
  pitch : 4 * mN d ≤ slotPitch d 0x48

namespace OneInt8Tile
variable {d : Desc} (h : OneInt8Tile d)
include h

theorem tileCols_eq : tileCols (mN d) = 1 := by
  have := h.n_pos
  have := h.n_le
  unfold tileCols ceilDiv
  omega

theorem opTiles_eq : opTiles d = 1 := by
  have := h.m_pos
  have := h.m_le
  unfold opTiles tileCount
  rw [h.tileCols_eq]
  unfold ceilDiv
  omega

theorem tileI_eq : tileI (mM d) (mN d) 0 = List.range (mM d) := by
  simp [tileI, h.tileCols_eq, h.m_le]

theorem tileJ_eq : tileJ (mN d) 0 = List.range (mN d) := by
  simp [tileJ, h.tileCols_eq, h.n_le]

theorem mAcc_eq : mAcc d = .i32 := by
  unfold mAcc
  rw [h.fmtA]
  rfl

theorem mPair_eq : mPair d = false := by
  unfold mPair
  rw [h.opcode]
  rfl

end OneInt8Tile

/-- An INT8 element is an integer of at most 128 in magnitude. -/
theorem memElem_int8 (s : State) (off pitch r c : Nat) :
    ∃ z : Int, memElem s 6 off pitch r c none = fvOfInt z ∧ |z| ≤ 128 := by
  refine ⟨toSigned 8 (memCode s (off + r * pitch) 8 c), rfl, ?_⟩
  obtain ⟨hlo, hhi⟩ := toSigned_range (f := .int8) rfl (memCode s (off + r * pitch) 8 c)
  simp only [fmtWidth, fmtMaxCode] at hlo hhi
  rw [abs_le]
  constructor <;> omega

section Spec
variable {d : Desc} (h : OneInt8Tile d)
include h

/-- An INT8 operand's element. -/
theorem aVal_int8 (s : State) (i k : Nat) : ∃ z : Int, aVal s d i k = fvOfInt z ∧ |z| ≤ 128 := by
  unfold aVal
  rw [h.fmtA, show fwMx 6 = false from rfl]
  dsimp only
  split <;> exact memElem_int8 _ _ _ _ _

/-- An INT8 operand's element. -/
theorem bVal_int8 (s : State) (k j : Nat) : ∃ z : Int, bVal s d k j = fvOfInt z ∧ |z| ≤ 128 := by
  unfold bVal
  rw [h.fmtB, show fwMx 6 = false from rfl]
  dsimp only
  split <;> exact memElem_int8 _ _ _ _ _

end Spec

/-- The exact sum of products of an output. -/
def productSum (s : State) (d : Desc) (i j : Nat) : Int :=
  ((List.range (mK d)).map (fun k => fvInt (aVal s d i k) * fvInt (bVal s d k j))).sum

section Run
variable {s : State} {o : Op} (h : OneInt8Tile o.d)
include h

/-- The tile of a one-tile operation uses no panel. -/
theorem tilePanel_none (cell t : Nat) : tilePanel s o cell t = none := by
  simp [tilePanel, h.zb]

/-- A one-tile INT8 operation accumulates integers. -/
theorem intSpec_matSpec : IntSpec (matSpec s o none) where
  acc := h.mAcc_eq
  passes := h.passes
  a i k := (aVal_int8 h s i k).imp fun _ => And.left
  b k j := (bVal_int8 h s k j).imp fun _ => And.left
  c hc := absurd hc (by simp [matSpec, h.accIn])

/-- The exact output of a one-tile INT8 operation is its sum of products. -/
theorem exactOut_matSpec (i j : Nat) : exactOut (matSpec s o none) i j = productSum s o.d i j := by
  simp [exactOut, matSpec, h.accIn, productSum]

/-- So few products of INT8 elements do not saturate. -/
theorem tileRun_unsaturated (t : Nat) : (tileRun (matSpec s o none) t).sat = false := by
  have hx := intSpec_matSpec (s := s) h
  have hterm : ∀ i j, ∀ f ∈ matTerms (matSpec s o none) i j, |termInt f| ≤ 2 ^ 14 := by
    intro i j f hf
    rw [matTerms_onePass hx.passes] at hf
    obtain ⟨k, _, rfl⟩ := List.mem_map.mp hf
    obtain ⟨za, ha, hza⟩ := aVal_int8 h s i k
    obtain ⟨zb, hb, hzb⟩ := bVal_int8 h s k j
    rw [hx.termInt, show (matSpec s o none).a i k = _ from ha, show (matSpec s o none).b k j = _ from hb, fvInt_fvOfInt,
      fvInt_fvOfInt, abs_mul]
    calc |za| * |zb| ≤ 128 * 128 := mul_le_mul hza hzb (abs_nonneg _) (by decide)
      _ = 2 ^ 14 := by norm_num
  have hacc : ∀ i j, (accumulate (matSpec s o none) i j).sat = false := by
    intro i j
    have hlen : (matTerms (matSpec s o none) i j).length = mK o.d := by
      rw [matTerms_onePass hx.passes, List.length_map, List.length_range]
      rfl
    obtain ⟨hv, -⟩ := hx.start i j
    have hstart : (matSpec s o none).accIn = false := h.accIn
    refine accTerms_inRange hx.acc _ _ _ hv rfl (hterm i j) ?_
    rw [hlen, hstart]
    have := h.k_le
    simp only [Bool.false_eq_true, reduceIte, abs_zero]
    omega
  simp [tileRun, hacc]

/-- R121: a one-tile INT8 operation is checked by its sums. -/
theorem dupNeeded_matSpec (t : Nat) (r : TileRun) (hr : r.sat = false) : dupNeeded (matSpec s o none) t r = false := by
  have hacc : (matSpec s o none).acc = .i32 := h.mAcc_eq
  simp [dupNeeded, hacc, hr]

end Run

/-! ### The tile taken to its drain -/

/-- An operation whose only tile in progress is `x`, with `n` checks more. -/
def Op.alone (o : Op) (n : Nat) (x : Tile) : Op := { o with checks := o.checks + n, work := .mat ⟨[x], [], none, none⟩ }

/-- The only tile of an operation, changed. -/
theorem Op.alone_mapTile (o : Op) (n : Nat) (x : Tile) (f : Tile → Tile) :
    (o.alone n x).withMat (MatWork.mapTile x.t f) = o.alone n (f x) := by
  simp [Op.alone, Op.withMat, MatWork.mapTile, matOf]

/-- The only tile of an operation is found. -/
theorem findTile_alone {s : State} {c i n : Nat} {o : Op} {x : Tile} (h : findOp s c i = some (o.alone n x)) :
    findTile s c i x.t = some (o.alone n x, x) :=
  findTile_iff.mpr ⟨h, by simp [Op.alone, matOf]⟩

/-- A tile in progress is taken one stage further. -/
theorem driveLoop_step {s : State} {c i t : Nat} {o : Op} {x : Tile} (h : findTile s c i t = some (o, x)) (n : Nat) :
    driveLoop (n + 1) s c i t = driveLoop n (driveTile s o x) c i t := by
  rw [driveLoop, h]

/-- A tile that is not in progress is at its end. -/
theorem driveLoop_done {s : State} {c i t : Nat} (h : findTile s c i t = none) (n : Nat) : driveLoop n s c i t = s := by
  cases n with
  | zero => rfl
  | succ n => rw [driveLoop, h]

/-- A matrix operation whose last tile has drained ends. -/
theorem matMaybeEnd_ends {s : State} {c i : Nat} {o : Op} (h : findOp s c i = some o) (ht : (matOf o).tiles = [])
    (hf : (matOf o).failed = none) (hd : (matOf o).drained.length = opTiles o.d) (hc : checkLevel o.d ≠ 2) :
    findOp (matMaybeEnd s c i) c i = some { o with ended := some (normalEnd o) } := by
  have hclear : findOp (clearCells s c i) c i = some o := h
  unfold matMaybeEnd
  rw [h]
  dsimp only
  rw [ht, hf, if_neg (by decide)]
  dsimp only
  rw [if_pos hd]
  exact findOp_finishOp_same hclear hc

/-- Without lane faults a run gives the fault-free codes. -/
theorem flipCodes_nil (w base : Nat) (cs : List Nat) : flipCodes w [] base cs = cs := by
  unfold flipCodes
  simp only [List.foldl_nil]
  exact List.map_snd_zip (by simp)

/-- The codes of the sums of products of a one-tile operation, row by row. -/
def productCodes (s : State) (d : Desc) : List Nat :=
  (tilePos (mM d) (mN d) 0).map (fun p => ofSigned 32 (productSum s d p.1 p.2))

/-- Sums of products are the same where memory is. -/
theorem productSum_congr {s t : State} (hm : t.mem = s.mem) (d : Desc) (i j : Nat) : productSum t d i j = productSum s d i j := by
  unfold productSum aVal bVal memElem memCode
  rw [hm]

theorem productCodes_congr {s t : State} (hm : t.mem = s.mem) (d : Desc) : productCodes t d = productCodes s d := by
  unfold productCodes
  simp only [productSum_congr hm]

section Drive
variable {s : State} {o : Op} {n : Nat} {x : Tile} (h : OneInt8Tile o.d) (ht : x.t = 0)
  (ho : findOp s o.ctx o.idx = some (o.alone n x))
include h

/-- The sums of products are in range. -/
theorem productSum_inRange {p : Nat × Nat} (hp : p ∈ tilePos (mM o.d) (mN o.d) 0) : InInt32 (productSum s o.d p.1 p.2) := by
  rw [← exactOut_matSpec h]
  exact (intSpec_matSpec h).exactOut_inRange (tileRun_unsaturated h 0) hp

include ht ho

/-- A one-tile operation's fill gives the codes of the sums of products, and its sum check begins. -/
theorem drive_filling (hs : x.stage = .filling) (hd : x.dup = 0) (hf : x.offered = false) :
    ∃ r, r.outs = productCodes s o.d ∧
      findOp (driveTile s (o.alone n x) x) o.ctx o.idx =
        some (o.alone n { x with stage := .sumCheck, cur := r, offered := true }) ∧
      (driveTile s (o.alone n x) x).mem = s.mem := by
  have hspec : OneInt8Tile (o.alone n x).d := h
  have hdrive : driveTile s (o.alone n x) x = fillDone s (o.alone n x) x [] := by
    unfold driveTile
    rw [hs]
  have hfill := findOp_fillDone (o := o.alone n x) x [] ho
  dsimp only at hfill
  rw [tilePanel_none hspec, Op.alone_mapTile] at hfill
  refine ⟨tileRunFlips (matSpec s (o.alone n x) none) x.t [], ?_, ?_, ?_⟩
  · unfold tileRunFlips
    dsimp only
    rw [flipCodes_nil, ht, (intSpec_matSpec hspec).tileRun_outs (tileRun_unsaturated hspec 0)]
    simp only [exactOut_matSpec hspec]
    rfl
  · rw [hdrive]
    refine hfill.trans ?_
    have hdup := dupNeeded_matSpec (s := s) hspec x.t (tileRunFlips (matSpec s (o.alone n x) none) x.t [])
      (tileRun_unsaturated hspec x.t)
    rw [hdup]
    simp [Tile.afterFill, Tile.afterRun, hd, hf]
  · rw [hdrive, fillDone_mem]

/-- The sum check of the codes of the sums of products passes, and the tile drains. -/
theorem drive_sumCheck (hs : x.stage = .sumCheck) (hc : x.cur.outs = productCodes s o.d) :
    findOp (driveTile s (o.alone n x) x) o.ctx o.idx = some (o.alone (n + 1) { x with stage := .draining }) ∧
      (driveTile s (o.alone n x) x).mem = s.mem := by
  have hspec : OneInt8Tile (o.alone n x).d := h
  have hbad : tileBad s (o.alone n x) x = ([], []) := by
    unfold tileBad
    rw [tilePanel_none hspec, ht]
    refine sumCheckFails_exact (intSpec_matSpec hspec).acc ?_ ?_
    · rw [hc]
      simp only [exactOut_matSpec hspec]
      rfl
    · intro p hp
      rw [exactOut_matSpec hspec]
      exact productSum_inRange h hp
  have hdrive : driveTile s (o.alone n x) x =
      setTile (countCheck s (o.alone n x) x false) o.ctx o.idx x.t (fun y => { y with stage := .draining }) := by
    unfold driveTile
    rw [hs]
    exact sumDone_pass hbad
  obtain ⟨hcount, _⟩ := findTile_iff.mp (findTile_countCheckOn x.cell false (findTile_alone ho))
  rw [hdrive]
  constructor
  · exact (findOp_setMat _ hcount).trans (congrArg some (o.alone_mapTile (n + 1) x _))
  · exact (congrArg State.mem (countCheckOn_frame s o.ctx o.idx x.cell false)).trans rfl

/-- The drain of a one-tile operation's tile ends the operation. -/
theorem drive_draining (hs : x.stage = .draining) (hr : o.reruns = 0) (hl : checkLevel o.d ≠ 2) :
    (∃ p, findOp (driveTile s (o.alone n x) x) o.ctx o.idx = some p ∧ p.ended = some ⟨.done, 0⟩) ∧
      findTile (driveTile s (o.alone n x) x) o.ctx o.idx 0 = none ∧
      (driveTile s (o.alone n x) x).mem = (writeTile s (o.alone n x) x).mem := by
  have hdrive : driveTile s (o.alone n x) x = drainDone s (o.alone n x) x := by
    unfold driveTile
    rw [hs]
  obtain ⟨hoff, _, hmem⟩ := drainDone_spec (o := o.alone n x) (x := x) ho rfl
  obtain ⟨b, hb⟩ := findOp_tileDrained (o := o.alone n x) x ho rfl
  rw [hdrive]
  rw [ht] at hoff
  refine ⟨⟨_, matMaybeEnd_ends hb ?_ rfl (h.opTiles_eq ▸ rfl) hl, ?_⟩, hoff, hmem⟩
  · show [x].filter (fun y => y.t != x.t) = []
    simp
  · show some (normalEnd _) = _
    unfold normalEnd
    rw [if_neg (by simp [skippedAway, Op.withMat])]
    exact congrArg some (if_pos hr)

end Drive

/-- A one-tile operation, driven from its fill to its end: DONE, and the outputs of its only tile written. -/
theorem driveLoop_oneTile {s : State} {o : Op} (h : OneInt8Tile o.d) (ho : findOp s o.ctx o.idx = some o)
    (hw : o.work = .mat ⟨[], [], none, none⟩) (hr : o.reruns = 0) (hl : checkLevel o.d ≠ 2) (cell : Nat) :
    ∃ t n x, t.mem = s.mem ∧ x.t = 0 ∧ x.cur.outs = productCodes s o.d ∧
      (driveLoop 16 (beginTile s o 0 cell 0) o.ctx o.idx 0).mem = (writeTile t (o.alone n x) x).mem ∧
      ∃ p, findOp (driveLoop 16 (beginTile s o 0 cell 0) o.ctx o.idx 0) o.ctx o.idx = some p ∧ p.ended = some ⟨.done, 0⟩ := by
  have hmat : matOf o = ⟨[], [], none, none⟩ := by rw [matOf, hw]
  have h0 : findOp (beginTile s o 0 cell 0) o.ctx o.idx = some (o.alone 0 (newTile 0 cell 0)) := by
    rw [beginTile_eq h.side, findOp_setMat _ ho]
    simp [Op.alone, Op.withMat, hmat]
  have hm0 : (beginTile s o 0 cell 0).mem = s.mem := by
    rw [beginTile_eq h.side]
    rfl
  obtain ⟨r, hcodes, h1, hm1⟩ := drive_filling h rfl h0 rfl rfl rfl
  have hm1 := hm1.trans hm0
  rw [productCodes_congr hm0] at hcodes
  obtain ⟨h2, hm2⟩ := drive_sumCheck h rfl h1 rfl (hcodes.trans (productCodes_congr hm1 _).symm)
  have hm2 := hm2.trans hm1
  obtain ⟨hend, hoff, hm3⟩ := drive_draining h rfl h2 rfl hr hl
  have hdrive := (driveLoop_step (t := 0) (findTile_alone h0) 15).trans <|
    (driveLoop_step (t := 0) (findTile_alone h1) 14).trans <|
    (driveLoop_step (t := 0) (findTile_alone h2) 13).trans (driveLoop_done hoff 13)
  rw [hdrive]
  exact ⟨_, _, _, hm2, rfl, hcodes, hm3, hend⟩

/-! ### The rows of D -/

/-- The rows of a tile are its outputs cut at their length. -/
theorem chunks_flatMap {α β : Type} {n : Nat} (hn : 0 < n) (g : α → List β) (l : List α) (hg : ∀ x ∈ l, (g x).length = n) :
    chunks n l.length (l.flatMap g) = l.map g := by
  induction l with
  | nil => rfl
  | cons x l ih =>
    have hx : (g x).length = n := hg x List.mem_cons_self
    have hne : ((x :: l).flatMap g).isEmpty = false := by
      rw [List.isEmpty_eq_false_iff_exists_mem, ← List.length_pos_iff_exists_mem, List.flatMap_cons, List.length_append]
      omega
    rw [List.length_cons, chunks, hne, if_neg Bool.false_ne_true, List.flatMap_cons, ← hx, List.take_left, List.drop_left, hx,
      ih fun y hy => hg y (List.mem_cons_of_mem _ hy), List.map_cons]

/-- Of rows that lie apart, each is read back. -/
theorem memRead_putTileRows_in {d : Desc} {t k : Nat} {rows : List (Nat × List Nat)} {m : List Host.Cell} (hm : memWf m = true)
    (hapart : rows.Pairwise fun p q => dRowAt d t p.1 + packedLen (fmtWidth (fwFmtD (mFmtD d))) p.2.length ≤ dRowAt d t q.1)
    {p : Nat × List Nat} (hp : p ∈ rows) (hk : k < packedLen (fmtWidth (fwFmtD (mFmtD d))) p.2.length) :
    memRead (putTileRows d t rows m) (dRowAt d t p.1 + k) = (packRow (fmtWidth (fwFmtD (mFmtD d))) p.2).getD k 0 := by
  induction rows generalizing m with
  | nil => cases hp
  | cons q rows ih =>
    obtain ⟨hq, hrest⟩ := List.pairwise_cons.mp hapart
    have hwf := memWriteAll_wf (bytesWrites (dRowAt d t q.1) (packRow (fmtWidth (fwFmtD (mFmtD d))) q.2)) m hm
    rcases List.mem_cons.mp hp with rfl | hp
    · refine (memRead_putTileRows_out hwf fun q' hq' => .inl ?_).trans (memRead_bytesWrites_in hm (by rwa [length_packRow]))
      have := hq q' hq'
      omega
    · exact ih hwf hrest hp

/-- A 4-byte value in memory is the packed element of 32 bits there. -/
theorem memNat_four (m : List Host.Cell) (a j : Nat) :
    memNat m (a + 4 * j) 4 = packedGet (fun k => memRead m (a + k)) 32 j := by
  unfold memNat memBytes packedGet
  rw [if_neg (by decide), if_neg (by decide)]
  refine congrArg leNat (List.map_congr_left fun i _ => ?_)
  rw [Nat.mul_comm j, Nat.add_assoc]

/-- A packed element of 32 bits is told by its 4 bytes. -/
theorem packedGet_congr {f g : Nat → Byte} {j : Nat} (h : ∀ i, i < 4 → f (j * 4 + i) = g (j * 4 + i)) :
    packedGet f 32 j = packedGet g 32 j := by
  unfold packedGet
  rw [if_neg (by decide), if_neg (by decide), if_neg (by decide), if_neg (by decide)]
  exact congrArg leNat (List.map_congr_left fun i hi => h i (List.mem_range.mp hi))

/-- The codes of a row of D. -/
def productRow (s : State) (d : Desc) (r : Nat) : List Nat := (List.range (mN d)).map (fun j => ofSigned 32 (productSum s d r j))

/-- A row of D has 4 bytes an output. -/
theorem packedLen_productRow (s : State) (d : Desc) (r : Nat) : packedLen 32 (productRow s d r).length = 4 * mN d := by
  simp [packedLen, productRow, Nat.mul_comm]

section Rows
variable {s : State} {o : Op} {x : Tile} (h : OneInt8Tile o.d) (ht : x.t = 0)
include h

/-- An element of a row of D has 32 bits. -/
theorem dWidth_eq : fmtWidth (fwFmtD (mFmtD o.d)) = 32 := by
  rw [h.fmtD]
  rfl

/-- Where a row of D begins. -/
theorem dRowAt_eq (r : Nat) : dRowAt o.d 0 r = slotOff o.d 0x48 + r * slotPitch o.d 0x48 := by
  unfold dRowAt
  rw [dWidth_eq h, Nat.zero_mod]
  rfl

include ht

/-- The rows that the drain of the exact outputs writes. -/
theorem drainRows_exact (hc : x.cur.outs = productCodes s o.d) :
    drainRows s o x = (List.range (mM o.d)).map (fun r => (r, productRow s o.d r)) := by
  have hcodes : drainCodes s o x = productCodes s o.d := by
    unfold drainCodes
    rw [hc, ht, h.fmtD, h.mAcc_eq]
    unfold productCodes
    rw [← List.map_prod_left_eq_zip, List.map_map]
    exact List.map_congr_left fun p _ => convert_decodeCode_int (f := .int32) rfl _ (ofSigned_lt _ _)
  unfold drainRows
  rw [hcodes, ht, h.tileI_eq, h.tileJ_eq]
  unfold productCodes tilePos
  rw [h.tileI_eq, h.tileJ_eq, List.map_flatMap, chunks_flatMap]
  · rw [← List.map_prod_left_eq_zip]
    simp [productRow, Function.comp_def]
  · rw [List.length_range]
    exact h.n_pos
  · simp

/-- The drain of the exact outputs writes each output's 4 bytes. -/
theorem memNat_writeTile (hm : memWf s.mem = true) (hb : (matOf o).bind = none) (hc : x.cur.outs = productCodes s o.d) {r j : Nat}
    (hr : r < mM o.d) (hj : j < mN o.d) :
    memNat (writeTile s o x).mem (slotOff o.d 0x48 + r * slotPitch o.d 0x48 + 4 * j) 4 = ofSigned 32 (productSum s o.d r j) := by
  have hmx : fwMx (mFmtD o.d) = false := by rw [h.fmtD]; rfl
  have hpitch := h.pitch
  have hapart : ((List.range (mM o.d)).map (fun r => (r, productRow s o.d r))).Pairwise fun p q =>
      dRowAt o.d 0 p.1 + packedLen (fmtWidth (fwFmtD (mFmtD o.d))) p.2.length ≤ dRowAt o.d 0 q.1 := by
    refine List.pairwise_map.mpr (List.pairwise_lt_range.imp fun {a b} hab => ?_)
    have hstep := Nat.mul_le_mul_right (slotPitch o.d 0x48) (Nat.succ_le_of_lt hab)
    rw [Nat.succ_mul] at hstep
    simp only [dRowAt_eq h, dWidth_eq h, packedLen_productRow]
    omega
  have hrow : ∀ k, k < 4 * mN o.d → memRead (writeTile s o x).mem (slotOff o.d 0x48 + r * slotPitch o.d 0x48 + k) =
      (packRow 32 (productRow s o.d r)).getD k 0 := by
    intro k hk
    have hin := memRead_putTileRows_in hm hapart (List.mem_map.mpr ⟨r, List.mem_range.mpr hr, rfl⟩)
      (k := k) (by rwa [dWidth_eq h, packedLen_productRow])
    rwa [dRowAt_eq h, dWidth_eq h, ← drainRows_exact h ht hc, ← ht, ← writeTile_mem hmx h.mPair_eq hb] at hin
  calc memNat (writeTile s o x).mem (slotOff o.d 0x48 + r * slotPitch o.d 0x48 + 4 * j) 4
      = packedGet (fun k => memRead (writeTile s o x).mem (slotOff o.d 0x48 + r * slotPitch o.d 0x48 + k)) 32 j :=
        memNat_four _ _ _
    _ = packedGet (fun k => (packRow 32 (productRow s o.d r)).getD k 0) 32 j :=
        packedGet_congr fun i hi => hrow _ (by omega)
    _ = (productRow s o.d r).getD j 0 :=
        packedGet_packRow (by decide) (by simpa [productRow] using fun _ _ => ofSigned_lt 32 _) (by simpa [productRow] using hj)
    _ = ofSigned 32 (productSum s o.d r j) := by simp [productRow, hj]

/-- The drain leaves every byte outside the rows of D. -/
theorem memRead_writeTile_apart (hm : memWf s.mem = true) (hb : (matOf o).bind = none) {a : Nat}
    (ha : ∀ r, r < mM o.d → a < slotOff o.d 0x48 + r * slotPitch o.d 0x48 ∨
      slotOff o.d 0x48 + r * slotPitch o.d 0x48 + 4 * mN o.d ≤ a) :
    memRead (writeTile s o x).mem a = memRead s.mem a := by
  have hmx : fwMx (mFmtD o.d) = false := by rw [h.fmtD]; rfl
  refine memRead_writeTile_out hm hmx h.mPair_eq hb fun p hp => ?_
  rw [ht] at hp
  obtain ⟨r, hr, rfl⟩ := List.mem_map.mp hp
  rw [h.tileI_eq] at hr
  rw [dWidth_eq h, dRowAt_eq h, h.tileJ_eq, List.length_range]
  have := ha r (List.mem_range.mp hr)
  unfold packedLen
  rw [if_neg (by decide), if_neg (by decide)]
  omega

end Rows

/-! ### The command -/

/-- MATMUL of a one-tile operation that has not begun drives its tile to its end. -/
theorem execMatmul_oneTile {s : State} {c i : Nat} {o : Op} (h : OneInt8Tile o.d) (ho : runningOp s c i 0x0100 = some o)
    (hw : o.work = .mat ⟨[], [], none, none⟩) (haway : o.away = []) (hl : checkLevel o.d ≠ 2)
    (hslot : slotOver s o = false) (hunits : unitsHeld s = false) (htrain : trainRegions s = []) :
    execMatmul c i s = .next (driveLoop 16 (beginTile s o 0 (cellOfUnit o.d 0) 0) c i 0) := by
  obtain ⟨hfind, hruns, -, -⟩ := runningOp_some ho
  obtain ⟨rfl, rfl⟩ := findOp_place hfind
  have hmat : matOf o = ⟨[], [], none, none⟩ := by rw [matOf, hw]
  have hready : panelReady s o (cellOfUnit o.d 0) 0 = true := by simp [panelReady, h.zb]
  have hrun : runTile s o.ctx o.idx 0 = driveLoop 16 (beginTile s o 0 (cellOfUnit o.d 0) 0) o.ctx o.idx 0 := by
    unfold runTile
    simp [hfind, hruns, hmat, hready]
  have hall : matRunAll s o = runTile s o.ctx o.idx 0 := by
    unfold matRunAll
    simp [hmat, hslot, hunits, haway, h.opTiles_eq]
  unfold execMatmul
  rw [onOp_running _ ho, onSide_plain _ hfind hl, holdTrain_eq, htrain, hall, hrun]
  rfl

/-- Settles O38: the operation's only tile fills, passes its sum check and drains, and the drain writes the exact sums. -/
theorem integerMatmulWritesExactProducts : Obligations.IntegerMatmulWritesExactProducts := by
  intro s c i o hwf ho hw hr haway hcheck hA hB hD hpasses haccIn hzb hside hm1 hm hn1 hn hk hpitch hslot hunits htrain
  dsimp only
  obtain ⟨hfind, -, hop, -⟩ := runningOp_some ho
  have h : OneInt8Tile o.d := ⟨hop, hA, hB, hD, hpasses, haccIn, hzb, hside, hm1, hm, hn1, hn, hk, hpitch⟩
  have hl := checkLevel_ne_two hcheck
  have hexec := execMatmul_oneTile h ho hw haway hl hslot hunits htrain
  obtain ⟨rfl, rfl⟩ := findOp_place hfind
  obtain ⟨t, n, x, hmem, hx, hcodes, hout, p, hp, hended⟩ := driveLoop_oneTile h hfind hw hr hl (cellOfUnit o.d 0)
  have htwf : memWf t.mem = true := hmem ▸ hwf
  refine ⟨_, p, hexec, hp, hended, fun r j hr hj => ?_, fun a ha => ?_⟩
  · rw [hout]
    exact (memNat_writeTile (o := o.alone n x) h hx htwf rfl (hcodes.trans (productCodes_congr hmem _).symm) hr hj).trans
      (congrArg _ (productSum_congr hmem _ _ _))
  · rw [hout, ← hmem]
    exact memRead_writeTile_apart (o := o.alone n x) h hx htwf rfl ha

end Sys2Proof.Machine
end

section
/-!
SUPPORT. CHOLESKY, LDLT, EIG and INVROOT over a register list out of order (R125, R189, R507).
-/

namespace Sys2Proof.Machine

/-! ### A register list whose head hides what stands after it

`FactorisationsEnd` speaks of every State, not of the canonical ones alone.  A sparse list is read up to the first key
above the one that is sought, so a list out of order hides its later words; a word that returns to its default leaves the
list, and the hidden words come into sight.  Here the head is event counter 0 of the block at `landABase`, which counts
checks and wraps to 0 at the first of them; what it hides is FAULT_TAIL. -/

/-- FAULT_TAIL = 7 behind event counter 0 at its top, which is enabled and counts source 0x03, checks (R539). -/
def hiddenTailRegs : List (Nat × Word) :=
  [(fldAddr landABase Reg.evc_count 0, 0xFFFFFFFF), (fldAddr landABase Reg.faultTail_indexLo 0, 7),
    (fldAddr landABase Reg.evsel_src 0, 0x03), (fldAddr landABase Reg.evctrl_en 0, 1)]

/-- A CHOLESKY whose first product tile fails its sum check twice: an upset flips bit 30 of its output in runs 1 and 2. -/
def upsetCholesky : Op :=
  { ctx := 0, idx := 0, seq := 1, d := 0x0310, began := 0, tick := 0, slot := 0, ended := none, parked := false, away := []
    everParked := false, parkNo := 0, reruns := 0, checks := 0, brakes := 0, run := 1, digests := [], side := ⟨[], [], [], none⟩
    writes := [], step := 0, facs := [], extent := [], prods := 0
    upsets := [⟨0, 1, [(0, 2 ^ 30)]⟩, ⟨0, 2, [(0, 2 ^ 30)]⟩], work := .none }

/-- A product of one tile of one output. -/
def oneOutput : MatSpec := prodSpec 1 1 1 [] [] none

/-- The chip after reset, with those registers and that operation.  The product runs on a Cell of number 0x300, whose block would be
the one at `landABase`. -/
def hiddenTail : State := { State.reset with regs := hiddenTailRegs, ops := [upsetCholesky] }

/-- FAULT_TAIL reads as 0 while the counter hides it. -/
theorem faultTail_hiddenTail : faultTail hiddenTail = 0 := by decide

/-- The product's tile is under the sum check. -/
theorem dupNeeded_oneOutput : dupNeeded oneOutput 0 (prodRun upsetCholesky oneOutput 0 0 1) = false := by decide

/-- Run 1 fails its sum check, and so does run 2. -/
theorem sumCheckFails_oneOutput : ∀ n ∈ [1, 2], sumCheckFails oneOutput 0 (prodRun upsetCholesky oneOutput 0 0 n) = ([0], [0]) := by
  decide +kernel

/-- The tile fails, and its record has the index that came into sight when the counter wrapped. -/
theorem prodTile_hiddenTail :
    (findOp (prodTile hiddenTail 0 0 0x300 oneOutput 0).1 0 0).map (fun p => p.ended) = some (some ⟨.checkFail, 7⟩) := by
  decide +kernel

/-- Refutes O44: its last clause names the fault record of a failed product tile by the value of FAULT_TAIL before the tile
begins, in every State; in `hiddenTail`, whose register list is not canonical, that value is 0, and the count of the tile's
first check uncovers FAULT_TAIL = 7, which the operation's end names. -/
theorem not_factorisationsEnd : ¬ Obligations.FactorisationsEnd := by
  unfold Obligations.FactorisationsEnd
  intro h
  obtain ⟨-, -, -, hproduct⟩ := h hiddenTail 0 0
  obtain ⟨hsum, -⟩ := hproduct upsetCholesky 0x300 oneOutput 0 rfl rfl
  obtain ⟨-, -, hfails⟩ := hsum dupNeeded_oneOutput
  have hbad : ∀ n ∈ [1, 2], decide (sumCheckFails oneOutput 0 (prodRun upsetCholesky oneOutput 0 0 n) ≠ ([], [])) = true := by
    intro n hn
    rw [sumCheckFails_oneOutput n hn]
    rfl
  obtain ⟨p, hp, hended, -⟩ := hfails (hbad 1 (by decide)) (hbad 2 (by decide))
  have hindex : p.ended = some ⟨.checkFail, 7⟩ := by
    have := prodTile_hiddenTail
    rwa [hp, Option.map_some, Option.some_inj] at this
  rw [hindex, faultTail_hiddenTail] at hended
  exact absurd hended (by decide)

end Sys2Proof.Machine
end

section
/-!
SUPPORT. Tally records, signatures, DIGEST and ATTEST (R490 to R495, R501, R510): the parts of a byte string that is
written as one, and what each of these writes leaves.
-/

namespace Sys2Proof.Machine

/-! ### Parts of a written byte string -/

theorem memWriteAll_append (ws vs : List Host.Cell) (m : List Host.Cell) :
    memWriteAll m (ws ++ vs) = memWriteAll (memWriteAll m ws) vs := by
  induction ws generalizing m with
  | nil => rfl
  | cons w r ih => exact ih _

/-- The bytes of a value are written as a byte string is. -/
theorem natWrites_eq_bytesWrites (a n v : Nat) : natWrites a n v = bytesWrites a (leBytes n v) := by
  simp only [natWrites, bytesWrites, length_leBytes]

/-- Bytes written in two parts, the second right behind the first. -/
theorem bytesWrites_append (a : Nat) (xs ys : List Byte) :
    bytesWrites a (xs ++ ys) = bytesWrites a xs ++ bytesWrites (a + xs.length) ys := by
  unfold bytesWrites
  rw [List.length_append, List.range_add, List.zip_append (by simp), List.map_append, List.zip_map_left, List.map_map]
  simp [Function.comp_def, Nat.add_assoc]

/-- A part of the bytes written reads back at its place. -/
theorem memBytes_bytesWrites_part {m : List Host.Cell} {a b : Nat} {bs pre mid post : List Byte} (hm : memWf m = true)
    (hbs : bs = pre ++ (mid ++ post)) (hb : b = a + pre.length) :
    memBytes (memWriteAll m (bytesWrites a bs)) b mid.length = mid := by
  subst hbs hb
  refine List.ext_getElem (by simp [memBytes]) fun k hk hk' => ?_
  simp only [memBytes, List.getElem_map, List.getElem_range, Nat.add_assoc]
  rw [memRead_bytesWrites_in hm (by simp only [List.length_append]; omega), List.getD_append_right _ _ _ _ (by omega),
    Nat.add_sub_cancel_left, List.getD_append _ _ _ _ hk', List.getD_eq_getElem _ _ hk']

/-- A value among the bytes written reads back at its place. -/
theorem memNat_bytesWrites_part {m : List Host.Cell} {a b n v : Nat} {bs pre post : List Byte} (hm : memWf m = true)
    (hbs : bs = pre ++ (leBytes n v ++ post)) (hb : b = a + pre.length) :
    memNat (memWriteAll m (bytesWrites a bs)) b n = v % 2 ^ (8 * n) := by
  have h := memBytes_bytesWrites_part hm hbs hb
  rw [length_leBytes] at h
  rw [memNat, h, leNat_leBytes]

/-- Bytes that read the same make the same value. -/
theorem memNat_congr {m m' : List Host.Cell} {a n : Nat} (h : ∀ b, a ≤ b → b < a + n → memRead m' b = memRead m b) :
    memNat m' a n = memNat m a n := by
  unfold memNat memBytes
  refine congrArg leNat (List.map_congr_left fun i hi => h _ (Nat.le_add_right _ _) ?_)
  have := List.mem_range.mp hi
  omega

/-- Bytes that read the same make the same string. -/
theorem memBytes_congr {m m' : List Host.Cell} {a n : Nat} (h : ∀ b, a ≤ b → b < a + n → memRead m' b = memRead m b) :
    memBytes m' a n = memBytes m a n := by
  unfold memBytes
  refine List.map_congr_left fun i hi => h _ (Nat.le_add_right _ _) ?_
  have := List.mem_range.mp hi
  omega

/-! ### Hashing that is counted -/

/-- Counting the blocks of SHA-512 changes copy 0 of the registers only. -/
theorem countSha_regsOnly (s : State) (n : Nat) : RegsOnly s (countSha s n) := event_regsOnly _ _ _ _

@[simp] theorem countSha_mem (s : State) (n : Nat) : (countSha s n).mem = s.mem := by rw [countSha_regsOnly]
@[simp] theorem countSha_tally (s : State) (n : Nat) : (countSha s n).tally = s.tally := by rw [countSha_regsOnly]
@[simp] theorem countSha_ops (s : State) (n : Nat) : (countSha s n).ops = s.ops := by rw [countSha_regsOnly]

/-! ### TALLY_OPEN (R490, R491) -/

/-- The zeroes of a slot behind its header. -/
@[irreducible] def slotZeroes : List Byte := List.replicate (36864 - 32) 0

@[simp] theorem length_slotZeroes : slotZeroes.length = 36832 := by
  rw [slotZeroes, List.length_replicate]

theorem getD_slotZeroes (k : Nat) : slotZeroes.getD k 0 = 0 := by
  rw [List.getD_eq_getElem?_getD, slotZeroes, List.getElem?_replicate]
  split <;> rfl

/-- The bytes of a slot that TALLY_OPEN leaves: its header, then zeroes. -/
def openBytes (s : State) (d : Desc) : List Byte :=
  tallyHeader (tgStep d) 0 ++ leBytes 8 0 ++ tallyIds s (tgTag d) ++ slotZeroes

theorem length_openBytes (s : State) (d : Desc) : (openBytes s d).length = 36864 := by
  simp [openBytes, tallyHeader, tallyIds]

/-- Behind its first 32 bytes, an opened slot is zero. -/
theorem getD_openBytes (s : State) (d : Desc) {k : Nat} (h : 32 ≤ k) : (openBytes s d).getD k 0 = 0 := by
  have hlen : (tallyHeader (tgStep d) 0 ++ leBytes 8 0 ++ tallyIds s (tgTag d)).length = 32 := by
    simp [tallyHeader, tallyIds]
  unfold openBytes
  rw [List.getD_append_right _ _ _ _ (hlen.symm ▸ h)]
  exact getD_slotZeroes _

/-- A record opened once its slot has been written, and the end of the TALLY_OPEN. -/
def recordOpened (s : State) (c i : Nat) (d : Desc) (ws : List Host.Cell) : State :=
  let s1 := wrMem s ws
  endOp { s1 with tally := { s1.tally with recs := s1.tally.recs ++ [⟨tgTag d, tgStep d, false, 0, 0, 0, 0, 0, 0, 0, []⟩] } }
    c i ⟨.done, 0⟩

/-- What a record that is opened leaves. -/
theorem recordOpened_frame (s : State) (c i : Nat) (d : Desc) (ws : List Host.Cell) :
    let u := recordOpened s c i d ws
    u.mem = memWriteAll s.mem ws ∧
      u.tally = { s.tally with recs := s.tally.recs ++ [⟨tgTag d, tgStep d, false, 0, 0, 0, 0, 0, 0, 0, []⟩] } ∧
      u = { s with mem := u.mem, hbm := { s.hbm with poison := u.hbm.poison }, tally := u.tally, ops := u.ops } :=
  ⟨rfl, rfl, rfl⟩

theorem findOp_recordOpened {s : State} {c i : Nat} {o : Op} (h : findOp s c i = some o) (d : Desc) (ws : List Host.Cell) :
    findOp (recordOpened s c i d ws) c i = some { o with ended := some ⟨.done, 0⟩ } :=
  findOp_endOp_same _ c i _ h

/-- The writes of a TALLY_OPEN. -/
def openWrites (s : State) (d : Desc) : List Host.Cell := bytesWrites (tallySlot s (tgTag d)) (openBytes s d)

section TallyOpen
variable {s : State} {c i : Nat} {o : Op} (ho : runningOp s c i 0x0A00 = some o)
include ho

/-- What a running TALLY_OPEN does: it waits for its slot's signature, ends with its fault, or opens its record. -/
theorem exec_tallyOpen_running : exec (.tallyOpen c i) s = .next
    (if tallyKept s && s.tally.signing.any (fun q => q.2 == tallySlot s (tgTag o.d)) then s
      else match tallyOpenFault s o.d with
        | some e => ctxFault s c i e.1 e.2
        | none => recordOpened s c i o.d (openWrites s o.d)) := by
  unfold recordOpened openWrites openBytes slotZeroes
  exact congrArg Host.Outcome.next ((onOp_running _ ho).trans rfl)

theorem exec_tallyOpen_waits (hk : tallyKept s = true)
    (hs : s.tally.signing.any (fun q => q.2 == tallySlot s (tgTag o.d)) = true) : exec (.tallyOpen c i) s = .next s := by
  rw [exec_tallyOpen_running ho, hk, hs]
  rfl

theorem exec_tallyOpen_opens (hs : s.tally.signing.any (fun q => q.2 == tallySlot s (tgTag o.d)) = false)
    (hf : tallyOpenFault s o.d = none) : exec (.tallyOpen c i) s = .next (recordOpened s c i o.d (openWrites s o.d)) := by
  rw [exec_tallyOpen_running ho, hs, hf, Bool.and_false]
  rfl

end TallyOpen

/-- The header of an opened slot, its zeroes, and the bytes outside it. -/
theorem memRead_openWrites {s : State} (d : Desc) (hm : memWf s.mem = true) :
    let m := memWriteAll s.mem (openWrites s d)
    let a := tallySlot s (tgTag d)
    memNat m a 4 = 0x594C4154 ∧ memNat m (a + 8) 8 = tgStep d ∧ memNat m (a + 0x18) 4 = tgTag d ∧
      (∀ b, a + 32 ≤ b → b < a + 36864 → memRead m b = 0) ∧
      ∀ b, b < a ∨ a + 36864 ≤ b → memRead m b = memRead s.mem b := by
  intro m a
  have hstep : tgStep d < 2 ^ (8 * 8) := Nat.mod_lt _ (Nat.two_pow_pos _)
  have htag : tgTag d < 2 ^ (8 * 4) := Nat.mod_lt _ (Nat.two_pow_pos _)
  have hlen := length_openBytes s d
  have hbytes : openBytes s d = leBytes 4 0x594C4154 ++ (leBytes 4 (1 + 256 * 0) ++ (leBytes 8 (tgStep d) ++ (leBytes 8 0 ++
      (leBytes 4 (tgTag d) ++ (leBytes 2 s.chip ++ (leBytes 2 (s.stand % 64) ++ slotZeroes)))))) := by
    simp only [openBytes, tallyHeader, tallyIds, List.append_assoc]
  refine ⟨?magic, ?step, ?tag, fun b h1 h2 => ?zero, fun b hb => memRead_bytesWrites_out hm (by rwa [hlen])⟩
  case magic =>
    exact memNat_bytesWrites_part (n := 4) (v := 0x594C4154) (pre := []) hm (hbytes.trans (List.nil_append _).symm)
      (Nat.add_zero a).symm
  case step =>
    exact (memNat_bytesWrites_part (n := 8) (v := tgStep d) hm (hbytes.trans (List.append_assoc _ _ _).symm) rfl).trans
      (Nat.mod_eq_of_lt hstep)
  case tag =>
    refine (memNat_bytesWrites_part (pre := leBytes 4 0x594C4154 ++ (leBytes 4 (1 + 256 * 0) ++ (leBytes 8 (tgStep d) ++
      leBytes 8 0))) (n := 4) (v := tgTag d) (post := leBytes 2 s.chip ++ (leBytes 2 (s.stand % 64) ++ slotZeroes)) hm ?_
      rfl).trans (Nat.mod_eq_of_lt htag)
    simp only [hbytes, List.append_assoc]
  case zero =>
    obtain ⟨k, rfl⟩ := Nat.exists_eq_add_of_le (show a ≤ b by omega)
    exact (memRead_bytesWrites_in hm (by omega)).trans (getD_openBytes s d (by omega))

/-! ### TALLY_SIGN_DONE (R494) -/

/-- The signature that is being made, and SIGNED behind it. -/
def signBytes (s : State) (a : Nat) : List Byte := signatureOf (rdBytes s a 0x8200) ++ leBytes 1 1

@[simp] theorem length_signatureOf (bs : List Byte) : (signatureOf bs).length = 512 := by simp [signatureOf]

theorem exec_tallySignDone {s : State} {st a : Nat} {rest : List (Nat × Nat)} (hs : s.tally.signing = (st, a) :: rest) :
    exec .tallySignDone s = .next (countSha { wrMem s (bytesWrites (a + 0x8200) (signBytes s a)) with
      tally := { s.tally with signing := rest } } 0x8200) := by
  have hws : bytesWrites (a + 0x8200) (signatureOf (rdBytes s a 0x8200)) ++ natWrites (a + 0x8400) 1 1 =
      bytesWrites (a + 0x8200) (signBytes s a) := by
    rw [signBytes, bytesWrites_append, natWrites_eq_bytesWrites, length_signatureOf]
  refine congrArg Host.Outcome.next ?_
  rw [hs]
  dsimp only
  rw [hws]
  rfl

/-- A signature that is written: its bytes, SIGNED, and every other byte. -/
theorem memRead_signBytes {s : State} (a : Nat) (hm : memWf s.mem = true) :
    let m := memWriteAll s.mem (bytesWrites (a + 0x8200) (signBytes s a))
    memBytes m (a + 0x8200) 512 = signatureOf (rdBytes s a 0x8200) ∧ memNat m (a + 0x8400) 1 = 1 ∧
      ∀ b, b < a + 0x8200 ∨ a + 0x8401 ≤ b → memRead m b = memRead s.mem b := by
  refine ⟨?signature, ?signed, fun b hb => memRead_bytesWrites_out hm ?outside⟩
  case signature =>
    rw [← length_signatureOf (rdBytes s a 0x8200)]
    exact memBytes_bytesWrites_part (pre := []) (post := leBytes 1 1) hm (by rw [List.nil_append, signBytes])
      (Nat.add_zero _).symm
  case signed =>
    refine memNat_bytesWrites_part (post := []) (n := 1) (v := 1) (pre := signatureOf (rdBytes s a 0x8200)) hm
      (by rw [List.append_nil, signBytes]) ?_
    rw [length_signatureOf]
  case outside =>
    simp only [signBytes, List.length_append, length_signatureOf, length_leBytes]
    omega

/-! ### Training state and a region of one row -/

/-- A byte of a region of one row that meets no training state is none of it. -/
theorem not_train_of_not_meet {s : State} {a n b : Nat} (h : anyMeet [⟨a, 0, 1, n⟩] (trainRegions s) = false) (hb : a ≤ b)
    (hb' : b < a + n) : (trainRegions s).any (fun r => inRegion r b) = false := by
  rw [List.any_eq_false]
  intro r hr hin
  obtain ⟨hlo, hhi⟩ : r.off ≤ b ∧ b < regionEnd r := by
    simp only [inRegion, Bool.and_eq_true, decide_eq_true_eq] at hin
    exact hin.1
  have hmeets : regionsMeet ⟨a, 0, 1, n⟩ r = true := by
    have hend : regionEnd ⟨a, 0, 1, n⟩ = a + n := by simp [regionEnd]
    simp only [regionsMeet, meets, hend, Bool.and_eq_true, decide_eq_true_eq]
    omega
  simp only [anyMeet, List.any_cons, List.any_nil, Bool.or_false, List.any_eq_false] at h
  exact h r hr hmeets

/-- Bytes that an operation writes, its training state held: outside it they are read, and every byte outside them stays. -/
theorem memRead_holdTrain_bytesWrites {s : State} (c i a : Nat) (bs : List Byte) (hm : memWf s.mem = true) :
    let m := (holdTrain s (wrMem s (bytesWrites a bs)) c i).mem
    (anyMeet [⟨a, 0, 1, bs.length⟩] (trainRegions s) = false → memBytes m a bs.length = bs) ∧
      ∀ b, b < a ∨ a + bs.length ≤ b → memRead m b = memRead s.mem b := by
  have hread := fun b => memRead_holdTrain (s := s) (t := wrMem s (bytesWrites a bs)) c i b (memWriteAll_wf _ _ hm)
  refine ⟨fun h => ?_, fun b hb => ?_⟩
  · refine (memBytes_congr fun b h1 h2 => ?_).trans (memBytes_bytesWrites (a := a) hm)
    rw [hread, not_train_of_not_meet h h1 h2]
    rfl
  · rw [hread]
    exact (congrArg _ (memRead_bytesWrites_out hm hb)).trans (ite_self _)

/-! ### DIGEST (R487, R510) -/

/-- A ring digest lies below 2¹²⁷ − 1. -/
theorem ringDigest_lt (bs : List Byte) : ringDigest bs < 2 ^ 127 - 1 := Nat.mod_lt _ (by decide)

section Digest
variable {s : State} {c i : Nat} {o : Op} (ho : runningOp s c i 0x0A20 = some o)
include ho

/-- A DIGEST without a fault: the digest written, training state held, its work complete. -/
theorem exec_digest (hu : unitsHeld s = false) (ha : accessFault s [dgSrc o.d, dgDst o.d] = none)
    (hf : outFault s o.d [dgDst o.d] = none) :
    exec (.digest c i) s = .next (finishOp (holdTrain s (wrMem s (bytesWrites (dfld o.d 0x28 41 0)
      (leBytes 16 (regionsDigest s.mem [dgSrc o.d])))) c i) c i) := by
  refine congrArg Host.Outcome.next ((onOp_running _ ho).trans ?_)
  simp only [hu, Bool.false_eq_true, if_false, ha, hf]
  rw [wrNat, natWrites_eq_bytesWrites]
  rfl

/-- What a DIGEST leaves: its end, the digest, and every other byte. -/
theorem digest_written (hm : memWf s.mem = true) (hl : dCheck o.d ≤ 1) :
    let a := dfld o.d 0x28 41 0
    let u := finishOp (holdTrain s (wrMem s (bytesWrites a (leBytes 16 (regionsDigest s.mem [dgSrc o.d])))) c i) c i
    ∃ p, findOp u c i = some p ∧ p.ended = some (normalEnd o) ∧
      (anyMeet [dgDst o.d] (trainRegions s) = false → memNat u.mem a 16 = regionsDigest s.mem [dgSrc o.d]) ∧
      ∀ b, b < a ∨ a + 16 ≤ b → memRead u.mem b = memRead s.mem b := by
  intro a u
  obtain ⟨hfound, _, _, _⟩ := runningOp_some ho
  obtain ⟨ws, hheld⟩ := findOp_holdTrain_same (s := s) (c := c) (i := i)
    (t := wrMem s (bytesWrites a (leBytes 16 (regionsDigest s.mem [dgSrc o.d]))))
    ((findOp_congr (wrMem_ops s _) c i).trans hfound)
  obtain ⟨hin, hout⟩ := memRead_holdTrain_bytesWrites c i a (leBytes 16 (regionsDigest s.mem [dgSrc o.d])) hm
  rw [length_leBytes] at hin hout
  refine ⟨_, findOp_finishOp_same hheld (checkLevel_ne_two hl), rfl, fun h => ?_, hout⟩
  have hlt : regionsDigest s.mem [dgSrc o.d] < 2 ^ (8 * 16) := Nat.lt_of_lt_of_le (ringDigest_lt _) (by decide)
  exact (congrArg leNat (hin h)).trans ((leNat_leBytes _ _).trans (Nat.mod_eq_of_lt hlt))

end Digest

/-! ### ATTEST (R501) -/

@[simp] theorem length_sha512 (bs : List Byte) : (sha512 bs).length = 64 := by simp [sha512]

/-- The report and its signature fill 1,536 bytes, and the certificate chain its own length. -/
theorem length_attestBytes (s : State) (d : Desc) : (attestBytes s d).length = (attestRegion s d).len := by
  have hchain : (chainBytes s).length = partNat s (partUse s) 0x124 4 := by simp [chainBytes, memBytes]
  have hbody : (attestBody s d).length = 1024 := by
    simp only [attestBody, atNonce, List.length_append, length_leBytes, length_sha512, List.length_replicate,
      List.length_map, List.length_range]
  unfold attestBytes attestRegion
  simp only [List.length_append, length_signatureOf, hbody]
  split <;> simp [hchain]

section Attest
variable {s : State} {c i : Nat} {o : Op} (ho : runningOp s c i 0x0A30 = some o)
include ho

/-- The state in which an ATTEST has written its report, training state held. -/
def attestHeld (s : State) (c i : Nat) (d : Desc) : State :=
  holdTrain s (wrMem s (bytesWrites (atDst d) (attestBytes s d))) c i

/-- An ATTEST without a fault: the report written, its hashing counted, its end. -/
theorem exec_attest (ha : accessFault s [attestRegion s o.d] = none) (hf : outFault s o.d [attestRegion s o.d] = none) :
    exec (.attest c i) s = .next (endOp (countSha (countSha (countSha (countSha (attestHeld s c i o.d) (fwImage s).length)
      (partImage s).length) (configBytes s).length) 0x400) c i ⟨.done, 0⟩) := by
  refine congrArg Host.Outcome.next ((onOp_running _ ho).trans ?_)
  dsimp only
  rw [ha]
  dsimp only
  rw [hf]
  rfl

/-- What an ATTEST without a fault leaves: its end, the report, and every other byte. -/
theorem attest_written (hm : memWf s.mem = true) (ha : accessFault s [attestRegion s o.d] = none)
    (hf : outFault s o.d [attestRegion s o.d] = none) :
    ∃ u p, exec (.attest c i) s = .next u ∧ findOp u c i = some p ∧ p.ended = some ⟨.done, 0⟩ ∧
      (anyMeet [attestRegion s o.d] (trainRegions s) = false →
        memBytes u.mem (atDst o.d) (attestBytes s o.d).length = attestBytes s o.d) ∧
      ∀ b, b < atDst o.d ∨ atDst o.d + (attestBytes s o.d).length ≤ b → memRead u.mem b = memRead s.mem b := by
  obtain ⟨hfound, _, _, _⟩ := runningOp_some ho
  obtain ⟨ws, hheld⟩ := findOp_holdTrain_same (s := s) (c := c) (i := i)
    (t := wrMem s (bytesWrites (atDst o.d) (attestBytes s o.d))) ((findOp_congr (wrMem_ops s _) c i).trans hfound)
  obtain ⟨hin, hout⟩ := memRead_holdTrain_bytesWrites c i (atDst o.d) (attestBytes s o.d) hm
  have hexec := exec_attest ho ha hf
  have counted : RegsOnly (attestHeld s c i o.d) (countSha (countSha (countSha (countSha (attestHeld s c i o.d)
      (fwImage s).length) (partImage s).length) (configBytes s).length) 0x400) :=
    ((countSha_regsOnly _ _).trans (countSha_regsOnly _ _)).trans ((countSha_regsOnly _ _).trans (countSha_regsOnly _ _))
  generalize countSha (countSha (countSha (countSha (attestHeld s c i o.d) (fwImage s).length) (partImage s).length)
    (configBytes s).length) 0x400 = t at hexec counted
  have hmem : (endOp t c i ⟨.done, 0⟩).mem = (attestHeld s c i o.d).mem := (congrArg State.mem counted).trans rfl
  have hops : t.ops = (attestHeld s c i o.d).ops := (congrArg State.ops counted).trans rfl
  refine ⟨_, _, hexec, findOp_endOp_same t c i _ ((findOp_congr hops c i).trans hheld), rfl, fun hmeet => ?_, ?_⟩
  · rw [hmem]
    refine hin ?_
    rwa [length_attestBytes]
  · rwa [hmem]

end Attest

end Sys2Proof.Machine
end

section
/-!
SUPPORT. Values of two words in the Landing A block, and the dumps of the event counters (R532, R547, R550).
-/

namespace Sys2Proof.Machine

/-! ### Values of two words -/

/-- A value of two whole words reads back as written, cut to 64 bits. -/
theorem getA2_set2_same {s : State} (hs : s.canonical = true) {lo hi : Fld} (hlo : lo.lo = 0 ∧ lo.hi = 31)
    (hhi : hi.lo = 0 ∧ hi.hi = 31) (hne : hi.off ≠ lo.off) (v : Nat) :
    getA2 (set2 s landABase lo hi 0 v) lo hi = v % 2 ^ 64 := by
  obtain ⟨lo0, lo31⟩ := hlo
  obtain ⟨hi0, hi31⟩ := hhi
  have h1 : (setF s landABase lo 0 (v / 2 ^ lo.lo)).canonical = true := (setF_kept s _ _ _ _ (.refl s)).canonical hs
  have low : getF (set2 s landABase lo hi 0 v) landABase lo 0 = v % 2 ^ 32 := by
    rw [set2, getF_setF_other _ _ _ _ _ 0 0 _ h1 (fldAddr_zero_ne hne.symm), getF_setF_same _ _ _ _ _ hs (by omega) (by omega),
      lo0, lo31, Nat.pow_zero, Nat.div_one]
  have high : getF (set2 s landABase lo hi 0 v) landABase hi 0 = v / 2 ^ 32 % 2 ^ 32 := by
    rw [set2, getF_setF_same _ _ _ _ _ h1 (by omega) (by omega), hi0, hi31]
  rw [getA2, get2, low, high, lo0]
  omega

/-- A value of two words written leaves the fields of other words. -/
theorem getA_set2_other {s : State} (hs : s.canonical = true) {lo hi g : Fld} (hlo : g.off ≠ lo.off) (hhi : g.off ≠ hi.off)
    (v : Nat) : getA (set2 s landABase lo hi 0 v) g = getA s g := by
  have h1 : (setF s landABase lo 0 (v / 2 ^ lo.lo)).canonical = true := (setF_kept s _ _ _ _ (.refl s)).canonical hs
  rw [getA, set2, getF_setF_other _ _ _ _ _ 0 0 _ h1 (fldAddr_zero_ne hhi),
    getF_setF_other _ _ _ _ _ 0 0 _ hs (fldAddr_zero_ne hlo), getA]

/-- A write of a field of Landing A leaves the fields of other words. -/
theorem getA_setA_other {s : State} (hs : s.canonical = true) {f g : Fld} (hg : g.off ≠ f.off) (v : Nat) :
    getA (setA s f v) g = getA s g := getF_setF_other _ _ _ _ _ 0 0 _ hs (fldAddr_zero_ne hg)

/-- A count of Landing A leaves the fields of other words. -/
theorem getA_countA_other {s : State} (hs : s.canonical = true) {f g : Fld} (hg : g.off ≠ f.off) (n : Nat) :
    getA (countA s f n) g = getA s g := getA_setA_other hs hg _

@[simp] theorem wrMem_mem (s : State) (ws : List Host.Cell) : (wrMem s ws).mem = memWriteAll s.mem ws := rfl

/-- A write of memory leaves the fields. -/
@[simp] theorem getA_wrMem (s : State) (ws : List Host.Cell) (f : Fld) : getA (wrMem s ws) f = getA s f := rfl

/-- Values of two words read the same where their words do. -/
theorem getA2_congr {s t : State} {lo hi : Fld} (hlo : getA t lo = getA s lo) (hhi : getA t hi = getA s hi) :
    getA2 t lo hi = getA2 s lo hi := by
  unfold getA at hlo hhi
  rw [getA2, getA2, get2, get2, hlo, hhi]

/-! ### EVENT_DUMP (R547) -/

/-- The index of the next dump moved on. -/
def dumpIndexed (s : State) : State := set2 s landABase Reg.evdTail_indexLo Reg.evdTail_indexHi 0 (dumpTail s + 1)

theorem dumpIndexed_regsOnly (s : State) : RegsOnly s (dumpIndexed s) :=
  (setF_regsOnly s _ (f := Reg.evdTail_indexLo) _ _ (by decide)).trans
    (setF_regsOnly _ _ (f := Reg.evdTail_indexHi) _ _ (by decide))

theorem dumpIndexed_canonical {s : State} (hs : s.canonical = true) : (dumpIndexed s).canonical = true :=
  (set2_kept s _ _ _ _ _ (.refl s)).canonical hs

theorem dumpTail_dumpIndexed {s : State} (hs : s.canonical = true) : dumpTail (dumpIndexed s) = (dumpTail s + 1) % 2 ^ 64 :=
  getA2_set2_same hs ⟨rfl, rfl⟩ ⟨rfl, rfl⟩ (by decide) _

theorem getA_evdLost_dumpIndexed {s : State} (hs : s.canonical = true) :
    getA (dumpIndexed s) Reg.evdLost_count = getA s Reg.evdLost_count := getA_set2_other hs (by decide) (by decide) _

/-- The place of the next dump in the ring. -/
def dumpPlace (s : State) : Nat :=
  getA2 s Reg.evdBase_baseLo Reg.evdBase_baseHi + dumpTail s % getA s Reg.evdCtrl_cap * 17408

/-- How many dumps the reader has not taken, as far as 32 bits show. -/
def dumpsUnread (s : State) : Nat := (dumpTail s + 2 ^ 32 - getA s Reg.evdHead_index) % 2 ^ 32

section Dump
variable {s : State} {tick time : Nat} {es : List Byte} {rest : List (Nat × Nat × List Byte)}
  (hd : s.dumps = (tick, time, es) :: rest)
include hd

/-- The oldest dump leaves the queue and is written. -/
theorem exec_eventDump : exec .eventDump s = .next (writeDump { s with dumps := rest } (tick, time, es)) := by
  refine congrArg Host.Outcome.next ?_
  rw [hd]

/-- A dump that has room is written at its place. -/
theorem exec_eventDump_written (hroom : dumpsUnread s < getA s Reg.evdCtrl_cap) (hin : inHbm s (dumpPlace s) 17408 = true) :
    exec .eventDump s = .next (wrMem (dumpIndexed { s with dumps := rest })
      (bytesWrites (dumpPlace s) (dumpBytes s (dumpTail s) tick time es))) := by
  rw [exec_eventDump hd]
  refine congrArg Host.Outcome.next (if_neg ?_)
  have hfull : ¬ getA s Reg.evdCtrl_cap ≤ dumpsUnread s := by omega
  have hcap : getA s Reg.evdCtrl_cap ≠ 0 := by omega
  simp only [Bool.or_eq_true, decide_eq_true_eq, Bool.not_eq_true', not_or, Bool.not_eq_false]
  exact ⟨⟨hcap, hfull⟩, hin⟩

/-- A dump without room is counted. -/
theorem exec_eventDump_lost (h : getA s Reg.evdCtrl_cap ≤ dumpsUnread s ∨ inHbm s (dumpPlace s) 17408 = false) :
    exec .eventDump s = .next (countA (dumpIndexed { s with dumps := rest }) Reg.evdLost_count 1) := by
  rw [exec_eventDump hd]
  refine congrArg Host.Outcome.next (if_pos ?_)
  simp only [Bool.or_eq_true, decide_eq_true_eq, Bool.not_eq_true']
  exact h.elim (fun h => .inl (.inr h)) .inr

/-- What EVENT_DUMP leaves: the queue, the next index, and the record or its count. -/
theorem eventDump_spec (hs : s.canonical = true) :
    ∃ u, exec .eventDump s = .next u ∧ u.dumps = rest ∧ dumpTail u = (dumpTail s + 1) % 2 ^ 64 ∧
      (dumpsUnread s < getA s Reg.evdCtrl_cap → inHbm s (dumpPlace s) 17408 = true →
        u.mem = memWriteAll s.mem (bytesWrites (dumpPlace s) (dumpBytes s (dumpTail s) tick time es)) ∧
          getA u Reg.evdLost_count = getA s Reg.evdLost_count) ∧
      (getA s Reg.evdCtrl_cap ≤ dumpsUnread s ∨ inHbm s (dumpPlace s) 17408 = false →
        u.mem = s.mem ∧ getA u Reg.evdLost_count = min (2 ^ 32 - 1) (getA s Reg.evdLost_count + 1)) := by
  have hs' : ({ s with dumps := rest } : State).canonical = true := hs
  have ht := dumpIndexed_canonical hs'
  have tail := dumpTail_dumpIndexed hs'
  have lost := getA_evdLost_dumpIndexed hs'
  have only := dumpIndexed_regsOnly { s with dumps := rest }
  by_cases h : getA s Reg.evdCtrl_cap ≤ dumpsUnread s ∨ inHbm s (dumpPlace s) 17408 = false
  · have counted := only.trans (countF_regsOnly (dumpIndexed { s with dumps := rest }) landABase (f := Reg.evdLost_count) 0 1
      (by decide))
    refine ⟨_, exec_eventDump_lost hd h, (congrArg State.dumps counted).trans rfl, ?_, fun h1 h2 => ?_, fun _ =>
      ⟨(congrArg State.mem counted).trans rfl, ?_⟩⟩
    · exact (getA2_congr (getA_countA_other ht (by decide) 1) (getA_countA_other ht (by decide) 1)).trans tail
    · rcases h with h | h
      · omega
      · rw [h] at h2
        cases h2
    · exact (getF_countF_same _ _ _ 0 1 ht (by decide) (by decide)).trans
        (congrArg (fun n => min (2 ^ 32 - 1) (n + 1)) lost)
  · obtain ⟨hroom, hin⟩ := not_or.mp h
    refine ⟨_, exec_eventDump_written hd (Nat.lt_of_not_le hroom) (Bool.eq_true_of_not_eq_false hin),
      (wrMem_dumps _ _).trans ((congrArg State.dumps only).trans rfl),
      (getA2_congr (getA_wrMem _ _ _) (getA_wrMem _ _ _)).trans tail,
      fun _ _ => ⟨?_, (getA_wrMem _ _ _).trans lost⟩, fun h' => absurd h' h⟩
    exact congrArg (memWriteAll · _) ((congrArg State.mem only).trans rfl)

end Dump

end Sys2Proof.Machine
end

section
/-!
SUPPORT. Voted fields (R504, R505): where their words lie, what the scrub of one field leaves of another, and what a split
leaves.
-/

namespace Sys2Proof.Machine

/-! ### The words of voted fields -/

/-- The voted fields of a block. -/
def votedFields (b : Blk) : List Fld := (blkFields b).filter (fun f => f.acc == .rwv)

/-- The block offset of the last copy of a field. -/
def Fld.last (f : Fld) : Nat := f.off + f.stride * (max 1 f.copies - 1)

/-- Whether two fields of one word share no bit. -/
def bitsApart (f g : Fld) : Bool := decide (f.hi < g.lo) || decide (g.hi < f.lo)

/-- Whether two fields share no word: their copies lie one behind the other, or interleave. -/
def wordsApart (f g : Fld) : Bool :=
  decide (f.last < g.off) || decide (g.last < f.off) || (f.stride == g.stride && f.off % f.stride != g.off % f.stride)

/-- What the register tables give for the voted fields of a block: each lies within words, below VOTE_FIX and beside
FAULT_TAIL and FAULT_LOST, and no two share a bit. -/
def votedTable (fs : List Fld) : Bool :=
  fs.all (fun f => decide (f.lo ≤ f.hi ∧ f.hi < 32 ∧ f.last < 0x3FF0 ∧ (f.last < 0x3230 ∨ 0x3238 < f.off)) &&
    fs.all (fun g => f == g || bitsApart f g || wordsApart f g))

theorem votedTable_dev : votedTable (votedFields .dev) = true := by decide +kernel
theorem votedTable_landA : votedTable (votedFields .landA) = true := by decide +kernel
theorem votedTable_landB : votedTable (votedFields .landB) = true := by decide +kernel

/-- A Cell's block has no voted field. -/
theorem votedFields_cell (n : Nat) : votedFields (.cell n) = [] := by
  show List.filter _ (Reg.cellFields ++ Reg.evFields ++ Reg.commonFields) = []
  decide +kernel

/-- A Mill's block has no voted field. -/
theorem votedFields_mill (n : Nat) : votedFields (.mill n) = [] := by
  show List.filter _ (Reg.millFields ++ Reg.evFields ++ Reg.commonFields) = []
  decide +kernel

/-- The blocks that have voted fields. -/
theorem blk_of_votedField {b : Blk} {f : Fld} (h : f ∈ votedFields b) : b = .dev ∨ b = .landA ∨ b = .landB := by
  cases b with
  | dev => exact .inl rfl
  | cell n => rw [votedFields_cell] at h; cases h
  | mill n => rw [votedFields_mill] at h; cases h
  | landA => exact .inr (.inl rfl)
  | landB => exact .inr (.inr rfl)

/-- The tables hold for every block that has voted fields. -/
theorem votedTable_of_mem {b : Blk} {f : Fld} (h : f ∈ votedFields b) : votedTable (votedFields b) = true := by
  rcases blk_of_votedField h with rfl | rfl | rfl
  · exact votedTable_dev
  · exact votedTable_landA
  · exact votedTable_landB

theorem votedField_acc {b : Blk} {f : Fld} (h : f ∈ votedFields b) : f.acc = .rwv := by
  simpa using (List.mem_filter.mp h).2

/-- Where a voted field lies. -/
theorem votedField_place {b : Blk} {f : Fld} (h : f ∈ votedFields b) :
    f.lo ≤ f.hi ∧ f.hi < 32 ∧ f.last < 0x3FF0 ∧ (f.last < 0x3230 ∨ 0x3238 < f.off) := by
  have := List.all_eq_true.mp (votedTable_of_mem h) f h
  rw [Bool.and_eq_true, decide_eq_true_eq] at this
  exact this.1

/-- Two voted fields of a block share no bit. -/
theorem votedFields_apart {b : Blk} {f g : Fld} (hf : f ∈ votedFields b) (hg : g ∈ votedFields b) (hne : f ≠ g) :
    bitsApart f g = true ∨ wordsApart f g = true := by
  have h := List.all_eq_true.mp (votedTable_of_mem hf) f hf
  rw [Bool.and_eq_true] at h
  have := List.all_eq_true.mp h.2 g hg
  simpa [hne] using this

/-- The voted words of a block: each copy of each voted field. -/
theorem mem_votedWords {b : Blk} {f : Fld} {a : Nat} :
    (f, a) ∈ votedWords b ↔ f ∈ votedFields b ∧ ∃ k, k ≤ max 1 f.copies - 1 ∧ a = fldAddr (blkBase b) f k := by
  unfold votedWords votedFields
  simp only [List.mem_flatMap, List.mem_map, List.mem_range, Prod.mk.injEq]
  constructor
  · rintro ⟨g, hg, k, hk, rfl, rfl⟩
    exact ⟨hg, k, by omega, rfl⟩
  · rintro ⟨hf, k, hk, rfl⟩
    exact ⟨f, hf, k, by omega, rfl, rfl⟩

/-- The offset of a copy of a field lies from its first to its last. -/
theorem copy_le_last {f : Fld} {k : Nat} (hk : k ≤ max 1 f.copies - 1) : f.off + f.stride * k ≤ f.last :=
  Nat.add_le_add_left (Nat.mul_le_mul_left _ hk) _

/-- A word that two voted fields share holds them in bits of their own. -/
theorem votedWords_bitsApart {b : Blk} {f g : Fld} {a : Nat} (hf : (f, a) ∈ votedWords b) (hg : (g, a) ∈ votedWords b)
    (hne : f ≠ g) : bitsApart f g = true := by
  obtain ⟨hf', k, hk, rfl⟩ := mem_votedWords.mp hf
  obtain ⟨hg', j, hj, e⟩ := mem_votedWords.mp hg
  refine (votedFields_apart hf' hg' hne).resolve_right fun hw => ?_
  have e : f.off + f.stride * k = g.off + g.stride * j := by
    simp only [fldAddr] at e
    omega
  have h1 := copy_le_last hk
  have h2 := copy_le_last hj
  have h3 := Nat.le_add_right f.off (f.stride * k)
  have h4 := Nat.le_add_right g.off (g.stride * j)
  simp only [wordsApart, Bool.or_eq_true, Bool.and_eq_true, decide_eq_true_eq, beq_iff_eq, bne_iff_ne] at hw
  rcases hw with (hw | hw) | ⟨hs, hw⟩
  · omega
  · omega
  · rw [← hs] at e
    have := congrArg (· % f.stride) e
    simp only [Nat.add_mul_mod_self_left] at this
    exact hw this

/-- Whether an address is one of the words that a fault record's index and count take: FAULT_TAIL and FAULT_LOST. -/
def isFaultWord (a : Nat) : Prop := landABase + 0x3230 ≤ a ∧ a ≤ landABase + 0x3238

/-- A voted word of a block is neither VOTE_FIX nor a word of the fault ring. -/
theorem votedWord_outside {b : Blk} {f : Fld} {a : Nat} (h : (f, a) ∈ votedWords b) :
    a ≠ blkBase b + 0x3FF0 ∧ ¬ isFaultWord a := by
  obtain ⟨hf, k, hk, rfl⟩ := mem_votedWords.mp h
  obtain ⟨-, -, hlast, hfault⟩ := votedField_place hf
  have h1 := copy_le_last hk
  have h2 := Nat.le_add_right f.off (f.stride * k)
  unfold isFaultWord fldAddr
  rcases blk_of_votedField hf with rfl | rfl | rfl <;> simp only [blkBase, devBase, landABase, landBBase] <;> omega

/-- VOTE_FIX of a block that has voted fields is no word of the fault ring. -/
theorem voteFix_outside {b : Blk} {f : Fld} (h : f ∈ votedFields b) : ¬ isFaultWord (blkBase b + 0x3FF0) := by
  unfold isFaultWord
  rcases blk_of_votedField h with rfl | rfl | rfl <;> simp only [blkBase, devBase, landABase, landBBase] <;> omega

/-! ### Words that a change leaves -/

/-- The word at an address stays in all three copies. -/
def SameWord (a : Nat) (s t : State) : Prop :=
  rawWord t.regs a = rawWord s.regs a ∧ t.regs1 = s.regs1 ∧ t.regs2 = s.regs2

theorem SameWord.trans {a : Nat} {s t u : State} (h : SameWord a s t) (k : SameWord a t u) : SameWord a s u := by
  obtain ⟨h0, h1, h2⟩ := h
  obtain ⟨k0, k1, k2⟩ := k
  exact ⟨k0.trans h0, k1.trans h1, k2.trans h2⟩

/-- A change of other parts than the registers leaves every word. -/
theorem SameWord.of_regs {s t : State} (h0 : t.regs = s.regs) (h1 : t.regs1 = s.regs1) (h2 : t.regs2 = s.regs2) (a : Nat) :
    SameWord a s t := ⟨by rw [h0], h1, h2⟩

/-- A write of a field that is not voted leaves every other word. -/
theorem SameWord.setF {s : State} {base k a : Nat} {f : Fld} (hs : s.canonical = true) (hf : f.acc ≠ .rwv)
    (ha : a ≠ fldAddr base f k) (v : Nat) : SameWord a s (setF s base f k v) := by
  obtain ⟨h0, _, _⟩ := State.canonical_regs hs
  unfold Machine.setF
  simp only [if_neg hf]
  exact ⟨rawWord_putF_other _ _ _ h0 ha, rfl, rfl⟩

theorem SameWord.fieldCopies {a : Nat} {s t : State} (h : SameWord a s t) (f : Fld) : fieldCopies t f a = fieldCopies s f a := by
  obtain ⟨h0, h1, h2⟩ := h
  unfold Machine.fieldCopies
  rw [h0, h1, h2]

theorem SameWord.getF {base k : Nat} {f : Fld} {s t : State} (h : SameWord (fldAddr base f k) s t) :
    getF t base f k = getF s base f k := by
  obtain ⟨h0, h1, h2⟩ := h
  unfold Machine.getF
  dsimp only
  rw [h0, h1, h2]

/-- A fault record leaves every word but those of the fault ring. -/
theorem writeFault_sameWord {s : State} {a : Nat} (hs : s.canonical = true) (ha : ¬ isFaultWord a) (r : FaultRec) :
    SameWord a s (writeFault s r) := by
  unfold isFaultWord at ha
  have low : SameWord a s (setF s landABase Reg.faultTail_indexLo 0 ((faultTail s + 1) / 2 ^ Reg.faultTail_indexLo.lo)) :=
    .setF hs (by decide) (by show a ≠ landABase + 0x3230; omega) _
  have canonLow : (setF s landABase Reg.faultTail_indexLo 0 ((faultTail s + 1) / 2 ^ Reg.faultTail_indexLo.lo)).canonical = true :=
    (setF_kept s _ _ _ _ (.refl s)).canonical hs
  have indexed : SameWord a s (set2 s landABase Reg.faultTail_indexLo Reg.faultTail_indexHi 0 (faultTail s + 1)) :=
    low.trans (.setF canonLow (by decide) (by show a ≠ landABase + 0x3234; omega) _)
  have canon : (set2 s landABase Reg.faultTail_indexLo Reg.faultTail_indexHi 0 (faultTail s + 1)).canonical = true :=
    (set2_kept s _ _ _ _ _ (.refl s)).canonical hs
  have recorded (p : Prop) [Decidable p] (t : State) (ht : t.canonical = true) (ws : List Host.Cell) :
      SameWord a t (if p then countA t Reg.faultLost_count 1 else wrMem t ws) := by
    split
    · exact .setF ht (by decide) (by show a ≠ landABase + 0x3238; omega) _
    · exact .of_regs rfl rfl rfl a
  have sent (t : State) : SameWord a t (sendVector t 0) :=
    .of_regs (by rw [sendVector_frame]) (by rw [sendVector_frame]) (by rw [sendVector_frame]) a
  unfold writeFault
  dsimp only
  split
  · exact (indexed.trans (recorded _ _ canon _)).trans (sent _)
  · exact indexed.trans (recorded _ _ canon _)

/-! ### The copies of a voted field -/

/-- The copies of a field that is not written stay, where the write is of another word or of other bits. -/
theorem fieldCopies_setF_apart {s : State} {base k a : Nat} {f g : Fld} (hs : s.canonical = true) (hf : f.lo ≤ f.hi)
    (hg : g.lo ≤ g.hi) (hg' : g.hi < 32) (h : a ≠ fldAddr base g k ∨ bitsApart f g = true) (v : Nat) :
    fieldCopies (setF s base g k v) f a = fieldCopies s f a := by
  obtain ⟨h0, h1, h2⟩ := State.canonical_regs hs
  have key : ∀ m, regsWf m = true →
      bits (rawWord (putF m (fldAddr base g k) g v) a) f.hi f.lo = bits (rawWord m a) f.hi f.lo := by
    intro m hm
    by_cases e : a = fldAddr base g k
    · have hb := h.resolve_left (not_not_intro e)
      rw [e, rawWord_putF_same _ _ _ _ hm hg hg']
      simp only [bitsApart, Bool.or_eq_true, decide_eq_true_eq] at hb
      rcases hb with hb | hb
      · exact bits_setBits_below _ _ _ _ _ _ hf hb
      · exact bits_setBits_above _ _ _ _ _ _ hg hb
    · rw [rawWord_putF_other _ _ _ hm e]
  unfold fieldCopies setF
  split
  · simp only [key _ h0, key _ h1, key _ h2]
  · simp only [key _ h0]

/-- A voted field written has its value in all three copies. -/
theorem fieldCopies_setF_same {s : State} {base k : Nat} {f : Fld} (hs : s.canonical = true) (hv : f.acc = .rwv)
    (hl : f.lo ≤ f.hi) (hh : f.hi < 32) (v : Nat) :
    let w := v % 2 ^ (f.hi + 1 - f.lo)
    fieldCopies (setF s base f k v) f (fldAddr base f k) = (w, w, w) := by
  obtain ⟨h0, h1, h2⟩ := State.canonical_regs hs
  unfold fieldCopies setF
  simp only [hv, if_true, rawWord_putF_same _ _ _ _ h0 hl hh, rawWord_putF_same _ _ _ _ h1 hl hh,
    rawWord_putF_same _ _ _ _ h2 hl hh, bits_setBits_same]

/-- Whether at least two of three copies hold a value. -/
def twoAgree (v : Nat) (c : Nat × Nat × Nat) : Prop := ∃ x, c = (x, v, v) ∨ c = (v, x, v) ∨ c = (v, v, x)

theorem twoAgree.vote {v : Nat} {c : Nat × Nat × Nat} (h : twoAgree v c) : vote c.1 c.2.1 c.2.2 = v := by
  obtain ⟨x, rfl | rfl | rfl⟩ := h
  · exact if_pos rfl
  · unfold Machine.vote
    split
    · assumption
    · rfl
  · unfold Machine.vote
    split
    · rfl
    · rfl

theorem twoAgree.not_split {v : Nat} {c : Nat × Nat × Nat} (h : twoAgree v c) : isSplit c = false := by
  obtain ⟨x, rfl | rfl | rfl⟩ := h <;> simp [isSplit]

/-- Bits of one copy that flip leave the other two. -/
theorem twoAgree_flipWord {s : State} {f : Fld} {a v : Nat} (h : fieldCopies s f a = (v, v, v)) (k mask : Nat) :
    twoAgree v (fieldCopies (flipWord s (k, a, mask)) f a) := by
  unfold fieldCopies at h
  simp only [Prod.mk.injEq] at h
  obtain ⟨h0, h1, h2⟩ := h
  unfold flipWord fieldCopies
  dsimp only
  split
  · exact ⟨_, .inl (by rw [h1, h2])⟩
  · split
    · exact ⟨_, .inr (.inl (by rw [h0, h2]))⟩
    · exact ⟨_, .inr (.inr (by rw [h0, h1]))⟩

/-! ### The scrub of one field -/

/-- VOTE_FIX.FIXED counted. -/
def fixCounted (s : State) (b : Blk) : State := countF s (blkBase b) Reg.voteFix_fixed 0 1

/-- A field rewritten in all three copies with the value that two of them vote for, and counted. -/
def fieldMended (s : State) (b : Blk) (f : Fld) (k : Nat) : State :=
  let c := fieldCopies s f (fldAddr (blkBase b) f k)
  fixCounted (setF s (blkBase b) f k (vote c.1 c.2.1 c.2.2)) b

/-- What the scrub of one field does: nothing where its copies agree, a split where all differ, else it mends the field. -/
theorem scrubField_eq {s : State} {b : Blk} {f : Fld} (hf : f ∈ votedFields b) (k : Nat) :
    let c := fieldCopies s f (fldAddr (blkBase b) f k)
    scrubField b s (f, fldAddr (blkBase b) f k) = if c.1 = c.2.1 ∧ c.1 = c.2.2 then s
      else if isSplit c then fieldSplit s b (fldAddr (blkBase b) f k) else fieldMended s b f k := by
  have hv := votedField_acc hf
  unfold scrubField fieldMended fixCounted setF
  simp only [hv, if_true]

/-- VOTE_FIX is no voted word. -/
theorem fixCounted_sameWord {s : State} {b : Blk} {a : Nat} (hs : s.canonical = true) (ha : a ≠ blkBase b + 0x3FF0) :
    SameWord a s (fixCounted s b) := .setF hs (by decide) ha _

theorem fieldMended_other {s : State} {b : Blk} {f g : Fld} {a k : Nat} (hs : s.canonical = true)
    (hf : (f, a) ∈ votedWords b) (hg : (g, fldAddr (blkBase b) g k) ∈ votedWords b) (hne : (f, a) ≠ (g, fldAddr (blkBase b) g k)) :
    fieldCopies (fieldMended s b g k) f a = fieldCopies s f a := by
  obtain ⟨hf', _⟩ := mem_votedWords.mp hf
  obtain ⟨hg', _⟩ := mem_votedWords.mp hg
  obtain ⟨hfl, _, _, _⟩ := votedField_place hf'
  obtain ⟨hgl, hgh, _, _⟩ := votedField_place hg'
  have apart : a ≠ fldAddr (blkBase b) g k ∨ bitsApart f g = true := by
    by_cases e : a = fldAddr (blkBase b) g k
    · refine .inr (votedWords_bitsApart hf (e ▸ hg) fun e' => hne ?_)
      rw [e, e']
    · exact .inl e
  unfold fieldMended
  dsimp only
  rw [(fixCounted_sameWord ((setF_kept s _ _ _ _ (.refl s)).canonical hs) (votedWord_outside hf).1).fieldCopies,
    fieldCopies_setF_apart hs hfl hgl hgh apart]

/-- A field that is mended has the voted value in all three copies. -/
theorem fieldMended_same {s : State} {b : Blk} {f : Fld} {k v : Nat} (hs : s.canonical = true)
    (hf : (f, fldAddr (blkBase b) f k) ∈ votedWords b) (hv : v < 2 ^ (f.hi + 1 - f.lo))
    (h : twoAgree v (fieldCopies s f (fldAddr (blkBase b) f k))) :
    fieldCopies (fieldMended s b f k) f (fldAddr (blkBase b) f k) = (v, v, v) := by
  obtain ⟨hf', _⟩ := mem_votedWords.mp hf
  obtain ⟨hl, hh, _, _⟩ := votedField_place hf'
  unfold fieldMended
  dsimp only
  rw [(fixCounted_sameWord ((setF_kept s _ _ _ _ (.refl s)).canonical hs) (votedWord_outside hf).1).fieldCopies,
    fieldCopies_setF_same hs (votedField_acc hf') hl hh, h.vote, Nat.mod_eq_of_lt hv]

/-- A field that is mended leaves VOTE_FIX.SPLIT, the operations and the list of splits. -/
theorem fieldMended_frame {s : State} {b : Blk} {f : Fld} {k : Nat} (hs : s.canonical = true)
    (hf : (f, fldAddr (blkBase b) f k) ∈ votedWords b) :
    getF (fieldMended s b f k) (blkBase b) Reg.voteFix_split 0 = getF s (blkBase b) Reg.voteFix_split 0 ∧
      (fieldMended s b f k).ops = s.ops ∧ (fieldMended s b f k).tally = s.tally := by
  have hne : fldAddr (blkBase b) Reg.voteFix_split 0 ≠ fldAddr (blkBase b) f k := (votedWord_outside hf).1.symm
  unfold fieldMended fixCounted
  dsimp only
  refine ⟨?_, by rw [countF_ops, setF_ops], by rw [countF_tally, setF_tally]⟩
  rw [countF, getF_setF_beside _ _ _ _ _ _ _ ((setF_kept s _ _ _ _ (.refl s)).canonical hs) (by decide) (by decide) (by decide)
    (by decide), getF_setF_other _ _ _ _ _ _ _ _ hs hne]

/-! ### A split -/

/-- A split that has been found: VOTE_FIX.SPLIT is 1, and each of `n` operations has ended with DEVICE_FAULT. -/
def splitDone (b : Blk) (n : Nat) (s : State) : Prop :=
  getF s (blkBase b) Reg.voteFix_split 0 = 1 ∧ s.ops.length = n ∧
    ∀ o ∈ s.ops, o.ended.map (fun e => e.status) = some .deviceFault

/-- Every operation ended with DEVICE_FAULT, and the word listed. -/
def splitMarked (s : State) (a i : Nat) : State :=
  { s with tally := { s.tally with splits := s.tally.splits ++ [(a, i)] }
           ops := s.ops.map (fun o => { o with ended := some ⟨.deviceFault, i⟩ }) }

/-- SPLIT set and the fault record written. -/
def splitRecorded (s : State) (b : Blk) (a : Nat) : State :=
  writeFault (setF s (blkBase b) Reg.voteFix_split 0 1) ⟨0x0E, 0, 0, 0xFFFF, 0, [a]⟩

/-- A split that is listed already does nothing more; any other is recorded and listed. -/
theorem fieldSplit_eq (s : State) (b : Blk) (a : Nat) : fieldSplit s b a =
    if s.tally.splits.any (fun p => p.1 == a) then s else splitMarked (splitRecorded s b a) a (faultTail s) := by
  unfold fieldSplit splitMarked splitRecorded
  rfl

/-- A split leaves every word but VOTE_FIX and those of the fault ring. -/
theorem fieldSplit_sameWord {s : State} {b : Blk} {a' : Nat} (hs : s.canonical = true) (ha : a' ≠ blkBase b + 0x3FF0)
    (ha' : ¬ isFaultWord a') (a : Nat) : SameWord a' s (fieldSplit s b a) := by
  rw [fieldSplit_eq]
  split
  · exact .of_regs rfl rfl rfl a'
  · have flagged : SameWord a' s (setF s (blkBase b) Reg.voteFix_split 0 1) := .setF hs (by decide) ha 1
    have recorded := writeFault_sameWord ((setF_kept s (blkBase b) Reg.voteFix_split 0 1 (.refl s)).canonical hs) ha'
      ⟨0x0E, 0, 0, 0xFFFF, 0, [a]⟩
    have marked : SameWord a' (splitRecorded s b a) (splitMarked (splitRecorded s b a) a (faultTail s)) :=
      .of_regs rfl rfl rfl a'
    exact (flagged.trans recorded).trans marked

/-- A split that is found now sets SPLIT and ends every operation. -/
theorem splitDone_splitMarked {s : State} {b : Blk} {f : Fld} (hs : s.canonical = true) (hf : f ∈ votedFields b) (a i : Nat) :
    splitDone b s.ops.length (splitMarked (splitRecorded s b a) a i) := by
  have hops : (splitRecorded s b a).ops = s.ops := (writeFault_ops _ _).trans (setF_ops _ _ _ _ _)
  refine ⟨?_, ?_, fun o ho => ?_⟩
  · have hrecord := writeFault_sameWord ((setF_kept s (blkBase b) Reg.voteFix_split 0 1 (.refl s)).canonical hs)
      (voteFix_outside hf) ⟨0x0E, 0, 0, 0xFFFF, 0, [a]⟩
    exact (SameWord.getF (base := blkBase b) (k := 0) (f := Reg.voteFix_split) hrecord).trans
      (getF_setF_same s _ _ 0 1 hs (by decide) (by decide))
  · show ((splitRecorded s b a).ops.map _).length = _
    rw [List.length_map, hops]
  · obtain ⟨p, _, rfl⟩ := List.mem_map.mp ho
    rfl

/-! ### A scrub of one field among the others -/

section Scrub
variable {s : State} {b : Blk} {q : Fld × Nat} (hs : s.canonical = true) (hq : q ∈ votedWords b)
include hs hq

/-- The scrub of one field leaves the copies of every other. -/
theorem fieldCopies_scrubField_other {f : Fld} {a : Nat} (hf : (f, a) ∈ votedWords b) (hne : (f, a) ≠ q) :
    fieldCopies (scrubField b s q) f a = fieldCopies s f a := by
  obtain ⟨g, a'⟩ := q
  obtain ⟨hg, k, _, rfl⟩ := mem_votedWords.mp hq
  rw [scrubField_eq hg]
  split
  · rfl
  · split
    · obtain ⟨h1, h2⟩ := votedWord_outside hf
      exact (fieldSplit_sameWord hs h1 h2 _).fieldCopies f
    · exact fieldMended_other hs hf hq hne

/-- The scrub of a field of which two copies agree leaves all three with their value. -/
theorem fieldCopies_scrubField_same {v : Nat} (hv : v < 2 ^ (q.1.hi + 1 - q.1.lo)) (h : twoAgree v (fieldCopies s q.1 q.2)) :
    fieldCopies (scrubField b s q) q.1 q.2 = (v, v, v) := by
  obtain ⟨f, a⟩ := q
  obtain ⟨hf, k, _, rfl⟩ := mem_votedWords.mp hq
  rw [scrubField_eq hf]
  split
  · next hagree =>
    dsimp only at h hagree ⊢
    obtain ⟨x, hx | hx | hx⟩ := h <;> rw [hx] at hagree ⊢ <;> simp_all
  · rw [h.not_split, if_neg Bool.false_ne_true]
    exact fieldMended_same hs hq hv h

/-- A split that has been found stays found. -/
theorem splitDone_scrubField {n : Nat} (h : splitDone b n s) : splitDone b n (scrubField b s q) := by
  obtain ⟨f, a⟩ := q
  obtain ⟨hf, k, _, rfl⟩ := mem_votedWords.mp hq
  rw [scrubField_eq hf]
  split
  · exact h
  · split
    · rw [fieldSplit_eq]
      split
      · exact h
      · have := splitDone_splitMarked hs hf (fldAddr (blkBase b) f k) (faultTail s)
        rwa [h.2.1] at this
    · obtain ⟨hsplit, hops, _⟩ := fieldMended_frame hs hq
      unfold splitDone
      rwa [hsplit, hops]

/-- Before a split of a word has been listed, the scrub of a field finds it or leaves the list. -/
theorem scrubField_splits {n : Nat} (hn : s.ops.length = n) :
    splitDone b n (scrubField b s q) ∨ (scrubField b s q).ops.length = n ∧ (scrubField b s q).tally = s.tally := by
  obtain ⟨f, a⟩ := q
  obtain ⟨hf, k, _, rfl⟩ := mem_votedWords.mp hq
  rw [scrubField_eq hf]
  split
  · exact .inr ⟨hn, rfl⟩
  · split
    · rw [fieldSplit_eq]
      split
      · exact .inr ⟨hn, rfl⟩
      · exact .inl (hn ▸ splitDone_splitMarked hs hf _ _)
    · obtain ⟨_, hops, htally⟩ := fieldMended_frame hs hq
      exact .inr ⟨by rw [hops, hn], htally⟩

/-- The scrub of a field whose copies all differ finds it split, or its word is listed already. -/
theorem splitDone_scrubField_split (h : isSplit (fieldCopies s q.1 q.2) = true)
    (hl : s.tally.splits.any (fun p => p.1 == q.2) = true → splitDone b s.ops.length s) :
    splitDone b s.ops.length (scrubField b s q) := by
  obtain ⟨f, a⟩ := q
  obtain ⟨hf, k, _, rfl⟩ := mem_votedWords.mp hq
  have hdiff : ¬ ((fieldCopies s f (fldAddr (blkBase b) f k)).1 = (fieldCopies s f (fldAddr (blkBase b) f k)).2.1 ∧
      (fieldCopies s f (fldAddr (blkBase b) f k)).1 = (fieldCopies s f (fldAddr (blkBase b) f k)).2.2) := by
    rintro ⟨e, _⟩
    simp [isSplit, e] at h
  rw [scrubField_eq hf, if_neg hdiff, if_pos h, fieldSplit_eq]
  split
  · next hlisted => exact hl hlisted
  · exact splitDone_splitMarked hs hf _ _

end Scrub

/-! ### A scrub of a block (R504, R505) -/

/-- A fold in which one element brings about what the others do not undo. -/
theorem foldl_reaches {α β : Type} {f : β → α → β} {P Q : β → Prop} {x : α} {l : List α}
    (hP : ∀ t, ∀ y ∈ l, y ≠ x → P t → P (f t y)) (hx : ∀ t, P t → Q (f t x)) (hQ : ∀ t, ∀ y ∈ l, Q t → Q (f t y))
    (hmem : x ∈ l) {s : β} (hs : P s) : Q (l.foldl f s) := by
  induction l generalizing s with
  | nil => cases hmem
  | cons y r ih =>
    rw [List.foldl_cons]
    by_cases e : y = x
    · subst e
      exact List.foldlRecOn r f (hx s hs) fun t ht z hz => hQ t z (List.mem_cons_of_mem _ hz) ht
    · refine ih (fun t z hz => hP t z (List.mem_cons_of_mem _ hz)) (fun t z hz => hQ t z (List.mem_cons_of_mem _ hz)) ?_
        (hP s y List.mem_cons_self e hs)
      exact (List.mem_cons.mp hmem).resolve_left fun h => e h.symm

theorem scrubField_canonical {s : State} (hs : s.canonical = true) (b : Blk) (q : Fld × Nat) :
    (scrubField b s q).canonical = true := (scrubField_kept b s q (.refl s)).canonical hs

/-- A scrub begins with the splits that still stand. -/
def scrubBegun (s : State) : State :=
  { s with tally := { s.tally with splits := s.tally.splits.filter (fun p => wordSplit s p.1) } }

theorem scrubBlock_eq (s : State) (b : Blk) : scrubBlock s b = (votedWords b).foldl (scrubField b) (scrubBegun s) := rfl

theorem scrubBegun_canonical {s : State} (hs : s.canonical = true) : (scrubBegun s).canonical = true := hs

/-- A scrub mends a field of which two copies agree. -/
theorem fieldCopies_scrubBlock {s : State} {b : Blk} {f : Fld} {a v : Nat} (hs : s.canonical = true) (hf : (f, a) ∈ votedWords b)
    (hv : v < 2 ^ (f.hi + 1 - f.lo)) (h : twoAgree v (fieldCopies s f a)) : fieldCopies (scrubBlock s b) f a = (v, v, v) := by
  rw [scrubBlock_eq]
  refine (foldl_reaches (P := fun t => t.canonical = true ∧ twoAgree v (fieldCopies t f a))
    (Q := fun t => t.canonical = true ∧ fieldCopies t f a = (v, v, v)) (s := scrubBegun s) ?other ?same ?stays hf
    ⟨scrubBegun_canonical hs, h⟩).2
  case other =>
    rintro t q hq hne ⟨ht, htwo⟩
    refine ⟨scrubField_canonical ht b q, ?_⟩
    rwa [fieldCopies_scrubField_other ht hq hf hne.symm]
  case same =>
    rintro t ⟨ht, htwo⟩
    exact ⟨scrubField_canonical ht b _, fieldCopies_scrubField_same ht hf hv htwo⟩
  case stays =>
    rintro t q hq ⟨ht, hagree⟩
    refine ⟨scrubField_canonical ht b q, ?_⟩
    by_cases e : (f, a) = q
    · subst e
      exact fieldCopies_scrubField_same ht hf hv ⟨v, .inl hagree⟩
    · rw [fieldCopies_scrubField_other ht hq hf e, hagree]

/-- A scrub finds a field whose copies all differ. -/
theorem splitDone_scrubBlock {s : State} {b : Blk} {f : Fld} {a : Nat} (hs : s.canonical = true) (hf : (f, a) ∈ votedWords b)
    (h : isSplit (fieldCopies s f a) = true) (hnew : ∀ p ∈ s.tally.splits, p.1 ≠ a) :
    splitDone b s.ops.length (scrubBlock s b) := by
  rw [scrubBlock_eq]
  refine (foldl_reaches (P := fun t => t.canonical = true ∧ isSplit (fieldCopies t f a) = true ∧ t.ops.length = s.ops.length ∧
      (t.tally.splits.any (fun p => p.1 == a) = true → splitDone b s.ops.length t))
    (Q := fun t => t.canonical = true ∧ splitDone b s.ops.length t) (s := scrubBegun s) ?other ?same ?stays hf
    ⟨scrubBegun_canonical hs, h, rfl, fun hl => ?_⟩).2
  case other =>
    rintro t q hq hne ⟨ht, hsplit, hn, hl⟩
    refine ⟨scrubField_canonical ht b q, by rwa [fieldCopies_scrubField_other ht hq hf hne.symm], ?_⟩
    rcases scrubField_splits ht hq hn with hdone | ⟨hn', htally⟩
    · exact ⟨hdone.2.1, fun _ => hdone⟩
    · refine ⟨hn', fun hl' => splitDone_scrubField ht hq (hl ?_)⟩
      rwa [htally] at hl'
  case same =>
    rintro t ⟨ht, hsplit, hn, hl⟩
    rw [← hn] at hl ⊢
    exact ⟨scrubField_canonical ht b _, splitDone_scrubField_split ht hf hsplit hl⟩
  case stays =>
    rintro t q hq ⟨ht, hdone⟩
    exact ⟨scrubField_canonical ht b q, splitDone_scrubField ht hq hdone⟩
  obtain ⟨p, hp, e⟩ := List.any_eq_true.mp hl
  exact absurd (beq_iff_eq.mp e) (hnew p (List.mem_filter.mp hp).1)

/-! ### VOTE_SCRUB -/

theorem exec_voteScrub {s : State} {b : Blk} (hb : blkOf (blkBase b) = some (b, 0)) (us : List (Nat × Nat × Nat)) :
    exec (.voteScrub (blkBase b) us) s =
      .next (scrubBlock (us.foldl (fun t u => flipWord t (u.1, u.2.1, u.2.2 &&& votedMask u.2.1)) s) b) := by
  refine congrArg Host.Outcome.next ?_
  rw [hb]

/-- A scrub after bits of one copy of a field have flipped. -/
theorem voteScrub_mends {s : State} {b : Blk} {f : Fld} {a v : Nat} (hs : s.canonical = true)
    (hb : blkOf (blkBase b) = some (b, 0)) (hf : (f, a) ∈ votedWords b) (h : fieldCopies s f a = (v, v, v)) (k mask : Nat) :
    ∃ u, exec (.voteScrub (blkBase b) [(k, a, mask)]) s = .next u ∧ fieldCopies u f a = (v, v, v) := by
  have hv : v < 2 ^ (f.hi + 1 - f.lo) := by
    have e : bits (rawWord s.regs a) f.hi f.lo = v := congrArg Prod.fst h
    exact e ▸ Nat.mod_lt _ (Nat.two_pow_pos _)
  exact ⟨_, exec_voteScrub hb _, fieldCopies_scrubBlock ((flipWord_kept s _ (.refl s)).canonical hs) hf hv
    (twoAgree_flipWord h k _)⟩

end Sys2Proof.Machine
end

section
/-!
SUPPORT. TALLY_CLOSE (R151, R155, R494, R495): the flags that it takes, the step that it closes, and the record that it
freezes.
-/

namespace Sys2Proof.Machine

/-! ### What the close of a step leaves -/

/-- `t` is `s` but for the Chain router and what waits on the links. -/
def ChainOnly (s t : State) : Prop := t = { s with chain := t.chain, links := t.links }

theorem ChainOnly.refl (s : State) : ChainOnly s s := rfl

theorem ChainOnly.trans {s t u : State} (h : ChainOnly s t) (k : ChainOnly t u) : ChainOnly s u := by
  unfold ChainOnly at *
  rw [k, h]

theorem foldl_chainOnly {β : Type} {f : State → β → State} (hf : ∀ t x, ChainOnly t (f t x)) (l : List β) (s : State) :
    ChainOnly s (l.foldl f s) := by
  induction l generalizing s with
  | nil => exact .refl s
  | cons x l ih => exact (hf s x).trans (ih _)

theorem sendChainTo_chainOnly (s : State) (chip : Nat) (f : ChainFrame) : ChainOnly s (sendChainTo s chip f) := by
  unfold sendChainTo
  split
  · rfl
  · exact .refl s

theorem instPut_chainOnly (s : State) (x : ChainInst) : ChainOnly s (instPut s x) := rfl

theorem instPump_chainOnly (s : State) (x : ChainInst) : ChainOnly s (instPump s x) := by
  unfold instPump
  split
  · exact .refl s
  · split
    · exact .refl s
    · split
      · split
        · exact .refl s
        · exact (instPut_chainOnly _ _).trans (foldl_chainOnly (fun t k => sendChainTo_chainOnly t k _) _ _)
      · exact (instPut_chainOnly _ _).trans (sendChainTo_chainOnly _ _ _)

theorem ChainOnly.ops {s t : State} (h : ChainOnly s t) : t.ops = s.ops := (congrArg State.ops h).trans rfl

theorem ChainOnly.cells {s t : State} (h : ChainOnly s t) : t.cells = s.cells := (congrArg State.cells h).trans rfl

/-- An own value given to the Chain network changes nothing else. -/
theorem chainGive_chainOnly (s : State) (op chan gen index v : Nat) : ChainOnly s (chainGive s op chan gen index v) :=
  (instPut_chainOnly _ _).trans (instPump_chainOnly _ _)

/-! ### The flags (R151 step 1) -/

theorem clearFlags_ops (s : State) : (clearFlags s).ops = s.ops := by
  unfold clearFlags
  generalize List.range 128 = cells
  exact foldl_ops (f := fun t c => cellSet t c { cellGet t c with nf := false }) (fun _ _ => rfl) cells s

/-- After the flags are cleared, none is set. -/
theorem nf_clearFlags {s : State} (hs : CellsWf s) {k : Nat} (hk : k < 128) : (cellGet (clearFlags s) k).nf = false := by
  unfold clearFlags
  refine (foldl_reaches (P := CellsWf) (Q := fun t => CellsWf t ∧ (cellGet t k).nf = false) ?other ?same ?stays
    (List.mem_range.mpr hk) hs).2
  case other => exact fun t c _ _ ht => ht.cellSet c _
  case same => exact fun t ht => ⟨ht.cellSet k _, by rw [cellGet_cellSet_same ht]⟩
  case stays =>
    rintro t c _ ⟨ht, hclear⟩
    refine ⟨ht.cellSet c _, ?_⟩
    by_cases e : k = c
    · rw [e, cellGet_cellSet_same ht]
    · rw [cellGet_cellSet_other ht e, hclear]

/-- The counts that belong to the next step dropped. -/
def lateDropped (s : State) : State := { s with sclLate := [], sclFmtLate := [] }

@[simp] theorem lateDropped_ops (s : State) : (lateDropped s).ops = s.ops := rfl
@[simp] theorem lateDropped_cells (s : State) : (lateDropped s).cells = s.cells := rfl

/-! ### The progress of a close -/

/-- A close with its progress changed. -/
def Op.withClose (f : CloseWork → CloseWork) (o : Op) : Op := { o with work := .close (f (closeOf o)) }

@[simp] theorem setClose_cells (s : State) (c i : Nat) (f : CloseWork → CloseWork) : (setClose s c i f).cells = s.cells := rfl

theorem findOp_setClose {s : State} {c i : Nat} {o : Op} (h : findOp s c i = some o) (f : CloseWork → CloseWork) :
    findOp (setClose s c i f) c i = some (o.withClose f) := findOp_updOp_same s c i _ h (fun _ => ⟨rfl, rfl⟩)

/-- A close that has asked, with this chip's flag. -/
def CloseWork.ask (flag : Bool) (w : CloseWork) : CloseWork := { w with asked := true, local_ := flag }

/-- The state in which a close has taken the flags and contributed nothing yet. -/
def flagsTaken (s : State) (o : Op) : State :=
  setClose (lateDropped (clearFlags s)) o.ctx o.idx (CloseWork.ask (anyFlag s))

theorem flagsTaken_cells (s : State) (o : Op) : (flagsTaken s o).cells = (clearFlags s).cells := by
  rw [flagsTaken, setClose_cells, lateDropped_cells]

theorem findOp_flagsTaken {s : State} {o : Op} (h : findOp s o.ctx o.idx = some o) :
    findOp (flagsTaken s o) o.ctx o.idx = some (o.withClose (CloseWork.ask (anyFlag s))) :=
  findOp_setClose ((findOp_congr ((lateDropped_ops _).trans (clearFlags_ops s)) _ _).trans h) _

/-- What a close contributes: its flag and its STEP_AMAX values. -/
theorem closeAsk_eq (s : State) (o : Op) : closeAsk s o =
    (List.range (sclCount s)).foldl (fun t n => chainGive t 2 65 (tgStep o.d) n (sclAmax s n))
      (chainGive (flagsTaken s o) 0 64 (tgStep o.d) 0 (nat01 (anyFlag s))) := by
  unfold closeAsk flagsTaken lateDropped CloseWork.ask
  rfl

theorem closeAsk_chainOnly (s : State) (o : Op) : ChainOnly (flagsTaken s o) (closeAsk s o) := by
  rw [closeAsk_eq]
  exact (chainGive_chainOnly _ _ _ _ _ _).trans (foldl_chainOnly (fun _ _ => chainGive_chainOnly _ _ _ _ _ _) _ _)

theorem findOp_closeAsk {s : State} {o : Op} (h : findOp s o.ctx o.idx = some o) :
    findOp (closeAsk s o) o.ctx o.idx = some (o.withClose (CloseWork.ask (anyFlag s))) :=
  (findOp_congr (closeAsk_chainOnly s o).ops _ _).trans (findOp_flagsTaken h)

theorem nf_closeAsk {s : State} (hs : CellsWf s) (o : Op) {k : Nat} (hk : k < 128) :
    (cellGet (closeAsk s o) k).nf = false := by
  have hcells : (closeAsk s o).cells = (clearFlags s).cells := (closeAsk_chainOnly s o).cells.trans (flagsTaken_cells s o)
  rw [cellGet_congr hcells, nf_clearFlags hs hk]

/-! ### The step (R151 steps 3 to 6, R155) -/

/-- `t` is `s` but for memory, the Scaler's counts, the held writes and the messages. -/
def StepFrame (s t : State) : Prop :=
  t = { s with mem := t.mem, hbm := t.hbm, sclFmt := t.sclFmt, sclLate := t.sclLate, sclFmtLate := t.sclFmtLate
               heldWrites := t.heldWrites, txq := t.txq }

theorem StepFrame.refl (s : State) : StepFrame s s := rfl

theorem StepFrame.trans {s t u : State} (h : StepFrame s t) (k : StepFrame t u) : StepFrame s u := by
  unfold StepFrame at *
  rw [k, h]

theorem StepFrame.thenIf {s t u : State} (h : StepFrame s t) (p : Prop) [Decidable p] (k : StepFrame t u) :
    StepFrame s (if p then u else t) := by
  split
  · exact h.trans k
  · exact h

theorem StepFrame.ops {s t : State} (h : StepFrame s t) : t.ops = s.ops := (congrArg State.ops h).trans rfl

theorem StepFrame.decisions {s t : State} (h : StepFrame s t) : t.decisions = s.decisions :=
  (congrArg State.decisions h).trans rfl

theorem StepFrame.getA {s t : State} (h : StepFrame s t) (f : Fld) : getA t f = getA s f :=
  getF_congr ((congrArg State.regs h).trans rfl) ((congrArg State.regs1 h).trans rfl) ((congrArg State.regs2 h).trans rfl) _ _ _

theorem foldl_stepFrame {β : Type} {f : State → β → State} (hf : ∀ t x, StepFrame t (f t x)) (l : List β) (s : State) :
    StepFrame s (l.foldl f s) := by
  induction l generalizing s with
  | nil => exact .refl s
  | cons x l ih => exact (hf s x).trans (ih _)

theorem wrMem_stepFrame (s : State) (ws : List Host.Cell) : StepFrame s (wrMem s ws) := rfl

theorem sclHistoryStep_stepFrame (s : State) (n m : Nat) : StepFrame s (sclHistoryStep s n m) :=
  ((wrMem_stepFrame _ _).trans (wrMem_stepFrame _ _)).trans (wrMem_stepFrame _ _)

theorem sclHistorySteps_stepFrame (s : State) (maxes : List Nat) : StepFrame s (sclHistorySteps s maxes) :=
  foldl_stepFrame (fun t n => (StepFrame.refl t).thenIf _ (sclHistoryStep_stepFrame t n _)) _ s

theorem sclClear_stepFrame (s : State) : StepFrame s (sclClear s) := by
  have cleared := foldl_stepFrame (f := fun t n => wrMem t (bytesWrites (sclAddr t n + 0x60)
    ([0x60, 0x64, 0x68, 0x6C, 0x70, 0x74, 0x78, 0x7A].flatMap
      (fun off => leBytes (cntSize off) (sparseGet 0 (n * 128 + off) s.sclLate))))) (fun t _ => wrMem_stepFrame t _)
    (sclEntries s) s
  exact cleared.trans rfl

theorem heldDecide_stepFrame (s : State) (h : HeldWrite) : StepFrame s (heldDecide s h) := by
  unfold heldDecide
  split <;> rfl

/-- Held writes that take their decisions change memory, messages and their own list. -/
theorem releaseHeld_stepFrame (s : State) : StepFrame s (releaseHeld s) :=
  (show StepFrame s { s with heldWrites := [] } from rfl).trans (foldl_stepFrame heldDecide_stepFrame _ _)

end Sys2Proof.Machine
end

section
/-!
SUPPORT. TALLY_CLOSE as it goes on (R151, R155, R494, R495): what it leaves where it waits, where it closes its step and
where it freezes its record.
-/

namespace Sys2Proof.Machine

@[simp] theorem Op.withClose_d (f : CloseWork → CloseWork) (o : Op) : (o.withClose f).d = o.d := rfl
@[simp] theorem closeOf_withClose (f : CloseWork → CloseWork) (o : Op) : closeOf (o.withClose f) = f (closeOf o) := rfl

/-! ### How far a close goes -/

section Run
variable {s : State} {o : Op} (ho : findOp s o.ctx o.idx = some o)
include ho

/-- A close that has no result yet has asked, and goes no further. -/
theorem closeRun_asks (ha : (closeOf o).asked = false) (hn : (closeOf o).nf = none)
    (hr : closeResults (closeAsk s o) (tgStep o.d) = none) : closeRun s o = closeAsk s o := by
  have hnf : (CloseWork.ask (anyFlag s) (closeOf o)).nf = none := hn
  have hfound := findOp_closeAsk ho
  unfold closeRun
  simp only [ha, Bool.false_eq_true, if_false, hfound, closeOf_withClose, hnf, Option.isSome_none, Op.withClose_d, hr,
    Option.isNone_none, if_true]

/-- A close without a record ends once its step is closed. -/
theorem closeRun_steps {flag : Nat} {maxes : List Nat} {p : Op} (ha : (closeOf o).asked = true) (hn : (closeOf o).nf = none)
    (hr : closeResults s (tgStep o.d) = some (flag, maxes)) (hp : findOp (closeStep s o flag maxes) o.ctx o.idx = some p)
    (hpn : (closeOf p).nf.isNone = false) (hpk : (closeOf p).kept = false) :
    closeRun s o = releaseHeld (endOp (closeStep s o flag maxes) o.ctx o.idx ⟨.done, 0⟩) := by
  unfold closeRun
  simp only [ha, if_true, ho, hn, Option.isSome_none, Bool.false_eq_true, if_false, hr, hp, hpn, hpk, Bool.not_false]

/-- A close with a record whose step is closed comes to its tail. -/
theorem closeRun_tail (ha : (closeOf o).asked = true) (hn : (closeOf o).nf.isSome = true) (hk : (closeOf o).kept = true) :
    closeRun s o = closeTail s o := by
  have hn' : (closeOf o).nf.isNone = false := by simpa [Option.isNone_eq_false_iff] using hn
  unfold closeRun
  simp only [ha, if_true, ho, hn, hn', Bool.false_eq_true, if_false, hk, Bool.not_true]

/-- Once its masters are read and no operation of its record is left, the tail freezes the record. -/
theorem closeTail_writes (hm : (closeOf o).masters.isSome = true)
    (hops : s.ops.any (fun p => dTag p.d == tgTag o.d) = false) : closeTail s o = closeWrite s o := by
  have hm' : (closeOf o).masters.isNone = false := by simpa [Option.isNone_eq_false_iff] using hm
  unfold closeTail
  simp only [hm, hm', Bool.false_and, Bool.false_eq_true, if_false, if_true, hops, ho]

end Run

/-- What its step still needs keeps the tail waiting. -/
theorem closeTail_waits {s : State} {o : Op} (hm : (closeOf o).masters = none)
    (h : s.ops.any (closeWaitsFor o) = true ∨ unitsHeld s = true) : closeTail s o = s := by
  unfold closeTail
  have hwait : (s.ops.any (closeWaitsFor o) || unitsHeld s) = true := by simpa using h
  simp only [hm, Option.isNone_none, Bool.true_and, hwait, if_true]

/-! ### A step that closes (R151 steps 3 to 6) -/

/-- R155: whether the training-state writes of a step are skipped. -/
def closeSkips (s : State) (flag : Nat) : Bool := flag % 2 == 1 && getA s Reg.nfCtrl_policy == 0

/-- NF_STATUS written. -/
def stepFlagged (s : State) (o : Op) (flag : Nat) : State :=
  let t := setA (setA s Reg.nfStatus_flag (nat01 (flag % 2 == 1))) Reg.nfStatus_local (nat01 (closeOf o).local_)
  if closeSkips s flag then countA t Reg.nfStatus_skipped 1 else t

/-- The Scaler entries updated where `s` has the Scaler enabled. -/
def stepScaled (s t : State) (maxes : List Nat) : State :=
  if getA s Reg.sclCtrl_enable = 1 then sclHistorySteps t maxes else t

/-- The Scaler section written into the slot at `a` where a record is kept, and the counts cleared. -/
def stepCounted (s : State) (o : Op) (a : Nat) : State :=
  sclClear (if (closeOf o).kept then wrMem s (bytesWrites (a + 0x100) (sclSection s)) else s)

/-- The Scaler's part of the close of a step. -/
def stepScalers (s : State) (o : Op) (flag : Nat) (maxes : List Nat) : State :=
  stepCounted (stepScaled s (stepFlagged s o flag) maxes) o (tallySlot s (tgTag o.d))

/-- The decision of a step released. -/
def stepDecided (s : State) (st : Nat) (skip : Bool) : State :=
  { s with decisions := s.decisions.filter (fun p => p.1 != st) ++ [(st, skip)] }

@[simp] theorem getA_stepDecided (s : State) (st : Nat) (skip : Bool) (g : Fld) : getA (stepDecided s st skip) g = getA s g := rfl

/-- STEP.ID moved on. -/
def stepMoved (s : State) (st : Nat) : State := set2 s landABase Reg.step_idLo Reg.step_idHi 0 ((st + 1) % 2 ^ 64)

/-- The close of a step but for the progress of its TALLY_CLOSE. -/
def stepClosed (s : State) (o : Op) (flag : Nat) (maxes : List Nat) : State :=
  stepMoved (stepDecided (stepScalers s o flag maxes) (tgStep o.d) (closeSkips s flag)) (tgStep o.d)

/-- The progress of a close once its step is closed: the flag is known, and whether a record is kept stays. -/
theorem closeStep_eq (s : State) (o : Op) (flag : Nat) (maxes : List Nat) :
    ∃ f : CloseWork → CloseWork, (∀ w, (f w).kept = w.kept ∧ (f w).nf = some (flag % 2 == 1)) ∧
      closeStep s o flag maxes = setClose (stepClosed s o flag maxes) o.ctx o.idx f := by
  unfold closeStep
  extract_lets w st nf skip s1 s2 s3 sec s4 s5 s6 s7
  have h2 : s2 = stepFlagged s o flag := by unfold stepFlagged closeSkips; rfl
  have h3 : s3 = stepScaled s s2 maxes := rfl
  have h5 : s5 = stepCounted s3 o (tallySlot s (tgTag o.d)) := rfl
  have h6 : s6 = stepDecided s5 (tgStep o.d) (closeSkips s flag) := rfl
  have h7 : s7 = stepClosed s o flag maxes := by
    rw [stepClosed, stepScalers, ← h2, ← h3, ← h5, ← h6]
    rfl
  exact ⟨fun w => { w with nf := some nf, skipped := skip, items := sec.length / 16 }, fun _ => ⟨rfl, rfl⟩,
    congrArg (setClose · o.ctx o.idx _) h7⟩

theorem stepFlagged_canonical {s : State} (hs : s.canonical = true) (o : Op) (flag : Nat) :
    (stepFlagged s o flag).canonical = true := by
  have h := (setA_kept _ Reg.nfStatus_local (nat01 (closeOf o).local_) (setA_kept s Reg.nfStatus_flag
    (nat01 (flag % 2 == 1)) (.refl s))).canonical hs
  unfold stepFlagged
  dsimp only
  split
  · exact (countA_kept _ _ _ (.refl _)).canonical h
  · exact h

theorem stepFlagged_regsOnly (s : State) (o : Op) (flag : Nat) : RegsOnly s (stepFlagged s o flag) := by
  have h : RegsOnly s (setA (setA s Reg.nfStatus_flag (nat01 (flag % 2 == 1))) Reg.nfStatus_local (nat01 (closeOf o).local_)) :=
    (setF_regsOnly s _ (f := Reg.nfStatus_flag) _ _ (by decide)).trans
      (setF_regsOnly _ _ (f := Reg.nfStatus_local) _ _ (by decide))
  unfold stepFlagged
  dsimp only
  split
  · exact h.trans (countF_regsOnly _ _ (f := Reg.nfStatus_skipped) _ _ (by decide))
  · exact h

/-- The Scaler's part of a close changes no register and no decision. -/
theorem stepScalers_stepFrame (s : State) (o : Op) (flag : Nat) (maxes : List Nat) :
    StepFrame (stepFlagged s o flag) (stepScalers s o flag maxes) := by
  have scaled : StepFrame (stepFlagged s o flag) (stepScaled s (stepFlagged s o flag) maxes) :=
    (StepFrame.refl _).thenIf _ (sclHistorySteps_stepFrame _ maxes)
  exact (scaled.thenIf _ (wrMem_stepFrame _ _)).trans (sclClear_stepFrame _)

theorem stepScalers_canonical {s : State} (hs : s.canonical = true) (o : Op) (flag : Nat) (maxes : List Nat) :
    (stepScalers s o flag maxes).canonical = true := by
  have flagged := stepFlagged_canonical hs o flag
  have scaled : (stepScaled s (stepFlagged s o flag) maxes).canonical = true := by
    unfold stepScaled
    split
    · exact (sclHistorySteps_kept _ maxes (.refl _)).canonical flagged
    · exact flagged
  unfold stepScalers stepCounted
  split
  · exact (sclClear_kept _ (wrMem_kept _ _ (.refl _))).canonical scaled
  · exact (sclClear_kept _ (.refl _)).canonical scaled

section Step
variable {s : State} (hs : s.canonical = true) (o : Op) (flag : Nat) (maxes : List Nat)

theorem stepClosed_ops : (stepClosed s o flag maxes).ops = s.ops := by
  have counted := (stepScalers_stepFrame s o flag maxes).ops
  have flagged : (stepFlagged s o flag).ops = s.ops := (congrArg State.ops (stepFlagged_regsOnly s o flag)).trans rfl
  rw [stepClosed, stepMoved, set2, setF_ops, setF_ops, stepDecided, counted, flagged]

theorem stepClosed_decisions : (stepClosed s o flag maxes).decisions =
    s.decisions.filter (fun p => p.1 != tgStep o.d) ++ [(tgStep o.d, closeSkips s flag)] := by
  have counted := (stepScalers_stepFrame s o flag maxes).decisions
  have flagged : (stepFlagged s o flag).decisions = s.decisions :=
    (congrArg State.decisions (stepFlagged_regsOnly s o flag)).trans rfl
  rw [stepClosed, stepMoved, set2, setF_decisions, setF_decisions, stepDecided, counted, flagged]

include hs

/-- The step id moves on to the next. -/
theorem stepId_stepClosed : stepId (stepClosed s o flag maxes) = (tgStep o.d + 1) % 2 ^ 64 := by
  have hc : (stepDecided (stepScalers s o flag maxes) (tgStep o.d) (closeSkips s flag)).canonical = true :=
    stepScalers_canonical hs o flag maxes
  exact (getA2_set2_same hc ⟨rfl, rfl⟩ ⟨rfl, rfl⟩ (by decide) _).trans (Nat.mod_mod _ _)

/-- Beside STEP.ID, the close of a step leaves the registers as the flag left them. -/
theorem getA_stepClosed {g : Fld} (hlo : g.off ≠ Reg.step_idLo.off) (hhi : g.off ≠ Reg.step_idHi.off) :
    getA (stepClosed s o flag maxes) g = getA (stepFlagged s o flag) g := by
  have hc : (stepDecided (stepScalers s o flag maxes) (tgStep o.d) (closeSkips s flag)).canonical = true :=
    stepScalers_canonical hs o flag maxes
  rw [stepClosed, stepMoved, getA_set2_other hc hlo hhi, getA_stepDecided, (stepScalers_stepFrame s o flag maxes).getA g]

/-- NF_STATUS after the close of a step. -/
theorem getA_stepFlagged : getA (stepFlagged s o flag) Reg.nfStatus_flag = flag % 2 ∧
    (closeSkips s flag = true →
      getA (stepFlagged s o flag) Reg.nfStatus_skipped = min 65535 (getA s Reg.nfStatus_skipped + 1)) := by
  have c1 := (setA_kept s Reg.nfStatus_flag (nat01 (flag % 2 == 1)) (.refl s)).canonical hs
  have c2 := (setA_kept (setA s Reg.nfStatus_flag (nat01 (flag % 2 == 1))) Reg.nfStatus_local (nat01 (closeOf o).local_)
    (.refl _)).canonical c1
  have flag1 : getA (setA s Reg.nfStatus_flag (nat01 (flag % 2 == 1))) Reg.nfStatus_flag = flag % 2 := by
    refine (getF_setF_same s _ _ _ _ hs (by decide) (by decide)).trans ?_
    rcases Nat.mod_two_eq_zero_or_one flag with h | h <;> rw [h] <;> rfl
  have skipped1 : getA (setA s Reg.nfStatus_flag (nat01 (flag % 2 == 1))) Reg.nfStatus_skipped = getA s Reg.nfStatus_skipped :=
    getF_setF_beside s _ _ _ _ _ _ hs (by decide) (by decide) (by decide) (by decide)
  have beside2 : ∀ g : Fld, g.lo ≤ g.hi → (Reg.nfStatus_local.hi < g.lo ∨ g.hi < Reg.nfStatus_local.lo) →
      getA (setA (setA s Reg.nfStatus_flag (nat01 (flag % 2 == 1))) Reg.nfStatus_local (nat01 (closeOf o).local_)) g =
        getA (setA s Reg.nfStatus_flag (nat01 (flag % 2 == 1))) g :=
    fun g hg hd => getF_setF_beside _ _ _ _ _ _ _ c1 (by decide) (by decide) hg hd
  have flag2 := (beside2 Reg.nfStatus_flag (by decide) (by decide)).trans flag1
  have skipped2 := (beside2 Reg.nfStatus_skipped (by decide) (by decide)).trans skipped1
  unfold stepFlagged
  dsimp only
  split
  · refine ⟨(getF_setF_beside _ _ _ _ _ _ _ c2 (by decide) (by decide) (by decide) (by decide)).trans flag2, fun _ => ?_⟩
    exact (getF_countF_same _ _ _ _ _ c2 (by decide) (by decide)).trans (congrArg (fun n => min 65535 (n + 1)) skipped2)
  · next h => exact ⟨flag2, fun h' => absurd h' h⟩

end Step

/-- What a close without a record leaves as it closes its step. -/
theorem tallyClose_step {s : State} {o : Op} (hs : s.canonical = true) (ho : findOp s o.ctx o.idx = some o)
    (ha : (closeOf o).asked = true) (hn : (closeOf o).nf = none) (hk : (closeOf o).kept = false) {flag : Nat} {maxes : List Nat}
    (hr : closeResults s (tgStep o.d) = some (flag, maxes)) :
    let u := closeRun s o
    (∃ p, findOp u o.ctx o.idx = some p ∧ p.ended = some ⟨.done, 0⟩) ∧ getA u Reg.nfStatus_flag = flag % 2 ∧
      stepId u = (tgStep o.d + 1) % 2 ^ 64 ∧ (tgStep o.d, closeSkips s flag) ∈ u.decisions ∧
      (∀ q, q.1 ≠ tgStep o.d → (q ∈ u.decisions ↔ q ∈ s.decisions)) ∧
      (closeSkips s flag = true → getA u Reg.nfStatus_skipped = min 65535 (getA s Reg.nfStatus_skipped + 1)) := by
  obtain ⟨f, hf, hstep⟩ := closeStep_eq s o flag maxes
  have hfound : findOp (closeStep s o flag maxes) o.ctx o.idx = some (o.withClose f) := by
    rw [hstep]
    exact findOp_setClose ((findOp_congr (stepClosed_ops o flag maxes) _ _).trans ho) f
  have hrun := closeRun_steps ho ha hn hr hfound (by rw [closeOf_withClose, (hf _).2]; rfl)
    (by rw [closeOf_withClose, (hf _).1, hk])
  have released := releaseHeld_stepFrame (endOp (closeStep s o flag maxes) o.ctx o.idx ⟨.done, 0⟩)
  rw [hrun]
  have hget : ∀ g, getA (releaseHeld (endOp (closeStep s o flag maxes) o.ctx o.idx ⟨.done, 0⟩)) g =
      getA (stepClosed s o flag maxes) g := by
    intro g
    rw [released.getA, hstep]
    exact getF_congr rfl rfl rfl _ _ _
  have hdec : (releaseHeld (endOp (closeStep s o flag maxes) o.ctx o.idx ⟨.done, 0⟩)).decisions =
      s.decisions.filter (fun p => p.1 != tgStep o.d) ++ [(tgStep o.d, closeSkips s flag)] := by
    rw [released.decisions, hstep, ← stepClosed_decisions o flag maxes]
    rfl
  obtain ⟨hflag, hskipped⟩ := getA_stepFlagged hs o flag
  refine ⟨⟨_, (findOp_congr released.ops _ _).trans (findOp_endOp_same _ _ _ _ hfound), rfl⟩, ?_, ?_, ?_, fun q hq => ?_,
    fun h => ?_⟩
  · rw [hget, getA_stepClosed hs o flag maxes (by decide) (by decide), hflag]
  · exact (getA2_congr (hget _) (hget _)).trans (stepId_stepClosed hs o flag maxes)
  · rw [hdec]
    simp
  · have hne : q ≠ (tgStep o.d, closeSkips s flag) := fun e => hq (congrArg Prod.fst e)
    rw [hdec, List.mem_append, List.mem_filter, List.mem_singleton, bne_iff_ne]
    exact ⟨fun h => (h.resolve_right hne).1, fun h => .inl ⟨h, hq⟩⟩
  · rw [hget, getA_stepClosed hs o flag maxes (by decide) (by decide), hskipped h]

/-! ### A record that freezes (R494, R495 steps 9 and 10) -/

/-- The bytes of a record below its Scaler section, as a close freezes them. -/
def recordBytes (s : State) (o : Op) (r : Tally) : List Byte :=
  tallyFields s o (closeOf o) r (if tgLossValid o.d then rdNat s (tgLoss o.d) 4 else 0)

/-- The writes of a close that freezes its record: its fields and its generation section. -/
def recordWrites (s : State) (o : Op) (r : Tally) : List Host.Cell :=
  bytesWrites (tallySlot s r.tag) (recordBytes s o r) ++ bytesWrites (tallySlot s r.tag + 0x4200) (genBytes r.gens)

/-- A record closed: it is no longer open, and its hash is kept for the next one. -/
def recordClosed (s : State) (tag a : Nat) : State :=
  { s with tally := { s.tally with
      recs := s.tally.recs.filter (fun x => x.tag != tag), prevHash := sha512 (resultBytes s a) } }

/-- The state in which the record is written and closed, before its signature is queued. -/
def recordFrozen (s : State) (o : Op) (r : Tally) : State :=
  recordClosed (countSha (wrMem s (recordWrites s o r)) 0x81D0) r.tag (tallySlot s r.tag)

theorem closeWrite_eq {s : State} {o : Op} {r : Tally} (hr : tallyRec s (tgTag o.d) = some r) : closeWrite s o =
    endOp (if signDue s r.step then queueSign (recordFrozen s o r) r.step (tallySlot s r.tag) else recordFrozen s o r)
      o.ctx o.idx ⟨.done, 0⟩ := by
  unfold closeWrite recordFrozen recordClosed recordWrites recordBytes
  rw [hr]

/-- A signature that falls due changes the queue of signatures, or also the count of those that wait. -/
theorem queueSign_spec (s : State) (st slot : Nat) :
    let u := queueSign s st slot
    u.mem = s.mem ∧ u.ops = s.ops ∧ u.tally.recs = s.tally.recs ∧ u.tally.prevHash = s.tally.prevHash ∧
      (s.tally.signing = [] → u.tally.signing = [(st, slot)]) := by
  unfold queueSign
  split
  · next h => exact ⟨rfl, rfl, rfl, rfl, fun _ => rfl⟩
  · next x r h =>
    refine ⟨countF_mem _ _ _ _ _, countF_ops _ _ _ _ _, (congrArg TallyRt.recs (countF_tally _ _ _ _ _)).trans rfl,
      (congrArg TallyRt.prevHash (countF_tally _ _ _ _ _)).trans rfl, fun h' => ?_⟩
    rw [h'] at h
    cases h

/-- Below its generation section, a record that freezes reads as its fields. -/
theorem memNat_recordWrites {s : State} {o : Op} {r : Tally} {n v k : Nat} {pre post : List Byte} (hm : memWf s.mem = true)
    (hbs : recordBytes s o r = pre ++ (leBytes n v ++ post)) (hk : k = pre.length) (hlow : k + n ≤ 0x4200) :
    memNat (memWriteAll s.mem (recordWrites s o r)) (tallySlot s r.tag + k) n = v % 2 ^ (8 * n) := by
  rw [recordWrites, memWriteAll_append, memNat_congr fun b _ hb =>
    memRead_bytesWrites_out (memWriteAll_wf _ _ hm) (.inl (by omega))]
  exact memNat_bytesWrites_part hm hbs (by rw [hk])

/-- The step and the tag of a record that freezes. -/
theorem memRead_recordWrites {s : State} (o : Op) (r : Tally) (hm : memWf s.mem = true) :
    let m := memWriteAll s.mem (recordWrites s o r)
    memNat m (tallySlot s r.tag + 8) 8 = r.step % 2 ^ 64 ∧ memNat m (tallySlot s r.tag + 0x18) 4 = r.tag % 2 ^ 32 := by
  obtain ⟨flags, tail, hbytes⟩ : ∃ flags tail, recordBytes s o r = leBytes 4 0x594C4154 ++ (leBytes 4 (1 + 256 * flags) ++
      (leBytes 8 r.step ++ (leBytes 8 (rotId s) ++ (leBytes 4 r.tag ++ tail)))) := by
    unfold recordBytes tallyFields tallyHeader tallyIds
    simp only [List.append_assoc]
    exact ⟨_, _, rfl⟩
  constructor
  · refine memNat_recordWrites (n := 8) (pre := leBytes 4 0x594C4154 ++ leBytes 4 (1 + 256 * flags))
      (post := leBytes 8 (rotId s) ++ (leBytes 4 r.tag ++ tail)) hm ?_ rfl (by decide)
    rw [hbytes, List.append_assoc]
  · refine memNat_recordWrites (n := 4) (post := tail) (pre := leBytes 4 0x594C4154 ++ leBytes 4 (1 + 256 * flags) ++
      leBytes 8 r.step ++ leBytes 8 (rotId s)) hm ?_ (by simp only [List.length_append, length_leBytes]) (by decide)
    rw [hbytes]
    simp only [List.append_assoc]

/-- The bytes that RESULT_HASH covers are memory's. -/
theorem resultBytes_congr {s t : State} (h : t.mem = s.mem) (a : Nat) : resultBytes t a = resultBytes s a := by
  rw [resultBytes, resultBytes, rdBytes, rdBytes, rdBytes, rdBytes, h]

theorem recordClosed_tally (s : State) (tag a : Nat) : (recordClosed s tag a).tally = { s.tally with
    recs := s.tally.recs.filter (fun x => x.tag != tag), prevHash := sha512 (resultBytes s a) } := rfl

/-- What a record that freezes leaves, before its signature is queued. -/
theorem recordFrozen_spec (s : State) (o : Op) (r : Tally) :
    let u := recordFrozen s o r
    u.mem = memWriteAll s.mem (recordWrites s o r) ∧ u.ops = s.ops ∧ u.tally.signing = s.tally.signing ∧
      u.tally.recs = s.tally.recs.filter (fun x => x.tag != r.tag) ∧
      u.tally.prevHash = sha512 (resultBytes u (tallySlot s r.tag)) := by
  intro u
  have hmem : (countSha (wrMem s (recordWrites s o r)) 0x81D0).mem = memWriteAll s.mem (recordWrites s o r) :=
    (countSha_mem _ _).trans (wrMem_mem s _)
  have hops := (countSha_ops (wrMem s (recordWrites s o r)) 0x81D0).trans (wrMem_ops s _)
  have htally := (countSha_tally (wrMem s (recordWrites s o r)) 0x81D0).trans (wrMem_tally s _)
  have hu : u = recordClosed (countSha (wrMem s (recordWrites s o r)) 0x81D0) r.tag (tallySlot s r.tag) := rfl
  generalize countSha (wrMem s (recordWrites s o r)) 0x81D0 = t at hmem hops htally hu
  rw [hu, recordClosed_tally, resultBytes_congr (s := t) rfl, ← htally]
  exact ⟨hmem, hops, rfl, rfl, rfl⟩

/-- A tag that is filtered out has no open record. -/
theorem tallyRec_filter_ne {s u : State} {tag : Nat} (h : u.tally.recs = s.tally.recs.filter (fun x => x.tag != tag)) :
    tallyRec u tag = none := by
  rw [tallyRec, h, List.find?_eq_none]
  intro x hx e
  exact bne_iff_ne.mp (List.mem_filter.mp hx).2 (beq_iff_eq.mp e)

/-- What a close leaves as it freezes its record. -/
theorem closeWrite_spec {s : State} {o : Op} {r : Tally} (hm : memWf s.mem = true) (ho : findOp s o.ctx o.idx = some o)
    (hr : tallyRec s (tgTag o.d) = some r) :
    let a := tallySlot s r.tag
    let u := closeWrite s o
    (∃ p, findOp u o.ctx o.idx = some p ∧ p.ended = some ⟨.done, 0⟩) ∧ tallyRec u (tgTag o.d) = none ∧
      u.tally.prevHash = sha512 (resultBytes u a) ∧ memNat u.mem (a + 8) 8 = r.step % 2 ^ 64 ∧
      memNat u.mem (a + 0x18) 4 = r.tag % 2 ^ 32 ∧
      (s.tally.signing = [] → u.tally.signing = if signDue s r.step then [(r.step, a)] else []) := by
  intro a u
  have htag : r.tag = tgTag o.d := beq_iff_eq.mp (List.find?_some (p := fun x : Tally => x.tag == tgTag o.d) hr)
  obtain ⟨hmem, hops, hsigning, hrecs, hhash⟩ := recordFrozen_spec s o r
  obtain ⟨qmem, qops, qrecs, qhash, qsigning⟩ := queueSign_spec (recordFrozen s o r) r.step a
  obtain ⟨v, hu, vmem, vops, vrecs, vhash, vsigning⟩ : ∃ v, u = endOp v o.ctx o.idx ⟨.done, 0⟩ ∧
      v.mem = (recordFrozen s o r).mem ∧ v.ops = (recordFrozen s o r).ops ∧
      v.tally.recs = (recordFrozen s o r).tally.recs ∧ v.tally.prevHash = (recordFrozen s o r).tally.prevHash ∧
      (s.tally.signing = [] → v.tally.signing = if signDue s r.step then [(r.step, a)] else []) := by
    refine ⟨_, closeWrite_eq hr, ?_⟩
    split
    · exact ⟨qmem, qops, qrecs, qhash, fun h => qsigning (hsigning.trans h)⟩
    · exact ⟨rfl, rfl, rfl, rfl, fun h => hsigning.trans h⟩
  obtain ⟨hstep, hid⟩ := memRead_recordWrites o r hm
  have umem : u.mem = memWriteAll s.mem (recordWrites s o r) := (congrArg State.mem hu).trans (vmem.trans hmem)
  have urecs : u.tally.recs = s.tally.recs.filter (fun x => x.tag != tgTag o.d) := by
    rw [← htag]
    exact (congrArg (fun t => t.tally.recs) hu).trans (vrecs.trans hrecs)
  have hfound : findOp u o.ctx o.idx = some { o with ended := some ⟨.done, 0⟩ } := by
    rw [hu]
    exact findOp_endOp_same _ _ _ _ ((findOp_congr (vops.trans hops) _ _).trans ho)
  refine ⟨⟨_, hfound, rfl⟩, tallyRec_filter_ne urecs, ?_, umem ▸ hstep, umem ▸ hid,
    fun h => (congrArg (fun t => t.tally.signing) hu).trans (vsigning h)⟩
  rw [resultBytes_congr (umem.trans hmem.symm)]
  exact (congrArg (fun t => t.tally.prevHash) hu).trans (vhash.trans hhash)

end Sys2Proof.Machine
end

section
/-!
O58. TALLY_OPEN, TALLY_CLOSE, TALLY_SIGN_DONE, DIGEST, ATTEST, VOTE_SCRUB and EVENT_DUMP: what each of them leaves, from
the laws above.
-/

namespace Sys2Proof.Machine

/-- A TALLY_OPEN waits, or opens its record. -/
theorem tallyOpen_leaves {s : State} {c i : Nat} {o : Op} (hm : memWf s.mem = true) (ho : runningOp s c i 0x0A00 = some o)
    (hs : s.tally.signing.any (fun q => q.2 == tallySlot s (tgTag o.d)) = false) (hf : tallyOpenFault s o.d = none) :
    let a := tallySlot s (tgTag o.d)
    ∃ u, exec (.tallyOpen c i) s = .next u ∧ findOp u c i = some { o with ended := some ⟨.done, 0⟩ } ∧
      u.tally = { s.tally with recs := s.tally.recs ++ [⟨tgTag o.d, tgStep o.d, false, 0, 0, 0, 0, 0, 0, 0, []⟩] } ∧
      memNat u.mem a 4 = 0x594C4154 ∧ memNat u.mem (a + 8) 8 = tgStep o.d ∧ memNat u.mem (a + 0x18) 4 = tgTag o.d ∧
      (∀ b, a + 32 ≤ b → b < a + 36864 → memRead u.mem b = 0) ∧
      (∀ b, b < a ∨ a + 36864 ≤ b → memRead u.mem b = memRead s.mem b) ∧
      u = { s with mem := u.mem, hbm := { s.hbm with poison := u.hbm.poison }, tally := u.tally, ops := u.ops } := by
  obtain ⟨hfound, _, _, _⟩ := runningOp_some ho
  obtain ⟨hmem, htally, hframe⟩ := recordOpened_frame s c i o.d (openWrites s o.d)
  obtain ⟨hmagic, hstep, htag, hzero, hout⟩ := memRead_openWrites o.d hm
  refine ⟨_, exec_tallyOpen_opens ho hs hf, findOp_recordOpened hfound _ _, htally, ?_, ?_, ?_, ?_, ?_, hframe⟩ <;> rw [hmem]
  · exact hmagic
  · exact hstep
  · exact htag
  · exact hzero
  · exact hout

section TallyClose
variable {s : State} {c i : Nat} {o : Op} (ho : runningOp s c i 0x0A10 = some o)
include ho

theorem exec_tallyClose : exec (.tallyClose c i) s = .next (closeRun s o) :=
  congrArg Host.Outcome.next (onOp_running _ ho)

/-- A running close is found at its own place. -/
theorem findOp_running : findOp s c i = some o ∧ o.ctx = c ∧ o.idx = i := by
  obtain ⟨hfound, _, _, _⟩ := runningOp_some ho
  exact ⟨hfound, findOp_place hfound⟩

end TallyClose

/-- What a TALLY_CLOSE leaves: asked, step closed, waiting, frozen. -/
theorem tallyClose_leaves (s : State) (c i : Nat) (o : Op) (hs : s.canonical = true) (ho : runningOp s c i 0x0A10 = some o) :
    let w := closeOf o
    let st := tgStep o.d
    (w.asked = false → w.nf = none → closeResults (closeAsk s o) st = none →
      ∃ u p, exec (.tallyClose c i) s = .next u ∧ findOp u c i = some p ∧ (closeOf p).asked = true ∧
        (closeOf p).local_ = anyFlag s ∧ ∀ k, k < 128 → (cellGet u k).nf = false) ∧
    (∀ flag maxes, w.asked = true → w.nf = none → w.kept = false → closeResults s st = some (flag, maxes) →
      let skip := flag % 2 == 1 && getA s Reg.nfCtrl_policy == 0
      ∃ u p, exec (.tallyClose c i) s = .next u ∧ findOp u c i = some p ∧ p.ended = some ⟨.done, 0⟩ ∧
        getA u Reg.nfStatus_flag = flag % 2 ∧ stepId u = (st + 1) % 2 ^ 64 ∧ (st, skip) ∈ u.decisions ∧
        (∀ q, q.1 ≠ st → (q ∈ u.decisions ↔ q ∈ s.decisions)) ∧
        (skip = true → getA u Reg.nfStatus_skipped = min 65535 (getA s Reg.nfStatus_skipped + 1))) ∧
    (w.asked = true → w.nf.isSome = true → w.kept = true → w.masters = none →
      (s.ops.any (closeWaitsFor o) = true ∨ unitsHeld s = true) → exec (.tallyClose c i) s = .next s) ∧
    (∀ r, w.asked = true → w.nf.isSome = true → w.kept = true → w.masters.isSome = true →
      s.ops.any (fun p => dTag p.d == tgTag o.d) = false → tallyRec s (tgTag o.d) = some r →
      let a := tallySlot s r.tag
      ∃ u p, exec (.tallyClose c i) s = .next u ∧ findOp u c i = some p ∧ p.ended = some ⟨.done, 0⟩ ∧
        tallyRec u (tgTag o.d) = none ∧ u.tally.prevHash = sha512 (resultBytes u a) ∧
        memNat u.mem (a + 8) 8 = r.step % 2 ^ 64 ∧ memNat u.mem (a + 0x18) 4 = r.tag % 2 ^ 32 ∧
        (s.tally.signing = [] → u.tally.signing = if signDue s r.step then [(r.step, a)] else [])) := by
  have hexec := exec_tallyClose ho
  obtain ⟨hfound, rfl, rfl⟩ := findOp_running ho
  rw [hexec]
  refine ⟨fun ha hn hr => ?asks, fun flag maxes ha hn hk hr => ?steps, fun ha hn hk hm hw => ?waits,
    fun r ha hn hk hm hops hr => ?freezes⟩
  case asks =>
    rw [closeRun_asks hfound ha hn hr]
    exact ⟨_, _, rfl, findOp_closeAsk hfound, rfl, rfl, fun k hk => nf_closeAsk (State.canonical_cells hs) o hk⟩
  case steps =>
    obtain ⟨⟨p, hp, hend⟩, hrest⟩ := tallyClose_step hs hfound ha hn hk hr
    exact ⟨_, p, rfl, hp, hend, hrest⟩
  case waits => rw [closeRun_tail hfound ha hn hk, closeTail_waits hm hw]
  case freezes =>
    obtain ⟨_, _, _, hmem, _⟩ := (State.canonical_iff s).mp hs
    obtain ⟨⟨p, hp, hend⟩, hrest⟩ := closeWrite_spec hmem hfound hr
    rw [closeRun_tail hfound ha hn hk, closeTail_writes hfound hm hops]
    exact ⟨_, p, rfl, hp, hend, hrest⟩

/-- What a TALLY_SIGN_DONE leaves. -/
theorem tallySignDone_leaves {s : State} {st a : Nat} {rest : List (Nat × Nat)} (hm : memWf s.mem = true)
    (hs : s.tally.signing = (st, a) :: rest) :
    ∃ u, exec .tallySignDone s = .next u ∧ u.tally = { s.tally with signing := rest } ∧
      memBytes u.mem (a + 0x8200) 512 = signatureOf (rdBytes s a 0x8200) ∧ memNat u.mem (a + 0x8400) 1 = 1 ∧
      ∀ b, b < a + 0x8200 ∨ a + 0x8401 ≤ b → memRead u.mem b = memRead s.mem b := by
  refine ⟨_, exec_tallySignDone hs, countSha_tally _ _, ?_⟩
  rw [countSha_mem]
  dsimp only
  rw [wrMem_mem]
  exact memRead_signBytes a hm

/-- What an EVENT_DUMP leaves. -/
theorem eventDump_leaves {s : State} {tick time : Nat} {es : List Byte} {rest : List (Nat × Nat × List Byte)}
    (hs : s.canonical = true) (hd : s.dumps = (tick, time, es) :: rest) :
    let a := dumpPlace s
    let bs := dumpBytes s (dumpTail s) tick time es
    ∃ u, exec .eventDump s = .next u ∧ u.dumps = rest ∧ dumpTail u = (dumpTail s + 1) % 2 ^ 64 ∧
      (dumpsUnread s < getA s Reg.evdCtrl_cap → inHbm s a 17408 = true →
        memBytes u.mem a bs.length = bs ∧ getA u Reg.evdLost_count = getA s Reg.evdLost_count ∧
        ∀ b, b < a ∨ a + bs.length ≤ b → memRead u.mem b = memRead s.mem b) ∧
      (getA s Reg.evdCtrl_cap ≤ dumpsUnread s ∨ inHbm s a 17408 = false → u.mem = s.mem ∧
        getA u Reg.evdLost_count = min (2 ^ 32 - 1) (getA s Reg.evdLost_count + 1)) := by
  obtain ⟨_, _, _, hm, _⟩ := (State.canonical_iff s).mp hs
  obtain ⟨u, hexec, hdumps, htail, hwritten, hlost⟩ := eventDump_spec hd hs
  refine ⟨u, hexec, hdumps, htail, fun hroom hin => ?_, hlost⟩
  obtain ⟨hmem, hcount⟩ := hwritten hroom hin
  rw [hmem]
  exact ⟨memBytes_bytesWrites hm, hcount, fun b hb => memRead_bytesWrites_out hm hb⟩

/-- Settles O58, one law for each command: memory is read back through the writes, a close is followed through its four
stages, and a scrub through the words of its block. -/
theorem tallySignAttestAndVote : Obligations.TallySignAttestAndVote := by
  unfold Obligations.TallySignAttestAndVote
  refine ⟨fun s c i o hm ho => ⟨exec_tallyOpen_waits ho, tallyOpen_leaves hm ho⟩, tallyClose_leaves,
    fun s st a rest hm hs => tallySignDone_leaves hm hs, fun s c i o hm ho hu hl ha hf => ?digest,
    fun s c i o hm ho ha hf => attest_written ho hm ha hf, fun s b f a v k mask hs hb hf _ h => voteScrub_mends hs hb hf h k mask,
    fun s b f a hs hb hf h hnew => ⟨_, exec_voteScrub hb [], splitDone_scrubBlock hs hf h hnew⟩,
    fun s tick time es rest hs hd => eventDump_leaves hs hd⟩
  case digest =>
    obtain ⟨p, hp, hrest⟩ := digest_written ho hm hl
    exact ⟨_, p, exec_digest ho hu ha hf, hp, hrest⟩

end Sys2Proof.Machine
end

section
/-!
O42. The ordered adder where one group id is open many times (R177 to R179).
-/

namespace Sys2Proof.Machine

/-! ### Groups that share an id

`OrderedAdderIgnoresArrivalOrder` speaks of every State whose memory is canonical.  No SUM_OPEN opens a group whose id is open
already (fault 0x134), but such a State may list one id many times.  A line written is then written in each of those groups,
and `heldBy` counts each of their copies: 8 contributions held in 256 copies fill the window of a stack, and the next one is
refused, while the same contributions in the order of their indices are added as they come. -/

/-- An INT32 group of one line that waits for 10 contributions. -/
def sharedGroup : SumGroup := ⟨0, 0, 0, 0, 1, true, 10, false, [], []⟩

/-- The chip after reset, with that group listed 256 times. -/
def sharedGroups : State := { State.reset with groups := List.replicate 256 sharedGroup }

/-- Ten contributions: index `i` adds `i + 1` to element 0 of the line. -/
def tenContributions : List (Nat × List Byte) := (List.range 10).map (fun i => (i, leBytes 64 (i + 1)))

/-- The memory after contributions of this chip have arrived at line 0 of that group. -/
def lineAfter (cs : List (Nat × List Byte)) : Option (List Host.Cell) :=
  (runCommands (cs.map (fun c => .omaContribution 0 c.1 0 c.2 0 0 0)) sharedGroups).map State.mem

/-- In the order of their indices all ten are added. -/
theorem lineAfter_inOrder : lineAfter tenContributions = some [(0, 55)] := by decide +kernel

/-- In the opposite order 9 down to 2 are held, 1 is refused, and 0 alone is added. -/
theorem lineAfter_reverse : lineAfter tenContributions.reverse = some [(0, 1)] := by decide +kernel

/-- Refutes O42: where a State lists the group 256 times, as no SUM_OPEN leaves it, the line's stack counts each held
contribution 256 times, and which contributions are refused depends on the order in which they arrive. -/
theorem not_orderedAdderIgnoresArrivalOrder : ¬ Obligations.OrderedAdderIgnoresArrivalOrder := by
  unfold Obligations.OrderedAdderIgnoresArrivalOrder
  intro h
  obtain ⟨t, u, ht, hu, hmem⟩ := h sharedGroups 0 0 0 0 0 sharedGroup tenContributions tenContributions.reverse rfl rfl
    (by decide) rfl (by decide) (by decide +kernel) (List.reverse_perm _).symm (by decide) (by decide)
  have hin : some t.mem = some [(0, 55)] := by rw [← lineAfter_inOrder, lineAfter, ht, Option.map_some]
  have hrev : some u.mem = some [(0, 1)] := by rw [← lineAfter_reverse, lineAfter, hu, Option.map_some]
  rw [hmem, hrev] at hin
  exact absurd hin (by decide)

end Sys2Proof.Machine
end

section
/-!
SUPPORT. Laws of the vector units (R165 to R172): what the work of a unit writes, what its end leaves of its operation, and
batches that begin on its Cell.
-/

namespace Sys2Proof.Machine

/-! ### Vector operations -/

/-- The end of an operation's work changes its end or its run alone. -/
theorem findOp_finishOp {s : State} {c i : Nat} {o : Op} (ho : findOp s c i = some o) :
    ∃ e r, findOp (finishOp s c i) c i = some { o with ended := e, run := r } := by
  refine ⟨if checkLevel o.d = 2 && o.run = 1 then o.ended else some (normalEnd o),
    if checkLevel o.d = 2 && o.run = 1 then 2 else o.run,
    (findOp_updOp_same s c i _ ho (fun p => by split <;> exact ⟨rfl, rfl⟩)).trans ?_⟩
  split <;> rfl

/-- An operation with its vector progress changed. -/
def Op.withVec (o : Op) (f : VecWork → VecWork) : Op := { o with work := .vec (f (vecOf o)) }

@[simp] theorem vecOf_withVec (o : Op) (f : VecWork → VecWork) : vecOf (o.withVec f) = f (vecOf o) := rfl

@[simp] theorem Op.withVec_d (o : Op) (f : VecWork → VecWork) : (o.withVec f).d = o.d := rfl

@[simp] theorem setVec_mem (s : State) (c i : Nat) (f : VecWork → VecWork) : (setVec s c i f).mem = s.mem := rfl

/-- The operation whose vector progress was changed. -/
theorem findOp_setVec {s : State} {c i : Nat} {o : Op} (f : VecWork → VecWork) (h : findOp s c i = some o) :
    findOp (setVec s c i f) c i = some (o.withVec f) := findOp_updOp_same s c i _ h (fun _ => ⟨rfl, rfl⟩)

/-! ### The work of a unit -/

/-- The codes that a unit writes, where the output has neither block scales nor a Scaler binding. -/
def unitCodes (s : State) (o : Op) (u : Nat) : List Nat :=
  (unitElems o.d u).map (fun j => (convert (fwFmtD (vFmtY o.d)) (vRnd s o j) (vOutput s o.d j).1).1)

/-- Where a unit's row begins. -/
def unitAt (d : Desc) (u : Nat) : Nat := vOut d + packedLen (fmtWidth (fwFmtD (vFmtY d))) (8192 * u)

/-- The bytes of a unit's row. -/
def unitBytes (s : State) (o : Op) (u : Nat) : List Byte := packRow (fmtWidth (fwFmtD (vFmtY o.d))) (unitCodes s o u)

theorem length_unitBytes (s : State) (o : Op) (u : Nat) :
    (unitBytes s o u).length = packedLen (fmtWidth (fwFmtD (vFmtY o.d))) (unitElems o.d u).length := by
  rw [unitBytes, length_packRow, unitCodes, List.length_map]

/-- A unit without block scales and Scaler binding writes its row, and its operation keeps no binding. -/
theorem unitWork_spec {s : State} {o : Op} (u : Nat) (ho : findOp s o.ctx o.idx = some o) (hmx : fwMx (vFmtY o.d) = false)
    (hb : (vecOf o).bind = none) :
    (unitWork s o u).mem = memWriteAll s.mem (bytesWrites (unitAt o.d u) (unitBytes s o u)) ∧
      findOp (unitWork s o u) o.ctx o.idx = some (o.withVec (fun w => { w with bind := none })) := by
  have hout := fun t cell eval f xs gidx => unitOut_unbound t cell eval u f xs gidx
  unfold unitWork
  simp only [hmx, hb, Bool.false_eq_true, reduceIte]
  constructor
  · simp only [wrMem_mem, setVec_mem, (hout _ _ _ _ _ _).1, (hout _ _ _ _ _ _).2, event_mem, flagCell_mem,
      ← List.map_prod_left_eq_zip, List.map_map, Function.comp_def]
    rfl
  · rw [(hout _ _ _ _ _ _).2, findOp_congr (wrMem_ops _ _)]
    refine findOp_setVec _ ((findOp_congr ?_ _ _).trans ho)
    rw [(unitOut_outFrame _ _ _ _ _ _ _ _).ops, event_ops, event_ops, flagCell_ops]

/-! ### The end of a unit (R172) -/

/-- A Cell that begins its next unit leaves memory, and of the operation all but the units that run. -/
theorem beginUnit_spec {s : State} {c i : Nat} {o : Op} (cell : Nat) (ho : findOp s c i = some o)
    (hw : o.work = .vec (vecOf o)) :
    (beginUnit s c i cell).mem = s.mem ∧
      ∃ us, findOp (beginUnit s c i cell) c i = some (o.withVec (fun w => { w with running := us })) := by
  have hsame : o.withVec (fun w => { w with running := (vecOf o).running }) = o :=
    (congrArg (fun w => { o with work := w }) hw.symm :)
  unfold beginUnit
  rw [ho]
  dsimp only
  split
  · exact ⟨rfl, _, ho.trans (congrArg some hsame.symm)⟩
  · split
    · exact ⟨rfl, _, findOp_setVec _ ho⟩
    · exact ⟨rfl, _, ho.trans (congrArg some hsame.symm)⟩

/-- The end of an operation whose units are all done leaves memory, and of the operation all but its end and its run. -/
theorem vecMaybeEnd_spec {s : State} {c i : Nat} {o : Op} (ho : findOp s c i = some o) :
    (vecMaybeEnd s c i).mem = s.mem ∧ ∃ e r, findOp (vecMaybeEnd s c i) c i = some { o with ended := e, run := r } := by
  unfold vecMaybeEnd
  rw [ho]
  dsimp only
  split
  · exact ⟨rfl, findOp_finishOp ho⟩
  · exact ⟨rfl, _, _, ho⟩

/-- An operation whose units are all done ends as its work says, unless a second run is due. -/
theorem findOp_vecMaybeEnd_done {s : State} {c i : Nat} {o : Op} (ho : findOp s c i = some o) (hl : checkLevel o.d ≠ 2)
    (hdone : (vecOf o).doneUnits.length = vUnits o.d) :
    findOp (vecMaybeEnd s c i) c i = some { o with ended := some (normalEnd o) } := by
  unfold vecMaybeEnd
  rw [ho]
  dsimp only
  rw [if_pos hdone]
  exact findOp_finishOp_same ho hl

/-- Vector progress with unit `u` done, the units `us` running and no Scaler binding. -/
def VecWork.afterUnit (u : Nat) (us : List Nat) (w : VecWork) : VecWork := ⟨w.doneUnits ++ [u], us, none⟩

/-- The state in which a unit is done and its Cell has begun its next one, before the operation may end. -/
def unitEnded (s : State) (o : Op) (u : Nat) : State :=
  beginUnit (setVec (unitWork s o u) o.ctx o.idx (fun w =>
    { w with doneUnits := w.doneUnits ++ [u], running := w.running.filter (fun x => x != u) })) o.ctx o.idx (cellOfUnit o.d u)

theorem unitDone_eq (s : State) (o : Op) (u : Nat) : unitDone s o u = vecMaybeEnd (unitEnded s o u) o.ctx o.idx := rfl

/-- A unit that is done has written its row, and counts among the units done. -/
theorem unitEnded_spec {s : State} {o : Op} (u : Nat) (ho : findOp s o.ctx o.idx = some o) (hmx : fwMx (vFmtY o.d) = false)
    (hb : (vecOf o).bind = none) :
    (unitEnded s o u).mem = memWriteAll s.mem (bytesWrites (unitAt o.d u) (unitBytes s o u)) ∧
      ∃ us, findOp (unitEnded s o u) o.ctx o.idx = some (o.withVec (VecWork.afterUnit u us)) := by
  obtain ⟨hmem, hfound⟩ := unitWork_spec u ho hmx hb
  obtain ⟨hbegin, us, hus⟩ := beginUnit_spec (cellOfUnit o.d u) (findOp_setVec (fun w =>
    { w with doneUnits := w.doneUnits ++ [u], running := w.running.filter (fun x => x != u) }) hfound) rfl
  exact ⟨hbegin.trans hmem, us, hus⟩

/-! ### Batches that wait for a Cell (R238) -/

/-- Jointed-body progress changed leaves every other operation. -/
theorem findOp_setJb_other (s : State) {c i c' i' : Nat} (h : ¬ (c = c' ∧ i = i')) (f : JbWork → JbWork) :
    findOp (setJb s c' i' f) c i = findOp s c i := findOp_updOp_other s _ h (fun _ => ⟨rfl, rfl⟩)

/-- An operation without an active batch stays as it is while batches begin, and so does memory. -/
theorem beginBatch_spec {s : State} {c i : Nat} {o : Op} (ho : findOp s c i = some o) (hj : (jbOf o).active = false)
    (c' i' cell : Nat) : findOp (beginBatch s c' i' cell) c i = some o ∧ (beginBatch s c' i' cell).mem = s.mem := by
  by_cases h : c = c' ∧ i = i'
  · obtain ⟨rfl, rfl⟩ := h
    have hsame : beginBatch s c i cell = s := by simp [beginBatch, ho, hj]
    rw [hsame]
    exact ⟨ho, rfl⟩
  · unfold beginBatch
    split
    · exact ⟨ho, rfl⟩
    · split
      · exact ⟨ho, rfl⟩
      · split
        · exact ⟨(findOp_setJb_other s h _).trans ho, rfl⟩
        · exact ⟨ho, rfl⟩

/-- A vector operation stays as it is while batches begin on a Cell, and so does memory. -/
theorem wakeBatches_spec {s : State} {c i : Nat} {o : Op} {m : List Host.Cell} (hj : (jbOf o).active = false)
    (h : findOp s c i = some o ∧ s.mem = m) (cell : Nat) :
    findOp (wakeBatches s cell) c i = some o ∧ (wakeBatches s cell).mem = m := by
  refine List.foldlRecOn (motive := fun t => findOp t c i = some o ∧ t.mem = m) s.ops _ h fun t ht p _ => ?_
  split
  · split
    · obtain ⟨hfound, hmem⟩ := beginBatch_spec ht.1 hj p.ctx p.idx cell
      exact ⟨hfound, hmem.trans ht.2⟩
    · exact ht
  · exact ht

end Sys2Proof.Machine
end

section
/-!
O41. CHAIN, REDUCE_TREE and VECTOR_UNIT_DONE: the rows that they write, from the laws above.
-/

namespace Sys2Proof.Machine

/-- The memory in which a unit's row has been written. -/
def rowWritten (s : State) (o : Op) (u : Nat) : List Host.Cell :=
  memWriteAll s.mem (bytesWrites (unitAt o.d u) (unitBytes s o u))

/-- A unit's row leaves every byte outside it. -/
theorem memRead_rowWritten_out {s : State} (hs : memWf s.mem = true) (o : Op) (u : Nat) {a : Nat}
    (ha : a < unitAt o.d u ∨ unitAt o.d u + packedLen (fmtWidth (fwFmtD (vFmtY o.d))) (unitElems o.d u).length ≤ a) :
    memRead (rowWritten s o u) a = memRead s.mem a := memRead_bytesWrites_out hs (by rwa [length_unitBytes])

/-! ### One unit of several -/

/-- VECTOR_UNIT_DONE for the unit that a Cell runs. -/
theorem exec_vectorUnitDone {s : State} {cell c i u : Nat} {o : Op} (ho : findOp s c i = some o) (hr : opRuns o = true)
    (hu : unitsHeld s = false) (hc : (cellGet s cell).stopped = false)
    (hk : (vecOf o).running.find? (fun u => cellOfUnit o.d u == cell) = some u) :
    exec (.vectorUnitDone cell c i) s = .next (if opWaits s o then s
      else wakeBatches (onSide s c i (fun t => holdTrain t (unitDone t o u) c i)) cell) := by
  show execVectorUnitDone cell c i s = _
  rw [execVectorUnitDone, ho]
  dsimp only
  rw [hk, if_neg (by simp [hr, hu, hc])]

/-- A unit's end leaves its row in memory, but for training state, and the unit among those done. -/
theorem unitDone_leaves {s : State} (hs : memWf s.mem = true) {o : Op} (u : Nat) (ho : findOp s o.ctx o.idx = some o)
    (hmx : fwMx (vFmtY o.d) = false) (hb : (vecOf o).bind = none) :
    let w := onSide s o.ctx o.idx (fun t => holdTrain t (unitDone t o u) o.ctx o.idx)
    (∃ p v, findOp w o.ctx o.idx = some p ∧ p.work = .vec v ∧ v.doneUnits = (vecOf o).doneUnits ++ [u]) ∧
      ∀ a, (∀ r ∈ unitRows o.d u, a < r.1 ∨ r.1 + packedLen (fmtWidth (fwFmtD (vFmtY o.d))) r.2 ≤ a) →
        memRead w.mem a = memRead s.mem a := by
  obtain ⟨t, hops, hmem, hside, hfound⟩ := onSide_spec (fun t => holdTrain t (unitDone t o u) o.ctx o.idx) ho
  have hto : findOp t o.ctx o.idx = some o := (findOp_congr hops _ _).trans ho
  obtain ⟨hrow, us, hus⟩ := unitEnded_spec u hto hmx hb
  obtain ⟨hend, e, r, hp⟩ := vecMaybeEnd_spec hus
  obtain ⟨ws, hheld⟩ := findOp_holdTrain_same (s := t) hp
  obtain ⟨side, hw⟩ := hfound _ hheld
  refine ⟨⟨_, _, hw, rfl, rfl⟩, fun a ha => ?_⟩
  have htwf : memWf t.mem = true := hmem ▸ hs
  have hdone : (unitDone t o u).mem = rowWritten t o u := by rw [unitDone_eq, hend, hrow, rowWritten]
  have hout : memRead (rowWritten t o u) a = memRead t.mem a :=
    memRead_rowWritten_out htwf o u (ha _ (List.mem_singleton.mpr rfl))
  rw [hside, memRead_holdTrain _ _ _ (hdone ▸ memWriteAll_wf _ _ htwf), hdone, hout, ite_self, hmem]

/-! ### The only unit -/

/-- What is left of an operation of one unit that runs is that unit. -/
theorem vecRunAll_oneUnit {s : State} {o : Op} (ho : findOp s o.ctx o.idx = some o) (hr : opRuns o = true)
    (hw : o.work = .vec ⟨[], [0], none⟩) (ha : o.away = []) (hu : unitsHeld s = false) (hslot : slotOver s o = false)
    (hone : vUnits o.d = 1) : vecRunAll s o = unitDone s o 0 := by
  have hvec : vecOf o = ⟨[], [0], none⟩ := by rw [vecOf, hw]
  unfold vecRunAll
  simp [hslot, hu, ha, hone, ho, hr, hvec]

/-- CHAIN and REDUCE_TREE run what is left of their operation. -/
theorem exec_vector {s : State} {c i : Nat} {o : Op} (ho : findOp s c i = some o) (hr : opRuns o = true)
    (hop : dOpcode o.d = 0x0200 ∨ dOpcode o.d = 0x0210) (hw : opWaits s o = false) :
    exec (if dOpcode o.d = 0x0200 then .chain c i else .reduceTree c i) s = .next (vecWhole s o) := by
  have hrun : runningOp s c i (dOpcode o.d) = some o := by simp [runningOp, ho, hr, hw]
  rcases hop with h | h <;> rw [h] at hrun ⊢
  · exact congrArg _ (onOp_running _ hrun)
  · exact congrArg _ (onOp_running _ hrun)

/-- The outputs of the only unit are all the outputs. -/
theorem unitElems_zero {d : Desc} (h : vOuts d ≤ 8192) : unitElems d 0 = List.range (vOuts d) := by
  simp [unitElems, Nat.min_eq_right h]

/-- The row of the only unit begins where the output does. -/
theorem unitAt_zero (d : Desc) : unitAt d 0 = vOut d := by
  unfold unitAt packedLen
  split
  · rfl
  · split <;> simp

/-- What is left of an operation of one unit leaves its row in memory, and the operation ended with DONE. -/
theorem vecWhole_oneUnit {s : State} {o : Op} (ht : trainRegions s = []) (ho : findOp s o.ctx o.idx = some o)
    (hr : opRuns o = true) (hw : o.work = .vec ⟨[], [0], none⟩) (ha : o.away = []) (hreruns : o.reruns = 0)
    (hl : checkLevel o.d ≠ 2) (hmx : fwMx (vFmtY o.d) = false) (hu : unitsHeld s = false) (hslot : slotOver s o = false)
    (hone : vUnits o.d = 1) :
    (∃ p, findOp (vecWhole s o) o.ctx o.idx = some p ∧ p.ended = some ⟨.done, 0⟩) ∧
      (vecWhole s o).mem = rowWritten s o 0 := by
  have hvec : vecOf o = ⟨[], [0], none⟩ := by rw [vecOf, hw]
  obtain ⟨hrow, us, hus⟩ := unitEnded_spec 0 ho hmx (by rw [hvec])
  have hend := findOp_vecMaybeEnd_done hus hl (by rw [Op.withVec_d, hone, vecOf_withVec, hvec]; rfl)
  have hnormal : normalEnd (o.withVec (VecWork.afterUnit 0 us)) = ⟨.done, 0⟩ := by
    simp [normalEnd, skippedAway, Op.withVec, hreruns]
  have hwhole : vecWhole s o = (scopeCells o.d).foldl wakeBatches (unitDone s o 0) := by
    unfold vecWhole
    rw [onSide_plain _ ho hl, holdTrain_eq, ht, vecRunAll_oneUnit ho hr hw ha hu hslot hone]
    rfl
  rw [hwhole]
  obtain ⟨hfound, hmem⟩ := List.foldlRecOn (motive := fun t => findOp t o.ctx o.idx = some _ ∧ t.mem = rowWritten s o 0)
    (scopeCells o.d) wakeBatches ⟨hend, (vecMaybeEnd_spec hus).1.trans hrow⟩ fun t ht cell _ => wakeBatches_spec rfl ht cell
  exact ⟨⟨_, hfound, congrArg some hnormal⟩, hmem⟩

/-- Settles O41: the only unit's row holds the converted outputs, and the end of one of several writes its row alone. -/
theorem vectorWorkWritesItsRow : Obligations.VectorWorkWritesItsRow := by
  intro s hs hu ht
  refine ⟨fun c i o ho hr hop hw hwait ha hreruns hcheck hmx hslot hpos hle => ?whole,
    fun cell c i o k ho hr hc hk hb hmx => ?unit⟩
  case whole =>
    dsimp only
    obtain ⟨rfl, rfl⟩ := findOp_place ho
    have hone : vUnits o.d = 1 := by unfold vUnits ceilDiv; omega
    obtain ⟨⟨p, hp, hended⟩, hmem⟩ :=
      vecWhole_oneUnit ht ho hr hw ha hreruns (checkLevel_ne_two hcheck) hmx hu hslot hone
    have hcodes : unitBytes s o 0 = packRow (fmtWidth (fwFmtD (vFmtY o.d))) ((List.range (vOuts o.d)).map (fun j =>
        (convert (fwFmtD (vFmtY o.d)) (vRnd s o j) (vOutput s o.d j).1).1)) := by
      rw [unitBytes, unitCodes, unitElems_zero hle]
    have hlen : (unitBytes s o 0).length = packedLen (fmtWidth (fwFmtD (vFmtY o.d))) (vOuts o.d) := by
      rw [length_unitBytes, unitElems_zero hle, List.length_range]
    refine ⟨_, p, exec_vector ho hr hop hwait, hp, hended, ?_, fun a ha => ?_⟩
    · rw [hmem, ← hcodes, ← hlen, ← unitAt_zero]
      exact memBytes_bytesWrites hs
    · rw [hmem]
      exact memRead_rowWritten_out hs o 0 (by rwa [unitAt_zero, unitElems_zero hle, List.length_range])
  case unit =>
    have hexec := exec_vectorUnitDone ho hr hu hc hk
    refine ⟨fun hwait => by rw [hexec, if_pos hwait], fun hwait => ?_⟩
    obtain ⟨rfl, rfl⟩ := findOp_place ho
    obtain ⟨⟨p, v, hp, hv, hdone⟩, hout⟩ := unitDone_leaves hs k ho hmx hb
    obtain ⟨hfound, hmem⟩ := wakeBatches_spec (by rw [jbOf, hv]) ⟨hp, rfl⟩ cell
    refine ⟨_, p, by rw [hexec, if_neg (by simp [hwait])], hfound, by rw [vecOf, hv, hdone], fun a ha => ?_⟩
    rw [hmem]
    exact hout a ha

end Sys2Proof.Machine
end

section
/-!
SUPPORT. Laws of the ordered adder's groups (R177 to R183): their lines, a group or a line changed, and what a contribution
comes to by its index.
-/

namespace Sys2Proof.Machine

/-! ### Groups and lines -/

/-- A group with an index used in it. -/
def SumGroup.mark (i : Nat) (x : SumGroup) : SumGroup := if x.used.contains i then x else { x with used := x.used ++ [i] }

/-- A group with one of its lines written. -/
def SumGroup.withLine (y : SumLine) (x : SumGroup) : SumGroup :=
  { x with touched := x.touched.filter (fun z => z.line != y.line) ++ [y] }

/-- A line that has added its next contribution. -/
def SumLine.advance (y : SumLine) : SumLine := { y with next := y.next + 1 }

/-- A line that holds one more early contribution. -/
def SumLine.hold (e : Early) (y : SumLine) : SumLine := { y with early := y.early ++ [e] }

/-- A line that is counted as overdue for its next index. -/
def SumLine.late (y : SumLine) : SumLine := { y with overdue := some y.next }

/-- An index that is used changes nothing else of its group. -/
theorem SumGroup.mark_frame (i : Nat) (x : SumGroup) : x.mark i = { x with used := (x.mark i).used } := by
  unfold mark
  split <;> rfl

@[simp] theorem SumGroup.mark_id (i : Nat) (x : SumGroup) : (x.mark i).id = x.id := by rw [mark_frame]
@[simp] theorem SumGroup.mark_ctx (i : Nat) (x : SumGroup) : (x.mark i).ctx = x.ctx := by rw [mark_frame]
@[simp] theorem SumGroup.mark_idx (i : Nat) (x : SumGroup) : (x.mark i).idx = x.idx := by rw [mark_frame]
@[simp] theorem SumGroup.mark_lines (i : Nat) (x : SumGroup) : (x.mark i).lines = x.lines := by rw [mark_frame]
@[simp] theorem SumGroup.mark_int (i : Nat) (x : SumGroup) : (x.mark i).int = x.int := by rw [mark_frame]
@[simp] theorem SumGroup.mark_p (i : Nat) (x : SumGroup) : (x.mark i).p = x.p := by rw [mark_frame]
@[simp] theorem SumGroup.mark_touched (i : Nat) (x : SumGroup) : (x.mark i).touched = x.touched := by rw [mark_frame]

@[simp] theorem lineOff_mark (i : Nat) (x : SumGroup) (l : Nat) : lineOff (x.mark i) l = lineOff x l := by
  rw [SumGroup.mark_frame]
  rfl

@[simp] theorem lineGet_mark (i : Nat) (x : SumGroup) (l : Nat) : lineGet (x.mark i) l = lineGet x l := by
  unfold lineGet
  rw [SumGroup.mark_touched]

theorem markUsed_eq (s : State) (g i : Nat) : markUsed s g i = groupUpd s g (SumGroup.mark i) := rfl

/-- The open group that was changed. -/
theorem groupGet_groupUpd {s : State} {g : Nat} {x : SumGroup} {f : SumGroup → SumGroup} (hx : groupGet s g = some x)
    (hf : ∀ z, (f z).id = z.id) : groupGet (groupUpd s g f) g = some (f x) := by
  have hid : (x.id == g) = true := by simpa using List.find?_some (show s.groups.find? (fun z => z.id == g) = some x from hx)
  have e := find?_map_of (fun z => z.id == g) (fun z => if z.id == g then f z else z) s.groups
    (fun z => by split <;> simp [hf])
  unfold groupGet at hx ⊢
  unfold groupUpd
  dsimp only
  rw [e, hx, Option.map_some, if_pos hid]

theorem groupGet_markUsed {s : State} {g : Nat} {x : SumGroup} (i : Nat) (hx : groupGet s g = some x) :
    groupGet (markUsed s g i) g = some (x.mark i) :=
  groupGet_groupUpd hx (SumGroup.mark_id i)

theorem groupGet_linePut {s : State} {g : Nat} {x : SumGroup} (y : SumLine) (hx : groupGet s g = some x) :
    groupGet (linePut s g y) g = some (x.withLine y) := groupGet_groupUpd hx fun _ => rfl

/-- A line carries its own number. -/
@[simp] theorem line_lineGet (x : SumGroup) (l : Nat) : (lineGet x l).line = l := by
  unfold lineGet
  cases h : x.touched.find? (fun y => y.line == l) with
  | none => rfl
  | some y => simpa using List.find?_some h

/-- A line reads back as written. -/
theorem lineGet_withLine {x : SumGroup} {y : SumLine} {l : Nat} (h : y.line = l) : lineGet (x.withLine y) l = y := by
  have hnone : (x.touched.filter (fun z => z.line != y.line)).find? (fun z => z.line == l) = none := by
    rw [List.find?_eq_none, h]
    simp
  unfold lineGet SumGroup.withLine
  rw [List.find?_append, hnone]
  simp [h]

/-- An index that is used leaves what the stacks hold. -/
theorem heldBy_markUsed (s : State) (g i stack : Nat) : heldBy (markUsed s g i) stack = heldBy s stack := by
  rw [markUsed_eq]
  unfold heldBy groupUpd
  rw [List.foldl_map]
  refine congrArg (fun f => s.groups.foldl f 0) (funext fun n => funext fun x => ?_)
  split
  · simp only [SumGroup.mark_touched, lineOff_mark]
  · rfl

/-! ### A contribution by its index (R178, R179) -/

/-- A line refuses an index beyond its window, or any where its stack has no room. -/
theorem omaRefuses_marked (s : State) (g i l : Nat) (x : SumGroup) :
    omaRefuses (markUsed s g i) (x.mark i) (lineGet x l) i = true ↔
      (lineGet x l).next + 64 < i ∨ 2048 ≤ heldBy s (stackOf (lineOff x l)) := by
  simp [omaRefuses, heldBy_markUsed]

/-- The state in which the next contribution of a line has been added and acknowledged. -/
def addedAndAcked (s : State) (g i l : Nat) (x : SumGroup) (d : List Byte) (src c k : Nat) : State :=
  omaAck (linePut (omaApply (markUsed s g i) (x.mark i) (lineGet x l) d) g (lineGet x l).advance) src c k

section Arrive
variable {s : State} {g i l : Nat} {x : SumGroup} (hx : groupGet s g = some x) (hl : l < x.lines) (hi : i < x.p)
include hx hl hi

/-- The three things that may become of a contribution that a line has not taken: added, refused, or held. -/
theorem omaArrive_eq (d : List Byte) (src c k : Nat) :
    omaArrive s g i l d src c k =
      if i < (lineGet x l).next ∨ (lineGet x l).early.any (fun e => e.index == i) = true then markUsed s g i
      else if i = (lineGet x l).next then
        groupMaybeEnd (omaDrain 65 (addedAndAcked s g i l x d src c k) g l) g
      else if omaRefuses (markUsed s g i) (x.mark i) (lineGet x l) i = true then
        let mill := omaMill (stackOf (lineOff x l))
        let t := event (countF (markUsed s g i) mill Reg.omaRefused_count 0 1) mill 0x06 1
        if src = s.chip then { t with resends := s.resends ++ [⟨g, i, l, s.chip, d, c, k, s.time.tai⟩] }
        else sendMsg t 7 src 0 ⟨s.chip, c, k, .refused g i l⟩
      else linePut (markUsed s g i) g ((lineGet x l).hold ⟨i, d, s.time.tai, src, c, k⟩) := by
  have hresends : ∀ f, (event (countF (markUsed s g i) f Reg.omaRefused_count 0 1) f 0x06 1).resends = s.resends :=
    fun f => (congrArg State.resends
      ((countF_regsOnly (markUsed s g i) f 0 1 (by decide)).trans (event_regsOnly _ _ _ _))).trans rfl
  unfold omaArrive omaTake
  rw [groupGet_markUsed i hx]
  dsimp only
  rw [lineGet_mark, SumGroup.mark_lines, SumGroup.mark_p, lineOff_mark, hresends]
  simp only [Nat.not_le.mpr hl, Nat.not_le.mpr hi, false_or]
  rfl

end Arrive

end Sys2Proof.Machine
end

section
/-!
SUPPORT. What the adder writes (R155, R177, R181, R182): a line added to, the writes that its SUM_OPEN holds, the
acknowledgement, and the end of a group.
-/

namespace Sys2Proof.Machine

/-! ### The writes that operations hold -/

/-- The writes that the operation of a context and index holds, where there is one. -/
def writesOf (s : State) (c i : Nat) : Option (List Host.Cell) := (findOp s c i).map (fun o => o.writes)

theorem writesOf_of_findOp {s : State} {c i : Nat} {o : Op} (h : findOp s c i = some o) :
    writesOf s c i = some o.writes := by
  rw [writesOf, h, Option.map_some]

theorem exists_findOp_of_writesOf {s : State} {c i : Nat} {ws : List Host.Cell} (h : writesOf s c i = some ws) :
    ∃ o, findOp s c i = some o ∧ o.writes = ws := Option.map_eq_some_iff.mp h

/-- Memory, groups and held writes are the same in both states. -/
def SameLines (s t : State) : Prop := t.mem = s.mem ∧ t.groups = s.groups ∧ ∀ c i, writesOf t c i = writesOf s c i

theorem SameLines.refl (s : State) : SameLines s s := ⟨rfl, rfl, fun _ _ => rfl⟩

theorem SameLines.trans {s t u : State} (h : SameLines s t) (k : SameLines t u) : SameLines s u := by
  obtain ⟨hm, hg, hw⟩ := h
  obtain ⟨km, kg, kw⟩ := k
  exact ⟨km.trans hm, kg.trans hg, fun c i => (kw c i).trans (hw c i)⟩

theorem RegsOnly.sameLines {s t : State} (h : RegsOnly s t) : SameLines s t := by
  rw [show t = _ from h]
  exact .refl s

/-- A change of an operation that keeps its place and its held writes. -/
theorem updOp_sameLines (s : State) (c i : Nat) {f : Op → Op}
    (hf : ∀ p, (f p).ctx = p.ctx ∧ (f p).idx = p.idx ∧ (f p).writes = p.writes) : SameLines s (updOp s c i f) := by
  refine ⟨rfl, rfl, fun a b => ?_⟩
  have e := find?_map_of (isOp a b) (fun p => if isOp c i p then f p else p) s.ops
    (fun p => by split <;> simp [isOp, hf])
  unfold writesOf findOp updOp
  dsimp only
  rw [e, Option.map_map]
  refine congrArg (fun h => (s.ops.find? (isOp a b)).map h) (funext fun p => ?_)
  rw [Function.comp_apply]
  split
  · exact (hf p).2.2
  · rfl

theorem setWork_sameLines (s : State) (c i : Nat) (w : Work) : SameLines s (updOp s c i (fun p => { p with work := w })) :=
  updOp_sameLines s c i fun _ => ⟨rfl, rfl, rfl⟩

theorem finishOp_sameLines (s : State) (c i : Nat) : SameLines s (finishOp s c i) :=
  updOp_sameLines s c i fun p => by split <;> exact ⟨rfl, rfl, rfl⟩

theorem flagCell_sameLines (s : State) (n : Nat) (b : Bool) : SameLines s (flagCell s n b) := by
  unfold flagCell
  split <;> exact .refl s

theorem omaSat_regsOnly (s : State) (mill n : Nat) : RegsOnly s (omaSat s mill n) := by
  unfold omaSat
  split
  · exact .refl s
  · exact (countF_regsOnly s mill 0 n (by decide)).trans (setF_regsOnly _ mill 0 1 (by decide))

theorem remoteDone_sameLines (s : State) (c i : Nat) (skip : Bool) : SameLines s (remoteDone s c i skip) := by
  unfold remoteDone
  split
  · split
    · split
      · exact .refl s
      · split
        · exact (setWork_sameLines s c i _).trans (finishOp_sameLines _ c i)
        · exact setWork_sameLines s c i _
    · exact .refl s
  · exact .refl s

/-- An acknowledgement writes nothing. -/
theorem omaAck_sameLines (s : State) (src c i : Nat) : SameLines s (omaAck s src c i) := by
  unfold omaAck
  split
  · exact remoteDone_sameLines s c i false
  · exact .refl s

/-- A group that may end writes nothing, and stays as it is unless it closes. -/
theorem groupMaybeEnd_leaves (s : State) (g : Nat) : (groupMaybeEnd s g).mem = s.mem ∧
    (∀ c i, writesOf (groupMaybeEnd s g) c i = writesOf s c i) ∧
    ∀ z, groupGet (groupMaybeEnd s g) g = some z → groupGet s g = some z := by
  unfold groupMaybeEnd
  split
  · next x hx =>
    split
    · obtain ⟨hmem, -, hwrites⟩ :=
        finishOp_sameLines { s with groups := s.groups.filter (fun z => z.id != g) } x.ctx x.idx
      refine ⟨hmem, hwrites, fun z hz => ?_⟩
      have hnone : (s.groups.filter (fun z => z.id != g)).find? (fun z => z.id == g) = none := by
        rw [List.find?_eq_none]
        simp
      exact nomatch hnone.symm.trans hz
    · exact ⟨rfl, fun _ _ => rfl, fun _ hz => hz⟩
  · exact ⟨rfl, fun _ _ => rfl, fun _ hz => hz⟩

/-- Where a line holds no early contribution, none is added after the one that came. -/
theorem omaDrain_idle {s : State} {g l : Nat} {z : SumGroup} (hz : groupGet s g = some z) (he : (lineGet z l).early = [])
    (n : Nat) : omaDrain n s g l = s := by
  cases n with
  | zero => rfl
  | succ n => simp [omaDrain, hz, he]

/-! ### One contribution added (R177) -/

/-- The bytes of a line after a contribution has been added to it. -/
def lineBytes (base : State) (x : SumGroup) (l : Nat) (d : List Byte) : List Byte :=
  (omaSum x.int (fun j => rdNat base (lineOff x l + 4 * j) 4) (lineWord d)).flatMap (fun r => leBytes 4 r.1)

/-- The sums of a line, four bytes each. -/
theorem lineBytes_eq (base : State) (x : SumGroup) (l : Nat) (d : List Byte) : lineBytes base x l d =
    (List.range 16).flatMap (fun j => leBytes 4 (omaAdd x.int (rdNat base (lineOff x l + 4 * j) 4) (lineWord d j)).1) :=
  List.flatMap_map ..

/-- Of strings of one length in a row, those before the `j`-th, the `j`-th, and those after it. -/
theorem flatMap_range_split {n w : Nat} {f : Nat → List Byte} (hf : ∀ j, (f j).length = w) {j : Nat} (hj : j < n) :
    ∃ pre post, (List.range n).flatMap f = pre ++ (f j ++ post) ∧ pre.length = w * j := by
  refine ⟨(List.range j).flatMap f, (List.range (n - j - 1)).flatMap (fun k => f (j + 1 + k)), ?_, ?_⟩
  · obtain ⟨m, rfl⟩ := Nat.exists_eq_add_of_lt hj
    rw [show j + m + 1 = j + (1 + m) by omega, List.range_add, show j + (1 + m) - j - 1 = m by omega, List.flatMap_append,
      List.flatMap_map, List.range_add, List.flatMap_append, List.flatMap_map]
    simp [Nat.add_assoc]
  · simp [List.length_flatMap, hf, Nat.mul_comm]

theorem length_lineBytes (base : State) (x : SumGroup) (l : Nat) (d : List Byte) : (lineBytes base x l d).length = 64 := by
  simp [lineBytes_eq, List.length_flatMap]

/-- Each word of a line is the sum of what it held and the contribution's word. -/
theorem memNat_lineBytes {m : List Host.Cell} (hm : memWf m = true) (base : State) (x : SumGroup) (l : Nat) (d : List Byte)
    {j : Nat} (hj : j < 16) :
    memNat (memWriteAll m (bytesWrites (lineOff x l) (lineBytes base x l d))) (lineOff x l + 4 * j) 4 =
      (omaAdd x.int (rdNat base (lineOff x l + 4 * j) 4) (lineWord d j)).1 % 2 ^ 32 := by
  obtain ⟨pre, post, hsplit, hlen⟩ := flatMap_range_split (w := 4) (f := fun j =>
    leBytes 4 (omaAdd x.int (rdNat base (lineOff x l + 4 * j) 4) (lineWord d j)).1) (fun _ => length_leBytes _ _) hj
  exact memNat_bytesWrites_part hm ((lineBytes_eq base x l d).trans hsplit) (by rw [hlen])

theorem holdOver_groups (s t : State) (c i : Nat) (held : List Host.Cell) : (holdOver s t c i held).groups = t.groups := rfl

/-- Nothing is held where there is neither training state nor a write held before. -/
theorem holdOver_free {s : State} (hs : trainRegions s = []) (t : State) (c i : Nat) :
    holdOver s t c i [] = updOp t c i (fun o => { o with writes := [] }) := by
  unfold holdOver
  rw [hs]
  simp [memWriteAll]

/-- What an addition counts and flags writes nothing. -/
theorem addCounted_sameLines (s : State) (mill n cell : Nat) (b : Bool) :
    SameLines s (flagCell (event (omaSat s mill n) mill 0x05 1) cell b) :=
  ((omaSat_regsOnly s mill n).trans (event_regsOnly _ _ _ _)).sameLines.trans (flagCell_sameLines _ _ _)

/-- The state in which a contribution has been added to a line, over the writes that an operation holds. -/
def lineAdded (s : State) (o : Op) (x : SumGroup) (l : Nat) (d : List Byte) : State :=
  wrMem (overlaid s o) (bytesWrites (lineOff x l) (lineBytes (overlaid s o) x l d))

@[simp] theorem overlaid_ops (s : State) (o : Op) : (overlaid s o).ops = s.ops := rfl
@[simp] theorem overlaid_groups (s : State) (o : Op) : (overlaid s o).groups = s.groups := rfl

theorem lineAdded_ops (s : State) (o : Op) (x : SumGroup) (l : Nat) (d : List Byte) : (lineAdded s o x l d).ops = s.ops := by
  rw [lineAdded, wrMem_ops, overlaid_ops]

theorem lineAdded_groups (s : State) (o : Op) (x : SumGroup) (l : Nat) (d : List Byte) :
    (lineAdded s o x l d).groups = s.groups := by rw [lineAdded, wrMem_groups, overlaid_groups]

theorem lineAdded_mem (s : State) (o : Op) (x : SumGroup) (l : Nat) (d : List Byte) : (lineAdded s o x l d).mem =
    memWriteAll (overlaid s o).mem (bytesWrites (lineOff x l) (lineBytes (overlaid s o) x l d)) := by
  rw [lineAdded, wrMem_mem]

/-- The contribution is added, what is held is held again, and the addition is counted and flagged. -/
theorem omaApply_sameLines {s : State} {x : SumGroup} {o : Op} (ho : findOp s x.ctx x.idx = some o) (y : SumLine)
    (d : List Byte) :
    SameLines (holdOver s (lineAdded s o x y.line d) x.ctx x.idx o.writes) (omaApply s x y d) := by
  have hgroup : groupOp s x = (o.writes, dEval o.d) := by rw [groupOp, ho]
  unfold omaApply
  rw [hgroup]
  exact addCounted_sameLines _ _ _ _ _

/-- A contribution added: over the writes that its SUM_OPEN holds, the line's bytes are the sums, and all else reads as
before. -/
theorem omaApply_leaves {s : State} (hs : memWf s.mem = true) {x : SumGroup} {o : Op} (ho : findOp s x.ctx x.idx = some o)
    (y : SumLine) (d : List Byte) :
    ∃ ws, writesOf (omaApply s x y d) x.ctx x.idx = some ws ∧ (omaApply s x y d).groups = s.groups ∧
      (∀ a, memRead (memWriteAll (omaApply s x y d).mem ws) a = memRead (lineAdded s o x y.line d).mem a) ∧
      (trainRegions s = [] → o.writes = [] → ws = []) := by
  have hwf : memWf (lineAdded s o x y.line d).mem = true := by
    rw [lineAdded_mem]
    exact memWriteAll_wf _ _ (memWriteAll_wf _ _ hs)
  have hfound : findOp (lineAdded s o x y.line d) x.ctx x.idx = some o :=
    (findOp_congr (lineAdded_ops s o x _ d) _ _).trans ho
  obtain ⟨ws, hws, hread⟩ := memRead_holdOver (s := s) x.ctx x.idx o.writes hwf hfound
  obtain ⟨hmem, hgroups, hwrites⟩ := omaApply_sameLines ho y d
  refine ⟨ws, (hwrites _ _).trans (writesOf_of_findOp hws), ?_, fun a => ?_, fun htrain hnone => ?_⟩
  · rw [hgroups, holdOver_groups, lineAdded_groups]
  · rw [hmem, hread]
  · rw [hnone, holdOver_free htrain] at hws
    have hfree := findOp_updOp_same _ _ _ (fun o => { o with writes := [] }) hfound (fun _ => ⟨rfl, rfl⟩)
    exact congrArg Op.writes (Option.some_inj.mp (hws.symm.trans hfree))

end Sys2Proof.Machine
end

section
/-!
O43. SUM_OPEN, CONTRIBUTE, OMA_CONTRIBUTION, OMA_RESEND_TIMER and OMA_OVERDUE: what each of them leaves, from the laws above.
-/

namespace Sys2Proof.Machine

/-! ### SUM_OPEN (R181) -/

section SumOpen
variable {s : State} {c i : Nat} {o : Op}

/-- SUM_OPEN with a fault. -/
theorem exec_sumOpen_faulty (ho : runningOp s c i 0x0220 = some o)
    (hn : s.groups.any (fun x => x.ctx == c && x.idx == i) = false) {e : Nat × Nat} (he : sumOpenFault s o.d = some e) :
    exec (.sumOpen c i) s = .next (ctxFault s c i e.1 e.2) := by
  show execSumOpen c i s = _
  rw [execSumOpen, onOp_running _ ho, hn, he]
  rfl

/-- SUM_OPEN without a fault. -/
theorem exec_sumOpen_opens (ho : runningOp s c i 0x0220 = some o)
    (hn : s.groups.any (fun x => x.ctx == c && x.idx == i) = false) (he : sumOpenFault s o.d = none) :
    exec (.sumOpen c i) s =
      .next (openGroup s c i (soGroup o.d) (soTarget o.d) (soLines o.d) (soInt o.d) (soP o.d) (soInit o.d)) := by
  show execSumOpen c i s = _
  rw [execSumOpen, onOp_running _ ho, hn, he]
  rfl

/-- The writes that make a region read as 0. -/
def zeroWrites (m : List Host.Cell) (r : Region) : List Host.Cell :=
  (m.filter (fun c => decide (r.off ≤ c.1 ∧ c.1 < regionEnd r))).map (fun c => (c.1, (0 : Byte)))

theorem zeroRegion_eq (s : State) (c i : Nat) (r : Region) :
    zeroRegion s c i r = holdTrain s (wrMem s (zeroWrites s.mem r)) c i := rfl

/-- They name the bytes of the region that the memory lists. -/
theorem mem_zeroWrites {m : List Host.Cell} {r : Region} {w : Host.Cell} :
    w ∈ zeroWrites m r ↔ w.2 = 0 ∧ (r.off ≤ w.1 ∧ w.1 < regionEnd r) ∧ w.1 ∈ m.map (fun c => c.1) := by
  obtain ⟨a, b⟩ := w
  simp only [zeroWrites, List.mem_map, List.mem_filter, decide_eq_true_eq, Prod.mk.injEq]
  constructor
  · rintro ⟨c, ⟨hc, hr⟩, rfl, rfl⟩
    exact ⟨rfl, hr, c, hc, rfl⟩
  · rintro ⟨rfl, hr, c, hc, rfl⟩
    exact ⟨c, ⟨hc, hr⟩, rfl, rfl⟩

/-- A region zeroed reads as 0, and nothing else changes, where there is no training state. -/
theorem memRead_zeroRegion (hm : memWf s.mem = true) (ht : trainRegions s = []) (c i : Nat) (r : Region) (a : Nat) :
    memRead (zeroRegion s c i r).mem a = if r.off ≤ a ∧ a < regionEnd r then 0 else memRead s.mem a := by
  rw [zeroRegion_eq, holdTrain_eq, ht, List.isEmpty_nil, if_pos rfl, wrMem_mem]
  by_cases hin : ∃ w ∈ zeroWrites s.mem r, w.1 = a
  · rw [memRead_writeAll_agree hm (fun w hw _ => (mem_zeroWrites.mp hw).1) hin]
    obtain ⟨w, hw, rfl⟩ := hin
    rw [if_pos (mem_zeroWrites.mp hw).2.1]
  · rw [memRead_writeAll_other _ _ _ (fun w hw e => hin ⟨w, hw, e⟩) hm]
    split
    · next hr =>
      by_contra hne
      exact hin ⟨(a, 0), mem_zeroWrites.mpr ⟨rfl, hr, mem_keys_of_sparseGet_ne hne⟩, rfl⟩
    · rfl

theorem openGroup_groups (s : State) (c i g target lines : Nat) (int : Bool) (p : Nat) (init : Bool) :
    (openGroup s c i g target lines int p init).groups = s.groups ++ [⟨g, c, i, target, lines, int, p, init, [], []⟩] := by
  rw [openGroup]

/-- With INIT 1 a group opens over what its region holds. -/
theorem openGroup_kept_region (s : State) (c i g target lines : Nat) (int : Bool) (p : Nat) :
    openGroup s c i g target lines int p true = { s with
      groups := s.groups ++ [⟨g, c, i, target, lines, int, p, true, [], []⟩] } := by
  rw [openGroup, if_pos rfl]

/-- With INIT 0 a group opens over its zeroed region. -/
theorem openGroup_zeroed (s : State) (c i g target lines : Nat) (int : Bool) (p : Nat) :
    openGroup s c i g target lines int p false = { zeroRegion s c i ⟨target, 0, 1, 64 * lines⟩ with
      groups := s.groups ++ [⟨g, c, i, target, lines, int, p, false, [], []⟩] } := by
  rw [openGroup, if_neg Bool.false_ne_true]

/-- With INIT 0 the group's region reads as 0, and nothing else changes, where there is no training state. -/
theorem memRead_openGroup (hm : memWf s.mem = true) (ht : trainRegions s = []) (c i g target lines : Nat) (int : Bool)
    (p a : Nat) :
    memRead (openGroup s c i g target lines int p false).mem a =
      if target ≤ a ∧ a < target + 64 * lines then 0 else memRead s.mem a := by
  rw [openGroup_zeroed]
  dsimp only
  rw [memRead_zeroRegion hm ht]
  simp [regionEnd]

theorem findOp_setGroups (s : State) (gs : List SumGroup) (c i : Nat) :
    findOp { s with groups := gs } c i = findOp s c i := rfl

/-- A group that opens leaves its SUM_OPEN but for the writes that it holds. -/
theorem findOp_openGroup (ho : findOp s c i = some o) (g target lines : Nat) (int : Bool) (p : Nat) (init : Bool) :
    ∃ ws, findOp (openGroup s c i g target lines int p init) c i = some { o with writes := ws } := by
  cases init with
  | true =>
    rw [openGroup_kept_region, findOp_setGroups]
    exact ⟨o.writes, ho⟩
  | false =>
    rw [openGroup_zeroed, findOp_setGroups, zeroRegion_eq]
    exact findOp_holdTrain_same ((findOp_congr (wrMem_ops _ _) c i).trans ho)

end SumOpen

/-! ### OMA_CONTRIBUTION (R178, R179) -/

/-- Line bytes are told by the memory that is added to. -/
theorem lineBytes_congr {s t : State} (h : t.mem = s.mem) (x : SumGroup) (l : Nat) (d : List Byte) :
    lineBytes t x l d = lineBytes s x l d := by
  unfold lineBytes rdNat
  rw [h]

/-- An index that is used changes nothing of what an addition writes. -/
theorem lineAdded_marked (s : State) (g i : Nat) (o : Op) (x : SumGroup) (l : Nat) (d : List Byte) :
    (lineAdded (markUsed s g i) o (x.mark i) l d).mem = (lineAdded s o x l d).mem := by
  have hbytes : lineBytes (overlaid s o) (x.mark i) l d = lineBytes (overlaid s o) x l d := by
    unfold lineBytes
    rw [lineOff_mark, SumGroup.mark_int]
  have hmem : (overlaid (markUsed s g i) o).mem = (overlaid s o).mem := rfl
  rw [lineAdded_mem, lineAdded_mem, lineBytes_congr hmem, hbytes, lineOff_mark, hmem]

theorem groupGet_congr {s t : State} (h : t.groups = s.groups) (g : Nat) : groupGet t g = groupGet s g := by
  unfold groupGet
  rw [h]

/-- A contribution that has been added: over the writes that its SUM_OPEN holds, the line's bytes are the sums, all else reads
as before, and the line goes on to the index after it. -/
theorem addedAndAcked_leaves {s : State} {g i l : Nat} {x : SumGroup} {o : Op} (hx : groupGet s g = some x)
    (hs : memWf s.mem = true) (ho : findOp s x.ctx x.idx = some o) (d : List Byte) (src c k : Nat) :
    ∃ ws, writesOf (addedAndAcked s g i l x d src c k) x.ctx x.idx = some ws ∧
      groupGet (addedAndAcked s g i l x d src c k) g = some ((x.mark i).withLine (lineGet x l).advance) ∧
      (∀ a, memRead (memWriteAll (addedAndAcked s g i l x d src c k).mem ws) a = memRead (lineAdded s o x l d).mem a) ∧
      (trainRegions s = [] → o.writes = [] → ws = []) := by
  have hmarked : findOp (markUsed s g i) (x.mark i).ctx (x.mark i).idx = some o := by
    rw [SumGroup.mark_ctx, SumGroup.mark_idx]
    exact ho
  obtain ⟨ws, hws, hgroups, hread, hfree⟩ := omaApply_leaves (s := markUsed s g i) hs hmarked (lineGet x l) d
  rw [SumGroup.mark_ctx, SumGroup.mark_idx] at hws
  obtain ⟨hmem, hagroups, hwrites⟩ :=
    omaAck_sameLines (linePut (omaApply (markUsed s g i) (x.mark i) (lineGet x l) d) g (lineGet x l).advance) src c k
  refine ⟨ws, (hwrites _ _).trans hws, ?_, fun a => ?_, hfree⟩
  · exact (groupGet_congr hagroups g).trans (groupGet_linePut _ ((groupGet_congr hgroups g).trans (groupGet_markUsed i hx)))
  · rw [addedAndAcked, hmem]
    refine (hread a).trans ?_
    rw [line_lineGet, lineAdded_marked]

/-- A refusal changes copy 0 of the registers only, and its count reads one more. -/
theorem refusal_counted {s : State} (hs : s.canonical = true) (g i mill : Nat) :
    let t := event (countF (markUsed s g i) mill Reg.omaRefused_count 0 1) mill 0x06 1
    RegsOnly (markUsed s g i) t ∧ getF t mill Reg.omaRefused_count 0 =
      min (fldTop Reg.omaRefused_count) (getF s mill Reg.omaRefused_count 0 + 1) := by
  have hmarked := (markUsed_kept s g i (.refl s)).canonical hs
  have hcounted := (countF_kept _ mill Reg.omaRefused_count 0 1 (.refl (markUsed s g i))).canonical hmarked
  refine ⟨(countF_regsOnly (markUsed s g i) mill 0 1 (by decide)).trans (event_regsOnly _ _ _ _), ?_⟩
  rw [getF_event_below hcounted (by show mill + 0x0504 + 0 * 0 < _; omega),
    getF_countF_same _ _ _ _ _ hmarked (by decide) (by decide)]
  rfl

section Contribution
variable {s : State} {g i l : Nat} {x : SumGroup} (hx : groupGet s g = some x) (hl : l < x.lines) (hi : i < x.p)
include hx hl hi

/-- A contribution that its line has taken already. -/
theorem contribution_taken (d : List Byte) (src c k : Nat) (h : i < (lineGet x l).next) :
    omaArrive s g i l d src c k = markUsed s g i := by rw [omaArrive_eq hx hl hi, if_pos (.inl h)]

/-- The next contribution of a line that holds none is added, and the line goes on to the index after it. -/
theorem contribution_added (hs : memWf s.mem = true) {o : Op} (ho : findOp s x.ctx x.idx = some o)
    (he : (lineGet x l).early = []) (h : i = (lineGet x l).next) (d : List Byte) (src c k : Nat) :
    let u := omaArrive s g i l d src c k
    ∃ p, findOp u x.ctx x.idx = some p ∧ (∀ z, groupGet u g = some z → (lineGet z l).next = (lineGet x l).next + 1) ∧
      (∀ a, memRead (overlaid u p).mem a = memRead (lineAdded s o x l d).mem a) ∧
      (trainRegions s = [] → o.writes = [] → p.writes = []) := by
  obtain ⟨ws, hws, hgroup, hread, hfree⟩ := addedAndAcked_leaves (i := i) hx hs ho d src c k
  have hline : lineGet ((x.mark i).withLine (lineGet x l).advance) l = (lineGet x l).advance :=
    lineGet_withLine (line_lineGet x l)
  obtain ⟨hmem, hwrites, hstay⟩ := groupMaybeEnd_leaves (addedAndAcked s g i l x d src c k) g
  obtain ⟨p, hp, hpw⟩ := exists_findOp_of_writesOf ((hwrites _ _).trans hws)
  dsimp only
  rw [omaArrive_eq hx hl hi, if_neg (by simp [he, h]), if_pos h, omaDrain_idle hgroup (by rw [hline]; exact he)]
  refine ⟨p, hp, fun z hz => ?_, fun a => ?_, fun ht hn => hpw.trans (hfree ht hn)⟩
  · rw [Option.some_inj.mp ((hstay z hz).symm.trans hgroup), hline]
    rfl
  · rw [overlaid, hmem, hpw]
    exact hread a

/-- A later contribution within the window is held where its stack has room. -/
theorem contribution_held (he : (lineGet x l).early = []) (hlt : (lineGet x l).next < i)
    (hwin : i ≤ (lineGet x l).next + 64) (hroom : heldBy s (stackOf (lineOff x l)) < 2048) (d : List Byte) (src c k : Nat) :
    omaArrive s g i l d src c k = linePut (markUsed s g i) g ((lineGet x l).hold ⟨i, d, s.time.tai, src, c, k⟩) := by
  rw [omaArrive_eq hx hl hi, if_neg (by simp [he]; omega), if_neg (by omega), if_neg (by rw [omaRefuses_marked]; omega)]

/-- A contribution refused is counted, and put up for sending again or sent back. -/
theorem contribution_refused (hs : s.canonical = true) (he : (lineGet x l).early = []) (hlt : (lineGet x l).next < i)
    (hno : (lineGet x l).next + 64 < i ∨ 2048 ≤ heldBy s (stackOf (lineOff x l))) (d : List Byte) (src c k : Nat) :
    let u := omaArrive s g i l d src c k
    (src = s.chip → u.resends = s.resends ++ [⟨g, i, l, s.chip, d, c, k, s.time.tai⟩] ∧ u.txq = s.txq) ∧
      (src ≠ s.chip → u.resends = s.resends ∧
        u.txq.map (fun m => m.msg) = s.txq.map (fun m => m.msg) ++ [⟨s.chip, c, k, .refused g i l⟩]) ∧
      getF u (omaMill (stackOf (lineOff x l))) Reg.omaRefused_count 0 =
        min (fldTop Reg.omaRefused_count) (getF s (omaMill (stackOf (lineOff x l))) Reg.omaRefused_count 0 + 1) ∧
      u = { s with groups := u.groups, resends := u.resends, txq := u.txq, regs := u.regs } := by
  obtain ⟨hframe, hcount⟩ := refusal_counted hs g i (omaMill (stackOf (lineOff x l)))
  dsimp only
  rw [omaArrive_eq hx hl hi, if_neg (by simp [he]; omega), if_neg (by omega),
    if_pos ((omaRefuses_marked s g i l x).mpr hno)]
  dsimp only
  generalize event (countF (markUsed s g i) _ Reg.omaRefused_count 0 1) _ 0x06 1 = t at hframe hcount
  rw [show t = _ from hframe] at hcount ⊢
  split
  · next hsrc => exact ⟨fun _ => ⟨rfl, rfl⟩, fun h => absurd hsrc h, hcount, rfl⟩
  · next hsrc => exact ⟨fun h => absurd h hsrc, fun _ => ⟨rfl, List.map_append⟩, hcount, rfl⟩

end Contribution

/-! ### CONTRIBUTE (R182, R183) -/

section Contribute
variable {s : State} {c i : Nat} {o : Op}

/-- CONTRIBUTE with a fault that its own chip finds. -/
theorem exec_contribute_faulty (ho : runningOp s c i 0x0221 = some o) (hw : o.work = .none) {e : Nat × Nat}
    (he : contributeFault s o.d = some e) : exec (.contribute c i) s = .next (ctxFault s c i e.1 e.2) := by
  show execContribute c i s = _
  rw [execContribute, onOp_running _ ho, if_neg (not_not.mpr hw), he]

/-- CONTRIBUTE without a fault: its lines leave, or the group's chip is asked. -/
theorem exec_contribute_goes (ho : runningOp s c i 0x0221 = some o) (hw : o.work = .none)
    (he : contributeFault s o.d = none) :
    exec (.contribute c i) s = .next (if ctChip o.d = s.chip then ctSendAll (markUsed s (ctGroup o.d) (ctIndex o.d)) o
      else sendMsg (updOp s c i (fun p => { p with work := .asking })) 4 (ctChip o.d) 0
        ⟨s.chip, c, i, .groupCheck (ctGroup o.d) (ctIndex o.d) (ctLines o.d)⟩) := by
  show execContribute c i s = _
  rw [execContribute, onOp_running _ ho, if_neg (not_not.mpr hw), he]

/-- A verdict that names a fault ends a CONTRIBUTE that asked. -/
theorem takeVerdict_fault (ho : findOp s c i = some o) (hr : opRuns o = true) {code : Nat} (hc : code ≠ 0) (off : Nat) :
    takeVerdict s c i code off = ctxFault s c i code off := by
  rw [takeVerdict, ho]
  simp [hr, hc]

/-- A verdict of 0 lets the lines of a CONTRIBUTE that asked leave. -/
theorem takeVerdict_ok (ho : findOp s c i = some o) (hr : opRuns o = true) (hop : dOpcode o.d = 0x0221)
    (hw : o.work = .asking) (off : Nat) : takeVerdict s c i 0 off = ctSendAll s o := by
  rw [takeVerdict, ho]
  simp [hr, hw, hop]

/-- The message that carries a line of a CONTRIBUTE to another chip. -/
def lineMsg (s : State) (o : Op) (l : Nat) : Msg :=
  ⟨s.chip, o.ctx, o.idx, .adder (ctGroup o.d) (ctIndex o.d) l (rdBytes s (ctSrc o.d + 64 * l) 64)⟩

/-- That message as it waits for a frame slot. -/
def lineTx (s : State) (o : Op) (l : Nat) : TxMsg :=
  ⟨4, ctChip o.d, s.stand, none, 0, msgPayload 4 (lineMsg s o l), lineMsg s o l⟩

/-- Lines for another chip wait in their order, and nothing else changes. -/
theorem foldl_ctSend_remote (h : ctChip o.d ≠ s.chip) (ls : List Nat) :
    ls.foldl (fun t l => ctSend t o l) s = { s with txq := s.txq ++ ls.map (lineTx s o) } := by
  induction ls generalizing s with
  | nil => simp
  | cons l ls ih =>
    have hsend : ctSend s o l = { s with txq := s.txq ++ [lineTx s o l] } := by
      rw [ctSend, if_neg h]
      rfl
    have htx : lineTx { s with txq := s.txq ++ [lineTx s o l] } o = lineTx s o := rfl
    rw [List.foldl_cons, hsend, ih (s := { s with txq := s.txq ++ [lineTx s o l] }) h, htx, List.map_cons]
    simp

/-- All lines of a CONTRIBUTE to another chip leave, and it waits for as many acknowledgements. -/
theorem ctSendAll_remote (h : ctChip o.d ≠ s.chip) : ctSendAll s o =
    { updOp s o.ctx o.idx (fun p => { p with work := .remote (ctLines o.d) false }) with
      txq := s.txq ++ (List.range (ctLines o.d)).map (lineTx s o) } :=
  foldl_ctSend_remote (s := updOp s o.ctx o.idx (fun p => { p with work := .remote (ctLines o.d) false })) h _

end Contribute

/-! ### OMA_RESEND_TIMER and OMA_OVERDUE (R179, R180) -/

/-- OMA_RESEND_TIMER for a contribution that waits to be sent again. -/
theorem exec_omaResendTimer {s : State} {g i l : Nat} {r : Resend}
    (h : s.resends.find? (fun r => r.group == g && r.index == i && r.line == l) = some r) :
    let t := { s with resends := s.resends.filter (fun q => !(q.group == g && q.index == i && q.line == l)) }
    exec (.omaResendTimer g i l) s = .next (if timeCome s (r.at_ + 1000) = false then s
      else if r.chip = s.chip then omaArrive t g i l r.data s.chip r.ctx r.idx
      else sendMsg t 4 r.chip 0 ⟨s.chip, r.ctx, r.idx, .adder g i l r.data⟩) := by
  show execOmaResendTimer g i l s = _
  rw [execOmaResendTimer, h]
  simp only [Bool.not_eq_true']

/-- OMA_OVERDUE for a line that holds early contributions. -/
theorem exec_omaOverdue {s : State} {g l t : Nat} {x : SumGroup} (hx : groupGet s g = some x)
    (ht : overdueAt s (lineGet x l) = some t) :
    exec (.omaOverdue g l) s = .next (if timeCome s t = false ∨ (lineGet x l).overdue = some (lineGet x l).next then s
      else countF (linePut s g (lineGet x l).late) (omaMill (stackOf (lineOff x l)))
        Reg.omaOverdue_count 0 1) := by
  show execOmaOverdue g l s = _
  rw [execOmaOverdue, hx]
  dsimp only
  rw [ht]
  simp only [Bool.or_eq_true, Bool.not_eq_true', beq_iff_eq]
  rfl

/-- Settles O43, one law for each command: a group opens, a contribution is taken already, added, held or refused by its
index, lines leave for another chip, a refused one is sent again, and a line is counted overdue. -/
theorem adderGroupsAndContributions : Obligations.AdderGroupsAndContributions := by
  intro s hs
  have hm := State.canonical_mem hs
  refine ⟨fun c i o ho hn => ⟨fun e he => exec_sumOpen_faulty ho hn he, fun he => ?opens⟩,
    fun g i l d src c k x hx hl hi => ?contribution,
    fun c i o ho hw => ⟨fun e he => exec_contribute_faulty ho hw he, fun he hc => ?own, fun he hc => ?asks⟩,
    fun c i o src bs ho hr hop hw => ⟨fun code off hc => takeVerdict_fault ho hr hc off, fun hc => ?verdict⟩,
    fun g i l r hfind => ?resend, fun g l x t hx ht => ?overdue⟩
  case opens =>
    obtain ⟨hfind, hruns, -, -⟩ := runningOp_some ho
    refine ⟨exec_sumOpen_opens ho hn he, openGroup_groups _ _ _ _ _ _ _ _ _, fun p hp => ?_, fun hinit => ?_,
      fun hinit htrain a => ?_⟩
    · obtain ⟨ws, hws⟩ :=
        findOp_openGroup hfind (soGroup o.d) (soTarget o.d) (soLines o.d) (soInt o.d) (soP o.d) (soInit o.d)
      obtain rfl := Option.some_inj.mp (hp.symm.trans hws)
      simp only [opRuns, Bool.and_eq_true, Option.isNone_iff_eq_none] at hruns
      obtain ⟨⟨hended, -⟩, -⟩ := hruns
      exact hended
    · rw [hinit, openGroup_kept_region]
    · rw [hinit, memRead_openGroup hm htrain]
  case contribution =>
    dsimp only
    refine fun hearly => ⟨fun h => ⟨_, rfl, ?_⟩, fun h o ho => ?_, fun hlt hwin hroom => ?_, fun hlt hno => ?_⟩
    · rw [contribution_taken hx hl hi d src c k h]
      rfl
    · obtain ⟨p, hp, hnext, hread, hfree⟩ := contribution_added hx hl hi hm ho hearly h d src c k
      refine ⟨_, p, rfl, hp, hnext, fun j hj => ?_, fun a ha => ?_, hfree⟩
      · rw [memNat_congr fun b _ _ => hread b, lineAdded_mem]
        exact memNat_lineBytes (memWriteAll_wf _ _ hm) _ x l d hj
      · rw [hread, lineAdded_mem]
        exact memRead_bytesWrites_out (memWriteAll_wf _ _ hm) (by rwa [length_lineBytes])
    · refine ⟨_, (x.mark i).withLine ((lineGet x l).hold ⟨i, d, s.time.tai, src, c, k⟩), rfl, ?_⟩
      rw [contribution_held hx hl hi hearly hlt hwin hroom d src c k]
      refine ⟨groupGet_linePut _ (groupGet_markUsed i hx),
        (lineGet_withLine (y := (lineGet x l).hold _) (line_lineGet x l)).trans ?_, rfl⟩
      rw [SumLine.hold, hearly]
      rfl
    · exact ⟨_, rfl, contribution_refused hx hl hi hs hearly hlt hno d src c k⟩
  case own => rw [exec_contribute_goes ho hw he, if_pos hc]
  case asks =>
    obtain ⟨hfind, -, -, -⟩ := runningOp_some ho
    refine ⟨_, by rw [exec_contribute_goes ho hw he, if_neg hc], ?_, rfl, rfl⟩
    exact findOp_updOp_same s c i _ hfind fun _ => ⟨rfl, rfl⟩
  case verdict =>
    dsimp only
    have hsent : deliverMsg s ⟨src, c, i, .verdict 0 0⟩ 7 bs = _ :=
      (takeVerdict_ok ho hr hop hw 0).trans (ctSendAll_remote hc)
    obtain ⟨rfl, rfl⟩ := findOp_place ho
    rw [hsent]
    exact ⟨findOp_updOp_same s _ _ _ ho fun _ => ⟨rfl, rfl⟩, rfl, rfl⟩
  case resend =>
    have hexec := exec_omaResendTimer hfind
    refine ⟨fun h => by rw [hexec, if_pos h], fun h => ?_⟩
    refine ⟨_, by rw [hexec, if_neg (by simp [h])], fun hchip => ?_, fun hchip => if_pos hchip⟩
    rw [if_neg hchip]
    exact ⟨rfl, List.map_append, rfl⟩
  case overdue =>
    have hexec := exec_omaOverdue hx ht
    refine ⟨fun h => by rw [hexec, if_pos h], fun hcome hnew => ?_⟩
    have hput := (linePut_kept s g (lineGet x l).late (.refl s)).canonical hs
    have hframe := countF_regsOnly (linePut s g (lineGet x l).late) (omaMill (stackOf (lineOff x l)))
      (f := Reg.omaOverdue_count) 0 1 (by decide)
    refine ⟨countF (linePut s g (lineGet x l).late) (omaMill (stackOf (lineOff x l))) Reg.omaOverdue_count 0 1,
      x.withLine (lineGet x l).late, by rw [hexec, if_neg (by simp [hcome, hnew])], ?_, lineGet_withLine (line_lineGet x l),
      getF_countF_same _ _ _ _ _ hput (by decide) (by decide), hframe⟩
    exact (groupGet_congr ((congrArg State.groups hframe).trans rfl) g).trans (groupGet_linePut _ hx)

end Sys2Proof.Machine
end

section
/-!
SUPPORT. The upsets of product tiles that a command names (R189): an UPDATE that forms no product does not see them.
-/

namespace Sys2Proof.Machine

/-- An operation with the upsets of a command. -/
def Op.withUpsets (us : List TileUpset) (o : Op) : Op := { o with upsets := us }

theorem Op.withUpsets_ctx (us : List TileUpset) (o : Op) : (o.withUpsets us).ctx = o.ctx := rfl
theorem Op.withUpsets_idx (us : List TileUpset) (o : Op) : (o.withUpsets us).idx = o.idx := rfl
theorem Op.withUpsets_d (us : List TileUpset) (o : Op) : (o.withUpsets us).d = o.d := rfl
theorem updOf_withUpsets (us : List TileUpset) (o : Op) : updOf (o.withUpsets us) = updOf o := rfl

/-- The operation of a place given the upsets of a command. -/
def setUpsets (s : State) (c i : Nat) (us : List TileUpset) : State := updOp s c i (Op.withUpsets us)

/-- Whether the operation of a place has no upsets. -/
def NoUpsets (c i : Nat) (s : State) : Prop := ∀ x ∈ s.ops, isOp c i x = true → x.upsets = []

theorem findOp_setUpsets {s : State} {c i : Nat} {o : Op} (us : List TileUpset) (h : findOp s c i = some o) :
    findOp (setUpsets s c i us) c i = some (o.withUpsets us) := findOp_updOp_same s c i _ h fun _ => ⟨rfl, rfl⟩

/-! ### Changes of an operation one after another -/

/-- Two changes of an operation made in a row. -/
theorem updOp_updOp (s : State) (c i : Nat) {f g : Op → Op} (hf : ∀ x, (f x).ctx = x.ctx ∧ (f x).idx = x.idx) :
    updOp (updOp s c i f) c i g = updOp s c i (fun x => g (f x)) := by
  have hops : (updOp (updOp s c i f) c i g).ops = (updOp s c i (fun x => g (f x))).ops := by
    simp only [updOp, List.map_map]
    refine List.map_congr_left fun x _ => ?_
    by_cases hx : isOp c i x = true
    · simp [hx, show isOp c i (f x) = true by simpa [isOp, hf] using hx]
    · simp [hx]
  show { s with ops := _ } = { s with ops := _ }
  exact congrArg (fun l => { s with ops := l }) hops

/-- A change that leaves the operation's list as it is leaves the state. -/
theorem updOp_eq_self {s : State} {c i : Nat} {f : Op → Op} (h : ∀ x ∈ s.ops, isOp c i x = true → f x = x) :
    updOp s c i f = s := by
  have hops : s.ops.map (fun x => if isOp c i x then f x else x) = s.ops := by
    refine (List.map_congr_left fun x hx => ?_).trans (List.map_id s.ops)
    by_cases hp : isOp c i x = true
    · simp [hp, h x hx hp]
    · simp [hp]
  exact congrArg (fun l => { s with ops := l }) hops

/-- Upsets set again count alone. -/
theorem setUpsets_setUpsets (s : State) (c i : Nat) (us vs : List TileUpset) :
    setUpsets (setUpsets s c i us) c i vs = setUpsets s c i vs := updOp_updOp s c i fun _ => ⟨rfl, rfl⟩

/-- An operation without upsets is not changed where they are taken off. -/
theorem setUpsets_nil {s : State} {c i : Nat} (h : NoUpsets c i s) : setUpsets s c i [] = s :=
  updOp_eq_self fun x hx hp => by rw [Op.withUpsets, ← h x hx hp]

/-- A change that leaves the upsets of operations keeps them off. -/
theorem NoUpsets.updOp {c i : Nat} {s t : State} {f : Op → Op} (h : NoUpsets c i s)
    (hf : ∀ x, (f x).ctx = x.ctx ∧ (f x).idx = x.idx ∧ (f x).upsets = x.upsets) (ht : t.ops = (updOp s c i f).ops) :
    NoUpsets c i t := by
  intro x hx hp
  rw [ht] at hx
  obtain ⟨y, hy, rfl⟩ := List.mem_map.mp hx
  by_cases hyp : isOp c i y = true
  · simp only [hyp, if_true, (hf y).2.2]
    exact h y hy hyp
  · simp only [hyp, Bool.false_eq_true, if_false] at hp

theorem NoUpsets.congr {c i : Nat} {s t : State} (h : NoUpsets c i s) (ht : t.ops = s.ops) : NoUpsets c i t := by
  unfold NoUpsets
  rwa [ht]

/-! ### What does not look at the operations -/

/-- A state with another list of operations. -/
def State.withOps (s : State) (l : List Op) : State := { s with ops := l }

theorem setUpsets_withOps (s : State) (c i : Nat) (us : List TileUpset) :
    setUpsets s c i us = s.withOps (setUpsets s c i us).ops := rfl

/-- An event counter that is raised does not look at the operations. -/
theorem bumpCounter_withOps (s : State) (l : List Op) (base i n : Nat) :
    bumpCounter (s.withOps l) base i n = (bumpCounter s base i n).withOps l := by
  have hset : ∀ (t : State) (f : Fld) (k v : Nat), setF (t.withOps l) base f k v = (setF t base f k v).withOps l := by
    intro t f k v
    unfold setF
    dsimp only
    split <;> rfl
  have hget : ∀ (t : State) (f : Fld) (k : Nat), getF (t.withOps l) base f k = getF t base f k := fun _ _ _ => rfl
  unfold bumpCounter
  simp only [hset, hget, apply_ite (fun t : State => t.withOps l)]

/-- Events do not look at the operations. -/
theorem event_withOps (s : State) (l : List Op) (base src n : Nat) :
    event (s.withOps l) base src n = (event s base src n).withOps l := by
  have h : ∀ (is : List Nat) (t : State),
      is.foldl (fun t i => if counterTakes s base i src then bumpCounter t base i n else t) (t.withOps l) =
        (is.foldl (fun t i => if counterTakes s base i src then bumpCounter t base i n else t) t).withOps l := by
    intro is
    induction is with
    | nil => exact fun _ => rfl
    | cons i is ih =>
      intro t
      rw [List.foldl_cons, List.foldl_cons, ← ih]
      split
      · rw [bumpCounter_withOps]
      · rfl
  exact h _ s

theorem flagCell_withOps (s : State) (l : List Op) (n : Nat) (b : Bool) :
    flagCell (s.withOps l) n b = (flagCell s n b).withOps l := by
  unfold flagCell
  split <;> rfl

theorem flagUnits_withOps (s : State) (l : List Op) (d : Desc) (us : List Nat) :
    flagUnits (s.withOps l) d us = (flagUnits s d us).withOps l := by
  unfold flagUnits
  induction us generalizing s with
  | nil => rfl
  | cons u us ih => rw [List.foldl_cons, List.foldl_cons, ← ih, flagCell_withOps, event_withOps]

/-- Two lists of operations agree on whether a step closes (R154). -/
def SameClosing (l k : List Op) : Prop := ∀ s : State, sclClosing (s.withOps l) = sclClosing (s.withOps k)

/-- Conversions counted without a Scaler binding look at the operations only for whether a step closes. -/
theorem countConv_withOps (s : State) {l : List Op} (h : SameClosing l s.ops) (cell : Nat) (eval : Bool) (code : Nat)
    (cs : List Cls) :
    countConv (s.withOps l) cell eval none code cs = (countConv s cell eval none code cs).withOps l := by
  have hadd : ∀ (t : State) (d : FmtCounts), t.ops = s.ops → addFmt (t.withOps l) code d = (addFmt t code d).withOps l := by
    intro t d ht
    have hap : sclApart (t.withOps l) = sclApart t := by
      have := h t
      rw [← ht] at this
      exact congrArg (fun b => t.sclAside || b) this
    unfold addFmt
    rw [hap]
    split <;> rfl
  unfold countConv
  split
  · rfl
  · dsimp only
    rw [event_withOps]
    split
    · exact hadd _ _ (event_ops _ _ _ _)
    · rfl

theorem flagConv_withOps (s : State) (l : List Op) (cell : Nat) (eval : Bool) (f : Fmt) (xs : List (FVal × Rnd)) (cs : List Nat) :
    flagConv (s.withOps l) cell eval f xs cs = (flagConv s cell eval f xs cs).withOps l := by
  simp only [flagConv, flagCell_withOps, event_withOps]

theorem unitOut_withOps (s : State) {l : List Op} (h : SameClosing l s.ops) (cell : Nat) (eval : Bool) (u : Nat) (f : Fmt)
    (xs : List (FVal × Rnd)) (g : List Nat) : unitOut (s.withOps l) cell eval none u f xs g =
      ((unitOut s cell eval none u f xs g).1.withOps l, (unitOut s cell eval none u f xs g).2) := by
  simp only [unitOut, countConv_withOps s h, flagConv_withOps]

theorem blocksOut_withOps (s : State) {l : List Op} (h : SameClosing l s.ops) (cell : Nat) (eval : Bool) (f : Fmt) (b : Bool)
    (bs : List (List (FVal × Rnd))) : blocksOut (s.withOps l) cell eval f b bs =
      ((blocksOut s cell eval f b bs).1.withOps l, (blocksOut s cell eval f b bs).2) := by
  simp only [blocksOut, countConv_withOps s h, flagCell_withOps, event_withOps]

end Sys2Proof.Machine
end

section
/-!
SUPPORT. The re-derivation of a working copy (R158, R159): its steps, what it leaves, and where it writes.
-/

namespace Sys2Proof.Machine

/-! ### The steps -/

/-- A unit of a plain working copy converted: the state, the number of units done, and the codes so far. -/
def plainStep (cellOf : Nat → Nat) (eval : Bool) (f : Fmt) (acc : State × Nat × List Nat) (vs : List FVal) :
    State × Nat × List Nat :=
  let q := unitOut acc.1 (cellOf acc.2.1) eval none 0 f (vs.map (fun v => (v, Rnd.rne))) []
  (q.1, acc.2.1 + 1, acc.2.2 ++ q.2.1)

/-- One block converted gives one scale byte and its codes. -/
theorem blocksOut_single (s : State) (cell : Nat) (eval : Bool) (f : Fmt) (noClip : Bool) (xs : List (FVal × Rnd)) :
    (blocksOut s cell eval f noClip [xs]).2 = [((convertBlock f noClip xs).1, (convertBlock f noClip xs).2.map Prod.fst)] := rfl

/-- A block of an MX working copy converted: the state, the scale bytes, and the codes with their places so far. -/
def blockStep (place : Nat → Nat → Nat) (cellOf : Nat → Nat) (eval : Bool) (f : Fmt)
    (acc : State × List Nat × List (Nat × Nat)) (b : Nat × List FVal) : State × List Nat × List (Nat × Nat) :=
  let xs := b.2.map (fun v => (v, Rnd.rne))
  let cs := (convertBlock f true xs).2.map Prod.fst
  ((blocksOut acc.1 (cellOf (b.1 / 8192)) eval f true [xs]).1, acc.2.1 ++ [(convertBlock f true xs).1],
    acc.2.2 ++ ((List.range cs.length).zip cs).map (fun e => (place b.1 e.1, e.2)))

/-- The writes of the codes of a working copy, row by row. -/
def workRows (s : State) (p : Nat) (cs : List Nat) : List Host.Cell :=
  (List.range (pNrows s p)).flatMap (fun r => bytesWrites (pWorking s p + r * (workRegion s p).pitch)
    (packRow (fmtWidth (fwFmtD (pWfmt s p))) ((cs.drop (r * pNcols s p)).take (pNcols s p))))

/-- The writes of the scale bytes of an MX working copy. -/
def workScales (s : State) (p : Nat) (scales : List Nat) : List Host.Cell :=
  bytesWrites (pWorking s p + pNrows s p * (workRegion s p).pitch) (scales.map (fun b => BitVec.ofNat 8 b))

/-- The codes of `n` elements from codes with their places. -/
def placedCodes (n : Nat) (cs : List (Nat × Nat)) : List Nat :=
  (List.range n).map (fun i => match cs.find? (fun e => e.1 == i) with
    | some e => e.2
    | none => 0)

/-- The units of a plain working copy converted one after another. -/
@[irreducible] def plainRun (s : State) (cellOf : Nat → Nat) (eval : Bool) (p : Nat) (a : Mat) : State × Nat × List Nat :=
  (chunks 8192 (ceilDiv a.flatten.length 8192) a.flatten).foldl (plainStep cellOf eval (fwFmtD (pWfmt s p))) (s, 0, [])

/-- The blocks of an MX working copy converted one after another. -/
@[irreducible] def blockRun (s : State) (cellOf : Nat → Nat) (eval : Bool) (p : Nat) (a : Mat) :
    State × List Nat × List (Nat × Nat) :=
  (workBlocks s p a).foldl (blockStep (blockElem s p) cellOf eval (fwFmtD (pWfmt s p))) (s, [], [])

theorem rederive_plain {s : State} {p : Nat} (h : fwMx (pWfmt s p) = false) (cellOf : Nat → Nat) (eval : Bool) (a : Mat) :
    rederive s cellOf eval p a =
      ((plainRun s cellOf eval p a).1, workRows s p (plainRun s cellOf eval p a).2.2) := by
  unfold rederive plainRun
  rw [h]
  rfl

theorem rederive_mx {s : State} {p : Nat} (h : fwMx (pWfmt s p) = true) (cellOf : Nat → Nat) (eval : Bool) (a : Mat) :
    rederive s cellOf eval p a = ((blockRun s cellOf eval p a).1,
      workRows s p (placedCodes (pNrows s p * pNcols s p) (blockRun s cellOf eval p a).2.2) ++
        workScales s p (blockRun s cellOf eval p a).2.1) := by
  simp only [rederive, h, if_true, blocksOut_single]
  unfold blockRun blockStep workRows workScales placedCodes
  dsimp only <;>
  · generalize List.foldl _ _ (workBlocks s p a) = r
    rfl

/-! ### What it does not look at -/

/-- A fold whose steps do not change the operations. -/
theorem foldl_fst_ops {β γ : Type} {f : State × γ → β → State × γ} (hf : ∀ acc x, (f acc x).1.ops = acc.1.ops) (xs : List β)
    (acc : State × γ) : (xs.foldl f acc).1.ops = acc.1.ops := by
  induction xs generalizing acc with
  | nil => rfl
  | cons x xs ih => exact (ih _).trans (hf acc x)

/-- A fold whose steps neither look at the operations nor change them. -/
theorem foldl_fst_withOps {β γ : Type} {f : State × γ → β → State × γ} {l k : List Op}
    (hk : ∀ acc x, (f acc x).1.ops = acc.1.ops)
    (hf : ∀ t g x, t.ops = k → f (t.withOps l, g) x = ((f (t, g) x).1.withOps l, (f (t, g) x).2)) (xs : List β) (s : State)
    (g : γ) (hs : s.ops = k) :
    xs.foldl f (s.withOps l, g) = ((xs.foldl f (s, g)).1.withOps l, (xs.foldl f (s, g)).2) := by
  induction xs generalizing s g with
  | nil => rfl
  | cons x xs ih =>
    rw [List.foldl_cons, List.foldl_cons, hf s g x hs]
    exact ih _ _ ((hk _ _).trans hs)

theorem plainStep_ops (cellOf : Nat → Nat) (eval : Bool) (f : Fmt) (acc : State × Nat × List Nat) (vs : List FVal) :
    (plainStep cellOf eval f acc vs).1.ops = acc.1.ops := (unitOut_outFrame _ _ _ _ _ _ _ _).ops

theorem blockStep_ops (place : Nat → Nat → Nat) (cellOf : Nat → Nat) (eval : Bool) (f : Fmt)
    (acc : State × List Nat × List (Nat × Nat)) (b : Nat × List FVal) :
    (blockStep place cellOf eval f acc b).1.ops = acc.1.ops := (blocksOut_outFrame _ _ _ _ _ _).ops

theorem plainRun_ops (s : State) (cellOf : Nat → Nat) (eval : Bool) (p : Nat) (a : Mat) :
    (plainRun s cellOf eval p a).1.ops = s.ops := by
  unfold plainRun
  exact foldl_fst_ops (plainStep_ops cellOf eval _) _ (s, 0, [])

theorem blockRun_ops (s : State) (cellOf : Nat → Nat) (eval : Bool) (p : Nat) (a : Mat) :
    (blockRun s cellOf eval p a).1.ops = s.ops := by
  unfold blockRun
  exact foldl_fst_ops (blockStep_ops (blockElem s p) cellOf eval _) _ (s, [], [])

/-- A re-derivation leaves the operations. -/
theorem rederive_ops (s : State) (cellOf : Nat → Nat) (eval : Bool) (p : Nat) (a : Mat) :
    (rederive s cellOf eval p a).1.ops = s.ops := by
  cases hm : fwMx (pWfmt s p) with
  | false =>
    rw [rederive_plain hm]
    exact plainRun_ops s cellOf eval p a
  | true =>
    rw [rederive_mx hm]
    exact blockRun_ops s cellOf eval p a

theorem plainRun_withOps {s : State} {l : List Op} (h : SameClosing l s.ops) (cellOf : Nat → Nat) (eval : Bool) (p : Nat) (a : Mat) :
    plainRun (s.withOps l) cellOf eval p a = ((plainRun s cellOf eval p a).1.withOps l, (plainRun s cellOf eval p a).2) := by
  unfold plainRun
  refine foldl_fst_withOps (plainStep_ops cellOf eval (fwFmtD (pWfmt s p))) (fun t g x ht => ?_) _ s (0, []) rfl
  unfold plainStep
  dsimp only
  rw [unitOut_withOps t (ht ▸ h)]

theorem blockRun_withOps {s : State} {l : List Op} (h : SameClosing l s.ops) (cellOf : Nat → Nat) (eval : Bool) (p : Nat) (a : Mat) :
    blockRun (s.withOps l) cellOf eval p a = ((blockRun s cellOf eval p a).1.withOps l, (blockRun s cellOf eval p a).2) := by
  unfold blockRun
  refine foldl_fst_withOps (blockStep_ops (blockElem s p) cellOf eval (fwFmtD (pWfmt s p))) (fun t g x ht => ?_) _ s ([], []) rfl
  unfold blockStep
  dsimp only
  rw [blocksOut_withOps t (ht ▸ h)]

theorem workRows_withOps (s : State) (l : List Op) (p : Nat) (cs : List Nat) : workRows (s.withOps l) p cs = workRows s p cs := rfl

theorem workScales_withOps (s : State) (l : List Op) (p : Nat) (cs : List Nat) :
    workScales (s.withOps l) p cs = workScales s p cs := rfl

/-- A re-derivation looks at the operations only for whether a step closes. -/
theorem rederive_withOps {s : State} {l : List Op} (h : SameClosing l s.ops) (cellOf : Nat → Nat) (eval : Bool) (p : Nat)
    (a : Mat) : rederive (s.withOps l) cellOf eval p a =
      ((rederive s cellOf eval p a).1.withOps l, (rederive s cellOf eval p a).2) := by
  cases hm : fwMx (pWfmt s p) with
  | false =>
    have hl := rederive_plain (s := s.withOps l) hm cellOf eval a
    rw [hl, rederive_plain hm cellOf eval a, plainRun_withOps h, workRows_withOps]
  | true =>
    have hl := rederive_mx (s := s.withOps l) hm cellOf eval a
    have hn : pNrows (s.withOps l) p * pNcols (s.withOps l) p = pNrows s p * pNcols s p := rfl
    rw [hl, rederive_mx hm cellOf eval a, blockRun_withOps h, hn, workRows_withOps, workScales_withOps]

end Sys2Proof.Machine
end

section
/-!
SUPPORT. Parameters and their shards (R251 to R253): what their records and values rest on, and that counts leave their place.
-/

namespace Sys2Proof.Machine

/-! ### Records and values -/

/-- The record of parameter `p` stands at the same place with the same bytes. -/
structure SameRecord (p : Nat) (s t : State) : Prop where
  place : paramAddr t p = paramAddr s p
  bytes : ∀ a, paramAddr s p ≤ a → a < paramAddr s p + 128 → memRead t.mem a = memRead s.mem a

/-- Every record stands at the same place, and memory is the same. -/
structure SameParams (s t : State) : Prop where
  place : ∀ p, paramAddr t p = paramAddr s p
  mem : t.mem = s.mem

theorem SameParams.record {s t : State} (h : SameParams s t) (p : Nat) : SameRecord p s t :=
  ⟨h.place p, fun _ _ _ => by rw [h.mem]⟩

namespace SameRecord
variable {p : Nat} {s t : State} (h : SameRecord p s t)
include h

/-- A field of the record reads the same. -/
theorem field {k : Nat} (hk : k + 8 ≤ 128) (hi lo : Nat) : rdBits t (paramAddr t p + k) hi lo = rdBits s (paramAddr s p + k) hi lo := by
  have hnat : memNat t.mem (paramAddr s p + k) 8 = memNat s.mem (paramAddr s p + k) 8 :=
    memNat_congr fun a h1 h2 => h.bytes a (by omega) (by omega)
  unfold rdBits rdNat
  rw [h.place, hnat]

theorem nrows : pNrows t p = pNrows s p := h.field (by decide) _ _
theorem ncols : pNcols t p = pNcols s p := h.field (by decide) _ _
theorem working : pWorking t p = pWorking s p := h.field (by decide) _ _
theorem wfmt : pWfmt t p = pWfmt s p := h.field (by decide) _ _
theorem waxis : pWaxis t p = pWaxis s p := h.field (by decide) _ _

theorem roleOff (role : Nat) : Machine.roleOff t p role = Machine.roleOff s p role := by
  have hmaster : pMaster t p = pMaster s p := h.field (by decide) _ _
  have hgrad : pGrad t p = pGrad s p := h.field (by decide) _ _
  have hm1 : pM1 t p = pM1 s p := h.field (by decide) _ _
  have hm2 : pM2 t p = pM2 s p := h.field (by decide) _ _
  have hresid : pResid t p = pResid s p := h.field (by decide) _ _
  unfold Machine.roleOff
  rw [hmaster, h.working, hgrad, hm1, hm2, hresid]

theorem roleRegion (role : Nat) : Machine.roleRegion t p role = Machine.roleRegion s p role := by
  unfold Machine.roleRegion
  rw [h.roleOff, h.nrows, h.ncols]

theorem workRegions : Machine.workRegions t p = Machine.workRegions s p := by
  have hregion : workRegion t p = workRegion s p := by
    unfold workRegion workRow
    rw [h.working, h.wfmt, h.nrows, h.ncols]
  have hdims : workScaleDims t p = workScaleDims s p := by
    unfold workScaleDims
    rw [h.waxis, h.nrows, h.ncols]
  unfold Machine.workRegions
  rw [hregion, hdims, h.working, h.wfmt, h.nrows]

end SameRecord

namespace SameParams
variable {s t : State} (h : SameParams s t) (p : Nat)
include h

theorem nrows : pNrows t p = pNrows s p := (h.record p).nrows
theorem ncols : pNcols t p = pNcols s p := (h.record p).ncols

theorem roleMat (role : Nat) : Machine.roleMat t p role = Machine.roleMat s p role := by
  unfold Machine.roleMat rdMat matF32 rdF32 rdNat
  rw [(h.record p).roleOff, h.nrows, h.ncols, h.mem]

theorem roleWrites (role : Nat) (bs : List Byte) : Machine.roleWrites t p role bs = Machine.roleWrites s p role bs := by
  unfold Machine.roleWrites
  rw [(h.record p).roleRegion]

end SameParams

theorem sameParams_setUpsets (s : State) (c i : Nat) (us : List TileUpset) : SameParams s (setUpsets s c i us) :=
  ⟨fun _ => rfl, rfl⟩

end Sys2Proof.Machine
end

section
/-!
SUPPORT. The parts of an UPDATE (R255 to R257, R265 to R268): a gradient formed, units of a parameter written, a parameter done.
-/

namespace Sys2Proof.Machine

/-- The parameter that an UPDATE applies next. -/
def nextParam (o : Op) : Nat := uParam0 o.d + (updOf o).applied

/-! ### A gradient formed (R256, R265) -/

/-- The next gradient zeroed where it is read late. -/
def lateZeroed (s : State) (o : Op) : State :=
  if (updOf o).late.contains (nextParam o) then zeroGrad s o.d (nextParam o) else s

/-- The products of the next gradient, for OPT 3. -/
def gradFormed (s : State) (o : Op) : State × Mat :=
  if uOpt o.d = 3 then updPrecond (lateZeroed s o) o (nextParam o)
    (packedMat (pNcols s (nextParam o)) (pNrows s (nextParam o)) (updGrad s o (nextParam o)))
  else (lateZeroed s o, [])

/-- The bytes of the next gradient as it is applied. -/
def gradBytes (s : State) (o : Op) : List Byte :=
  if uOpt o.d = 3 then (gradFormed s o).2.flatten.flatMap (fun v => leBytes 4 (code32 v)) else updGrad s o (nextParam o)

/-- Progress with the gradient of parameter `p` formed. -/
def UpdWork.form (p : Nat) (bs : List Byte) (w : UpdWork) : UpdWork :=
  { w with formed := true, grads := (p, bs) :: w.grads.filter (fun y => y.1 != p), late := w.late.filter (fun y => y != p) }

theorem updForm_formed {s : State} {o : Op} (h : (updOf o).formed = true) : updForm s o = s := if_pos h

/-- A product that fails frees the skid entries. -/
theorem updForm_fails {s : State} {o : Op} (h : (updOf o).formed = false)
    (hf : prodFailed (gradFormed s o).1 o.ctx o.idx = true) : updForm s o = skidFree (gradFormed s o).1 o.ctx o.idx := by
  unfold gradFormed lateZeroed nextParam at hf ⊢
  unfold updForm
  dsimp only
  rw [if_neg (by simp [h]), if_pos hf]

/-- A gradient that is formed is noted, and released where every one is. -/
theorem updForm_forms {s : State} {o : Op} (h : (updOf o).formed = false)
    (hf : prodFailed (gradFormed s o).1 o.ctx o.idx = false) : updForm s o =
      relCheck (setUpd (gradFormed s o).1 o.ctx o.idx (UpdWork.form (nextParam o) (gradBytes s o))) o.ctx o.idx := by
  have hf' := Bool.eq_false_iff.mp hf
  unfold gradBytes UpdWork.form
  unfold gradFormed lateZeroed nextParam at hf' ⊢
  unfold updForm
  dsimp only
  rw [if_neg (by simp [h]), if_neg hf']

theorem gradFormed_plain {s : State} {o : Op} (h : uOpt o.d ≠ 3) : gradFormed s o = (lateZeroed s o, []) := if_neg h

theorem gradBytes_plain {s : State} {o : Op} (h : uOpt o.d ≠ 3) : gradBytes s o = updGrad s o (nextParam o) := if_neg h

/-- A gradient that needs no product is noted as it is read. -/
theorem updForm_plain {s : State} {o : Op} (h3 : uOpt o.d ≠ 3) (hf : (updOf o).formed = false)
    (hok : prodFailed (lateZeroed s o) o.ctx o.idx = false) : updForm s o = relCheck (setUpd (lateZeroed s o) o.ctx o.idx
      (UpdWork.form (nextParam o) (updGrad s o (nextParam o)))) o.ctx o.idx := by
  rw [updForm_forms hf (by rwa [gradFormed_plain h3]), gradFormed_plain h3, gradBytes_plain h3]

/-- Without ZERO_GRAD, or where a gradient was read at once, nothing is zeroed late. -/
theorem lateZeroed_eq {s : State} {o : Op} (h : uZero o.d = false ∨ nextParam o ∉ (updOf o).late) : lateZeroed s o = s := by
  unfold lateZeroed
  split
  · next hin =>
    rcases h with hz | hl
    · simp [zeroGrad, hz]
    · exact absurd (List.contains_iff_mem.mp hin) hl
  · rfl

/-! ### Units written (R255, R268) -/

/-- The elements that units up to `k` still add. -/
def spanLen (s : State) (o : Op) (k : Nat) : Nat :=
  min (8192 * k) (pNrows s (nextParam o) * pNcols s (nextParam o)) - 8192 * (updOf o).unit

/-- The part of a matrix that units up to `k` cover. -/
def spanPart (s : State) (o : Op) (k : Nat) (a : Mat) : List FVal := (a.flatten.drop (8192 * (updOf o).unit)).take (spanLen s o k)

/-- The part of the second state that an optimiser reads. -/
def spanSecond (s : State) (o : Op) (k : Nat) : List FVal :=
  if uOpt o.d = 2 then spanPart s o k (roleMat s (nextParam o) 4) else []

/-- R255: what an UPDATE makes of the elements of units up to `k`. -/
def spanElems (s : State) (o : Op) (k : Nat) : List (FVal × FVal × FVal × Bool) :=
  (List.range (spanLen s o k)).map (fun i => updElem o.d
    ((spanPart s o k (roleMat s (nextParam o) 0)).getD i fvZero)
    ((spanPart s o k (packedMat (pNcols s (nextParam o)) (pNrows s (nextParam o)) (updGrad s o (nextParam o)))).getD i fvZero)
    ((spanPart s o k (roleMat s (nextParam o) 3)).getD i fvZero)
    ((spanSecond s o k).getD i fvZero))

/-- The place of element `i` of a role of a shard. -/
def roleAt (s : State) (p role i : Nat) : Nat := roleOff s p role + i / pNcols s p * f32Pitch (pNcols s p) + 4 * (i % pNcols s p)

/-- The writes of values from element `first` of a role on. -/
def rolePuts (s : State) (p role first : Nat) (vs : List FVal) : List Host.Cell :=
  ((List.range vs.length).zip vs).flatMap (fun x => bytesWrites (roleAt s p role (first + x.1)) (leBytes 4 (code32 x.2)))

/-- The writes of units up to `k`: the master, the first state, and the second under OPT 2. -/
def spanPuts (s : State) (o : Op) (k : Nat) : List Host.Cell :=
  rolePuts s (nextParam o) 0 (8192 * (updOf o).unit) ((spanElems s o k).map (fun x => x.1)) ++
    rolePuts s (nextParam o) 3 (8192 * (updOf o).unit) ((spanElems s o k).map (fun x => x.2.1)) ++
    (if uOpt o.d = 2 then rolePuts s (nextParam o) 4 (8192 * (updOf o).unit) ((spanElems s o k).map (fun x => x.2.2.1)) else [])

/-- The units up to `k` in which an operation gave an infinity or a NaN. -/
def spanBad (s : State) (o : Op) (k : Nat) : List Nat :=
  ((((List.range (spanLen s o k)).zip (spanElems s o k)).filter (fun x => x.2.2.2.2)).map
    (fun x => (8192 * (updOf o).unit + x.1) / 8192)).eraseDups

/-- Progress with the units of the next parameter done up to `k`. -/
def UpdWork.reach (k : Nat) (w : UpdWork) : UpdWork := { w with unit := k }

theorem updUnits_skip (s : State) (o : Op) (k : Nat) :
    updUnits s o k true = setUpd s o.ctx o.idx (UpdWork.reach k) := rfl

@[simp] theorem length_spanElems (s : State) (o : Op) (k : Nat) : (spanElems s o k).length = spanLen s o k := by
  simp [spanElems]

/-- Units computed are flagged and written. -/
theorem updUnits_writes (s : State) (o : Op) (k : Nat) : updUnits s o k false =
    setUpd (wrMem (flagUnits s o.d (spanBad s o k)) (spanPuts s o k)) o.ctx o.idx (UpdWork.reach k) := by
  unfold spanPuts rolePuts roleAt
  simp only [List.length_map, length_spanElems]
  unfold spanBad spanElems spanSecond spanPart spanLen nextParam updUnits UpdWork.reach
  simp only [Bool.false_eq_true, if_false]

/-- `q` in `t` applies the same parameter as `o` in `s`, from the same unit on, with the same gradient. -/
structure SameSpan (s : State) (o : Op) (t : State) (q : Op) : Prop where
  params : SameParams s t
  desc : q.d = o.d
  next : nextParam q = nextParam o
  unit : (updOf q).unit = (updOf o).unit
  grad : updGrad t q (nextParam o) = updGrad s o (nextParam o)

namespace SameSpan
variable {s t : State} {o q : Op} (h : SameSpan s o t q) (k : Nat)
include h

theorem spanLen : Machine.spanLen t q k = Machine.spanLen s o k := by
  unfold Machine.spanLen
  rw [h.next, h.unit, h.params.nrows, h.params.ncols]

theorem spanElems : Machine.spanElems t q k = Machine.spanElems s o k := by
  unfold Machine.spanElems spanSecond spanPart
  rw [h.spanLen, h.next, h.unit, h.desc, h.grad, h.params.nrows, h.params.ncols, h.params.roleMat, h.params.roleMat,
    h.params.roleMat]

theorem rolePuts (role first : Nat) (vs : List FVal) :
    Machine.rolePuts t (nextParam o) role first vs = Machine.rolePuts s (nextParam o) role first vs := by
  unfold Machine.rolePuts roleAt
  rw [(h.params.record _).roleOff, h.params.ncols]

theorem spanPuts : Machine.spanPuts t q k = Machine.spanPuts s o k := by
  unfold Machine.spanPuts
  rw [h.next, h.unit, h.desc, h.spanElems, h.rolePuts, h.rolePuts, h.rolePuts]

theorem spanBad : Machine.spanBad t q k = Machine.spanBad s o k := by
  unfold Machine.spanBad
  rw [h.unit, h.spanLen, h.spanElems]

end SameSpan

/-! ### A parameter done (R257, R266, R267) -/

/-- The writes of SEQ of the next parameter. -/
def seqWrites (s : State) (o : Op) : List Host.Cell := natWrites (paramAddr s (nextParam o) + 0x58) 8 (uStep o.d)

/-- The working copy of the next parameter re-derived, unless the step is skipped: the state and the writes. -/
def redone (s : State) (o : Op) (skip : Bool) : State × List Host.Cell :=
  if skip then (s, []) else rederive s (cellOfUnit o.d) false (nextParam o) (roleMat s (nextParam o) 0)

/-- Progress with parameter `p` done. -/
def UpdWork.done (p : Nat) (w : UpdWork) : UpdWork :=
  { w with applied := w.applied + 1, formed := false, unit := 0, grads := w.grads.filter (fun y => y.1 != p) }

/-- The skid entry of a parameter freed. -/
def skidDrop (s : State) (o : Op) (p : Nat) : State :=
  { s with skid := s.skid.filter (fun e => !(e.ctx == o.ctx && e.idx == o.idx && e.param == p)) }

/-- The state in which the next parameter is done. -/
def paramDone (s : State) (o : Op) (skip : Bool) : State :=
  setUpd (skidDrop (wrMem (redone s o skip).1 ((redone s o skip).2 ++ seqWrites s o)) o (nextParam o)) o.ctx o.idx
    (UpdWork.done (nextParam o))

/-- After the last parameter the UPDATE ends. -/
theorem updDone_last {s : State} {o q : Op} {skip : Bool} (h : (updOf o).applied + 1 = uCount o.d)
    (hq : findOp (paramDone s o skip) o.ctx o.idx = some q) :
    updDone s o skip = endOp (paramDone s o skip) o.ctx o.idx (updEnd q skip) := by
  unfold updDone
  dsimp only
  rw [if_pos h]
  change (match findOp (paramDone s o skip) o.ctx o.idx with
    | some q => endOp (paramDone s o skip) o.ctx o.idx (updEnd q skip)
    | none => paramDone s o skip) = _
  rw [hq]

end Sys2Proof.Machine
end

section
/-!
SUPPORT. An UPDATE that forms no product (OPT 0 to 2) goes the same way whatever upsets a command names (R189, R255).
-/

namespace Sys2Proof.Machine

/-- States with the same operations take the same upsets. -/
theorem withOps_setUpsets {s t : State} (h : t.ops = s.ops) (c i : Nat) (us : List TileUpset) :
    t.withOps (setUpsets s c i us).ops = setUpsets t c i us := by
  unfold setUpsets updOp State.withOps
  rw [h]

theorem findOp_setUpsets_map (s : State) (c i : Nat) (us : List TileUpset) :
    findOp (setUpsets s c i us) c i = (findOp s c i).map (Op.withUpsets us) := by
  cases h : findOp s c i with
  | some o => exact findOp_setUpsets us h
  | none =>
    have hmap := find?_map_of (isOp c i) (fun p => if isOp c i p then p.withUpsets us else p) s.ops
      (fun p => by split <;> rfl)
    exact hmap.trans (by rw [show s.ops.find? (isOp c i) = none from h]; rfl)

theorem prodFailed_setUpsets (s : State) (c i : Nat) (us : List TileUpset) :
    prodFailed (setUpsets s c i us) c i = prodFailed s c i := by
  unfold prodFailed
  rw [findOp_setUpsets_map]
  cases findOp s c i <;> rfl

/-- A change of an operation that neither sees nor changes its upsets. -/
theorem updOp_setUpsets (s : State) (c i : Nat) (us : List TileUpset) {f : Op → Op}
    (hf : ∀ x, (f x).ctx = x.ctx ∧ (f x).idx = x.idx) (h : ∀ x : Op, f (x.withUpsets us) = (f x).withUpsets us) :
    updOp (setUpsets s c i us) c i f = setUpsets (updOp s c i f) c i us := by
  unfold setUpsets
  rw [updOp_updOp s c i (f := Op.withUpsets us) fun _ => ⟨rfl, rfl⟩, updOp_updOp s c i hf]
  exact congrArg (updOp s c i) (funext h)

theorem setUpd_setUpsets (s : State) (c i : Nat) (us : List TileUpset) (f : UpdWork → UpdWork) :
    setUpd (setUpsets s c i us) c i f = setUpsets (setUpd s c i f) c i us :=
  updOp_setUpsets s c i us (fun _ => ⟨rfl, rfl⟩) fun _ => rfl

theorem endOp_setUpsets (s : State) (c i : Nat) (us : List TileUpset) (e : OpEnd) :
    endOp (setUpsets s c i us) c i e = setUpsets (endOp s c i e) c i us :=
  updOp_setUpsets s c i us (fun _ => ⟨rfl, rfl⟩) fun _ => rfl

theorem semAdd_setUpsets (s : State) (c i : Nat) (us : List TileUpset) (n v : Nat) :
    semAdd (setUpsets s c i us) n v = setUpsets (semAdd s n v) c i us := rfl

theorem relCheck_setUpsets (s : State) (c i : Nat) (us : List TileUpset) :
    relCheck (setUpsets s c i us) c i = setUpsets (relCheck s c i) c i us := by
  unfold relCheck
  rw [findOp_setUpsets_map]
  cases findOp s c i with
  | none => rfl
  | some o =>
    dsimp only [Option.map_some]
    rw [updOf_withUpsets, Op.withUpsets_d, semAdd_setUpsets,
      setUpd_setUpsets]
    split <;> rfl

theorem wrMem_setUpsets (s : State) (c i : Nat) (us : List TileUpset) (ws : List Host.Cell) :
    wrMem (setUpsets s c i us) ws = setUpsets (wrMem s ws) c i us := rfl

theorem nextParam_withUpsets (us : List TileUpset) (o : Op) : nextParam (o.withUpsets us) = nextParam o := rfl

theorem zeroGrad_setUpsets (s : State) (c i : Nat) (us : List TileUpset) (d : Desc) (p : Nat) :
    zeroGrad (setUpsets s c i us) d p = setUpsets (zeroGrad s d p) c i us := by
  have h := sameParams_setUpsets s c i us
  unfold zeroGrad
  rw [h.nrows, h.ncols, h.roleWrites, wrMem_setUpsets]
  split <;> rfl

theorem flagUnits_ops (s : State) (d : Desc) (us : List Nat) : (flagUnits s d us).ops = s.ops :=
  foldl_ops (fun _ _ => (event_ops _ _ _ _).trans (flagCell_ops _ _ _)) us s

theorem flagUnits_setUpsets (s : State) (c i : Nat) (us : List TileUpset) (d : Desc) (l : List Nat) :
    flagUnits (setUpsets s c i us) d l = setUpsets (flagUnits s d l) c i us := by
  rw [setUpsets_withOps, flagUnits_withOps, withOps_setUpsets (flagUnits_ops s d l)]

/-- Upsets leave whether a step closes. -/
theorem sameClosing_setUpsets (s : State) (c i : Nat) (us : List TileUpset) : SameClosing (setUpsets s c i us).ops s.ops := by
  intro t
  show (s.ops.map _).any _ = s.ops.any _
  rw [List.any_map]
  refine congrArg (s.ops.any ·) (funext fun x => ?_)
  by_cases hx : isOp c i x = true
  · simp only [Function.comp_apply, hx, if_true]
    rfl
  · simp only [Function.comp_apply, hx]
    rfl

theorem rederive_setUpsets (s : State) (c i : Nat) (us : List TileUpset) (cellOf : Nat → Nat) (eval : Bool) (p : Nat) (a : Mat) :
    rederive (setUpsets s c i us) cellOf eval p a =
      (setUpsets (rederive s cellOf eval p a).1 c i us, (rederive s cellOf eval p a).2) := by
  rw [setUpsets_withOps, rederive_withOps (sameClosing_setUpsets s c i us), withOps_setUpsets (rederive_ops s cellOf eval p a)]

section Update
variable {s : State} {o : Op} (us : List TileUpset)

theorem lateZeroed_setUpsets :
    lateZeroed (setUpsets s o.ctx o.idx us) (o.withUpsets us) = setUpsets (lateZeroed s o) o.ctx o.idx us := by
  have hz := zeroGrad_setUpsets s o.ctx o.idx us o.d (nextParam o)
  unfold lateZeroed
  rw [updOf_withUpsets, nextParam_withUpsets,
    Op.withUpsets_d, hz]
  split <;> rfl

theorem sameSpan_setUpsets : SameSpan s o (setUpsets s o.ctx o.idx us) (o.withUpsets us) :=
  ⟨sameParams_setUpsets s o.ctx o.idx us, rfl, rfl, rfl, rfl⟩

/-- The next gradient is read the same way. -/
theorem updForm_setUpsets (h3 : uOpt o.d ≠ 3) (hok : prodFailed (lateZeroed s o) o.ctx o.idx = false) :
    updForm (setUpsets s o.ctx o.idx us) (o.withUpsets us) = setUpsets (updForm s o) o.ctx o.idx us := by
  cases hf : (updOf o).formed with
  | true => rw [updForm_formed (o := o.withUpsets us) hf, updForm_formed hf]
  | false =>
    have hok' : prodFailed (lateZeroed (setUpsets s o.ctx o.idx us) (o.withUpsets us)) o.ctx o.idx = false := by
      rw [lateZeroed_setUpsets, prodFailed_setUpsets, hok]
    have hgrad : updGrad (setUpsets s o.ctx o.idx us) (o.withUpsets us) (nextParam o) = updGrad s o (nextParam o) :=
      (sameSpan_setUpsets us).grad
    rw [updForm_plain h3 hf hok, updForm_plain (o := o.withUpsets us) h3 hf hok', lateZeroed_setUpsets, nextParam_withUpsets,
      Op.withUpsets_ctx, Op.withUpsets_idx, hgrad, setUpd_setUpsets, relCheck_setUpsets]

/-- Units of the next parameter are computed and written the same way. -/
theorem updUnits_setUpsets (k : Nat) (skip : Bool) :
    updUnits (setUpsets s o.ctx o.idx us) (o.withUpsets us) k skip = setUpsets (updUnits s o k skip) o.ctx o.idx us := by
  cases skip with
  | true => rw [updUnits_skip, updUnits_skip, Op.withUpsets_ctx, Op.withUpsets_idx, setUpd_setUpsets]
  | false =>
    have h : SameSpan s o _ _ := sameSpan_setUpsets us
    rw [updUnits_writes, updUnits_writes, h.spanPuts, h.spanBad, Op.withUpsets_ctx, Op.withUpsets_idx, Op.withUpsets_d,
      flagUnits_setUpsets, wrMem_setUpsets, setUpd_setUpsets]

/-- The next parameter is done the same way. -/
theorem paramDone_setUpsets (skip : Bool) :
    paramDone (setUpsets s o.ctx o.idx us) (o.withUpsets us) skip = setUpsets (paramDone s o skip) o.ctx o.idx us := by
  have hseq : seqWrites (setUpsets s o.ctx o.idx us) (o.withUpsets us) = seqWrites s o := rfl
  have hredone : redone (setUpsets s o.ctx o.idx us) (o.withUpsets us) skip =
      (setUpsets (redone s o skip).1 o.ctx o.idx us, (redone s o skip).2) := by
    unfold redone
    cases skip with
    | true => rfl
    | false =>
      simp only [Bool.false_eq_true, if_false]
      rw [nextParam_withUpsets, Op.withUpsets_d,
        (sameParams_setUpsets s o.ctx o.idx us).roleMat, rederive_setUpsets]
  have hdrop : ∀ t ws, skidDrop (wrMem (setUpsets t o.ctx o.idx us) ws) (o.withUpsets us) (nextParam o) =
      setUpsets (skidDrop (wrMem t ws) o (nextParam o)) o.ctx o.idx us := fun _ _ => rfl
  unfold paramDone
  rw [hredone, hseq, nextParam_withUpsets, Op.withUpsets_ctx, Op.withUpsets_idx, hdrop, setUpd_setUpsets]

end Update

end Sys2Proof.Machine
end

section
/-!
SUPPORT. What counting and flagging leave of an UPDATE's state: memory, the skid buffer, and the place of the parameter records.
-/

namespace Sys2Proof.Machine

/-- `t` has the memory and the skid entries of `s`; in canonical states, it is canonical and its parameter records stand where
those of `s` do. -/
structure Steady (s t : State) : Prop where
  mem : t.mem = s.mem
  skid : t.skid = s.skid
  canonical : s.canonical = true → t.canonical = true
  place : s.canonical = true → ∀ p, paramAddr t p = paramAddr s p

theorem Steady.refl (s : State) : Steady s s := ⟨rfl, rfl, id, fun _ _ => rfl⟩

theorem Steady.trans {s t u : State} (h : Steady s t) (k : Steady t u) : Steady s u :=
  ⟨k.mem.trans h.mem, k.skid.trans h.skid, fun hs => k.canonical (h.canonical hs),
    fun hs p => (k.place (h.canonical hs) p).trans (h.place hs p)⟩

theorem Steady.params {s t : State} (h : Steady s t) (hs : s.canonical = true) : SameParams s t := ⟨h.place hs, h.mem⟩

theorem Steady.foldl {β : Type} {f : State → β → State} (hf : ∀ t x, Steady t (f t x)) (l : List β) (s : State) :
    Steady s (l.foldl f s) := by
  induction l generalizing s with
  | nil => exact .refl s
  | cons x l ih => exact (hf s x).trans (ih _)

/-! ### The place of the parameter records -/

/-- The words of PARAM_BASE tell where the parameter records stand. -/
theorem paramAddr_congr {s t : State}
    (h : ∀ g : Fld, g = Reg.paramBase_baseLo ∨ g = Reg.paramBase_baseHi → getF t landABase g 0 = getF s landABase g 0) (p : Nat) :
    paramAddr t p = paramAddr s p := by
  simp only [paramAddr, getA2, get2, h _ (.inl rfl), h _ (.inr rfl)]

/-- Events of a block that is aligned as the Cells' and Mills' are. -/
theorem Steady.event (s : State) {base : Nat} (hb : base % 0x10000 = 0) (src n : Nat) : Steady s (event s base src n) := by
  have hregs := event_regsOnly s base src n
  refine ⟨event_mem s base src n, (congrArg State.skid hregs).trans rfl, (event_kept s base src n (.refl s)).canonical,
    fun hs => paramAddr_congr fun g hg => getF_event_outside hs ?_⟩
  rcases hg with rfl | rfl <;>
    simp only [IsCounterWord, fldAddr, landABase, Reg.paramBase_baseLo, Reg.paramBase_baseHi] <;> omega

theorem cellBase_aligned (n : Nat) : cellBase n % 0x10000 = 0 := by
  unfold cellBase
  omega

theorem millBase_aligned (n : Nat) : millBase n % 0x10000 = 0 := by
  unfold millBase
  omega

/-- A count of a Cell that lies below the words of PARAM_BASE. -/
theorem Steady.countCell (s : State) (cell n : Nat) {f : Fld} (hf : f.off < 0x1600) : Steady s (countF s (cellBase cell) f 0 n) := by
  refine ⟨countF_mem .., countF_skid .., (countF_kept _ _ _ _ _ (.refl s)).canonical,
    fun hs => paramAddr_congr fun g hg => getF_setF_other _ _ _ _ _ _ _ _ hs ?_⟩
  rcases hg with rfl | rfl <;>
    simp only [fldAddr, landABase, cellBase, Reg.paramBase_baseLo, Reg.paramBase_baseHi] <;> omega

/-! ### Flags and conversions -/

theorem Steady.updOp (s : State) (c i : Nat) (f : Op → Op) : Steady s (updOp s c i f) :=
  ⟨rfl, rfl, (updOp_kept s c i f (.refl s)).canonical, fun _ _ => rfl⟩

theorem Steady.semAdd (s : State) (n v : Nat) : Steady s (semAdd s n v) :=
  ⟨rfl, rfl, (semAdd_kept s n v (.refl s)).canonical, fun _ _ => rfl⟩

theorem Steady.flagCell (s : State) (n : Nat) (b : Bool) : Steady s (flagCell s n b) := by
  refine ⟨flagCell_mem s n b, ?skid, (flagCell_kept s n b (.refl s)).canonical, fun _ _ => ?place⟩
  all_goals
    unfold Machine.flagCell
    split <;> rfl

theorem Steady.flagUnits (s : State) (d : Desc) (us : List Nat) : Steady s (flagUnits s d us) :=
  .foldl (fun t _ => (Steady.flagCell t _ _).trans (.event _ (cellBase_aligned _) _ _)) us s

theorem Steady.addFmt (s : State) (code : Nat) (d : FmtCounts) : Steady s (addFmt s code d) := by
  refine ⟨?mem, ?skid, (addFmt_kept s code d (.refl s)).canonical, fun _ _ => ?place⟩
  all_goals
    unfold Machine.addFmt
    split <;> rfl

theorem Steady.countConv (s : State) (cell : Nat) (eval : Bool) (code : Nat) (cs : List Cls) :
    Steady s (countConv s cell eval none code cs) := by
  unfold Machine.countConv
  split
  · exact .refl s
  · dsimp only
    split
    · exact (Steady.event s (millBase_aligned _) _ _).trans (.addFmt _ _ _)
    · exact .event s (millBase_aligned _) _ _

theorem Steady.unitOut (s : State) (cell : Nat) (eval : Bool) (u : Nat) (f : Fmt) (xs : List (FVal × Rnd)) (g : List Nat) :
    Steady s (unitOut s cell eval none u f xs g).1 :=
  ((Steady.countConv s cell eval _ _).trans (.flagCell _ _ _)).trans (.event _ (cellBase_aligned _) _ _)

theorem Steady.blocksOut (s : State) (cell : Nat) (eval : Bool) (f : Fmt) (b : Bool) (bs : List (List (FVal × Rnd))) :
    Steady s (blocksOut s cell eval f b bs).1 :=
  ((Steady.countConv s cell eval _ _).trans (.flagCell _ _ _)).trans (.event _ (cellBase_aligned _) _ _)

/-- A fold over a state and what is gathered beside it. -/
theorem Steady.foldl_fst {β γ : Type} {f : State × γ → β → State × γ} (hf : ∀ acc x, Steady acc.1 (f acc x).1) (l : List β)
    (acc : State × γ) : Steady acc.1 (l.foldl f acc).1 := by
  induction l generalizing acc with
  | nil => exact .refl _
  | cons x l ih => exact (hf acc x).trans (ih _)

theorem Steady.plainRun (s : State) (cellOf : Nat → Nat) (eval : Bool) (p : Nat) (a : Mat) :
    Steady s (plainRun s cellOf eval p a).1 := by
  have hstep : ∀ acc vs, Steady acc.1 (plainStep cellOf eval (fwFmtD (pWfmt s p)) acc vs).1 := fun acc vs =>
    .unitOut acc.1 _ _ 0 _ _ []
  unfold Machine.plainRun
  exact Steady.foldl_fst hstep _ (s, 0, [])

theorem Steady.blockRun (s : State) (cellOf : Nat → Nat) (eval : Bool) (p : Nat) (a : Mat) :
    Steady s (blockRun s cellOf eval p a).1 := by
  have hstep : ∀ acc b, Steady acc.1 (blockStep (blockElem s p) cellOf eval (fwFmtD (pWfmt s p)) acc b).1 := fun acc b =>
    .blocksOut acc.1 _ _ _ _ _
  unfold Machine.blockRun
  exact Steady.foldl_fst hstep _ (s, [], [])

/-- A re-derivation counts and flags; its writes are not made yet. -/
theorem Steady.rederive (s : State) (cellOf : Nat → Nat) (eval : Bool) (p : Nat) (a : Mat) :
    Steady s (rederive s cellOf eval p a).1 := by
  cases hm : fwMx (pWfmt s p) with
  | false =>
    rw [rederive_plain hm]
    exact .plainRun s cellOf eval p a
  | true =>
    rw [rederive_mx hm]
    exact .blockRun s cellOf eval p a

end Sys2Proof.Machine
end

section
/-!
SUPPORT. Products that an UPDATE assigns to the arrays (R189, R256): each leaves counts, or ends its operation with CHECK_FAIL.
-/

namespace Sys2Proof.Machine

/-! ### Counts of an operation -/

/-- A change of an operation's counts of re-runs, checks and products. -/
def CountsOnly (g : Op → Op) : Prop :=
  ∀ x, g x = { x with reruns := (g x).reruns, checks := (g x).checks, prods := (g x).prods }

theorem CountsOnly.id : CountsOnly (fun x => x) := fun _ => rfl

theorem CountsOnly.place {g : Op → Op} (h : CountsOnly g) (x : Op) : (g x).ctx = x.ctx ∧ (g x).idx = x.idx := by
  rw [h x]
  exact ⟨rfl, rfl⟩

theorem CountsOnly.ended {g : Op → Op} (h : CountsOnly g) (x : Op) : (g x).ended = x.ended := by rw [h x]

theorem CountsOnly.comp {g f : Op → Op} (hg : CountsOnly g) (hf : CountsOnly f) : CountsOnly (fun x => f (g x)) := by
  intro x
  dsimp only
  rw [hf (g x), hg x]

/-- `t` is as `s` for an UPDATE but for the counts of the operation of a place. -/
structure Tallied (c i : Nat) (s t : State) : Prop where
  steady : Steady s t
  ops : ∃ g, CountsOnly g ∧ t.ops = (updOp s c i g).ops

theorem Tallied.updOp (s : State) (c i : Nat) {g : Op → Op} (hg : CountsOnly g) : Tallied c i s (updOp s c i g) :=
  ⟨.updOp s c i g, g, hg, rfl⟩

theorem Tallied.of_ops {c i : Nat} {s t : State} (h : Steady s t) (ht : t.ops = s.ops) : Tallied c i s t :=
  ⟨h, fun x => x, .id, by rw [updOp_eq_self fun _ _ _ => rfl, ht]⟩

theorem Tallied.refl (c i : Nat) (s : State) : Tallied c i s s := .of_ops (.refl s) rfl

theorem Tallied.trans {c i : Nat} {s t u : State} (h : Tallied c i s t) (k : Tallied c i t u) : Tallied c i s u := by
  obtain ⟨g, hg, ht⟩ := h.ops
  obtain ⟨f, hf, hu⟩ := k.ops
  refine ⟨h.steady.trans k.steady, _, hg.comp hf, ?_⟩
  rw [← updOp_updOp s c i hg.place, hu]
  unfold Machine.updOp at ht ⊢
  rw [ht]

/-- The operation, with other counts. -/
theorem Tallied.findOp {c i : Nat} {s t : State} {o : Op} (h : Tallied c i s t) (ho : findOp s c i = some o) :
    ∃ g, CountsOnly g ∧ Machine.findOp t c i = some (g o) := by
  obtain ⟨g, hg, ht⟩ := h.ops
  exact ⟨g, hg, (findOp_congr ht c i).trans (findOp_updOp_same s c i g ho hg.place)⟩

theorem Tallied.noUpsets {c i : Nat} {s t : State} (h : Tallied c i s t) (hs : NoUpsets c i s) : NoUpsets c i t := by
  obtain ⟨g, hg, ht⟩ := h.ops
  refine hs.updOp (fun x => ?_) ht
  rw [hg x]
  exact ⟨rfl, rfl, rfl⟩

/-! ### Products -/

/-- The operation of a place has ended with CHECK_FAIL. -/
def CheckFailed (c i : Nat) (s : State) : Prop :=
  ∃ p, findOp s c i = some p ∧ p.ended.map (fun e => e.status) = some .checkFail

theorem CheckFailed.congr {c i : Nat} {s t : State} (h : CheckFailed c i s) (ht : t.ops = s.ops) : CheckFailed c i t := by
  unfold CheckFailed
  rwa [findOp_congr ht]

theorem CheckFailed.prodFailed {c i : Nat} {s : State} (h : CheckFailed c i s) : prodFailed s c i = true := by
  obtain ⟨p, hp, he⟩ := h
  unfold Machine.prodFailed
  rw [hp]
  dsimp only
  cases hpe : p.ended with
  | none => simp [hpe] at he
  | some e => rfl

/-- Work on products for an operation from `s` to `u`: of one that runs it leaves counts, or ends it with CHECK_FAIL, and one
that has failed stays so. -/
structure ProductStep (c i : Nat) (s u : State) : Prop where
  runs : ∀ p, findOp s c i = some p → p.ended = none → Tallied c i s u ∨ CheckFailed c i u
  failed : CheckFailed c i s → CheckFailed c i u

theorem ProductStep.trans {c i : Nat} {s t u : State} (h : ProductStep c i s t) (k : ProductStep c i t u) : ProductStep c i s u := by
  refine ⟨fun p hp he => ?_, fun hf => k.failed (h.failed hf)⟩
  rcases h.runs p hp he with ht | hf
  · obtain ⟨g, hg, hfound⟩ := ht.findOp hp
    exact (k.runs _ hfound ((hg.ended p).trans he)).imp_left ht.trans
  · exact .inr (k.failed hf)

theorem ProductStep.of_steady {c i : Nat} {s u : State} (h : Steady s u) (hu : u.ops = s.ops) : ProductStep c i s u :=
  ⟨fun _ _ _ => .inl (.of_ops h hu), fun hf => hf.congr hu⟩

theorem ProductStep.refl (c i : Nat) (s : State) : ProductStep c i s s := .of_steady (.refl s) rfl

theorem prodMacs_steady (s : State) (cell : Nat) (x : MatSpec) : Steady s (prodMacs s cell x) :=
  .event s (cellBase_aligned cell) _ _

theorem prodMacs_ops (s : State) (cell : Nat) (x : MatSpec) : (prodMacs s cell x).ops = s.ops := event_ops _ _ _ _

theorem Tallied.prodMacs (c i : Nat) (s : State) (cell : Nat) (x : MatSpec) : Tallied c i s (prodMacs s cell x) :=
  .of_ops (prodMacs_steady s cell x) (prodMacs_ops s cell x)

theorem Tallied.countCheckOn (s : State) (c i cell : Nat) (failed : Bool) : Tallied c i s (countCheckOn s c i cell failed) := by
  have hcheck : Tallied c i s (opChecks s c i 1) := .updOp s c i fun _ => rfl
  have hcount := Steady.countCell (opChecks s c i 1) cell 1 (f := Reg.matChecks_count) (by decide)
  have hevent := hcount.trans (.event _ (cellBase_aligned cell) 0x03 1)
  have hops : (Machine.countCheckOn s c i cell failed).ops = (opChecks s c i 1).ops :=
    (congrArg State.ops (countCheckOn_frame s c i cell failed)).trans rfl
  refine hcheck.trans (.of_ops ?_ hops)
  unfold Machine.countCheckOn
  dsimp only
  split
  · exact hevent.trans (.countCell _ cell 1 (by decide))
  · exact hevent

theorem Tallied.prodAgain (s : State) (c i cell : Nat) : Tallied c i s (prodAgain s c i cell) :=
  (Tallied.updOp s c i (g := fun o => { o with reruns := o.reruns + 1 }) fun _ => rfl).trans
    (.of_ops (.event _ (cellBase_aligned cell) _ _) (event_ops _ _ _ _))

theorem prodFlag_step (c i : Nat) (s : State) (cell : Nat) (hit : Bool) : ProductStep c i s (prodFlag s cell hit) :=
  .of_steady ((Steady.flagCell s cell hit).trans (.event _ (cellBase_aligned cell) _ _))
    ((event_ops _ _ _ _).trans (flagCell_ops _ _ _))

theorem prodFails_checkFailed {s : State} {c i : Nat} {p : Op} (hp : findOp s c i = some p) (cell t runs : Nat) (q : Nat × Nat) :
    CheckFailed c i (prodFails s c i cell t runs q) :=
  ⟨_, (findOp_congr (countF_ops _ _ _ _ _) c i).trans (findOp_endWithRecord_same _ _ _ _ hp), rfl⟩

/-- A tile under the sum check stands, or it fails its operation. -/
theorem prodSum_spec {s : State} {o p : Op} (hp : findOp s o.ctx o.idx = some p) (cell : Nat) (x : MatSpec) (t k : Nat) :
    Tallied o.ctx o.idx s (prodSum s o cell x t k).1 ∨ CheckFailed o.ctx o.idx (prodSum s o cell x t k).1 := by
  have hagain : ∀ b b', Tallied o.ctx o.idx s (countCheckOn (prodMacs (prodAgain (countCheckOn s o.ctx o.idx cell b) o.ctx o.idx cell)
      cell x) o.ctx o.idx cell b') := fun b b' =>
    (((Tallied.countCheckOn _ _ _ _ _).trans (.prodAgain _ _ _ _)).trans (.prodMacs _ _ _ _ _)).trans (.countCheckOn _ _ _ _ _)
  unfold prodSum
  dsimp only
  split
  · exact .inl (.countCheckOn _ _ _ _ _)
  · split
    · exact .inl (hagain _ _)
    · obtain ⟨g, _, hfound⟩ := (hagain _ _).findOp hp
      exact .inr (prodFails_checkFailed hfound _ _ _ _)

/-- A tile under the duplicate check stands, or it fails its operation. -/
theorem prodDup_spec {s : State} {o p : Op} (hp : findOp s o.ctx o.idx = some p) (cell : Nat) (x : MatSpec) (t k : Nat) :
    Tallied o.ctx o.idx s (prodDup s o cell x t k).1 ∨ CheckFailed o.ctx o.idx (prodDup s o cell x t k).1 := by
  have htwice : ∀ b, Tallied o.ctx o.idx s (countCheckOn (prodMacs s cell x) o.ctx o.idx cell b) := fun b =>
    (Tallied.prodMacs _ _ _ _ _).trans (.countCheckOn _ _ _ _ _)
  have hthird : ∀ b b', Tallied o.ctx o.idx s (countCheckOn (prodMacs (prodAgain (countCheckOn (prodMacs s cell x) o.ctx o.idx cell b)
      o.ctx o.idx cell) cell x) o.ctx o.idx cell b') := fun b b' =>
    (((htwice b).trans (.prodAgain _ _ _ _)).trans (.prodMacs _ _ _ _ _)).trans (.countCheckOn _ _ _ _ _)
  unfold prodDup
  dsimp only
  split
  · exact .inl (htwice _)
  · split
    · exact .inl (hthird _ _)
    · obtain ⟨g, _, hfound⟩ := (hthird _ _).findOp hp
      exact .inr (prodFails_checkFailed hfound _ _ _ _)

/-- A tile of an operation that has ended is not computed. -/
theorem prodTile_ended {s : State} {c i : Nat} {p : Op} (hp : findOp s c i = some p) (he : p.ended.isSome = true) (cell : Nat)
    (x : MatSpec) (t : Nat) : (prodTile s c i cell x t).1 = s := by
  unfold prodTile
  rw [hp]
  dsimp only
  rw [if_pos he]

/-- The state in which an operation's product tile has begun. -/
def tileBegun (s : State) (p : Op) (cell : Nat) (x : MatSpec) : State :=
  prodMacs (updOp s p.ctx p.idx (fun q => { q with prods := q.prods + 1 })) cell x

/-- A product tile of an operation under its check: the state and the result that stands. -/
def tileChecked (s : State) (p : Op) (cell : Nat) (x : MatSpec) (t : Nat) : State × Option TileRun :=
  if dupNeeded x t (prodRun p x t p.prods 1) then prodDup (tileBegun s p cell x) p cell x t p.prods
  else prodSum (tileBegun s p cell x) p cell x t p.prods

theorem tileChecked_spec {s : State} {p : Op} (hp : findOp s p.ctx p.idx = some p) (cell : Nat) (x : MatSpec) (t : Nat) :
    Tallied p.ctx p.idx s (tileChecked s p cell x t).1 ∨ CheckFailed p.ctx p.idx (tileChecked s p cell x t).1 := by
  have hbegun : Tallied p.ctx p.idx s (tileBegun s p cell x) := (Tallied.updOp s _ _ fun _ => rfl).trans (.prodMacs _ _ _ _ _)
  obtain ⟨g, _, hfound⟩ := hbegun.findOp hp
  unfold tileChecked
  split
  · exact (prodDup_spec hfound cell x t p.prods).imp_left hbegun.trans
  · exact (prodSum_spec hfound cell x t p.prods).imp_left hbegun.trans

/-- A tile of an operation that runs leaves its check's state, with its Cell flagged where a result stands. -/
theorem prodTile_runs {s : State} {p : Op} (hp : findOp s p.ctx p.idx = some p) (he : p.ended = none) (cell : Nat) (x : MatSpec)
    (t : Nat) : (prodTile s p.ctx p.idx cell x t).1 = (tileChecked s p cell x t).1 ∨
      ∃ hit, (prodTile s p.ctx p.idx cell x t).1 = prodFlag (tileChecked s p cell x t).1 cell hit := by
  unfold prodTile
  rw [hp]
  dsimp only
  rw [if_neg (by simp [he])]
  unfold tileChecked tileBegun
  generalize (if dupNeeded x t (prodRun p x t p.prods 1) = true then _ else _ : State × Option TileRun) = y
  cases y.2 with
  | some r => exact .inr ⟨_, rfl⟩
  | none => exact .inl rfl

/-- One tile of a product. -/
theorem prodTile_step (s : State) (c i cell : Nat) (x : MatSpec) (t : Nat) : ProductStep c i s (prodTile s c i cell x t).1 := by
  refine ⟨fun p hp he => ?runs, fun hf => ?failed⟩
  case failed =>
    obtain ⟨p, hp, hst⟩ := hf
    have he : p.ended.isSome = true := by
      cases hpe : p.ended with
      | none => simp [hpe] at hst
      | some e => rfl
    rw [prodTile_ended hp he]
    exact ⟨p, hp, hst⟩
  case runs =>
    obtain ⟨rfl, rfl⟩ := findOp_place hp
    have hchecked : ProductStep p.ctx p.idx s (tileChecked s p cell x t).1 :=
      ⟨fun _ _ _ => tileChecked_spec hp cell x t, fun ⟨q, hq, hst⟩ => by
        obtain rfl : p = q := Option.some_inj.mp (hp.symm.trans hq)
        simp [he] at hst⟩
    rcases prodTile_runs hp he cell x t with h | ⟨hit, h⟩
    · exact h ▸ hchecked.runs p hp he
    · exact h ▸ (hchecked.trans (prodFlag_step _ _ _ cell hit)).runs p hp he

theorem ProductStep.foldl_fst {β γ : Type} {c i : Nat} {f : State × γ → β → State × γ}
    (hf : ∀ acc x, ProductStep c i acc.1 (f acc x).1) (l : List β) (acc : State × γ) :
    ProductStep c i acc.1 (l.foldl f acc).1 := by
  induction l generalizing acc with
  | nil => exact .refl c i acc.1
  | cons x l ih => exact (hf acc x).trans (ih _)

/-- A whole product. -/
theorem arrProduct_step (s : State) (c i : Nat) (cells : List Nat) (x : MatSpec) (keep : Nat → Bool) :
    ProductStep c i s (arrProduct s c i cells x keep).1 := by
  unfold arrProduct
  refine ProductStep.foldl_fst (fun acc t => ?_) _ (s, [])
  exact prodTile_step acc.1 c i _ x t

theorem leftProd_step (s : State) (c i : Nat) (cells : List Nat) (m n : Nat) (l : Option Mat) (a : Mat) :
    ProductStep c i s (leftProd s c i cells m n l a).1 := by
  cases l with
  | some q => exact arrProduct_step s c i cells _ _
  | none => exact .refl c i s

theorem rightProd_step (s : State) (c i : Nat) (cells : List Nat) (m n : Nat) (a : Mat) (r : Option Mat) :
    ProductStep c i s (rightProd s c i cells m n a r).1 := by
  cases r with
  | some q => exact arrProduct_step s c i cells _ _
  | none => exact .refl c i s

/-- R256: the products of a preconditioned gradient. -/
theorem updPrecond_step (s : State) (o : Op) (p : Nat) (g : Mat) : ProductStep o.ctx o.idx s (updPrecond s o p g).1 :=
  (leftProd_step _ _ _ _ _ _ _ _).trans (rightProd_step _ _ _ _ _ _ _ _)

end Sys2Proof.Machine
end

section
/-!
SUPPORT. What the parts of an UPDATE leave: its operation, memory, the skid buffer, and the upsets of product tiles.
-/

namespace Sys2Proof.Machine

/-! ### An UPDATE's progress -/

/-- An operation with its UPDATE progress changed. -/
def Op.withUpd (f : UpdWork → UpdWork) (o : Op) : Op := { o with work := .upd (f (updOf o)) }

@[simp] theorem updOf_withUpd (o : Op) (f : UpdWork → UpdWork) : updOf (o.withUpd f) = f (updOf o) := rfl

theorem findOp_setUpd {s : State} {c i : Nat} {o : Op} (f : UpdWork → UpdWork) (h : findOp s c i = some o) :
    findOp (setUpd s c i f) c i = some (o.withUpd f) := findOp_updOp_same s c i _ h fun _ => ⟨rfl, rfl⟩

theorem Steady.setUpd (s : State) (c i : Nat) (f : UpdWork → UpdWork) : Steady s (setUpd s c i f) := .updOp s c i _

theorem NoUpsets.setUpd {s : State} {c i : Nat} (h : NoUpsets c i s) (f : UpdWork → UpdWork) : NoUpsets c i (setUpd s c i f) :=
  h.updOp (f := Op.withUpd f) (fun _ => ⟨rfl, rfl, rfl⟩) rfl

theorem NoUpsets.endOp {s : State} {c i : Nat} (h : NoUpsets c i s) (e : OpEnd) : NoUpsets c i (endOp s c i e) :=
  h.updOp (f := fun o => { o with ended := some e }) (fun _ => ⟨rfl, rfl, rfl⟩) rfl

/-- Progress with REL_SEM raised. -/
def UpdWork.release (w : UpdWork) : UpdWork := { w with rel := true }

/-- A release raises REL_SEM and notes it, where it is due. -/
theorem relCheck_cases (s : State) (c i : Nat) :
    relCheck s c i = s ∨ ∃ n, relCheck s c i = setUpd (semAdd s n 1) c i UpdWork.release := by
  unfold relCheck
  split
  · exact .inl rfl
  · dsimp only
    split
    · exact .inr ⟨_, rfl⟩
    · exact .inl rfl

theorem Steady.relCheck (s : State) (c i : Nat) : Steady s (relCheck s c i) := by
  rcases relCheck_cases s c i with h | ⟨n, h⟩
  · rw [h]
    exact .refl s
  · rw [h]
    exact (Steady.semAdd s n 1).trans (.setUpd _ c i _)

theorem NoUpsets.relCheck {s : State} {c i : Nat} (h : NoUpsets c i s) : NoUpsets c i (relCheck s c i) := by
  rcases relCheck_cases s c i with e | ⟨n, e⟩
  · rwa [e]
  · rw [e]
    exact (NoUpsets.congr (t := semAdd s n 1) h rfl).setUpd _

/-- The operation after a release that is due or not: its progress but for the note of it. -/
theorem findOp_relCheck {s : State} {c i : Nat} {o : Op} (h : findOp s c i = some o) :
    findOp (relCheck s c i) c i = some o ∨ findOp (relCheck s c i) c i = some (o.withUpd UpdWork.release) := by
  rcases relCheck_cases s c i with e | ⟨n, e⟩
  · exact .inl (by rwa [e])
  · exact .inr (by rw [e]; exact findOp_setUpd (s := semAdd s n 1) _ h)

/-! ### A gradient formed -/

/-- `t` with the operation `q` is `s` with `o` once the next gradient has been formed. -/
structure Formed (s : State) (o : Op) (t : State) (q : Op) : Prop where
  found : findOp t o.ctx o.idx = some q
  desc : q.d = o.d
  ended : q.ended = o.ended
  applied : (updOf q).applied = (updOf o).applied
  unit : (updOf q).unit = (updOf o).unit
  gathered : (updOf q).gathered = (updOf o).gathered
  steady : Steady s t
  noUpsets : NoUpsets o.ctx o.idx s → NoUpsets o.ctx o.idx t
  plain : uOpt o.d ≠ 3 → updGrad t q (nextParam o) = updGrad s o (nextParam o) ∧ q.reruns = o.reruns

theorem Formed.next {s t : State} {o q : Op} (h : Formed s o t q) : nextParam q = nextParam o := by
  unfold nextParam
  rw [h.desc, h.applied]

/-- The products of a gradient, where none fails: counts only, and nothing at all but for OPT 3. -/
theorem gradFormed_spec {s : State} {o : Op} (ho : findOp s o.ctx o.idx = some o) (he : o.ended = none)
    (hz : uZero o.d = false ∨ nextParam o ∉ (updOf o).late) :
    Tallied o.ctx o.idx s (gradFormed s o).1 ∨ CheckFailed o.ctx o.idx (gradFormed s o).1 := by
  by_cases h3 : uOpt o.d = 3
  · unfold gradFormed
    rw [if_pos h3, lateZeroed_eq hz]
    exact (updPrecond_step s o _ _).runs o ho he
  · rw [gradFormed_plain h3, lateZeroed_eq hz]
    exact .inl (.refl _ _ s)

/-- A gradient whose products failed leaves its operation ended. -/
theorem prodFailed_updForm {s : State} {o : Op} (hf : (updOf o).formed = false)
    (h : prodFailed (gradFormed s o).1 o.ctx o.idx = true) : prodFailed (updForm s o) o.ctx o.idx = true := by
  rw [updForm_fails hf h]
  exact h

/-- What forming the next gradient leaves, where no product fails and nothing is zeroed late. -/
theorem updForm_spec {s : State} {o : Op} (ho : findOp s o.ctx o.idx = some o) (he : o.ended = none)
    (hz : uZero o.d = false ∨ nextParam o ∉ (updOf o).late) (hok : prodFailed (updForm s o) o.ctx o.idx = false) :
    ∃ q, Formed s o (updForm s o) q := by
  cases hf : (updOf o).formed with
  | true =>
    rw [updForm_formed hf]
    exact ⟨o, ho, rfl, rfl, rfl, rfl, rfl, .refl s, id, fun _ => ⟨rfl, rfl⟩⟩
  | false =>
    have hok1 : prodFailed (gradFormed s o).1 o.ctx o.idx = false := by
      rw [← Bool.not_eq_true]
      intro h
      rw [prodFailed_updForm hf h] at hok
      cases hok
    have htally := (gradFormed_spec ho he hz).resolve_right fun h => by
      rw [h.prodFailed] at hok1
      cases hok1
    obtain ⟨g, hg, hfound⟩ := htally.findOp ho
    rw [updForm_forms hf hok1]
    have hset := findOp_setUpd (UpdWork.form (nextParam o) (gradBytes s o)) hfound
    have hwork : updOf (g o) = updOf o := by
      rw [hg o]
      rfl
    have happlied : (updOf (g o)).applied = (updOf o).applied := congrArg UpdWork.applied hwork
    have hunit : (updOf (g o)).unit = (updOf o).unit := congrArg UpdWork.unit hwork
    have hgathered : (updOf (g o)).gathered = (updOf o).gathered := congrArg UpdWork.gathered hwork
    have hdesc : (g o).d = o.d := by rw [hg o]
    have hgrad : ∀ (t : State) (f : UpdWork → UpdWork), (∀ w, (f w).grads = w.grads) →
        updGrad t (((g o).withUpd (UpdWork.form (nextParam o) (gradBytes s o))).withUpd f) (nextParam o) = gradBytes s o := by
      intro t f hfg
      unfold updGrad
      simp [hfg, UpdWork.form]
    have hreruns : uOpt o.d ≠ 3 → (g o).reruns = o.reruns := fun h3 => by
      rw [gradFormed_plain h3, lateZeroed_eq hz, ho, Option.some_inj] at hfound
      rw [← hfound]
    have hsteady := htally.steady.trans ((Steady.setUpd _ o.ctx o.idx (UpdWork.form (nextParam o) (gradBytes s o))).trans
      (.relCheck _ o.ctx o.idx))
    have hnone : NoUpsets o.ctx o.idx s → NoUpsets o.ctx o.idx _ := fun h => ((htally.noUpsets h).setUpd
      (UpdWork.form (nextParam o) (gradBytes s o))).relCheck
    rcases findOp_relCheck hset with h | h
    · exact ⟨_, h, hdesc, hg.ended o, happlied, hunit, hgathered, hsteady, hnone,
        fun h3 => ⟨(hgrad _ id fun _ => rfl).trans (gradBytes_plain h3), hreruns h3⟩⟩
    · exact ⟨_, h, hdesc, hg.ended o, happlied, hunit, hgathered, hsteady, hnone,
        fun h3 => ⟨(hgrad _ UpdWork.release fun _ => rfl).trans (gradBytes_plain h3), hreruns h3⟩⟩

/-- Once formed, the gradient of OPT 0 to 2 is applied from the same unit on. -/
theorem Formed.sameSpan {s t : State} {o q : Op} (h : Formed s o t q) (hs : s.canonical = true) (h3 : uOpt o.d ≠ 3) :
    SameSpan s o t q := ⟨h.steady.params hs, h.desc, h.next, h.unit, (h.plain h3).1⟩

/-! ### Units written, and a parameter done -/

/-- Memory written and progress noted. -/
theorem setUpd_wrMem_spec (s : State) (ws : List Host.Cell) (c i : Nat) (f : UpdWork → UpdWork) :
    (setUpd (wrMem s ws) c i f).mem = memWriteAll s.mem ws ∧ (setUpd (wrMem s ws) c i f).skid = s.skid ∧
      ∀ p, paramAddr (setUpd (wrMem s ws) c i f) p = paramAddr s p := ⟨rfl, rfl, fun _ => rfl⟩

/-- What units of a parameter leave. -/
theorem updUnits_spec {s : State} {o : Op} (k : Nat) (skip : Bool) (ho : findOp s o.ctx o.idx = some o) :
    findOp (updUnits s o k skip) o.ctx o.idx = some (o.withUpd (UpdWork.reach k)) ∧
      (updUnits s o k skip).mem = (if skip then s.mem else memWriteAll s.mem (spanPuts s o k)) ∧
      (updUnits s o k skip).skid = s.skid ∧
      (s.canonical = true → (updUnits s o k skip).canonical = true ∧ ∀ p, paramAddr (updUnits s o k skip) p = paramAddr s p) ∧
      (NoUpsets o.ctx o.idx s → NoUpsets o.ctx o.idx (updUnits s o k skip)) := by
  have hkept : s.canonical = true → (updUnits s o k skip).canonical = true := (updUnits_kept s o k skip (.refl s)).canonical
  cases skip with
  | true =>
    rw [updUnits_skip] at hkept ⊢
    exact ⟨findOp_setUpd _ ho, rfl, rfl, fun hs => ⟨hkept hs, fun _ => rfl⟩, fun h => h.setUpd _⟩
  | false =>
    rw [updUnits_writes] at hkept ⊢
    have hflag := Steady.flagUnits s o.d (spanBad s o k)
    have hops := flagUnits_ops s o.d (spanBad s o k)
    have hwritten : (wrMem (flagUnits s o.d (spanBad s o k)) (spanPuts s o k)).ops = s.ops := (wrMem_ops _ _).trans hops
    obtain ⟨hmem, hskid, hplace⟩ := setUpd_wrMem_spec (flagUnits s o.d (spanBad s o k)) (spanPuts s o k) o.ctx o.idx (UpdWork.reach k)
    refine ⟨findOp_setUpd _ ((findOp_congr hwritten _ _).trans ho), ?_, hskid.trans hflag.skid,
      fun hs => ⟨hkept hs, fun p => (hplace p).trans (hflag.place hs p)⟩, fun h => (h.congr hwritten).setUpd _⟩
    rw [hmem, hflag.mem]
    rfl

/-- What a parameter that is done leaves. -/
theorem paramDone_spec {s : State} {o : Op} (skip : Bool) (ho : findOp s o.ctx o.idx = some o) :
    findOp (paramDone s o skip) o.ctx o.idx = some (o.withUpd (UpdWork.done (nextParam o))) ∧
      (paramDone s o skip).mem = memWriteAll s.mem ((redone s o skip).2 ++ seqWrites s o) ∧
      (NoUpsets o.ctx o.idx s → NoUpsets o.ctx o.idx (paramDone s o skip)) := by
  have hredone : Steady s (redone s o skip).1 ∧ (redone s o skip).1.ops = s.ops := by
    cases skip with
    | true => exact ⟨.refl s, rfl⟩
    | false => exact ⟨.rederive _ _ _ _ _, rederive_ops _ _ _ _ _⟩
  obtain ⟨hsteady, hops⟩ := hredone
  refine ⟨findOp_setUpd _ ((findOp_congr hops _ _).trans ho), ?_, fun h => ?_⟩
  · exact congrArg (fun m => memWriteAll m ((redone s o skip).2 ++ seqWrites s o)) hsteady.mem
  · exact (h.congr (t := skidDrop (wrMem (redone s o skip).1 _) o (nextParam o)) hops).setUpd _

/-- What the last parameter leaves once it is done: the end of the UPDATE. -/
theorem updDone_spec {s : State} {o : Op} (skip : Bool) (ho : findOp s o.ctx o.idx = some o)
    (hl : (updOf o).applied + 1 = uCount o.d) :
    ∃ q, findOp (updDone s o skip) o.ctx o.idx = some q ∧ q.ended = some (updEnd q skip) ∧ q.reruns = o.reruns ∧
      (updDone s o skip).mem = memWriteAll s.mem ((redone s o skip).2 ++ seqWrites s o) ∧
      (NoUpsets o.ctx o.idx s → NoUpsets o.ctx o.idx (updDone s o skip)) := by
  obtain ⟨hfound, hmem, hnone⟩ := paramDone_spec skip ho
  rw [updDone_last hl hfound]
  exact ⟨_, findOp_endOp_same _ _ _ _ hfound, rfl, rfl, hmem, fun h => (hnone h).endOp _⟩

end Sys2Proof.Machine
end

section
/-!
SUPPORT. Where an UPDATE writes (R253, R255, R257, R158): elements of roles, working copies and SEQ, and what is read back.
-/

namespace Sys2Proof.Machine

/-! ### Addresses and regions -/

/-- Every write of a list lies within the extent of a region. -/
def WritesIn (r : Region) (ws : List Host.Cell) : Prop := ∀ w ∈ ws, r.off ≤ w.1 ∧ w.1 < regionEnd r

theorem WritesIn.nil (r : Region) : WritesIn r [] := fun _ h => by cases h

/-- Bytes that lie in a row of a region. -/
theorem WritesIn.row {g : Region} {i a : Nat} {bs : List Byte} (hi : i < g.rows) (ha : g.off + i * g.pitch ≤ a)
    (hb : a + bs.length ≤ g.off + i * g.pitch + g.len) : WritesIn g (bytesWrites a bs) := by
  intro w hw
  have hin := exists_mem_bytesWrites.mp ⟨w, hw, rfl⟩
  have hrow : i * g.pitch ≤ (g.rows - 1) * g.pitch := Nat.mul_le_mul_right _ (by omega)
  unfold regionEnd
  rw [if_neg (by omega)]
  omega

theorem WritesIn.flatMap {β : Type} {r : Region} {l : List β} {f : β → List Host.Cell} (h : ∀ x ∈ l, WritesIn r (f x)) :
    WritesIn r (l.flatMap f) := by
  intro w hw
  obtain ⟨x, hx, hw⟩ := List.mem_flatMap.mp hw
  exact h x hx w hw

/-- Addresses outside a region are none of the writes in it. -/
theorem WritesIn.ne {r : Region} {ws : List Host.Cell} (h : WritesIn r ws) {a : Nat} (ha : a < r.off ∨ regionEnd r ≤ a) :
    ∀ w ∈ ws, w.1 ≠ a := by
  intro w hw e
  have := h w hw
  omega

/-- Of two regions that do not meet, what lies in one lies outside the other. -/
theorem outside_of_not_meet {x y : Region} (h : regionsMeet x y = false) {a : Nat} (hx : x.off ≤ a ∧ a < regionEnd x) :
    a < y.off ∨ regionEnd y ≤ a := by
  by_contra hin
  have : regionsMeet x y = true := by
    simp only [regionsMeet, meets, Bool.and_eq_true, decide_eq_true_eq]
    omega
  rw [h] at this
  cases this

/-! ### The elements of a role -/

theorem le_f32Pitch (n : Nat) : 4 * n ≤ f32Pitch n := by
  unfold f32Pitch up16
  omega

/-- Element `i` of a role, by its row and its column. -/
theorem roleAt_eq (s : State) (p role r k : Nat) (hk : k < pNcols s p) :
    roleAt s p role (r * pNcols s p + k) = roleOff s p role + r * f32Pitch (pNcols s p) + 4 * k := by
  have hdiv : (r * pNcols s p + k) / pNcols s p = r := by
    rw [Nat.mul_comm, Nat.mul_add_div (by omega), Nat.div_eq_of_lt hk, Nat.add_zero]
  have hmod : (r * pNcols s p + k) % pNcols s p = k := by
    rw [Nat.mul_comm, Nat.mul_add_mod, Nat.mod_eq_of_lt hk]
  unfold roleAt
  rw [hdiv, hmod]

/-- An element of a shard has a row and a column. -/
theorem elem_place {m n j : Nat} (hj : j < m * n) : ∃ r k, r < m ∧ k < n ∧ j = r * n + k := by
  have hn : 0 < n := Nat.pos_of_ne_zero fun h => by simp [h] at hj
  refine ⟨j / n, j % n, (Nat.div_lt_iff_lt_mul hn).mpr hj, Nat.mod_lt _ hn, ?_⟩
  rw [Nat.mul_comm]
  exact (Nat.div_add_mod j n).symm

/-- The writes of values: byte `b` of value `i` at its place. -/
theorem mem_rolePuts {s : State} {p role first : Nat} {vs : List FVal} {w : Host.Cell} : w ∈ rolePuts s p role first vs ↔
    ∃ i b, i < vs.length ∧ b < 4 ∧
      w = (roleAt s p role (first + i) + b, (leBytes 4 (code32 (vs.getD i fvZero))).getD b 0) := by
  have hitem : ∀ x, x ∈ (List.range vs.length).zip vs ↔ ∃ i, i < vs.length ∧ x = (i, vs.getD i fvZero) := by
    intro x
    rw [List.mem_iff_getElem]
    constructor
    · rintro ⟨i, hi, rfl⟩
      have hi' : i < vs.length := by simpa using hi
      exact ⟨i, hi', by simp [hi']⟩
    · rintro ⟨i, hi, rfl⟩
      exact ⟨i, by simpa using hi, by simp [hi]⟩
  unfold rolePuts
  simp only [List.mem_flatMap, hitem, mem_bytesWrites, length_leBytes]
  constructor
  · rintro ⟨_, ⟨i, hi, rfl⟩, b, hb, rfl⟩
    exact ⟨i, b, hi, hb, rfl⟩
  · rintro ⟨i, b, hi, hb, rfl⟩
    exact ⟨_, ⟨i, hi, rfl⟩, b, hb, rfl⟩

/-- Values put into a role lie in its region. -/
theorem rolePuts_in {s : State} {p role first : Nat} {vs : List FVal} (h : first + vs.length ≤ pNrows s p * pNcols s p) :
    WritesIn (roleRegion s p role) (rolePuts s p role first vs) := by
  intro w hw
  obtain ⟨i, b, hi, hb, rfl⟩ := mem_rolePuts.mp hw
  obtain ⟨r, k, hr, hk, hj⟩ := elem_place (show first + i < pNrows s p * pNcols s p by omega)
  rw [hj, roleAt_eq s p role r k hk]
  have hrow := WritesIn.row (g := roleRegion s p role) (i := r) (a := roleOff s p role + r * f32Pitch (pNcols s p) + 4 * k)
    (bs := leBytes 4 0) hr (Nat.le_add_right _ _) (by
      show _ + 4 ≤ roleOff s p role + r * f32Pitch (pNcols s p) + 4 * pNcols s p
      omega)
  exact hrow (_, (leBytes 4 0).getD b 0) (mem_bytesWrites.mpr ⟨b, hb, rfl⟩)

/-- Bytes of elements at one place are the same byte of the same element. -/
theorem roleAt_inj {s : State} {p role j j' b b' : Nat} (hj : j < pNrows s p * pNcols s p) (hj' : j' < pNrows s p * pNcols s p)
    (hb : b < 4) (hb' : b' < 4) (e : roleAt s p role j + b = roleAt s p role j' + b') : j = j' ∧ b = b' := by
  obtain ⟨r, k, _, hk, rfl⟩ := elem_place hj
  obtain ⟨r', k', _, hk', rfl⟩ := elem_place hj'
  rw [roleAt_eq s p role r k hk, roleAt_eq s p role r' k' hk'] at e
  obtain ⟨rfl, he⟩ := row_places_inj (le_f32Pitch (pNcols s p)) (k := 4 * k + b) (k' := 4 * k' + b') (by omega) (by omega)
    (show r * _ + (4 * k + b) = r' * _ + (4 * k' + b') by omega)
  obtain ⟨rfl, rfl⟩ : k = k' ∧ b = b' := by omega
  exact ⟨rfl, rfl⟩

/-- Values put into a role, and then writes outside it, are read back. -/
theorem memBytes_rolePuts {s : State} {p role first i : Nat} {vs : List FVal} {m : List Host.Cell} {ws : List Host.Cell}
    (hm : memWf m = true) (hlen : first + vs.length ≤ pNrows s p * pNcols s p) (hi : i < vs.length)
    (hws : ∀ a, (roleRegion s p role).off ≤ a ∧ a < regionEnd (roleRegion s p role) → ∀ w ∈ ws, w.1 ≠ a) :
    memBytes (memWriteAll m (rolePuts s p role first vs ++ ws)) (roleAt s p role (first + i)) 4 =
      leBytes 4 (code32 (vs.getD i fvZero)) := by
  have hbyte : ∀ b, b < 4 → memRead (memWriteAll m (rolePuts s p role first vs ++ ws)) (roleAt s p role (first + i) + b) =
      (leBytes 4 (code32 (vs.getD i fvZero))).getD b 0 := by
    intro b hb
    have hput := mem_rolePuts (s := s) (p := p) (role := role) (first := first) |>.mpr ⟨i, b, hi, hb, rfl⟩
    rw [memWriteAll_append, memRead_writeAll_other _ _ _ (hws _ (rolePuts_in hlen _ hput)) (memWriteAll_wf _ _ hm)]
    refine memRead_writeAll_agree hm (fun w hw e => ?_) ⟨_, hput, rfl⟩
    obtain ⟨i', b', hi', hb', rfl⟩ := mem_rolePuts.mp hw
    obtain ⟨hij, rfl⟩ := roleAt_inj (by omega) (by omega) hb' hb e
    obtain rfl : i' = i := by omega
    rfl
  refine List.ext_getElem (by simp [memBytes]) fun b h1 h2 => ?_
  have hb : b < 4 := by simpa [memBytes] using h1
  rw [← List.getD_eq_getElem _ 0 h2, ← hbyte b hb]
  simp [memBytes]

/-! ### The elements of a span -/

/-- Place `k` of block `r` of blocks of one length laid one after another. -/
theorem getD_flatMap {α β : Type} {f : β → List α} {n r k : Nat} {l : List β}
    (hf : ∀ x ∈ l, (f x).length = n) (hr : r < l.length) (hk : k < n) (d : α) :
    (l.flatMap f).getD (r * n + k) d = (f l[r]).getD k d := by
  induction l generalizing r with
  | nil => cases hr
  | cons x l ih =>
    have hx : (f x).length = n := hf x List.mem_cons_self
    rw [List.flatMap_cons]
    cases r with
    | zero => rw [List.getD_append _ _ _ _ (by omega)]; simp
    | succ r =>
      rw [List.getD_append_right _ _ _ _ (by rw [hx, Nat.succ_mul]; omega),
        show (r + 1) * n + k - (f x).length = r * n + k by rw [hx, Nat.succ_mul]; omega,
        ih (fun y hy => hf y (List.mem_cons_of_mem _ hy)) (by simpa using hr)]
      rfl

/-- Element (r, k) of a matrix whose rows have `n` elements, in the order of the rows. -/
theorem getD_flatten {n r k : Nat} {a : Mat} (hrows : ∀ l ∈ a, l.length = n) (hr : r < a.length) (hk : k < n) :
    a.flatten.getD (r * n + k) fvZero = matAt a r k := by
  rw [← List.flatMap_id, getD_flatMap (f := id) hrows hr hk]
  simp [matAt, hr]

theorem roleMat_rows (s : State) (p role : Nat) :
    (roleMat s p role).length = pNrows s p ∧ ∀ l ∈ roleMat s p role, l.length = pNcols s p := by
  unfold roleMat rdMat
  refine ⟨by simp, fun l hl => ?_⟩
  obtain ⟨i, _, rfl⟩ := List.mem_map.mp hl
  simp

theorem packedMat_rows (n m : Nat) (bs : List Byte) : (packedMat n m bs).length = m ∧ ∀ l ∈ packedMat n m bs, l.length = n := by
  unfold packedMat
  refine ⟨by simp, fun l hl => ?_⟩
  obtain ⟨i, _, rfl⟩ := List.mem_map.mp hl
  simp

/-- A span lies in its shard. -/
theorem spanLen_le (s : State) (o : Op) (k : Nat) (h : 0 < spanLen s o k) :
    8192 * (updOf o).unit + spanLen s o k ≤ pNrows s (nextParam o) * pNcols s (nextParam o) := by
  unfold spanLen at h ⊢
  omega

/-- An element of the part of a shard's matrix that a span covers. -/
theorem getD_spanPart {s : State} {o : Op} {k r c i : Nat} {a : Mat}
    (ha : a.length = pNrows s (nextParam o) ∧ ∀ l ∈ a, l.length = pNcols s (nextParam o))
    (hr : r < pNrows s (nextParam o)) (hc : c < pNcols s (nextParam o)) (hi : i < spanLen s o k)
    (hj : 8192 * (updOf o).unit + i = r * pNcols s (nextParam o) + c) : (spanPart s o k a).getD i fvZero = matAt a r c := by
  rw [← getD_flatten ha.2 (by rwa [ha.1]) hc, ← hj]
  simp [spanPart, List.getD_eq_getElem?_getD, hi, List.getElem?_drop]

/-- R255: what an UPDATE makes of element (r, c) of the parameter that it applies next. -/
def newElem (s : State) (o : Op) (r c : Nat) : FVal × FVal × FVal × Bool :=
  updElem o.d (matAt (roleMat s (nextParam o) 0) r c)
    (matAt (packedMat (pNcols s (nextParam o)) (pNrows s (nextParam o)) (updGrad s o (nextParam o))) r c)
    (matAt (roleMat s (nextParam o) 3) r c) (matAt (if uOpt o.d = 2 then roleMat s (nextParam o) 4 else []) r c)

theorem getD_spanElems {s : State} {o : Op} {k r c i : Nat} (z : FVal × FVal × FVal × Bool) (hr : r < pNrows s (nextParam o))
    (hc : c < pNcols s (nextParam o)) (hi : i < spanLen s o k)
    (hj : 8192 * (updOf o).unit + i = r * pNcols s (nextParam o) + c) : (spanElems s o k).getD i z = newElem s o r c := by
  have hsecond : (spanSecond s o k).getD i fvZero = matAt (if uOpt o.d = 2 then roleMat s (nextParam o) 4 else []) r c := by
    unfold spanSecond
    split
    · exact getD_spanPart (roleMat_rows _ _ _) hr hc hi hj
    · simp [matAt]
  have hlen : i < (spanElems s o k).length := by simpa using hi
  rw [List.getD_eq_getElem _ _ hlen]
  simp only [spanElems, List.getElem_map, List.getElem_range, hsecond]
  rw [getD_spanPart (roleMat_rows _ _ _) hr hc hi hj, getD_spanPart (packedMat_rows _ _ _) hr hc hi hj,
    getD_spanPart (roleMat_rows _ _ _) hr hc hi hj]
  rfl

/-! ### A span written -/

/-- The regions of the states that an UPDATE writes: master, first state, and the second under OPT 2. -/
def stateOuts (s : State) (d : Desc) (p : Nat) : List Region :=
  [roleRegion s p 0, roleRegion s p 3] ++ (if uOpt d = 2 then [roleRegion s p 4] else [])

/-- Values of a span put into a role lie in its region. -/
theorem spanRole_in (s : State) (o : Op) (k role : Nat) (f : FVal × FVal × FVal × Bool → FVal) :
    WritesIn (roleRegion s (nextParam o) role) (rolePuts s (nextParam o) role (8192 * (updOf o).unit) ((spanElems s o k).map f)) := by
  by_cases h : spanLen s o k = 0
  · rw [List.eq_nil_of_length_eq_zero ((length_spanElems s o k).trans h)]
    exact .nil _
  · refine rolePuts_in ?_
    rw [List.length_map, length_spanElems]
    exact spanLen_le s o k (by omega)

/-- A span writes the states only. -/
theorem spanPuts_in {s : State} {o : Op} {k : Nat} {w : Host.Cell} (hw : w ∈ spanPuts s o k) :
    ∃ r ∈ stateOuts s o.d (nextParam o), r.off ≤ w.1 ∧ w.1 < regionEnd r := by
  have hin := fun role f => spanRole_in s o k role f
  unfold spanPuts at hw
  unfold stateOuts
  rcases List.mem_append.mp hw with hw | hw
  · rcases List.mem_append.mp hw with hw | hw
    · exact ⟨_, by simp, hin 0 _ w hw⟩
    · exact ⟨_, by simp, hin 3 _ w hw⟩
  · by_cases h2 : uOpt o.d = 2
    · rw [if_pos h2] at hw ⊢
      exact ⟨_, by simp, hin 4 _ w hw⟩
    · rw [if_neg h2] at hw
      cases hw

/-- After a span is written, and then what lies outside the master, the master holds the new weights of its elements. -/
theorem memBytes_span {s : State} {o : Op} {k r c : Nat} {ws : List Host.Cell} (hm : memWf s.mem = true)
    (hr : r < pNrows s (nextParam o)) (hc : c < pNcols s (nextParam o))
    (hlo : 8192 * (updOf o).unit ≤ r * pNcols s (nextParam o) + c)
    (hhi : r * pNcols s (nextParam o) + c < 8192 * (updOf o).unit + spanLen s o k)
    (hapart : ∀ x ∈ (stateOuts s o.d (nextParam o)).tail, regionsMeet (roleRegion s (nextParam o) 0) x = false)
    (hws : ∀ a, (roleRegion s (nextParam o) 0).off ≤ a ∧ a < regionEnd (roleRegion s (nextParam o) 0) → ∀ w ∈ ws, w.1 ≠ a) :
    memBytes (memWriteAll (memWriteAll s.mem (spanPuts s o k)) ws)
        (pMaster s (nextParam o) + r * f32Pitch (pNcols s (nextParam o)) + 4 * c) 4 =
      leBytes 4 (code32 (newElem s o r c).1) := by
  obtain ⟨i, hi⟩ := Nat.exists_eq_add_of_le hlo
  have hlen : i < spanLen s o k := by omega
  have hplace : pMaster s (nextParam o) + r * f32Pitch (pNcols s (nextParam o)) + 4 * c =
      roleAt s (nextParam o) 0 (8192 * (updOf o).unit + i) := by
    rw [← hi, roleAt_eq s (nextParam o) 0 r c hc]
    rfl
  have hval : ((spanElems s o k).map (fun x => x.1)).getD i fvZero = (newElem s o r c).1 := by
    rw [← getD_spanElems (fvZero, fvZero, fvZero, false) hr hc hlen hi.symm]
    exact List.getD_map (f := fun x : FVal × FVal × FVal × Bool => x.1) (d := (fvZero, fvZero, fvZero, false)) ..
  rw [hplace, ← hval, ← memWriteAll_append]
  unfold spanPuts
  rw [List.append_assoc, List.append_assoc]
  refine memBytes_rolePuts hm ?_ (by simpa using hlen) fun a ha w hw => ?_
  · rw [List.length_map, length_spanElems]
    exact spanLen_le s o k (by omega)
  · have hout : ∀ role f, roleRegion s (nextParam o) role ∈ (stateOuts s o.d (nextParam o)).tail →
        ∀ w ∈ rolePuts s (nextParam o) role (8192 * (updOf o).unit) ((spanElems s o k).map f), w.1 ≠ a := fun role f hmem =>
      (spanRole_in s o k role f).ne (outside_of_not_meet (hapart _ hmem) ha)
    rcases List.mem_append.mp hw with hw | hw
    · exact hout 3 _ (by simp [stateOuts]) w hw
    · rcases List.mem_append.mp hw with hw | hw
      · by_cases h2 : uOpt o.d = 2
        · rw [if_pos h2] at hw
          exact hout 4 _ (by simp [stateOuts, h2]) w hw
        · rw [if_neg h2] at hw
          cases hw
      · exact hws a ha w hw

end Sys2Proof.Machine
end

section
/-!
SUPPORT. A re-derivation writes its working copy only (R158, R253), and the bytes after the last parameter is done.
-/

namespace Sys2Proof.Machine

/-! ### The writes of a re-derivation -/

theorem workRows_in (s : State) (p : Nat) (cs : List Nat) : WritesIn (workRegion s p) (workRows s p cs) := by
  have hoff : (workRegion s p).off = pWorking s p := rfl
  have hrows : (workRegion s p).rows = pNrows s p := rfl
  have hlen : (workRegion s p).len = workRow s p := by simp only [workRegion]
  unfold workRows
  refine WritesIn.flatMap fun r hr => ?_
  rw [← hoff]
  refine WritesIn.row (hrows ▸ List.mem_range.mp hr) (Nat.le_refl _) (Nat.add_le_add_left ?_ _)
  rw [length_packRow, hlen, workRow]
  exact packedLen_mono _ (List.length_take_le _ _)

/-- The region of the scale bytes of an MX working copy. -/
def scaleRegion (s : State) (p : Nat) : Region :=
  ⟨pWorking s p + pNrows s p * (workRegion s p).pitch, (workScaleDims s p).2, (workScaleDims s p).1, (workScaleDims s p).2⟩

theorem workScales_in {s : State} {p : Nat} {scales : List Nat} (h : scales.length ≤ (workScaleDims s p).1 * (workScaleDims s p).2) :
    WritesIn (scaleRegion s p) (workScales s p scales) := by
  intro w hw
  have hin := exists_mem_bytesWrites.mp ⟨w, hw, rfl⟩
  rw [List.length_map] at hin
  have hend : regionEnd (scaleRegion s p) = (scaleRegion s p).off + (workScaleDims s p).1 * (workScaleDims s p).2 := by
    unfold regionEnd scaleRegion
    dsimp only
    split
    · next h0 => rw [h0, Nat.zero_mul, Nat.add_zero]
    · next h0 =>
      obtain ⟨k, hk⟩ := Nat.exists_eq_succ_of_ne_zero h0
      rw [hk, Nat.succ_sub_one, Nat.succ_mul, Nat.add_assoc]
  rw [hend]
  unfold scaleRegion
  dsimp only
  omega

/-- There is a scale byte for each block. -/
theorem length_blockRun (s : State) (cellOf : Nat → Nat) (eval : Bool) (p : Nat) (a : Mat) :
    (blockRun s cellOf eval p a).2.1.length = (workBlocks s p a).length := by
  have h : ∀ (bs : List (Nat × List FVal)) (acc : State × List Nat × List (Nat × Nat)),
      (bs.foldl (blockStep (blockElem s p) cellOf eval (fwFmtD (pWfmt s p))) acc).2.1.length = acc.2.1.length + bs.length := by
    intro bs
    induction bs with
    | nil => exact fun _ => rfl
    | cons b bs ih =>
      intro acc
      rw [List.foldl_cons, ih, List.length_cons]
      show (acc.2.1 ++ [_]).length + bs.length = _
      rw [List.length_append, List.length_singleton]
      omega
  unfold blockRun
  exact (h _ _).trans (Nat.zero_add _)

/-- The blocks of an MX working copy are as many as its scale bytes. -/
theorem length_workBlocks (s : State) (p : Nat) (a : Mat) :
    (workBlocks s p a).length = (workScaleDims s p).1 * (workScaleDims s p).2 := by
  unfold workBlocks workScaleDims
  dsimp only
  split <;> simp

/-- A re-derivation writes regions of its working copy only. -/
theorem rederive_writes {s : State} {cellOf : Nat → Nat} {eval : Bool} {p : Nat} {a : Mat} {w : Host.Cell}
    (hw : w ∈ (rederive s cellOf eval p a).2) : ∃ r ∈ workRegions s p, r.off ≤ w.1 ∧ w.1 < regionEnd r := by
  cases hm : fwMx (pWfmt s p) with
  | false =>
    rw [rederive_plain hm] at hw
    dsimp only at hw
    have hregions : workRegions s p = [workRegion s p] := by simp [workRegions, hm]
    exact ⟨workRegion s p, by simp [hregions], workRows_in s p _ w hw⟩
  | true =>
    rw [rederive_mx hm] at hw
    dsimp only at hw
    have hregions : workRegions s p = [workRegion s p, scaleRegion s p] := by simp [workRegions, hm, scaleRegion]
    rcases List.mem_append.mp hw with hw | hw
    · exact ⟨workRegion s p, by simp [hregions], workRows_in s p _ w hw⟩
    · refine ⟨scaleRegion s p, by simp [hregions], workScales_in ?_ w hw⟩
      rw [length_blockRun, length_workBlocks]

/-! ### A parameter done -/

/-- The record of parameter `p`. -/
def paramRecord (s : State) (p : Nat) : Region := ⟨paramAddr s p, 0, 1, 128⟩

theorem regionEnd_paramRecord (s : State) (p : Nat) : regionEnd (paramRecord s p) = paramAddr s p + 128 := by
  simp [regionEnd, paramRecord]

theorem seqWrites_eq (s : State) (o : Op) :
    seqWrites s o = bytesWrites (paramAddr s (nextParam o) + 0x58) (leBytes 8 (uStep o.d)) := natWrites_eq_bytesWrites _ _ _

/-- SEQ lies in the record. -/
theorem seqWrites_in (s : State) (o : Op) : WritesIn (paramRecord s (nextParam o)) (seqWrites s o) := by
  intro w hw
  rw [seqWrites_eq] at hw
  have hin := exists_mem_bytesWrites.mp ⟨w, hw, rfl⟩
  rw [length_leBytes] at hin
  rw [regionEnd_paramRecord]
  unfold paramRecord
  dsimp only
  omega

/-- SEQ is written last, and reads as STEP. -/
theorem memNat_seqWrites {s : State} {o : Op} {m : List Host.Cell} (hm : memWf m = true) (ws : List Host.Cell) :
    memNat (memWriteAll m (ws ++ seqWrites s o)) (paramAddr s (nextParam o) + 0x58) 8 = uStep o.d := by
  have hstep : uStep o.d < 2 ^ (8 * 8) := Nat.mod_lt _ (Nat.two_pow_pos _)
  have hread := memBytes_bytesWrites (a := paramAddr s (nextParam o) + 0x58) (bs := leBytes 8 (uStep o.d))
    (memWriteAll_wf ws m hm)
  rw [length_leBytes] at hread
  rw [memWriteAll_append, seqWrites_eq, memNat, hread, leNat_leBytes, Nat.mod_eq_of_lt hstep]

/-- What is written once a parameter is done lies in its working copy and its record. -/
theorem done_writes {s : State} {o : Op} {skip : Bool} {w : Host.Cell} (hw : w ∈ (redone s o skip).2 ++ seqWrites s o) :
    ∃ r ∈ paramRecord s (nextParam o) :: workRegions s (nextParam o), r.off ≤ w.1 ∧ w.1 < regionEnd r := by
  rcases List.mem_append.mp hw with hw | hw
  · cases skip with
    | true => cases hw
    | false =>
      obtain ⟨r, hr, hin⟩ := rederive_writes hw
      exact ⟨r, List.mem_cons_of_mem _ hr, hin⟩
  · exact ⟨_, List.mem_cons_self, seqWrites_in s o w hw⟩

/-- A parameter done in a skipped step writes SEQ only. -/
theorem memRead_done_skipped {s : State} {o : Op} {a : Nat} (hm : memWf s.mem = true)
    (ha : a < paramAddr s (nextParam o) + 0x58 ∨ paramAddr s (nextParam o) + 0x60 ≤ a) :
    memRead (memWriteAll s.mem ((redone s o true).2 ++ seqWrites s o)) a = memRead s.mem a := by
  have hnone : (redone s o true).2 = [] := rfl
  rw [hnone, List.nil_append, seqWrites_eq]
  refine memRead_bytesWrites_out hm ?_
  rw [length_leBytes]
  omega

end Sys2Proof.Machine
end

section
/-!
SUPPORT. A parameter applied (R255 to R257, R266 to R268): its gradient formed, its units written, and the parameter done.
-/

namespace Sys2Proof.Machine

/-- The unit that an UPDATE reaches where it is to apply its next parameter as far as unit `k`. -/
def unitsTo (s : State) (o : Op) (k : Nat) : Nat := max (updOf o).unit (min k (updUnitCount s (nextParam o)))

/-- A parameter applied as far as unit `k`, once its gradient is formed without a product that fails. -/
theorem updApply_formed {s : State} {o q : Op} {k : Nat} {skip : Bool} (h : Formed s o (updForm s o) q)
    (hok : prodFailed (updForm s o) o.ctx o.idx = false) (hd : decisionOf s (uStep o.d) = some skip) :
    updApply s o k =
      if k < updUnitCount s (nextParam o) then updUnits (updForm s o) q (unitsTo s o k) skip
      else updDone (updUnits (updForm s o) q (unitsTo s o k) skip) (q.withUpd (UpdWork.reach (unitsTo s o k))) skip := by
  have hskip : (decisionOf s (uStep o.d)).getD false = skip := by rw [hd]; rfl
  have hplace := findOp_place h.found
  have hfound := (updUnits_spec (unitsTo s o k) skip (by rw [hplace.1, hplace.2]; exact h.found)).1
  rw [hplace.1, hplace.2] at hfound
  unfold updApply
  dsimp only
  rw [hskip, if_neg (by simp [hok]), h.found]
  dsimp only
  rw [h.unit, ← nextParam, ← unitsTo, hfound]

/-- A formed gradient leaves where the states stand. -/
theorem Formed.stateOuts {s t : State} {o q : Op} (h : Formed s o t q) (hs : s.canonical = true) :
    Machine.stateOuts t q.d (nextParam q) = Machine.stateOuts s o.d (nextParam o) := by
  have hparams := h.steady.params hs
  unfold Machine.stateOuts
  rw [h.next, h.desc, (hparams.record _).roleRegion, (hparams.record _).roleRegion, (hparams.record _).roleRegion]

section Applied
variable {s : State} {o q : Op} {skip : Bool} (h : Formed s o (updForm s o) q) (hs : s.canonical = true)
include h hs

/-- The records and values that units of a parameter leave in place, where no state that they write meets its record. -/
theorem updUnits_record (k : Nat)
    (hapart : ∀ r ∈ stateOuts s o.d (nextParam o), regionsMeet r (paramRecord s (nextParam o)) = false) :
    SameRecord (nextParam o) s (updUnits (updForm s o) q k skip) := by
  obtain ⟨hctx, hidx⟩ := findOp_place h.found
  obtain ⟨-, hmem, -, hplace, -⟩ := updUnits_spec k skip (s := updForm s o) (by rw [hctx, hidx]; exact h.found)
  have hparams := h.steady.params hs
  have hwf : memWf (updForm s o).mem = true := State.canonical_mem (h.steady.canonical hs)
  refine ⟨((hplace (h.steady.canonical hs)).2 _).trans (hparams.place _), fun a h1 h2 => ?_⟩
  rw [hmem]
  cases skip with
  | true => exact congrArg (memRead · a) hparams.mem
  | false =>
    refine (memRead_writeAll_other _ _ _ (fun w hw e => ?_) hwf).trans (congrArg (memRead · a) hparams.mem)
    obtain ⟨r, hr, hin⟩ := spanPuts_in hw
    rw [h.stateOuts hs] at hr
    have hout := outside_of_not_meet (hapart r hr) hin
    rw [regionEnd_paramRecord] at hout
    simp only [paramRecord] at hout
    omega

end Applied

end Sys2Proof.Machine
end

section
/-!
SUPPORT. The last parameter of an UPDATE (R255, R257, R266, R267): its end, and the bytes that it leaves.
-/

namespace Sys2Proof.Machine

/-- The state in which every unit of the next parameter has been done. -/
def lastUnits (s : State) (o q : Op) (skip : Bool) : State :=
  updUnits (updForm s o) q (unitsTo s o (updUnitCount s (nextParam o))) skip

/-- The operation whose next parameter's units have all been done. -/
def lastOp (s : State) (o q : Op) : Op := q.withUpd (UpdWork.reach (unitsTo s o (updUnitCount s (nextParam o))))

/-- What is written once the last parameter's units are done. -/
def lastWrites (s : State) (o q : Op) (skip : Bool) : List Host.Cell :=
  (redone (lastUnits s o q skip) (lastOp s o q) skip).2 ++ seqWrites (lastUnits s o q skip) (lastOp s o q)

/-- Every element that is left of a shard lies in the span up to its last unit. -/
theorem lt_spanLen_all {s : State} {o : Op} {i : Nat} (h : i < pNrows s (nextParam o) * pNcols s (nextParam o)) :
    i < 8192 * (updOf o).unit + spanLen s o (unitsTo s o (updUnitCount s (nextParam o))) := by
  have hall : ∀ n : Nat, n ≤ 8192 * ceilDiv n 8192 := fun n => by
    unfold ceilDiv
    omega
  have hm := hall (pNrows s (nextParam o) * pNcols s (nextParam o))
  unfold spanLen unitsTo updUnitCount
  omega

section Last
variable {s : State} {o q : Op} {skip : Bool} (h : Formed s o (updForm s o) q) (hs : s.canonical = true)
include h

theorem nextParam_lastOp : nextParam (lastOp s o q) = nextParam o := h.next

theorem lastOp_place : (lastOp s o q).ctx = o.ctx ∧ (lastOp s o q).idx = o.idx :=
  show q.ctx = o.ctx ∧ q.idx = o.idx from findOp_place h.found

theorem findOp_lastUnits : findOp (lastUnits s o q skip) o.ctx o.idx = some (lastOp s o q) := by
  obtain ⟨hctx, hidx⟩ := findOp_place h.found
  have hspec := (updUnits_spec (s := updForm s o) (o := q) (unitsTo s o (updUnitCount s (nextParam o))) skip
    (by rw [hctx, hidx]; exact h.found)).1
  rwa [hctx, hidx] at hspec

theorem lastUnits_noUpsets (hn : NoUpsets o.ctx o.idx s) : NoUpsets o.ctx o.idx (lastUnits s o q skip) := by
  obtain ⟨hctx, hidx⟩ := findOp_place h.found
  obtain ⟨-, -, -, -, hnone⟩ := updUnits_spec (s := updForm s o) (o := q) (unitsTo s o (updUnitCount s (nextParam o))) skip
    (by rw [hctx, hidx]; exact h.found)
  rw [hctx, hidx] at hnone
  exact hnone (h.noUpsets hn)

/-- The last parameter applied is its units and then its end. -/
theorem updApply_last (hok : prodFailed (updForm s o) o.ctx o.idx = false) (hd : decisionOf s (uStep o.d) = some skip) :
    updApply s o (updUnitCount s (nextParam o)) = updDone (lastUnits s o q skip) (lastOp s o q) skip := by
  rw [updApply_formed h hok hd, if_neg (Nat.lt_irrefl _)]
  rfl

/-- After the last parameter the UPDATE has ended, with the writes made. -/
theorem updApply_last_spec (hok : prodFailed (updForm s o) o.ctx o.idx = false) (hd : decisionOf s (uStep o.d) = some skip)
    (hl : (updOf o).applied + 1 = uCount o.d) :
    ∃ z, findOp (updApply s o (updUnitCount s (nextParam o))) o.ctx o.idx = some z ∧ z.ended = some (updEnd z skip) ∧
      (uOpt o.d ≠ 3 → z.reruns = o.reruns) ∧
      (updApply s o (updUnitCount s (nextParam o))).mem =
        memWriteAll (lastUnits s o q skip).mem (lastWrites s o q skip) ∧
      (NoUpsets o.ctx o.idx s → NoUpsets o.ctx o.idx (updApply s o (updUnitCount s (nextParam o)))) := by
  obtain ⟨hctx, hidx⟩ := lastOp_place h
  have hlast : (updOf (lastOp s o q)).applied + 1 = uCount (lastOp s o q).d := by
    show (updOf q).applied + 1 = uCount q.d
    rw [h.applied, h.desc, hl]
  obtain ⟨z, hfound, hend, hreruns, hmem, hnone⟩ := updDone_spec (s := lastUnits s o q skip) (o := lastOp s o q) skip
    (by rw [hctx, hidx]; exact findOp_lastUnits h) hlast
  rw [hctx, hidx] at hfound hnone
  rw [updApply_last h hok hd]
  exact ⟨z, hfound, hend, fun h3 => hreruns.trans (h.plain h3).2, hmem, fun hn => hnone (lastUnits_noUpsets h hn)⟩

include hs

theorem lastUnits_mem : (lastUnits s o q skip).mem = (if skip then s.mem else memWriteAll s.mem
    (spanPuts (updForm s o) q (unitsTo s o (updUnitCount s (nextParam o))))) := by
  obtain ⟨hctx, hidx⟩ := findOp_place h.found
  have hspec := (updUnits_spec (s := updForm s o) (o := q) (unitsTo s o (updUnitCount s (nextParam o))) skip
    (by rw [hctx, hidx]; exact h.found)).2.1
  rw [(h.steady.params hs).mem] at hspec
  exact hspec

theorem lastUnits_wf : memWf (lastUnits s o q skip).mem = true := by
  rw [lastUnits_mem h hs]
  cases skip with
  | true => exact State.canonical_mem hs
  | false => exact memWriteAll_wf _ _ (State.canonical_mem hs)

theorem paramAddr_lastUnits (p : Nat) : paramAddr (lastUnits s o q skip) p = paramAddr s p := by
  obtain ⟨hctx, hidx⟩ := findOp_place h.found
  obtain ⟨-, -, -, hplace, -⟩ := updUnits_spec (s := updForm s o) (o := q) (unitsTo s o (updUnitCount s (nextParam o))) skip
    (by rw [hctx, hidx]; exact h.found)
  exact ((hplace (h.steady.canonical hs)).2 p).trans ((h.steady.params hs).place p)

/-- SEQ of the last parameter is STEP. -/
theorem memNat_last : memNat (memWriteAll (lastUnits s o q skip).mem (lastWrites s o q skip))
    (paramAddr s (nextParam o) + 0x58) 8 = uStep o.d := by
  have hseq := memNat_seqWrites (s := lastUnits s o q skip) (o := lastOp s o q) (lastUnits_wf h hs (skip := skip))
    (redone (lastUnits s o q skip) (lastOp s o q) skip).2
  rw [nextParam_lastOp h, paramAddr_lastUnits h hs, show (lastOp s o q).d = q.d from rfl, h.desc] at hseq
  exact hseq

/-- In a skipped step only SEQ is written. -/
theorem memRead_last_skipped (hskip : skip = true) {a : Nat}
    (ha : a < paramAddr s (nextParam o) + 0x58 ∨ paramAddr s (nextParam o) + 0x60 ≤ a) :
    memRead (memWriteAll (lastUnits s o q skip).mem (lastWrites s o q skip)) a = memRead s.mem a := by
  subst hskip
  have hread := memRead_done_skipped (s := lastUnits s o q true) (o := lastOp s o q) (a := a) (lastUnits_wf h hs)
    (by rwa [nextParam_lastOp h, paramAddr_lastUnits h hs])
  exact hread.trans (congrArg (memRead · a) (lastUnits_mem h hs))

variable (hapart : ∀ r ∈ stateOuts s o.d (nextParam o), regionsMeet r (paramRecord s (nextParam o)) = false)
include hapart

/-- The last writes lie in the record and the working copy. -/
theorem lastWrites_in {w : Host.Cell} (hw : w ∈ lastWrites s o q skip) :
    ∃ r ∈ paramRecord s (nextParam o) :: workRegions s (nextParam o), r.off ≤ w.1 ∧ w.1 < regionEnd r := by
  have hregions := (updUnits_record h hs (skip := skip) (unitsTo s o (updUnitCount s (nextParam o))) hapart).workRegions
  have hrecord : paramRecord (lastUnits s o q skip) (nextParam o) = paramRecord s (nextParam o) := by
    unfold paramRecord
    rw [paramAddr_lastUnits h hs]
  have hin := done_writes hw
  rw [nextParam_lastOp h, hrecord] at hin
  unfold lastUnits at hin
  rwa [hregions] at hin

/-- Outside the states, the record and the working copy, every byte reads as before. -/
theorem memRead_last (hskip : skip = false) {a : Nat}
    (ha : ∀ r ∈ stateOuts s o.d (nextParam o) ++ paramRecord s (nextParam o) :: workRegions s (nextParam o),
      a < r.off ∨ regionEnd r ≤ a) :
    memRead (memWriteAll (lastUnits s o q skip).mem (lastWrites s o q skip)) a = memRead s.mem a := by
  have hmem := lastUnits_mem h hs (skip := skip)
  rw [if_neg (by simp [hskip])] at hmem
  have hdone : ∀ w ∈ lastWrites s o q skip, w.1 ≠ a := fun w hw e => by
    obtain ⟨r, hr, hin⟩ := lastWrites_in h hs hapart hw
    have := ha r (List.mem_append_right _ hr)
    omega
  have hspan : ∀ w ∈ spanPuts (updForm s o) q (unitsTo s o (updUnitCount s (nextParam o))), w.1 ≠ a := fun w hw e => by
    obtain ⟨r, hr, hin⟩ := spanPuts_in hw
    rw [h.stateOuts hs] at hr
    have := ha r (List.mem_append_left _ hr)
    omega
  rw [memRead_writeAll_other _ _ _ hdone (lastUnits_wf h hs), hmem]
  exact memRead_writeAll_other _ _ _ hspan (State.canonical_mem hs)

/-- The master holds the new weights of the elements that were not done yet. -/
theorem memBytes_last (hskip : skip = false) (h3 : uOpt o.d ≠ 3)
    (hmaster : ∀ r ∈ (stateOuts s o.d (nextParam o) ++ paramRecord s (nextParam o) :: workRegions s (nextParam o)).tail,
      regionsMeet (roleRegion s (nextParam o) 0) r = false)
    {r c : Nat} (hr : r < pNrows s (nextParam o)) (hc : c < pNcols s (nextParam o))
    (hlo : 8192 * (updOf o).unit ≤ r * pNcols s (nextParam o) + c) :
    memBytes (memWriteAll (lastUnits s o q skip).mem (lastWrites s o q skip))
        (pMaster s (nextParam o) + r * f32Pitch (pNcols s (nextParam o)) + 4 * c) 4 =
      leBytes 4 (code32 (newElem s o r c).1) := by
  have hmem := lastUnits_mem h hs (skip := skip)
  rw [if_neg (by simp [hskip]), (h.sameSpan hs h3).spanPuts] at hmem
  have hcell : r * pNcols s (nextParam o) + c < pNrows s (nextParam o) * pNcols s (nextParam o) :=
    lt_of_lt_of_le (Nat.add_lt_add_left hc _) (by rw [← Nat.succ_mul]; exact Nat.mul_le_mul_right _ hr)
  rw [hmem]
  refine memBytes_span (State.canonical_mem hs) hr hc hlo (lt_spanLen_all hcell) (fun x hx => hmaster x ?_)
    fun a ha w hw e => ?_
  · exact List.mem_append_left _ hx
  · obtain ⟨x, hx, hin⟩ := lastWrites_in h hs hapart hw
    have hout := outside_of_not_meet (hmaster x (List.mem_append_right _ hx)) ha
    omega

end Last

end Sys2Proof.Machine
end

section
/-!
SUPPORT. UPDATE and UPDATE_SKID_APPLY of an UPDATE that may apply its last parameter (R189, R255, R266).
-/

namespace Sys2Proof.Machine

/-- An UPDATE may apply its next parameter now: it runs in its slot, its units are not held, and no audit is due. -/
structure MayRun (s : State) (o : Op) : Prop where
  found : findOp s o.ctx o.idx = some o
  runs : opRuns o = true
  slot : slotOver s o = false
  free : unitsHeld s = false
  may : updMayApply s o = true
  audit : auditDue s (uStep o.d) = false

theorem MayRun.ended {s : State} {o : Op} (h : MayRun s o) : o.ended = none := (opRuns_iff.mp h.runs).1

/-- Where no audit is due, an UPDATE goes on at once. -/
theorem updAudit_none {s : State} {o : Op} (h : auditDue s (uStep o.d) = false) : updAudit s o = (s, true) := by
  unfold updAudit
  rw [if_pos (by simp [h])]

/-- An UPDATE that has gathered every gradient gathers none. -/
theorem updGather_all {s : State} {c i : Nat} {o : Op} (n : Nat) (ho : findOp s c i = some o)
    (hg : (updOf o).gathered = uCount o.d) : updGather n s c i = s := by
  cases n with
  | zero => rfl
  | succ n =>
    unfold updGather
    rw [ho]
    dsimp only
    rw [if_pos (by simp [hg])]

/-- An UPDATE whose next parameter ends it applies that one only. -/
theorem updRun_ends {s : State} {o : Op} (h : MayRun s o) (n : Nat) {z : Op}
    (hz : findOp (updApply s o (updUnitCount s (nextParam o))) o.ctx o.idx = some z) (he : z.ended.isSome = true) :
    updRun (n + 1) s o.ctx o.idx = updApply s o (updUnitCount s (nextParam o)) := by
  have hstops : updRun n (updApply s o (updUnitCount s (nextParam o))) o.ctx o.idx =
      updApply s o (updUnitCount s (nextParam o)) := by
    cases n with
    | zero => rfl
    | succ n =>
      have hnot : opRuns z = false := by
        unfold opRuns
        rw [Option.isNone_eq_false_iff.mpr he]
        rfl
      unfold updRun
      rw [hz]
      dsimp only
      rw [hnot, if_pos (by simp)]
  unfold updRun
  rw [h.found]
  dsimp only
  rw [h.runs, h.slot, h.free, h.may, updAudit_none h.audit]
  dsimp only
  rw [h.found]
  exact hstops

/-! ### Upsets -/

/-- Upsets leave whether an UPDATE may apply its next parameter. -/
theorem updMayApply_setUpsets (s : State) (o : Op) (c i : Nat) (us : List TileUpset) :
    updMayApply (setUpsets s c i us) (o.withUpsets us) = updMayApply s o := by
  have hany : ∀ f : Op → Bool, (∀ x : Op, f (x.withUpsets us) = f x) → (setUpsets s c i us).ops.any f = s.ops.any f := by
    intro f hf
    show (s.ops.map _).any f = _
    rw [List.any_map]
    refine congrArg (s.ops.any ·) (funext fun x => ?_)
    rw [Function.comp_apply]
    split
    · exact hf x
    · rfl
  have hclose : closeBefore (setUpsets s c i us) (uStep o.d) = closeBefore s (uStep o.d) := hany _ fun _ => rfl
  unfold updMayApply
  dsimp only
  rw [Op.withUpsets_d, updOf_withUpsets, hany _ fun _ => rfl, hclose]
  rfl

theorem MayRun.setUpsets {s : State} {o : Op} (h : MayRun s o) (us : List TileUpset) :
    MayRun (setUpsets s o.ctx o.idx us) (o.withUpsets us) :=
  ⟨findOp_setUpsets us h.found, h.runs, h.slot, h.free, (updMayApply_setUpsets s o o.ctx o.idx us).trans h.may, h.audit⟩

/-- The end of the last parameter is the same whatever upsets there are. -/
theorem updDone_setUpsets {s : State} {o : Op} (us : List TileUpset) (skip : Bool) (ho : findOp s o.ctx o.idx = some o)
    (hl : (updOf o).applied + 1 = uCount o.d) :
    updDone (setUpsets s o.ctx o.idx us) (o.withUpsets us) skip = setUpsets (updDone s o skip) o.ctx o.idx us := by
  obtain ⟨hfound, -, -⟩ := paramDone_spec skip ho
  have hfound' := findOp_setUpsets us hfound
  rw [← paramDone_setUpsets us skip] at hfound'
  rw [updDone_last (o := o.withUpsets us) hl hfound', updDone_last hl hfound, paramDone_setUpsets,
    Op.withUpsets_ctx, Op.withUpsets_idx, endOp_setUpsets]
  rfl

theorem prodFailed_found {s : State} {c i : Nat} {o : Op} (h : findOp s c i = some o) : prodFailed s c i = o.ended.isSome := by
  unfold prodFailed
  rw [h]

/-- Where no product of a gradient fails, its UPDATE runs on once it is formed. -/
theorem prodFailed_updForm_forms {s : State} {o : Op} (hf : (updOf o).formed = false)
    (h : prodFailed (gradFormed s o).1 o.ctx o.idx = false) : prodFailed (updForm s o) o.ctx o.idx = false := by
  cases hx : findOp (gradFormed s o).1 o.ctx o.idx with
  | none => simp [prodFailed, hx] at h
  | some x =>
    rw [prodFailed_found hx] at h
    rw [updForm_forms hf (by rwa [prodFailed_found hx])]
    rcases findOp_relCheck (findOp_setUpd (UpdWork.form (nextParam o) (gradBytes s o)) hx) with hr | hr <;>
      exact (prodFailed_found hr).trans h

theorem lateZeroed_ops (s : State) (o : Op) : (lateZeroed s o).ops = s.ops := by
  unfold lateZeroed zeroGrad
  split
  · split
    · exact wrMem_ops _ _
    · rfl
  · rfl

/-- A gradient zeroed late leaves its UPDATE running. -/
theorem prodFailed_lateZeroed {s : State} {o : Op} (ho : findOp s o.ctx o.idx = some o) (he : o.ended = none) :
    prodFailed (lateZeroed s o) o.ctx o.idx = false := by
  rw [prodFailed_found ((findOp_congr (lateZeroed_ops s o) _ _).trans ho), he]
  rfl

/-- Without products none fails. -/
theorem prodFailed_updForm_plain {s : State} {o : Op} (ho : findOp s o.ctx o.idx = some o) (he : o.ended = none)
    (h3 : uOpt o.d ≠ 3) : prodFailed (updForm s o) o.ctx o.idx = false := by
  cases hf : (updOf o).formed with
  | true =>
    rw [updForm_formed hf, prodFailed_found ho, he]
    rfl
  | false => exact prodFailed_updForm_forms hf (by rw [gradFormed_plain h3]; exact prodFailed_lateZeroed ho he)

section Last
variable {s : State} {o q : Op} {skip : Bool} (us : List TileUpset) (h : Formed s o (updForm s o) q)
  (ho : findOp s o.ctx o.idx = some o) (he : o.ended = none) (h3 : uOpt o.d ≠ 3)
  (hz : uZero o.d = false ∨ nextParam o ∉ (updOf o).late)
include h ho he h3 hz

/-- Without products the gradient is formed the same way whatever upsets there are. -/
theorem Formed.setUpsets : Formed (setUpsets s o.ctx o.idx us) (o.withUpsets us)
    (updForm (setUpsets s o.ctx o.idx us) (o.withUpsets us)) (q.withUpsets us) := by
  have ho' := findOp_setUpsets us ho
  obtain ⟨x, hx⟩ := updForm_spec (o := o.withUpsets us) ho' he hz (prodFailed_updForm_plain (o := o.withUpsets us) ho' he h3)
  have hq : findOp (updForm (Machine.setUpsets s o.ctx o.idx us) (o.withUpsets us)) o.ctx o.idx = some (q.withUpsets us) := by
    rw [updForm_setUpsets us h3 (prodFailed_lateZeroed ho he)]
    exact findOp_setUpsets us h.found
  obtain rfl : x = q.withUpsets us := Option.some_inj.mp (hx.found.symm.trans hq)
  exact hx

/-- Without products, the last parameter is applied the same way whatever upsets there are. -/
theorem updApply_setUpsets (hd : decisionOf s (uStep o.d) = some skip) (hl : (updOf o).applied + 1 = uCount o.d) :
    updApply (setUpsets s o.ctx o.idx us) (o.withUpsets us) (updUnitCount s (nextParam o)) =
      setUpsets (updApply s o (updUnitCount s (nextParam o))) o.ctx o.idx us := by
  have ho' := findOp_setUpsets us ho
  obtain ⟨hctx, hidx⟩ := findOp_place h.found
  have hleft := updApply_last (h.setUpsets us ho he h3 hz) (prodFailed_updForm_plain (o := o.withUpsets us) ho' he h3)
    (skip := skip) hd
  have hunits : lastUnits (Machine.setUpsets s o.ctx o.idx us) (o.withUpsets us) (q.withUpsets us) skip =
      Machine.setUpsets (lastUnits s o q skip) o.ctx o.idx us := by
    unfold lastUnits
    rw [updForm_setUpsets us h3 (prodFailed_lateZeroed ho he)]
    have hspan := updUnits_setUpsets (s := updForm s o) (o := q) us (unitsTo s o (updUnitCount s (nextParam o))) skip
    rw [hctx, hidx] at hspan
    exact hspan
  have hdone := updDone_setUpsets (s := lastUnits s o q skip) (o := lastOp s o q) us skip
    (by rw [(lastOp_place h).1, (lastOp_place h).2]; exact findOp_lastUnits h)
    (by
      show (updOf q).applied + 1 = uCount q.d
      rw [h.applied, h.desc, hl])
  rw [(lastOp_place h).1, (lastOp_place h).2] at hdone
  rw [updApply_last h (prodFailed_updForm_plain ho he h3) hd]
  refine hleft.trans ?_
  rw [hunits]
  exact hdone

end Last

end Sys2Proof.Machine
end

section
/-!
SUPPORT. The commands UPDATE and UPDATE_SKID_APPLY where the next parameter ends the UPDATE (R189, R255, R266, R276).
-/

namespace Sys2Proof.Machine

/-- UPDATE is its gathering and its applying, with the upsets that it names. -/
theorem exec_update {s : State} {c i : Nat} {o : Op} (us : List TileUpset) (ho : runningOp s c i 0x0900 = some o) :
    exec (.update c i us) s = .next (setUpsets (updRun (uCount o.d) (updGather (uCount o.d + 1) (setUpsets s c i us) c i) c i)
      c i []) := congrArg Host.Outcome.next (onOp_running _ ho)

theorem exec_updateSkidApply {s : State} {c i : Nat} {o : Op} (ho : runningOp s c i 0x0900 = some o) :
    exec (.updateSkidApply c i) s = .next (updRun 1 s c i) := congrArg Host.Outcome.next (onOp_running _ ho)

/-- An UPDATE with every gradient whose next parameter ends it applies that one. -/
theorem updTurn_ends {s : State} {o z : Op} (h : MayRun s o) (hg : (updOf o).gathered = uCount o.d)
    (hz : findOp (updApply s o (updUnitCount s (nextParam o))) o.ctx o.idx = some z) (he : z.ended.isSome = true) :
    updRun (uCount o.d) (updGather (uCount o.d + 1) s o.ctx o.idx) o.ctx o.idx =
      updApply s o (updUnitCount s (nextParam o)) := by
  have hlt : (updOf o).applied < (updOf o).gathered := by
    have hmay := h.may
    unfold updMayApply at hmay
    simp only [Bool.and_eq_true, decide_eq_true_eq] at hmay
    obtain ⟨⟨⟨⟨hlt, -⟩, -⟩, -⟩, -⟩ := hmay
    exact hlt
  obtain ⟨n, hn⟩ := Nat.exists_eq_succ_of_ne_zero (show uCount o.d ≠ 0 by omega)
  rw [updGather_all _ h.found hg, hn]
  exact updRun_ends h n hz he

/-- The running UPDATE of a command may run. -/
theorem mayRun_of_running {s : State} {c i : Nat} {o : Op} (ho : runningOp s c i 0x0900 = some o) (hs : slotOver s o = false)
    (hu : unitsHeld s = false) (hm : updMayApply s o = true) (ha : auditDue s (uStep o.d) = false) :
    o.ctx = c ∧ o.idx = i ∧ MayRun s o := by
  obtain ⟨hfound, hruns, -, -⟩ := runningOp_some ho
  obtain ⟨rfl, rfl⟩ := findOp_place hfound
  exact ⟨rfl, rfl, hfound, hruns, hs, hu, hm, ha⟩

section Last
variable {s : State} {o q : Op} {skip : Bool} (ho : runningOp s o.ctx o.idx 0x0900 = some o) (h : MayRun s o)
  (hf : Formed s o (updForm s o) q) (hok : prodFailed (updForm s o) o.ctx o.idx = false)
  (hd : decisionOf s (uStep o.d) = some skip) (hl : (updOf o).applied + 1 = uCount o.d)
include ho h hf hok hd hl

/-- UPDATE_SKID_APPLY applies the last parameter. -/
theorem exec_updateSkidApply_last :
    exec (.updateSkidApply o.ctx o.idx) s = .next (updApply s o (updUnitCount s (nextParam o))) := by
  obtain ⟨z, hz, hend, -, -, -⟩ := updApply_last_spec hf hok hd hl
  rw [exec_updateSkidApply ho]
  exact congrArg Host.Outcome.next (updRun_ends h 0 hz (by rw [hend]; rfl))

variable (hg : (updOf o).gathered = uCount o.d) (hn : NoUpsets o.ctx o.idx s)
include hg hn

/-- UPDATE applies the last parameter. -/
theorem exec_update_last : exec (.update o.ctx o.idx []) s = .next (updApply s o (updUnitCount s (nextParam o))) := by
  obtain ⟨z, hz, hend, -, -, hnone⟩ := updApply_last_spec hf hok hd hl
  rw [exec_update [] ho, setUpsets_nil hn, updTurn_ends h hg hz (by rw [hend]; rfl), setUpsets_nil (hnone hn)]

/-- UPDATE of OPT 0 to 2 applies the last parameter the same way whatever upsets it names. -/
theorem exec_update_last_plain (h3 : uOpt o.d ≠ 3) (hz : uZero o.d = false ∨ nextParam o ∉ (updOf o).late)
    (us : List TileUpset) : exec (.update o.ctx o.idx us) s = .next (updApply s o (updUnitCount s (nextParam o))) := by
  obtain ⟨z, hfound, hend, -, -, hnone⟩ := updApply_last_spec hf hok hd hl
  have happly := updApply_setUpsets us hf h.found h.ended h3 hz hd hl
  have hfound' := findOp_setUpsets us hfound
  rw [← happly] at hfound'
  have hturn := updTurn_ends (h.setUpsets us) hg hfound' (by rw [show (z.withUpsets us).ended = z.ended from rfl, hend]; rfl)
  rw [exec_update us ho]
  refine congrArg Host.Outcome.next ?_
  refine (congrArg (fun t => setUpsets t o.ctx o.idx []) (hturn.trans happly)).trans ?_
  rw [setUpsets_setUpsets, setUpsets_nil (hnone hn)]

end Last

/-! ### A product that fails -/

/-- A gradient whose products fail ends its UPDATE with CHECK_FAIL and frees its skid entries. -/
theorem updForm_failed_spec {s : State} {o : Op} (ho : findOp s o.ctx o.idx = some o) (he : o.ended = none)
    (hfail : prodFailed (updForm s o) o.ctx o.idx = true) :
    CheckFailed o.ctx o.idx (updForm s o) ∧ ∀ e ∈ (updForm s o).skid, (e.ctx, e.idx) ≠ (o.ctx, o.idx) := by
  have h3 : uOpt o.d = 3 := by
    by_contra h3
    rw [prodFailed_updForm_plain ho he h3] at hfail
    cases hfail
  have hf : (updOf o).formed = false := by
    by_contra hf
    rw [updForm_formed (Bool.eq_true_of_not_eq_false hf), prodFailed_found ho, he] at hfail
    cases hfail
  have hgrad : prodFailed (gradFormed s o).1 o.ctx o.idx = true := by
    by_contra hg
    rw [prodFailed_updForm_forms hf (Bool.eq_false_of_not_eq_true hg)] at hfail
    cases hfail
  have hlate : findOp (lateZeroed s o) o.ctx o.idx = some o := (findOp_congr (lateZeroed_ops s o) _ _).trans ho
  have hchecked : CheckFailed o.ctx o.idx (gradFormed s o).1 := by
    unfold gradFormed at hgrad ⊢
    rw [if_pos h3] at hgrad ⊢
    refine ((updPrecond_step (lateZeroed s o) o _ _).runs o hlate he).resolve_left fun htally => ?_
    obtain ⟨g, hg, hfound⟩ := htally.findOp hlate
    rw [prodFailed_found hfound, hg.ended, he] at hgrad
    cases hgrad
  rw [updForm_fails hf hgrad]
  refine ⟨hchecked.congr rfl, fun e hin heq => ?_⟩
  have hkeep := (List.mem_filter.mp hin).2
  obtain ⟨hctx, hidx⟩ := Prod.mk.inj heq
  simp [hctx, hidx] at hkeep

/-- An UPDATE whose product fails has ended so once its next parameter was to be applied. -/
theorem updApply_failed {s : State} {o : Op} {k : Nat} (hfail : prodFailed (updForm s o) o.ctx o.idx = true) :
    updApply s o k = updForm s o := by
  unfold updApply
  dsimp only
  rw [if_pos hfail]

/-- UPDATE whose product fails: CHECK_FAIL, and no skid entry of it is left. -/
theorem exec_update_failed {s : State} {o : Op} (us : List TileUpset) (ho : runningOp s o.ctx o.idx 0x0900 = some o)
    (h : MayRun s o) (hg : (updOf o).gathered = uCount o.d)
    (hfail : prodFailed (updForm (setUpsets s o.ctx o.idx us) (o.withUpsets us)) o.ctx o.idx = true) :
    ∃ u q, exec (.update o.ctx o.idx us) s = .next u ∧ findOp u o.ctx o.idx = some q ∧
      q.ended.map (fun e => e.status) = some .checkFail ∧ (∀ e ∈ u.skid, (e.ctx, e.idx) ≠ (o.ctx, o.idx)) := by
  have hrun := h.setUpsets us
  obtain ⟨⟨z, hz, hst⟩, hskid⟩ := updForm_failed_spec (o := o.withUpsets us) hrun.found hrun.ended hfail
  have happly := updApply_failed (o := o.withUpsets us)
    (k := updUnitCount (setUpsets s o.ctx o.idx us) (nextParam (o.withUpsets us))) hfail
  have hend : z.ended.isSome = true := (prodFailed_found hz).symm.trans hfail
  have hturn := updTurn_ends hrun hg (by rw [happly]; exact hz) hend
  rw [exec_update us ho]
  refine ⟨_, _, congrArg (fun t => Host.Outcome.next (setUpsets t o.ctx o.idx [])) (hturn.trans happly),
    findOp_setUpsets [] hz, hst, hskid⟩

end Sys2Proof.Machine
end

section
/-!
SUPPORT. The parking of an ELASTIC UPDATE (R268, R276, R358).
-/

namespace Sys2Proof.Machine

/-- The PARKED entry leaves the operations, memory and the skid buffer. -/
theorem parkEntry_frame (s : State) (o : Op) (detail : Nat) : (parkEntry s o detail).ops = s.ops ∧
    (parkEntry s o detail).mem = s.mem ∧ (parkEntry s o detail).skid = s.skid := by
  have hframe : HostRings s (writeEntry s o.ctx (parkedEntry o detail)) := writeEntry_frame _ _ _
  exact ⟨(congrArg State.ops hframe).trans rfl, (congrArg State.mem hframe).trans rfl, (congrArg State.skid hframe).trans rfl⟩

/-- An operation that is no Truing operation parks: it is marked, and memory and the skid buffer stay. -/
theorem parkOp_frame {s : State} {o : Op} (g : Nat) (ho : findOp s o.ctx o.idx = some o) (ht : isTruing o = false) :
    (∃ n, findOp (parkOp s o g) o.ctx o.idx = some (o.park n)) ∧ (parkOp s o g).mem = s.mem ∧
      (parkOp s o g).skid = s.skid := by
  obtain ⟨n, hpark⟩ := parkOp_eq s o g
  have hsaved : parkSaved (updOp s o.ctx o.idx (Op.park n)) o = updOp s o.ctx o.idx (Op.park n) := by
    unfold parkSaved
    rw [ht]
    rfl
  have hfound : findOp (updOp s o.ctx o.idx (Op.park n)) o.ctx o.idx = some (o.park n) :=
    findOp_updOp_same s _ _ _ ho (fun _ => ⟨rfl, rfl⟩)
  rw [hpark, hsaved]
  split
  · exact ⟨⟨n, hfound⟩, rfl, rfl⟩
  · obtain ⟨hops, hmem, hskid⟩ := parkEntry_frame (updOp s o.ctx o.idx (Op.park n)) o (parkDetail o g)
    exact ⟨⟨n, (findOp_congr hops _ _).trans hfound⟩, hmem, hskid⟩

theorem isTruing_update {o : Op} (h : dOpcode o.d = 0x0900) : isTruing o = false := by
  unfold isTruing isTruWriter
  rw [h]
  decide

/-- An ELASTIC UPDATE after its slot completes units and then parks. -/
theorem exec_operationPark_update {s : State} {c i g : Nat} {o q : Op} {w : UpdWork} (ho : findOp s c i = some o)
    (he : o.ended = none) (hp : o.parked = false) (hop : dOpcode o.d = 0x0900) (hw : o.work = .upd w)
    (hr : runsElastic o.d = true) (hs : slotOver s o = true) (hq : findOp (updPark s o g) c i = some q) (hqe : q.ended = none) :
    exec (.operationPark c i g) s = .next (parkOp (updPark s o g) q g) := by
  have hpoint : atParkPoint s o = true := by
    unfold atParkPoint
    rw [hw]
  have hallowed : parkAllowed s o g = true := by
    unfold parkAllowed
    rw [isTruing_update hop]
    rfl
  show execOperationPark c i g s = _
  rw [execOperationPark, ho]
  dsimp only
  rw [if_pos (by simp [he, hp, hr, hs, hpoint, hallowed]), if_pos hop, hq]
  dsimp only
  rw [hqe]
  rfl

/-- An UPDATE that may not apply, or has the units asked for done, parks as it stands. -/
theorem updPark_still {s : State} {o : Op} {w : UpdWork} {g : Nat} (hw : o.work = .upd w)
    (h : (unitsHeld s || opWaits s o || !updMayApply s o || decide (g ≤ w.unit)) = true) : updPark s o g = s := by
  have hof : updOf o = w := by
    unfold updOf
    rw [hw]
  unfold updPark
  rw [if_pos]
  rw [hof]
  simpa using h

/-- An UPDATE that may apply completes units as far as `g`. -/
theorem updPark_goes {s : State} {o : Op} {g : Nat} (ho : findOp s o.ctx o.idx = some o) (hu : unitsHeld s = false)
    (hw : opWaits s o = false) (hm : updMayApply s o = true) (ha : auditDue s (uStep o.d) = false) (hg : (updOf o).unit < g) :
    updPark s o g = updApply s o g := by
  unfold updPark
  rw [if_neg (by simp [hu, hw, hm, hg]), updAudit_none ha]
  dsimp only
  rw [ho]
  rfl

section Partly
variable {s : State} {o : Op} {g : Nat} (ho : findOp s o.ctx o.idx = some o) (he : o.ended = none)
  (h3 : uOpt o.d ≠ 3) (hz : uZero o.d = false ∨ nextParam o ∉ (updOf o).late) (hd : decisionOf s (uStep o.d) = some false)
  (hlo : (updOf o).unit < g) (hhi : g < updUnitCount s (nextParam o)) (hs : s.canonical = true)
include ho he h3 hz hd hlo hhi hs

/-- Units completed before the last one: the UPDATE goes on from unit `g`, and the states hold what was written. -/
theorem updApply_partly : ∃ q, findOp (updApply s o g) o.ctx o.idx = some q ∧ q.d = o.d ∧ q.ended = none ∧
    q.ctx = o.ctx ∧ q.idx = o.idx ∧ q.work = .upd (updOf q) ∧
    (updOf q).unit = g ∧ (updOf q).applied = (updOf o).applied ∧ (updOf q).gathered = (updOf o).gathered ∧
    (updApply s o g).skid = s.skid ∧ (updApply s o g).mem = memWriteAll s.mem (spanPuts s o g) := by
  have hok := prodFailed_updForm_plain ho he h3
  obtain ⟨q, h⟩ := updForm_spec ho he hz hok
  obtain ⟨hctx, hidx⟩ := findOp_place h.found
  have hto : unitsTo s o g = g := by
    unfold unitsTo
    omega
  obtain ⟨hfound, hmem, hskid, -, -⟩ := updUnits_spec (s := updForm s o) (o := q) g false (by rw [hctx, hidx]; exact h.found)
  rw [hctx, hidx] at hfound
  rw [updApply_formed h hok hd, if_pos hhi, hto]
  refine ⟨_, hfound, h.desc, h.ended.trans he, hctx, hidx, rfl, rfl, h.applied, h.gathered, hskid.trans h.steady.skid, ?_⟩
  rw [if_neg (by decide), h.steady.mem, (h.sameSpan hs h3).spanPuts] at hmem
  exact hmem

/-- The master holds the new weights of the elements of the units completed. -/
theorem memBytes_partly (hapart : ∀ r ∈ (stateOuts s o.d (nextParam o)).tail, regionsMeet (roleRegion s (nextParam o) 0) r = false)
    {r c : Nat} (hr : r < pNrows s (nextParam o)) (hc : c < pNcols s (nextParam o))
    (hfrom : 8192 * (updOf o).unit ≤ r * pNcols s (nextParam o) + c) (hto : r * pNcols s (nextParam o) + c < 8192 * g) :
    memBytes (updApply s o g).mem (pMaster s (nextParam o) + r * f32Pitch (pNcols s (nextParam o)) + 4 * c) 4 =
      leBytes 4 (code32 (newElem s o r c).1) := by
  obtain ⟨q, -, -, -, -, -, -, -, -, -, -, hmem⟩ := updApply_partly ho he h3 hz hd hlo hhi hs
  have hcell : r * pNcols s (nextParam o) + c < pNrows s (nextParam o) * pNcols s (nextParam o) :=
    lt_of_lt_of_le (Nat.add_lt_add_left hc _) (by rw [← Nat.succ_mul]; exact Nat.mul_le_mul_right _ hr)
  have hread := memBytes_span (ws := []) (State.canonical_mem hs) hr hc hfrom
    (show _ < 8192 * (updOf o).unit + spanLen s o g by unfold spanLen; omega) hapart fun _ _ w hw => by cases hw
  rw [hmem]
  exact hread

end Partly

end Sys2Proof.Machine
end

section
/-!
SUPPORT. The skid buffer (R262 to R266): a grant, the end of a gradient's copy, and the bytes that the entry's pages hold.
-/

namespace Sys2Proof.Machine

/-! ### A grant -/

/-- A grant adds an entry and counts in the registers. -/
theorem skidGrant_frame (s : State) (q : SkidReq) :
    (skidGrant s q).skid = s.skid ++ [⟨q.ctx, q.idx, q.param, freePages s q.need, false⟩] ∧
      skidGrant s q = { s with skid := (skidGrant s q).skid, regs := (skidGrant s q).regs } := by
  have hregs : RegsOnly { s with skid := s.skid ++ [⟨q.ctx, q.idx, q.param, freePages s q.need, false⟩] } (skidGrant s q) :=
    setF_regsOnly _ landABase (f := Reg.skidEntries_peak) 0 _ (by decide)
  have hskid : (skidGrant s q).skid = s.skid ++ [⟨q.ctx, q.idx, q.param, freePages s q.need, false⟩] :=
    (congrArg State.skid hregs).trans rfl
  refine ⟨hskid, ?_⟩
  rw [hskid]
  exact hregs

/-- SKID_GRANT with a request that waits. -/
theorem exec_skidGrant {s : State} {q : SkidReq} {rest : List SkidReq} (h : s.skidQ = q :: rest) :
    exec .skidGrant s = .next (if skidFits s q.need then skidGrant { s with skidQ := rest } q else s) := by
  show execSkidGrant s = _
  rw [execSkidGrant, h]

/-! ### Gathering on -/

/-- The operation of a place is there, without ZERO_GRAD. -/
def NoZero (c i : Nat) (s : State) : Prop := ∃ o, findOp s c i = some o ∧ uZero o.d = false

/-- `t` keeps the skid entries of `s`, and its memory where the operation of a place has no ZERO_GRAD. -/
structure SkidKept (c i : Nat) (s t : State) : Prop where
  entries : ∀ e ∈ s.skid, e ∈ t.skid
  plain : NoZero c i s → NoZero c i t ∧ t.mem = s.mem

namespace SkidKept
variable {c i : Nat}

theorem refl (s : State) : SkidKept c i s s := ⟨fun _ h => h, fun h => ⟨h, rfl⟩⟩

theorem trans {s t u : State} (h : SkidKept c i s t) (k : SkidKept c i t u) : SkidKept c i s u :=
  ⟨fun e he => k.entries e (h.entries e he), fun hz =>
    ⟨(k.plain (h.plain hz).1).1, (k.plain (h.plain hz).1).2.trans (h.plain hz).2⟩⟩

/-- A change that leaves the operations and memory, and takes no entry away. -/
theorem of_ops {s t : State} (he : ∀ e ∈ s.skid, e ∈ t.skid) (ho : t.ops = s.ops) (hm : t.mem = s.mem) : SkidKept c i s t :=
  ⟨he, fun ⟨o, hf, hz⟩ => ⟨⟨o, (findOp_congr ho c i).trans hf, hz⟩, hm⟩⟩

theorem setUpd (s : State) (f : UpdWork → UpdWork) : SkidKept c i s (setUpd s c i f) :=
  ⟨fun _ h => h, fun ⟨_, hf, hz⟩ => ⟨⟨_, findOp_setUpd f hf, hz⟩, rfl⟩⟩

theorem relCheck (s : State) : SkidKept c i s (relCheck s c i) := by
  rcases relCheck_cases s c i with h | ⟨n, h⟩
  · rw [h]
    exact refl s
  · rw [h]
    have hsem : SkidKept c i s (semAdd s n 1) := of_ops (fun _ h => h) rfl rfl
    exact hsem.trans (setUpd _ _)

theorem zeroGrad {s : State} {o : Op} (ho : findOp s c i = some o) (p : Nat) : SkidKept c i s (zeroGrad s o.d p) := by
  have hskid : ∀ ws, (wrMem s ws).skid = s.skid := fun _ => rfl
  unfold Machine.zeroGrad
  split
  · next hz =>
    refine ⟨fun e he => by rwa [hskid], fun ⟨x, hx, hxz⟩ => ?_⟩
    obtain rfl : o = x := Option.some_inj.mp (ho.symm.trans hx)
    rw [hz] at hxz
    cases hxz
  · exact refl s

theorem skidGrant (s : State) (q : SkidReq) : SkidKept c i s (skidGrant s q) := by
  obtain ⟨hskid, hframe⟩ := skidGrant_frame s q
  refine of_ops (fun e he => ?_) ((congrArg State.ops hframe).trans rfl) ((congrArg State.mem hframe).trans rfl)
  rw [hskid]
  exact List.mem_append_left _ he

/-- A request that is refused waits and is counted. -/
theorem queued (s : State) (q : SkidReq) :
    SkidKept c i s (countA { s with skidQ := s.skidQ ++ [q] } Reg.skidFull_count 1) :=
  of_ops (fun e he => by rw [countA, countF_skid]; exact he) (countF_ops _ _ _ _ _) (countF_mem _ _ _ _ _)

end SkidKept

/-- A gradient noted, zeroed where it is asked for, and released where it is due. -/
theorem SkidKept.gathered {s : State} {c i : Nat} {o : Op} (ho : findOp s c i = some o) (f : UpdWork → UpdWork) (p : Nat) :
    SkidKept c i s (Machine.relCheck (Machine.zeroGrad (Machine.setUpd s c i f) o.d p) c i) :=
  ((SkidKept.setUpd s f).trans (.zeroGrad (findOp_setUpd f ho) p)).trans (.relCheck _)

/-- Gathering keeps the entries that there are, and without ZERO_GRAD memory. -/
theorem updGather_skidKept (n : Nat) (s : State) (c i : Nat) : SkidKept c i s (updGather n s c i) := by
  induction n generalizing s with
  | zero => exact .refl s
  | succ n ih =>
    unfold updGather
    cases ho : findOp s c i with
    | none => exact .refl s
    | some o =>
      dsimp only
      split
      · exact .refl s
      · split
        · split
          · exact (SkidKept.setUpd s _).trans (ih _)
          · split
            · exact (SkidKept.setUpd s _).trans (.skidGrant _ _)
            · exact (SkidKept.setUpd s _).trans (.queued _ _)
        · exact (SkidKept.gathered ho _ _).trans (ih _)

/-! ### A copy that ends -/

/-- The state in which a copy's bytes are written and its entry is marked. -/
def copyMarked (s : State) (e : SkidEntry) : State :=
  { wrMem s (skidWrites s e.pages (packedRole s e.param 2)) with
    skid := s.skid.map (fun f => if f.ctx == e.ctx && f.idx == e.idx && f.param == e.param then { f with copied := true } else f) }

theorem mem_copyMarked {s : State} {e : SkidEntry} (he : e ∈ s.skid) : { e with copied := true } ∈ (copyMarked s e).skid :=
  List.mem_map.mpr ⟨e, he, by simp⟩

/-- Progress with the copy under way ended. -/
def UpdWork.copied (w : UpdWork) : UpdWork := { w with gathered := w.gathered + 1, asked := false }

/-- After a copy its UPDATE gathers on. -/
theorem skidCopied_eq {s : State} {e : SkidEntry} {o : Op} (ho : findOp s e.ctx e.idx = some o) :
    skidCopied s e = updGather (uCount o.d + 1) (relCheck (zeroGrad (setUpd (copyMarked s e) e.ctx e.idx UpdWork.copied) o.d e.param)
      e.ctx e.idx) e.ctx e.idx := by
  unfold skidCopied
  rw [ho]
  rfl

/-- After a copy its entry is marked, and without ZERO_GRAD memory is as the copy wrote it. -/
theorem skidCopied_spec {s : State} {e : SkidEntry} {o : Op} (ho : findOp s e.ctx e.idx = some o) :
    SkidKept e.ctx e.idx (copyMarked s e) (skidCopied s e) := by
  have ho' : findOp (copyMarked s e) e.ctx e.idx = some o := (findOp_congr rfl _ _).trans ho
  rw [skidCopied_eq ho]
  exact (SkidKept.gathered ho' UpdWork.copied e.param).trans (updGather_skidKept _ _ _ _)

/-- SKID_COPY_DONE where a copy is under way. -/
theorem exec_skidCopyDone {s : State} {e : SkidEntry} (he : s.skid.find? (fun e => !e.copied) = some e)
    (hu : unitsHeld s = false) : exec .skidCopyDone s = .next (skidCopied s e) := by
  show execSkidCopyDone s = _
  rw [execSkidCopyDone, hu, he]
  rfl

/-! ### The bytes of an entry -/

/-- The bytes that page `k` of an entry's gradient takes. -/
def pageBytes (bs : List Byte) (k : Nat) : List Byte := (bs.drop (4096 * k)).take 4096

/-- The writes of a gradient: byte `b` of page `k` at its place. -/
theorem mem_skidWrites {s : State} {pages : List Nat} {bs : List Byte} {w : Host.Cell} : w ∈ skidWrites s pages bs ↔
    ∃ k, ∃ hk : k < pages.tail.length, ∃ b, b < (pageBytes bs k).length ∧
      w = (skidPage s pages.tail[k] + b, (pageBytes bs k).getD b 0) := by
  have hitem : ∀ x, x ∈ (List.range (pages.length - 1)).zip pages.tail ↔
      ∃ k, ∃ hk : k < pages.tail.length, x = (k, pages.tail[k]) := by
    intro x
    rw [List.mem_iff_getElem]
    constructor
    · rintro ⟨k, hk, rfl⟩
      exact ⟨k, by simpa using hk, by simp⟩
    · rintro ⟨k, hk, rfl⟩
      exact ⟨k, by simpa using hk, by simp⟩
  unfold skidWrites
  simp only [List.mem_flatMap, hitem, mem_bytesWrites]
  constructor
  · rintro ⟨_, ⟨k, hk, rfl⟩, b, hb, rfl⟩
    exact ⟨k, hk, b, hb, rfl⟩
  · rintro ⟨k, hk, b, hb, rfl⟩
    exact ⟨_, ⟨k, hk, rfl⟩, b, hb, rfl⟩

theorem length_pageBytes_le (bs : List Byte) (k : Nat) : (pageBytes bs k).length ≤ 4096 := List.length_take_le _ _

theorem getD_pageBytes (bs : List Byte) (k : Nat) {b : Nat} (hb : b < 4096) : (pageBytes bs k).getD b 0 = bs.getD (k * 4096 + b) 0 := by
  unfold pageBytes
  simp [List.getD_eq_getElem?_getD, List.getElem?_drop, hb, Nat.mul_comm]

/-- Places of pages that agree are the same place of the same page. -/
theorem skidPage_inj {s : State} {g g' b b' : Nat} (hb : b < 4096) (hb' : b' < 4096) (e : skidPage s g + b = skidPage s g' + b') :
    g = g' ∧ b = b' := by
  unfold skidPage at e
  exact row_places_inj (Nat.le_refl 4096) hb hb' (by omega)

/-- A byte of a gradient reads back from its page. -/
theorem memRead_skidWrites {s : State} {m : List Host.Cell} {pages : List Nat} {bs : List Byte} {k b : Nat} (hm : memWf m = true)
    (hnd : pages.Nodup) (hk : k < pages.tail.length) (hb : b < (pageBytes bs k).length) :
    memRead (memWriteAll m (skidWrites s pages bs)) (skidPage s pages.tail[k] + b) = (pageBytes bs k).getD b 0 := by
  refine memRead_writeAll_agree hm (fun w hw e => ?_) ⟨_, mem_skidWrites.mpr ⟨k, hk, b, hb, rfl⟩, rfl⟩
  obtain ⟨k', hk', b', hb', rfl⟩ := mem_skidWrites.mp hw
  obtain ⟨hg, rfl⟩ := skidPage_inj (lt_of_lt_of_le hb' (length_pageBytes_le _ _)) (lt_of_lt_of_le hb (length_pageBytes_le _ _)) e
  obtain rfl : k' = k := (hnd.tail.getElem_inj_iff).mp hg
  rfl

/-- The pages behind the header page hold the bytes written. -/
theorem memBytes_skidWrites {s : State} {m : List Host.Cell} {pages : List Nat} {bs : List Byte} (hm : memWf m = true)
    (hnd : pages.Nodup) (hlen : bs.length ≤ 4096 * pages.tail.length) :
    (pages.tail.flatMap (fun g => memBytes (memWriteAll m (skidWrites s pages bs)) (skidPage s g) 4096)).take bs.length = bs := by
  have hpage : ∀ g ∈ pages.tail, (memBytes (memWriteAll m (skidWrites s pages bs)) (skidPage s g) 4096).length = 4096 :=
    fun _ _ => by simp [memBytes]
  have hall : (pages.tail.flatMap (fun g => memBytes (memWriteAll m (skidWrites s pages bs)) (skidPage s g) 4096)).length =
      pages.tail.length * 4096 := by simp [List.length_flatMap, memBytes]
  refine List.ext_getElem (by rw [List.length_take, hall]; omega) fun j h1 h2 => ?_
  obtain ⟨k, b, hb, rfl⟩ : ∃ k b, b < 4096 ∧ j = k * 4096 + b := ⟨j / 4096, j % 4096, Nat.mod_lt _ (by decide), by omega⟩
  have hk : k < pages.tail.length := by omega
  have hin : b < (pageBytes bs k).length := by
    unfold pageBytes
    rw [List.length_take, List.length_drop]
    omega
  rw [List.getElem_take, ← List.getD_eq_getElem _ 0, getD_flatMap hpage hk hb]
  have hread : (memBytes (memWriteAll m (skidWrites s pages bs)) (skidPage s pages.tail[k]) 4096).getD b 0 =
      memRead (memWriteAll m (skidWrites s pages bs)) (skidPage s pages.tail[k] + b) := by simp [memBytes, hb]
  rw [hread, memRead_skidWrites hm hnd hk hin, getD_pageBytes bs k hb, List.getD_eq_getElem _ _ h2]

/-- The packed values of a role take four bytes an element. -/
theorem length_packedRole (s : State) (p role : Nat) : (packedRole s p role).length = 4 * pNrows s p * pNcols s p := by
  have hrows : (roleRegion s p role).rows = pNrows s p := rfl
  have hlen : (roleRegion s p role).len = 4 * pNcols s p := rfl
  simp only [packedRole, regionBytes, regionRows, List.length_flatMap, List.map_map, Function.comp_def, memBytes, List.length_map,
    List.length_range, List.map_const', List.sum_replicate, hrows, hlen]
  rw [smul_eq_mul, Nat.mul_left_comm, Nat.mul_assoc]

/-- Without ZERO_GRAD the pages of a copy that has ended hold the gradient. -/
theorem skidCopied_bytes {s : State} {e : SkidEntry} {o : Op} (hm : memWf s.mem = true) (ho : findOp s e.ctx e.idx = some o)
    (hz : uZero o.d = false) (hnd : e.pages.Nodup) (hlen : e.pages.length = skidNeed s e.param) :
    (e.pages.tail.flatMap (fun g => memBytes (skidCopied s e).mem (skidPage s g) 4096)).take (4 * pNrows s e.param * pNcols s e.param) =
      packedRole s e.param 2 := by
  have hmem : (skidCopied s e).mem = memWriteAll s.mem (skidWrites s e.pages (packedRole s e.param 2)) :=
    ((skidCopied_spec ho).plain ⟨o, ho, hz⟩).2
  have hneed : 4 * pNrows s e.param * pNcols s e.param ≤ 4096 * e.pages.tail.length := by
    rw [List.length_tail, hlen]
    unfold skidNeed ceilDiv
    omega
  have hread := memBytes_skidWrites (s := s) (bs := packedRole s e.param 2) hm hnd (by rwa [length_packedRole])
  rw [length_packedRole] at hread
  rw [hmem]
  exact hread

end Sys2Proof.Machine
end

section
/-!
O51. UPDATE, UPDATE_SKID_APPLY, SKID_GRANT, SKID_COPY_DONE and the parking of an UPDATE (R189, R255, R257, R262, R263, R266, R267,
R276).
-/

namespace Sys2Proof.Machine

/-- Settles O51: the last parameter's units, its working copy and SEQ are written where the statement says and nowhere else; a
failing product frees the skid entries; parking keeps the progress; a grant and a copy's end change the skid buffer. -/
theorem updateAppliesParameters : Obligations.UpdateAppliesParameters := by
  refine ⟨?applies, ?fails, ?parks, ?parksPartly, ?grant, ?copied⟩
  case applies =>
    intro s c i o skip hs ho hslot hu hm ha hg hl hd hn hok p n m record states out hz
    obtain ⟨rfl, rfl, hrun⟩ := mayRun_of_running ho hslot hu hm ha
    have hok' : prodFailed (updForm s o) o.ctx o.idx = false := by
      by_cases h3 : uOpt o.d = 3
      · exact hok h3
      · exact prodFailed_updForm_plain hrun.found hrun.ended h3
    obtain ⟨q, hf⟩ := updForm_spec hrun.found hrun.ended hz hok'
    obtain ⟨z, hfound, hend, hreruns, hmem, -⟩ := updApply_last_spec hf hok' hd hl
    refine ⟨_, z, exec_update_last ho hrun hf hok' hd hl hg hn, exec_updateSkidApply_last ho hrun hf hok' hd hl,
      fun h3 => exec_update_last_plain ho hrun hf hok' hd hl hg hn h3 hz, hfound, hend, hreruns, ?_⟩
    rw [hmem]
    exact ⟨memNat_last hf hs, fun hskip a => memRead_last_skipped hf hs hskip,
      fun hskip hapart a => memRead_last hf hs hapart hskip,
      fun hskip h3 hmaster hapart r k => memBytes_last hf hs hapart hskip h3 hmaster⟩
  case fails =>
    intro s c i o us ho hslot hu hm ha hg hfail
    obtain ⟨rfl, rfl, hrun⟩ := mayRun_of_running ho hslot hu hm ha
    exact exec_update_failed us ho hrun hg hfail
  case parks =>
    intro s c i g o w ho he hp hop hw hr hs h
    obtain ⟨rfl, rfl⟩ := findOp_place ho
    have hpark := updPark_still hw h
    have hexec := exec_operationPark_update ho he hp hop hw hr hs (by rw [hpark]; exact ho) he
    obtain ⟨⟨n, hfound⟩, hmem, hskid⟩ := parkOp_frame g ho (isTruing_update hop)
    rw [hpark] at hexec
    refine ⟨_, _, hexec, hfound, rfl, rfl, hmem, hskid, ?_⟩
    unfold parkDetail
    rw [hw]
  case parksPartly =>
    intro s c i g o w hs ho he hp hop hw hr hslot hu hwait hm ha hd h3 p n hlo hhi hz hapart
    obtain ⟨rfl, rfl⟩ := findOp_place ho
    have hof : updOf o = w := by
      unfold updOf
      rw [hw]
    subst hof
    obtain ⟨q, hq, hdesc, hqe, hctx, hidx, hwork, hunit, happlied, hgathered, hskid, -⟩ :=
      updApply_partly ho he h3 hz hd hlo hhi hs
    have hpark := updPark_goes ho hu hwait hm ha hlo
    have hexec := exec_operationPark_update ho he hp hop hw hr hslot (by rw [hpark]; exact hq) hqe
    obtain ⟨⟨x, hfound⟩, hmem, hkept⟩ := parkOp_frame g (by rw [hctx, hidx]; exact hq) (isTruing_update (by rwa [hdesc]))
    rw [hctx, hidx] at hfound
    rw [hpark] at hexec
    refine ⟨_, _, _, hexec, hfound, rfl, hqe, hwork, hunit, happlied, hgathered, hkept.trans hskid, fun r k hrow hcol h1 h2 => ?_⟩
    rw [hmem]
    exact memBytes_partly ho he h3 hz hd hlo hhi hs hapart hrow hcol h1 h2
  case grant =>
    intro s q rest hq
    have hexec := exec_skidGrant hq
    refine ⟨fun hfit => ?_, fun hfit => ?_⟩
    · obtain ⟨hskid, hframe⟩ := skidGrant_frame { s with skidQ := rest } q
      rw [hfit] at hexec
      exact ⟨_, hexec, (congrArg State.skidQ hframe).trans rfl, hskid, hframe⟩
    · rw [hfit] at hexec
      exact hexec
  case copied =>
    intro s e o hm he ho hu
    refine ⟨_, exec_skidCopyDone he hu, (skidCopied_spec ho).entries _ (mem_copyMarked (List.mem_of_find?_eq_some he)),
      fun hz hnd hlen => skidCopied_bytes hm ho hz hnd hlen⟩

end Sys2Proof.Machine
end
